-- ==== Sys2Proof/Word.lean ====
section
/-!
DEFINITION. Word.lean: the register word (R6: every register is 64 bits wide) and the byte.
-/

namespace Sys2Proof

/-- A register value (R6). -/
abbrev Word := BitVec 64

/-- One byte of memory, of a frame or of a payload. -/
abbrev Byte := BitVec 8

end Sys2Proof
end

