-- ==== Sys2Proof/Syntax.lean ====
section
/-!
DEFINITION. Syntax.lean: the commands of the block, one constructor per row of the table of operations and events. A row that
is a register write carries the initiator, the page's instance where it has several, and the 64-bit value written; a row
that is an event carries what arrives from outside the device (levels, bytes, results of external agents).
-/

namespace Sys2Proof

/-- The initiator of a bus access (R574, INITIATOR). -/
inductive Initiator where
  /-- host core `core`, code 0 -/
  | hostCore (core : Fin 8)
  /-- inbound PCIe, code 1 -/
  | pcie
  /-- the model loader, code 2 -/
  | loader
  /-- the debug system bus, code 3 -/
  | debugBus
  /-- Saggar, code 4 -/
  | saggar
  /-- another device block, code 5 -/
  | block
  deriving DecidableEq, Repr

/-- One access to the physical address map (R6, R35). -/
inductive Access where
  /-- a load of `size` bytes -/
  | load (size : Nat)
  /-- a store of the low `size` bytes of `v` -/
  | store (size : Nat) (v : Word)
  /-- a read of `n` bytes by a block or a line fill -/
  | readBytes (n : Nat)
  /-- a write of bytes by a block -/
  | writeBytes (bytes : List Byte)
  /-- an AMO, LR or SC of `size` bytes by a hart, with the value that it stores -/
  | amo (size : Nat) (v : Word)
  deriving DecidableEq, Repr

/-- What the memory's codes and parity find at an access besides what the model's memory already holds (R455, R456):
the number of failed tries, and an upset of the stored word. -/
structure Upset where
  /-- tries that failed with a parity error before one succeeded -/
  retries : Nat := 0
  /-- an upset the stored word has taken: 0 none, 1 one symbol, 2 two symbols -/
  damage : Fin 3 := 0
  /-- R218: the byte of a surface word that has taken it -/
  byte : Fin 4 := 0
  deriving DecidableEq, Repr

/-- R218: an upset of a surface word that a block's read finds: the pixel, the bytes, and whether they are uncorrectable. -/
structure PixelUpset where
  x : BitVec 11
  y : BitVec 11
  bytes : BitVec 4
  uncorr : Bool
  deriving DecidableEq, Repr

/-- A scheduled item (R82): what it belongs to. -/
inductive ItemId where
  /-- the alarm of base `p` (R86) -/
  | alarm (p : Fin 8)
  /-- NET_PPS_NEXT (R103) -/
  | pps
  /-- the calendar entry `slot` (R192) -/
  | calendar (slot : Nat)
  /-- the end of the open window of port `n` (R438) -/
  | window (n : Fin 8)
  /-- the rebase item of context `c` of kiln `k` (R384) -/
  | rebase (k : Fin 6) (c : Fin 2)
  /-- Cone-mode recovery (R325) -/
  | recovery
  deriving DecidableEq, Repr

/-- A trip or pixel input of the reflex path (R177). -/
inductive RuleSource where
  /-- the front words of one RFX cycle: each port's number of them -/
  | front (ports : List (Fin 8 × Nat))
  /-- a rising trip of minimum-phase channel `m` -/
  | trip (m : Fin 16)
  deriving DecidableEq, Repr

/-- R205: how a lane's actions of one RFX cycle differ from its rules: it misses every action, or it takes one of rule `r`. -/
inductive LaneFault where
  | misses
  | acts (r : Fin 256)
  deriving DecidableEq, Repr

/-- One RFX cycle of the rules: its input, and a lane whose actions of the cycle differ (R205). -/
structure RuleCycle where
  src : RuleSource
  fault : Option (Fin 3 × LaneFault) := none
  deriving DecidableEq, Repr

/-- R57, R62: a sample of Z of an ENC input. -/
structure ZSample where
  input : Fin 8
  level : Bool
  deriving DecidableEq, Repr

/-- What the receiver's check of a packet header found (R116). -/
inductive HdrCheck where
  | good | corrected | bad
  deriving DecidableEq, Repr

/-- R115: a packet header: virtual channel, data type, word count (a short packet's data field), and the outcome of its
check (R116). -/
structure CsiHeader where
  vc : BitVec 4
  dt : BitVec 6
  wc : BitVec 16
  check : HdrCheck
  deriving DecidableEq, Repr

/-- A result of an agent outside the part, or of a check, that a completion event carries. -/
inductive CciResult where
  | done | nackAddr | nackData | arbLost | stretch
  deriving DecidableEq, Repr

/-- How a command reaches Saggar (R539, R541): by SGR_CMD with the argument and output registers, or by the TAP mailbox with
its argument shifted in. -/
inductive SgrVia where
  | host (ini : Initiator) (cq : Fin 64)
  | tap (arg : List Byte)
  deriving DecidableEq, Repr

/-- R541: what a debugger does with a hart. -/
inductive HartOp where
  | halt | resume | access
  deriving DecidableEq, Repr

/-- R454: how HBM training ended: the rate (MEM_CFG.RATE) and, by controller, each lane repaired. -/
structure Train where
  rate : Fin 3
  repaired : List (Fin 16) := []
  deriving DecidableEq, Repr

/-- One command of the block: a row of the table of operations and events. -/
inductive Instr where
  -- registers and pages
  | registerWrite (ini : Initiator) (addr size : Nat) (v : Word)
  | rcRead (ini : Initiator) (addr size : Nat)
  | physicalAccess (ini : Initiator) (addr : Nat) (acc : Access) (up : Upset)
  | pageReset (ini : Initiator) (page : Nat)
  | pageResetComplete (page : Nat)
  | pageEnable (ini : Initiator) (page : Nat)
  | pageDisable (ini : Initiator) (page : Nat)
  | pageQuiesce (ini : Initiator) (page : Nat)
  | pgIrqSet (ini : Initiator) (page : Nat) (v : Word)
  | powerOnReset
  | strapSample (straps : BitVec 4)
  -- position time bases and stamp maps
  /-- a sample of ENC input `e`, with the levels of A and B -/
  | encoderEdge (e : Fin 8) (a b : Bool)
  | zEdge (z : ZSample)
  | mainsZeroCross (m : Fin 2)
  | ptbRun (ini : Initiator) (p : Fin 8) (v : Word)
  | ptbStop (ini : Initiator) (p : Fin 8) (v : Word)
  | ptbSrcDefaults (ini : Initiator) (p : Fin 8) (v : Word)
  | snap (ini : Initiator) (p : Fin 8)
  | forceStep (ini : Initiator) (p : Fin 8)
  | acceptSlew (ini : Initiator) (p : Fin 8)
  | armHome (ini : Initiator) (p : Fin 8)
  | clearServo (ini : Initiator) (p : Fin 8)
  | offsetSubmit (ini : Initiator) (p : Fin 8) (v : Word)
  | holdoverTimeout (p : Fin 8)
  | slewDone (p : Fin 8)
  | standstill (p : Fin 8)
  | histSample (p : Fin 8)
  | scheduledItemDue (item : ItemId)
  | tmapEnable (ini : Initiator) (n : Fin 8) (v : Word)
  | tmapIntervalEnd (n : Fin 8)
  -- network
  | netModeChange (ini : Initiator) (q : Fin 2) (v : Word)
  | netPtpDisable (ini : Initiator) (q : Fin 2) (v : Word)
  | netLinkChange (q : Fin 2) (up : Bool)
  | netFrameRx (q : Fin 2) (frame : List Byte) (fcsOk : Bool)
  | netTxTail (ini : Initiator) (q : Fin 2) (ring : Fin 4) (v : Word)
  | netFrameTx (q : Fin 2)
  | netTxtsPop (ini : Initiator) (q : Fin 2)
  | ppsOutEnable (ini : Initiator) (v : Word)
  | ppsOutPulseEnd
  | ppsInEdge
  | streamEnable (ini : Initiator) (q : Fin 2) (st : Fin 16) (v : Word)
  | streamDatagramSend (q : Fin 2) (st : Fin 16)
  | streamFlushTimeout (q : Fin 2) (st : Fin 16)
  -- sensor ports and ingress queues
  /-- `uc`: a microcode entry that the front decoder reads with an error, and whether it is uncorrectable (R133) -/
  | csi2PacketRx (p : Fin 8) (header : Option CsiHeader) (payload : List Byte) (uc : Option (Fin 255 × Bool))
  | packetCrcResult (p : Fin 8) (ok : Bool)
  | packetTruncated (p : Fin 8)
  | spEnable (ini : Initiator) (p : Fin 8) (v : Word)
  | spDisable (ini : Initiator) (p : Fin 8) (v : Word)
  | cciTransfer (ini : Initiator) (p : Fin 8) (v : Word)
  | cciDone (p : Fin 8) (r : CciResult) (bytes : List Byte)
  | ieqTailTimeout (p : Fin 8)
  /-- `parity`: what the parity check finds at the entry, 0 nothing, 1 a lane, 2 the tag (R140); `uc`: R133 -/
  | ieqEntryRead (p : Fin 8) (parity : Fin 3) (uc : Option (Fin 255 × Bool))
  | dropPkt (ini : Initiator) (p : Fin 8)
  | ieqPop (ini : Initiator) (p : Fin 8) (parity : Fin 3)
  | ieqRawDmaGo (ini : Initiator) (p : Fin 8) (v : Word)
  | rawDmaIdleTimeout (p : Fin 8)
  | rawDmaDone (p : Fin 8)
  -- Sieve and admission
  | sieveEvent (p : Fin 8) (up : Option PixelUpset)
  | hotMaskLoad (ini : Initiator) (p : Fin 8) (v : Word)
  | hotMaskLoadDone (p : Fin 8)
  | admWindowReload
  | admPortEnable (ini : Initiator) (p : Fin 8) (v : Word)
  | admHeadDecision (p : Fin 8)
  | ingressSpoolDrain
  -- reflex path and trigger calendar
  | ruleEnable (ini : Initiator) (r : Fin 256) (v : Word)
  | ruleDisable (ini : Initiator) (r : Fin 256) (v : Word)
  | ruleInput (cyc : RuleCycle)
  | pulseEnd (o : Fin 32)
  | rfxCrcResult (p : Fin 8)
  | tcalSwGo (ini : Initiator)
  | tcalFlush (ini : Initiator) (v : Word)
  | coreHeartbeat
  | deadmanFire
  | rearm (ini : Initiator)
  | selftest (ini : Initiator)
  | selftestDone (fail : Bool)
  | voterSignatureCheck (minority : Option (Fin 3))
  | laneResyncDone
  /-- `word`: the lane and the word of its rule store and calendar in which the walker finds an error (R206) -/
  | eccWalk (word : Option (Fin 3 × Fin 20480)) (uncorr : Bool)
  | outputFault (o : Fin 32)
  | reflexRecordDrain
  -- surface store, Chord units
  | sfsFillDone (p : Fin 8)
  | sfsFreeDone (p : Fin 8)
  | epochSweepStart (p : Fin 8)
  | epochVisit (p : Fin 8) (up : Option PixelUpset)
  | chordTest (p : Fin 8) (up : Option PixelUpset)
  -- Locus tracker
  /-- `cache`: a slot whose Locus cache word is in error, and whether it is uncorrectable (R239, R240) -/
  | locusRecord (cache : Option (Fin 4194304 × Bool))
  | ageingSweepVisit
  | ageingSweepEnd
  | objectBinding (p : Fin 8)
  | locClear (ini : Initiator)
  | locClearDone
  | locFlush (ini : Initiator)
  -- lattice, Annulus, spike fabric, Wheel and Cone
  | latticeStep (k : Fin 6)
  | journalFullWait (k : Fin 6)
  | leakSweepVisit (k : Fin 6)
  | courseSwap (k : Fin 6)
  | courseSwapDone (k : Fin 6)
  | routerPacket (r : Fin 8)
  | routerStall (r : Fin 8) (port : Nat)
  | kilnPacketIn (k : Fin 6)
  | floorUpdate
  | countWindowClose (k : Fin 6)
  | whlEnable (ini : Initiator) (v : Word)
  | whlDisable (ini : Initiator) (v : Word)
  | toCone (ini : Initiator)
  | toWheel (ini : Initiator)
  | coneBarrier
  | drainComplete
  | rtWrite (ini : Initiator) (r : Fin 8)
  | rtRead (ini : Initiator) (r : Fin 8)
  | rtLoad (ini : Initiator) (r : Fin 8) (v : Word)
  | rtLoadDone (r : Fin 8)
  | egressRelease
  -- facet arrays, incremental layers, detection
  | fctTailWrite (ini : Initiator) (k : Fin 6) (v : Word)
  | descriptorStart (k : Fin 6)
  | descriptorDone (k : Fin 6)
  | fctResume (ini : Initiator) (k : Fin 6)
  | incEventApply (k : Fin 6) (c : Fin 2)
  | rebaseStart (k : Fin 6) (c : Fin 2)
  | rebaseRowStep (k : Fin 6) (c : Fin 2)
  | rebaseDone (k : Fin 6) (c : Fin 2)
  | incRebase (ini : Initiator) (k : Fin 6) (c : Fin 2)
  | incClear (ini : Initiator) (k : Fin 6) (c : Fin 2) (v : Word)
  | incClearDone (k : Fin 6) (c : Fin 2)
  | incEnable (ini : Initiator) (k : Fin 6) (c : Fin 2) (v : Word)
  | readout (k : Fin 6) (c : Fin 2)
  | readoutDone (k : Fin 6) (c : Fin 2)
  | detectionPass (k : Fin 6) (c : Fin 2)
  | detectionPassDone (k : Fin 6) (c : Fin 2)
  -- rate chain
  | rchBinClose
  | rateRecordTimeout (ch : Fin 2048)
  | rchRun (ini : Initiator) (v : Word)
  | rchStop (ini : Initiator) (v : Word)
  | rchMapLoad (ini : Initiator) (v : Word)
  | rchMapLoadDone
  -- models, ledger, results
  | modelLoad (ini : Initiator) (v : Word)
  | modelPatch (ini : Initiator) (v : Word)
  | modelLoadDone
  | completionPost
  | ledgerTimeout (item : Fin 16384)
  | ldgCtlWrite (ini : Initiator) (v : Word)
  | cqEnable (ini : Initiator) (q : Fin 64) (v : Word)
  | winModeEnable (ini : Initiator) (p : Fin 8) (v : Word)
  | ringEnable (ini : Initiator) (k : Fin 32) (v : Word)
  | windowClose (p : Fin 8)
  | windowCloseByTime (p : Fin 8)
  | windowChainStepDone (p : Fin 8)
  | batchFlushTimeout (p : Fin 8) (kind : Fin 3)
  -- memory
  | hbmRecal (c : Fin 16)
  | mergeFlush (pc : Fin 32)
  | bucketLeak (b : Fin 39)
  | bucketEnable (ini : Initiator) (b : Fin 39) (v : Word)
  | scrub (ini : Initiator) (v : Word)
  | fill (ini : Initiator) (v : Word)
  | scbDone
  | hbmTempRead (temp : BitVec 8)
  | throttleUpdate
  -- twin pairing
  | wthEnable (ini : Initiator) (v : Word)
  | wthDisable (ini : Initiator) (v : Word)
  | yield (ini : Initiator)
  | heartbeatSend
  | timeSend (p : Fin 8)
  | heartbeat (frame : List Byte) (crcOk : Bool)
  | time (frame : List Byte) (crcOk : Bool)
  | locus (frame : List Byte) (crcOk : Bool)
  | ledger (frame : List Byte) (crcOk : Bool)
  | arb (frame : List Byte) (crcOk : Bool)
  | nak (frame : List Byte) (crcOk : Bool)
  | woethLinkDown (lane : Fin 4)
  | woethLinkUp
  | peerLost
  | aliveInEdge
  | claimWindowEnd
  | backoffEnd
  | aliasExpire
  | cmpEntryTimeout
  -- power
  | enterWatch (ini : Initiator)
  | enterSlumber (ini : Initiator)
  | enterDormant (ini : Initiator)
  | wake (ini : Initiator)
  | pageAnswer (coresReady : Bool)
  | deferTimeout
  | rollbackDone
  | entryStepDone
  | wakePin
  | alarmWake (p : Fin 8)
  | mgmtWake
  | mgmtStatusRead
  | core0HbmWake
  | exitStepDone (tr : Train)
  | regulatorTimeout (pgLow : BitVec 7)
  | regulatorRetry
  | oscillatorTimeout (refMhz : BitVec 8)
  | memoryTimeout (failed : List (Fin 16))
  | logicTimeout
  | dvfsRequest (ini : Initiator) (v : Word)
  | dvfsRaiseWait
  | railFault (out : Fin 7)
  | thermtrip
  -- Saggar
  | bootStage0 (authentic : Bool)
  | bootStage1
  | status
  | enroll
  | getId (via : SgrVia)
  | quote (via : SgrVia)
  | extend (via : SgrVia)
  | seal (via : SgrVia)
  | lockset (via : SgrVia)
  | derive (via : SgrVia)
  | challenge (via : SgrVia)
  | respond (via : SgrVia)
  | returnEraseDone
  | close (via : SgrVia)
  | setOwner (via : SgrVia)
  | raiseFloor (via : SgrVia)
  | challengeExpire
  -- host complex and peripherals
  | hartStart (ini : Initiator) (v : Word)
  | machineTimerInterrupt (h : Fin 8)
  | plicClaim (ctx : Fin 16)
  | plicComplete (ctx : Fin 16) (src : Nat)
  | pcieLinkChange (up : Bool)
  | pcieInboundRequest (bar : Fin 4) (off : Nat) (acc : Access) (poisoned : Bool)
  | cfgTimeout
  | xspiGo (ini : Initiator)
  | xspiDone (bytes : List Byte)
  | xspiPollTimeout
  | mgmtWrite (bytes : List Byte)
  | mgmtRead (n : Nat)
  | uartDataWrite (ini : Initiator) (v : Word)
  | uartDataRead (ini : Initiator)
  | uartByteRx (b : Byte) (parityErr frameErr : Bool)
  | uartEnable (ini : Initiator) (v : Word)
  | gpioEdge (pin : Fin 32) (level : Bool)
  | tapReset
  | phyLockChange (p : Fin 8) (locked : Bool)
  | rxActiveTimeout (p : Fin 8)
  | uartByteTx
  | pllLockLoss (pll : Fin 4)
  | debugModuleAccess (hart : Fin 8) (op : HartOp)
  | mgmtDynamicAddress (addr : BitVec 7)
  deriving DecidableEq, Repr

end Sys2Proof
end

