-- ==== Sys2Proof/Machine/Bits.lean ====
section
/-!
DEFINITION. Machine/Bits.lean: bit fields, signed readings, byte order and the comparisons of R5.
-/

namespace Sys2Proof.Machine

/-- The field of `n` bits whose lowest bit is `lo`. -/
def bf (w : Word) (lo n : Nat) : Nat := (w.toNat >>> lo) % 2 ^ n

/-- `w` with the field of `n` bits at `lo` replaced by the low `n` bits of `v`. -/
def putFld (w : Word) (lo n v : Nat) : Word :=
  (w &&& ~~~(BitVec.ofNat 64 ((2 ^ n - 1) <<< lo))) ||| BitVec.ofNat 64 ((v % 2 ^ n) <<< lo)

/-- Bit `i` of `w`. -/
def bitAt (w : Word) (i : Nat) : Bool := w.getLsbD i

/-- `w` with bit `i` set or cleared. -/
def putBit (w : Word) (i : Nat) (b : Bool) : Word := putFld w i 1 b.toNat

/-- Field of a number (used for entries wider than a word). -/
def nfld (x lo n : Nat) : Nat := (x >>> lo) % 2 ^ n

/-- A Boolean as a number. -/
def b2n (b : Bool) : Nat := b.toNat

/-- The two's-complement reading of the low `n` bits of `v`. -/
def sgn (n v : Nat) : Int :=
  let u := v % 2 ^ n
  if u < 2 ^ (n - 1) then (u : Int) else (u : Int) - 2 ^ n

/-- The low `n` bits of an integer, as a number. -/
def low (n : Nat) (i : Int) : Nat := (i % (2 ^ n : Int)).toNat

/-- A 64-bit word holding an integer modulo 2^64. -/
def wOfInt (i : Int) : Word := BitVec.ofInt 64 i

/-- A 64-bit word holding a number modulo 2^64. -/
def wOfNat (n : Nat) : Word := BitVec.ofNat 64 n

/-- R5: `a` lies at or after `b`, by the signed difference in the word's own width. -/
def atOrAfter (a b : Word) : Bool := decide (0 ≤ (a - b).toInt)

/-- R5: `a` lies before `b`. -/
def before (a b : Word) : Bool := decide ((a - b).toInt < 0)

/-- R5 in a field of `n` bits: the signed difference `a - b`. -/
def sdiff (n a b : Nat) : Int := sgn n (low n ((a : Int) - (b : Int)))

/-- Saturation of an integer into the signed range of `n` bits. -/
def satS (n : Nat) (i : Int) : Int :=
  if i < -(2 ^ (n - 1)) then -(2 ^ (n - 1)) else if i > 2 ^ (n - 1) - 1 then 2 ^ (n - 1) - 1 else i

/-- Saturation of an integer into the unsigned range of `n` bits. -/
def satU (n : Nat) (i : Int) : Nat := if i < 0 then 0 else if i > 2 ^ n - 1 then 2 ^ n - 1 else i.toNat

/-- The `n` bytes of `v`, little-endian (R4). -/
def leBytes : Nat → Nat → List Byte
  | 0, _ => []
  | n + 1, v => BitVec.ofNat 8 v :: leBytes n (v / 256)

/-- The number whose little-endian bytes are given (R4). -/
def leNat : List Byte → Nat
  | [] => 0
  | b :: r => b.toNat + 256 * leNat r

/-- The number whose big-endian bytes are given (headers of standard protocols, R4). -/
def beNat (l : List Byte) : Nat := l.foldl (fun a b => a * 256 + b.toNat) 0

/-- The `n` bytes of `v`, big-endian (R4). -/
def beBytes (n v : Nat) : List Byte := (leBytes n v).reverse

/-- The indices of the bits set in `v`, among the lowest `n`, ascending. -/
def setBits (n v : Nat) : List Nat := (List.range n).filter fun i => v.testBit i

/-- The number of bits set among the lowest `n` of `v`. -/
def popCount (n v : Nat) : Nat := (setBits n v).length

/-- Whether `n` is a power of two. -/
def isPow2 (n : Nat) : Bool := n != 0 && (2 ^ n.log2 == n)

/-- Rounding a rational `p / q` (`q > 0`) to the nearest integer, ties to even. -/
def roundEven (p : Int) (q : Nat) : Int :=
  let f := p / (q : Int)
  let r := p % (q : Int)
  if 2 * r < q then f else if 2 * r > q then f + 1 else if f % 2 = 0 then f else f + 1

/-- The items of a list with position `i` replaced. -/
def listSet {α : Type} (l : List α) (i : Nat) (a : α) : List α := l.set i a

/-- `n` rounded up to a multiple of `m`. -/
def roundUp (n m : Nat) : Nat := (n + m - 1) / m * m

/-- The unsigned distance of two integers. -/
def absDiff (a b : Int) : Nat := (a - b).natAbs

end Sys2Proof.Machine
end

