-- ==== Sys2Proof/Machine/Fp.lean ====
section
/-!
DEFINITION. Machine/Fp.lean: the floating-point formats the spec names: FP32, BF16, E4M3 and E5M2 (R229, R340, R342, R346),
computed exactly and rounded once to nearest even.
-/

namespace Sys2Proof.Machine

/-- A format: exponent bits, fraction bits, and whether it has infinities (R340: E4M3 has none). -/
structure FpFmt where
  eb : Nat
  mb : Nat
  hasInf : Bool
  deriving DecidableEq, Repr

/-- IEEE 754 single precision. -/
def fp32 : FpFmt := { eb := 8, mb := 23, hasInf := true }
/-- bfloat16. -/
def bf16 : FpFmt := { eb := 8, mb := 7, hasInf := true }
/-- R340: FP8 with a 4-bit exponent. -/
def e4m3 : FpFmt := { eb := 4, mb := 3, hasInf := false }
/-- R340: FP8 with a 5-bit exponent. -/
def e5m2 : FpFmt := { eb := 5, mb := 2, hasInf := true }

/-- Exponent bias. -/
def FpFmt.bias (f : FpFmt) : Nat := 2 ^ (f.eb - 1) - 1
/-- Width in bits. -/
def FpFmt.width (f : FpFmt) : Nat := f.eb + f.mb + 1
/-- The first magnitude pattern above the finite ones. -/
def FpFmt.top (f : FpFmt) : Nat :=
  if f.hasInf then (2 ^ f.eb - 1) * 2 ^ f.mb else 2 ^ (f.eb + f.mb) - 1
/-- The sign bit as a number. -/
def FpFmt.signBit (f : FpFmt) (neg : Bool) : Nat := if neg then 2 ^ (f.eb + f.mb) else 0
/-- The NaN pattern that results take. -/
def FpFmt.nan (f : FpFmt) : Nat :=
  if f.hasInf then f.top + 2 ^ (f.mb - 1) else f.top

/-- A value: NaN, a signed infinity, or ± m × 2^e (m = 0 is a signed zero). -/
inductive Fl where
  | nan
  | inf (neg : Bool)
  | fin (neg : Bool) (m : Nat) (e : Int)
  deriving DecidableEq, Repr

/-- The value of a bit pattern. -/
def FpFmt.dec (f : FpFmt) (x : Nat) : Fl :=
  let neg := x.testBit (f.eb + f.mb)
  let mag := x % 2 ^ (f.eb + f.mb)
  let ex := mag / 2 ^ f.mb
  let m := mag % 2 ^ f.mb
  if f.top ≤ mag then (if f.hasInf && m = 0 then .inf neg else .nan)
  else if ex = 0 then .fin neg m (1 - (f.bias : Int) - f.mb)
  else .fin neg (m + 2 ^ f.mb) ((ex : Int) - f.bias - f.mb)

/-- `2^k` for a possibly negative `k`, as a fraction. -/
def pow2Frac (k : Int) : Nat × Nat := if 0 ≤ k then (2 ^ k.toNat, 1) else (1, 2 ^ (-k).toNat)

/-- The floor of the base-2 logarithm of `n / d`, both positive. -/
def log2Frac (n d : Nat) : Int :=
  let k : Int := (n.log2 : Int) - d.log2
  let (p, q) := pow2Frac k
  if n * q < d * p then k - 1 else k

/-- `n / d` (`d > 0`) rounded once to nearest even, with its sign; `sat` saturates at the largest finite value in place of
overflowing. -/
def FpFmt.round (f : FpFmt) (sat neg : Bool) (n d : Nat) : Nat :=
  if n = 0 then f.signBit neg
  else
    let e := max (log2Frac n d) (1 - (f.bias : Int))
    let (p, q) := pow2Frac (e - f.mb)
    let m := (roundEven ((n * q : Nat) : Int) (d * p)).toNat
    let bits := if m < 2 ^ f.mb then m else (e + f.bias).toNat * 2 ^ f.mb + (m - 2 ^ f.mb)
    if f.top ≤ bits then f.signBit neg + (if sat then f.top - 1 else f.top)
    else f.signBit neg + bits

/-- An exact value `m × 2^e` rounded to the format. -/
def FpFmt.ofDyadic (f : FpFmt) (sat : Bool) (m : Int) (e : Int) (zeroNeg : Bool) : Nat :=
  let (p, q) := pow2Frac e
  if m = 0 then f.signBit zeroNeg else f.round sat (decide (m < 0)) (m.natAbs * p) q

/-- An integer rounded to the format. -/
def FpFmt.ofInt (f : FpFmt) (i : Int) : Nat := f.ofDyadic false i 0 false

/-- The ratio of two integers rounded to the format (`d ≠ 0`). -/
def FpFmt.ofRatio (f : FpFmt) (n d : Int) : Nat :=
  f.round false ((n < 0) != (d < 0)) n.natAbs d.natAbs

/-- A finite value as a signed dyadic. -/
def sgnM (neg : Bool) (m : Nat) : Int := if neg then -(m : Int) else m

/-- Exact sum of two dyadics. -/
def dyAdd (a : Int × Int) (b : Int × Int) : Int × Int :=
  let e := min a.2 b.2
  (a.1 * 2 ^ (a.2 - e).toNat + b.1 * 2 ^ (b.2 - e).toNat, e)

/-! ### FP32 operations, round to nearest even -/

/-- A value as a pattern. -/
def FpFmt.enc (f : FpFmt) (sat : Bool) : Fl → Nat
  | .nan => f.nan
  | .inf neg => f.signBit neg + (if sat || !f.hasInf then f.top - 1 else f.top)
  | .fin neg m e => f.ofDyadic sat (sgnM neg m) e neg

/-- Exact product; an infinity times 0 is NaN. -/
def Fl.mul : Fl → Fl → Fl
  | .nan, _ => .nan
  | _, .nan => .nan
  | .inf a, .inf b => .inf (a != b)
  | .inf a, .fin b m _ => if m = 0 then .nan else .inf (a != b)
  | .fin b m _, .inf a => if m = 0 then .nan else .inf (a != b)
  | .fin a m e, .fin b n g => .fin (a != b) (m * n) (e + g)

/-- Exact sum; opposite infinities give NaN; an exact zero sum is +0 unless both terms are −0. -/
def Fl.add : Fl → Fl → Fl
  | .nan, _ => .nan
  | _, .nan => .nan
  | .inf a, .inf b => if a = b then .inf a else .nan
  | .inf a, .fin .. => .inf a
  | .fin .., .inf a => .inf a
  | .fin a m e, .fin b n g =>
    let (x, k) := dyAdd (sgnM a m, e) (sgnM b n, g)
    .fin (if x = 0 then a && b else decide (x < 0)) x.natAbs k

/-- The negated value. -/
def Fl.neg : Fl → Fl
  | .nan => .nan
  | .inf a => .inf (!a)
  | .fin a m e => .fin (!a) m e

/-- Comparison: none with a NaN. -/
def Fl.cmp : Fl → Fl → Option Ordering
  | .nan, _ => none
  | _, .nan => none
  | .inf a, .inf b => some (if a = b then .eq else if a then .lt else .gt)
  | .inf a, .fin .. => some (if a then .lt else .gt)
  | .fin .., .inf a => some (if a then .gt else .lt)
  | .fin a m e, .fin b n g =>
    let (x, _) := dyAdd (sgnM a m, e) (-(sgnM b n), g)
    some (if x < 0 then .lt else if x = 0 then .eq else .gt)

/-- FP32 addition. -/
def fadd (x y : Nat) : Nat := fp32.enc false ((fp32.dec x).add (fp32.dec y))
/-- FP32 subtraction. -/
def fsub (x y : Nat) : Nat := fp32.enc false ((fp32.dec x).add (fp32.dec y).neg)
/-- FP32 multiplication. -/
def fmul (x y : Nat) : Nat := fp32.enc false ((fp32.dec x).mul (fp32.dec y))
/-- FP32 division. -/
def fdiv (x y : Nat) : Nat :=
  match fp32.dec x, fp32.dec y with
  | .nan, _ => fp32.nan
  | _, .nan => fp32.nan
  | .inf _, .inf _ => fp32.nan
  | .inf a, .fin b _ _ => fp32.signBit (a != b) + fp32.top
  | .fin a _ _, .inf b => fp32.signBit (a != b)
  | .fin a m e, .fin b n g =>
    if n = 0 then (if m = 0 then fp32.nan else fp32.signBit (a != b) + fp32.top)
    else
      let (p, q) := pow2Frac (e - g)
      fp32.round false (a != b) (m * p) (n * q)
/-- Whether `x < y`; false with a NaN. -/
def flt (x y : Nat) : Bool := (fp32.dec x).cmp (fp32.dec y) == some .lt
/-- Whether `x ≤ y`; false with a NaN. -/
def fle (x y : Nat) : Bool :=
  match (fp32.dec x).cmp (fp32.dec y) with
  | some .lt => true
  | some .eq => true
  | _ => false
/-- Whether the pattern is a NaN. -/
def fisNan (x : Nat) : Bool := fp32.dec x == .nan
/-- Negation. -/
def fneg (x : Nat) : Nat := fp32.enc false (fp32.dec x).neg
/-- An integer as FP32. -/
def fint (i : Int) : Nat := fp32.ofInt i

/-- The integer square root of `n`, found bit by bit from `2^k` down. -/
def isqrtFrom (n : Nat) : Nat → Nat → Nat
  | 0, r => if (r + 1) * (r + 1) ≤ n then r + 1 else r
  | k + 1, r =>
    let t := r + 2 ^ (k + 1)
    isqrtFrom n k (if t * t ≤ n then t else r)

/-- The integer square root. -/
def isqrt (n : Nat) : Nat := if n = 0 then 0 else isqrtFrom n (n.log2 / 2) 0

/-- The square root of `n / d`, rounded once. -/
def fsqrtRat (n d : Nat) : Nat :=
  if n = 0 then 0
  else
    let x := n * d * 4 ^ 64
    let r := isqrt x
    fp32.round false false (2 * r + (if r * r = x then 0 else 1)) (2 * d * 2 ^ 64)

/-- FP32 square root; NaN below 0. -/
def fsqrt (x : Nat) : Nat :=
  match fp32.dec x with
  | .nan => fp32.nan
  | .inf neg => if neg then fp32.nan else x
  | .fin neg m e =>
    if m = 0 then x else if neg then fp32.nan
    else
      let (p, q) := pow2Frac e
      fsqrtRat (m * p) q

/-- How a value is rounded to an integer. -/
inductive RoundMode where
  | even
  | away
  | floor
  deriving DecidableEq, Repr

/-- A rational rounded to an integer. -/
def RoundMode.apply (r : RoundMode) (p : Int) (q : Nat) : Int :=
  match r with
  | .even => roundEven p q
  | .floor => p / (q : Int)
  | .away => if p < 0 then -((2 * (-p) + q) / (2 * (q : Int))) else (2 * p + q) / (2 * (q : Int))

/-- A finite FP32 value times `2^k`, rounded to an integer; none for NaN and infinities. -/
def fToInt (r : RoundMode) (x : Nat) (k : Int) : Option Int :=
  match fp32.dec x with
  | .fin neg m e =>
    let (p, q) := pow2Frac (e + k)
    some (r.apply (sgnM neg m * p) q)
  | _ => none

end Sys2Proof.Machine
end

