-- ==== Sys2Proof/Config.lean ====
section
/-!
DEFINITION. Config.lean: the free values: constants without a body, for values that the spec leaves open. Nothing can
evaluate one, so a claim holds whatever it is. Each is named in an assumption-log entry.
-/

namespace Sys2Proof

/-- R464: bytes that a read of never-written memory returns: by free-value index and byte position. -/
opaque Config.freeByte : Nat → Nat → Byte

/-- R464: what the code reports at a read of a never-written word: 0 clean, 1 correctable, 2 uncorrectable, 3 poison. -/
opaque Config.freeKind : Nat → Fin 4

/-- A register or field value that the spec leaves open, by free-value index. -/
opaque Config.freeWord : Nat → Word

/-- A number that the spec leaves open, by free-value index (a choice among candidates takes it modulo their count). -/
opaque Config.freeNat : Nat → Nat

/-- Whether an inexact quotient `p / q` is rounded up, where the spec states no rounding; the tag names the place. -/
opaque Config.roundUp : Nat → Int → Nat → Bool

/-- R416: which of the values that an FP64 computation may give it gives, by the exact value and the bound of its error. -/
opaque Config.fpPick : Int → Nat → Nat

/-- R576: the serial number of the device. -/
opaque Config.serial : Word

/-- R559: vendor and device identity of the PCIe function. -/
opaque Config.pcieId : Word

/-- R431: which unused ledger index a new item takes. -/
opaque Config.itemPick : Nat → Nat

/-- R530: contents of the boot flash, as delivered and as the host's flash commands so far have left it, by address. -/
opaque Config.flashByte : List (Nat × Option Nat × List Byte) → Nat → Byte

/-- R529: the seed that the PUF region and the contents of the ENROLL region give; none where they give none. -/
opaque Config.pufSeed : List Byte → Option Nat

/-- R529: the private identity key derived from a seed. -/
opaque Config.identityKey : Nat → Nat

/-- R529: the sealing root derived from a seed. -/
opaque Config.sealRoot : Nat → List Byte

/-- R530: the identity certificate that the ENROLL region holds. -/
opaque Config.certificate : List Byte → List Byte

/-- R528: the vendor's public firmware keys, primary and spare, whose hashes the mask ROM holds. -/
opaque Config.firmwareKey : Fin 2 → List Byte

/-- R528: the vendor's public ownership key. -/
opaque Config.ownershipKey : List Byte

/-- R528: the vendor's public return key. -/
opaque Config.returnKey : List Byte

/-- R562: opcodes of the flash's replay-protected command set. -/
opaque Config.replayOps : List Nat

end Sys2Proof
end

