-- ==== Sys2Proof/Machine/Operands.lean ====
section
/-!
DEFINITION. Machine/Operands.lean: the operand forms of a register write: a 64-bit write, or a 32-bit write of one half
(R6), with its initiator and its own address.
-/

namespace Sys2Proof.Machine

/-- A register write as it reaches a page: the offset of its own address, the value moved to its place in the 64-bit
register, and the mask of the written half or of the whole. -/
structure Wr where
  ini : Initiator
  off : Nat
  v : Word
  m : Word
  deriving DecidableEq, Repr

/-- The offset of the register that is written. -/
def Wr.reg (w : Wr) : Nat := w.off / 8 * 8

/-- The bits written, others 0. -/
def Wr.val (w : Wr) : Word := w.v &&& w.m

/-- A 64-bit write. -/
def Wr.full (ini : Initiator) (off : Nat) (v : Word) : Wr := { ini, off, v, m := BitVec.allOnes 64 }

/-- R6: the write of `size` bytes at offset `off` of a page, if its size and alignment are accepted. -/
def Wr.mk? (ini : Initiator) (off size : Nat) (v : Word) : Option Wr :=
  if size = 8 ∧ off % 8 = 0 then some (Wr.full ini off v)
  else if size = 4 ∧ off % 8 = 0 then some { ini, off, v := v &&& 0xFFFF_FFFF, m := 0xFFFF_FFFF }
  else if size = 4 ∧ off % 8 = 4 then
    some { ini, off, v := v <<< 32, m := 0xFFFF_FFFF_0000_0000 }
  else none

/-- R574: INITIATOR code. -/
def iniCode : Sys2Proof.Initiator → Nat
  | .hostCore _ => 0
  | .pcie => 1
  | .loader => 2
  | .debugBus => 3
  | .saggar => 4
  | .block => 5

end Sys2Proof.Machine
end

