-- ==== Sys2Proof/Machine/RegMap.lean ====
section
/-!
DEFINITION. Machine/RegMap.lean: register offsets, access masks and reset values of every register page, from the
register tables of spec/ (R40 to R41, R48 to R50, R74, R89, R91, R106, R118, R144, R163, R173, R176, R209, R210, R222, R234,
R259, R264, R282, R284, R290, R331 to R335, R371, R392, R400, R423, R436, R449, R467 to R469, R498, R527, R547, R552,
R559 to R565, R570, R576). One row is one register or one array of registers.
-/

namespace Sys2Proof.Machine

/-! ### Offsets within a page -/

abbrev R.GT_INFO : Nat := 0x1000
abbrev R.GT_KILNS : Nat := 0x1008
abbrev R.GT_NEURONS : Nat := 0x1010
abbrev R.GT_PARAM_SETS : Nat := 0x1018
abbrev R.GT_JOURNAL : Nat := 0x1020
abbrev R.GT_WIN_COUNTERS : Nat := 0x1028
abbrev R.GT_FACET_DIM : Nat := 0x1030
abbrev R.GT_SHELF_BYTES : Nat := 0x1038
abbrev R.GT_PORTS : Nat := 0x1040
abbrev R.GT_PORT_MAX_DIM : Nat := 0x1048
abbrev R.GT_SURFACE_PIXELS : Nat := 0x1050
abbrev R.GT_IEQ_DEPTH : Nat := 0x1058
abbrev R.GT_DECODER_ENTRIES : Nat := 0x1060
abbrev R.GT_RFX_RULES : Nat := 0x1068
abbrev R.GT_RFX_OUTPUTS : Nat := 0x1070
abbrev R.GT_TCAL_DEPTH : Nat := 0x1078
abbrev R.GT_LOCUS_SLOTS : Nat := 0x1080
abbrev R.GT_LOCUS_LIVE : Nat := 0x1088
abbrev R.GT_OBJECTS : Nat := 0x1090
abbrev R.GT_LOCUS_CACHE_BYTES : Nat := 0x1098
abbrev R.GT_ROUTERS : Nat := 0x10a0
abbrev R.GT_ROUTE_ENTRIES : Nat := 0x10a8
abbrev R.GT_RCH_REGIONS : Nat := 0x10b0
abbrev R.GT_RCH_LINEAR : Nat := 0x10b8
abbrev R.GT_RCH_MINPHASE : Nat := 0x10c0
abbrev R.GT_LEDGER_ITEMS : Nat := 0x10c8
abbrev R.GT_CQS : Nat := 0x10d0
abbrev R.GT_PTBS : Nat := 0x10d8
abbrev R.GT_HBM_BYTES : Nat := 0x10e0
abbrev R.GT_HOST_CORES : Nat := 0x10e8
abbrev R.GT_MSIX : Nat := 0x10f0
abbrev R.DTC_NOW : Nat := 0x100
abbrev R.DTC_IET : Nat := 0x108
abbrev R.DTC_STS : Nat := 0x110
abbrev R.PTB_CTL : Nat := 0x100
abbrev R.PTB_STS : Nat := 0x108
abbrev R.PTB_CMD : Nat := 0x110
abbrev R.PTB_POS : Nat := 0x118
abbrev R.PTB_VEL : Nat := 0x120
abbrev R.PTB_SNAP_POS : Nat := 0x128
abbrev R.PTB_SNAP_DTC : Nat := 0x130
abbrev R.PTB_SNAP_VEL : Nat := 0x138
abbrev R.PTB_START : Nat := 0x140
abbrev R.PTB_STEP : Nat := 0x148
abbrev R.PTB_JUMP_MAX : Nat := 0x150
abbrev R.PTB_REFUSED_OFS : Nat := 0x158
abbrev R.PTB_OFS_IN : Nat := 0x160
abbrev R.PTB_OFS_DTC : Nat := 0x168
abbrev R.PTB_KP : Nat := 0x170
abbrev R.PTB_KI : Nat := 0x178
abbrev R.PTB_SLEW_MAX : Nat := 0x180
abbrev R.PTB_TRIM : Nat := 0x188
abbrev R.PTB_NOMINAL : Nat := 0x190
abbrev R.PTB_SCALE : Nat := 0x198
abbrev R.PTB_HOME : Nat := 0x1a0
abbrev R.PTB_ZPOS : Nat := 0x1a8
abbrev R.PTB_ALARM : Nat := 0x1b0
abbrev R.PTB_ALARM_CTL : Nat := 0x1b8
abbrev R.PTB_HIST_CTL : Nat := 0x1c0
abbrev R.PTB_SERVO_CTL : Nat := 0x1c8
abbrev R.PTB_CNT0 : Nat := 0x1d0
abbrev R.PTB_CNT1 : Nat := 0x1d8
abbrev R.TMAP_CTL (i : Nat) : Nat := 0x1000 + 0x40 * i
abbrev R.TMAP_OFS (i : Nat) : Nat := 0x1008 + 0x40 * i
abbrev R.TMAP_RATE (i : Nat) : Nat := 0x1010 + 0x40 * i
abbrev R.TMAP_RESID (i : Nat) : Nat := 0x1018 + 0x40 * i
abbrev R.TMAP_CLAMP (i : Nat) : Nat := 0x1020 + 0x40 * i
abbrev R.NET_CTL : Nat := 0x100
abbrev R.NET_STS : Nat := 0x108
abbrev R.NET_MAC_ADDR : Nat := 0x110
abbrev R.NET_MAX_FRAME : Nat := 0x118
abbrev R.NET_TS_LAT : Nat := 0x120
abbrev R.NET_TXTS_STS : Nat := 0x128
abbrev R.NET_TXTS_SEQ : Nat := 0x130
abbrev R.NET_TXTS_DTC : Nat := 0x138
abbrev R.NET_TXTS_POS : Nat := 0x140
abbrev R.NET_TXTS_POP : Nat := 0x148
abbrev R.NET_TXTS_LOST : Nat := 0x150
abbrev R.NET_PTP_EPOCH_S : Nat := 0x158
abbrev R.NET_PTP_EPOCH_POS : Nat := 0x160
abbrev R.NET_CNT0 : Nat := 0x168
abbrev R.NET_PPS_CTL : Nat := 0x180
abbrev R.NET_PPS_NEXT : Nat := 0x188
abbrev R.NET_PPS_PERIOD : Nat := 0x190
abbrev R.NET_PPS_IN_DTC : Nat := 0x198
abbrev R.NET_PPS_IN_POS : Nat := 0x1a0
abbrev R.NET_PPS_CNT : Nat := 0x1a8
abbrev R.STR_CTL (i : Nat) : Nat := 0x2000 + 0x80 * i
abbrev R.STR_DMAC (i : Nat) : Nat := 0x2008 + 0x80 * i
abbrev R.STR_PORTS (i : Nat) : Nat := 0x2010 + 0x80 * i
abbrev R.STR_SIP_LO (i : Nat) : Nat := 0x2018 + 0x80 * i
abbrev R.STR_SIP_HI (i : Nat) : Nat := 0x2020 + 0x80 * i
abbrev R.STR_DIP_LO (i : Nat) : Nat := 0x2028 + 0x80 * i
abbrev R.STR_DIP_HI (i : Nat) : Nat := 0x2030 + 0x80 * i
abbrev R.STR_TAG (i : Nat) : Nat := 0x2038 + 0x80 * i
abbrev R.STR_SEQ (i : Nat) : Nat := 0x2040 + 0x80 * i
abbrev R.STR_CNT (i : Nat) : Nat := 0x2048 + 0x80 * i
abbrev R.SP_CTL : Nat := 0x100
abbrev R.SP_STS : Nat := 0x108
abbrev R.SP_GEOM : Nat := 0x110
abbrev R.SP_PHY_CTL : Nat := 0x118
abbrev R.SP_RLY_CTL : Nat := 0x120
abbrev R.SP_CNT0 : Nat := 0x128
abbrev R.SP_CNT1 : Nat := 0x130
abbrev R.SP_CNT2 : Nat := 0x138
abbrev R.SP_CNT3 : Nat := 0x140
abbrev R.SP_CCI_CTL : Nat := 0x200
abbrev R.SP_CCI_CMD : Nat := 0x208
abbrev R.SP_CCI_STS : Nat := 0x210
abbrev R.SP_CCI_WBUF (i : Nat) : Nat := 0x220 + 0x8 * i
abbrev R.SP_CCI_RBUF (i : Nat) : Nat := 0x240 + 0x8 * i
abbrev R.SP_UC (i : Nat) : Nat := 0x1000 + 0x8 * i
abbrev R.IEQ_CTL : Nat := 0x100
abbrev R.IEQ_TAIL_TIMEOUT : Nat := 0x108
abbrev R.IEQ_STS : Nat := 0x110
abbrev R.IEQ_CMD : Nat := 0x118
abbrev R.IEQ_RAW_D (i : Nat) : Nat := 0x120 + 0x8 * i
abbrev R.IEQ_RAW_TAG : Nat := 0x140
abbrev R.IEQ_RAW_DMA_ADDR : Nat := 0x148
abbrev R.IEQ_RAW_DMA_GO : Nat := 0x150
abbrev R.IEQ_CNT0 : Nat := 0x158
abbrev R.IEQ_CNT1 : Nat := 0x160
abbrev R.SV_CTL : Nat := 0x100
abbrev R.SV_STS : Nat := 0x108
abbrev R.SV_REFR : Nat := 0x110
abbrev R.SV_BA : Nat := 0x118
abbrev R.SV_FLK_WIN (i : Nat) : Nat := 0x120 + 0x8 * i
abbrev R.SV_TBL_ADDR : Nat := 0x140
abbrev R.SV_TBL_GO : Nat := 0x148
abbrev R.SV_CNT0 : Nat := 0x150
abbrev R.SV_CNT1 : Nat := 0x158
abbrev R.SV_CNT2 : Nat := 0x160
abbrev R.SV_ADM0 : Nat := 0x180
abbrev R.SV_ADM1 : Nat := 0x188
abbrev R.SV_SHED : Nat := 0x190
abbrev R.SV_SHED_CAUSE0 : Nat := 0x198
abbrev R.SV_SHED_CAUSE1 : Nat := 0x1a0
abbrev R.SV_SHED_LAST : Nat := 0x1a8
abbrev R.SV_SHED_LAST_WIN : Nat := 0x1b0
abbrev R.SV_FLK_HIST (i : Nat) : Nat := 0x200 + 0x8 * i
abbrev R.SV_CLASS (i : Nat) : Nat := 0x1000 + 0x8 * i
abbrev R.SV_FLKMAP (i : Nat) : Nat := 0x2000 + 0x8 * i
abbrev R.ADM_P_CTL (i : Nat) : Nat := 0x1000 + 0x80 * i
abbrev R.ADM_P_STS (i : Nat) : Nat := 0x1008 + 0x80 * i
abbrev R.ADM_P_TDELIVER (i : Nat) : Nat := 0x1010 + 0x80 * i
abbrev R.ADM_P_DEFER_MAX (i : Nat) : Nat := 0x1018 + 0x80 * i
abbrev R.ADM_P_SVC (i : Nat) : Nat := 0x1020 + 0x80 * i
abbrev R.ADM_P_BUD_CHD (i : Nat) : Nat := 0x1028 + 0x80 * i
abbrev R.ADM_P_BUD_LOC (i : Nat) : Nat := 0x1030 + 0x80 * i
abbrev R.ADM_P_BUD_KLN (i : Nat) : Nat := 0x1038 + 0x80 * i
abbrev R.ADM_P_COST0 (i : Nat) : Nat := 0x1040 + 0x80 * i
abbrev R.ADM_P_COST1 (i : Nat) : Nat := 0x1048 + 0x80 * i
abbrev R.ADM_P_COST2 (i : Nat) : Nat := 0x1050 + 0x80 * i
abbrev R.ADM_P_GUARD (i : Nat) : Nat := 0x1058 + 0x80 * i
abbrev R.ADM_P_DECL0 (i : Nat) : Nat := 0x1060 + 0x80 * i
abbrev R.ADM_P_HOLD (i : Nat) : Nat := 0x1068 + 0x80 * i
abbrev R.ADM_P_OVC (i : Nat) : Nat := 0x1070 + 0x80 * i
abbrev R.RULE_CTL (i : Nat) : Nat := 0x1000 + 0x80 * i
abbrev R.RULE_ACT (i : Nat) : Nat := 0x1008 + 0x80 * i
abbrev R.RULE_OFS (i : Nat) : Nat := 0x1010 + 0x80 * i
abbrev R.RULE_GATE_LO (i : Nat) : Nat := 0x1018 + 0x80 * i
abbrev R.RULE_GATE_HI (i : Nat) : Nat := 0x1020 + 0x80 * i
abbrev R.RULE_ZONE (i : Nat) (j : Nat) : Nat := 0x1028 + 0x80 * i + 0x8 * j
abbrev R.RULE_STS (i : Nat) : Nat := 0x1048 + 0x80 * i
abbrev R.RULE_CNT (i : Nat) : Nat := 0x1050 + 0x80 * i
abbrev R.RFX_CTL : Nat := 0x100
abbrev R.RFX_STS : Nat := 0x108
abbrev R.RFX_CMD : Nat := 0x110
abbrev R.RFX_TMR_CNT : Nat := 0x118
abbrev R.RFX_OUT_LEVEL : Nat := 0x120
abbrev R.RFX_OUT_FAULT : Nat := 0x128
abbrev R.RFX_CNT0 : Nat := 0x130
abbrev R.RFX_REC_LEVEL : Nat := 0x138
abbrev R.RFX_OUT_CFG (i : Nat) : Nat := 0x200 + 0x8 * i
abbrev R.TCAL_CTL : Nat := 0x100
abbrev R.TCAL_STS : Nat := 0x108
abbrev R.TCAL_CNT0 : Nat := 0x110
abbrev R.TCAL_CNT1 : Nat := 0x118
abbrev R.TCAL_FLUSH : Nat := 0x120
abbrev R.TCAL_SW_POS : Nat := 0x128
abbrev R.TCAL_SW_CTL : Nat := 0x130
abbrev R.TCAL_SW_GO : Nat := 0x138
abbrev R.SFS_STS : Nat := 0x100
abbrev R.SFS_FREE : Nat := 0x108
abbrev R.SFS_CNT0 : Nat := 0x110
abbrev R.SFS_ERR_ADDR : Nat := 0x118
abbrev R.SFS_P_CFG (i : Nat) : Nat := 0x1000 + 0x40 * i
abbrev R.SFS_P_ALLOC (i : Nat) : Nat := 0x1008 + 0x40 * i
abbrev R.SFS_P_TIME (i : Nat) : Nat := 0x1010 + 0x40 * i
abbrev R.SFS_P_PASS (i : Nat) : Nat := 0x1018 + 0x40 * i
abbrev R.SFS_P_CNT (i : Nat) : Nat := 0x1020 + 0x40 * i
abbrev R.CHD_CTL : Nat := 0x100
abbrev R.CHD_ARC : Nat := 0x108
abbrev R.CHD_FIT : Nat := 0x110
abbrev R.CHD_STS : Nat := 0x118
abbrev R.CHD_CNT0 : Nat := 0x120
abbrev R.CHD_CNT1 : Nat := 0x128
abbrev R.CHD_CNT2 : Nat := 0x130
abbrev R.LOC_CTL : Nat := 0x100
abbrev R.LOC_MATCH : Nat := 0x108
abbrev R.LOC_AGE : Nat := 0x110
abbrev R.LOC_LIMIT : Nat := 0x118
abbrev R.LOC_TBL_BASE : Nat := 0x120
abbrev R.LOC_OBJ_BASE : Nat := 0x128
abbrev R.LOC_BIND : Nat := 0x130
abbrev R.LOC_CMD : Nat := 0x138
abbrev R.LOC_STS : Nat := 0x140
abbrev R.LOC_LIVE : Nat := 0x148
abbrev R.LOC_CNT0 : Nat := 0x150
abbrev R.LOC_CNT1 : Nat := 0x158
abbrev R.LOC_CNT2 : Nat := 0x160
abbrev R.LOC_CNT3 : Nat := 0x168
abbrev R.LOC_ID : Nat := 0x170
abbrev R.LOC_P_OBJ_MAX (i : Nat) : Nat := 0x1000 + 0x40 * i
abbrev R.LOC_P_CNT0 (i : Nat) : Nat := 0x1008 + 0x40 * i
abbrev R.LOC_P_CNT1 (i : Nat) : Nat := 0x1010 + 0x40 * i
abbrev R.PS_CTL (i : Nat) : Nat := 0x1000 + 0x40 * i
abbrev R.PS_THR (i : Nat) : Nat := 0x1008 + 0x40 * i
abbrev R.PS_REST (i : Nat) : Nat := 0x1010 + 0x40 * i
abbrev R.PS_LEAK (i : Nat) : Nat := 0x1018 + 0x40 * i
abbrev R.PS_ADAPT (i : Nat) : Nat := 0x1020 + 0x40 * i
abbrev R.PS_KEY (i : Nat) : Nat := 0x1028 + 0x40 * i
abbrev R.SHF_NEURON : Nat := 0x100
abbrev R.SHF_ANNX : Nat := 0x108
abbrev R.SHF_JOURNAL : Nat := 0x110
abbrev R.SHF_ROWS : Nat := 0x118
abbrev R.SHF_WEIGHTS : Nat := 0x120
abbrev R.SHF_LINE : Nat := 0x128
abbrev R.SHF_MAPS : Nat := 0x130
abbrev R.SHF_STS : Nat := 0x140
abbrev R.KLN_CTL : Nat := 0x100
abbrev R.KLN_STS : Nat := 0x108
abbrev R.KLN_SWAP_CNT : Nat := 0x110
abbrev R.KLN_SWAP_LAST : Nat := 0x118
abbrev R.CRS_CTL (i : Nat) : Nat := 0x1000 + 0x40 * i
abbrev R.CRS_IDS (i : Nat) : Nat := 0x1008 + 0x40 * i
abbrev R.CRS_SAVE (i : Nat) : Nat := 0x1010 + 0x40 * i
abbrev R.CRS_INBOX (i : Nat) : Nat := 0x1018 + 0x40 * i
abbrev R.CRS_INBOX_SIZE (i : Nat) : Nat := 0x1020 + 0x40 * i
abbrev R.CRS_STEP (i : Nat) : Nat := 0x1028 + 0x40 * i
abbrev R.LAT_CTL : Nat := 0x100
abbrev R.LAT_STS : Nat := 0x108
abbrev R.LAT_STEP : Nat := 0x110
abbrev R.LAT_CNT0 : Nat := 0x118
abbrev R.LAT_CNT1 : Nat := 0x120
abbrev R.LAT_OVERDRIVE : Nat := 0x128
abbrev R.LAT_CNT2 : Nat := 0x130
abbrev R.LAT_CNT3 : Nat := 0x138
abbrev R.SPK_CTL : Nat := 0x100
abbrev R.SPK_STS : Nat := 0x108
abbrev R.RT_IDX : Nat := 0x110
abbrev R.RT_KEYMASK : Nat := 0x118
abbrev R.RT_ROUTE : Nat := 0x120
abbrev R.RT_CMD : Nat := 0x128
abbrev R.RT_LOAD_ADDR : Nat := 0x130
abbrev R.RT_LOAD_GO : Nat := 0x138
abbrev R.SPK_CNT0 : Nat := 0x140
abbrev R.SPK_CNT1 : Nat := 0x148
abbrev R.ING_STEP : Nat := 0x200
abbrev R.ING_SPOOL_BASE : Nat := 0x208
abbrev R.ING_SPOOL_SIZE : Nat := 0x210
abbrev R.ING_P_CTL (i : Nat) : Nat := 0x1000 + 0x40 * i
abbrev R.ING_P_KEY (i : Nat) : Nat := 0x1008 + 0x40 * i
abbrev R.ING_P_DONE (i : Nat) : Nat := 0x1010 + 0x40 * i
abbrev R.ING_P_CNT (i : Nat) : Nat := 0x1018 + 0x40 * i
abbrev R.WHL_CTL : Nat := 0x200
abbrev R.CONE_CTL : Nat := 0x208
abbrev R.CONE_SPAN : Nat := 0x210
abbrev R.MODE_CMD : Nat := 0x218
abbrev R.MODE_STS : Nat := 0x220
abbrev R.RECOVER_POS : Nat := 0x228
abbrev R.FLR_MIN : Nat := 0x230
abbrev R.CW_CTL : Nat := 0x238
abbrev R.MODE_CNT : Nat := 0x240
abbrev R.EGR_RING_BASE : Nat := 0x248
abbrev R.EGR_RING_SIZE : Nat := 0x250
abbrev R.EGR_RING_HEAD : Nat := 0x258
abbrev R.EGR_RING_TAIL : Nat := 0x260
abbrev R.EGR_CNT : Nat := 0x268
abbrev R.KLN_PTR_BASE : Nat := 0x200
abbrev R.KLN_PTR_COUNT : Nat := 0x208
abbrev R.KLN_CW_MAP : Nat := 0x210
abbrev R.KLN_CW_RING : Nat := 0x218
abbrev R.KLN_CW_SLOTS : Nat := 0x220
abbrev R.KLN_CW_HEAD : Nat := 0x228
abbrev R.KLN_CW_TAIL : Nat := 0x230
abbrev R.KLN_CW_CNT : Nat := 0x238
abbrev R.KLN_CW_STS : Nat := 0x240
abbrev R.KLN_SRC (i : Nat) : Nat := 0x400 + 0x8 * i
abbrev R.LAT_SLIP_LIMIT : Nat := 0x200
abbrev R.LAT_WHL : Nat := 0x208
abbrev R.LAT_SLIP_CNT : Nat := 0x210
abbrev R.LAT_SLIP_CNT1 : Nat := 0x218
abbrev R.LAT_CANCEL_CNT : Nat := 0x220
abbrev R.FCT_CTL : Nat := 0x100
abbrev R.FCT_STS : Nat := 0x108
abbrev R.FCT_Q_BASE : Nat := 0x110
abbrev R.FCT_Q_SIZE : Nat := 0x118
abbrev R.FCT_Q_HEAD : Nat := 0x120
abbrev R.FCT_Q_TAIL : Nat := 0x128
abbrev R.FCT_CMD : Nat := 0x130
abbrev R.FCT_CNT0 : Nat := 0x138
abbrev R.FCT_CNT1 : Nat := 0x140
abbrev R.FCT_CNT2 : Nat := 0x148
abbrev R.FCT_CNT3 : Nat := 0x150
abbrev R.FCT_LAST : Nat := 0x158
abbrev R.INC_CTL (i : Nat) : Nat := 0x1000 + 0x400 * i
abbrev R.INC_HALF (i : Nat) : Nat := 0x1008 + 0x400 * i
abbrev R.INC_REB_SPAN (i : Nat) : Nat := 0x1010 + 0x400 * i
abbrev R.INC_IN_ADDR (i : Nat) : Nat := 0x1018 + 0x400 * i
abbrev R.INC_IN_TAG (i : Nat) : Nat := 0x1020 + 0x400 * i
abbrev R.INC_RO_ADDR (i : Nat) : Nat := 0x1028 + 0x400 * i
abbrev R.INC_RO_PITCH (i : Nat) : Nat := 0x1030 + 0x400 * i
abbrev R.INC_RO_CTL (i : Nat) : Nat := 0x1038 + 0x400 * i
abbrev R.INC_RO_CH (i : Nat) : Nat := 0x1040 + 0x400 * i
abbrev R.INC_CMD (i : Nat) : Nat := 0x1048 + 0x400 * i
abbrev R.INC_STS (i : Nat) : Nat := 0x1050 + 0x400 * i
abbrev R.INC_EPOCH (i : Nat) : Nat := 0x1058 + 0x400 * i
abbrev R.INC_PREF (i : Nat) : Nat := 0x1060 + 0x400 * i
abbrev R.INC_CNT0 (i : Nat) : Nat := 0x1068 + 0x400 * i
abbrev R.INC_CNT1 (i : Nat) : Nat := 0x1070 + 0x400 * i
abbrev R.INC_CNT2 (i : Nat) : Nat := 0x1078 + 0x400 * i
abbrev R.LAY_GEOM (i : Nat) (j : Nat) : Nat := 0x1100 + 0x400 * i + 0x80 * j
abbrev R.LAY_PAD (i : Nat) (j : Nat) : Nat := 0x1108 + 0x400 * i + 0x80 * j
abbrev R.LAY_W (i : Nat) (j : Nat) : Nat := 0x1110 + 0x400 * i + 0x80 * j
abbrev R.LAY_CH (i : Nat) (j : Nat) : Nat := 0x1118 + 0x400 * i + 0x80 * j
abbrev R.LAY_M (i : Nat) (j : Nat) : Nat := 0x1120 + 0x400 * i + 0x80 * j
abbrev R.LAY_S (i : Nat) (j : Nat) : Nat := 0x1128 + 0x400 * i + 0x80 * j
abbrev R.LAY_TAG (i : Nat) (j : Nat) : Nat := 0x1130 + 0x400 * i + 0x80 * j
abbrev R.LAY_P0 (i : Nat) (j : Nat) : Nat := 0x1138 + 0x400 * i + 0x80 * j
abbrev R.DET_CTL (i : Nat) : Nat := 0x1300 + 0x400 * i
abbrev R.DET_THR (i : Nat) : Nat := 0x1308 + 0x400 * i
abbrev R.DET_SCALE (i : Nat) : Nat := 0x1310 + 0x400 * i
abbrev R.DET_CLAMP (i : Nat) : Nat := 0x1318 + 0x400 * i
abbrev R.DET_CNT (i : Nat) : Nat := 0x1320 + 0x400 * i
abbrev R.HD_ADDR (i : Nat) (j : Nat) : Nat := 0x1340 + 0x400 * i + 0x20 * j
abbrev R.HD_DIM (i : Nat) (j : Nat) : Nat := 0x1348 + 0x400 * i + 0x20 * j
abbrev R.HD_PITCH (i : Nat) (j : Nat) : Nat := 0x1350 + 0x400 * i + 0x20 * j
abbrev R.HD_TBL (i : Nat) (j : Nat) : Nat := 0x1358 + 0x400 * i + 0x20 * j
abbrev R.RCH_CTL : Nat := 0x100
abbrev R.RCH_LAG : Nat := 0x108
abbrev R.RCH_STS : Nat := 0x110
abbrev R.RCH_LOAD : Nat := 0x118
abbrev R.RCH_MAP_ADDR : Nat := 0x120
abbrev R.RCH_MAP_GO : Nat := 0x128
abbrev R.RCH_BIN : Nat := 0x130
abbrev R.RCH_CNT0 : Nat := 0x138
abbrev R.RCH_CNT1 : Nat := 0x140
abbrev R.RCH_MP_CNT (i : Nat) : Nat := 0x200 + 0x8 * i
abbrev R.PRF_CIC (i : Nat) : Nat := 0x2000 + 0x400 * i
abbrev R.PRF_FIR (i : Nat) : Nat := 0x2008 + 0x400 * i
abbrev R.PRF_DET (i : Nat) : Nat := 0x2010 + 0x400 * i
abbrev R.PRF_SPAN (i : Nat) : Nat := 0x2018 + 0x400 * i
abbrev R.PRF_GD (i : Nat) : Nat := 0x2020 + 0x400 * i
abbrev R.PRF_RATE (i : Nat) : Nat := 0x2028 + 0x400 * i
abbrev R.PRF_COEF (i : Nat) (j : Nat) : Nat := 0x2040 + 0x400 * i + 0x8 * j
abbrev R.RCH_CH (i : Nat) : Nat := 0x6000 + 0x8 * i
abbrev R.MP_CTL (i : Nat) : Nat := 0xa000 + 0x100 * i
abbrev R.MP_DET (i : Nat) : Nat := 0xa008 + 0x100 * i
abbrev R.MP_SPAN (i : Nat) : Nat := 0xa010 + 0x100 * i
abbrev R.MP_TRIP (i : Nat) : Nat := 0xa018 + 0x100 * i
abbrev R.MP_SETTLE (i : Nat) : Nat := 0xa020 + 0x100 * i
abbrev R.MP_EDGE (i : Nat) : Nat := 0xa028 + 0x100 * i
abbrev R.MP_TAU (i : Nat) : Nat := 0xa030 + 0x100 * i
abbrev R.MP_OUT (i : Nat) : Nat := 0xa038 + 0x100 * i
abbrev R.SEC_B01 (i : Nat) (j : Nat) : Nat := 0xa040 + 0x100 * i + 0x18 * j
abbrev R.SEC_B2A1 (i : Nat) (j : Nat) : Nat := 0xa048 + 0x100 * i + 0x18 * j
abbrev R.SEC_A2 (i : Nat) (j : Nat) : Nat := 0xa050 + 0x100 * i + 0x18 * j
abbrev R.LDG_CTL : Nat := 0x100
abbrev R.LDG_RESERVE : Nat := 0x108
abbrev R.LDG_STS : Nat := 0x110
abbrev R.LDG_CNT : Nat := 0x118
abbrev R.CQ_BASE (i : Nat) : Nat := 0x1000 + 0x40 * i
abbrev R.CQ_SIZE (i : Nat) : Nat := 0x1008 + 0x40 * i
abbrev R.CQ_HEAD (i : Nat) : Nat := 0x1010 + 0x40 * i
abbrev R.CQ_TAIL (i : Nat) : Nat := 0x1018 + 0x40 * i
abbrev R.CQ_CTL (i : Nat) : Nat := 0x1020 + 0x40 * i
abbrev R.CQ_CNT (i : Nat) : Nat := 0x1028 + 0x40 * i
abbrev R.RES_CTL : Nat := 0x100
abbrev R.RES_STS : Nat := 0x108
abbrev R.MDL_ADDR : Nat := 0x110
abbrev R.MDL_LEN : Nat := 0x118
abbrev R.MDL_GO : Nat := 0x120
abbrev R.MDL_STS : Nat := 0x128
abbrev R.MDL_ID : Nat := 0x130
abbrev R.RES_CNT0 : Nat := 0x138
abbrev R.RES_CNT1 : Nat := 0x140
abbrev R.RES_ROUTE_DEV : Nat := 0x148
abbrev R.WIN_CTL (i : Nat) : Nat := 0x1000 + 0x100 * i
abbrev R.WIN_SPAN (i : Nat) : Nat := 0x1008 + 0x100 * i
abbrev R.WIN_ORIGIN (i : Nat) : Nat := 0x1010 + 0x100 * i
abbrev R.WIN_STS (i : Nat) : Nat := 0x1018 + 0x100 * i
abbrev R.WIN_CHAIN (i : Nat) (j : Nat) : Nat := 0x1020 + 0x100 * i + 0x8 * j
abbrev R.WIN_READOUT (i : Nat) : Nat := 0x1060 + 0x100 * i
abbrev R.WIN_ROUTE (i : Nat) : Nat := 0x1068 + 0x100 * i
abbrev R.WIN_CNT (i : Nat) : Nat := 0x1070 + 0x100 * i
abbrev R.RING_BASE (i : Nat) : Nat := 0x2000 + 0x40 * i
abbrev R.RING_SIZE (i : Nat) : Nat := 0x2008 + 0x40 * i
abbrev R.RING_HEAD (i : Nat) : Nat := 0x2010 + 0x40 * i
abbrev R.RING_TAIL (i : Nat) : Nat := 0x2018 + 0x40 * i
abbrev R.RING_CTL (i : Nat) : Nat := 0x2020 + 0x40 * i
abbrev R.RING_CNT (i : Nat) : Nat := 0x2028 + 0x40 * i
abbrev R.RING_NET (i : Nat) : Nat := 0x2030 + 0x40 * i
abbrev R.MEM_STS : Nat := 0x100
abbrev R.MEM_PC0_CNT : Nat := 0x108
abbrev R.MEM_PC1_CNT : Nat := 0x110
abbrev R.MEM_PC0_ERR : Nat := 0x118
abbrev R.MEM_PC1_ERR : Nat := 0x120
abbrev R.MEM_MRG_CNT : Nat := 0x128
abbrev R.MEM_MRG_LVL : Nat := 0x130
abbrev R.MEM_TEMP : Nat := 0x200
abbrev R.MEM_THR : Nat := 0x208
abbrev R.MEM_THR_CNT : Nat := 0x210
abbrev R.MEM_CFG : Nat := 0x218
abbrev R.SCB_ADDR : Nat := 0x100
abbrev R.SCB_LEN : Nat := 0x108
abbrev R.SCB_PAT : Nat := 0x110
abbrev R.SCB_GO : Nat := 0x118
abbrev R.SCB_STS : Nat := 0x120
abbrev R.SCB_WORDS : Nat := 0x128
abbrev R.SCB_SUM1 : Nat := 0x130
abbrev R.SCB_SUM2 : Nat := 0x138
abbrev R.SCB_FIRST : Nat := 0x140
abbrev R.SCB_POS : Nat := 0x148
abbrev R.MRAS_OVF : Nat := 0x100
abbrev R.MRAS_STS : Nat := 0x108
abbrev R.MRAS_LOCC : Nat := 0x110
abbrev R.BKT_CFG (i : Nat) : Nat := 0x1000 + 0x10 * i
abbrev R.BKT_STS (i : Nat) : Nat := 0x1008 + 0x10 * i
abbrev R.WTH_CTL : Nat := 0x100
abbrev R.WTH_STS : Nat := 0x108
abbrev R.WTH_CMD : Nat := 0x110
abbrev R.WTH_PEER_OFS : Nat := 0x118
abbrev R.WTH_PEER_RTT : Nat := 0x120
abbrev R.WTH_PEER_ID : Nat := 0x128
abbrev R.WTH_CMP_TOL : Nat := 0x130
abbrev R.WTH_PTB_TOL : Nat := 0x138
abbrev R.WTH_CNT0 : Nat := 0x140
abbrev R.WTH_CNT1 : Nat := 0x148
abbrev R.WTH_CNT2 : Nat := 0x150
abbrev R.WTH_P_SENT (i : Nat) : Nat := 0x1000 + 0x8 * i
abbrev R.PWC_CMD : Nat := 0x100
abbrev R.PWC_CTL : Nat := 0x108
abbrev R.PWC_STS : Nat := 0x110
abbrev R.PWC_DEFER_MAX : Nat := 0x118
abbrev R.PWC_DVFS : Nat := 0x120
abbrev R.PWC_WATCH_PORTS : Nat := 0x128
abbrev R.PWC_WAKE_EN : Nat := 0x130
abbrev R.PWC_WAKE_CAUSE : Nat := 0x138
abbrev R.PWC_ENTRY_LOG : Nat := 0x140
abbrev R.PWC_ABORT_CNT : Nat := 0x148
abbrev R.PWC_CNT : Nat := 0x150
abbrev R.PWC_WAKE_FAIL : Nat := 0x158
abbrev R.PWC_RESUME_VEC : Nat := 0x160
abbrev R.PWC_STRAP : Nat := 0x168
abbrev R.PWC_TIMES : Nat := 0x170
abbrev R.SGR_STS : Nat := 0x100
abbrev R.SGR_CMD : Nat := 0x108
abbrev R.SGR_ARG : Nat := 0x110
abbrev R.SGR_ARG_LEN : Nat := 0x118
abbrev R.SGR_OUT : Nat := 0x120
abbrev R.SGR_OUT_LEN : Nat := 0x128
abbrev R.SGR_FLOOR : Nat := 0x130
abbrev R.SGR_SVN : Nat := 0x138
abbrev R.SGR_MEAS_CNT : Nat := 0x140
abbrev R.SGR_DBG_LOG : Nat := 0x148
abbrev R.SGR_CNT : Nat := 0x150
abbrev R.SGR_MEAS (i : Nat) : Nat := 0x200 + 0x8 * i
abbrev R.SGR_IDH (i : Nat) : Nat := 0x240 + 0x8 * i
abbrev R.SGR_LOCK (i : Nat) : Nat := 0x1000 + 0x8 * i
abbrev R.HOST_HART_STS : Nat := 0x100
abbrev R.HOST_HART_START : Nat := 0x108
abbrev R.HOST_MTIME : Nat := 0x110
abbrev R.HOST_MSIP : Nat := 0x118
abbrev R.HOST_MTIMECMP (i : Nat) : Nat := 0x1000 + 0x8 * i
abbrev R.HOST_BOOT (i : Nat) : Nat := 0x1040 + 0x8 * i
abbrev R.PCIE_STS : Nat := 0x100
abbrev R.PCIE_OB_BASE : Nat := 0x108
abbrev R.PCIE_ERR : Nat := 0x110
abbrev R.PCIE_MSI_ADDR : Nat := 0x118
abbrev R.PCIE_MSI_PEND : Nat := 0x120
abbrev R.PCIE_ID : Nat := 0x128
abbrev R.XSPI_CMD : Nat := 0x100
abbrev R.XSPI_ADDR : Nat := 0x108
abbrev R.XSPI_GO : Nat := 0x110
abbrev R.XSPI_STS : Nat := 0x118
abbrev R.XSPI_TO : Nat := 0x120
abbrev R.XSPI_DATA (i : Nat) : Nat := 0x1000 + 0x8 * i
abbrev R.I2C_STS : Nat := 0x100
abbrev R.I2C_IN (i : Nat) : Nat := 0x1000 + 0x8 * i
abbrev R.I2C_OUT (i : Nat) : Nat := 0x1040 + 0x8 * i
abbrev R.UART_CTL : Nat := 0x100
abbrev R.UART_STS : Nat := 0x108
abbrev R.UART_DATA : Nat := 0x110
abbrev R.UART_CNT : Nat := 0x118
abbrev R.GPIO_OUT : Nat := 0x100
abbrev R.GPIO_OE : Nat := 0x108
abbrev R.GPIO_IN : Nat := 0x110
abbrev R.GPIO_IRQ_CFG : Nat := 0x118
abbrev R.GPIO_IRQ_PEND : Nat := 0x120
abbrev R.PG_ID : Nat := 0x0
abbrev R.PG_CAP : Nat := 0x8
abbrev R.PG_CTL : Nat := 0x10
abbrev R.PG_STS : Nat := 0x18
abbrev R.PG_IRQ_RAW : Nat := 0x20
abbrev R.PG_IRQ_EN : Nat := 0x28
abbrev R.PG_IRQ_STS : Nat := 0x30
abbrev R.PG_IRQ_SET : Nat := 0x38
abbrev R.PG_ERR_LOG0 : Nat := 0x40
abbrev R.PG_ERR_LOG1 : Nat := 0x48
abbrev R.PG_ERR_LOG2 : Nat := 0x50
abbrev R.PG_ERR_LOG3 : Nat := 0x58
abbrev R.PG_PWR : Nat := 0x60
abbrev R.PG_LEDGER : Nat := 0x68
abbrev R.TOP_SERIAL : Nat := 0x108
abbrev R.TOP_PAGEMAP (i : Nat) : Nat := 0x2000 + 0x8 * i
abbrev R.TOP_DEVID : Nat := 0x100
abbrev R.ADM_WIN : Nat := 0x100
abbrev R.NET_RING_BASE (i : Nat) : Nat := 0x1000 + 0x20 * i
abbrev R.NET_RING_SIZE (i : Nat) : Nat := 0x1008 + 0x20 * i
abbrev R.NET_RING_HEAD (i : Nat) : Nat := 0x1010 + 0x20 * i
abbrev R.NET_RING_TAIL (i : Nat) : Nat := 0x1018 + 0x20 * i
abbrev R.PCIE_MSIX_PBA (i : Nat) : Nat := 0x4000 + 0x8 * i
abbrev R.PCIE_MSIX_TBL (i : Nat) : Nat := 0x8000 + 0x8 * i

/-! ### Access masks and reset values -/

/-- One register or array of a page (R6 to R13): the offset of its first element, up to two array dimensions as
(count, stride), the bits of each access type of R10, and the value at reset. A bit in no mask is reserved (R9). -/
structure RegDef where
  base : Nat
  n1 : Nat := 1
  s1 : Nat := 0
  n2 : Nat := 1
  s2 : Nat := 0
  rw : Nat := 0
  ro : Nat := 0
  w1c : Nat := 0
  w1s : Nat := 0
  rc : Nat := 0
  wo : Nat := 0
  reset : Nat := 0
  deriving DecidableEq, Repr

/-- Registers of a TOP page. -/
def regsTOP : List RegDef :=
  [{ base := 0x1000, ro := 0xffffffff, reset := 0x1e0001 },
   { base := 0x1008, ro := 0xffffffffffffffff, reset := 0x6 },
   { base := 0x1010, ro := 0xffffffffffffffff, reset := 0x40000 },
   { base := 0x1018, ro := 0xffffffffffffffff, reset := 0x100 },
   { base := 0x1020, ro := 0xffffffffffffffff, reset := 0x20000 },
   { base := 0x1028, ro := 0xffffffffffffffff, reset := 0x10000 },
   { base := 0x1030, ro := 0xffffffffffffffff, reset := 0x40 },
   { base := 0x1038, ro := 0xffffffffffffffff, reset := 0x1400000 },
   { base := 0x1040, ro := 0xffffffffffffffff, reset := 0x8 },
   { base := 0x1048, ro := 0xffffffff, reset := 0x8000800 },
   { base := 0x1050, ro := 0xffffffffffffffff, reset := 0x800000 },
   { base := 0x1058, ro := 0xffffffffffffffff, reset := 0x1000 },
   { base := 0x1060, ro := 0xffffffffffffffff, reset := 0x100 },
   { base := 0x1068, ro := 0xffffffffffffffff, reset := 0x100 },
   { base := 0x1070, ro := 0xffffffffffffffff, reset := 0x20 },
   { base := 0x1078, ro := 0xffffffffffffffff, reset := 0x1000 },
   { base := 0x1080, ro := 0xffffffffffffffff, reset := 0x400000 },
   { base := 0x1088, ro := 0xffffffffffffffff, reset := 0x200000 },
   { base := 0x1090, ro := 0xffffffffffffffff, reset := 0x10000 },
   { base := 0x1098, ro := 0xffffffffffffffff, reset := 0x800000 }]  ++
  [{ base := 0x10a0, ro := 0xffffffffffffffff, reset := 0x8 },
   { base := 0x10a8, ro := 0xffffffffffffffff, reset := 0x4000 },
   { base := 0x10b0, ro := 0xffffffffffffffff, reset := 0x800 },
   { base := 0x10b8, ro := 0xffffffffffffffff, reset := 0x800 },
   { base := 0x10c0, ro := 0xffffffffffffffff, reset := 0x10 },
   { base := 0x10c8, ro := 0xffffffffffffffff, reset := 0x4000 },
   { base := 0x10d0, ro := 0xffffffffffffffff, reset := 0x40 },
   { base := 0x10d8, ro := 0xffffffffffffffff, reset := 0x8 },
   { base := 0x10e0, ro := 0xffffffffffffffff, reset := 0x600000000 },
   { base := 0x10e8, ro := 0xffffffffffffffff, reset := 0x8 },
   { base := 0x10f0, ro := 0xffffffffffffffff, reset := 0x800 },
   { base := 0x108, ro := 0xffffffffffffffff },
   { base := 0x2000, n1 := 64, s1 := 0x8, ro := 0xffffffffffffffff },
   { base := 0x100, ro := 0xffffffffffffffff, reset := 0x118004806 }]

/-- Registers of a PWC page. -/
def regsPWC : List RegDef :=
  [{ base := 0x100, wo := 0x7 },
   { base := 0x108, rw := 0x1 },
   { base := 0x110, ro := 0x6e7f, w1c := 0x1100 },
   { base := 0x118, rw := 0xfffff, reset := 0x3e8 },
   { base := 0x120, rw := 0x3, reset := 0x2 },
   { base := 0x128, rw := 0xff },
   { base := 0x130, rw := 0x7, reset := 0x1 },
   { base := 0x138, ro := 0x37bf },
   { base := 0x140, ro := 0xffffffff3f3f0fff },
   { base := 0x148, rc := 0xffffffff },
   { base := 0x150, rc := 0xffffffffffff },
   { base := 0x158, ro := 0xfff7f6, w1c := 0x9 },
   { base := 0x160, rw := 0xffffffffffffffff },
   { base := 0x168, ro := 0xf },
   { base := 0x170, ro := 0xffffffffffffffff }]

/-- Registers of a SGR page. -/
def regsSGR : List RegDef :=
  [{ base := 0x100, ro := 0x10f07f7 },
   { base := 0x108, wo := 0x3fff },
   { base := 0x110, rw := 0xffffffffffffffff },
   { base := 0x118, rw := 0xffff },
   { base := 0x120, rw := 0xffffffffffffffff },
   { base := 0x128, rw := 0xffff },
   { base := 0x130, ro := 0xffffffffffffffff },
   { base := 0x138, ro := 0x3ffffffff },
   { base := 0x140, ro := 0xffffffff },
   { base := 0x148, ro := 0xffffffff0000000f },
   { base := 0x150, rc := 0xffffffffffff },
   { base := 0x200, n1 := 8, s1 := 0x8, ro := 0xffffffffffffffff },
   { base := 0x240, n1 := 4, s1 := 0x8, ro := 0xffffffffffffffff },
   { base := 0x1000, n1 := 64, s1 := 0x8, ro := 0xffffffffffffffff, reset := 0xffffffffffffffff }]

/-- Registers of a LDG page. -/
def regsLDG : List RegDef :=
  [{ base := 0x100, rw := 0xffff0001, reset := 0x640001 },
   { base := 0x108, rw := 0x3fff, reset := 0x100 },
   { base := 0x110, ro := 0x3f047fff, w1c := 0xb0000 },
   { base := 0x118, rc := 0xffffffffffffffff },
   { base := 0x1000, n1 := 64, s1 := 0x40, rw := 0xffffffffffffffff },
   { base := 0x1008, n1 := 64, s1 := 0x40, rw := 0x1ffff },
   { base := 0x1010, n1 := 64, s1 := 0x40, ro := 0xffffffff },
   { base := 0x1018, n1 := 64, s1 := 0x40, rw := 0xffffffff },
   { base := 0x1020, n1 := 64, s1 := 0x40, rw := 0x7ff0003 },
   { base := 0x1028, n1 := 64, s1 := 0x40, rc := 0xffffffffffffffff }]

/-- Registers of a SP page. -/
def regsSP : List RegDef :=
  [{ base := 0x100, rw := 0xfff7f, reset := 0x1050 },
   { base := 0x108, ro := 0xff0003, w1c := 0x1f00 },
   { base := 0x110, rw := 0xfff0fff },
   { base := 0x118, rw := 0xffff },
   { base := 0x120, rw := 0x1 },
   { base := 0x128, rc := 0xffffffffffffffff },
   { base := 0x130, rc := 0xffffffffffffffff },
   { base := 0x138, rc := 0xffffffffffffffff },
   { base := 0x140, rc := 0xffffffffffffffff },
   { base := 0x200, rw := 0x7 },
   { base := 0x208, wo := 0x13f3f7f },
   { base := 0x210, ro := 0x3ff },
   { base := 0x220, n1 := 4, s1 := 0x8, rw := 0xffffffffffffffff },
   { base := 0x240, n1 := 4, s1 := 0x8, ro := 0xffffffffffffffff },
   { base := 0x1000, n1 := 256, s1 := 0x8, rw := 0x13fffffffffffff }]

/-- Registers of a IEQ page. -/
def regsIEQ : List RegDef :=
  [{ base := 0x100, rw := 0x1 },
   { base := 0x108, rw := 0xffff, reset := 0xc8 },
   { base := 0x110, ro := 0x203fff, w1c := 0x1f0000 },
   { base := 0x118, wo := 0x3 },
   { base := 0x120, n1 := 4, s1 := 0x8, ro := 0xffffffffffffffff },
   { base := 0x140, ro := 0xffffffffffffffff },
   { base := 0x148, rw := 0xffffffffffffffff },
   { base := 0x150, wo := 0x3fffff },
   { base := 0x158, rc := 0xffffffffffffffff },
   { base := 0x160, rc := 0x1fffffffffff }]

/-- Registers of a SV page. -/
def regsSV : List RegDef :=
  [{ base := 0x100, rw := 0xf077f, reset := 0x10000 },
   { base := 0x108, w1c := 0x7f },
   { base := 0x110, rw := 0xffff },
   { base := 0x118, rw := 0xffff },
   { base := 0x120, n1 := 4, s1 := 0x8, rw := 0x7ffffffff },
   { base := 0x140, rw := 0xffffffffffffffff },
   { base := 0x148, wo := 0x3f },
   { base := 0x150, rc := 0xffffffffffffffff },
   { base := 0x158, rc := 0xffffffffffffffff },
   { base := 0x160, rc := 0xffffffffffffffff },
   { base := 0x180, rc := 0xffffffffffffffff },
   { base := 0x188, rc := 0xffffffffffffffff },
   { base := 0x190, rc := 0xffffffffffffffff },
   { base := 0x198, rc := 0xffffffffffffffff },
   { base := 0x1a0, rc := 0xffffffffffffffff },
   { base := 0x1a8, ro := 0xffffffffffffffff },
   { base := 0x1b0, ro := 0xffffffffffffffff },
   { base := 0x200, n1 := 32, s1 := 0x8, rc := 0xffffffffffffffff },
   { base := 0x1000, n1 := 512, s1 := 0x8, rw := 0xffffffffffffffff, reset := 0xaaaaaaaaaaaaaaaa },
   { base := 0x2000, n1 := 256, s1 := 0x8, rw := 0xffffffffffffffff }]

/-- Registers of a ADM page. -/
def regsADM : List RegDef :=
  [{ base := 0x1000, n1 := 8, s1 := 0x80, rw := 0x1 },
   { base := 0x1008, n1 := 8, s1 := 0x80, ro := 0x100, w1c := 0x1f },
   { base := 0x1010, n1 := 8, s1 := 0x80, rw := 0x1ffff, reset := 0x1f4 },
   { base := 0x1018, n1 := 8, s1 := 0x80, rw := 0xffff, reset := 0x64 },
   { base := 0x1020, n1 := 8, s1 := 0x80, rw := 0x1ffff },
   { base := 0x1028, n1 := 8, s1 := 0x80, rw := 0xffffffffffffffff },
   { base := 0x1030, n1 := 8, s1 := 0x80, rw := 0xffffffffffffffff },
   { base := 0x1038, n1 := 8, s1 := 0x80, rw := 0xffffffffffffffff },
   { base := 0x1040, n1 := 8, s1 := 0x80, rw := 0xffffffffffff },
   { base := 0x1048, n1 := 8, s1 := 0x80, rw := 0xffffffffffff },
   { base := 0x1050, n1 := 8, s1 := 0x80, rw := 0xffffffffffff },
   { base := 0x1058, n1 := 8, s1 := 0x80, rw := 0xfffffffffffffff },
   { base := 0x1060, n1 := 8, s1 := 0x80, rw := 0xffffffff },
   { base := 0x1068, n1 := 8, s1 := 0x80, ro := 0xffffffff },
   { base := 0x1070, n1 := 8, s1 := 0x80, rc := 0xffffffff },
   { base := 0x100, ro := 0xffffffffffffffff }]

/-- Registers of a RFX page. -/
def regsRFX : List RegDef :=
  [{ base := 0x1000, n1 := 256, s1 := 0x80, rw := 0xffff1fffff7f7f7f },
   { base := 0x1008, n1 := 256, s1 := 0x80, rw := 0xffffffff03ff },
   { base := 0x1010, n1 := 256, s1 := 0x80, rw := 0xffffffffffffffff },
   { base := 0x1018, n1 := 256, s1 := 0x80, rw := 0xffffffffffffffff },
   { base := 0x1020, n1 := 256, s1 := 0x80, rw := 0xffffffffffffffff },
   { base := 0x1028, n1 := 256, s1 := 0x80, n2 := 4, s2 := 0x8, rw := 0xfff0fff0fff0fff },
   { base := 0x1048, n1 := 256, s1 := 0x80, ro := 0x6, w1c := 0xff01 },
   { base := 0x1050, n1 := 256, s1 := 0x80, rc := 0xffffffffffffffff },
   { base := 0x100, rw := 0x1 },
   { base := 0x108, ro := 0x11f, w1c := 0x600 },
   { base := 0x110, wo := 0x3 },
   { base := 0x118, rc := 0xffffffffffffffff },
   { base := 0x120, ro := 0xffffffff },
   { base := 0x128, w1c := 0xffffffff },
   { base := 0x130, rc := 0xffffffffffffffff },
   { base := 0x138, ro := 0x1ff },
   { base := 0x200, n1 := 32, s1 := 0x8, rw := 0xf }]

/-- Registers of a TCAL page. -/
def regsTCAL : List RegDef :=
  [{ base := 0x100, rw := 0x1 },
   { base := 0x108, ro := 0x1fff, w1c := 0x30000 },
   { base := 0x110, rc := 0xffffffffffffffff },
   { base := 0x118, rc := 0xffffffffffffffff },
   { base := 0x120, wo := 0x71fff03 },
   { base := 0x128, rw := 0xffffffffffffffff },
   { base := 0x130, rw := 0xffff00ffffff01ff },
   { base := 0x138, wo := 0xffffffffffffffff }]

/-- Registers of a SFS page. -/
def regsSFS : List RegDef :=
  [{ base := 0x100, ro := 0xffff70, w1c := 0x3 },
   { base := 0x108, ro := 0xffffff00ffffff, reset := 0x80000000800000 },
   { base := 0x110, rc := 0xffffffffffffffff },
   { base := 0x118, ro := 0xf007fffff },
   { base := 0x1000, n1 := 8, s1 := 0x40, rw := 0x1ff, reset := 0x1 },
   { base := 0x1008, n1 := 8, s1 := 0x40, ro := 0x80ffffff007fffff },
   { base := 0x1010, n1 := 8, s1 := 0x40, ro := 0x3ffff },
   { base := 0x1018, n1 := 8, s1 := 0x40, ro := 0xffffffff007fffff },
   { base := 0x1020, n1 := 8, s1 := 0x40, rc := 0xffffffffffffffff }]

/-- Registers of a CHD page. -/
def regsCHD : List RegDef :=
  [{ base := 0x100, rw := 0xff, reset := 0x3 },
   { base := 0x108, rw := 0xffff1f1f1f1f, reset := 0x6408040603 },
   { base := 0x110, rw := 0xff001fffff, reset := 0x2000060064 },
   { base := 0x118, ro := 0x1ff01ff0000, w1c := 0xf },
   { base := 0x120, rc := 0xffffffffffffffff },
   { base := 0x128, rc := 0xffffffffffffffff },
   { base := 0x130, rc := 0xffffffffffffffff }]

/-- Registers of a LOC page. -/
def regsLOC : List RegDef :=
  [{ base := 0x100, rw := 0x777f, reset := 0x2031 },
   { base := 0x108, rw := 0xffffffffffffff, reset := 0x4020000100030 },
   { base := 0x110, rw := 0xffffffffffffffff, reset := 0x1000400001403e8 },
   { base := 0x118, rw := 0x3fffff003fffff, reset := 0x200000 },
   { base := 0x120, rw := 0xffffffffffffffff },
   { base := 0x128, rw := 0xffffffffffffffff },
   { base := 0x130, rw := 0xffffffffffff, reset := 0x10000044d },
   { base := 0x138, wo := 0xff },
   { base := 0x140, ro := 0x3, w1c := 0x1fc },
   { base := 0x148, ro := 0xff81ffff003fffff },
   { base := 0x150, rc := 0xffffffffffffffff },
   { base := 0x158, rc := 0xffffffffffffffff },
   { base := 0x160, rc := 0xffffffffffffffff },
   { base := 0x168, rc := 0xffffffffffffffff },
   { base := 0x170, ro := 0xffffffffffffffff, reset := 0x100000001 },
   { base := 0x1000, n1 := 8, s1 := 0x40, rw := 0x1ffff, reset := 0x400 },
   { base := 0x1008, n1 := 8, s1 := 0x40, rc := 0xffffffff },
   { base := 0x1010, n1 := 8, s1 := 0x40, rc := 0xffffffffffffffff }]

/-- Registers of a KLN page. -/
def regsKLN : List RegDef :=
  [{ base := 0x100, rw := 0xffff1f, reset := 0x1 },
   { base := 0x108, ro := 0x1ff0, w1c := 0x3 },
   { base := 0x110, rc := 0xffffffffffffffff },
   { base := 0x118, ro := 0xffffffff },
   { base := 0x1000, n1 := 16, s1 := 0x40, rw := 0x7f0001 },
   { base := 0x1008, n1 := 16, s1 := 0x40, rw := 0xfffff000fffff },
   { base := 0x1010, n1 := 16, s1 := 0x40, rw := 0xffffffffffffffff },
   { base := 0x1018, n1 := 16, s1 := 0x40, rw := 0xffffffffffffffff },
   { base := 0x1020, n1 := 16, s1 := 0x40, rw := 0x1fffff },
   { base := 0x1028, n1 := 16, s1 := 0x40, ro := 0xffffff },
   { base := 0x200, rw := 0xffffffffffffffff },
   { base := 0x208, rw := 0xffffff },
   { base := 0x210, rw := 0x1fffffffffff },
   { base := 0x218, rw := 0xffffffffffffffff },
   { base := 0x220, rw := 0x7ff },
   { base := 0x228, ro := 0xffffffff },
   { base := 0x230, rw := 0xffffffff },
   { base := 0x238, rc := 0xffffffffffffffff },
   { base := 0x240, w1c := 0x3, rc := 0xffffffff0000 },
   { base := 0x400, n1 := 16, s1 := 0x8, rw := 0xffff3fff, reset := 0x3fff }]

/-- Registers of a LAT page. -/
def regsLAT : List RegDef :=
  [{ base := 0x1000, n1 := 256, s1 := 0x40, rw := 0x80ffffff },
   { base := 0x1008, n1 := 256, s1 := 0x40, rw := 0xffffff00ffffff },
   { base := 0x1010, n1 := 256, s1 := 0x40, rw := 0xffffff00ffffff },
   { base := 0x1018, n1 := 256, s1 := 0x40, rw := 0xffffffffffffffff },
   { base := 0x1020, n1 := 256, s1 := 0x40, rw := 0xffffffffff },
   { base := 0x1028, n1 := 256, s1 := 0x40, rw := 0xffffffff },
   { base := 0x100, rw := 0x7ffff },
   { base := 0x108, ro := 0xfff00, w1c := 0xf },
   { base := 0x110, ro := 0xfffffff },
   { base := 0x118, rc := 0xffffffffffffffff },
   { base := 0x120, rc := 0xffffffffffffffff },
   { base := 0x128, rc := 0xffffffff },
   { base := 0x130, rc := 0xffffffffffffffff },
   { base := 0x138, rc := 0xffffffffffffffff },
   { base := 0x200, rw := 0xffff, reset := 0x40 },
   { base := 0x208, ro := 0x3ffff7fffffffff },
   { base := 0x210, rc := 0xffffffffffffffff },
   { base := 0x218, rc := 0xffffffffffffffff },
   { base := 0x220, rc := 0xffffffffffffffff }]

/-- Registers of a FCT page. -/
def regsFCT : List RegDef :=
  [{ base := 0x100, rw := 0x1 },
   { base := 0x108, ro := 0xffffffff00000003, w1c := 0x4 },
   { base := 0x110, rw := 0xffffffffffffffff },
   { base := 0x118, rw := 0x1fff },
   { base := 0x120, ro := 0xffffffff },
   { base := 0x128, rw := 0xffffffff },
   { base := 0x130, wo := 0x1 },
   { base := 0x138, rc := 0xffffffffffffffff },
   { base := 0x140, rc := 0xffffffffffffffff },
   { base := 0x148, rc := 0xffffffffffffffff },
   { base := 0x150, rc := 0xffffffffffff },
   { base := 0x158, ro := 0xffff00000000ffff },
   { base := 0x1000, n1 := 2, s1 := 0x400, rw := 0x1f3fffffff },
   { base := 0x1008, n1 := 2, s1 := 0x400, rw := 0xffffffffffffffff },
   { base := 0x1010, n1 := 2, s1 := 0x400, rw := 0xffffffffffffffff },
   { base := 0x1018, n1 := 2, s1 := 0x400, rw := 0xffffffffffffffff },
   { base := 0x1020, n1 := 2, s1 := 0x400, rw := 0xffffffffffffffff },
   { base := 0x1028, n1 := 2, s1 := 0x400, rw := 0xffffffffffffffff },
   { base := 0x1030, n1 := 2, s1 := 0x400, rw := 0xffffffffffffffff },
   { base := 0x1038, n1 := 2, s1 := 0x400, rw := 0x3f }]  ++
  [{ base := 0x1040, n1 := 2, s1 := 0x400, rw := 0xffffffffffffffff },
   { base := 0x1048, n1 := 2, s1 := 0x400, wo := 0xff },
   { base := 0x1050, n1 := 2, s1 := 0x400, ro := 0xffff0000ff3f, w1c := 0x40 },
   { base := 0x1058, n1 := 2, s1 := 0x400, ro := 0xffff },
   { base := 0x1060, n1 := 2, s1 := 0x400, ro := 0xffffffffffffffff },
   { base := 0x1068, n1 := 2, s1 := 0x400, rc := 0xffffffffffffffff },
   { base := 0x1070, n1 := 2, s1 := 0x400, rc := 0xffffffffffffffff },
   { base := 0x1078, n1 := 2, s1 := 0x400, rc := 0xffffffffffffffff },
   { base := 0x1100, n1 := 2, s1 := 0x400, n2 := 4, s2 := 0x80, rw := 0xff077fffffff },
   { base := 0x1108, n1 := 2, s1 := 0x400, n2 := 4, s2 := 0x80, rw := 0xffffffff },
   { base := 0x1110, n1 := 2, s1 := 0x400, n2 := 4, s2 := 0x80, rw := 0xffffffffffffffff },
   { base := 0x1118, n1 := 2, s1 := 0x400, n2 := 4, s2 := 0x80, rw := 0xffffffffffffffff },
   { base := 0x1120, n1 := 2, s1 := 0x400, n2 := 4, s2 := 0x80, rw := 0xffffffffffffffff },
   { base := 0x1128, n1 := 2, s1 := 0x400, n2 := 4, s2 := 0x80, rw := 0xffffffffffffffff },
   { base := 0x1130, n1 := 2, s1 := 0x400, n2 := 4, s2 := 0x80, rw := 0xffffffffffffffff },
   { base := 0x1138, n1 := 2, s1 := 0x400, n2 := 4, s2 := 0x80, rw := 0xffffffff },
   { base := 0x1300, n1 := 2, s1 := 0x400, rw := 0x1ff07ff0037 },
   { base := 0x1308, n1 := 2, s1 := 0x400, rw := 0xffffffff },
   { base := 0x1310, n1 := 2, s1 := 0x400, rw := 0xffffffffffffffff },
   { base := 0x1318, n1 := 2, s1 := 0x400, rw := 0xffffffff }]  ++
  [{ base := 0x1320, n1 := 2, s1 := 0x400, rc := 0xffffffffffffffff },
   { base := 0x1340, n1 := 2, s1 := 0x400, n2 := 4, s2 := 0x20, rw := 0xffffffffffffffff },
   { base := 0x1348, n1 := 2, s1 := 0x400, n2 := 4, s2 := 0x20, rw := 0xffffffffffff },
   { base := 0x1350, n1 := 2, s1 := 0x400, n2 := 4, s2 := 0x20, rw := 0xffffffffffffffff },
   { base := 0x1358, n1 := 2, s1 := 0x400, n2 := 4, s2 := 0x20, rw := 0xffffffffffffffff }]

/-- Registers of a SHF page. -/
def regsSHF : List RegDef :=
  [{ base := 0x100, rw := 0x1fff00001fff },
   { base := 0x108, rw := 0x1fff00001fff },
   { base := 0x110, rw := 0x1fff00001fff },
   { base := 0x118, rw := 0x1fff00001fff },
   { base := 0x120, rw := 0x1fff00001fff },
   { base := 0x128, rw := 0x1fff00001fff },
   { base := 0x130, rw := 0x1fff00001fff },
   { base := 0x140, ro := 0x70, w1c := 0x3 }]

/-- Registers of a SPK page. -/
def regsSPK : List RegDef :=
  [{ base := 0x100, rw := 0x1 },
   { base := 0x108, ro := 0x3fff0008, w1c := 0x7 },
   { base := 0x110, rw := 0x3fff },
   { base := 0x118, rw := 0xffffffffffffffff },
   { base := 0x120, rw := 0xffffff0000003f },
   { base := 0x128, wo := 0x3 },
   { base := 0x130, rw := 0xffffffffffffffff },
   { base := 0x138, wo := 0x3f7fff },
   { base := 0x140, rc := 0xffffffffffffffff },
   { base := 0x148, rc := 0xffffffffffffffff }]

/-- Registers of a SPK6 page. -/
def regsSPK6 : List RegDef :=
  [{ base := 0x200, rw := 0xffffffffffffffff, reset := 0xa0 },
   { base := 0x208, rw := 0xffffffffffffffff },
   { base := 0x210, rw := 0x1fffff },
   { base := 0x1000, n1 := 8, s1 := 0x40, rw := 0xffffff0f },
   { base := 0x1008, n1 := 8, s1 := 0x40, rw := 0xffffffff },
   { base := 0x1010, n1 := 8, s1 := 0x40, ro := 0xffffffff },
   { base := 0x1018, n1 := 8, s1 := 0x40, rc := 0xffffffffffffffff }]

/-- Registers of a SPK7 page. -/
def regsSPK7 : List RegDef :=
  [{ base := 0x200, rw := 0xffff01ff, reset := 0x80 },
   { base := 0x208, rw := 0xfffff, reset := 0x3e8 },
   { base := 0x210, rw := 0xffffffffffffffff },
   { base := 0x218, wo := 0x3 },
   { base := 0x220, ro := 0xe07, w1c := 0x7f0100 },
   { base := 0x228, ro := 0xffffffffffffffff },
   { base := 0x230, ro := 0xffffff00ffffff },
   { base := 0x238, rw := 0x1ffffffffffff },
   { base := 0x240, rc := 0xffffffffffffffff },
   { base := 0x248, rw := 0xffffffffffffffff },
   { base := 0x250, rw := 0x1fffff },
   { base := 0x258, ro := 0xffffffff },
   { base := 0x260, rw := 0xffffffff },
   { base := 0x268, rc := 0xffffffffffffffff }]

/-- Registers of a RCH page. -/
def regsRCH : List RegDef :=
  [{ base := 0x100, rw := 0x1 },
   { base := 0x108, rw := 0x3ff, reset := 0x8 },
   { base := 0x110, ro := 0x11f0000, w1c := 0x1ff },
   { base := 0x118, ro := 0xffffffffffffffff },
   { base := 0x120, rw := 0xffffffffffffffff },
   { base := 0x128, wo := 0x3f07 },
   { base := 0x130, ro := 0xffffffffffffffff },
   { base := 0x138, rc := 0xffffffffffffffff },
   { base := 0x140, rc := 0xffffffffffffffff },
   { base := 0x200, n1 := 16, s1 := 0x8, rc := 0xffffffffffffffff },
   { base := 0x2000, n1 := 16, s1 := 0x400, rw := 0x3f0fff },
   { base := 0x2008, n1 := 16, s1 := 0x400, rw := 0x3ffffffffff },
   { base := 0x2010, n1 := 16, s1 := 0x400, rw := 0xffff01ff1f1fffff },
   { base := 0x2018, n1 := 16, s1 := 0x400, rw := 0xffffffffffffffff },
   { base := 0x2020, n1 := 16, s1 := 0x400, ro := 0xffffffff },
   { base := 0x2028, n1 := 16, s1 := 0x400, ro := 0x3ff },
   { base := 0x2040, n1 := 16, s1 := 0x400, n2 := 80, s2 := 0x8, rw := 0xffffffffffffffff },
   { base := 0x6000, n1 := 2048, s1 := 0x8, rw := 0x7ff7ff },
   { base := 0xa000, n1 := 16, s1 := 0x100, rw := 0x1fffff },
   { base := 0xa008, n1 := 16, s1 := 0x100, rw := 0xffff01ff1f1fffff }]  ++
  [{ base := 0xa010, n1 := 16, s1 := 0x100, rw := 0xffffffffffffffff },
   { base := 0xa018, n1 := 16, s1 := 0x100, rw := 0xffffffffffffffff },
   { base := 0xa020, n1 := 16, s1 := 0x100, rw := 0xffff },
   { base := 0xa028, n1 := 16, s1 := 0x100, rw := 0x7ffff },
   { base := 0xa030, n1 := 16, s1 := 0x100, ro := 0xffffffffffffffff },
   { base := 0xa038, n1 := 16, s1 := 0x100, ro := 0xffffffffffffffff },
   { base := 0xa040, n1 := 16, s1 := 0x100, n2 := 8, s2 := 0x18, rw := 0xffffffffffffffff },
   { base := 0xa048, n1 := 16, s1 := 0x100, n2 := 8, s2 := 0x18, rw := 0xffffffffffffffff },
   { base := 0xa050, n1 := 16, s1 := 0x100, n2 := 8, s2 := 0x18, rw := 0xfffffffff }]

/-- Registers of a RES page. -/
def regsRES : List RegDef :=
  [{ base := 0x100, rw := 0x1 },
   { base := 0x108, ro := 0x1f00, w1c := 0x3 },
   { base := 0x110, rw := 0xffffffffffffffff },
   { base := 0x118, rw := 0xffffffffff },
   { base := 0x120, wo := 0x13f },
   { base := 0x128, ro := 0xffffffff0000ff0f },
   { base := 0x130, ro := 0xffffffffffffffff },
   { base := 0x138, rc := 0xffffffffffffffff },
   { base := 0x140, rc := 0xffffffffffffffff },
   { base := 0x148, rw := 0xffffffffffffffff },
   { base := 0x1000, n1 := 8, s1 := 0x100, rw := 0x1ffff00003f1f },
   { base := 0x1008, n1 := 8, s1 := 0x100, rw := 0xffffffffffffffff },
   { base := 0x1010, n1 := 8, s1 := 0x100, rw := 0xffffffffffffffff },
   { base := 0x1018, n1 := 8, s1 := 0x100, ro := 0x7ffffffff },
   { base := 0x1020, n1 := 8, s1 := 0x100, n2 := 8, s2 := 0x8, rw := 0xffffffffff00ffff },
   { base := 0x1060, n1 := 8, s1 := 0x100, rw := 0xfff0fff },
   { base := 0x1068, n1 := 8, s1 := 0x100, rw := 0xffffffffffffffff },
   { base := 0x1070, n1 := 8, s1 := 0x100, rc := 0xffffffffffffffff },
   { base := 0x2000, n1 := 32, s1 := 0x40, rw := 0xffffffffffffffff },
   { base := 0x2008, n1 := 32, s1 := 0x40, rw := 0x1f }]  ++
  [{ base := 0x2010, n1 := 32, s1 := 0x40, ro := 0xffffffffffffffff },
   { base := 0x2018, n1 := 32, s1 := 0x40, rw := 0xffffffffffffffff },
   { base := 0x2020, n1 := 32, s1 := 0x40, rw := 0xff },
   { base := 0x2028, n1 := 32, s1 := 0x40, rc := 0xffffffffffffffff },
   { base := 0x2030, n1 := 32, s1 := 0x40, ro := 0xffffffffffffffff }]

/-- Registers of a PTB page. -/
def regsPTB : List RegDef :=
  [{ base := 0x100, rw := 0x7f7f7, reset := 0x34200 },
   { base := 0x108, ro := 0x3f, w1c := 0x1fff00 },
   { base := 0x110, wo := 0xf },
   { base := 0x118, ro := 0xffffffffffffffff },
   { base := 0x120, ro := 0xffffffffffffffff },
   { base := 0x128, ro := 0xffffffffffffffff },
   { base := 0x130, ro := 0xffffffffffffffff },
   { base := 0x138, ro := 0xffffffffffffffff },
   { base := 0x140, rw := 0xffffffffffffffff },
   { base := 0x148, rw := 0xffffffffffffffff },
   { base := 0x150, rw := 0xffffffffffffffff, reset := 0x3e80000 },
   { base := 0x158, ro := 0xffffffffffffffff },
   { base := 0x160, wo := 0xffffffffffffffff },
   { base := 0x168, rw := 0xffffffffffffffff },
   { base := 0x170, rw := 0xffffffff },
   { base := 0x178, rw := 0xffffffff },
   { base := 0x180, rw := 0xffffffff },
   { base := 0x188, ro := 0xffffffffffffffff },
   { base := 0x190, rw := 0xffffffffffffffff, reset := 0x3b9aca000000 },
   { base := 0x198, rw := 0xffffff }]  ++
  [{ base := 0x1a0, rw := 0xffffffffffffffff },
   { base := 0x1a8, ro := 0xffffffffffffffff },
   { base := 0x1b0, rw := 0xffffffffffffffff },
   { base := 0x1b8, rw := 0x3 },
   { base := 0x1c0, rw := 0xff, reset := 0x10 },
   { base := 0x1c8, rw := 0xffff00ffffffffff, reset := 0x1000100000000 },
   { base := 0x1d0, rc := 0xffffffffffffffff },
   { base := 0x1d8, rc := 0xffffffffffff }]

/-- Registers of a DTC page. -/
def regsDTC : List RegDef :=
  [{ base := 0x100, ro := 0xffffffffffffffff },
   { base := 0x108, ro := 0xffffffff },
   { base := 0x110, w1c := 0xff },
   { base := 0x1000, n1 := 8, s1 := 0x40, rw := 0xffffff3f03, reset := 0x1000002000 },
   { base := 0x1008, n1 := 8, s1 := 0x40, ro := 0xffffffffffffffff },
   { base := 0x1010, n1 := 8, s1 := 0x40, ro := 0xffffffffffffffff },
   { base := 0x1018, n1 := 8, s1 := 0x40, ro := 0xffffffff },
   { base := 0x1020, n1 := 8, s1 := 0x40, rc := 0xffffffff }]

/-- Registers of a NET page. -/
def regsNET : List RegDef :=
  [{ base := 0x100, rw := 0x1ff },
   { base := 0x108, ro := 0xf03, w1c := 0x1c },
   { base := 0x110, rw := 0xffffffffffff },
   { base := 0x118, rw := 0x3fff, reset := 0x5ee },
   { base := 0x120, rw := 0xffffffff },
   { base := 0x128, ro := 0x7f, w1c := 0x100 },
   { base := 0x130, ro := 0x7ffff },
   { base := 0x138, ro := 0xffffffffffffffff },
   { base := 0x140, ro := 0xffffffffffffffff },
   { base := 0x148, wo := 0xffffffffffffffff },
   { base := 0x150, rc := 0xffffffff },
   { base := 0x158, rw := 0xffffffffffff },
   { base := 0x160, rw := 0xffffffffffff },
   { base := 0x168, rc := 0xffffffffffffffff },
   { base := 0x2000, n1 := 16, s1 := 0x80, rw := 0xffffffff3f07fff7 },
   { base := 0x2008, n1 := 16, s1 := 0x80, rw := 0xffffffffffff },
   { base := 0x2010, n1 := 16, s1 := 0x80, rw := 0xffffffffff },
   { base := 0x2018, n1 := 16, s1 := 0x80, rw := 0xffffffffffffffff },
   { base := 0x2020, n1 := 16, s1 := 0x80, rw := 0xffffffffffffffff },
   { base := 0x2028, n1 := 16, s1 := 0x80, rw := 0xffffffffffffffff }]  ++
  [{ base := 0x2030, n1 := 16, s1 := 0x80, rw := 0xffffffffffffffff },
   { base := 0x2038, n1 := 16, s1 := 0x80, rw := 0xffffffff },
   { base := 0x2040, n1 := 16, s1 := 0x80, ro := 0xffffffff },
   { base := 0x2048, n1 := 16, s1 := 0x80, rc := 0xffffffffffffffff },
   { base := 0x1000, n1 := 4, s1 := 0x20, rw := 0xffffffffffffffff },
   { base := 0x1008, n1 := 4, s1 := 0x20, rw := 0x1fff },
   { base := 0x1010, n1 := 4, s1 := 0x20, ro := 0xffffffff },
   { base := 0x1018, n1 := 4, s1 := 0x20, rw := 0xffffffff }]

/-- Registers of a NET0 page. -/
def regsNET0 : List RegDef :=
  [{ base := 0x180, rw := 0xffffff1f, reset := 0x1000 },
   { base := 0x188, rw := 0xffffffffffffffff },
   { base := 0x190, rw := 0xffffffffffffffff, reset := 0x3b9aca000000 },
   { base := 0x198, ro := 0xffffffffffffffff },
   { base := 0x1a0, ro := 0xffffffffffffffff },
   { base := 0x1a8, rc := 0xffffffff }]

/-- Registers of a MEM page. -/
def regsMEM : List RegDef :=
  [{ base := 0x100, ro := 0x3f },
   { base := 0x108, rc := 0xffffffffffffffff },
   { base := 0x110, rc := 0xffffffffffffffff },
   { base := 0x118, ro := 0x3ffffffffff },
   { base := 0x120, ro := 0x3ffffffffff },
   { base := 0x128, rc := 0xffffffffffffffff },
   { base := 0x130, ro := 0x7f007f }]

/-- Registers of a MEM0 page. -/
def regsMEM0 : List RegDef :=
  [{ base := 0x200, ro := 0x103ff, w1c := 0x20000 },
   { base := 0x208, rw := 0xffff, reset := 0x35d },
   { base := 0x210, rc := 0xffffffffffff },
   { base := 0x218, ro := 0xf3, reset := 0xc2 }]

/-- Registers of a SCB page. -/
def regsSCB : List RegDef :=
  [{ base := 0x100, rw := 0xffffffffff },
   { base := 0x108, rw := 0xffffffffff },
   { base := 0x110, rw := 0xffffffffffffffff },
   { base := 0x118, wo := 0x3f01 },
   { base := 0x120, ro := 0xf1, w1c := 0x6 },
   { base := 0x128, ro := 0xffffffffff },
   { base := 0x130, ro := 0xffffffffffffffff },
   { base := 0x138, ro := 0xffffffff },
   { base := 0x140, ro := 0x800000ffffffffff },
   { base := 0x148, ro := 0xffffffffff }]

/-- Registers of a MRAS page. -/
def regsMRAS : List RegDef :=
  [{ base := 0x100, ro := 0x7fffffffff },
   { base := 0x108, ro := 0x3f00, w1c := 0x1 },
   { base := 0x110, rc := 0xffffffffffff },
   { base := 0x1000, n1 := 39, s1 := 0x10, rw := 0x1ffffffff },
   { base := 0x1008, n1 := 39, s1 := 0x10, ro := 0xffff0000ffff, w1c := 0x10000 }]

/-- Registers of a WTH page. -/
def regsWTH : List RegDef :=
  [{ base := 0x100, rw := 0xffffffff0003, reset := 0x2000640000 },
   { base := 0x108, ro := 0x7f, w1c := 0xff00 },
   { base := 0x110, wo := 0x1 },
   { base := 0x118, ro := 0xffffffffffffffff },
   { base := 0x120, ro := 0xffffffff },
   { base := 0x128, ro := 0xffffffffffffffff },
   { base := 0x130, rw := 0x3ff03ff, reset := 0x20033 },
   { base := 0x138, rw := 0xffffffffffffffff, reset := 0x10000 },
   { base := 0x140, rc := 0xffffffffffffffff },
   { base := 0x148, rc := 0xffffffffffffffff },
   { base := 0x150, rc := 0xffffffffffffffff },
   { base := 0x1000, n1 := 8, s1 := 0x8, ro := 0xffffffffffffffff }]

/-- Registers of a PCIE page. -/
def regsPCIE : List RegDef :=
  [{ base := 0x100, ro := 0x3ff },
   { base := 0x108, rw := 0xffffff8000000000 },
   { base := 0x110, rc := 0xffffffffffffffff },
   { base := 0x118, rw := 0xffffffffffffffff },
   { base := 0x120, w1c := 0xffffffff },
   { base := 0x128, ro := 0xffffffffff },
   { base := 0x4000, n1 := 32, s1 := 0x8, ro := 0xffffffffffffffff },
   { base := 0x8000, n1 := 4096, s1 := 0x8, rw := 0xffffffffffffffff }]

/-- Registers of a HOST page. -/
def regsHOST : List RegDef :=
  [{ base := 0x100, ro := 0xffff, reset := 0x1 },
   { base := 0x108, w1s := 0xfe },
   { base := 0x110, ro := 0xffffffffffffffff },
   { base := 0x118, rw := 0xff },
   { base := 0x1000, n1 := 8, s1 := 0x8, rw := 0xffffffffffffffff, reset := 0x7fffffffffffffff },
   { base := 0x1040, n1 := 8, s1 := 0x8, rw := 0xffffffffffffffff }]

/-- Registers of a XSPI page. -/
def regsXSPI : List RegDef :=
  [{ base := 0x100, rw := 0x1ffffffff },
   { base := 0x108, rw := 0xffffffff },
   { base := 0x110, wo := 0xffffffffffffffff },
   { base := 0x118, ro := 0x1, w1c := 0xe },
   { base := 0x120, rw := 0xffff, reset := 0x1388 },
   { base := 0x1000, n1 := 32, s1 := 0x8, rw := 0xffffffffffffffff }]

/-- Registers of a I2C page. -/
def regsI2C : List RegDef :=
  [{ base := 0x100, ro := 0x1fc, w1c := 0x1, w1s := 0x2 },
   { base := 0x1000, n1 := 8, s1 := 0x8, ro := 0xffffffffffffffff },
   { base := 0x1040, n1 := 8, s1 := 0x8, rw := 0xffffffffffffffff }]

/-- Registers of a UART page. -/
def regsUART : List RegDef :=
  [{ base := 0x100, rw := 0xffff000f, reset := 0x1b0000 },
   { base := 0x108, ro := 0x7f7f, w1c := 0xf0000 },
   { base := 0x110, rw := 0xff },
   { base := 0x118, rc := 0xffffffff }]

/-- Registers of a GPIO page. -/
def regsGPIO : List RegDef :=
  [{ base := 0x100, rw := 0xffffffff },
   { base := 0x108, rw := 0xffffffff },
   { base := 0x110, ro := 0xffffffff },
   { base := 0x118, rw := 0xffffffffffffffff },
   { base := 0x120, w1c := 0xffffffff }]

/-- The common header (R570). -/
def regsHDR : List RegDef :=
  [{ base := 0x0, ro := 0xffffffffffffffff },
   { base := 0x8, ro := 0xff7f },
   { base := 0x10, rw := 0x7 },
   { base := 0x18, ro := 0xffff000f },
   { base := 0x20, w1c := 0xffffffffffffffff },
   { base := 0x28, rw := 0xffffffffffffffff },
   { base := 0x30, ro := 0xffffffffffffffff },
   { base := 0x38, wo := 0xffffffffffffffff },
   { base := 0x40, ro := 0xffffffffffffffff },
   { base := 0x48, ro := 0xffffffffffffffff },
   { base := 0x50, ro := 0xffff00ffffffffff },
   { base := 0x58, ro := 0xffffffffffffffff },
   { base := 0x60, ro := 0xffffffff000003ff },
   { base := 0x68, ro := 0x7fff }]

end Sys2Proof.Machine
end

