-- ==== Sys2Proof/Machine/Sparse.lean ====
section
/-!
DEFINITION. Machine/Sparse.lean: sparse data by number: a list of (key, value) pairs with strictly rising keys and no
entry equal to what an unlisted key reads as. Registers, byte memories, route tables, masks and histories use it.
-/

namespace Sys2Proof.Machine

/-- The value listed under `k`, if any. -/
def Sp.find {α : Type} : List (Nat × α) → Nat → Option α
  | [], _ => none
  | (j, v) :: m, k => if j = k then some v else Sp.find m k

/-- The value under `k`, an unlisted key reading as `d`. -/
def Sp.get {α : Type} (d : α) (m : List (Nat × α)) (k : Nat) : α :=
  match Sp.find m k with
  | some v => v
  | none => d

/-- `m` with no entry under `k`. -/
def Sp.erase {α : Type} (m : List (Nat × α)) (k : Nat) : List (Nat × α) :=
  m.filter fun p => p.1 != k

/-- `m` with `v` listed under `k`, in rising order. -/
def Sp.insert {α : Type} : List (Nat × α) → Nat → α → List (Nat × α)
  | [], k, v => [(k, v)]
  | (j, u) :: m, k, v =>
    if k < j then (k, v) :: (j, u) :: m
    else if j = k then (k, v) :: m
    else (j, u) :: Sp.insert m k v

/-- `m` after writing `v` under `k`, where an unlisted key reads as `d`: the canonical form is kept. -/
def Sp.set {α : Type} [DecidableEq α] (d : α) (m : List (Nat × α)) (k : Nat) (v : α) : List (Nat × α) :=
  if v = d then Sp.erase m k else Sp.insert m k v

/-- The canonical form: keys strictly rising and no entry equal to its key's default. -/
def Sp.wf {α : Type} [DecidableEq α] (d : Nat → α) (m : List (Nat × α)) : Bool :=
  decide ((m.map Prod.fst).Pairwise (· < ·)) && m.all fun p => decide (p.2 ≠ d p.1)

/-- A set of numbers as rising ranges `[start, end)` that neither overlap nor touch: membership. -/
def Iv.has (l : List (Nat × Nat)) (a : Nat) : Bool := l.any fun r => decide (r.1 ≤ a) && decide (a < r.2)

/-- The set with the numbers from `a` up to `e` added. -/
def Iv.add : List (Nat × Nat) → Nat → Nat → List (Nat × Nat)
  | [], a, e => [(a, e)]
  | (b, f) :: r, a, e =>
    if f < a then (b, f) :: Iv.add r a e
    else if e < b then (a, e) :: (b, f) :: r
    else Iv.add r (min a b) (max e f)

/-- The set with the numbers from `a` up to `e` removed. -/
def Iv.del : List (Nat × Nat) → Nat → Nat → List (Nat × Nat)
  | [], _, _ => []
  | (b, f) :: r, a, e =>
    if f ≤ a then (b, f) :: Iv.del r a e
    else if e ≤ b then (b, f) :: r
    else (if b < a then [(b, a)] else []) ++ (if e < f then (e, f) :: r else Iv.del r a e)

/-- The canonical form of such a set. -/
def Iv.wf : List (Nat × Nat) → Bool
  | [] => true
  | [(b, f)] => decide (b < f)
  | (b, f) :: (c, g) :: r => decide (b < f) && decide (f < c) && Iv.wf ((c, g) :: r)

/-- A finite set of numbers kept sorted: membership. -/
def NSet.has (m : List Nat) (k : Nat) : Bool := m.contains k

/-- A finite set of numbers kept sorted: insertion. -/
def NSet.add : List Nat → Nat → List Nat
  | [], k => [k]
  | j :: m, k => if k < j then k :: j :: m else if j = k then j :: m else j :: NSet.add m k

/-- A finite set of numbers kept sorted: removal. -/
def NSet.del (m : List Nat) (k : Nat) : List Nat := m.filter (· != k)

end Sys2Proof.Machine
end

