-- ==== Sys2Proof/Machine/Regs.lean ====
section
/-!
DEFINITION. Machine/Regs.lean: the page indices (R569), identity and capability of a page (R570, R575), and the lookup of
a register's access masks and reset value.
-/

namespace Sys2Proof.Machine

/-- R569: the kinds of page. NET0 and MEM0 hold the PPS and thermal registers; SPK6 and SPK7 hold the ingress and the
floor-unit registers. -/
inductive PageKind where
  | top | pwc | sgr | ldg | sp | ieq | sv | adm | rfx | tcal | sfs | chd | loc | kln | lat | fct | shf
  | spk | spk6 | spk7 | rch | res | ptb | dtc | net0 | net1 | mem0 | mem | scb | mras | wth | pcie | host
  | xspi | i2c | uart | gpio
  deriving DecidableEq, Repr

/-! R569: page indices. -/
abbrev PG.top : Nat := 0x000
abbrev PG.pwc : Nat := 0x001
abbrev PG.sgr : Nat := 0x002
abbrev PG.ldg : Nat := 0x003
abbrev PG.sp (p : Nat) : Nat := 0x008 + p
abbrev PG.ieq (p : Nat) : Nat := 0x010 + p
abbrev PG.sv (p : Nat) : Nat := 0x018 + p
abbrev PG.adm : Nat := 0x020
abbrev PG.rfx : Nat := 0x021
abbrev PG.tcal : Nat := 0x022
abbrev PG.sfs : Nat := 0x024
abbrev PG.chd (p : Nat) : Nat := 0x028 + p
abbrev PG.loc : Nat := 0x030
abbrev PG.kln (k : Nat) : Nat := 0x040 + 4 * k
abbrev PG.lat (k : Nat) : Nat := 0x041 + 4 * k
abbrev PG.fct (k : Nat) : Nat := 0x042 + 4 * k
abbrev PG.shf (k : Nat) : Nat := 0x043 + 4 * k
abbrev PG.spk (r : Nat) : Nat := 0x058 + r
abbrev PG.rch : Nat := 0x060
abbrev PG.res : Nat := 0x061
abbrev PG.ptb (p : Nat) : Nat := 0x068 + p
abbrev PG.dtc : Nat := 0x070
abbrev PG.net (q : Nat) : Nat := 0x071 + q
abbrev PG.mem (c : Nat) : Nat := 0x078 + c
abbrev PG.scb : Nat := 0x088
abbrev PG.mras : Nat := 0x089
abbrev PG.wth : Nat := 0x090
abbrev PG.pcie : Nat := 0x091
abbrev PG.host : Nat := 0x092
abbrev PG.xspi : Nat := 0x093
abbrev PG.i2c : Nat := 0x094
abbrev PG.uart : Nat := 0x095
abbrev PG.gpio : Nat := 0x096

/-- R569: the kind of the page at an index; none where the slot holds no page. -/
def pageKind (i : Nat) : Option PageKind :=
  if i < 0x008 then
    if i = 0 then some .top else if i = 1 then some .pwc else if i = 2 then some .sgr
    else if i = 3 then some .ldg else none
  else if i < 0x010 then some .sp
  else if i < 0x018 then some .ieq
  else if i < 0x020 then some .sv
  else if i < 0x028 then
    if i = 0x020 then some .adm else if i = 0x021 then some .rfx else if i = 0x022 then some .tcal
    else if i = 0x024 then some .sfs else none
  else if i < 0x030 then some .chd
  else if i < 0x040 then if i = 0x030 then some .loc else none
  else if i < 0x058 then
    if i % 4 = 0 then some .kln else if i % 4 = 1 then some .lat else if i % 4 = 2 then some .fct else some .shf
  else if i < 0x060 then if i < 0x05E then some .spk else if i = 0x05E then some .spk6 else some .spk7
  else if i < 0x068 then if i = 0x060 then some .rch else if i = 0x061 then some .res else none
  else if i < 0x070 then some .ptb
  else if i < 0x078 then
    if i = 0x070 then some .dtc else if i = 0x071 then some .net0 else if i = 0x072 then some .net1 else none
  else if i < 0x088 then if i = 0x078 then some .mem0 else some .mem
  else if i < 0x090 then if i = 0x088 then some .scb else if i = 0x089 then some .mras else none
  else if i = 0x090 then some .wth else if i = 0x091 then some .pcie else if i = 0x092 then some .host
  else if i = 0x093 then some .xspi else if i = 0x094 then some .i2c else if i = 0x095 then some .uart
  else if i = 0x096 then some .gpio else none

/-- Registers of a page of the kind (R48 to R569). -/
def kindRegs : PageKind → List RegDef
  | .top => regsTOP | .pwc => regsPWC | .sgr => regsSGR | .ldg => regsLDG | .sp => regsSP | .ieq => regsIEQ
  | .sv => regsSV | .adm => regsADM | .rfx => regsRFX | .tcal => regsTCAL | .sfs => regsSFS | .chd => regsCHD
  | .loc => regsLOC | .kln => regsKLN | .lat => regsLAT | .fct => regsFCT | .shf => regsSHF | .spk => regsSPK
  | .spk6 => regsSPK ++ regsSPK6 | .spk7 => regsSPK ++ regsSPK7 | .rch => regsRCH | .res => regsRES
  | .ptb => regsPTB | .dtc => regsDTC | .net0 => regsNET ++ regsNET0 | .net1 => regsNET
  | .mem0 => regsMEM ++ regsMEM0 | .mem => regsMEM | .scb => regsSCB | .mras => regsMRAS | .wth => regsWTH
  | .pcie => regsPCIE | .host => regsHOST | .xspi => regsXSPI | .i2c => regsI2C | .uart => regsUART
  | .gpio => regsGPIO

/-- R575: TYPE, the lowest page index of the kind. -/
def kindBase : PageKind → Nat
  | .top => 0x000 | .pwc => 0x001 | .sgr => 0x002 | .ldg => 0x003 | .sp => 0x008 | .ieq => 0x010
  | .sv => 0x018 | .adm => 0x020 | .rfx => 0x021 | .tcal => 0x022 | .sfs => 0x024 | .chd => 0x028
  | .loc => 0x030 | .kln => 0x040 | .lat => 0x041 | .fct => 0x042 | .shf => 0x043 | .spk => 0x058
  | .spk6 => 0x058 | .spk7 => 0x058 | .rch => 0x060 | .res => 0x061 | .ptb => 0x068 | .dtc => 0x070
  | .net0 => 0x071 | .net1 => 0x071 | .mem0 => 0x078 | .mem => 0x078 | .scb => 0x088 | .mras => 0x089
  | .wth => 0x090 | .pcie => 0x091 | .host => 0x092 | .xspi => 0x093 | .i2c => 0x094 | .uart => 0x095
  | .gpio => 0x096

/-- R575: INSTANCE of a page. -/
def pageInstance (k : PageKind) (i : Nat) : Nat :=
  match k with
  | .kln | .lat | .fct | .shf => (i - 0x040) / 4
  | _ => i - kindBase k

/-- R569: DOMAIN code of PG_CAP (R570). -/
def kindDomain : PageKind → Nat
  | .pwc => 4
  | .rfx | .tcal | .ptb | .dtc => 2
  | .net0 | .net1 | .wth => 5
  | .pcie | .host | .xspi | .i2c | .uart | .gpio => 1
  | _ => 0

/-- R571: pages that implement neither ENABLE nor QUIESCE. -/
def kindFixed : PageKind → Bool
  | .top | .kln | .dtc | .sp | .rch => true
  | _ => false

/-- R571: pages that implement no RESET. -/
def kindNoReset : PageKind → Bool
  | .top | .dtc => true
  | _ => false

/-- R569: PG_CTL.ENABLE after reset; a fixed ENABLE reads 1 (R571). -/
def kindEnable : PageKind → Bool
  | .ieq | .sv | .chd | .loc | .lat | .fct | .shf | .spk | .spk6 | .spk7 => false
  | _ => true

/-- R570: IRQ_BITS, the highest PG_IRQ_RAW bit that the page's chapter names, plus 1. -/
def kindIrqBits : PageKind → Nat
  | .ptb => 21 | .net0 | .net1 => 9 | .sp => 6 | .ieq => 4 | .sv => 1 | .rfx => 7 | .tcal => 3 | .sfs => 3
  | .chd => 2 | .loc => 5 | .lat => 5 | .fct => 9 | .shf => 3 | .kln => 4 | .adm => 16 | .spk | .spk6 => 1 | .spk7 => 4 | .rch => 6
  | .ldg => 3 | .res => 48 | .mem0 | .mem => 5 | .scb => 2 | .mras => 1 | .wth => 7 | .pwc => 5 | .sgr => 4
  | .pcie => 2 | .xspi => 1 | .i2c => 1 | .uart => 3 | .gpio => 1 | .top | .dtc | .host => 0

/-- Whether the PWC can power the kind's block down (R502, R503: every rail but the AON domain's drops). -/
def kindPwr : PageKind → Bool
  | .pwc => false
  | _ => true

/-- The register that holds offset `off`, with its two array indices. -/
def RegDef.hit (d : RegDef) (off : Nat) : Option (Nat × Nat) :=
  if off < d.base then none
  else
    let o := off - d.base
    let i := if d.s1 = 0 then 0 else o / d.s1
    let r := if d.s1 = 0 then o else o % d.s1
    let j := if d.s2 = 0 then 0 else r / d.s2
    let q := if d.s2 = 0 then r else r % d.s2
    if i < d.n1 ∧ j < d.n2 ∧ q = 0 then some (i, j) else none

/-- The first row of the list that holds `off`. -/
def findReg : List RegDef → Nat → Option (RegDef × Nat × Nat)
  | [], _ => none
  | d :: ds, off => match d.hit off with
    | some (i, j) => some (d, i, j)
    | none => findReg ds off

/-- The row of the register at an aligned offset of a page; none where the offset is unimplemented (R8). -/
def lookupReg (page off : Nat) : Option (RegDef × Nat × Nat) :=
  match pageKind page with
  | none => none
  | some k => if off < 0x100 then findReg regsHDR off else findReg (kindRegs k) off

/-- R132: the fields of one decoder-microcode entry of R129, VALID set. -/
def ucEntry (mch msk lsb width dst shift add emit cont : Nat) : Nat :=
  mch + msk <<< 16 + lsb <<< 32 + width <<< 37 + dst <<< 43 + shift <<< 46 + emit <<< 51 + cont <<< 52
    + add <<< 53 + 1 <<< 56

/-- R132: SP_UC at power-on reset. -/
def ucReset : Nat → Nat
  | 0 => ucEntry 0x0000 0xFC00 0 10 3 0 1 0 0
  | 1 => ucEntry 0x0400 0xFF00 0 8 3 0 0 0 0
  | 2 => ucEntry 0x0500 0xFF00 0 8 3 8 0 0 0
  | 3 => ucEntry 0x0600 0xFF00 0 8 3 16 0 0 0
  | 4 => ucEntry 0x0800 0xFD00 9 1 4 0 0 0 1
  | 5 => ucEntry 0x0800 0xFD00 0 8 7 0 0 0 0
  | 6 => ucEntry 0x1000 0xF800 0 11 5 0 0 0 0
  | 7 => ucEntry 0x2000 0xF800 0 11 2 0 0 0 0
  | 8 => ucEntry 0x4000 0xC000 13 1 4 0 0 0 1
  | 9 => ucEntry 0x4000 0xC000 0 13 6 0 0 0 0
  | 10 => ucEntry 0x8000 0x8000 11 3 3 0 1 0 1
  | 11 => ucEntry 0x8000 0x8000 0 11 1 0 0 0 1
  | 12 => ucEntry 0x8000 0x8000 14 1 4 0 0 1 0
  | 255 => 1
  | _ => 0

/-- R576: TOP_PAGEMAP[i]. -/
def pageMapWord (i : Nat) : Nat :=
  (List.range 64).foldl (fun a j => if (pageKind (64 * i + j)).isSome then a + 2 ^ j else a) 0

/-- R570, R575: PG_ID of a page. -/
def pgId (k : PageKind) (page : Nat) : Nat :=
  0x0010 + 0x0001 <<< 16 + (pageInstance k page) <<< 32 + (kindBase k) <<< 48

/-- R570: PG_CAP of a page. -/
def pgCap (k : PageKind) : Nat :=
  b2n (!kindFixed k) + b2n (!kindFixed k) <<< 1 + b2n (!kindNoReset k) <<< 2 + b2n (kindPwr k) <<< 3
    + (kindDomain k) <<< 4 + (kindIrqBits k) <<< 8

/-- The value of a register at reset (every register has one; the log names those the spec does not state). -/
def regReset (page off : Nat) : Word :=
  match pageKind page with
  | none => 0
  | some k =>
    if off < 0x100 then
      if off = R.PG_ID then wOfNat (pgId k page)
      else if off = R.PG_CAP then wOfNat (pgCap k)
      else if off = R.PG_CTL then wOfNat (b2n (kindEnable k))
      else 0
    else
      match findReg (kindRegs k) off with
      | none => 0
      | some (d, i, _) =>
        if k = .sp ∧ 0x1000 ≤ off then wOfNat (ucReset i)
        else if k = .top ∧ 0x2000 ≤ off then wOfNat (pageMapWord i)
        else if k = .pcie ∧ 0x8000 ≤ off ∧ off % 16 = 8 then wOfNat (2 ^ 32)
        else wOfNat d.reset

end Sys2Proof.Machine
end

