-- ==== Sys2Proof/Machine/State.lean ====
section
/-!
DEFINITION. Machine/State.lean: everything the spec gives the part, as plain data. Registers live in one sparse list (a
register not listed holds its reset value); what the blocks keep besides registers (queues, buffers, maps, work in flight)
stands in one structure per block. The first words of a field's docstring name the rule that gives the field.
-/

namespace Sys2Proof.Machine

/-- R1, R451: the order code. -/
inductive Part where
  | i24
  | i16
  deriving DecidableEq, Repr

/-- R6, R8, R10: what the last bus access answered. -/
inductive Reply where
  | none
  | data (v : Word)
  | bytes (b : List Byte)
  | busError
  /-- R217: data as stored, and the access ends with a bus error -/
  | errorData (b : List Byte)
  | accessFault
  | poisoned
  /-- R556: Unsupported Request; Completer Abort -/
  | unsupported
  | abort
  | nack
  /-- R539, R541: what the mailbox returns: the status code and the output shifted out; BUSY; ASLEEP -/
  | tap (code : Nat) (out : List Byte)
  | busy
  | asleep
  deriving DecidableEq, Repr

/-- R82: a scheduled item: its base, its target position, whether the base has been seen behind the target, and whether a
forward step passed it (R84). -/
structure Sched where
  id : ItemId
  base : Fin 8
  target : Word
  behind : Bool
  byStep : Bool
  /-- R200: cause code of the step that passed it: 3 FORCE_STEP, 4 HOME, 5 ALIGN -/
  cause : Nat := 3
  deriving DecidableEq, Repr

/-- R458: one entry of a merge buffer: the HBM word, the new bytes by offset, the DTC of the first write, the ledger items
whose writes it holds. -/
structure MergeEntry where
  word : Nat
  bytes : List (Nat × Byte)
  first : Word
  items : List Nat
  deriving DecidableEq, Repr

/-- R456, R457: the error state of a stored word other than a clean one. -/
inductive WordErr where
  | correctable
  | uncorrectable
  | poison
  deriving DecidableEq, Repr

/-- HBM and shelf memory and what the memory blocks keep. -/
structure MemState where
  /-- R35, R464: written bytes of HBM and of the shelves that are not 0, by physical address -/
  cells : List Host.Cell := []
  /-- R261, R462, R464: written bytes that are 0: rising, disjoint ranges of addresses, each with its end -/
  zeros : List (Nat × Nat) := []
  /-- R456, R457: words with an error, by the word's first address -/
  errs : List (Nat × WordErr) := []
  /-- R458: the merge buffer of each pseudo-channel, oldest entry first -/
  merge : Vector (List MergeEntry) 32 := Vector.replicate 32 []
  /-- R461: the DTC of the last leak (or of the enable) of each bucket -/
  bktAt : Vector Word 39 := Vector.replicate 39 0
  /-- R462: ledger item of the running scrub or fill -/
  scbItem : Option Nat := none
  /-- R462: OP of the running operation -/
  scbFill : Bool := false
  /-- R466: DTC of the last change of the throttle LEVEL -/
  thrAt : Word := 0
  /-- R466: DTC up to which MEM_THR_CNT has been counted -/
  thrCntAt : Word := 0
  /-- R530, R561: bytes of the boot flash that Saggar has written, by flash address; commands of the host that may have changed
  the flash: opcode, address, bytes. An unlisted byte is the flash's own (Config.flashByte) -/
  flash : List Host.Cell := []
  flashLog : List (Nat × Option Nat × List Byte) := []
  deriving DecidableEq, Repr

/-- R433: status codes of the ledger. -/
inductive Status where
  | ok | okEmpty | okLate | failInvalid | failPoison | failReset | failTimeout | failShed | failPower | failTwin | failDenied
  deriving DecidableEq, Repr

/-- R431: a ledger item in flight. -/
structure Item where
  /-- R432: ledger index -/
  idx : Nat
  /-- R432: page that owns the item -/
  page : Nat
  /-- R434: the completion queue its job named -/
  cq : Nat
  /-- R435: loads have no timeout -/
  load : Bool
  /-- R432: TAG of its completion -/
  tag : Nat
  /-- R435: DTC at which the item opened -/
  opened : Word
  /-- R460: a partial write of the item met a poisoned word -/
  poisoned : Bool
  /-- R473: its first terminal event has been recorded -/
  closed : Bool
  /-- R471: EPOCH of its page when it opened, which the replies to its requests carry -/
  epoch : Nat
  deriving DecidableEq, Repr

/-- R434: a completion that waits to be posted. -/
structure Completion where
  item : Nat
  page : Nat
  cq : Nat
  status : Status
  tag : Nat
  detail : Nat
  /-- R434: counted in CQ_CNT.STALL -/
  stalled : Bool
  /-- R434: it goes to queue 0 in place of its disabled queue -/
  zero : Bool
  /-- R474: DTC of the reply or of the page reset that ended the item -/
  decided : Option Word
  deriving DecidableEq, Repr

/-- The ledger (R431 to R436). -/
structure LedgerState where
  /-- R431: items in flight, oldest first -/
  items : List Item := []
  /-- R434: completions not yet posted, in the order in which their items completed -/
  waiting : List Completion := []
  /-- R471: replies on their way to items that their page's reset has closed: page and the epoch that they carry -/
  orphans : List (Nat × Nat) := []
  /-- R432: CQ_HEAD of each queue when its EN was set -/
  cqBase : Vector Nat 64 := Vector.replicate 64 0
  deriving DecidableEq, Repr

/-- R57, R62: the levels sampled at an ENC input, each with the DTC of the first sample that showed it; none where it has stood
from the beginning. -/
structure EncInput where
  a : Bool := false
  b : Bool := false
  z : Bool := false
  aAt : Option Word := none
  bAt : Option Word := none
  zAt : Option Word := none
  deriving DecidableEq, Repr

/-- R56, R71: the FORCE_STEP of a cycle: its DTC, the sum of its steps, and the last discontinuity and the slew before it. -/
structure CycleStep where
  at_ : Word
  amount : Word
  disc : Word
  slew : Int
  deriving DecidableEq, Repr

/-- What a position time base keeps besides its registers (R46 to R86). -/
structure PtbState where
  /-- R49: position at the anchor -/
  pos : Word := 0
  /-- R67: remainder of the position at the anchor, over 2^32 * 10^18 -/
  frac : Nat := 0
  /-- R67: DTC of the anchor -/
  at_ : Word := 0
  /-- R57: counts since the anchor of an encoder base -/
  cnt : Int := 0
  /-- R57: filtered levels of A, B and Z -/
  la : Bool := false
  lb : Bool := false
  lz : Bool := false
  /-- R59: an edge has been applied since RUN -/
  hasEdge : Bool := false
  /-- R59: timestamps of the edges of the velocity window, newest first -/
  edges : List Word := []
  /-- R59: the last edge moved the count up -/
  up : Bool := true
  /-- R53: EXTRAP, VEL_EDGES and ENC_FILT in force since the last edge -/
  extrapOn : Bool := true
  velEdges : Nat := 4
  encFilt : Nat := 3
  /-- R67: servo integrator in 2^-32 ppb -/
  integ : Int := 0
  /-- R67: loop trim in 2^-32 ppb -/
  loop : Int := 0
  /-- R70: outstanding slew, in 2^-16 units over 10^18 -/
  slewN : Int := 0
  /-- R80: history, newest first: IET and position -/
  hist : List (Nat × Word) := []
  /-- R62: a homing is armed -/
  homeArmed : Bool := false
  /-- R63: counts since the last Z edge -/
  zCnt : Option Int := none
  /-- R64: DTC of the last accepted zero-cross edge -/
  mainsLast : Option Word := none
  /-- R64: tracked period in ns -/
  mainsPeriod : Option Nat := none
  /-- R72: an offset has been accepted since RUN -/
  accepted : Bool := false
  /-- R72: consecutive accepted offsets within LOCK_TOL -/
  inTol : Nat := 0
  /-- R72: consecutive accepted offsets above LOCK_TOL -/
  outTol : Nat := 0
  /-- R72: DTC of the last accepted offset -/
  accAt : Word := 0
  /-- R71: DTC of the last START, ALIGN, HOME or FORCE_STEP -/
  discAt : Word := 0
  /-- R56: DTC of the last SNAP; the last cycle with a FORCE_STEP -/
  snapAt : Option Word := none
  stepped : Option CycleStep := none
  deriving DecidableEq, Repr

/-- What a stamp map keeps besides its registers (R75 to R79). -/
structure TmapState where
  /-- R77: no event since the enable -/
  fresh : Bool := true
  /-- R77: smallest residual of the running interval, and the interval's index -/
  rmin : Option Int := none
  interval : Nat := 0
  deriving DecidableEq, Repr

/-- R73: a discontinuity record on its way to the results unit. -/
inductive DiscCause where
  | start | align | home | forceStep | wake
  deriving DecidableEq, Repr

/-- R73: a discontinuity record. -/
structure DiscRec where
  base : Fin 8
  cause : DiscCause
  dtc : Word
  posBefore : Word
  posAfter : Word
  deriving DecidableEq, Repr

/-- R437 to R445: one result window of a port that has not closed. -/
structure Win where
  k : Nat
  start : Word
  stop : Word
  openDtc : Word
  /-- the end has fallen due (R438) or the window closes by time (R439) -/
  due : Bool := false
  closeDtc : Word := 0
  /-- R389: DTC of the window's end: END itself of a time window, else that at which END fell due or was set -/
  endDtc : Word := 0
  byTime : Bool := false
  merged : Bool := false
  step : Bool := false
  discont : Bool := false
  overcommit : Bool := false
  /-- R170: the admission window in which an event of this window was last admitted -/
  fed : Option Nat := none
  poison : Bool := false
  loss : Bool := false
  /-- R439: DTC of the earliest admitted event -/
  first : Option Word := none
  admitted : Nat := 0
  late : Nat := 0
  shed1 : Nat := 0
  shed2 : Nat := 0
  oop : Nat := 0
  lossBytes : Nat := 0
  lossWords : Vector Nat 6 := Vector.replicate 6 0
  frames : Nat := 0
  corners : Nat := 0
  /-- R438: the close drains the Chord unit and the tracker of the events admitted up to this DTC -/
  drainAt : Option Word := none
  deriving DecidableEq, Repr

/-- R440: a window chain in flight. -/
structure Chain where
  id : Nat
  /-- R431: its ledger item; none while every item is in use -/
  item : Option Nat
  win : Win
  /-- WIN_CTL, WIN_READOUT and the WIN_CHAIN entries at the close -/
  ctl : Word
  rd : Word
  jobs : List Word
  /-- step of R440 that runs, 1 to 6; within step 3 the WIN_CHAIN entry -/
  step : Nat
  entry : Nat
  /-- R440: descriptors of the running step 3 entry copied to the ring -/
  sub : Nat
  /-- items the running step waits for -/
  waits : List Nat
  /-- chain shed by R441 -/
  shed : Bool
  poison : Bool
  /-- first FAIL of a step other than FAIL_POISON -/
  fail : Option Status
  /-- objects of the list of step 5 -/
  objects : Option Nat
  /-- an OBJECT_LIST record was dropped (R448) -/
  lost : Bool
  deriving DecidableEq, Repr

/-- R444: an open batch of a port. -/
structure Batch where
  entries : List (List Byte) := []
  first : Word := 0
  win : Nat := 0
  deriving DecidableEq, Repr

/-- R448, R110: a record in a ring that a stream has not sent whole. -/
structure RecMark where
  pos : Nat
  len : Nat
  lastOfWindow : Bool
  dtc : Word
  /-- R492: PORT and WIN of the record; no port for a device record -/
  port : Option Nat
  win : Nat
  deriving DecidableEq, Repr

/-- R427 to R430: the model loader. -/
structure LoaderState where
  item : Option Nat := none
  patch : Bool := false
  addr : Nat := 0
  len : Nat := 0
  /-- R429: the write phase has begun -/
  writing : Bool := false
  /-- R430: JOBS writes of a pending patch, by port, and the ports that have switched -/
  jobs : List (Nat × List (Nat × Word)) := []
  switched : List Nat := []
  patchId : Nat := 0
  patchRefs : List (Nat × Nat) := []
  /-- R430: REFS of the active chains and the base image's swap range -/
  refs : List (Nat × Nat) := []
  swapBase : Nat := 0
  swapLen : Nat := 0
  /-- R34: lowest CORE_CLK point of the loaded model -/
  minClk : Nat := 0
  deriving DecidableEq, Repr

/-- The results unit (R437 to R450). -/
structure ResState where
  /-- R437: windows of each port that have not closed, oldest first -/
  wins : Vector (List Win) 8 := Vector.replicate 8 []
  /-- R438: DTC of the port's previous close -/
  prevClose : Vector (Option Word) 8 := Vector.replicate 8 none
  /-- R440: chains in flight, oldest first -/
  chains : Vector (List Chain) 8 := Vector.replicate 8 []
  /-- next chain identifier -/
  nextChain : Nat := 0
  /-- R440: terminal statuses of items that chains wait for: chain, item, status, detail -/
  chainDone : List (Nat × Nat × Status) := []
  /-- R444: open CORNER, TRACK_DELTA and AUX batches of each port -/
  batches : Vector (Vector Batch 3) 8 := Vector.replicate 8 (Vector.replicate 3 {})
  /-- R443: next RSEQ of each ring -/
  rseq : Vector (BitVec 16) 32 := Vector.replicate 32 0
  /-- R110: records of each ring that its stream has not sent whole -/
  marks : Vector (List RecMark) 32 := Vector.replicate 32 []
  /-- R73: discontinuity records waiting for the results unit -/
  disc : List DiscRec := []
  /-- R427: the loader -/
  mdl : LoaderState := {}
  deriving DecidableEq, Repr

/-- R97: an entry of the transmit timestamp queue. -/
structure TxStamp where
  seq : Nat
  ring : Nat
  dtc : Word
  pos : Word
  deriving DecidableEq, Repr

/-- R109, R110: a stream datagram in the transmit buffer. -/
structure Datagram where
  st : Fin 16
  seq : Nat
  flags : Nat
  recOfs : Nat
  records : Nat
  recIndex : Nat
  payload : List Byte
  /-- R492: port and WIN of the WINDOW records that end in it -/
  wins : List (Nat × Nat)
  deriving DecidableEq, Repr

/-- R92: what a receive completion holds, with its frame and its place in its ring. -/
structure RxCompletion where
  ring : Nat
  slot : Nat
  frame : List Byte
  tsValid : Bool
  msgType : Nat
  dtc : Word
  pos : Word
  deriving DecidableEq, Repr

/-- What an Ethernet port keeps besides its registers (R87 to R112). -/
structure NetState where
  /-- R97: transmit timestamp queue, head first -/
  txts : List TxStamp := []
  /-- R91: the stream engine goes next against TX1 -/
  streamTurn : Bool := false
  /-- R111: datagrams in the stream transmit buffer, oldest first -/
  sendq : List Datagram := []
  /-- R92: the receive completions that stand in the rings, newest first -/
  rx : List RxCompletion := []
  /-- R109: the stream has sent no datagram since its enable or since the device became active -/
  restart : Vector Bool 16 := Vector.replicate 16 true
  /-- R99: TAIL of TX0 and TX1 when the timestamp queue was last emptied: the frames before it post no entry -/
  mute : Vector (Option Nat) 2 := Vector.replicate 2 none
  /-- R91, R96: the last frame sent on the wire, with its FCS -/
  wire : List Byte := []
  /-- R88: a PAUSE frame received holds the transmitter until this DTC -/
  pauseTo : Word := 0
  deriving DecidableEq, Repr

/-- The PPS pins (R103, R104). -/
structure PpsState where
  /-- R103: PPS_OUT is high -/
  out : Bool := false
  /-- R103: DTC at which the pulse ends -/
  until_ : Word := 0
  /-- R104: DTC of the last PPS_IN edge -/
  inLast : Option Word := none
  deriving DecidableEq, Repr

/-- R79: the map state recorded with a packet when its header arrives. -/
structure MapRec where
  /-- STAMP mode in force -/
  stamp : Bool := false
  /-- R77: the map has seen no event yet -/
  fresh : Bool := false
  bits : Nat := 12
  lat : Nat := 0
  ofs : Int := 0
  rate : Int := 0
  deriving DecidableEq, Repr

/-- R128, R129: the state registers of a decoder and the bytes of a token not yet complete. -/
structure DecState where
  x : Nat := 0
  y : Nat := 0
  t : Nat := 0
  p : Bool := false
  base : Nat := 0
  /-- bytes of the open token, and the IET of the group in which it begins (R138) -/
  part : List Byte := []
  partIet : Nat := 0
  deriving DecidableEq, Repr

/-- R116, R117: a processed long packet that is being received. -/
structure RxPacket where
  seq : Nat
  dt : Nat
  wc : Nat
  rcvd : Nat
  map : MapRec
  dec : DecState
  /-- R138: GROUP_IET of the group being received -/
  groupIet : Nat
  /-- R141: the queue copy of the packet is being discarded -/
  cut : Bool
  /-- R122, R141: the packet has been counted in OVF_PKTS -/
  counted : Bool := false
  /-- R142: DROP_PKT discards the rest of the packet -/
  drop : Bool
  deriving DecidableEq, Repr

/-- What the front decoder's buffer holds, in stream order: event words with their packet's number, and packet results. -/
inductive FrontItem where
  | ev (w : Word) (seq : Nat)
  | crc (seq : Nat) (ok trunc : Bool)
  deriving DecidableEq, Repr

/-- R136, R137: an IEQ entry: its bytes (padded), tag fields, and the map state of its packet (R79). -/
structure IeqEntry where
  bytes : List Byte
  valid : Nat
  sop : Bool
  eop : Bool
  crcBad : Bool
  trunc : Bool
  mark : Bool
  frag : Bool
  timeout : Bool
  dt : Nat
  group : Nat
  iet : Nat
  map : MapRec
  /-- R140: parity found on read: 0 good, 1 a lane failed, 2 the tag failed -/
  parity : Fin 3 := 0
  deriving DecidableEq, Repr

/-- R136, R139: the open entry. -/
structure OpenEntry where
  bytes : List Byte
  sop : Bool
  frag : Bool
  group : Nat
  iet : Nat
  /-- R139: DTC at which it came to hold its first byte, and the timeout in force for it, in ns -/
  since : Word
  limit : Nat
  deriving DecidableEq, Repr

/-- R143: what the queue decoder holds of the packet it reads. -/
structure QueueDec where
  dec : DecState := {}
  /-- bytes of the packet read so far -/
  len : Nat := 0
  /-- the rest of the packet is discarded with this loss cause -/
  discard : Option Nat := none
  /-- bytes counted for the coming loss word -/
  lost : Nat := 0
  /-- entries are discarded until a good tag with SOP -/
  resync : Bool := false
  /-- R142: the last entry read had EOP = 0: a current packet exists -/
  current : Bool := false
  deriving DecidableEq, Repr

/-- R147: a raw queue read that runs. -/
structure RawDma where
  item : Nat
  addr : Nat
  len : Nat
  moved : Nat
  /-- DTC since which LEVEL has been 0 -/
  zeroAt : Word
  deriving DecidableEq, Repr

/-- R125: a camera-control transfer as the controller puts it on the bus. -/
structure CciXfer where
  /-- the target address, and whether the first byte written is a CCC code -/
  addr : Nat
  ccc : Bool
  /-- the bytes written, taken from SP_CCI_WBUF -/
  sent : List Byte
  /-- how many bytes are read after them -/
  rlen : Nat
  deriving DecidableEq, Repr

/-- What a sensor port keeps besides its registers (R113 to R135). -/
structure SpState where
  /-- R117: the packet being received -/
  rx : Option RxPacket := none
  /-- R187: sequence number of the next packet -/
  seq : Nat := 0
  /-- R134: front decoder buffer of 512 events -/
  front : List FrontItem := []
  /-- R121: DTC of the last HS burst -/
  burstAt : Word := 0
  /-- R123: the packet that the relay last forwarded: its header as received and its payload bytes -/
  relay : Option (CsiHeader × List Byte) := none
  /-- R125: camera-control transfer on the bus -/
  cci : Option CciXfer := none
  /-- R133: microcode entries with an uncorrectable error in the front and in the queue decoder's copy -/
  ucBadFront : List Nat := []
  ucBadQueue : List Nat := []
  /-- R143: the queue decoder -/
  qd : QueueDec := {}
  /-- R24: event words that the queue decoder has handed to the Sieve -/
  toSieve : List Word := []
  deriving DecidableEq, Repr

/-- An ingress event queue (R136 to R147). -/
structure IeqState where
  /-- R136: committed entries, oldest first -/
  q : List IeqEntry := []
  /-- R136: the open entry -/
  opened : Option OpenEntry := none
  /-- R141: overflow in progress: bytes and packets lost since it began -/
  ovf : Option (Nat × Nat) := none
  /-- R147: raw read in progress -/
  dma : Option RawDma := none
  deriving DecidableEq, Repr

/-- R188: the shadow of a checked-mode rule. -/
structure Shadow where
  ring : List Word
  holding : Bool
  tFire : Word
  /-- IET of the first deciding event, and the number of fires -/
  first : Option Nat
  fires : Nat
  deriving DecidableEq, Repr

/-- R180: what a rule keeps besides its words: the ring, oldest first. -/
structure RuleRt where
  ring : List Word := []
  tFire : Word := 0
  shadow : Option Shadow := none
  /-- R190: the rule has counted an event of the packet whose result is outstanding -/
  counted : Bool := false
  deriving DecidableEq, Repr

/-- R185, R197: a pending calendar entry; its target and base stand in the scheduled item of its slot. -/
structure CalEntry where
  slot : Nat
  sw : Bool
  /-- rule index, or TAG of a software insert -/
  rule : Nat
  /-- port and packet sequence number of the deciding event -/
  pkt : Option (Fin 8 × Nat)
  unchk : Bool
  out : Nat
  width : Nat
  skip : Bool
  deriving DecidableEq, Repr

/-- R190: a pulse that an event of a packet with an outstanding result started or extended. -/
structure PulseMark where
  out : Nat
  rule : Nat
  port : Fin 8
  seq : Nat
  target : Option (Fin 8 × Word)
  deriving DecidableEq, Repr

/-- R200, R446: a reflex record. -/
structure ReflexRec where
  kind : Nat
  cause : Nat
  out : Nat := 255
  sw : Bool := false
  rule : Nat := 0
  pkt : Option (Fin 8 × Nat) := none
  lane : Nat := 0
  count : Nat := 0
  dtc : Word := 0
  target : Option (Fin 8 × Word) := none
  /-- R198: base of a flush by base -/
  base : Nat := 0
  deriving DecidableEq, Repr

/-- The reflex path, the trigger calendar and the dead-man (R31, R176 to R210). -/
structure RfxState where
  /-- R180: rules by index -/
  rules : List (Nat × RuleRt) := []
  /-- R185: pending calendar entries -/
  cal : List CalEntry := []
  /-- R183: DTC at which the pulse of each output ends -/
  pulse : Vector (Option Word) 32 := Vector.replicate 32 none
  /-- R190: pulses of packets whose result is outstanding -/
  marks : List PulseMark := []
  /-- R200: reflex record queue -/
  recs : List ReflexRec := []
  /-- R417: rising trips that no rule has taken yet -/
  trips : List (Fin 16) := []
  /-- R31: DTC of the last core heartbeat, and whether one has come since the dead-man fired -/
  hbAt : Word := 0
  hbBack : Bool := false
  /-- R205: times at which each lane was masked, newest first, and the lane whose state is being copied -/
  maskedAt : Vector (List Word) 3 := Vector.replicate 3 []
  resync : Option (Fin 3) := none
  /-- R205: lanes that stay masked until a page reset -/
  stuck : List (Fin 3) := []
  /-- R206: words of a lane's copy with an uncorrectable error that are not rewritten yet -/
  eccBad : List (Fin 3 × Nat) := []
  /-- R202: level at which an output's ball stands against its drive -/
  held : Vector (Option Bool) 32 := Vector.replicate 32 none
  deriving DecidableEq, Repr
/-- R215: a region that is being freed. -/
structure Freeing where
  port : Fin 8
  base : Nat
  size : Nat
  deriving DecidableEq, Repr

/-- The surface store (R211 to R222). -/
structure SfsState where
  /-- R211: surface words that are not 0, by pixel offset -/
  words : List (Nat × BitVec 32) := []
  /-- R218: words with uncorrectable bytes, with the mask of those bytes -/
  bad : List (Nat × Nat) := []
  /-- R215: regions being freed -/
  freeing : List Freeing := []
  /-- R219: a sweep of the port runs -/
  sweep : Vector Bool 8 := Vector.replicate 8 false
  /-- R219: surface time of the port at its last sweep start, in units of 2^16 ticks -/
  sweptAt : Vector Nat 8 := Vector.replicate 8 0
  deriving DecidableEq, Repr

/-- R223: an event in a Chord unit's input queue, with the IET extended at the Sieve input (R212) and the DTC of its
admission. -/
structure ChdEvent where
  word : Word
  ext : Int
  admitted : Word
  deriving DecidableEq, Repr

/-- R232: a corner and flow record with the DTC of its event's admission. -/
structure ChdRec where
  body : Nat
  admitted : Word
  /-- R232: it goes to the tracker; it goes to the results unit -/
  toLoc : Bool
  toRes : Bool
  deriving DecidableEq, Repr

/-- A Chord unit (R223 to R233): input queue of 256 events, output queue of 64 records. -/
structure ChdState where
  q : List ChdEvent := []
  out : List ChdRec := []
  deriving DecidableEq, Repr

/-- R241: a record in a tracker input. -/
structure LocRec where
  body : Nat
  admitted : Word
  /-- R250: over budget -/
  excess : Bool
  deriving DecidableEq, Repr

/-- R248: a victim: slot, TRACK_ID, QUALITY and T_LAST. -/
structure Victim where
  slot : Nat
  id : Nat
  quality : Nat
  tLast : Nat
  deriving DecidableEq, Repr

/-- R396, R399: a box that a detection pass delivers. -/
structure Box where
  x0 : Int
  y0 : Int
  x1 : Int
  y1 : Int
  cls : Nat
  score : Nat
  /-- R399: head and anchor that found it -/
  head : Nat
  anchor : Nat := 0
  /-- R256: set by the binding: OBJ_ID, index, tracks, PARTIAL -/
  objId : Nat := 0
  objIx : Nat := 0xFFFF
  tracks : Nat := 0
  partial_ : Bool := false
  vx : Int := 0
  vy : Int := 0
  deriving DecidableEq, Repr

/-- R239: a line of the Locus cache: the address of its slot or object context, its 64 bytes, whether HBM lags it, and whether a
word of it is uncorrectable. -/
structure CacheLine where
  addr : Nat
  data : Nat
  dirty : Bool := false
  bad : Bool := false
  deriving DecidableEq, Repr

/-- R261: a running CLEAR: ledger item, bases that its checks passed, and whether no base has been written since. -/
structure LocClear where
  item : Nat
  tbl : Nat
  obj : Nat
  fresh : Bool := true
  deriving DecidableEq, Repr

/-- The Locus tracker (R236 to R262). -/
structure LocState where
  /-- R241: port inputs of 128 records -/
  inputs : Vector (List LocRec) 8 := Vector.replicate 8 []
  /-- R241: port that the round robin serves next -/
  turn : Fin 8 := 0
  /-- R250: units charged and budget of each port in the running admission window -/
  charge : Vector Nat 8 := Vector.replicate 8 0
  budget : Vector Nat 8 := Vector.replicate 8 0
  /-- R248: victim list in force and list being gathered -/
  victims : List Victim := []
  gather : List Victim := []
  /-- R253: next slot of the ageing sweep -/
  sweepPos : Nat := 0
  /-- R254: visits that still retire with cause FLUSH -/
  flushLeft : Nat := 0
  /-- R256: objects retired since the running sweep began -/
  retired : List Nat := []
  /-- R240: slots that read poisoned, to be freed at their next visit -/
  poisoned : List Nat := []
  /-- R239: the cache: by set, its lines, the last used first -/
  cache : List (Nat × List CacheLine) := []
  /-- R239, R240: the slot whose cache word the record being served reads in error, and whether it is uncorrectable; poisoned
  slots that this record has counted -/
  cacheErr : Option (Nat × Bool) := none
  counted : List Nat := []
  /-- R258: deltas not yet taken by the results unit: port and body -/
  deltas : List (Fin 8 × Nat) := []
  /-- R261: a running CLEAR -/
  clearing : Option LocClear := none
  /-- R256: boxes of each port waiting for the binding, and boxes bound, for the object list -/
  boxes : Vector (List Box) 8 := Vector.replicate 8 []
  bound : Vector (List Box) 8 := Vector.replicate 8 []
  deriving DecidableEq, Repr
/-- R405: an open bin of a region: count, saturated, LOSS mark. -/
structure RateBin where
  n : Nat := 0
  sat : Bool := false
  loss : Bool := false
  deriving DecidableEq, Repr

/-- R418: peak with its hold count, and envelope. -/
structure Detect where
  p : Nat := 0
  hold : Nat := 0
  e : Nat := 0
  deriving DecidableEq, Repr

/-- R418, R419: an open block. -/
structure RateBlk where
  n : Nat
  sumSq : Nat
  peak : Nat
  first : Word
  last : Word
  /-- tag of the first sample, and represented instant of the last -/
  pos : Word
  inst : Word
  flags : Nat
  deriving DecidableEq, Repr

/-- R414: one sample of a record being gathered: value, flags, position. -/
structure RateSample where
  y : Int
  flags : Nat
  pos : Word
  deriving DecidableEq, Repr

/-- R414, R418, R419: what follows the filters of a channel. -/
structure RateOut where
  det : Detect := {}
  blk : Option RateBlk := none
  /-- stamp of the first sample, DTC at which it came, samples -/
  gather : Option (Word × Word × List RateSample) := none
  deriving DecidableEq, Repr

/-- R408 to R411: a linear-phase channel: integrators, comb delays, FIR delay lines (newest first, with their SAT mark), end of
the last saturated bin and of the last bin with LOSS, in µs. -/
structure LpState where
  integ : List Int := [0, 0, 0, 0]
  combs : List (List Int) := [[], [], [], []]
  comp : List (Int × Bool) := []
  half : List (List (Int × Bool)) := [[], [], []]
  last : List (Int × Bool) := []
  satAt : Option Nat := none
  lossAt : Option Nat := none
  out : RateOut := {}
  deriving DecidableEq, Repr

/-- R417: trip state. -/
inductive TripState where
  | off | settling | armed | tripped
  deriving DecidableEq, Repr

/-- R415 to R417: a minimum-phase channel: x and y of the last two samples of each section, samples taken, samples that still
carry LOSS. -/
structure MpState where
  secs : List (Int × Int × Int × Int) := []
  /-- R405: which of those values were computed from a saturated bin -/
  marks : List (Bool × Bool × Bool × Bool) := []
  taken : Nat := 0
  lossLeft : Nat := 0
  trip : TripState := .off
  out : RateOut := {}
  deriving DecidableEq, Repr

/-- The rate chain (R403 to R423). -/
structure RchState where
  /-- R403: region-map entries that are not 0, by port * 65536 + tile -/
  map : List (Nat × Nat) := []
  /-- R406: next bin to close -/
  next : Nat := 0
  /-- R411: DTC at which RUN took effect -/
  runAt : Word := 0
  /-- R405: open bins by bin * 2048 + region, and bins with a LOSS mark -/
  bins : List (Nat × RateBin) := []
  lossBins : List Nat := []
  lp : List (Nat × LpState) := []
  mp : Vector MpState 16 := Vector.replicate 16 {}
  /-- R419: forward steps since RUN: base, DTC, position before and after -/
  steps : List (Fin 8 × Word × Word × Word) := []
  /-- R414: records waiting for the results unit: detector block or samples, and body -/
  recs : List (Bool × List Byte) := []
  /-- R404: running map load: port, item, address -/
  load : Option (Fin 8 × Nat × Nat) := none
  deriving DecidableEq, Repr
/-- R167, R169: an event of a hold queue: its word with the class, its IET extended at the Sieve input (R212), the DTC of its
entry, LATE. -/
structure HoldEv where
  word : Word
  ext : Int
  entered : Word
  late : Bool
  deriving DecidableEq, Repr

/-- R165: units of the three resources. -/
structure Budget where
  chd : Nat := 0
  loc : Nat := 0
  kln : Nat := 0
  deriving DecidableEq, Repr

/-- The Sieves and admission (R148 to R175, R601). -/
structure AdmState where
  /-- R152: mask bits that are 1, by port * 2^24 + y * 2^12 + x -/
  hot : List Nat := []
  /-- R153: running mask load of each port: ledger item and the image address that the checks passed -/
  load : Vector (Option (Nat × Nat)) 8 := Vector.replicate 8 none
  /-- R158: armed flag of FLK_UNLOCKED -/
  armed : Vector Bool 8 := Vector.replicate 8 false
  /-- R167: hold queues, head first -/
  hold : Vector (List HoldEv) 8 := Vector.replicate 8 []
  /-- R167: the head is a deferred class-1 event -/
  deferred : Vector Bool 8 := Vector.replicate 8 false
  /-- R165: budgets left -/
  rem0 : Vector Budget 8 := Vector.replicate 8 {}
  rem : Vector Budget 8 := Vector.replicate 8 {}
  /-- R170: the running admission window is overcommitted; WINDOW records written in it that hold events admitted in it: their
  ring, position, and the low byte of their flags -/
  ovc : Vector Bool 8 := Vector.replicate 8 false
  written : Vector (List (Fin 32 × Word × Nat)) 8 := Vector.replicate 8 []
  /-- R165: admission window of the last reload -/
  win : Nat := 0
  /-- R171: class-0 and class-1 events, and class-2 events, shed in the running admission window -/
  shed : Vector (Nat × Nat) 8 := Vector.replicate 8 (0, 0)
  deriving DecidableEq, Repr

/-- R295: a spike packet; MISS with the router of the miss (R299), and whether the bridge retimed its event (R304). -/
structure Packet where
  key : Nat
  step : Nat
  value : Nat
  epoch : Nat
  cancel : Bool
  src : Nat
  hops : Nat := 0
  miss : Option Nat := none
  retimed : Bool := false
  /-- R323: its step ran in Cone mode -/
  cone : Bool := false
  deriving DecidableEq, Repr

/-- R306: a packet at a kiln router's LOCAL output, with its pointer index and the DTC since which it waits for room. -/
structure LocalOut where
  pkt : Packet
  ptr : Nat
  at_ : Word
  held : Option Word := none
  deriving DecidableEq, Repr

/-- R294: a router: input queues of its ports LOCAL, XP, XN, YP, YN, each with the DTC at which its head came to the front;
the LOCAL output; the DTC at which each output port last moved a packet; route entries other than 0 (R297). -/
structure RouterState where
  inq : Vector (List Packet) 5 := Vector.replicate 5 []
  headAt : Vector Word 5 := Vector.replicate 5 0
  out : Option LocalOut := none
  movedAt : Vector Word 5 := Vector.replicate 5 0
  routes : List (Nat × Nat) := []
  /-- R331: running table load: item, address, entries -/
  load : Option (Nat × Nat × Nat) := none
  deriving DecidableEq, Repr

/-- R307: a packet in a spike input buffer: its step in 24 bits and the row its pointer named. -/
structure BufPkt where
  pkt : Packet
  step : Nat
  row : Nat
  deriving DecidableEq, Repr

/-- R314: a speculative step: its number, its first journal entry, the epoch in force. -/
structure SpecStep where
  step : Nat
  first : Nat
  epoch : Nat
  deriving DecidableEq, Repr

/-- R315: an update phase that has begun: the next slot to visit; it waits for a journal entry, and has been counted. -/
structure StepRun where
  slot : Nat
  counted : Bool
  deriving DecidableEq, Repr

/-- A kiln's lattice, annulus and courses (R263 to R292, R306 to R330). -/
structure LatState where
  /-- R284: resident course; next step of each course -/
  resident : Fin 16 := 0
  next : Vector Nat 16 := Vector.replicate 16 0
  /-- R310: committed floor of each course -/
  floor : Vector Nat 16 := Vector.replicate 16 0
  /-- R311: an update phase of the resident course is under way -/
  run : Option StepRun := none
  /-- R287: steps run in this residence; running swap: incoming course and start -/
  ran : Nat := 0
  swap : Option (Fin 16 × Word) := none
  /-- R307: spike input buffer, cancel list -/
  buf : List BufPkt := []
  cancels : List (Fin 16 × BufPkt) := []
  /-- R288: entries taken from and written to each inbox ring -/
  inHead : Vector Nat 16 := Vector.replicate 16 0
  inTail : Vector Nat 16 := Vector.replicate 16 0
  /-- R316: epoch -/
  epoch : Nat := 0
  /-- R314: speculative steps, oldest first; number of the next journal entry -/
  spec : List SpecStep := []
  jnext : Nat := 0
  /-- R322: slips since the lowest floor advanced -/
  slips : Nat := 0
  /-- R279: skipped slots, each with the 4-byte parts of its record that have not been written since (bit 0 the first) -/
  skip : List (Nat × Nat) := []
  /-- R319: contributions applied before a slip to slots that the undone steps have still to consume, modulo 2^20: by
  (course * 2^19 + slot) * 2^24 + arrival step -/
  ahead : List (Nat × Nat) := []
  /-- R306: pointers in the pointer cache, newest first, by pointer index -/
  ptrs : List (Nat × Nat) := []
  /-- R281: next slot of the leak sweep -/
  sweep : Nat := 0
  /-- R290: synapses applied beyond the units counted in SYN -/
  syn : Nat := 0
  /-- R275, R318: packets on their way to the router -/
  out : List Packet := []
  /-- R327: index of the oldest count window not closed; banks of counters other than 0; marks by window index
  (1 CONE, 2 RETIMED, 4 LOSS, 8 SAT, 16 RESET) -/
  cw : Nat := 0
  banks : Vector (List (Nat × Nat)) 2 := Vector.replicate 2 []
  marks : List (Nat × Nat) := []
  /-- R337: the page has been reset since it last ran -/
  broken : Bool := false
  deriving DecidableEq, Repr

/-- R334: a spike in the egress hold, with its step in 24 bits. -/
structure HeldSpike where
  pkt : Packet
  step : Nat
  deriving DecidableEq, Repr

/-- The spike fabric's bridges and floor unit (R293 to R337). -/
structure SpkState where
  routers : Vector RouterState 8 := Vector.replicate 8 {}
  /-- R302: IET tick, counted from DTC 0, at which step 0 starts -/
  origin : Int := 0
  /-- R304: completion time of each port, as a tick counted from DTC 0, and the DTC at which it was formed -/
  done : Vector Int 8 := Vector.replicate 8 0
  /-- R305: the spool, oldest first; entries taken from and written to its ring -/
  spool : List Packet := []
  spHead : Nat := 0
  /-- R324: first step of the running Cone step; the boundary B of DRAIN; the first barrier is to come; TO_WHEEL is pending;
  the recovery item is due -/
  cone : Nat := 0
  drainTo : Option Nat := none
  first : Bool := false
  toWheel : Bool := false
  recDue : Bool := false
  /-- R334: egress hold, oldest first -/
  hold : List HeldSpike := []
  deriving DecidableEq, Repr

/-- R367: the descriptor that runs: ledger item, TAG, ring index, status and WHY it will complete with, DTC of its start, the
ranges it writes. -/
structure FctRun where
  item : Nat
  tag : Nat
  index : Nat
  status : Status
  start : Word
  outs : List (Nat × Nat)
  deriving DecidableEq, Repr

/-- A kiln's facet (R338 to R371). -/
structure FctState where
  /-- R367, R431: ledger items of the descriptors not yet started, in ring order -/
  items : List Nat := []
  run : Option FctRun := none
  /-- R371: cycles and multiply-accumulates beyond the units counted in BUSY and MAC -/
  busy : Nat := 0
  mac : Nat := 0
  deriving DecidableEq, Repr

/-- R385, R387: a running rebase: layer and row of its next row step, EPOCH at its start, positions of the layer below whose S
this sweep has set. -/
structure Rebase where
  layer : Nat
  row : Nat
  start : Nat
  seen : List (Nat × Nat)
  deriving DecidableEq, Repr

/-- R388: a readout asked for by a chain, or running: ledger item, chain, window index, end of the window as a place of its port, and,
once its tensor is written, the status it will complete with. -/
structure RoRun where
  item : Nat
  chain : Nat
  win : Nat
  place : Word
  status : Option Status := none
  deriving DecidableEq, Repr

/-- R401: a detection pass asked for by a chain, or running: ledger item, chain. -/
structure DetRun where
  item : Nat
  chain : Nat
  status : Option Status := none
  deriving DecidableEq, Repr

/-- R399: what the list header tells of a context. -/
structure ListInfo where
  candidates : Nat := 0
  trunc : Bool := false
  outFull : Bool := false
  loss : Bool := false
  sat : Bool := false
  rebasing : Bool := false
  poison : Bool := false
  nan : Bool := false
  stale : Bool := false
  er : Int := 0
  deriving DecidableEq, Repr

/-- A stack context (R372 to R402). -/
structure IncState where
  /-- R378: queue of events -/
  q : List Word := []
  /-- R393: geometry that CLEAR recorded; ledger item of a running CLEAR -/
  geom : Nat × Nat := (0, 0)
  clear : Option Nat := none
  /-- R384: rebase asked for; running rebase; target of the rebase item -/
  rebReq : Bool := false
  reb : Option Rebase := none
  target : Word := 0
  /-- R395: a rebase must come before the next event -/
  needReb : Bool := false
  /-- R377, R378, R380, R399: marks for the coming readouts: STALE, windows with LOSS, POISON, SAT -/
  stale : Bool := false
  loss : List Nat := []
  poison : Bool := false
  sat : Bool := false
  /-- R390: window whose events each VOXEL bank holds unread -/
  bank : Vector (Option Nat) 2 := Vector.replicate 2 none
  ro : Option RoRun := none
  det : Option DetRun := none
  /-- R399: what the readouts and detection passes of the latest chains have found, newest first, by chain -/
  infos : List (Nat × ListInfo) := []
  deriving DecidableEq, Repr


/-- The host complex and its peripherals (R548 to R567). -/
structure HostState where
  /-- R551: address at which each hart last started; a debugger has halted the hart -/
  start : Vector Word 8 := Vector.replicate 8 0
  halted : Vector Bool 8 := Vector.replicate 8 false
  /-- R532, R551: Saggar holds core 0; harts that the handshake of R506 has halted -/
  hold : Bool := true
  held : Nat := 0
  /-- R550: machine timer interrupt pending, as each hart last took note of it -/
  mtip : Vector Bool 8 := Vector.replicate 8 false
  /-- R553: priorities, enable words (by context * 32 + word), thresholds and sources claimed and not completed -/
  prio : List (Nat × Nat) := []
  enab : List (Nat × Nat) := []
  thresh : Vector Nat 16 := Vector.replicate 16 0
  claimed : List Nat := []
  /-- R557: MSI-X function mask of the configuration space; the last message sent: address, data -/
  fmask : Bool := false
  msg : Option (Word × Nat) := none
  /-- R557: the last request sent to the outbound window: PCIe address and access -/
  outb : Option (Word × Access) := none
  /-- R558: a configuration request that waits for its completion -/
  cfg : Option Nat := none
  /-- R561: the flash engine polls since this DTC; opcode, address and length of the command it runs -/
  poll : Option Word := none
  /-- R562: denied opcodes and protected ranges of flash (start, end) -/
  denied : List Nat := []
  prot : List (Nat × Nat) := []
  /-- R561: the last command sent to the flash: opcode, address, bytes written -/
  xcmd : Option (Nat × Option Nat × List Byte) := none
  /-- R563: index of the management target -/
  index : Nat := 0
  /-- R564: receive and transmit FIFOs, oldest first; the last byte sent -/
  rxf : List Byte := []
  txf : List Byte := []
  txd : Option Byte := none
  /-- R565: pin levels -/
  pins : BitVec 32 := 0
  /-- R566: the TAP has been reset and not used since -/
  tapIdle : Bool := true
  deriving DecidableEq, Repr

/-- R495: a CREATE or OBJ_NEW delta of the peer that waits for its match: body (R258) and the DTC at which it expires. -/
structure PendAlias where
  body : Nat
  until_ : Word
  deriving DecidableEq, Repr

/-- R492, R497: what a WINDOW record and a LEDGER entry tell of a window. -/
structure WinSum where
  port : Nat
  win : Nat
  admitted : Nat
  objects : Nat
  corners : Nat
  deriving DecidableEq, Repr

/-- Twin pairing (R478 to R500). -/
structure TwinState where
  /-- R489: DTC at which EN was set -/
  since : Word := 0
  /-- R484, R485: DTC of reception and w0 of the last heartbeat; the peer's last known role; offsets of the last 16 -/
  hbAt : Option Word := none
  hbW0 : Word := 0
  peerRole : Nat := 0
  ofs : List Int := []
  /-- R486: DTC of the last edge of WOETH_ALIVE_IN -/
  aliveAt : Option Word := none
  /-- R488: start of the claim window; end of the running back-off -/
  claimAt : Word := 0
  backoff : Option Word := none
  /-- R484: TAKEOVERS of the heartbeat -/
  takeovers : BitVec 8 := 0
  /-- R482: SEQ of the last sequenced frame sent, and of the last received in order -/
  seq : Nat := 0
  rseq : Nat := 0
  /-- R483: replay buffer: SEQ and frame, oldest first; sequenced frames that wait for room: TYPE and payload words -/
  replay : List (Nat × List Byte) := []
  queue : List (Nat × List Nat) := []
  /-- R494: last window of each port reported SENT -/
  ownSent : Vector Nat 8 := Vector.replicate 8 0
  /-- R483: the next sequenced frame received sets the sequence -/
  resync : Bool := true
  /-- R489: the dead-man fired in ACTIVE; DEMOTED is to set at the core's recovery -/
  demote : Bool := false
  /-- R492: ports of which the peer has reported a window SENT -/
  sentPorts : List Nat := []
  /-- R480: frames sent since the last heartbeat went out -/
  wire : List (List Byte) := []
  /-- R495: pending list -/
  pend : List PendAlias := []
  /-- R497: own WINDOW records of position windows; LEDGER entries that wait for theirs, with the DTC at which they expire -/
  own : List WinSum := []
  cmp : List (WinSum × Word) := []
  /-- R482: discontinuity records of each base -/
  discs : Vector Nat 8 := Vector.replicate 8 0
  deriving DecidableEq, Repr

/-- R501, R504, R518, R526, R592: where the power controller stands. -/
inductive PwrPhase where
  /-- PORST_N has risen; the straps are not sampled yet (R526) -/
  | porst
  | active
  | watch
  | slumber
  | dormant
  /-- an entry runs (R510) -/
  | entering
  /-- the stopped pages restart (R508) -/
  | rollback
  /-- an exit runs (R518) -/
  | exiting
  /-- THERMTRIP_N is asserted (R592) -/
  | tripped
  deriving DecidableEq, Repr

/-- R513: a wake event. -/
inductive WakeCause where
  | pin
  | alarm (p : Fin 8)
  | i2c
  | hbm
  | sw
  deriving DecidableEq, Repr

/-- The power controller (R501 to R527, R580 to R584, R592). -/
structure PwrState where
  phase : PwrPhase := .porst
  /-- state of a running entry (1 WATCH, 2 SLUMBER, 3 DORMANT), or the state left by a running exit (0 power-on reset) -/
  target : Nat := 0
  /-- step of the running entry (1 to 5) or exit (1 to 4) -/
  step : Nat := 0
  /-- R504: the entry started from WATCH -/
  fromWatch : Bool := false
  /-- R505: pages that have not answered, with their step, the first of them having REQ; pages that answered ACK, last first -/
  todo : List (Nat × Nat) := []
  acked : List Nat := []
  /-- R508: pages that WATCH has stopped, last first, while an entry from WATCH runs -/
  held : List Nat := []
  reqAt : Word := 0
  /-- R511, R512: a wake event that arrived during the entry, or that a running exit answers -/
  wake : List WakeCause := []
  /-- R512: the wake was latched after the point of no return -/
  replayed : Bool := false
  /-- R527: DTC at which the entry or exit began -/
  startAt : Word := 0
  /-- R46: while the AON domain carries the DTC: the phase of its clock, in 10^-9 / 32,768 of a cycle, and the part of the count
  below one ns, in 1/64 ns -/
  aonPhase : Nat := 0
  aonFrac : Nat := 0
  /-- R519: failed attempts of X1; the 20 ms wait runs -/
  attempts : Nat := 0
  retry : Bool := false
  /-- R527: an exit has failed since the last successful one -/
  failed : Bool := false
  /-- R524: the retention SRAM holds the set of an S3 -/
  saved : Bool := false
  /-- R524: enabled ports in ascending order of their surface regions at power-down -/
  ports : List (Fin 8) := []
  /-- R454: channels that failed training in the running exit -/
  memFail : List (Fin 16) := []
  /-- R516: AON comparators -/
  alarms : List (Fin 8 × Word) := []
  /-- R502: PWR_EN0–6, REFCLK_EN -/
  pwrEn : BitVec 7 := 0
  refclk : Bool := false
  /-- R580: CORE_VID; a raise of the point that waits: point and DTC of the new CORE_VID -/
  vid : Nat := 2
  raise : Option (Nat × Word) := none
  deriving DecidableEq, Repr

/-- R542: an outstanding challenge: its block, its level, the DTC of its issue. -/
structure Challenge where
  block : List Byte
  level : Nat
  at_ : Word
  deriving DecidableEq, Repr

/-- Saggar (R528 to R547), besides its registers. -/
structure SgrState where
  /-- R534: hash of the selected firmware image -/
  fwHash : List Byte := []
  /-- R529: the seed -/
  seed : Option Nat := none
  /-- R533: the valid ownership record -/
  record : Option (List Byte) := none
  /-- R535: monotonic counters of the flash: FIRMWARE, LOADER, RECORD; the block authenticates -/
  counters : Vector Nat 3 := Vector.replicate 3 0
  /-- R542: outstanding challenge; CHALLENGE is refused until this DTC -/
  chal : Option Challenge := none
  refuse : Option Word := none
  /-- R537: wakes since the last cold start -/
  wakes : Nat := 0
  /-- R543: a RETURN opens: its ledger item, if it has one -/
  erase : Option (Option Nat) := none
  deriving DecidableEq, Repr

/-- The state of the part. -/
structure State where
  /-- R1, R451: order code -/
  part : Part := .i24
  /-- R46: device time counter -/
  dtc : Word := 0
  /-- the model's own: the next free value's index -/
  free : Nat := 0
  /-- R6: registers that do not hold their reset value, by page * 0x10000 + offset -/
  regs : List (Nat × Word) := []
  /-- R6, R8: what the last bus access answered -/
  reply : Reply := .none
  /-- R470: pages in STATE OFF -/
  off : List Nat := []
  /-- R472: pages in STATE RESET -/
  inReset : List Nat := []
  /-- R205: PLLs that have lost lock -/
  unlocked : List (Fin 4) := []
  /-- R82: scheduled items -/
  sched : List Sched := []
  /-- R451 to R469: memory -/
  mem : MemState := {}
  /-- R431 to R436: ledger -/
  ldg : LedgerState := {}
  /-- R49 to R86: position time bases -/
  ptb : Vector PtbState 8 := Vector.replicate 8 {}
  /-- R57, R62: ENC inputs -/
  enc : Vector EncInput 8 := Vector.replicate 8 {}
  /-- R74 to R79: stamp maps -/
  tmap : Vector TmapState 8 := Vector.replicate 8 {}
  /-- R437 to R450: results unit -/
  res : ResState := {}
  /-- R87 to R112: Ethernet ports -/
  net : Vector NetState 2 := Vector.replicate 2 {}
  /-- R103, R104: PPS pins -/
  pps : PpsState := {}
  /-- R113 to R135: sensor ports -/
  sp : Vector SpState 8 := Vector.replicate 8 {}
  /-- R136 to R147: ingress event queues -/
  ieq : Vector IeqState 8 := Vector.replicate 8 {}
  /-- R31, R176 to R210: reflex path, trigger calendar, dead-man -/
  rfx : RfxState := {}
  /-- R211 to R222: surface store -/
  sfs : SfsState := {}
  /-- R223 to R233: Chord units -/
  chd : Vector ChdState 8 := Vector.replicate 8 {}
  /-- R236 to R262: Locus tracker -/
  loc : LocState := {}
  /-- R403 to R423: rate chain -/
  rch : RchState := {}
  /-- R148 to R175: Sieves and admission -/
  adm : AdmState := {}
  /-- R263 to R337: kilns' lattices -/
  lat : Vector LatState 6 := Vector.replicate 6 {}
  /-- R293 to R337: spike fabric -/
  spk : SpkState := {}
  /-- R33: CORE_CLK in MHz -/
  coreClk : Nat := 1600
  /-- R338 to R371: facets -/
  fct : Vector FctState 6 := Vector.replicate 6 {}
  /-- R372 to R402: stack contexts -/
  inc : Vector (Vector IncState 2) 6 := Vector.replicate 6 (Vector.replicate 2 {})
  /-- R548 to R567: host complex -/
  host : HostState := {}
  /-- R478 to R500: twin pairing -/
  twin : TwinState := {}
  /-- R501 to R527: power controller -/
  pwr : PwrState := {}
  /-- R528 to R547: Saggar -/
  sgr : SgrState := {}
  /-- commands waiting, first in first out -/
  pending : List Instr := []
  deriving DecidableEq, Repr

/-- R569, R502: the pages of the domains that the device powers up and down: every page but PWC. -/
def poweredPages : List Nat :=
  [0x000, 0x002, 0x003] ++ List.range' 0x008 24 ++ [0x020, 0x021, 0x022, 0x024] ++ List.range' 0x028 9 ++
    List.range' 0x040 32 ++ [0x060, 0x061] ++ List.range' 0x068 11 ++ List.range' 0x078 18 ++ List.range' 0x090 7

/-- The part right after reset (R526): every register at its reset value, every queue empty, every base stopped; the straps
are not sampled yet and every rail that the device switches is off. -/
def State.reset : State := { off := poweredPages }

/-- Why the machine stops with a fault. -/
inductive Fault where
  /-- no command raises it: the part never halts; safe -/
  | halted
  deriving DecidableEq, Repr

/-- Why a command has no meaning. -/
inductive Refusal where
  /-- raised only by the arms of exec that have no meaning yet; safe -/
  | notModelled (mnemonic : String)
  deriving DecidableEq, Repr

/-- What a command answers. -/
abbrev Res := Host.Outcome State Fault Refusal

end Sys2Proof.Machine
end

