-- ==== Sys2Proof/Machine/Ops.lean ====
section
/-!
DEFINITION. Machine/Ops.lean: the named operations every block uses: reading and writing a register, counters (R13),
interrupt causes (R573), the error logs (R574), the common write gate of a page, and scheduled items (R82 to R84).
-/

namespace Sys2Proof.Machine

/-- Where a register stands in the register list. -/
def rkey (page off : Nat) : Nat := page * 0x10000 + off

/-- The value of a register. -/
def State.reg (s : State) (page off : Nat) : Word :=
  Sp.get (regReset page off) s.regs (rkey page off)

/-- `s` with a register's value replaced. -/
def State.setReg (s : State) (page off : Nat) (v : Word) : State :=
  { s with regs := Sp.set (regReset page off) s.regs (rkey page off) v }

/-- A field of a register. -/
def State.fld (s : State) (page off lo n : Nat) : Nat := bf (s.reg page off) lo n

/-- A bit of a register. -/
def State.bit (s : State) (page off i : Nat) : Bool := bitAt (s.reg page off) i

/-- `s` with a field of a register replaced. -/
def State.setFld (s : State) (page off lo n v : Nat) : State :=
  s.setReg page off (putFld (s.reg page off) lo n v)

/-- `s` with a bit of a register set or cleared. -/
def State.setBit (s : State) (page off i : Nat) (b : Bool) : State :=
  s.setReg page off (putBit (s.reg page off) i b)

/-- `s` with bits of a register set. -/
def State.orReg (s : State) (page off : Nat) (v : Word) : State :=
  s.setReg page off (s.reg page off ||| v)

/-- R13: `k` added to a counter field of `n` bits, saturating at all ones. -/
def State.addCnt (s : State) (page off lo n k : Nat) : State :=
  s.setFld page off lo n (min (2 ^ n - 1) (s.fld page off lo n + k))

/-- R13: one added to a counter field. -/
def State.bump (s : State) (page off lo n : Nat) : State := s.addCnt page off lo n 1

/-- R573: a cause sets its PG_IRQ_RAW bit. -/
def State.irq (s : State) (page b : Nat) : State := s.setBit page R.PG_IRQ_RAW b true

/-- One added to a counter field; its RAW bit sets when the counter rises from 0. -/
def State.bumpIrq0 (s : State) (page off lo n b : Nat) : State :=
  let z := s.fld page off lo n = 0
  let s := s.bump page off lo n
  if z then s.irq page b else s

/-- The index of a free value, and the state in which it has been taken. -/
def State.takeFree (s : State) : Nat × State := (s.free, { s with free := s.free + 1 })

/-- The low 32 bits of the DTC. -/
def State.dtcLow (s : State) : Nat := s.dtc.toNat % 2 ^ 32

/-- R47: internal event time of a DTC value. -/
def ietOf (dtc : Word) : Nat := dtc.toNat * 2 / 125 % 2 ^ 32

/-- R47: internal event time now. -/
def State.iet (s : State) : Nat := ietOf s.dtc

/-- R212: the DTC value to which a recent IET extends: the latest tick, not after now, that has this IET; its first
nanosecond. -/
def State.ietToDtc (s : State) (iet : Nat) : Word :=
  let tick : Int := (s.dtc.toNat * 2 / 125 : Nat)
  let t := tick + sdiff 32 iet (s.iet)
  wOfInt ((t * 125 + 1) / 2)

/-- `t` with the queue and the order code of `s`. -/
def State.withQueueOf (t s : State) : State := { t with part := s.part, pending := s.pending }

/-- What a command answers: its effect `t`, which leaves the queue and the order code as they are. -/
def State.ends (s t : State) : Res := .next (t.withQueueOf s)

/-! ### The error logs (R574) -/

/-- R574: CAUSE codes of PG_ERR_LOG0. -/
inductive LogCause where
  | state | busy | locked | ledgerFull | handshake | inReset | refused
  deriving DecidableEq, Repr

/-- R574: the code of a cause. -/
def LogCause.code : LogCause → Nat
  | .state => 1 | .busy => 2 | .locked => 3 | .ledgerFull => 4 | .handshake => 5 | .inReset => 6 | .refused => 7

/-- R574: a write that is ignored or refused is recorded in PG_ERR_LOG0 of its page. -/
def State.logWr (s : State) (page : Nat) (w : Wr) (c : LogCause) : State :=
  let o := s.reg page R.PG_ERR_LOG0
  let n := min 0xFFFF (bf o 32 16 + 1)
  let s := s.setReg page R.PG_ERR_LOG0
    (wOfNat (w.off % 0x10000 + c.code <<< 16 + (iniCode w.ini) <<< 24 + n <<< 32))
  s.setFld page R.PG_ERR_LOG3 0 32 s.dtcLow

/-- R574: an entry of PG_ERR_LOG1: INFO, COUNT1 and the time of the entry. -/
def State.logInfo1 (s : State) (page info : Nat) : State :=
  let s := (s.setFld page R.PG_ERR_LOG1 0 40 info).addCnt page R.PG_ERR_LOG1 40 8 1
  s.setFld page R.PG_ERR_LOG3 32 32 s.dtcLow

/-- R574: an entry of PG_ERR_LOG2. -/
def State.logInfo2 (s : State) (page info : Nat) : State :=
  let s := (s.setFld page R.PG_ERR_LOG2 0 40 info).addCnt page R.PG_ERR_LOG2 48 16 1
  s.setFld page R.PG_ERR_LOG3 32 32 s.dtcLow

/-! ### Pages -/

/-- R470: the page is in STATE RESET. -/
def State.resetting (s : State) (page : Nat) : Bool := NSet.has s.inReset page

/-- R470: the page is in STATE OFF. -/
def State.isOff (s : State) (page : Nat) : Bool := NSet.has s.off page

/-- R571: PG_CTL.ENABLE. -/
def State.enabled (s : State) (page : Nat) : Bool := s.bit page R.PG_CTL 0

/-- R571: PG_CTL.QUIESCE. -/
def State.quiesced (s : State) (page : Nat) : Bool := s.bit page R.PG_CTL 1

/-- R506: the page has answered ACK and has stopped (PG_PWR.HS = STOPPED). -/
def State.stopped (s : State) (page : Nat) : Bool := s.fld page R.PG_PWR 0 2 = 2

/-- R470: STATE of a page. -/
def State.pageState (s : State) (page : Nat) : Nat :=
  if s.isOff page then 0 else if s.resetting page then 4
  else if !s.enabled page then 1 else if s.quiesced page then 3 else 2

/-- The block takes work: powered, out of reset, enabled, not quiesced and not stopped by a handshake. -/
def State.running (s : State) (page : Nat) : Bool := s.pageState page = 2 && !s.stopped page

/-- The block's logic works: powered and out of reset. -/
def State.alive (s : State) (page : Nat) : Bool := !s.isOff page && !s.resetting page

/-- R6, R8, R549: an access ends with a bus error; a hart takes it as a precise access fault. -/
def State.busErr (s : State) (ini : Initiator) : State :=
  { s with reply := match ini with | .hostCore _ => .accessFault | _ => .busError }

/-- R509: an entry or its rollback runs. -/
def State.inHandshake (s : State) : Bool := s.pwr.phase == .entering || s.pwr.phase == .rollback

/-- The common gate of a register write: a page that is OFF ignores it without a log (R572), a page in RESET logs it
(R472), a page that has answered ACK logs it (R509), and in WATCH a stopped page ends it with a bus error (R503). -/
def State.gate (s : State) (page : Nat) (w : Wr) (act : State → State) : State :=
  if s.isOff page then s
  else if s.resetting page then s.logWr page w .inReset
  else if s.stopped page then (if s.inHandshake then s.logWr page w .handshake else s.busErr w.ini)
  else act s

/-- R10: a write by the access type of each bit: RW stores, W1C clears, W1S sets; RO, RC and WO bits store nothing. -/
def applyWr (d : RegDef) (old : Word) (w : Wr) : Word :=
  let rw := BitVec.ofNat 64 d.rw &&& w.m
  let c := BitVec.ofNat 64 d.w1c &&& w.val
  let st := BitVec.ofNat 64 d.w1s &&& w.val
  ((old &&& ~~~rw) ||| (w.val &&& rw)) &&& ~~~c ||| st

/-- R8, R10: a write to a register that has no rule of its own. -/
def State.plainWrite (s : State) (page : Nat) (w : Wr) : State :=
  match lookupReg page w.reg with
  | none => s
  | some (d, _, _) => s.setReg page w.reg (applyWr d (s.reg page w.reg) w)

/-- The value a register would hold after the write. -/
def State.wouldBe (s : State) (page : Nat) (w : Wr) : Word :=
  match lookupReg page w.reg with
  | none => 0
  | some (d, _, _) => applyWr d (s.reg page w.reg) w

/-! ### Time (R46) -/

/-- R46, R518: the AON domain carries the DTC: in SLUMBER and DORMANT, and until the exit from them has ended. -/
def State.dtcCarried (s : State) : Bool :=
  match s.pwr.phase with
  | .slumber | .dormant => true
  | .exiting => s.pwr.target == 2 || s.pwr.target == 3
  | _ => false

/-- R46: one nanosecond passes. A carried DTC moves at the cycles of the 32.768 kHz clock, by 30,517.578125 ns in the mean. -/
def State.idle (s : State) : State :=
  if !s.dtcCarried then { s with dtc := s.dtc + 1 }
  else if s.pwr.aonPhase + 32768 < 1000000000 then { s with pwr := { s.pwr with aonPhase := s.pwr.aonPhase + 32768 } }
  else
    let f := s.pwr.aonFrac + 1953125
    { s with
      dtc := s.dtc + wOfNat (f / 64)
      pwr := { s.pwr with aonPhase := s.pwr.aonPhase + 32768 - 1000000000, aonFrac := f % 64 } }

/-! ### Scheduled items (R82 to R84) -/

/-- `s` with a scheduled item, replacing one of the same name; `pos` is the base's position now. -/
def State.schedAdd (s : State) (id : ItemId) (base : Fin 8) (target pos : Word) : State :=
  { s with sched := s.sched.filter (fun i => i.id != id) ++
      [{ id, base, target, behind := before pos target, byStep := false }] }

/-- `s` without the item. -/
def State.schedDel (s : State) (id : ItemId) : State :=
  { s with sched := s.sched.filter (fun i => i.id != id) }

/-- The item, if it is pending. -/
def State.schedGet (s : State) (id : ItemId) : Option Sched := s.sched.find? (fun i => i.id == id)

/-- R82: the base of the items stands at `pos`: an item ahead of it has been seen ahead. -/
def schedSeen (base : Fin 8) (pos : Word) (i : Sched) : Sched :=
  if i.base = base ∧ before pos i.target then { i with behind := true } else i

/-- R84: the base steps from `p0` to `p1`: a forward step makes every item it passes due. -/
def schedStepped (base : Fin 8) (p0 p1 : Word) (cause : Nat) (i : Sched) : Sched :=
  if i.base ≠ base then i
  else
    let j := schedSeen base p0 i
    if j.behind ∧ atOrAfter p1 j.target ∧ before p0 p1 ∧ before p0 j.target then { j with byStep := true, cause }
    else schedSeen base p1 j

/-- R55: PTB_START has been loaded: every item of the base is judged afresh. -/
def schedLoaded (base : Fin 8) (pos : Word) (i : Sched) : Sched :=
  if i.base ≠ base then i else { i with behind := before pos i.target, byStep := false }

/-- All items after a function of one. -/
def State.schedMap (s : State) (f : Sched → Sched) : State := { s with sched := s.sched.map f }

/-! ### Vectors -/

/-- A vector with one element replaced by a function of it. -/
def vupd {α : Type} {n : Nat} (v : Vector α n) (i : Fin n) (f : α → α) : Vector α n := v.set i (f (v.get i))

/-- Division with a rounding that the spec does not state: exact where it divides, else down or up. -/
def openDiv (tag : Nat) (p : Int) (q : Nat) : Int :=
  if q = 0 then 0
  else if p % (q : Int) = 0 then p / (q : Int)
  else if Config.roundUp tag p q then p / (q : Int) + 1 else p / (q : Int)

end Sys2Proof.Machine
end

