-- ==== Sys2Proof/Machine/Mem.lean ====
section
/-!
DEFINITION. Machine/Mem.lean: HBM and shelf memory (R35, R36, R451 to R465): words and their codes, the merge buffers,
block reads and writes, and the error counts, logs and buckets that an access feeds.
-/

namespace Sys2Proof.Machine

/-- R1: HBM capacity in bytes. -/
def Part.hbmBytes : Part → Nat
  | .i24 => 25769803776
  | .i16 => 17179869184

/-- R35: first address of the shelf of kiln `k`. -/
def shelfBase (k : Nat) : Nat := 0x50_1000_0000 + k * 0x0200_0000

/-- R35: bytes of one shelf. -/
def shelfBytes : Nat := 20971520

/-- R35, R36: the whole range lies in HBM. -/
def State.inHbm (s : State) (a n : Nat) : Bool := decide (a + n ≤ s.part.hbmBytes)

/-- R35: the shelf that holds the whole range. -/
def shelfOf (a n : Nat) : Option Nat :=
  if a < shelfBase 0 then none
  else
    let k := (a - shelfBase 0) / 0x0200_0000
    if k < 6 ∧ a + n ≤ shelfBase k + shelfBytes then some k else none

/-- R453: pseudo-channel of an HBM address. -/
def pcOf (a : Nat) : Nat := (nfld a 8 5) ^^^ (nfld a 17 5)

/-- R453: MEM page of a pseudo-channel. -/
def memPage (pc : Nat) : Nat := PG.mem (pc / 2)

/-- R454: the stack is offline. -/
def State.hbmOffline (s : State) : Bool := s.bit (PG.mem 0) R.MEM_STS 1

/-- The pseudo-channel of a number. -/
def pcFin (a : Nat) : Fin 32 := ⟨pcOf a % 32, Nat.mod_lt _ (by decide)⟩

/-! ### Buckets and counts -/

/-- `s` with the memory's own state changed. -/
def State.memUpd (s : State) (f : MemState → MemState) : State := { s with mem := f s.mem }

/-- R461: `n` leaks of bucket `b`, of interval `ms`. -/
def State.bucketLeaks (s : State) (b : Fin 39) (ms n : Nat) : State :=
  let s := s.memUpd fun m => { m with bktAt := m.bktAt.set b (m.bktAt.get b + wOfNat (n * (ms * 1000000))) }
  s.setFld PG.mras (R.BKT_STS b) 0 16 (s.fld PG.mras (R.BKT_STS b) 0 16 - n)

/-- R461: the leaks of an enabled bucket that have fallen due. -/
def State.bucketDue (s : State) (b : Fin 39) (ms : Nat) : Nat :=
  if !s.alive PG.mras || !s.bit PG.mras (R.BKT_CFG b) 32 || ms = 0 then 0 else (s.dtc - s.mem.bktAt.get b).toNat / (ms * 1000000)

/-- R461: a leak interval of an enabled bucket has passed. -/
def State.bucketLeak (s : State) (b : Fin 39) : State :=
  let ms := s.fld PG.mras (R.BKT_CFG b) 16 16
  if s.bucketDue b ms = 0 then s else s.bucketLeaks b ms 1

/-- R461: one correctable error is added to bucket `b`; leaks that are due come first. -/
def State.bucketAdd (s : State) (b : Fin 39) : State :=
  if !s.bit PG.mras (R.BKT_CFG b) 32 then s
  else
    let ms := s.fld PG.mras (R.BKT_CFG b) 16 16
    let s := s.bucketLeaks b ms (s.bucketDue b ms)
    let lvl := s.fld PG.mras (R.BKT_STS b) 0 16
    if lvl + 1 > s.fld PG.mras (R.BKT_CFG b) 0 16 then
      let s := (s.setFld PG.mras (R.BKT_STS b) 0 16 0).setBit PG.mras (R.BKT_STS b) 16 true
      let s := s.bump PG.mras (R.BKT_STS b) 32 16
      (s.setBit PG.mras R.MRAS_OVF b true).irq PG.mras 0
    else s.setFld PG.mras (R.BKT_STS b) 0 16 (lvl + 1)

/-- The bucket of a number. -/
def bktFin (n : Nat) : Fin 39 := ⟨n % 39, Nat.mod_lt _ (by decide)⟩

/-- R459: counts, logs and causes of an error found in the HBM word at `a`; `wr` when a partial write found it. -/
def State.hbmErr (s : State) (a : Nat) (e : WordErr) (wr : Bool) : State :=
  let pc := pcOf a
  let pg := memPage pc
  let cnt := if pc % 2 = 0 then R.MEM_PC0_CNT else R.MEM_PC1_CNT
  let log := if pc % 2 = 0 then R.MEM_PC0_ERR else R.MEM_PC1_ERR
  match e with
  | .correctable => (s.bump pg cnt 0 32).bucketAdd (bktFin pc)
  | .uncorrectable =>
    let s := (s.bump pg cnt 32 16).setReg pg log (wOfNat (a + b2n wr <<< 41))
    let s := s.irq pg 0
    if wr then s.irq pg 2 else s
  | .poison =>
    let s := (s.bump pg cnt 48 16).setReg pg log (wOfNat (a + 1 <<< 40 + b2n wr <<< 41))
    let s := s.irq pg 1
    if wr then s.irq pg 2 else s

/-- R459: the same for a word of the shelf of kiln `k` (the address goes to SHFk PG_ERR_LOG1). -/
def State.shelfErr (s : State) (k a : Nat) (e : WordErr) (wr : Bool) : State :=
  let pg := PG.shf k
  match e with
  | .correctable => s.bucketAdd (bktFin (32 + k))
  | .uncorrectable => let s := (s.logInfo1 pg a).irq pg 0; if wr then s.irq pg 2 else s
  | .poison => let s := (s.logInfo1 pg a).irq pg 1; if wr then s.irq pg 2 else s

/-- R459: an error found at `a`, in HBM (`sh = none`) or in a shelf. -/
def State.wordErr (s : State) (sh : Option Nat) (a : Nat) (e : WordErr) (wr : Bool) : State :=
  match sh with
  | none => s.hbmErr a e wr
  | some k => s.shelfErr k a e wr

/-! ### Stored bytes -/

/-- Word size of a memory: 32 bytes in HBM, 8 in a shelf (R453, R457). -/
def wordSize (sh : Option Nat) : Nat := match sh with | none => 32 | some _ => 8

/-- One byte stored: a 0 joins the ranges of zeros, any other byte is listed. -/
def MemState.put (m : MemState) (a : Nat) (b : Byte) : MemState :=
  if b = 0 then { m with cells := Sp.erase m.cells a, zeros := Iv.add m.zeros a (a + 1) }
  else { m with cells := Sp.insert m.cells a b, zeros := Iv.del m.zeros a (a + 1) }

/-- Bytes stored from `a` on. -/
def MemState.puts (m : MemState) (a : Nat) : List Byte → MemState
  | [] => m
  | b :: r => (m.put a b).puts (a + 1) r

/-- The byte stored at an address; none where none was ever written. -/
def MemState.byte? (m : MemState) (a : Nat) : Option Byte :=
  match Sp.find m.cells a with
  | some b => some b
  | none => if Iv.has m.zeros a then some 0 else none

/-- The bytes from `a` up to `e` stored as zeros, clean. -/
def MemState.zero (m : MemState) (a e : Nat) : MemState :=
  if a < e then
    { m with
      cells := m.cells.filter fun c => decide (c.1 < a) || decide (e ≤ c.1)
      errs := m.errs.filter fun c => decide (c.1 < a) || decide (e ≤ c.1)
      zeros := Iv.add m.zeros a e }
  else m

/-- The canonical form of the memory: bytes that are 0 stand in the ranges only, others in the list only, each once and
rising. -/
def MemState.wf (m : MemState) : Bool :=
  decide ((m.cells.map Prod.fst).Pairwise (· < ·)) && m.cells.all (fun c => decide (c.2 ≠ 0) && !Iv.has m.zeros c.1)
    && Iv.wf m.zeros && decide ((m.errs.map Prod.fst).Pairwise (· < ·))

/-- `s` with the word at `a` stored. -/
def State.storeWord (s : State) (a : Nat) (bytes : List Byte) (e : Option WordErr) : State :=
  let m := s.mem.puts a bytes
  { s with mem := { m with
      errs := match e with
        | none => Sp.erase m.errs a
        | some x => Sp.insert m.errs a x } }

/-- Whether the word at `a` has ever been written. -/
def State.wordWritten (s : State) (a : Nat) : Bool := (s.mem.byte? a).isSome

/-- R464: what the code reports at the word at `a`; for a never-written word a free value `i` decides. -/
def State.wordKind (s : State) (a i : Nat) : Option WordErr :=
  if s.wordWritten a then Sp.find s.mem.errs a
  else match (Config.freeKind i).val with
    | 0 => none
    | 1 => some .correctable
    | 2 => some .uncorrectable
    | _ => some .poison

/-- The bytes of the word at `a`; those of a never-written word are free values of index `i` (R464). -/
def State.wordBytes (s : State) (a n i : Nat) : List Byte :=
  (List.range n).map fun j =>
    match s.mem.byte? (a + j) with
    | some b => b
    | none => Config.freeByte i (a + j)

/-- R459: whether data found with this error is delivered as poisoned. -/
def isBad : Option WordErr → Bool
  | some .uncorrectable => true
  | some .poison => true
  | _ => false

/-- The items whose partial write met a poisoned word fail with FAIL_POISON (R460). -/
def State.poisonItems (s : State) (l : List Nat) : State :=
  let items := s.ldg.items.map fun i => if l.contains i.idx then { i with poisoned := true } else i
  { s with ldg := { s.ldg with items } }

/-- The bytes of `old` with `new` laid over them by offset. -/
def overlay (old : List Byte) (new : List (Nat × Byte)) : List Byte :=
  old.mapIdx fun j b => match Sp.find new j with | some x => x | none => b

/-- R459: a partial write of the word at `a`: the old word is corrected, merged and written, or, where it is
uncorrectable or poisoned, the new bytes are merged over it and written with the poison syndrome. -/
def State.partialWrite (s : State) (sh : Option Nat) (a : Nat) (new : List (Nat × Byte)) (items : List Nat) : State :=
  let (i, s) := s.takeFree
  let k := s.wordKind a i
  let merged := overlay (s.wordBytes a (wordSize sh) i) new
  match k with
  | none => s.storeWord a merged none
  | some .correctable => (s.wordErr sh a .correctable true).storeWord a merged none
  | some e => ((s.wordErr sh a e true).storeWord a merged (some .poison)).poisonItems items

/-- R454, R458: one merge entry is flushed: as a full write where its mask is full, else by read-modify-write; HBM offline
discards it. -/
def State.flushEntry (s : State) (e : MergeEntry) : State :=
  let pg := memPage (pcOf e.word)
  if s.hbmOffline then s
  else if e.bytes.length = 32 then (s.storeWord e.word (e.bytes.map Prod.snd) none).bump pg R.MEM_MRG_CNT 0 24
  else (s.partialWrite none e.word e.bytes e.items).bump pg R.MEM_MRG_CNT 24 24

/-- `s` with the merge buffer of a pseudo-channel replaced. -/
def State.setMerge (s : State) (pc : Fin 32) (l : List MergeEntry) : State :=
  { s with mem := { s.mem with merge := s.mem.merge.set pc l } }

/-- R458: an access to the word at `a` waits for the flush of its entry. -/
def State.flushWord (s : State) (a : Nat) : State :=
  let pc := pcFin a
  match (s.mem.merge.get pc).find? (fun e => e.word == a) with
  | none => s
  | some e => (s.setMerge pc ((s.mem.merge.get pc).filter (fun x => x.word != a))).flushEntry e

/-- R458: a write narrower than a word gathers in the merge buffer; a full mask or a full buffer flushes. -/
def State.gather (s : State) (a : Nat) (new : List (Nat × Byte)) (item : Option Nat) : State :=
  let pc := pcFin a
  let l := s.mem.merge.get pc
  let add := fun (e : MergeEntry) =>
    { e with bytes := new.foldl (fun m p => Sp.insert m p.1 p.2) e.bytes,
             items := match item with | none => e.items | some i => NSet.add e.items i }
  match l.find? (fun e => e.word == a) with
  | some e =>
    let e' := add e
    if e'.bytes.length = 32 then (s.setMerge pc (l.filter (fun x => x.word != a))).flushEntry e'
    else s.setMerge pc (l.map fun x => if x.word == a then e' else x)
  | none =>
    let e' := add { word := a, bytes := [], first := s.dtc, items := [] }
    match l with
    | o :: r => if 64 ≤ l.length then (s.setMerge pc (r ++ [e'])).flushEntry o else s.setMerge pc (l ++ [e'])
    | [] => s.setMerge pc [e']

/-- One word's part of a block write: a whole word is a full write (R458), less gathers in HBM and merges in a shelf. -/
def State.writeWordPart (s : State) (sh : Option Nat) (item : Option Nat) (a : Nat) (part : List (Nat × Byte)) : State :=
  match sh with
  | none =>
    if s.hbmOffline then s
    else if part.length = 32 then (s.flushWord a).storeWord a (part.map Prod.snd) none
    else s.gather a part item
  | some _ =>
    if part.length = 8 then s.storeWord a (part.map Prod.snd) none
    else s.partialWrite sh a part (match item with | none => [] | some i => [i])

/-- The parts of a byte write, word by word. -/
def writeParts (ws : Nat) (a : Nat) : Nat → List Byte → List (Nat × List (Nat × Byte))
  | 0, _ => []
  | _, [] => []
  | fuel + 1, bs =>
    let o := a % ws
    let n := ws - o
    (a - o, (bs.take n).mapIdx fun j b => (o + j, b)) :: writeParts ws (a + n) fuel (bs.drop n)

/-- A write of bytes into HBM or a shelf by a block (R458, R459), for the ledger item `item` if it has one. A range that
lies in neither ends with a bus error and writes nothing (R35). -/
def State.writeBytes (s : State) (item : Option Nat) (a : Nat) (bs : List Byte) : State :=
  let sh := shelfOf a bs.length
  if sh.isNone && !s.inHbm a bs.length then s
  else (writeParts (wordSize sh) a (bs.length + 1) bs).foldl (fun s p => s.writeWordPart sh item p.1 p.2) s

/-- What a read delivers: bytes, and whether they are poisoned (R460). -/
structure ReadRes where
  bytes : List Byte
  bad : Bool
  deriving DecidableEq, Repr

/-- R459: a block read of one word: a correctable error is corrected and written back, others are logged. -/
def State.readWord (s : State) (sh : Option Nat) (a : Nat) : ReadRes × State :=
  let n := wordSize sh
  match sh with
  | none =>
    if s.hbmOffline then
      let (i, s) := s.takeFree
      ({ bytes := (List.range n).map fun j => Config.freeByte i (a + j), bad := true }, s)
    else
      let s := s.flushWord a
      let (i, s) := s.takeFree
      let k := s.wordKind a i
      let bs := s.wordBytes a n i
      let s := match k with
        | none => s
        | some .correctable =>
          let s := s.hbmErr a .correctable false
          if s.wordWritten a then s.storeWord a bs none else s
        | some e => s.hbmErr a e false
      ({ bytes := bs, bad := isBad k }, s)
  | some kk =>
    let (i, s) := s.takeFree
    let k := s.wordKind a i
    let bs := s.wordBytes a n i
    let s := match k with
      | none => s
      | some .correctable =>
        let s := s.shelfErr kk a .correctable false
        if s.wordWritten a then s.storeWord a bs none else s
      | some e => s.shelfErr kk a e false
    ({ bytes := bs, bad := isBad k }, s)

/-- The words of a range read one after the other. -/
def State.readWords (s : State) (sh : Option Nat) : Nat → Nat → ReadRes × State
  | _, 0 => ({ bytes := [], bad := false }, s)
  | a, n + 1 =>
    let (r, s) := s.readWord sh a
    let (q, s) := State.readWords s sh (a + wordSize sh) n
    ({ bytes := r.bytes ++ q.bytes, bad := r.bad || q.bad }, s)

/-- A read of `n` bytes of HBM or of a shelf by a block (R459). A range that lies in neither ends with a bus error: it
delivers nothing good. -/
def State.readBytes (s : State) (a n : Nat) : ReadRes × State :=
  let sh := shelfOf a n
  if sh.isNone && !s.inHbm a n then ({ bytes := List.replicate n 0, bad := true }, s)
  else
    let ws := wordSize sh
    let a0 := a / ws * ws
    let cnt := if n = 0 then 0 else (a + n - 1) / ws - a / ws + 1
    let (r, s) := s.readWords sh a0 cnt
    ({ bytes := (r.bytes.drop (a - a0)).take n, bad := r.bad }, s)

/-- A little-endian number of `n` bytes read from memory (R4). -/
def State.readNat (s : State) (a n : Nat) : Nat × Bool × State :=
  let (r, s) := s.readBytes a n
  (leNat r.bytes, r.bad, s)

/-- A little-endian number of `n` bytes written to memory (R4). -/
def State.writeNat (s : State) (item : Option Nat) (a n v : Nat) : State := s.writeBytes item a (leBytes n v)

/-- A write of bytes whose every word takes the poison syndrome (R460). -/
def State.poisonRange (s : State) (a n : Nat) : State :=
  let sh := shelfOf a n
  if sh.isNone && s.hbmOffline then s
  else
  let ws := wordSize sh
  let cnt := if n = 0 then 0 else (a + n - 1) / ws - a / ws + 1
  (List.range cnt).foldl (fun s j =>
    let w := (a / ws + j) * ws
    let s := if sh.isNone then s.flushWord w else s
    if s.wordWritten w then { s with mem := { s.mem with errs := Sp.insert s.mem.errs w .poison } }
    else
      let (i, s) := s.takeFree
      s.storeWord w (s.wordBytes w ws i) (some .poison)) s

/-- A write of results derived from poisoned data (R460). -/
def State.writePoisoned (s : State) (item : Option Nat) (a : Nat) (bs : List Byte) (bad : Bool) : State :=
  let s := s.writeBytes item a bs
  if bad then s.poisonRange a bs.length else s

/-- A range of whole words written with zeros (R261, R462): gathered writes of the range flush first; HBM offline discards them
(R454). -/
def State.zeroRange (s : State) (a e : Nat) : State :=
  if decide (e ≤ s.part.hbmBytes) && s.hbmOffline then s
  else
  let s := (List.finRange 32).foldl (fun s (pc : Fin 32) =>
    ((s.mem.merge.get pc).filter fun m => decide (a ≤ m.word) && decide (m.word < e)).foldl
      (fun s m => s.flushWord m.word) s) s
  { s with mem := s.mem.zero a e }

/-- A range whose contents the spec leaves open: its bytes become as never written (R464), so that reads give free values. -/
def State.forgetRange (s : State) (a e : Nat) : State :=
  let s := s.zeroRange a e
  let out := fun (c : Nat) => decide (c < a) || decide (e ≤ c)
  { s with mem := { s.mem with
      cells := s.mem.cells.filter fun c => out c.1
      errs := s.mem.errs.filter fun c => out c.1
      zeros := Iv.del s.mem.zeros a e } }

end Sys2Proof.Machine
end

