-- ==== Sys2Proof/Machine/Ledger.lean ====
section
/-!
DEFINITION. Machine/Ledger.lean: ledger items from their opening to the posting of their completion (R431 to R436, R473).
-/

namespace Sys2Proof.Machine

/-- R433: the code of a status. -/
def Status.code : Status → Nat
  | .failPower => 0x15 | .failReset => 0x12 | .failTwin => 0x16 | .failTimeout => 0x13 | .failDenied => 0x17
  | .failInvalid => 0x10 | .failPoison => 0x11 | .failShed => 0x14 | .okLate => 0x02 | .okEmpty => 0x01 | .ok => 0x00

/-- R433: which of two statuses an item takes: the earlier one in the order of R433. -/
def Status.rank : Status → Nat
  | .failPower => 0 | .failReset => 1 | .failTwin => 2 | .failTimeout => 3 | .failDenied => 4 | .failInvalid => 5
  | .failPoison => 6 | .failShed => 7 | .okLate => 8 | .okEmpty => 9 | .ok => 10

/-- R433: the one of two statuses that prevails. -/
def Status.worse (a b : Status) : Status := if a.rank ≤ b.rank then a else b

/-- R433: a FAIL status. -/
def Status.isFail (a : Status) : Bool := a.rank ≤ 7

/-- R431: the classes of job start by the reserve they may use. -/
inductive JobClass where
  | ordinary | load | chain
  deriving DecidableEq, Repr

/-- R431: items in flight at most (GT_LEDGER_ITEMS). -/
def ledgerItems : Nat := 16384

/-- R436: items held back; values below 64 act as 64. -/
def State.reserve (s : State) : Nat := max 64 (s.fld PG.ldg R.LDG_RESERVE 0 14)

/-- R431: whether a job start of the class finds an item. -/
def State.itemFree (s : State) (c : JobClass) : Bool :=
  let free := ledgerItems - s.ldg.items.length
  match c with
  | .ordinary => decide (s.reserve < free)
  | _ => decide (0 < free)

/-- R431: an unused ledger index: the one the device picks if it is unused, else the lowest unused one. An item's name is
its index plus 16,384 times the number of its opening, so that a block's late completion (R435) names no other item. -/
def State.pickItem (s : State) (i : Nat) : Nat :=
  let used := fun j => s.ldg.items.any fun it => it.idx % ledgerItems == j
  let c := Config.itemPick i % ledgerItems
  (if used c then ((List.range ledgerItems).find? fun j => !used j).getD 0 else c) + ledgerItems * i

/-- R431: a ledger item opens for page `page`, its completion going to queue `cq`. -/
def State.openItem (s : State) (page cq tag : Nat) (load : Bool) : Nat × State :=
  let (i, s) := s.takeFree
  let idx := s.pickItem i
  (idx, { s with ldg := { s.ldg with items := s.ldg.items ++
    [{ idx, page, cq, load, tag := tag % 0x10000, opened := s.dtc, poisoned := false, closed := false,
       epoch := s.fld page R.PG_STS 16 16 }] } })

/-- R431: a job start by software that finds no item is refused: logged with LEDGER_FULL, LDG_STS.FULL and RAW bit 0. -/
def State.ledgerFull (s : State) (page : Nat) (w : Wr) : State :=
  ((s.logWr page w .ledgerFull).setBit PG.ldg R.LDG_STS 16 true).irq PG.ldg 0

/-- The item with an index, in flight and not yet ended. -/
def State.item? (s : State) (idx : Nat) : Option Item :=
  s.ldg.items.find? fun i => i.idx == idx && !i.closed

/-- R473: the first terminal event of an item is recorded: it waits to be posted; a later event is discarded. A chain
that waits for the item learns its status (R440). -/
def State.closeItem (s : State) (idx : Nat) (st : Status) (detail : Nat) : State :=
  match s.item? idx with
  | none => s
  | some it =>
    let st := if it.poisoned then st.worse .failPoison else st
    let items := s.ldg.items.map fun i => if i.idx == idx then { i with closed := true } else i
    let cpl : Completion := { item := idx, page := it.page, cq := it.cq, status := st, tag := it.tag,
                              detail := min detail (2 ^ 32 - 1), stalled := false,
                              zero := !s.bit PG.ldg (R.CQ_CTL it.cq) 0, decided := none }
    let s := { s with ldg := { s.ldg with items, waiting := s.ldg.waiting ++ [cpl] } }
    let waits := s.res.chains.toList.flatten.filter fun c => c.waits.contains idx
    let done := s.res.chainDone ++ waits.map fun c => (c.id, idx, st)
    { s with res := { s.res with chainDone := done } }

/-- R15: a job start that has nothing to do opens an item and completes it at once. -/
def State.emptyJob (s : State) (page cq : Nat) (st : Status) (detail : Nat) : State :=
  let (i, s) := s.openItem page cq 0 false
  s.closeItem i st detail

/-- R473: every item that the page owns ends with the status. -/
def State.closePageItems (s : State) (page : Nat) (st : Status) : State :=
  (s.ldg.items.filter fun i => i.page == page && !i.closed).foldl (fun s i => s.closeItem i.idx st 0) s

/-! ### Replies and epochs (R471, R474) -/

/-- R474: `t`, into which `s` has gone by a reply or by a page's reset: the items that this has ended bear its DTC. -/
def State.decided (s t : State) : State :=
  let l := t.ldg.waiting.map fun c =>
    if (s.ldg.waiting.any fun d => d.item == c.item) then c else { c with decided := some t.dtc }
  { t with ldg := { t.ldg with waiting := l } }

/-- R474: the epoch of a page rises in the present cycle, before what reached the page in it: items that a reply has ended in this
cycle, or, at a power-down, a reset, end with the status instead. -/
def State.lateReplies (s : State) (page : Nat) (st : Status) : State :=
  let hit := fun (c : Completion) => c.page == page && c.decided == some s.dtc
  let items := (s.ldg.waiting.filter hit).map Completion.item
  { s with
    ldg := { s.ldg with waiting := s.ldg.waiting.map fun c => if hit c then { c with status := c.status.worse st } else c }
    res := { s.res with chainDone := s.res.chainDone.map fun d => if items.contains d.2.1 then (d.1, d.2.1, d.2.2.worse st) else d } }

/-- R471: the item waits for a reply: it is no chain, and no descriptor that waits in its ring. -/
def State.awaits (s : State) (i : Item) : Bool :=
  !i.closed && (i.page != PG.res || i.load) && !(s.fct.toList.any fun f => f.items.contains i.idx)

/-- R471: a page's epoch has risen: replies to its items are still on their way, with the epoch that the items were opened in. -/
def State.orphan (s : State) (page : Nat) : State :=
  let l := (s.ldg.items.filter fun i => i.page == page && s.awaits i).map fun i => (page, i.epoch)
  { s with ldg := { s.ldg with orphans := s.ldg.orphans ++ l } }

/-- R471: a reply reaches a page that waits for none: one that its epoch has made stale is discarded and counted. -/
def State.staleReply (s : State) (page : Nat) : State :=
  match s.ldg.orphans.find? fun o => o.1 == page with
  | none => s
  | some o =>
    { s with ldg := { s.ldg with orphans := s.ldg.orphans.erase o } }.addCnt page R.PG_ERR_LOG1 48 16 1

/-- R471, R474: a reply reaches a page; `run` tells that the page has asked for it, and `t` is what it then makes. -/
def State.replied (s : State) (page : Nat) (run : Bool) (t : State) : State := if run then s.decided t else s.staleReply page

/-- R432: ledger items whose completion would carry the page. -/
def State.pageItems (s : State) (page : Nat) : Nat := (s.ldg.items.filter fun i => i.page == page).length

/-- R436: CQ_CTL.EN of queue `q`. -/
def State.cqOn (s : State) (q : Nat) : Bool := s.bit PG.ldg (R.CQ_CTL q) 0

/-- R434: entries the queue holds. -/
def State.cqLevel (s : State) (q : Nat) : Nat :=
  (s.fld PG.ldg (R.CQ_HEAD q) 0 32 + 2 ^ 32 - s.fld PG.ldg (R.CQ_TAIL q) 0 32) % 2 ^ 32

/-- R434: the queue a completion goes to now: its own, queue 0 in place of one that is or was disabled, or none. -/
def State.cqFor (s : State) (c : Completion) : Option Nat :=
  if !c.zero && s.cqOn c.cq then some c.cq else if s.cqOn 0 then some 0 else none

/-- R434: the queue has room. -/
def State.cqRoom (s : State) (q : Nat) : Bool := decide (s.cqLevel q < s.fld PG.ldg (R.CQ_SIZE q) 0 17)

/-- R432: the two words of a completion entry. -/
def cplWords (c : Completion) (phase redirect : Bool) (dtc : Nat) : Nat :=
  nfld c.item 0 14 + c.status.code <<< 16 + (nfld c.page 0 12) <<< 24 + b2n phase <<< 36 + b2n redirect <<< 37
    + (nfld c.tag 0 16) <<< 48 + (nfld c.detail 0 32) <<< 64 + (nfld dtc 0 32) <<< 96

end Sys2Proof.Machine
end

