-- ==== Sys2Proof/Machine/Position.lean ====
section
/-!
DEFINITION. Machine/Position.lean: the position and velocity of a base at an instant (R49, R59, R60, R63, R67, R70), and the
position of an event by the history (R80, R81).
-/

namespace Sys2Proof.Machine

/-- R49: PTB_CTL.SRC. -/
def State.ptbSrc (s : State) (p : Fin 8) : Nat := s.fld (PG.ptb p) R.PTB_CTL 0 3

/-- R52: PTB_STS.STATE. -/
def State.ptbSt (s : State) (p : Fin 8) : Nat := s.fld (PG.ptb p) R.PTB_STS 0 2

/-- R55: the base runs. -/
def State.ptbRunning (s : State) (p : Fin 8) : Bool := s.ptbSt p != 0

/-- R49: an encoder base. -/
def State.ptbEnc (s : State) (p : Fin 8) : Bool := s.ptbSrc p = 1 || s.ptbSrc p = 2

/-- R49: a base with a servo. -/
def State.ptbServo (s : State) (p : Fin 8) : Bool := s.ptbSrc p = 3 || s.ptbSrc p = 4

/-- R63: PTB_SCALE. -/
def State.ptbScale (s : State) (p : Fin 8) : Nat := s.fld (PG.ptb p) R.PTB_SCALE 0 24

/-- R67: nominal rate, raw 48.16 per second. -/
def State.ptbNominal (s : State) (p : Fin 8) : Int := (s.reg (PG.ptb p) R.PTB_NOMINAL).toInt

/-- R67: PTB_SLEW_MAX, ppb. -/
def State.ptbSlewMax (s : State) (p : Fin 8) : Nat := s.fld (PG.ptb p) R.PTB_SLEW_MAX 0 32

/-- R67: denominators: 2^-32 ppb of a raw unit per nanosecond, over one second. -/
def rateDen : Nat := 2 ^ 32 * 10 ^ 18

/-- The anchor of a base moved by a numerator over `rateDen`. -/
def PtbState.moved (b : PtbState) (num : Int) : PtbState :=
  let q := (b.frac : Int) + num
  { b with pos := b.pos + wOfInt (q / rateDen), frac := (q % rateDen).toNat }

/-- R67, R70: the position `n` nanoseconds after the anchor: at the loop trim, or at the slew rate until the slew is
worked off and at the loop trim from then on. -/
def PtbState.advance (b : PtbState) (nominal : Int) (slewMax n : Nat) : PtbState :=
  let unit : Int := 10 ^ 9 * 2 ^ 32
  let use := nominal.natAbs * slewMax
  if b.slewN = 0 then b.moved (n * nominal * (unit + b.loop))
  else
    let n1 := if use = 0 then n + 1 else (b.slewN.natAbs + use - 1) / use
    if n < n1 then
      let d : Int := if b.slewN < 0 then -(n * use : Nat) else (n * use : Nat)
      { b.moved (n * nominal * unit + d * 2 ^ 32) with slewN := b.slewN - d }
    else
      ({ b with slewN := 0 }).moved
        (n1 * nominal * unit + b.slewN * 2 ^ 32 + ((n - n1 : Nat) : Int) * nominal * (unit + b.loop))

/-- Nanoseconds since the anchor. -/
def State.ptbElapsed (s : State) (p : Fin 8) : Nat := (s.dtc - (s.ptb.get p).at_).toNat

/-- R59: time since the timestamp of the last edge. -/
def State.ptbTau (s : State) (p : Fin 8) : Nat :=
  match (s.ptb.get p).edges with
  | [] => 0
  | t :: _ => (s.dtc - t).toNat

/-- R59: time after the last edge at which STANDSTILL sets. -/
def PtbState.standstillAt (b : PtbState) : Nat := 2 ^ (min 8 b.velEdges) * 10000000

/-- R59: intervals and span of the velocity window. -/
def PtbState.window (b : PtbState) : Nat × Nat :=
  let l := b.edges.take (2 ^ (min 8 b.velEdges) + 1)
  match l with
  | [] => (0, 0)
  | t :: r => (r.length, (t - (r.getLast?.getD t)).toNat)

/-- R60, R63: the extrapolated part, in raw units of the base: `unit / den` raw units make one count. -/
def PtbState.extra (b : PtbState) (unit den tau : Nat) : Nat :=
  if !b.extrapOn ∨ den = 0 then 0
  else
    let (m, span) := b.window
    if m = 0 ∨ span = 0 then 0
    else min (0xFFFF * unit / (65536 * den)) (unit * m * min tau b.standstillAt / (span * den))

/-- R57, R63: raw position of `c` counts. -/
def countsRaw (angle : Bool) (scale : Nat) (c : Int) : Int :=
  if angle then openDiv 1 (c * 2 ^ 48) scale else c * 2 ^ 16

/-- R60: position of an encoder base `tau` ns after the last edge. -/
def PtbState.encPos (b : PtbState) (angle : Bool) (scale tau : Nat) : Word :=
  let part : Int := if angle then b.extra (2 ^ 48) scale tau else b.extra (2 ^ 16) 1 tau
  b.pos + wOfInt (countsRaw angle scale b.cnt + (if b.up then part else -part))

/-- The live position of a base (PTB_POS). -/
def State.pos (s : State) (p : Fin 8) : Word :=
  let b := s.ptb.get p
  if !s.ptbRunning p then b.pos
  else if s.ptbEnc p then b.encPos (s.ptbSrc p = 2) (s.ptbScale p) (s.ptbTau p)
  else (b.advance (s.ptbNominal p) (s.ptbSlewMax p) (s.ptbElapsed p)).pos

/-- The position `n` ns before the present instant, by the edges and rates known now (R57, R62, R104: inputs are timed by
the first of their filtered samples). -/
def State.posAgo (s : State) (p : Fin 8) (n : Nat) : Word :=
  let b := s.ptb.get p
  if !s.ptbRunning p then b.pos
  else if s.ptbEnc p then b.encPos (s.ptbSrc p = 2) (s.ptbScale p) (s.ptbTau p - n)
  else (b.advance (s.ptbNominal p) (s.ptbSlewMax p) (s.ptbElapsed p - n)).pos

/-- R67: the trim in force, in 2^-32 ppb. -/
def State.trim (s : State) (p : Fin 8) : Int :=
  let b := (s.ptb.get p).advance (s.ptbNominal p) (s.ptbSlewMax p) (s.ptbElapsed p)
  if b.slewN = 0 then b.loop
  else
    let m : Int := s.ptbSlewMax p * 2 ^ 32
    if (b.slewN < 0) != (s.ptbNominal p < 0) then -m else m

/-- The velocity of a base in units per second, 48.16 (PTB_VEL). -/
def State.vel (s : State) (p : Fin 8) : Int :=
  let b := s.ptb.get p
  if !s.ptbRunning p then 0
  else if s.ptbEnc p then
    let (m, span) := b.window
    let tau := s.ptbTau p
    let unit : Nat := if s.ptbSrc p = 2 then 2 ^ 48 else 2 ^ 16
    let den : Nat := if s.ptbSrc p = 2 then s.ptbScale p else 1
    let v : Int :=
      if m = 0 ∨ span = 0 ∨ b.standstillAt ≤ tau then 0
      else if span < tau * m then openDiv 2 (unit * 10 ^ 9) (tau * den)
      else openDiv 2 ((m * unit * 10 ^ 9 : Nat) : Int) (span * den)
    if b.up then v else -v
  else openDiv 3 (s.ptbNominal p * (10 ^ 9 * 2 ^ 32 + s.trim p)) (10 ^ 9 * 2 ^ 32)

/-- The base's state re-anchored at the present instant. -/
def State.settled (s : State) (p : Fin 8) : PtbState :=
  let b := s.ptb.get p
  if !s.ptbRunning p ∨ s.ptbEnc p then { b with at_ := s.dtc }
  else { b.advance (s.ptbNominal p) (s.ptbSlewMax p) (s.ptbElapsed p) with at_ := s.dtc }

/-- R80: linear interpolation between two samples. -/
def interp (t0 : Nat) (p0 : Word) (t1 : Nat) (p1 : Word) (t : Nat) : Word :=
  let d := sdiff 32 t1 t0
  if d ≤ 0 then p1 else p0 + wOfInt (openDiv 4 ((p1 - p0).toInt * sdiff 32 t t0) d.toNat)

/-- R80, R81: lookup in the samples, newest first, `t1`, `p1` being the next newer point; the second part tells that the
time lies before the oldest sample. -/
def histFind (vel : Int) (t : Nat) : Nat → Word → List (Nat × Word) → Word × Bool
  | t1, p1, [] => (p1 - wOfInt (openDiv 5 (vel * sdiff 32 t1 t) 16000000), true)
  | t1, p1, (t0, p0) :: r => if 0 ≤ sdiff 32 t t0 then (interp t0 p0 t1 p1 t, false) else histFind vel t t0 p0 r

/-- R80, R81: position of base `p` at an IET, and whether the lookup fell before the history. Between the newest sample and now
no newer sample brackets the time, and the live position is the newer point (DESIGN CHOICE, log 204: R80 does
not say). -/
def State.posAt (s : State) (p : Fin 8) (iet : Nat) : Word × Bool :=
  if !s.ptbRunning p then ((s.ptb.get p).pos, false)
  else if 0 ≤ sdiff 32 iet s.iet then (s.pos p, false)
  else histFind (s.vel p) iet s.iet (s.pos p) (s.ptb.get p).hist

/-- R80, R95: linear interpolation between two points, times in half nanoseconds. -/
def interpHalf (t0 : Int) (p0 : Word) (t1 : Int) (p1 : Word) (t : Int) : Word :=
  if t1 ≤ t0 then p1 else p0 + wOfInt (openDiv 4 ((p1 - p0).toInt * (t - t0)) (t1 - t0).toNat)

/-- R80, R81, R95: lookup in points, newest first, as histFind, times in half nanoseconds. -/
def histFindHalf (vel t : Int) : Int → Word → List (Int × Word) → Word × Bool
  | t1, p1, [] => (p1 - wOfInt (openDiv 5 (vel * (t1 - t)) 2000000000), true)
  | t1, p1, (t0, p0) :: r => if t0 ≤ t then (interpHalf t0 p0 t1 p1 t, false) else histFindHalf vel t t0 p0 r

/-- R80, R81, R95: position of base `p` at a DTC value, at 1 ns resolution; a sample stands at the start of its tick. -/
def State.posAtDtc (s : State) (p : Fin 8) (d : Word) : Word × Bool :=
  if !s.ptbRunning p then ((s.ptb.get p).pos, false)
  else if atOrAfter d s.dtc then (s.pos p, false)
  else
    let tick := fun (n : Nat) => 125 * sdiff 32 n s.iet - ((2 * s.dtc.toNat % 125 : Nat) : Int)
    histFindHalf (s.vel p) (2 * (d - s.dtc).toInt) 0 (s.pos p) ((s.ptb.get p).hist.map fun h => (tick h.1, h.2))

/-- R52: a W1C bit of PTB_STS sets, and the RAW bit at its position. -/
def State.ptbFlag (s : State) (p : Fin 8) (b : Nat) : State :=
  (s.setBit (PG.ptb p) R.PTB_STS b true).irq (PG.ptb p) b

/-- R81: a lookup that fell before the history is counted. -/
def State.histOld (s : State) (p : Fin 8) (old : Bool) : State :=
  if old then (s.ptbFlag p 15).bump (PG.ptb p) R.PTB_CNT1 0 32 else s

/-- R80, R81: the lookup with its count. -/
def State.lookPos (s : State) (p : Fin 8) (iet : Nat) : Word × Bool × State :=
  let (x, old) := s.posAt p iet
  (x, old, s.histOld p old)

/-- R80, R81, R95: the lookup at a DTC value with its count. -/
def State.lookPosDtc (s : State) (p : Fin 8) (d : Word) : Word × Bool × State :=
  let (x, old) := s.posAtDtc p d
  (x, old, s.histOld p old)

/-- A base index from a register field. -/
def baseOf (n : Nat) : Fin 8 := ⟨n % 8, Nat.mod_lt _ (by decide)⟩

end Sys2Proof.Machine
end

