-- ==== Sys2Proof/Machine/Results.lean ====
section
/-!
DEFINITION. Machine/Results.lean: records and result rings (R443, R444, R448), batches, the counts of a port's result
windows (R437, R445), and discontinuity records (R73, R446).
-/

namespace Sys2Proof.Machine

/-- R444: record types. -/
inductive RecType where
  | window | objectList | corner | trackDelta | aux | discont | reflex | rateSamples | rateBlock | count
  deriving DecidableEq, Repr

/-- R444: TYPE. -/
def RecType.code : RecType → Nat
  | .window => 1 | .objectList => 2 | .corner => 3 | .trackDelta => 4 | .aux => 5 | .discont => 6
  | .reflex => 7 | .rateSamples => 8 | .rateBlock => 9 | .count => 10

/-- R448: ring index of a type in a routing register. -/
def routeOf (r : Word) (t : RecType) : Fin 32 := ⟨bf r (5 * t.code - 5) 5 % 32, Nat.mod_lt _ (by decide)⟩

/-- R443: the record header. -/
def recHeader (t : RecType) (len8 : Nat) (port : Option Nat) (rseq win : Nat) : List Byte :=
  leBytes 16 (t.code + (nfld len8 0 16) <<< 16 + (port.getD 0 % 8) <<< 32 + b2n port.isNone <<< 35
    + (nfld rseq 0 16) <<< 48 + (nfld win 0 32) <<< 64)

/-- R448: bytes of the ring in use: those that a consumer of the ring has not passed. -/
def State.ringUsed (s : State) (k : Fin 32) : Nat :=
  let head := (s.reg PG.res (R.RING_HEAD k))
  let c := s.reg PG.res (R.RING_CTL k)
  let h := if bitAt c 1 then (head - s.reg PG.res (R.RING_TAIL k)).toNat else 0
  let n := if bitAt c 2 then (head - s.reg PG.res (R.RING_NET k)).toNat else 0
  max h n

/-- R448: bytes of a ring written from `pos` on, modulo the ring size. -/
def State.ringPut (s : State) (base size pos : Nat) (bs : List Byte) : State :=
  let o := pos % size
  let n := size - o
  let s := s.writeBytes none (base + o) (bs.take n)
  if bs.length ≤ n then s else s.writeBytes none base (bs.drop n)

/-- R448: a record is written into its ring, or dropped; the answer tells whether it was delivered. -/
def State.writeRecord (s : State) (t : RecType) (port : Option (Fin 8)) (win : Nat) (body : List Byte) : Bool × State :=
  let route := match port with
    | some p => s.reg PG.res (R.WIN_ROUTE p)
    | none => s.reg PG.res R.RES_ROUTE_DEV
  let k := routeOf route t
  if !s.alive PG.res then (false, s)
  else if !s.bit PG.res (R.RING_CTL k) 0 then (false, s.bump PG.res R.RES_CNT0 32 16)
  else
    let rseq := s.res.rseq.get k
    let bytes := recHeader t ((16 + body.length) / 8) (port.map Fin.val) rseq.toNat win ++ body
    let s := { s with res := { s.res with rseq := s.res.rseq.set k (rseq + 1) } }
    let size := 2 ^ s.fld PG.res (R.RING_SIZE k) 0 5
    let head := s.reg PG.res (R.RING_HEAD k)
    if s.ringUsed k + bytes.length ≤ size then
      let s := s.ringPut (s.reg PG.res (R.RING_BASE k)).toNat size head.toNat bytes
      let s := s.setReg PG.res (R.RING_HEAD k) (head + wOfNat bytes.length)
      let s := (s.bump PG.res (R.RING_CNT k) 0 32).bump PG.res R.RES_CNT0 0 32
      let s := if t = .window then s.irq PG.res (16 + k.val) else s
      let s := if s.bit PG.res (R.RING_CTL k) 2 then
          let m : RecMark := {
            pos := head.toNat, len := bytes.length, lastOfWindow := t = .window, dtc := s.dtc, port := port.map Fin.val, win }
          { s with res := { s.res with marks := s.res.marks.set k (s.res.marks.get k ++ [m]) } }
        else s
      (true, s)
    else (false, (s.bump PG.res (R.RING_CNT k) 32 32).irq PG.res 1)

/-! ### Batches (R444) -/

/-- R444: the batch kinds. -/
inductive BatchKind where
  | corner | trackDelta | aux
  deriving DecidableEq, Repr

/-- Index of a batch kind. -/
def BatchKind.ix : BatchKind → Fin 3
  | .corner => 0 | .trackDelta => 1 | .aux => 2

/-- R444: record type of a batch kind. -/
def BatchKind.recType : BatchKind → RecType
  | .corner => .corner | .trackDelta => .trackDelta | .aux => .aux

/-- The batch kind of an index. -/
def batchKindOf : Fin 3 → BatchKind
  | 0 => .corner | 1 => .trackDelta | _ => .aux

/-- The open batch of a port. -/
def State.batch (s : State) (p : Fin 8) (k : BatchKind) : Batch := (s.res.batches.get p).get k.ix

/-- `s` with the open batch of a port replaced. -/
def State.setBatch (s : State) (p : Fin 8) (k : BatchKind) (b : Batch) : State :=
  { s with res := { s.res with batches := vupd s.res.batches p fun v => v.set k.ix b } }

/-- R444: the open batch is written as a record. -/
def State.flushBatch (s : State) (p : Fin 8) (k : BatchKind) : State :=
  let b := s.batch p k
  if b.entries.isEmpty then s
  else ((s.setBatch p k {}).writeRecord k.recType (some p) b.win b.entries.flatten).2

/-- R444: an entry joins the port's open batch; a full batch (256 entries) is written. -/
def State.batchAdd (s : State) (p : Fin 8) (k : BatchKind) (win : Nat) (entry : List Byte) : State :=
  if !s.alive PG.res then s
  else
    let b := s.batch p k
    let b' : Batch := if b.entries.isEmpty then { entries := [entry], first := s.dtc, win }
      else { b with entries := b.entries ++ [entry] }
    let s := s.setBatch p k b'
    if b'.entries.length = 256 then s.flushBatch p k else s

/-! ### Result windows (R437) -/

/-- R450: WIN_CTL.MODE of a port. -/
def State.winMode (s : State) (p : Fin 8) : Nat := s.fld PG.res (R.WIN_CTL p) 0 2

/-- R437: the base of a position window. -/
def State.winBase (s : State) (p : Fin 8) : Fin 8 := baseOf (s.fld PG.res (R.WIN_CTL p) 2 3)

/-- R437: the spacing of boundaries: raw 48.16, or ns. -/
def State.winStep (s : State) (p : Fin 8) : Nat :=
  if s.winMode p = 1 then s.fld PG.res (R.WIN_SPAN p) 0 20 * 1000 else (s.reg PG.res (R.WIN_SPAN p)).toNat

/-- R437: the `k`th boundary. -/
def State.winBoundary (s : State) (p : Fin 8) (k : Int) : Word :=
  s.reg PG.res (R.WIN_ORIGIN p) + wOfInt (k * s.winStep p)

/-- R437: the index of the boundary at or before a position or time. -/
def State.winIndexOf (s : State) (p : Fin 8) (x : Word) : Int :=
  let st := s.winStep p
  if st = 0 then 0 else (x - s.reg PG.res (R.WIN_ORIGIN p)).toInt / st

/-- The open windows of a port. -/
def State.wins (s : State) (p : Fin 8) : List Win := s.res.wins.get p

/-- `s` with a port's windows replaced. -/
def State.setWins (s : State) (p : Fin 8) (l : List Win) : State :=
  { s with res := { s.res with wins := s.res.wins.set p l } }

/-- R437, R438: where the port stands: its DTC or the live position of its base. -/
def State.winNow (s : State) (p : Fin 8) : Word := if s.winMode p = 2 then s.pos (s.winBase p) else s.dtc

/-- R437, R85: the place of an event by its IET: the DTC, or the position by the history. -/
def State.winPlace (s : State) (p : Fin 8) (iet : Nat) : Word × State :=
  if s.winMode p = 2 then
    let (x, _, s) := s.lookPos (s.winBase p) iet
    (x, s)
  else (s.ietToDtc iet, s)

/-- The first window of the list whose end lies after the place, with its position in the list; the place may also lie
before the list's first window, or at or after the end of its last (which then takes it). -/
def winSlot (x : Word) : List Win → Nat → Nat
  | [], i => i - 1
  | w :: r, i => if before x w.stop then i else winSlot x r (i + 1)

/-- R85, R437: the open window an event belongs to, and whether it counts as out of position. -/
def State.winFind (s : State) (p : Fin 8) (iet : Nat) : Option (Nat × Bool) × State :=
  match s.wins p with
  | [] => (none, s)
  | w :: _ =>
    let (x, s) := s.winPlace p iet
    if before x w.start then (some (0, true), s) else (some (winSlot x (s.wins p) 0, false), s)

/-- The `i`th open window of a port changed. -/
def State.winUpd (s : State) (p : Fin 8) (i : Nat) (f : Win → Win) : State :=
  s.setWins p ((s.wins p).mapIdx fun j w => if j = i then f w else w)

/-- The index of the `i`th open window. -/
def State.winK (s : State) (p : Fin 8) (i : Nat) : Nat := (((s.wins p)[i]?).map Win.k).getD 0

/-- R85, R437: an event or another word of the port reaches the results unit: it is counted in the window it belongs to, or in
the oldest one, and as out of position, where its own has closed; the answer is that window's index, 0 where the port has no
windows. DESIGN CHOICE (log 208): this is the one lookup of the event that counts in HIST_OLD. -/
def State.winCount (s : State) (p : Fin 8) (iet : Nat) (f : Win → Win) : Nat × State :=
  match s.winFind p iet with
  | (none, s) => (0, s)
  | (some (i, oop), s) => (s.winK p i, s.winUpd p i fun w => f { w with oop := w.oop + b2n oop })

/-- The index of the open window an event belongs to; 0 where the port has no windows. The device knows the place from the
event's own lookup, so nothing is counted (log 208). -/
def State.winIndex (s : State) (p : Fin 8) (iet : Nat) : Nat :=
  match (s.winFind p iet).1 with
  | none => 0
  | some (i, _) => s.winK p i

/-- R445: a corner counts in the window that its event belongs to. -/
def State.winCorner (s : State) (p : Fin 8) (iet : Nat) : State :=
  match (s.winFind p iet).1 with
  | none => s
  | some (i, _) => s.winUpd p i fun w => { w with corners := w.corners + 1 }

/-- R439: the first admitted event of a window. -/
def Win.seen (w : Win) (d : Word) : Win :=
  { w with first := match w.first with
      | none => some d
      | some f => if before d f then some d else some f }

/-! ### Discontinuities (R73) -/

/-- R446: CAUSE of a discontinuity record. -/
def DiscCause.code : DiscCause → Nat
  | .start => 0 | .align => 1 | .home => 2 | .forceStep => 3 | .wake => 4

/-- R446: the body of a DISCONT record. -/
def discBody (d : DiscRec) : List Byte :=
  leBytes 8 (d.base.val + d.cause.code <<< 8) ++ leBytes 8 d.dtc.toNat ++ leBytes 8 d.posBefore.toNat
    ++ leBytes 8 d.posAfter.toNat

/-- R73, R444: the record goes to every port whose windows use the base; the windows open there carry DISCONT. -/
def State.discDeliver (s : State) (d : DiscRec) : State :=
  (List.finRange 8).foldl (fun s p =>
    if s.winMode p = 2 ∧ s.winBase p = d.base then
      let s := s.setWins p ((s.wins p).map fun w => if w.due then w else { w with discont := true })
      (s.writeRecord .discont (some p) (((s.wins p).getLast?.map Win.k).getD 0) (discBody d)).2
    else s) s

/-- R73: a discontinuity record is written; it waits while the results unit does not run. -/
def State.discRecord (s : State) (d : DiscRec) : State :=
  let s := { s with twin := { s.twin with discs := vupd s.twin.discs d.base (· + 1) } }
  let q := s.res.disc ++ [d]
  if s.alive PG.res ∧ !s.stopped PG.res then
    q.foldl State.discDeliver { s with res := { s.res with disc := [] } }
  else { s with res := { s.res with disc := q } }

end Sys2Proof.Machine
end

