-- ==== Sys2Proof/Machine/Link.lean ====
section
/-!
DEFINITION. Machine/Link.lean: what the Woeth link sends (R479 to R484): frames, the replay buffer, and the LEDGER entries
of a window (R482, R492).
-/

namespace Sys2Proof.Machine

/-- R498: WTH_STS.ROLE: 0 OFF, 1 STANDBY, 2 CLAIM, 3 ACTIVE. -/
def State.role (s : State) : Nat := s.fld PG.wth R.WTH_STS 0 2

/-- `s` with the twin state changed. -/
def State.twinUpd (s : State) (f : TwinState → TwinState) : State := { s with twin := f s.twin }

/-- R96, R481: a CRC of 32 bits, one bit of its reflected polynomial at a time. -/
def crcBits (poly : Nat) : Nat → Nat → Nat
  | 0, c => c
  | n + 1, c => crcBits poly n (if c % 2 = 1 then (c / 2) ^^^ poly else c / 2)

/-- The CRC of a string of bytes. -/
def crc32 (poly : Nat) (l : List Byte) : Nat := (l.foldl (fun c b => crcBits poly 8 (c ^^^ b.toNat)) 0xFFFFFFFF) ^^^ 0xFFFFFFFF

/-- R481: CRC-32C of a string of bytes. -/
def crc32c (l : List Byte) : Nat := crc32 0x82F63B78 l

/-- R96: a frame with its FCS (PRESUMED, log 227: that of IEEE 802.3, least significant byte first). -/
def withFcs (f : List Byte) : List Byte := f ++ leBytes 4 (crc32 0xEDB88320 f)

/-- R481: the header and payload of a frame. -/
def twinFrame (type seq ack : Nat) (words : List Nat) : List Byte :=
  leBytes 7 (type % 256 + (words.length % 256) <<< 8 + (nfld seq 0 16) <<< 16 + (nfld ack 0 16) <<< 32)
    ++ (words.map (leBytes 8)).flatten

/-- R480, R481: a frame goes out with its CRC word. -/
def State.twinWire (s : State) (f : List Byte) : State :=
  s.twinUpd fun t => { t with wire := t.wire ++ [f ++ leBytes 8 (crc32c f)] }

/-- R498: the link is up. -/
def State.linkUp (s : State) : Bool := s.bit PG.wth R.WTH_STS 2 && s.alive PG.wth

/-- R483: bytes of the replay buffer in use: each frame with its SOF and CRC blocks. -/
def replayBytes (l : List (Nat × List Byte)) : Nat := (l.map fun f => f.2.length + 9).sum

/-- R482, R483: waiting sequenced frames are sent while the link is up and the replay buffer has room. -/
def State.twinFlush (s : State) : Nat → State
  | 0 => s
  | n + 1 =>
    match s.twin.queue with
    | [] => s
    | (ty, ws) :: r =>
      if !s.linkUp || decide (65536 < replayBytes s.twin.replay + 8 * ws.length + 16) then s
      else
        let seq := (s.twin.seq + 1) % 2 ^ 16
        let f := twinFrame ty seq s.twin.rseq ws
        ((s.twinUpd fun t => { t with seq, queue := r, replay := t.replay ++ [(seq, f)] }).twinWire f).twinFlush n

/-- R482, R483: a sequenced frame is sent, or waits for the link or for room in the replay buffer. -/
def State.twinSend (s : State) (type : Nat) (words : List Nat) : State :=
  let s := s.twinUpd fun t => { t with queue := t.queue ++ [(type, words)] }
  s.twinFlush s.twin.queue.length

/-- R482: a frame without a sequence number is sent if the link is up. -/
def State.twinPlain (s : State) (type : Nat) (words : List Nat) : State :=
  if s.linkUp then s.twinWire (twinFrame type 0 s.twin.rseq words) else s

/-- R482, R492: the active device reports a window closed, or SENT. -/
def State.twinWindow (s : State) (port win : Nat) (sent : Bool) : State :=
  if s.role ≠ 3 then s
  else
    let o := (s.twin.own.find? fun o => o.port == port && o.win == win).getD
      { port, win, admitted := 0, objects := 0, corners := 0 }
    let s := if sent then s.twinUpd fun t => { t with ownSent := if h : port < 8 then t.ownSent.set port win else t.ownSent }
      else s
    s.twinSend 4 [nfld win 0 32 + (port % 8) <<< 32 + b2n sent <<< 35,
      nfld o.admitted 0 32 + (nfld o.objects 0 16) <<< 32 + (min 0xFFFF o.corners) <<< 48]

/-- R497: two accounts of a window differ beyond tolerance. -/
def State.winDiffers (s : State) (a b : WinSum) : Bool :=
  let tol := s.reg PG.wth R.WTH_CMP_TOL
  let far := fun x y => decide (bf tol 0 10 * max x y < absDiff x y * 1024)
  far a.admitted b.admitted || far (min 0xFFFF a.corners) (min 0xFFFF b.corners)
    || decide (bf tol 16 10 < absDiff a.objects b.objects)

/-- R497: a difference is counted. -/
def State.cmpDiff (s : State) : State :=
  ((s.bump PG.wth R.WTH_CNT1 48 16).setBit PG.wth R.WTH_STS 13 true).irq PG.wth 5

/-- R497: an entry of the peer is compared with the own record of the window, if there is one. -/
def State.cmpEntry (s : State) (e : WinSum) : Option State :=
  (s.twin.own.find? fun o => o.port == e.port && o.win == e.win).map fun o => if s.winDiffers o e then s.cmpDiff else s

/-- R497: an own WINDOW record of a position window is written: entries that wait for it are compared. -/
def State.twinOwn (s : State) (o : WinSum) : State :=
  let s := s.twinUpd fun t => { t with own := t.own ++ [o] }
  let mine := s.twin.cmp.filter fun e => e.1.port == o.port && e.1.win == o.win
  mine.foldl (fun s e => (s.cmpEntry e.1).getD s)
    (s.twinUpd fun t => { t with cmp := t.cmp.filter fun e => !(e.1.port == o.port && e.1.win == o.win) })

end Sys2Proof.Machine
end

