-- ==== Sys2Proof/Machine/Ptb.lean ====
section
/-!
DEFINITION. Machine/Ptb.lean: the position time bases and stamp maps: sources, servo, steps, homing, history, commands and
register writes (R46 to R86, R598).
-/

namespace Sys2Proof.Machine

/-- `s` with a base's state changed. -/
def State.ptbUpd (s : State) (p : Fin 8) (f : PtbState → PtbState) : State := { s with ptb := vupd s.ptb p f }

/-- The base re-anchored at the present instant; SLEWING clears when the slew has reached 0 (R70). -/
def State.ptbSettle (s : State) (p : Fin 8) : State :=
  let b := s.settled p
  let done := (s.ptb.get p).slewN ≠ 0 ∧ b.slewN = 0
  let s := s.ptbUpd p fun _ => b
  if done then s.setBit (PG.ptb p) R.PTB_STS 4 false else s

/-- R52, R72: a change of PTB_STS.STATE, with LOCK_LOST and HOLDOVER. -/
def State.ptbSetState (s : State) (p : Fin 8) (st : Nat) : State :=
  let old := s.ptbSt p
  let s := s.setFld (PG.ptb p) R.PTB_STS 0 2 st
  let s := if old = 2 ∧ st = 1 then s.irq (PG.ptb p) 0 else s
  if st = 3 ∧ old ≠ 3 then s.irq (PG.ptb p) 1 else s

/-- R200: CAUSE of a STEP_SKIP record by the cause of the step. -/
def stepCode : DiscCause → Nat
  | .home => 4
  | .align => 5
  | _ => 3

/-- R56: the FORCE_STEP of this cycle, which actions of an earlier place of the order precede. -/
def State.cycleStep (s : State) (p : Fin 8) : Option CycleStep :=
  (s.ptb.get p).stepped.filter fun c => c.at_ == s.dtc

/-- R56: how far the FORCE_STEP of this cycle has moved the base. -/
def State.cycleMoved (s : State) (p : Fin 8) : Word :=
  match s.cycleStep p with
  | some c => c.amount
  | none => 0

/-- R82, R84: what a step from `p0` to `p1` does to the scheduled items: it makes none due on a STOPPED base. -/
def State.schedStep (s : State) (p : Fin 8) (p0 p1 : Word) (cause : Nat) : State :=
  if s.ptbRunning p then s.schedMap (schedStepped p p0 p1 cause) else s.schedMap (schedLoaded p p1)

/-- R69, R84: the position moves by `d` at once: passed items fall due by step, and a discontinuity record is written. A step
that a FORCE_STEP of the same cycle has overtaken has the positions before that one (R56). -/
def State.ptbStep (s : State) (p : Fin 8) (d : Word) (cause : DiscCause) : State :=
  let p0 := s.pos p
  let r0 := if cause = .forceStep then p0 else p0 - s.cycleMoved p
  let s := s.ptbSettle p
  let s := s.ptbUpd p fun b => { b with pos := b.pos + d, discAt := s.dtc }
  let s := s.schedStep p p0 (p0 + d) (stepCode cause)
  let s := if s.bit PG.rch R.RCH_CTL 0 && before p0 (p0 + d) then
      { s with rch := { s.rch with steps := s.rch.steps ++ [(p, s.dtc, p0, p0 + d)] } }
    else s
  s.discRecord { base := p, cause, dtc := s.dtc, posBefore := r0, posAfter := r0 + d }

/-! ### RUN (R54, R55) -/

/-- R54: defaults of a source: JUMP_MAX, NOMINAL, KP, KI, SLEW_MAX, LOCK_TOL, LOCK_COUNT, HOLD_MS. -/
def srcDefaults : Nat → Option (Nat × Nat × Nat × Nat × Nat × Nat × Nat × Nat)
  | 0 => some (1000 * 2 ^ 16, 10 ^ 9 * 2 ^ 16, 0, 0, 0, 0, 1, 1)
  | 1 => some (2 ^ 16, 0, 0, 0, 0, 0, 1, 1)
  | 2 => some (2 ^ 20 * 2 ^ 16, 0, 0, 0, 0, 0, 1, 1)
  | 3 => some (214748 * 2 ^ 16, 55 * 2 ^ 48, 1526, 31, 200000000, 2 ^ 24, 8, 100)
  | 4 => some (1000 * 2 ^ 16, 10 ^ 9 * 2 ^ 16, 45875, 19661, 500000, 100, 8, 3000)
  | _ => none

/-- R54: the defaults of the selected source are loaded. -/
def State.ptbLoadDefaults (s : State) (p : Fin 8) : State :=
  match srcDefaults (s.ptbSrc p) with
  | none => s
  | some (jm, nom, kp, ki, sm, tol, cnt, hold) =>
    let pg := PG.ptb p
    let s := (s.setReg pg R.PTB_JUMP_MAX (wOfNat jm)).setReg pg R.PTB_NOMINAL (wOfNat nom)
    let s := (s.setReg pg R.PTB_KP (wOfNat kp)).setReg pg R.PTB_KI (wOfNat ki)
    let s := s.setReg pg R.PTB_SLEW_MAX (wOfNat sm)
    s.setReg pg R.PTB_SERVO_CTL (wOfNat (tol + cnt <<< 32 + hold <<< 48))

/-- R55: the PTB_STS bits of the checks that fail at RUN. -/
def State.ptbRunFails (s : State) (p : Fin 8) : List Nat :=
  let src := s.ptbSrc p
  let servo := s.reg (PG.ptb p) R.PTB_SERVO_CTL
  (if 5 ≤ src then [16] else []) ++ (if src = 2 ∧ s.ptbScale p = 0 then [17] else []) ++
  (if s.fld (PG.ptb p) R.PTB_HIST_CTL 0 8 = 0 then [18] else []) ++
  (if s.ptbServo p ∧ bf servo 32 8 = 0 then [19] else []) ++
  (if s.ptbServo p ∧ bf servo 48 16 = 0 then [20] else [])

/-- R57, R62: the level of an input after the filter: the sampled level once `n` samples have shown it, else the one before. -/
def filtered (level : Bool) (since : Option Word) (now : Word) (n : Nat) : Bool :=
  match since with
  | none => level
  | some t => if n ≤ (now - t).toNat then level else !level

/-- R51: the ENC input that INPUT names. -/
def State.ptbInput (s : State) (p : Fin 8) : EncInput := s.enc.get (baseOf (s.fld (PG.ptb p) R.PTB_CTL 4 3))

/-- R55: RUN goes from 0 to 1 (RUN already reads 1 in PTB_CTL): the parts of the base start afresh, the loop trim at 0 with the
integrator (DESIGN CHOICE, log 200: R55 names the integrator, the slew and the history), and the decoder from the filtered levels
of its input. Before its first edge an encoder base stands still (R52). -/
def State.ptbStart (s : State) (p : Fin 8) : State :=
  let pg := PG.ptb p
  match s.ptbRunFails p with
  | [] =>
    let p0 := (s.ptb.get p).pos
    let start := s.reg pg R.PTB_START
    let ctl := s.reg pg R.PTB_CTL
    let e := s.ptbInput p
    let n := bf ctl 16 3 + 1
    let s := s.ptbUpd p fun b => {
      pos := start, at_ := s.dtc
      la := filtered e.a e.aAt s.dtc n, lb := filtered e.b e.bAt s.dtc n, lz := filtered e.z e.zAt s.dtc n
      extrapOn := bitAt ctl 9, velEdges := bf ctl 12 4, encFilt := bf ctl 16 3
      accAt := s.dtc, discAt := s.dtc
      homeArmed := b.homeArmed, snapAt := b.snapAt }
    let s := (s.setFld pg R.PTB_STS 0 6 1).setBit pg R.PTB_STS 2 (s.ptbEnc p)
    let s := s.schedMap (schedLoaded p start)
    let s := s.discRecord { base := p, cause := .start, dtc := s.dtc, posBefore := p0, posAfter := start }
    if s.ptbSrc p = 0 then s.ptbSetState p 2 else s
  | l => (l.foldl (fun s b => s.ptbFlag p b) s).setBit pg R.PTB_CTL 8 false

/-- R55: RUN goes from 1 to 0: position and history freeze, the velocity reads 0. The outstanding slew and the bits that show the
run's motion and trim clear with it (DESIGN CHOICE, log 201: R55 does not name them). -/
def State.ptbHalt (s : State) (p : Fin 8) : State :=
  let x := s.pos p
  let s := s.ptbUpd p fun b => { b with pos := x, cnt := 0, frac := 0, at_ := s.dtc, edges := [], slewN := 0 }
  s.setFld (PG.ptb p) R.PTB_STS 0 6 0

/-- R53: fields that are writable only while RUN = 0. -/
def ptbCtlFrozen : Word := 0x4F7

/-- R53 to R55: a write of PTB_CTL. -/
def State.ptbCtlWrite (s : State) (p : Fin 8) (w : Wr) : State :=
  let pg := PG.ptb p
  let old := s.reg pg R.PTB_CTL
  let new := s.wouldBe pg w
  if bitAt old 8 ∧ (old ^^^ new) &&& ptbCtlFrozen ≠ 0 then s.logWr pg w .state
  else
    let s := s.setReg pg R.PTB_CTL new
    let s := if bf old 0 3 ≠ bf new 0 3 then s.ptbLoadDefaults p else s
    if !bitAt old 8 && bitAt new 8 then s.ptbStart p
    else if bitAt old 8 && !bitAt new 8 then s.ptbHalt p
    else s

/-! ### Servo (R64 to R72) -/

/-- R72: the state machine after an accepted offset; the one that leaves HOLDOVER counts toward LOCK_COUNT (DEDUCED, log 203: it
is an accepted offset, and only a first offset is excepted). -/
def State.ptbAccepted (s : State) (p : Fin 8) (inTol : Bool) : State :=
  let n := s.fld (PG.ptb p) R.PTB_SERVO_CTL 32 8
  let s := if s.ptbSt p = 3 then (s.ptbSetState p 1).ptbUpd p fun b => { b with inTol := 0, outTol := 0 } else s
  let s := s.ptbUpd p fun b => { b with
    accepted := true, accAt := s.dtc
    inTol := if inTol then b.inTol + 1 else 0, outTol := if inTol then 0 else b.outTol + 1 }
  let b := s.ptb.get p
  if s.ptbSt p = 1 ∧ n ≤ b.inTol then (s.ptbSetState p 2).ptbUpd p fun b => { b with outTol := 0 }
  else if s.ptbSt p = 2 ∧ 2 ≤ b.outTol then (s.ptbSetState p 1).ptbUpd p fun b => { b with inTol := 0 }
  else s

/-- R71: the last discontinuity before the PTB_CMD command of this cycle. -/
def State.lastDisc (s : State) (p : Fin 8) : Word :=
  match s.cycleStep p with
  | some c => c.disc
  | none => (s.ptb.get p).discAt

/-- R71: an offset measured at `d` is stale. -/
def State.ofsStale (s : State) (p : Fin 8) (d : Word) : Bool :=
  before d (s.lastDisc p) || decide (1000000000 < (s.dtc - d).toInt)

/-- R56, R67: the slew that an offset of this cycle subtracts. -/
def State.ofsSlew (s : State) (p : Fin 8) : Int :=
  match s.cycleStep p with
  | some c => c.slew
  | none => (s.ptb.get p).slewN

/-- R67: the servo takes an accepted offset `e'` (raw 48.16) into the loop. -/
def State.ptbLoop (s : State) (p : Fin 8) (e : Int) : State :=
  let pg := PG.ptb p
  let s := s.ptbSettle p
  let kp := sgn 32 (s.fld pg R.PTB_KP 0 32)
  let ki := sgn 32 (s.fld pg R.PTB_KI 0 32)
  let m : Int := s.ptbSlewMax p * 2 ^ 32
  let b := s.ptb.get p
  let inew := b.integ + ki * e
  let integ := if s.ofsSlew p = 0 ∧ (kp * e + inew).natAbs ≤ m.natAbs then inew else b.integ
  let x := kp * e + integ
  let loop := if x < -m then -m else if m < x then m else x
  let s := s.ptbUpd p fun b => { b with integ, loop }
  let s := s.setBit pg R.PTB_STS 5 (x != loop)
  s.ptbAccepted p (decide (e.natAbs ≤ s.fld pg R.PTB_SERVO_CTL 0 32 * 2 ^ 16))

/-- R67, R68: an offset measured at `d`, after the checks of its source. -/
def State.ptbOffset (s : State) (p : Fin 8) (e : Int) (d : Word) : State :=
  let pg := PG.ptb p
  if s.ofsStale p d then (s.ptbFlag p 12).bump pg R.PTB_CNT0 48 16
  else if s.ptbSrc p = 4 ∧ s.ptbSt p = 1 ∧ !(s.ptb.get p).accepted then
    let s := s.ptbStep p (wOfInt e) .align
    s.ptbUpd p fun b => { b with accepted := true, accAt := s.dtc }
  else
    let s := s.ptbSettle p
    let e' := e - openDiv 6 (s.ofsSlew p) (10 ^ 18)
    if (s.reg pg R.PTB_JUMP_MAX).toNat < e'.natAbs then
      ((s.setReg pg R.PTB_REFUSED_OFS (wOfInt e')).ptbFlag p 8).bump pg R.PTB_CNT0 32 16
    else s.ptbLoop p e'

/-- R66: an offset submitted by software. -/
def State.ptbSubmit (s : State) (p : Fin 8) (e : Word) : State :=
  if s.ptbSrc p = 4 ∧ s.ptbRunning p then s.ptbOffset p e.toInt (s.reg (PG.ptb p) R.PTB_OFS_DTC)
  else s.ptbFlag p 13

/-- R64, R65: a rising zero-cross edge reaches a running MAINS base. An edge outside 45–65 Hz is the previous edge of the next
period and opens its mask (DESIGN CHOICE: R64 calls it not used, and R64's 'accepted' leaves this open); setting the fraction of
a cycle to 0 goes to the nearest whole cycle, a tie upward (DESIGN CHOICE: R65 says no more; both log 202). -/
def State.mainsEdge (s : State) (p : Fin 8) : State :=
  let pg := PG.ptb p
  let b := s.ptb.get p
  let nom := s.ptbNominal p
  let take := fun (s : State) => s.ptbUpd p fun b => { b with mainsLast := some s.dtc }
  match b.mainsLast with
  | none => take s
  | some t =>
    let per := (s.dtc - t).toNat
    let masked := match b.mainsPeriod with
      | some q => decide (4 * per < q)
      | none => decide (0 < nom) && decide (4 * per * nom.natAbs < 10 ^ 9 * 2 ^ 48)
    if masked then s
    else if per * 65 < 10 ^ 9 ∨ 10 ^ 9 < per * 45 then
      ((take s).ptbFlag p 11).bump pg R.PTB_CNT1 32 16
    else
      let s := (take s).ptbUpd p fun b => { b with mainsPeriod := some per }
      let x := (s.pos p - s.cycleMoved p).toInt
      let e := (x + 2 ^ 47) / 2 ^ 48 * 2 ^ 48 - x
      if s.ptbSt p = 1 ∧ !b.accepted then
        let m : Int := s.ptbSlewMax p * 2 ^ 32
        let f : Int := if nom ≤ 0 then 0
          else openDiv 7 (10 ^ 18 * 2 ^ 80) (per * nom.natAbs) - 10 ^ 9 * 2 ^ 32
        let g := if f < -m then -m else if m < f then m else f
        let s := s.ptbStep p (wOfInt e) .align
        (s.ptbUpd p fun b => { b with integ := g, loop := g, accepted := true, accAt := s.dtc }).setBit pg R.PTB_STS 5 (f != g)
      else s.ptbOffset p e s.dtc

/-! ### Encoder (R57 to R63) -/

/-- R57: the sense of an edge: A leads B counts up. -/
def quadUp (a0 a1 b1 : Bool) : Bool :=
  if a0 != a1 then (if a1 then !b1 else b1) else (if b1 then a1 else !a1)

/-- R57 to R60: filtered levels of A and B, which changed at `ts`, are applied to the base. -/
def State.encApply (s : State) (p : Fin 8) (a b : Bool) (ts : Word) : State :=
  let st := s.ptb.get p
  let pg := PG.ptb p
  let ctl := s.reg pg R.PTB_CTL
  let levels := fun (s : State) => s.ptbUpd p fun x => { x with la := a, lb := b }
  if !(s.ptbRunning p && s.ptbEnc p) then levels s
  else if st.la != a && st.lb != b then ((levels s).ptbFlag p 9).bump pg R.PTB_CNT0 0 16
  else if st.la == a && st.lb == b then s
  else
    let up := quadUp st.la a b != bitAt ctl 7
    let keep := st.hasEdge && (st.up == up)
    let s := s.schedMap (schedSeen p (s.pos p))
    let s := (levels s).ptbUpd p fun x => { x with
      cnt := if up then x.cnt + 1 else x.cnt - 1
      zCnt := x.zCnt.map fun c => if up then c + 1 else c - 1
      hasEdge := true
      up := up
      edges := if keep then ts :: x.edges.take (2 ^ (min 8 (bf ctl 12 4))) else [ts]
      extrapOn := bitAt ctl 9, velEdges := bf ctl 12 4, encFilt := bf ctl 16 3 }
    let s := (s.setBit pg R.PTB_STS 2 false).setBit pg R.PTB_STS 3 (!up)
    let s := s.schedMap (schedSeen p (s.pos p))
    if s.ptbSt p = 1 then s.ptbSetState p 2 else s

/-- R62, R63: a filtered rising Z edge, whose first sample was at `ts`. -/
def State.zApply (s : State) (p : Fin 8) (ts : Word) : State :=
  let pg := PG.ptb p
  if !(s.bit pg R.PTB_CTL 10 && s.ptbRunning p && s.ptbEnc p) then s
  else
    let b := s.ptb.get p
    let x := s.posAgo p (s.dtc - ts).toNat - s.cycleMoved p
    let s := s.setReg pg R.PTB_ZPOS x
    let bad := match b.zCnt with
      | none => false
      | some c => s.ptbSrc p = 2 && c.natAbs != s.ptbScale p
    let s := if bad then (s.ptbFlag p 10).bump pg R.PTB_CNT0 16 16 else s
    let s := s.ptbUpd p fun b => { b with zCnt := some 0 }
    if b.homeArmed then
      let s := s.ptbUpd p fun b => { b with homeArmed := false }
      s.ptbStep p (s.reg pg R.PTB_HOME - (s.pos p - s.cycleMoved p)) .home
    else s

/-- R57: a level of an input differs from the base's filtered one and has been sampled long enough; with the DTC of the first
sample that showed it. -/
def levelDue (level : Bool) (since : Option Word) (mine : Bool) (now : Word) (n : Nat) : Option Word :=
  if level == mine then none
  else match since with
    | none => some 0
    | some t => if n ≤ (now - t).toNat then some t else none

/-- R57, R58: changes of A and B that have passed the base's filter are applied, the older first; two of one sample are an
illegal transition. -/
def State.encTake (s : State) (p : Fin 8) (e : EncInput) : Nat → State
  | 0 => s
  | k + 1 =>
    let b := s.ptb.get p
    let n := b.encFilt + 1
    match levelDue e.a e.aAt b.la s.dtc n, levelDue e.b e.bAt b.lb s.dtc n with
    | none, none => s
    | some t, none => State.encTake (s.encApply p e.a b.lb t) p e k
    | none, some t => State.encTake (s.encApply p b.la e.b t) p e k
    | some t, some u =>
      if t = u then State.encTake (s.encApply p e.a e.b t) p e k
      else if before t u then State.encTake (s.encApply p e.a b.lb t) p e k
      else State.encTake (s.encApply p b.la e.b u) p e k

/-- R62: a change of Z that has passed the base's filter; a falling one has no effect. -/
def State.zTake (s : State) (p : Fin 8) (e : EncInput) : State :=
  let b := s.ptb.get p
  match levelDue e.z e.zAt b.lz s.dtc (b.encFilt + 1) with
  | none => s
  | some t =>
    let s := s.ptbUpd p fun b => { b with lz := e.z }
    if e.z then s.zApply p t else s

/-! ### Commands (R50, R56) -/

/-- R56: SNAP latches position, velocity and DTC of the same cycle. -/
def State.ptbSnap (s : State) (p : Fin 8) : State :=
  let pg := PG.ptb p
  let s := s.ptbUpd p fun b => { b with snapAt := some s.dtc }
  ((s.setReg pg R.PTB_SNAP_POS (s.pos p)).setReg pg R.PTB_SNAP_DTC s.dtc).setReg pg R.PTB_SNAP_VEL (wOfInt (s.vel p))

/-- R56: an action on a base within a cycle: a SNAP of that cycle latches what it leaves. -/
def State.ptbCycle (s : State) (p : Fin 8) (act : State → State) : State :=
  let t := act s
  if (t.ptb.get p).snapAt = some t.dtc then t.ptbSnap p else t

/-- R69: FORCE_STEP; the steps of one cycle are kept for the actions that precede them (R56). -/
def State.ptbForceStep (s : State) (p : Fin 8) : State :=
  let d := s.reg (PG.ptb p) R.PTB_STEP
  if d = 0 then s
  else
    let c : CycleStep := match s.cycleStep p with
      | some c => { c with amount := c.amount + d }
      | none => { at_ := s.dtc, amount := d, disc := (s.ptb.get p).discAt, slew := (s.settled p).slewN }
    let s := s.ptbStep p d .forceStep
    (s.ptbUpd p fun b => { b with slewN := 0, stepped := some c }).setBit (PG.ptb p) R.PTB_STS 4 false

/-- R70: ACCEPT_SLEW. -/
def State.ptbAcceptSlew (s : State) (p : Fin 8) : State :=
  let pg := PG.ptb p
  let r := s.reg pg R.PTB_REFUSED_OFS
  if r = 0 then s
  else
    let s := (s.ptbSettle p).setReg pg R.PTB_REFUSED_OFS 0
    let s := s.ptbUpd p fun b => { b with slewN := b.slewN + r.toInt * 10 ^ 18 }
    s.setBit pg R.PTB_STS 4 (decide ((s.ptb.get p).slewN ≠ 0))

/-- R62: ARM_HOME. -/
def State.ptbArmHome (s : State) (p : Fin 8) : State := s.ptbUpd p fun b => { b with homeArmed := true }

/-- R67: CLEAR_SERVO sets the integrator and the loop trim to 0. -/
def State.ptbClearServo (s : State) (p : Fin 8) : State :=
  ((s.ptbSettle p).ptbUpd p fun b => { b with integ := 0, loop := 0 }).setBit
    (PG.ptb p) R.PTB_STS 5 false

/-- R50: a write of PTB_CMD; other codes are ignored. -/
def State.ptbCommand (s : State) (p : Fin 8) (v : Nat) : State :=
  match v with
  | 1 => s.ptbSnap p
  | 2 => s.ptbForceStep p
  | 3 => s.ptbAcceptSlew p
  | 4 => s.ptbArmHome p
  | 5 => s.ptbClearServo p
  | _ => s

/-- R86: the alarm item follows PTB_ALARM and PTB_ALARM_CTL.EN. -/
def State.alarmArm (s : State) (p : Fin 8) : State :=
  if s.bit (PG.ptb p) R.PTB_ALARM_CTL 0 then s.schedAdd (.alarm p) p (s.reg (PG.ptb p) R.PTB_ALARM) (s.pos p)
  else s.schedDel (.alarm p)

/-- R63: the counts of an encoder base are added into its position at the present scale. -/
def State.ptbFold (s : State) (p : Fin 8) : State :=
  if !s.ptbEnc p then s
  else s.ptbUpd p fun b => { b with pos := b.pos + wOfInt (countsRaw (s.ptbSrc p = 2) (s.ptbScale p) b.cnt), cnt := 0 }

/-- A write to a block register of PTB page `p` by its rule (R50 to R55). -/
def State.ptbWriteRule (s : State) (p : Fin 8) (w : Wr) : State :=
  let pg := PG.ptb p
  let r := w.reg
  if r = R.PTB_CTL then s.ptbCtlWrite p w
  else if r = R.PTB_CMD then s.ptbCommand p (bf w.val 0 4)
  else if r = R.PTB_OFS_IN then s.ptbSubmit p w.val
  else if r = R.PTB_HIST_CTL then
    if s.ptbRunning p ∧ s.wouldBe pg w ≠ s.reg pg r then s.logWr pg w .state else s.plainWrite pg w
  else if r = R.PTB_ALARM ∨ r = R.PTB_ALARM_CTL then (s.plainWrite pg w).alarmArm p
  else if r = R.PTB_SCALE then ((s.ptbSettle p).ptbFold p).plainWrite pg w
  else if r = R.PTB_NOMINAL ∨ r = R.PTB_SLEW_MAX then (s.ptbSettle p).plainWrite pg w
  else s.plainWrite pg w

/-- R56: a write to a block register of PTB page `p`, in its cycle. -/
def State.ptbWrite (s : State) (p : Fin 8) (w : Wr) : State := s.ptbCycle p fun s => s.ptbWriteRule p w

/-- R598: actions of a reset of a PTB page: counters and W1C bits clear, the base runs on. -/
def State.ptbPageReset (s : State) (p : Fin 8) : State :=
  let pg := PG.ptb p
  ((s.setReg pg R.PTB_CNT0 0).setReg pg R.PTB_CNT1 0).setReg pg R.PTB_STS (s.reg pg R.PTB_STS &&& 0x3F)

/-! ### Stamp maps (R74 to R78) -/

/-- R74: STAMP_BITS in force. -/
def State.stampBits (s : State) (n : Fin 8) : Nat := min 32 (max 12 (s.fld PG.dtc (R.TMAP_CTL n) 8 6))

/-- R77: interval length in ns. -/
def State.tmapNs (s : State) (n : Fin 8) : Nat := s.fld PG.dtc (R.TMAP_CTL n) 32 8 * 64000

/-- R75, R77: a write of TMAP_CTL; enabling checks INTERVAL and starts the map. -/
def State.tmapCtlWrite (s : State) (n : Fin 8) (w : Wr) : State :=
  let r := R.TMAP_CTL n
  let old := s.reg PG.dtc r
  let new := s.wouldBe PG.dtc w
  if !bitAt old 0 && bitAt new 0 then
    if bitAt new 1 && bf new 32 8 = 0 then
      (s.setReg PG.dtc r (putBit new 0 false)).setBit PG.dtc R.DTC_STS n true
    else
      let s := (s.setReg PG.dtc r new).setReg PG.dtc (R.TMAP_RATE n) 0
      { s with tmap := s.tmap.set n {} }
  else s.setReg PG.dtc r new

/-- A write to a block register of the DTC page. -/
def State.dtcWrite (s : State) (w : Wr) : State :=
  if h : 0x1000 ≤ w.reg ∧ w.reg < 0x1200 ∧ (w.reg - 0x1000) % 0x40 = 0 then
    s.tmapCtlWrite ⟨(w.reg - 0x1000) / 0x40, by omega⟩ w
  else s.plainWrite PG.dtc w

/-- R77: limit of TMAP_RATE, 500 ppm in 2^-40. -/
def tmapRateMax : Int := 549755813

/-- R77: at the end of an interval that held an event, the smallest residual updates TMAP_OFS and TMAP_RATE. -/
def State.tmapClose (s : State) (n : Fin 8) : State :=
  match (s.tmap.get n).rmin with
  | none => s
  | some r =>
    let ctl := s.reg PG.dtc (R.TMAP_CTL n)
    let e := r - (bf ctl 16 16 : Nat)
    let ofs := (s.reg PG.dtc (R.TMAP_OFS n)).toInt + roundEven (e * 2 ^ 24) 2
    let ticks := bf ctl 32 8 * 1024
    let rate := (s.reg PG.dtc (R.TMAP_RATE n)).toInt + roundEven (e * 2 ^ 40) (8 * ticks)
    let rate := if rate < -tmapRateMax then -tmapRateMax else if tmapRateMax < rate then tmapRateMax else rate
    let s := (s.setReg PG.dtc (R.TMAP_OFS n) (wOfInt ofs)).setReg PG.dtc (R.TMAP_RATE n) (wOfInt rate)
    let s := s.setReg PG.dtc (R.TMAP_RESID n) (wOfNat (low 32 r))
    { s with tmap := vupd s.tmap n fun t => { t with rmin := none } }

/-! ### Due items (R82, R84) -/

/-- R82: the item falls due now: a step passed it, or its base runs and has turned from behind its target to at or
past it. -/
def State.dueNow (s : State) (i : Sched) : Bool :=
  i.byStep || (s.ptbRunning i.base && i.behind && atOrAfter (s.pos i.base) i.target)

/-- R82: the named item, if it falls due now. -/
def State.dueItem (s : State) (id : ItemId) : Option Sched :=
  match s.schedGet id with
  | none => none
  | some i => if s.dueNow i then some i else none

/-! ### Commands of the table -/

/-- R30: the block of a reflex-domain page works while the domain has power. -/
def State.ifOn (s : State) (page : Nat) (act : State → State) : State := if s.isOff page then s else act s

/-- R51, R57: the base decodes ENC input `e`. -/
def State.encBase (s : State) (e p : Fin 8) : Bool :=
  !s.isOff (PG.ptb p) && s.ptbRunning p && s.ptbEnc p && s.fld (PG.ptb p) R.PTB_CTL 4 3 == e.val

/-- R57: an input after a sample: a changed level counts from it. -/
def EncInput.sample (x : EncInput) (now : Word) (a b z : Bool) : EncInput :=
  { a, b, z
    aAt := if a == x.a then x.aAt else some now
    bAt := if b == x.b then x.bAt else some now
    zAt := if z == x.z then x.zAt else some now }

/-- R56, R57, R62: a sample of ENC input `e`: on every base that decodes it, the changes that its filter has passed take effect,
A and B before Z; then the sampled levels stand. -/
def State.encSample (s : State) (e : Fin 8) (a b z : Bool) : State :=
  let x := s.enc.get e
  let s := (List.finRange 8).foldl (fun s p =>
    if s.encBase e p then s.ptbCycle p fun s => (s.encTake p x 2).zTake p x else s) s
  { s with enc := s.enc.set e (x.sample s.dtc a b z) }

/-- ENCODER_EDGE (R57, R58). -/
def execEncoderEdge (e : Fin 8) (a b : Bool) (s : State) : Res := s.ends (s.encSample e a b (s.enc.get e).z)

/-- Z_EDGE (R62, R63). -/
def execZEdge (z : ZSample) (s : State) : Res :=
  s.ends (s.encSample z.input (s.enc.get z.input).a (s.enc.get z.input).b z.level)

/-- MAINS_ZERO_CROSS (R64, R65): the edge reaches every running MAINS base whose INPUT names the input. -/
def execMainsZeroCross (m : Fin 2) (s : State) : Res :=
  s.ends ((List.finRange 8).foldl (fun s (p : Fin 8) =>
    if !s.isOff (PG.ptb p) ∧ s.ptbRunning p ∧ s.ptbSrc p = 3 ∧ s.fld (PG.ptb p) R.PTB_CTL 4 3 = m.val
    then s.ptbCycle p fun s => s.mainsEdge p else s) s)

/-- A 64-bit write by `ini` to a block register of PTB page `p`. -/
def State.ptbWr (s : State) (ini : Initiator) (p : Fin 8) (off : Nat) (v : Word) : State :=
  s.gate (PG.ptb p) (.full ini off v) fun s => s.ptbWrite p (.full ini off v)

/-- PTB_RUN (R55): a write of PTB_CTL. -/
def execPtbRun (ini : Initiator) (p : Fin 8) (v : Word) (s : State) : Res := s.ends (s.ptbWr ini p R.PTB_CTL v)

/-- PTB_STOP (R55): a write of PTB_CTL. -/
def execPtbStop (ini : Initiator) (p : Fin 8) (v : Word) (s : State) : Res := s.ends (s.ptbWr ini p R.PTB_CTL v)

/-- PTB_SRC_DEFAULTS (R54): a write of PTB_CTL. -/
def execPtbSrcDefaults (ini : Initiator) (p : Fin 8) (v : Word) (s : State) : Res :=
  s.ends (s.ptbWr ini p R.PTB_CTL v)

/-- SNAP (R56). -/
def execSnap (ini : Initiator) (p : Fin 8) (s : State) : Res := s.ends (s.ptbWr ini p R.PTB_CMD 1)

/-- FORCE_STEP (R69). -/
def execForceStep (ini : Initiator) (p : Fin 8) (s : State) : Res := s.ends (s.ptbWr ini p R.PTB_CMD 2)

/-- ACCEPT_SLEW (R70). -/
def execAcceptSlew (ini : Initiator) (p : Fin 8) (s : State) : Res := s.ends (s.ptbWr ini p R.PTB_CMD 3)

/-- ARM_HOME (R62). -/
def execArmHome (ini : Initiator) (p : Fin 8) (s : State) : Res := s.ends (s.ptbWr ini p R.PTB_CMD 4)

/-- CLEAR_SERVO (R67). -/
def execClearServo (ini : Initiator) (p : Fin 8) (s : State) : Res := s.ends (s.ptbWr ini p R.PTB_CMD 5)

/-- OFFSET_SUBMIT (R66, R67): a write of PTB_OFS_IN. -/
def execOffsetSubmit (ini : Initiator) (p : Fin 8) (v : Word) (s : State) : Res :=
  s.ends (s.ptbWr ini p R.PTB_OFS_IN v)

/-- R72: no offset has been accepted for HOLD_MS. -/
def State.holdoverDue (s : State) (p : Fin 8) : Bool :=
  s.ptbServo p && (s.ptbSt p = 1 || s.ptbSt p = 2) &&
    decide (s.fld (PG.ptb p) R.PTB_SERVO_CTL 48 16 * 1000000 ≤ (s.dtc - (s.ptb.get p).accAt).toNat)

/-- HOLDOVER_TIMEOUT (R72). -/
def execHoldoverTimeout (p : Fin 8) (s : State) : Res :=
  s.ends (s.ifOn (PG.ptb p) fun s => if s.holdoverDue p then s.ptbSetState p 3 else s)

/-- SLEW_DONE (R70): the slew worked off so far is accounted; at 0, SLEWING clears and the loop trim is in force. -/
def execSlewDone (p : Fin 8) (s : State) : Res := s.ends (s.ifOn (PG.ptb p) fun s => s.ptbSettle p)

/-- R59: the last edge lies 2^VEL_EDGES × 10 ms back. -/
def State.standstillDue (s : State) (p : Fin 8) : Bool :=
  s.ptbRunning p && s.ptbEnc p && (s.ptb.get p).hasEdge && decide ((s.ptb.get p).standstillAt ≤ s.ptbTau p)

/-- STANDSTILL (R59). -/
def execStandstill (p : Fin 8) (s : State) : Res :=
  s.ends (s.ifOn (PG.ptb p) fun s => if s.standstillDue p then s.setBit (PG.ptb p) R.PTB_STS 2 true else s)

/-- R80: STRIDE ticks have passed since the last sample. -/
def State.histDue (s : State) (p : Fin 8) : Bool :=
  s.ptbRunning p && match (s.ptb.get p).hist with
    | [] => true
    | (t, _) :: _ => decide ((s.fld (PG.ptb p) R.PTB_HIST_CTL 0 8 : Int) ≤ sdiff 32 s.iet t)

/-- HIST_SAMPLE (R80): a running base stores a sample; the history holds 4,096. -/
def execHistSample (p : Fin 8) (s : State) : Res :=
  s.ends (s.ifOn (PG.ptb p) fun s =>
    if s.histDue p then s.ptbUpd p fun b => { b with hist := (s.iet, s.pos p) :: b.hist.take 4095 } else s)

/-- TMAP_ENABLE (R75, R77): a write of TMAP_CTL. -/
def execTmapEnable (ini : Initiator) (n : Fin 8) (v : Word) (s : State) : Res :=
  s.ends (s.gate PG.dtc (.full ini (R.TMAP_CTL n) v) fun s => s.dtcWrite (.full ini (R.TMAP_CTL n) v))

/-- R77: an interval that held an event has ended. -/
def State.tmapDue (s : State) (n : Fin 8) : Bool :=
  (s.tmap.get n).rmin.isSome && decide ((s.tmap.get n).interval < s.dtc.toNat / s.tmapNs n)

/-- TMAP_INTERVAL_END (R77). -/
def execTmapIntervalEnd (n : Fin 8) (s : State) : Res :=
  s.ends (s.ifOn PG.dtc fun s => if s.tmapDue n then s.tmapClose n else s)

end Sys2Proof.Machine
end

