-- ==== Sys2Proof/Machine/Net.lean ====
section
/-!
DEFINITION. Machine/Net.lean: the Ethernet ports: modes, host rings, timestamps and one-step insertion, the PPS pins and the
UDP result streams (R87 to R112).
-/

namespace Sys2Proof.Machine

/-- `s` with a port's state changed. -/
def State.netUpd (s : State) (q : Fin 2) (f : NetState → NetState) : State := { s with net := vupd s.net q f }

/-- R89: NET_STS.LINK. -/
def State.netLink (s : State) (q : Fin 2) : Bool := s.bit (PG.net q) R.NET_STS 0

/-- R89: the link goes up or down, with FEC_LOCK and the LINK cause. -/
def State.netSetLink (s : State) (q : Fin 2) (up : Bool) : State :=
  let pg := PG.net q
  let old := s.netLink q
  let fec := up && s.fld pg R.NET_CTL 2 2 != 0
  let s := (s.setBit pg R.NET_STS 0 up).setBit pg R.NET_STS 1 fec
  if old != up then s.irq pg 0 else s

/-- R93: TX_LAT and RX_LAT of a mode and FEC. -/
def tsLat : Nat → Nat → Option (Nat × Nat)
  | 1, 0 => some (62, 88)
  | 1, 1 => some (71, 176)
  | 2, 0 => some (38, 52)
  | 2, 1 => some (44, 118)
  | 2, 2 => some (96, 212)
  | _, _ => none

/-- R99: the timestamp queue empties, and the frames that stand in the transmit rings post no entry. -/
def State.txtsEmpty (s : State) (q : Fin 2) : State :=
  let tail := fun i => some (s.fld (PG.net q) (R.NET_RING_TAIL i) 0 32)
  s.netUpd q fun n => { n with txts := [], mute := #v[tail 0, tail 1] }

/-- R90, R99: a write of NET_CTL. -/
def State.netCtlWrite (s : State) (q : Fin 2) (w : Wr) : State :=
  let pg := PG.net q
  let old := s.reg pg R.NET_CTL
  let new := s.wouldBe pg w
  let mode := bf new 0 2
  let fec := bf new 2 2
  if mode = 3 ∨ fec = 3 ∨ (mode = 1 ∧ fec = 2) then s.setBit pg R.NET_STS 2 true
  else
    let s := s.setReg pg R.NET_CTL new
    let change := bf old 0 4 ≠ bf new 0 4
    let s := if change then
        let s := s.netSetLink q false
        match tsLat mode fec with
        | some (tx, rx) => s.setReg pg R.NET_TS_LAT (wOfNat (tx + rx <<< 16))
        | none => s
      else s
    if change ∨ (bitAt old 4 ∧ !bitAt new 4) then s.txtsEmpty q else s

/-! ### Frames (R88, R94) -/

/-- A big-endian field of a frame. -/
def frameBe (f : List Byte) (o n : Nat) : Nat := beNat ((f.drop o).take n)

/-- Whether an EtherType is a VLAN tag's. -/
def isTag (t : Nat) : Bool := t = 0x8100 || t = 0x88A8

/-- Offset of the EtherType that follows at most one 802.1Q tag; none where a second tag follows. -/
def etherAt (f : List Byte) : Option Nat :=
  if isTag (frameBe f 12 2) then (if isTag (frameBe f 16 2) then none else some 16) else some 12

/-- How a PTP message is carried (R94). -/
inductive PtpWrap where
  | ether | udp4 | udp6
  deriving DecidableEq, Repr

/-- R94: carrier, UDP destination port (0 for none) and offset of the PTP header. -/
def ptpFind (f : List Byte) : Option (PtpWrap × Nat × Nat) :=
  match etherAt f with
  | none => none
  | some o =>
    let t := frameBe f o 2
    let l := o + 2
    if t = 0x88F7 then some (.ether, 0, l)
    else if t = 0x0800 then
      if frameBe f l 1 = 0x45 ∧ frameBe f (l + 9) 1 = 17 then some (.udp4, frameBe f (l + 22) 2, l + 28) else none
    else if t = 0x86DD then
      if frameBe f (l + 6) 1 = 17 then some (.udp6, frameBe f (l + 42) 2, l + 48) else none
    else none

/-- R94: classes of a frame: an event message, a general message, or neither, with messageType and header offset. -/
inductive PtpClass where
  | event (msg at_ : Nat) (w : PtpWrap)
  | general (msg : Nat)
  | other
  deriving DecidableEq, Repr

/-- R94: the class of a frame. -/
def ptpClass (f : List Byte) : PtpClass :=
  match ptpFind f with
  | none => .other
  | some (w, port, o) =>
    let msg := frameBe f o 1 % 16
    let carried := w = .ether ∨ port = 319
    if carried ∧ msg < 4 then .event msg o w
    else if (carried ∧ 8 ≤ msg ∧ msg ≤ 13) ∨ port = 320 then .general msg
    else .other

/-- R89: largest accepted frame, FCS included. -/
def State.maxFrame (s : State) (q : Fin 2) : Nat :=
  let m := s.fld (PG.net q) R.NET_MAX_FRAME 0 14
  if 64 ≤ m ∧ m ≤ 9216 then m else 9216

/-- R88: a PAUSE frame's quanta. -/
def pauseQuanta (f : List Byte) : Option Nat :=
  if frameBe f 12 2 = 0x8808 ∧ frameBe f 14 2 = 0x0001 then some (frameBe f 16 2) else none

/-- Duration of pause quanta in ns at the port's rate. -/
def State.pauseNs (s : State) (q : Fin 2) (n : Nat) : Nat :=
  if s.fld (PG.net q) R.NET_CTL 0 2 = 1 then n * 512 / 10 else n * 512 / 25

/-- R91: entries of a ring that are not served yet. -/
def State.ringPending (s : State) (q : Fin 2) (i : Nat) : Nat :=
  (s.fld (PG.net q) (R.NET_RING_TAIL i) 0 32 + 2 ^ 32 - s.fld (PG.net q) (R.NET_RING_HEAD i) 0 32) % 2 ^ 32

/-- R91: address of the entry of `sz` bytes at a ring's HEAD plus `k`. -/
def State.ringEntry (s : State) (q : Fin 2) (i k sz : Nat) : Nat :=
  let n := s.fld (PG.net q) (R.NET_RING_SIZE i) 0 13
  (s.reg (PG.net q) (R.NET_RING_BASE i)).toNat + sz * ((s.fld (PG.net q) (R.NET_RING_HEAD i) 0 32 + k) % max 1 n)

/-- R91: a ring's HEAD advances. -/
def State.ringAdvance (s : State) (q : Fin 2) (i k : Nat) : State :=
  s.setReg (PG.net q) (R.NET_RING_HEAD i) (wOfNat ((s.fld (PG.net q) (R.NET_RING_HEAD i) 0 32 + k) % 2 ^ 32))

/-- R88: a PAUSE frame that the port sends, its quanta a free value: the rule does not say when it sends one; the model does
where it has discarded a frame for want of a descriptor (DESIGN CHOICE, log 226). -/
def State.pauseSend (s : State) (q : Fin 2) : State :=
  let pg := PG.net q
  if !s.bit pg R.NET_CTL 8 ∨ !s.netLink q then s
  else
    let (i, s) := s.takeFree
    let f := beBytes 6 0x0180C2000001 ++ beBytes 6 (s.fld pg R.NET_MAC_ADDR 0 48) ++ beBytes 2 0x8808 ++ beBytes 2 1 ++
      beBytes 2 (Config.freeNat i) ++ List.replicate 42 0
    s.netUpd q fun n => { n with wire := withFcs f }

/-- R92, R93, R95: a frame is delivered to a receive ring (2 is RX0, 3 is RX1): a receive completion is written; the layout
of its fields in memory is open. -/
def State.netDeliver (s : State) (q : Fin 2) (ring : Nat) (f : List Byte) (ev : Bool) (msg : Nat) : State :=
  let pg := PG.net q
  if s.fld pg (R.NET_RING_SIZE ring) 0 13 = 0 ∨ s.ringPending q ring = 0 then (s.bump pg R.NET_CNT0 32 16).pauseSend q
  else
    let stamp := ev && s.bit pg R.NET_CTL 4
    let d := s.dtc - wOfNat (s.fld pg R.NET_TS_LAT 16 16)
    let base := baseOf (s.fld pg R.NET_CTL 5 3)
    let (x, _, s) := if stamp then s.lookPosDtc base d else (0, false, s)
    let slot := s.fld pg (R.NET_RING_HEAD ring) 0 32 % max 1 (s.fld pg (R.NET_RING_SIZE ring) 0 13)
    let c : RxCompletion := { ring, slot, frame := f, tsValid := stamp, msgType := msg, dtc := if stamp then d else 0, pos := x }
    let (i, s) := s.takeFree
    let s := s.writeBytes none (s.ringEntry q ring 0 32) ((List.range 32).map (Config.freeByte i))
    ((s.netUpd q fun n => { n with rx := c :: n.rx.filter fun o => o.ring != ring || o.slot != slot }).ringAdvance q ring 1).irq pg (1 + ring)

/-- R88, R92: a received frame (without FCS) is checked and steered. -/
def State.netRx (s : State) (q : Fin 2) (f : List Byte) (fcsOk : Bool) : State :=
  let pg := PG.net q
  if !fcsOk then s.bump pg R.NET_CNT0 0 16
  else if f.length + 4 < 64 ∨ s.maxFrame q < f.length + 4 then s.bump pg R.NET_CNT0 16 16
  else
    match etherAt f with
    | none => s.bump pg R.NET_CNT0 48 16
    | some _ =>
      match (if s.bit pg R.NET_CTL 8 then pauseQuanta f else none) with
      | some n => s.netUpd q fun x => { x with pauseTo := s.dtc + wOfNat (s.pauseNs q n) }
      | none =>
        match ptpClass f with
        | .event msg _ _ => s.netDeliver q 2 f true msg
        | .general msg => s.netDeliver q 2 f false msg
        | .other =>
          let dst := frameBe f 0 6
          if dst = s.fld pg R.NET_MAC_ADDR 0 48 ∨ frameBe f 0 1 % 2 = 1 then s.netDeliver q 3 f false 0 else s

/-! ### One-step insertion and transmit stamps (R95 to R98) -/

/-- A frame with the bytes at an offset replaced. -/
def frameSet (f : List Byte) (o : Nat) (b : List Byte) : List Byte := f.take o ++ b ++ f.drop (o + b.length)

/-- The one's-complement sum of 16-bit words, carries not yet folded. -/
def sum16 : List Byte → Nat
  | [] => 0
  | [a] => a.toNat * 256
  | a :: b :: r => a.toNat * 256 + b.toNat + sum16 r

/-- The Internet checksum of a sum. -/
def cksum (n : Nat) : Nat :=
  let a := n % 65536 + n / 65536
  let b := a % 65536 + a / 65536
  let c := b % 65536 + b / 65536
  65535 - c

/-- A UDP checksum as sent: 0 is sent as all ones. -/
def udpCk (n : Nat) : Nat := if cksum n = 0 then 0xFFFF else cksum n

/-- R96: the UDP checksum of a frame whose UDP header stands at `u`, addresses at `a` (`an` bytes), recomputed. -/
def udpFix (f : List Byte) (a an u : Nat) : List Byte :=
  let len := frameBe f (u + 4) 2
  let g := frameSet f (u + 6) [0, 0]
  let n := sum16 ((g.drop a).take an) + 17 + len + sum16 ((g.drop u).take len)
  frameSet g (u + 6) (beBytes 2 (udpCk n))

/-- R96: the checksum repaired after an insertion at PTP offset `o`. -/
def ptpFix (f : List Byte) (w : PtpWrap) (o : Nat) : List Byte :=
  match w with
  | .ether => f
  | .udp4 => if frameBe f (o - 2) 2 = 0 then f else udpFix f (o - 16) 8 (o - 8)
  | .udp6 => udpFix f (o - 40) 32 (o - 8)

/-- R96: `x` added to the correctionField of the PTP header at `o`. -/
def addCorrection (f : List Byte) (o : Nat) (x : Int) : List Byte :=
  frameSet f (o + 8) (beBytes 8 (low 64 ((frameBe f (o + 8) 8 : Int) + x)))

/-- R96: one-step fields inserted into a Sync (messageType 0) or a Pdelay_Resp (3) sent at position `pos`. -/
def State.oneStep (s : State) (q : Fin 2) (f : List Byte) (msg o : Nat) (w : PtpWrap) (pos t2 : Word) : List Byte :=
  let pg := PG.net q
  if msg = 0 then
    let d := sdiff 48 (pos.toNat / 65536) (s.fld pg R.NET_PTP_EPOCH_POS 0 48)
    let sec := (s.fld pg R.NET_PTP_EPOCH_S 0 48 : Int) + d / 1000000000
    let ns := d % 1000000000
    let f := frameSet f (o + 34) (beBytes 6 (low 48 sec) ++ beBytes 4 ns.toNat)
    ptpFix (addCorrection f o (pos.toNat % 65536 : Nat)) w o
  else if msg = 3 then ptpFix (addCorrection f o (pos - t2).toInt) w o
  else f

/-- R97, R98: a transmit stamp enters the queue, or is discarded when it holds 64. -/
def State.txtsPost (s : State) (q : Fin 2) (e : TxStamp) : State :=
  let pg := PG.net q
  if 64 ≤ (s.net.get q).txts.length then
    ((s.setBit pg R.NET_TXTS_STS 8 true).bump pg R.NET_TXTS_LOST 0 32).irq pg 2
  else (s.netUpd q fun n => { n with txts := n.txts ++ [e] }).irq pg 1

/-- R97: a pop removes the head entry; TXTS_READY stays caused while entries remain. -/
def State.txtsPop (s : State) (q : Fin 2) : State :=
  let s := s.netUpd q fun n => { n with txts := n.txts.tail }
  if (s.net.get q).txts.isEmpty then s else s.irq (PG.net q) 1

/-- R95: position of a transmit stamp: the live position advanced by the base's rate over TX_LAT. -/
def State.txPos (s : State) (q : Fin 2) : Word :=
  let base := baseOf (s.fld (PG.net q) R.NET_CTL 5 3)
  s.pos base + wOfInt (openDiv 8 (s.vel base * (s.fld (PG.net q) R.NET_TS_LAT 0 16 : Nat)) (10 ^ 9))

/-- R91, R96, R97: the frame at the HEAD of transmit ring `i` is sent. A poisoned descriptor or frame is not sent. -/
def State.netSendRing (s : State) (q : Fin 2) (i : Nat) : State :=
  let pg := PG.net q
  let (d, bad, s) := s.readNat (s.ringEntry q i 0 16) 16
  let addr := nfld d 0 64
  let len := nfld d 64 14
  let tsReq := d.testBit 78
  let one := d.testBit 79
  let (r, s) := s.readBytes addr len
  let f := r.bytes
  let cls := ptpClass f
  let pdelay := match cls with | .event 3 _ _ => true | _ => false
  let (t2, bad2, s) := if one && pdelay then
      let (x, b, s) := s.readNat (s.ringEntry q i 1 16) 8
      (wOfNat x, b, s)
    else (0, false, s)
  let k := if one && pdelay then 2 else 1
  if bad || r.bad || bad2 then s.ringAdvance q i k
  else
    let pos := s.txPos q
    let stamp := s.bit pg R.NET_CTL 4
    let f := match cls with
      | .event msg o w => if one then s.oneStep q f msg o w pos t2 else f
      | _ => f
    let quiet := match (s.net.get q).mute.toList.getD i none with
      | some t => decide (0 < sdiff 32 t (s.fld pg (R.NET_RING_HEAD i) 0 32))
      | none => false
    let s := s.netUpd q fun n => { n with wire := withFcs f }
    let s := s.ringAdvance q i k
    let ev := match cls with | .event _ _ _ => true | _ => false
    let s := if tsReq && stamp && ev && !quiet then
        s.txtsPost q { seq := nfld d 96 16, ring := i, dtc := s.dtc + wOfNat (s.fld pg R.NET_TS_LAT 0 16), pos }
      else s
    if d.testBit 80 then s.irq pg 5 else s

/-! ### Streams (R106 to R112) -/

/-- R107: what makes the enable of a stream context refused. -/
def State.streamBad (s : State) (q : Fin 2) (st : Fin 16) (ctl : Word) : Bool :=
  let pg := PG.net q
  let ports := s.reg pg (R.STR_PORTS st)
  let v6 := bitAt ctl 1
  let mtu := bf ctl 32 16
  let oh := if bitAt ctl 2 then 22 else 18
  s.fld pg (R.STR_DMAC st) 0 48 = 0 || bf ports 16 16 = 0 || bf ports 32 8 = 0 || bf ctl 48 16 = 0 ||
    decide (mtu < 576) || decide (s.maxFrame q - oh < mtu) ||
    (if v6 then s.reg pg (R.STR_DIP_LO st) = 0 && s.reg pg (R.STR_DIP_HI st) = 0
     else s.fld pg (R.STR_DIP_LO st) 0 32 = 0)

/-- R107: a write of STR_CTL: while EN = 1 only EN may be cleared; an enable is checked. -/
def State.streamCtlWrite (s : State) (q : Fin 2) (st : Fin 16) (w : Wr) : State :=
  let pg := PG.net q
  let r := R.STR_CTL st
  let old := s.reg pg r
  let new := s.wouldBe pg w
  if bitAt old 0 then
    if old = new then s
    else if putBit old 0 false = new then s.setReg pg r new
    else s.logWr pg w .state
  else if bitAt new 0 then
    if s.streamBad q st new then
      (((s.setReg pg r (putBit new 0 false)).setBit pg R.NET_STS 4 true).setFld pg R.NET_STS 8 4 st)
    else
      ((s.setReg pg r new).setReg pg (R.STR_SEQ st) 0).netUpd q fun n => { n with restart := n.restart.set st true }
  else s.setReg pg r new

/-- R448: the ring that stream `st` of port `q` sends. -/
def State.streamRing (s : State) (q : Fin 2) (st : Fin 16) : Option (Fin 32) :=
  (List.finRange 32).find? fun k =>
    let c := s.reg PG.res (R.RING_CTL k)
    bitAt c 0 && bitAt c 2 && bf c 3 1 == q.val && bf c 4 4 == st.val &&
      s.reg PG.res (R.RING_NET k) != s.reg PG.res (R.RING_HEAD k)

/-- R110: payload space of a datagram. -/
def State.streamSpace (s : State) (q : Fin 2) (st : Fin 16) : Nat :=
  let c := s.reg (PG.net q) (R.STR_CTL st)
  bf c 32 16 - (if bitAt c 1 then 40 else 20) - 40

/-- R492: the window of a record has been reported SENT by the peer. -/
def State.peerSent (s : State) (port win : Nat) : Bool :=
  s.twin.sentPorts.contains port && decide (0 ≤ sdiff 32 (s.fld PG.wth (R.WTH_P_SENT port) 0 32) win)

/-- R492: the place up to which the network consumer of a standby's ring may advance: the end of the last record of the
windows reported SENT, device records before it included. -/
def State.sentEnd (s : State) (net : Nat) : List RecMark → Nat
  | [] => net
  | m :: r =>
    match m.port with
    | none => s.sentEnd net r
    | some p => if s.peerSent p m.win then s.sentEnd (m.pos + m.len) r else net

/-- R112, R487, R492: bytes of a ring that its stream may take now. -/
def State.streamWaits (s : State) (k : Fin 32) : Nat :=
  let net := s.reg PG.res (R.RING_NET k)
  if s.role = 1 ∨ s.role = 2 then s.sentEnd net.toNat (s.res.marks.get k) - net.toNat
  else (s.reg PG.res (R.RING_HEAD k) - net).toNat

/-- R110: bytes of the next datagram of a ring: full space, or up to the end of a window's last record; with `flush`,
whatever waits. -/
def State.streamTake (s : State) (k : Fin 32) (space : Nat) (flush : Bool) : Option Nat :=
  let net := (s.reg PG.res (R.RING_NET k)).toNat
  let n := s.streamWaits k
  let ends := (s.res.marks.get k).filterMap fun m => if m.lastOfWindow then some (m.pos + m.len - net) else none
  match ends.find? (fun e => decide (0 < e ∧ e ≤ space ∧ e ≤ n)) with
  | some e => some e
  | none => if space ≤ n then some space else if flush ∧ 0 < n then some n else none

/-- R109 to R112: a datagram is closed; it enters the transmit buffer or is dropped. -/
def State.streamSend (s : State) (q : Fin 2) (st : Fin 16) (flush : Bool) : State :=
  let pg := PG.net q
  if !s.bit pg (R.STR_CTL st) 0 then s
  else
    match s.streamRing q st with
    | none => s
    | some k =>
      match s.streamTake k (s.streamSpace q st) flush with
      | none => s
      | some n =>
        let net := s.reg PG.res (R.RING_NET k)
        let size := 2 ^ s.fld PG.res (R.RING_SIZE k) 0 5
        let base := (s.reg PG.res (R.RING_BASE k)).toNat
        let o := net.toNat % size
        let (r1, s) := s.readBytes (base + o) (min n (size - o))
        let (r2, s) := if n ≤ size - o then (({ bytes := [], bad := false } : ReadRes), s) else s.readBytes base (n - (size - o))
        let begins := (s.res.marks.get k).filter fun m => decide (net.toNat ≤ m.pos ∧ m.pos < net.toNat + n)
        let seq := s.fld pg (R.STR_SEQ st) 0 32
        let paired := s.role != 0
        let flags := b2n (!paired || s.role == 3) + b2n paired <<< 1 + b2n ((s.net.get q).restart.get st) <<< 2
        let d : Datagram := {
          st, seq, flags
          recOfs := match begins with | [] => 0xFFFF | m :: _ => m.pos - net.toNat
          wins := ((s.res.marks.get k).filter fun m => m.lastOfWindow && decide (m.pos + m.len ≤ net.toNat + n)).map
                    fun m => (m.port.getD 0, m.win)
          records := begins.length
          recIndex := match begins with | [] => 0 | m :: _ => m.pos % 2 ^ 32
          payload := r1.bytes ++ r2.bytes }
        let s := s.setReg PG.res (R.RING_NET k) (net + wOfNat n)
        let left := (s.res.marks.get k).filter fun m => decide (net.toNat + n < m.pos + m.len)
        let s := { s with res := { s.res with marks := s.res.marks.set k left } }
        let s := s.setReg pg (R.STR_SEQ st) (wOfNat ((seq + 1) % 2 ^ 32))
        if s.role = 1 ∨ s.role = 2 then s
        else
          let used := ((s.net.get q).sendq.map fun d => d.payload.length + 100).sum
          if !s.netLink q || !s.alive pg || decide (65536 < used + n + 100) then
            (s.bump pg (R.STR_CNT st) 32 32).irq pg 8
          else s.netUpd q fun x => { x with sendq := x.sendq ++ [d], restart := x.restart.set st false }

/-- R109: the stream header of a datagram sent at `dtc`. -/
def streamHeader (q : Fin 2) (d : Datagram) (tag : Nat) (dtc : Word) : List Byte :=
  leBytes 2 0xA57E ++ leBytes 1 1 ++ leBytes 1 d.flags ++ leBytes 2 (q.val * 16 + d.st.val) ++ leBytes 2 d.recOfs ++
    leBytes 4 d.seq ++ leBytes 4 tag ++ leBytes 8 dtc.toNat ++ leBytes 2 d.payload.length ++ leBytes 2 d.records ++
    leBytes 4 d.recIndex

/-- R108: the Ethernet frame of a datagram. -/
def State.streamFrame (s : State) (q : Fin 2) (d : Datagram) : List Byte :=
  let pg := PG.net q
  let c := s.reg pg (R.STR_CTL d.st)
  let ports := s.reg pg (R.STR_PORTS d.st)
  let body := streamHeader q d (s.fld pg (R.STR_TAG d.st) 0 32) s.dtc ++ d.payload
  let udpLen := 8 + body.length
  let udp := beBytes 2 (bf ports 0 16) ++ beBytes 2 (bf ports 16 16) ++ beBytes 2 udpLen ++ [0, 0] ++ body
  let v6 := bitAt c 1
  let eth := beBytes 6 (s.fld pg (R.STR_DMAC d.st) 0 48) ++ beBytes 6 (s.fld pg R.NET_MAC_ADDR 0 48) ++
    (if bitAt c 2 then beBytes 2 0x8100 ++ beBytes 2 ((bf c 16 3) <<< 13 + bf c 4 12) else []) ++
    beBytes 2 (if v6 then 0x86DD else 0x0800)
  let l := eth.length
  if v6 then
    let ip := beBytes 4 (6 <<< 28 + (bf c 24 6) <<< 22) ++ beBytes 2 udpLen ++ [17, BitVec.ofNat 8 (bf ports 32 8)] ++
      beBytes 8 (s.reg pg (R.STR_SIP_HI d.st)).toNat ++ beBytes 8 (s.reg pg (R.STR_SIP_LO d.st)).toNat ++
      beBytes 8 (s.reg pg (R.STR_DIP_HI d.st)).toNat ++ beBytes 8 (s.reg pg (R.STR_DIP_LO d.st)).toNat
    udpFix (eth ++ ip ++ udp) (l + 8) 32 (l + 40)
  else
    let ip0 := beBytes 1 0x45 ++ beBytes 1 ((bf c 24 6) <<< 2) ++ beBytes 2 (20 + udpLen) ++ beBytes 2 0 ++
      beBytes 2 0x4000 ++ [BitVec.ofNat 8 (bf ports 32 8), 17, 0, 0] ++
      beBytes 4 (s.fld pg (R.STR_SIP_LO d.st) 0 32) ++ beBytes 4 (s.fld pg (R.STR_DIP_LO d.st) 0 32)
    let ip := frameSet ip0 10 (beBytes 2 (cksum (sum16 ip0)))
    udpFix (eth ++ ip ++ udp) (l + 12) 8 (l + 20)

/-- R91: the head of the stream transmit buffer is sent. -/
def State.netSendStream (s : State) (q : Fin 2) : State :=
  match (s.net.get q).sendq with
  | [] => s
  | d :: r =>
    let s := (s.netUpd q fun n => { n with sendq := r, wire := withFcs (s.streamFrame q d) }).bump (PG.net q) (R.STR_CNT d.st) 0 32
    d.wins.foldl (fun s w => s.twinWindow w.1 w.2 true) s

/-- R91: the next frame: TX0 first, then TX1 and the stream engine in turn. -/
def State.netTx (s : State) (q : Fin 2) : State :=
  let on := fun i => s.fld (PG.net q) (R.NET_RING_SIZE i) 0 13 ≠ 0 ∧ s.ringPending q i ≠ 0
  let n := s.net.get q
  let idle := s.bit PG.rfx R.RFX_STS 4 && !s.rfx.hbBack
  if !s.netLink q || !s.alive (PG.net q) || before s.dtc n.pauseTo || idle then s
  else if on 0 then s.netSendRing q 0
  else if n.sendq ≠ [] ∧ (n.streamTurn ∨ ¬ on 1) then (s.netSendStream q).netUpd q fun n => { n with streamTurn := false }
  else if on 1 then (s.netSendRing q 1).netUpd q fun n => { n with streamTurn := true }
  else s

/-! ### PPS (R103, R104) -/

/-- R103: base of the PPS functions. -/
def State.ppsBase (s : State) : Fin 8 := baseOf (s.fld (PG.net 0) R.NET_PPS_CTL 2 3)

/-- R103: the PPS item follows OUT_EN, NET_PPS_NEXT and the base. -/
def State.ppsArm (s : State) : State :=
  if s.bit (PG.net 0) R.NET_PPS_CTL 0 then
    s.schedAdd .pps s.ppsBase (s.reg (PG.net 0) R.NET_PPS_NEXT) (s.pos s.ppsBase)
  else { s.schedDel .pps with pps := { s.pps with out := false } }

/-- R103: a write of NET_PPS_CTL; enabling with WIDTH or PERIOD 0 is refused. -/
def State.ppsCtlWrite (s : State) (w : Wr) : State :=
  let pg := PG.net 0
  let old := s.reg pg R.NET_PPS_CTL
  let new := s.wouldBe pg w
  if !bitAt old 0 && bitAt new 0 && (bf new 8 24 = 0 || s.reg pg R.NET_PPS_PERIOD = 0) then
    ((s.setReg pg R.NET_PPS_CTL (putBit new 0 false)).logWr pg w .refused)
  else (s.setReg pg R.NET_PPS_CTL new).ppsArm

/-- R103: NET_PPS_NEXT falls due: a pulse starts, the target advances by periods until it is ahead of the position. -/
def State.ppsDue (s : State) : State :=
  let pg := PG.net 0
  let per := s.reg pg R.NET_PPS_PERIOD
  let x := s.pos s.ppsBase
  let t := s.reg pg R.NET_PPS_NEXT + per
  let k := if before x t ∨ per.toNat = 0 then 0 else (x - t).toNat / per.toNat + 1
  let s := s.setReg pg R.NET_PPS_NEXT (t + wOfNat (k * per.toNat))
  let s := (s.addCnt pg R.NET_PPS_CNT 0 16 k).irq pg 7
  let s := { s with pps := { s.pps with out := true, until_ := s.dtc + wOfNat (s.fld pg R.NET_PPS_CTL 8 24) } }
  s.ppsArm

/-- R104: a filtered rising edge of PPS_IN. -/
def State.ppsIn (s : State) : State :=
  let pg := PG.net 0
  if !s.bit pg R.NET_PPS_CTL 1 then s
  else
    let d := s.dtc - 4
    let soon := match s.pps.inLast with | none => false | some t => decide ((d - t).toNat < 1000)
    let s := { s with pps := { s.pps with inLast := some d } }
    if soon then s
    else
      let s := (s.setReg pg R.NET_PPS_IN_DTC d).setReg pg R.NET_PPS_IN_POS (s.posAgo s.ppsBase 4)
      (s.bump pg R.NET_PPS_CNT 16 16).irq pg 6

/-! ### Register writes -/

/-- R91: a write of a ring's TAIL. -/
def State.netTailWrite (s : State) (q : Fin 2) (i : Nat) (w : Wr) : State :=
  let pg := PG.net q
  if s.fld pg (R.NET_RING_SIZE i) 0 13 = 0 then s.setBit pg R.NET_STS 3 true else s.plainWrite pg w

/-- R107: registers of a stream context frozen while EN = 1 (all but STR_TAG and the counters). -/
def State.streamRegWrite (s : State) (q : Fin 2) (st : Fin 16) (w : Wr) : State :=
  let pg := PG.net q
  if w.reg = R.STR_CTL st then s.streamCtlWrite q st w
  else if w.reg < R.STR_TAG st ∧ s.bit pg (R.STR_CTL st) 0 ∧ s.wouldBe pg w ≠ s.reg pg w.reg then s.logWr pg w .state
  else s.plainWrite pg w

/-- A write to a block register of NET page `q`. -/
def State.netWrite (s : State) (q : Fin 2) (w : Wr) : State :=
  let pg := PG.net q
  let r := w.reg
  if r = R.NET_CTL then s.netCtlWrite q w
  else if r = R.NET_TXTS_POP then s.txtsPop q
  else if q.val = 0 ∧ r = R.NET_PPS_CTL then s.ppsCtlWrite w
  else if q.val = 0 ∧ r = R.NET_PPS_NEXT then (s.plainWrite pg w).ppsArm
  else if 0x1000 ≤ r ∧ r < 0x1080 ∧ r % 0x20 = 0x18 then s.netTailWrite q ((r - 0x1000) / 0x20) w
  else if h : 0x2000 ≤ r ∧ r < 0x2800 then s.streamRegWrite q ⟨(r - 0x2000) / 0x80, by omega⟩ w
  else s.plainWrite pg w

/-- R99: actions of a reset of a NET page. -/
def State.netPageReset (s : State) (q : Fin 2) : State := s.txtsEmpty q

/-! ### Commands of the table -/

/-- A 64-bit write to a block register of NET page `q`. -/
def State.netWr (s : State) (ini : Initiator) (q : Fin 2) (off : Nat) (v : Word) : State :=
  s.gate (PG.net q) (.full ini off v) fun s => s.netWrite q (.full ini off v)

/-- NET_MODE_CHANGE (R90): a write of NET_CTL. -/
def execNetModeChange (ini : Initiator) (q : Fin 2) (v : Word) (s : State) : Res := s.ends (s.netWr ini q R.NET_CTL v)

/-- NET_PTP_DISABLE (R99): a write of NET_CTL. -/
def execNetPtpDisable (ini : Initiator) (q : Fin 2) (v : Word) (s : State) : Res := s.ends (s.netWr ini q R.NET_CTL v)

/-- NET_LINK_CHANGE (R89): the link comes up only in a mode that runs the port. -/
def execNetLinkChange (q : Fin 2) (up : Bool) (s : State) : Res :=
  s.ends (s.ifOn (PG.net q) fun s =>
    if up && (s.stopped (PG.net q) || s.fld (PG.net q) R.NET_CTL 0 2 == 0) then s else s.netSetLink q up)

/-- NET_FRAME_RX (R88, R92). -/
def execNetFrameRx (q : Fin 2) (frame : List Byte) (fcsOk : Bool) (s : State) : Res :=
  s.ends (if s.netLink q && s.alive (PG.net q) then s.netRx q frame fcsOk else s)

/-- NET_TX_TAIL (R91): a write of a ring's TAIL. -/
def execNetTxTail (ini : Initiator) (q : Fin 2) (ring : Fin 4) (v : Word) (s : State) : Res :=
  s.ends (s.netWr ini q (R.NET_RING_TAIL ring) v)

/-- NET_FRAME_TX (R91, R96, R97). -/
def execNetFrameTx (q : Fin 2) (s : State) : Res := s.ends (s.netTx q)

/-- NET_TXTS_POP (R97). -/
def execNetTxtsPop (ini : Initiator) (q : Fin 2) (s : State) : Res := s.ends (s.netWr ini q R.NET_TXTS_POP 0)

/-- PPS_OUT_ENABLE (R103): a write of NET_PPS_CTL. -/
def execPpsOutEnable (ini : Initiator) (v : Word) (s : State) : Res := s.ends (s.netWr ini 0 R.NET_PPS_CTL v)

/-- PPS_OUT_PULSE_END (R103). -/
def execPpsOutPulseEnd (s : State) : Res :=
  s.ends (if s.pps.out && atOrAfter s.dtc s.pps.until_ then { s with pps := { s.pps with out := false } } else s)

/-- PPS_IN_EDGE (R104). -/
def execPpsInEdge (s : State) : Res := s.ends (s.ifOn (PG.net 0) State.ppsIn)

/-- STREAM_ENABLE (R107): a write of STR_CTL. -/
def execStreamEnable (ini : Initiator) (q : Fin 2) (st : Fin 16) (v : Word) (s : State) : Res :=
  s.ends (s.netWr ini q (R.STR_CTL st) v)

/-- STREAM_DATAGRAM_SEND (R110, R111): full, or a window's last record packed. -/
def execStreamDatagramSend (q : Fin 2) (st : Fin 16) (s : State) : Res := s.ends (s.streamSend q st false)

/-- R110: FLUSH_US have passed since the first byte that waits was packed. -/
def State.flushDue (s : State) (q : Fin 2) (st : Fin 16) : Bool :=
  match s.streamRing q st with
  | none => false
  | some k => match s.res.marks.get k with
    | [] => false
    | m :: _ => decide (s.fld (PG.net q) (R.STR_CTL st) 48 16 * 1000 ≤ (s.dtc - m.dtc).toNat)

/-- STREAM_FLUSH_TIMEOUT (R110). -/
def execStreamFlushTimeout (q : Fin 2) (st : Fin 16) (s : State) : Res :=
  s.ends (if s.flushDue q st then s.streamSend q st true else s)

end Sys2Proof.Machine
end

