-- ==== Sys2Proof/Machine/Sensor.lean ====
section
/-!
DEFINITION. Machine/Sensor.lean: the sensor ports and ingress queues: packet sorting, decoder microcode, the stamp map of an
event, the two decoders, the queue with its overflow and timeouts, raw capture and camera control (R113 to R147, R75 to R79).
-/

namespace Sys2Proof.Machine

/-- `s` with a port's state changed. -/
def State.spUpd (s : State) (p : Fin 8) (f : SpState → SpState) : State := { s with sp := vupd s.sp p f }

/-- `s` with an ingress queue changed. -/
def State.ieqUpd (s : State) (p : Fin 8) (f : IeqState → IeqState) : State := { s with ieq := vupd s.ieq p f }

/-- R119: SP_CTL.EN. -/
def State.spEn (s : State) (p : Fin 8) : Bool := s.bit (PG.sp p) R.SP_CTL 0

/-! ### Microcode (R128 to R133) -/

/-- What a decoder forms: a pixel event or an auxiliary event. -/
structure DecEvent where
  aux : Bool
  /-- X, or CHANNEL -/
  x : Nat
  y : Nat
  p : Bool
  t : Nat
  deriving DecidableEq, Repr

/-- R128: token size in bits. -/
def tokenBits (uc255 : Word) : Nat := 8 * 2 ^ bf uc255 0 2

/-- R128: the key of a token. -/
def tokenKey (bits tok : Nat) : Nat := if bits = 8 then tok <<< 8 else tok >>> (bits - 16)

/-- R130: a register of `n` bits takes a field: replaced at SHIFT, or the shifted field added. -/
def ucPut (n old f width sh : Nat) (add : Bool) : Nat :=
  if add then (old + f <<< sh) % 2 ^ n
  else ((old - (nfld old sh width) <<< sh) + f <<< sh) % 2 ^ n

/-- R130: one entry run on a token: the registers after it and the events it emits. -/
def ucRun (e : Word) (tok : Nat) (d : DecState) : DecState × List DecEvent :=
  let width := bf e 37 6
  let sh := bf e 46 5
  let add := bitAt e 53
  let f := nfld tok (bf e 32 5) width
  let (d, evs) : DecState × List DecEvent :=
    match bf e 43 3 with
    | 1 => ({ d with x := ucPut 11 d.x f width sh add }, [])
    | 2 => ({ d with y := ucPut 11 d.y f width sh add }, [])
    | 3 => ({ d with t := ucPut 32 d.t f width sh add }, [])
    | 4 => ({ d with p := ucPut 1 (b2n d.p) f width sh add = 1 }, [])
    | 5 => ({ d with base := ucPut 11 d.base f width sh add }, [])
    | 6 =>
      let evs := (setBits 32 (f <<< sh)).map fun i =>
        ({ aux := false, x := d.base + i, y := d.y, p := d.p, t := d.t } : DecEvent)
      ({ d with base := (d.base + sh + width) % 2048 }, evs)
    | 7 => (d, [{ aux := true, x := (f <<< sh) % 2048, y := 0, p := d.p, t := d.t }])
    | _ => (d, [])
  if bitAt e 51 then (d, evs ++ [{ aux := false, x := d.x, y := d.y, p := d.p, t := d.t }]) else (d, evs)

/-- R130: the chain from entry `i` on. -/
def ucChain (uc : Nat → Word) (valid : Nat → Bool) (tok : Nat) : Nat → Nat → DecState → DecState × List DecEvent
  | 0, _, d => (d, [])
  | fuel + 1, i, d =>
    let (d, a) := ucRun (uc i) tok d
    if bitAt (uc i) 52 ∧ i < 254 ∧ valid (i + 1) then
      let (d, b) := ucChain uc valid tok fuel (i + 1) d
      (d, a ++ b)
    else (d, a)

/-- R130: the lowest-indexed valid entry that matches the key. -/
def ucMatch (uc : Nat → Word) (valid : Nat → Bool) (key : Nat) : Option Nat :=
  (List.range 255).find? fun i => valid i && key &&& bf (uc i) 16 16 == bf (uc i) 0 16

/-- R130: one token decoded: registers, events, and whether an entry matched. -/
def ucToken (uc : Nat → Word) (valid : Nat → Bool) (bits tok : Nat) (d : DecState) : DecState × List DecEvent × Bool :=
  match ucMatch uc valid (tokenKey bits tok) with
  | none => (d, [], false)
  | some i =>
    let (d, e) := ucChain uc valid tok 255 i d
    (d, e, true)

/-- What decoding some bytes yields: registers, events with their arrival IET, and unmatched tokens. -/
structure DecOut where
  dec : DecState
  evs : List (DecEvent × Nat)
  nomatch_ : Nat
  deriving DecidableEq, Repr

/-- R128, R138: bytes of one group fed to a decoder. -/
def decBytes (uc : Nat → Word) (valid : Nat → Bool) (bits iet : Nat) : DecState → List Byte → DecOut
  | d, [] => { dec := d, evs := [], nomatch_ := 0 }
  | d, b :: r =>
    let at_ := if d.part.isEmpty then iet else d.partIet
    let part := d.part ++ [b]
    if part.length * 8 < bits then decBytes uc valid bits iet { d with part, partIet := at_ } r
    else
      let (d1, e, m) := ucToken uc valid bits (leNat part) { d with part := [] }
      let o := decBytes uc valid bits iet d1 r
      { dec := o.dec, evs := e.map (fun x => (x, at_)) ++ o.evs, nomatch_ := o.nomatch_ + (if m then 0 else 1) }

/-- R129: microcode entry `i` of a port. -/
def State.uc (s : State) (p : Fin 8) (i : Nat) : Word := s.reg (PG.sp p) (R.SP_UC i)

/-- R130, R133: the entry is VALID in a decoder's copy. -/
def State.ucValid (s : State) (p : Fin 8) (bad : List Nat) (i : Nat) : Bool :=
  i < 255 && bitAt (s.uc p i) 56 && !bad.contains i

/-- R130: width of a microcode destination. -/
def ucDstWidth : Nat → Nat
  | 3 => 32
  | 6 => 32
  | 4 => 1
  | _ => 11

/-- R130: an entry that the enable refuses. -/
def ucEntryBad (bits : Nat) (e : Word) : Bool :=
  let w := bf e 37 6
  let dst := bf e 43 3
  bitAt e 56 && dst != 0 &&
    (w = 0 || decide (bits < bf e 32 5 + w) || decide (32 < w) || decide (ucDstWidth dst < bf e 46 5 + w))

/-- R131: the event lies in the port's geometry; auxiliary events are not checked. -/
def State.inGeom (s : State) (p : Fin 8) (e : DecEvent) : Bool :=
  e.aux || (decide (e.x < s.fld (PG.sp p) R.SP_GEOM 0 12) && decide (e.y < s.fld (PG.sp p) R.SP_GEOM 16 12))

/-! ### Stamp map (R75 to R79) -/

/-- R79: the map state in force now. -/
def State.mapNow (s : State) (p : Fin 8) : MapRec :=
  let c := s.reg PG.dtc (R.TMAP_CTL p)
  { stamp := bitAt c 0 && bitAt c 1
    fresh := (s.tmap.get p).fresh
    bits := s.stampBits p
    lat := bf c 16 16
    ofs := (s.reg PG.dtc (R.TMAP_OFS p)).toInt
    rate := (s.reg PG.dtc (R.TMAP_RATE p)).toInt }

/-- R76: the stamp extended to the value nearest to the one the map predicts, `arr` being the arrival in ticks of the DTC. -/
def stampExt (m : MapRec) (arr : Int) (t : Nat) : Int :=
  let n : Int := 2 ^ m.bits
  let st : Int := (t % 2 ^ m.bits : Nat)
  let den : Int := 2 ^ 28 * (2 ^ 40 + m.rate)
  let num : Int := ((arr - m.lat) * 2 ^ 24 - m.ofs) * 2 ^ 40
  st + n * ((2 * (num - st * den) + n * den) / (2 * n * den))

/-- R76: the mapped time in ticks, not yet reduced modulo 2^32. -/
def stampMapped (m : MapRec) (arr : Int) (t : Nat) : Int :=
  openDiv 9 (stampExt m arr t * 16 * (2 ^ 40 + m.rate) + m.ofs * 2 ^ 16) (2 ^ 40)

/-- R47, R212: an IET near now as a full count of ticks. -/
def State.fullTick (s : State) (iet : Nat) : Int := ((s.dtc.toNat * 2 / 125 : Nat) : Int) + sdiff 32 iet s.iet

/-- R75 to R78: IET of an event with stamp `t` that arrived at `arr`; the second part tells that it was clamped. -/
def State.eventIet (s : State) (m : MapRec) (arr t : Nat) : Nat × Bool :=
  if !m.stamp || m.fresh then (low 32 ((arr : Int) - m.lat), false)
  else
    let a := s.fullTick arr
    let x := stampMapped m a t
    if sdiff 32 (low 32 x) arr > 0 then (arr, true) else (low 32 x, false)

/-- R77, R78: an event's part in the map: its first event sets the offset, later ones give residuals; a clamp counts.
DESIGN CHOICE (log 205): the later events of the packet that holds the map's first event were recorded without an offset
(R79) and form no residual; and an event, which both decoders form, counts once in TMAP_CLAMP and gives one residual, in the
front decoder. -/
def State.mapEvent (s : State) (p : Fin 8) (m : MapRec) (arr t : Nat) : State :=
  if !m.stamp then s
  else
    let a := s.fullTick arr
    let i := ((a * 125 + 1) / 2).toNat / s.tmapNs p
    if m.fresh then
      if (s.tmap.get p).fresh then
        let ofs := (a - m.lat - (t % 2 ^ m.bits : Nat) * 16) * 2 ^ 24
        let s := s.setReg PG.dtc (R.TMAP_OFS p) (wOfInt ofs)
        { s with tmap := s.tmap.set p { fresh := false, rmin := some (m.lat : Int), interval := i } }
      else s
    else
      let s := if (s.tmap.get p).rmin.isSome ∧ (s.tmap.get p).interval < i then s.tmapClose p else s
      let r := a - stampMapped m a t
      let s := { s with tmap := vupd s.tmap p fun x => { x with
        rmin := match x.rmin with | none => some r | some q => some (min q r)
        interval := i } }
      if (s.eventIet m arr t).2 then s.bump PG.dtc (R.TMAP_CLAMP p) 0 32 else s

/-- R135: a pixel or auxiliary event word. -/
def eventWord (p : Fin 8) (e : DecEvent) (iet : Nat) (unchk : Bool) : Word :=
  wOfNat (iet + (e.x % 2048) <<< 32 + (e.y % 2048) <<< 43 + b2n e.p <<< 54 + p.val <<< 55 + b2n e.aux <<< 58
    + b2n unchk <<< 62)

/-- R135: a marker word. -/
def markerWord (p : Fin 8) (iet frame : Nat) (isEnd : Bool) : Word :=
  wOfNat (iet + (frame % 65536) <<< 32 + b2n isEnd <<< 48 + p.val <<< 55 + 2 <<< 58)

/-- R135: a loss word. -/
def lossWord (p : Fin 8) (iet bytes cause : Nat) : Word :=
  wOfNat (iet + (min 0xFFFF bytes) <<< 32 + cause <<< 48 + p.val <<< 55 + 3 <<< 58)

/-! ### Front decoder (R134, R187, R191) -/

/-- R191: an event lost to the front buffer marks the port's enabled pixel and auxiliary rules SUSPECT. -/
def State.suspectPort (s : State) (p : Fin 8) : State :=
  let hit := (List.range 256).filter fun r =>
    let c := s.reg PG.rfx (R.RULE_CTL r)
    bitAt c 0 && decide (bf c 2 2 < 2) && bf c 4 3 == p.val
  let s := hit.foldl (fun s r => s.setBit PG.rfx (R.RULE_STS r) 0 true) s
  if hit.isEmpty then s else s.irq PG.rfx 3

/-- Events in a front buffer. -/
def frontEvents (l : List FrontItem) : Nat := (l.filter fun i => match i with | .ev _ _ => true | _ => false).length

/-- R134: one event word enters the front decoder's buffer, or is lost to the reflex path. -/
def State.frontPush (s : State) (p : Fin 8) (w : Word) (seq : Nat) : State :=
  if 512 ≤ frontEvents (s.sp.get p).front then
    ((s.bump (PG.sp p) R.SP_CNT3 0 32).irq (PG.sp p) 3).suspectPort p
  else s.spUpd p fun x => { x with front := x.front ++ [.ev w seq] }

/-- R131, R134: an event the front decoder formed. -/
def State.frontEvent (s : State) (p : Fin 8) (m : MapRec) (seq : Nat) (e : DecEvent × Nat) : State :=
  if !s.inGeom p e.1 then s.bump (PG.sp p) R.SP_CNT3 32 16
  else
    let iet := (s.eventIet m e.2 e.1.t).1
    (s.mapEvent p m e.2 e.1.t).frontPush p (eventWord p e.1 iet true) seq

/-! ### Ingress queue (R136 to R141) -/

/-- The queue takes what the receiver sends: the IEQ page is enabled and works (R122). -/
def State.ieqRuns (s : State) (p : Fin 8) : Bool := s.alive (PG.ieq p) && s.enabled (PG.ieq p) && !s.stopped (PG.ieq p)

/-- R144: IEQ_CTL.RAW. -/
def State.ieqRaw (s : State) (p : Fin 8) : Bool := s.bit (PG.ieq p) R.IEQ_CTL 0

/-- R144: committed entries. -/
def State.ieqLevel (s : State) (p : Fin 8) : Nat := (s.ieq.get p).q.length

/-- R140: the data as read: parity of an entry is counted and reported. -/
def State.ieqParity (s : State) (p : Fin 8) (e : IeqEntry) : State :=
  if e.parity = 0 then s
  else ((s.bump (PG.ieq p) R.IEQ_CNT1 0 16).setBit (PG.ieq p) R.IEQ_STS 18 true).irq (PG.ieq p) 1

/-- R137: the tag word of an entry as read. -/
def IeqEntry.tag (e : IeqEntry) : Nat :=
  e.valid + b2n e.sop <<< 6 + b2n e.eop <<< 7 + b2n e.crcBad <<< 8 + b2n e.trunc <<< 9 + b2n e.mark <<< 10
    + b2n e.frag <<< 11 + b2n (e.parity != 0) <<< 12 + b2n e.timeout <<< 13 + e.dt <<< 16 + (e.group % 256) <<< 24
    + e.iet <<< 32

/-- `s` with the queue decoder's state changed. -/
def State.qdUpd (s : State) (p : Fin 8) (f : QueueDec → QueueDec) : State :=
  s.spUpd p fun x => { x with qd := f x.qd }

/-- R147: a raw queue read wants another entry. -/
def State.rawWants (s : State) (p : Fin 8) : Bool :=
  match (s.ieq.get p).dma with
  | some d => decide (d.moved < d.len)
  | none => false

/-- R140, R142, R147: a raw queue read moves the entry at the head of the queue to memory: its parity is checked, it is the last
entry read, and where it leaves LEVEL at 0 the 100 µs begin. -/
def State.rawMove (s : State) (p : Fin 8) : State :=
  match (s.ieq.get p).dma, (s.ieq.get p).q with
  | some d, e :: r =>
    if d.len ≤ d.moved then s
    else
      let s := s.ieqParity p e
      let s := s.writeBytes (some d.item) (d.addr + 64 * d.moved) (e.bytes ++ leBytes 8 e.tag ++ List.replicate 24 0)
      let s := s.qdUpd p fun q => { q with current := !e.eop }
      s.ieqUpd p fun q => { q with q := r, dma := some { d with moved := d.moved + 1, zeroAt := s.dtc } }
  | _, _ => s

/-- R136: an entry is committed: LEVEL_MAX and RAW_AVAIL. -/
def State.ieqCommit (s : State) (p : Fin 8) (e : IeqEntry) : State :=
  let s := s.ieqUpd p fun q => { q with q := q.q ++ [e] }
  let n := s.ieqLevel p
  let s := s.setFld (PG.ieq p) R.IEQ_CNT1 32 13 (max n (s.fld (PG.ieq p) R.IEQ_CNT1 32 13))
  if s.ieqRaw p then s.irq (PG.ieq p) 3 else s

/-- The entry made of an open one. -/
def OpenEntry.close (o : OpenEntry) (m : MapRec) (dt : Nat) (eop crcBad trunc timeout : Bool) : IeqEntry :=
  { bytes := o.bytes ++ List.replicate (32 - o.bytes.length) 0, valid := o.bytes.length, sop := o.sop, eop, crcBad,
    trunc, mark := false, frag := o.frag, timeout, dt, group := o.group, iet := o.iet, map := m }

/-- R141: bytes and packets discarded by an overflow are counted. -/
def State.ieqLose (s : State) (p : Fin 8) (bytes pkts : Nat) : State :=
  let s := (s.addCnt (PG.ieq p) R.IEQ_CNT0 0 32 bytes).addCnt (PG.ieq p) R.IEQ_CNT0 32 16 pkts
  let s := (s.setBit (PG.ieq p) R.IEQ_STS 17 true).irq (PG.ieq p) 0
  s.ieqUpd p fun q => { q with ovf := match q.ovf with
    | none => some (bytes, pkts)
    | some (b, n) => some (b + bytes, n + pkts) }

/-- R141: the bytes of a marker entry. -/
def markerEntry (first : Nat) (rest : List Byte) (valid iet : Nat) : IeqEntry :=
  let b := BitVec.ofNat 8 first :: rest
  { bytes := b ++ List.replicate (32 - b.length) 0, valid, sop := true, eop := true, crcBad := false, trunc := false,
    mark := true, frag := false, timeout := false, dt := 0, group := 0, iet, map := {} }

/-- R141: at a packet start after an overflow, once the reader has freed an entry, the loss marker is committed; the answer
tells whether the queue takes the packet. -/
def State.ieqResume (s : State) (p : Fin 8) : Bool × State :=
  if !s.ieqRuns p then (false, s)
  else
    match (s.ieq.get p).ovf with
    | none => (true, s)
    | some (b, n) =>
      if 4095 ≤ s.ieqLevel p then (false, s)
      else
        let s := s.ieqUpd p fun q => { q with ovf := none }
        let m := markerEntry 0x80 ([0, 0, 0] ++ leBytes 4 (min b (2 ^ 32 - 1)) ++ leBytes 2 (min n 65535)) 10 s.iet
        (true, s.ieqCommit p m)

/-- R115, R137, R141: a Frame Start or Frame End marker reaches the queue; its tag carries the short packet's data type. -/
def State.ieqMarker (s : State) (p : Fin 8) (isEnd : Bool) (frame : Nat) : State :=
  let (ok, s) := s.ieqResume p
  if !ok ∨ 4095 ≤ s.ieqLevel p then s.ieqLose p 0 1
  else s.ieqCommit p { markerEntry (b2n isEnd) ([0] ++ leBytes 2 frame) 4 s.iet with dt := b2n isEnd }

/-- R122, R141: `bytes` of the packet being received and what its open entry holds are discarded; its first discarded byte
counts the packet. -/
def State.ieqCut (s : State) (p : Fin 8) (rx : RxPacket) (bytes : Nat) : State × RxPacket :=
  let held := match (s.ieq.get p).opened with | some o => o.bytes.length | none => 0
  let s := s.ieqUpd p fun q => { q with opened := none }
  (s.ieqLose p (held + bytes) (if rx.counted then 0 else 1), { rx with cut := true, counted := true })

/-- R136, R141: one payload byte of the packet being received enters the queue; `last` marks the packet's last byte. -/
def State.ieqByte (s : State) (p : Fin 8) (rx : RxPacket) (pos : Nat) (b : Byte) (last : Bool) : State × RxPacket :=
  if rx.drop then (s, rx)
  else if rx.cut ∨ !s.ieqRuns p then s.ieqCut p rx 1
  else
    let q := s.ieq.get p
    let o : Option OpenEntry := match q.opened with
      | some o => some { o with bytes := o.bytes ++ [b] }
      | none =>
        if 4095 ≤ q.q.length then none
        else some { bytes := [b], sop := pos = 0, frag := pos % 32 != 0, group := pos / 32, iet := rx.groupIet,
                    since := s.dtc, limit := 10 * s.fld (PG.ieq p) R.IEQ_TAIL_TIMEOUT 0 16 }
    match o with
    | none => s.ieqCut p rx 1
    | some o =>
      if (pos + 1) % 32 = 0 ∧ !last then
        ((s.ieqUpd p fun q => { q with opened := none }).ieqCommit p (o.close rx.map rx.dt false false false false), rx)
      else (s.ieqUpd p fun q => { q with opened := some o }, rx)

/-- R136: payload bytes reach the queue one after the other. -/
def State.ieqBytes (s : State) (p : Fin 8) (rx : RxPacket) : Nat → List Byte → State × RxPacket
  | _, [] => (s, rx)
  | pos, b :: r =>
    let rx := if pos % 32 = 0 then { rx with groupIet := s.iet } else rx
    let (s, rx) := s.ieqByte p rx pos b (pos + 1 == rx.wc)
    State.ieqBytes s p rx (pos + 1) r

/-! ### Receiver (R115 to R117) -/

/-- R117, R136, R187: a packet ends: its last entry is committed with the result, and the result follows its events. -/
def State.packetEnd (s : State) (p : Fin 8) (rx : RxPacket) (ok trunc : Bool) : State :=
  let pg := PG.sp p
  let s := if trunc then (s.bump pg R.SP_CNT0 48 16).irq pg 2 else if ok then s else (s.bump pg R.SP_CNT0 32 16).irq pg 2
  let s := match (s.ieq.get p).opened with
    | some o =>
      if !rx.drop ∧ (rx.cut ∨ !s.ieqRuns p) then (s.ieqCut p rx 0).1
      else
        let s := s.ieqUpd p fun q => { q with opened := none }
        if rx.drop then s else s.ieqCommit p (o.close rx.map rx.dt true (!ok) trunc false)
    | none =>
      if trunc ∧ !rx.cut ∧ !rx.drop ∧ s.ieqRuns p then
        s.ieqUpd p fun q => { q with q := match q.q.getLast? with
          | some e => if e.mark ∨ e.eop then q.q else q.q.dropLast ++ [{ e with eop := true, crcBad := true, trunc := true }]
          | none => q.q }
      else s
  let s := if rx.dec.part.isEmpty then s else s.bump pg R.SP_CNT1 48 16
  s.spUpd p fun x => { x with rx := none, front := x.front ++ [.crc rx.seq ok trunc] }

/-- R117: a packet still open when a new header arrives is truncated. DEDUCED (log 206): one whose word count is complete is
not truncated; its CRC has not arrived whole, so the CRC has failed. -/
def State.packetCut (s : State) (p : Fin 8) : State :=
  match (s.sp.get p).rx with
  | none => s
  | some rx => s.packetEnd p rx false (decide (rx.rcvd < rx.wc))

/-- R134, R136, R138: payload bytes of the packet being received go to the front decoder and to the queue. -/
def State.rxPayload (s : State) (p : Fin 8) (bytes : List Byte) : State :=
  match (s.sp.get p).rx with
  | none => s
  | some rx =>
    let bs := bytes.take (rx.wc - rx.rcvd)
    let bits := tokenBits (s.uc p 255)
    let valid := s.ucValid p (s.sp.get p).ucBadFront
    -- R138: the bytes that end the group begun before this command belong to that group's IET
    let old := (32 - rx.rcvd % 32) % 32
    let o1 := decBytes (s.uc p) valid bits rx.groupIet rx.dec (bs.take old)
    let o2 := decBytes (s.uc p) valid bits s.iet o1.dec (bs.drop old)
    let (s, rx) := s.ieqBytes p rx rx.rcvd bs
    let s := s.addCnt (PG.sp p) R.SP_CNT1 48 16 (o1.nomatch_ + o2.nomatch_)
    let s := (o1.evs ++ o2.evs).foldl (fun s e => s.frontEvent p rx.map rx.seq e) s
    s.spUpd p fun x => { x with rx := some { rx with dec := o2.dec, rcvd := rx.rcvd + bs.length } }

/-- R121: an HS burst: RX_ACTIVE sets. -/
def State.rxBurst (s : State) (p : Fin 8) : State :=
  let pg := PG.sp p
  let s := s.spUpd p fun x => { x with burstAt := s.dtc }
  if s.bit pg R.SP_STS 0 then s else (s.setBit pg R.SP_STS 0 true).irq pg 0

/-- R115, R116: a packet header is checked and the packet sorted. -/
def State.rxHeader (s : State) (p : Fin 8) (h : CsiHeader) : State :=
  let pg := PG.sp p
  let c := s.reg pg R.SP_CTL
  let s := match h.check with
    | .corrected => if bitAt c 1 then s else s.bump pg R.SP_CNT0 0 16
    | _ => s
  if h.check = .bad then (s.bump pg R.SP_CNT0 16 16).irq pg 1
  else if h.vc.toNat ≠ bf c 8 4 then s.bump pg R.SP_CNT1 0 16
  else
    let dt := h.dt.toNat
    if dt < 0x10 then
      if dt < 2 then (if bitAt c 6 then s.ieqMarker p (dt = 1) h.wc.toNat else s) else s.bump pg R.SP_CNT1 32 16
    else if 0x30 ≤ dt ∧ dt < 0x38 ∧ bitAt c (12 + (dt - 0x30)) then
      let (ok, s) := s.ieqResume p
      let s := if ok then s else s.ieqLose p 0 1
      let seq := (s.sp.get p).seq
      let rx : RxPacket := { seq, dt, wc := h.wc.toNat, rcvd := 0, map := s.mapNow p, dec := {}, groupIet := s.iet,
                             cut := !ok, counted := !ok, drop := false }
      s.spUpd p fun x => { x with rx := some rx, seq := (seq + 1) % 65536 }
    else s.bump pg R.SP_CNT1 16 16

/-- R115 to R117, R123: a header, or more payload of the packet being received. -/
def State.rxPacket (s : State) (p : Fin 8) (h : Option CsiHeader) (payload : List Byte) : State :=
  let s := if s.bit (PG.sp p) R.SP_RLY_CTL 0 then
      s.spUpd p fun x => { x with relay := match h with
        | some h => some (h, payload)
        | none => x.relay.map fun r => (r.1, r.2 ++ payload) }
    else s
  if !s.spEn p then s
  else
    let s := s.rxBurst p
    match h with
    | some h => ((s.packetCut p).rxHeader p h).rxPayload p payload
    | none => s.rxPayload p payload

/-! ### Queue decoder (R142, R143) -/

/-- Words go to the Sieve. -/
def State.toSieve (s : State) (p : Fin 8) (l : List Word) : State :=
  s.spUpd p fun x => { x with toSieve := x.toSieve ++ l }

/-- R143: a loss word is emitted. -/
def State.lossOut (s : State) (p : Fin 8) (bytes cause : Nat) : State :=
  ((s.toSieve p [lossWord p s.iet bytes cause]).bump (PG.sp p) R.SP_CNT2 48 16).irq (PG.sp p) 5

/-- R131, R135: an event the queue decoder formed. -/
def State.queueEvent (s : State) (p : Fin 8) (m : MapRec) (unchk : Bool) (e : DecEvent × Nat) : State :=
  if !s.inGeom p e.1 then s.bump (PG.sp p) R.SP_CNT2 32 16
  else (s.toSieve p [eventWord p e.1 (s.eventIet m e.2 e.1.t).1 unchk]).bump (PG.sp p) R.SP_CNT2 0 32

/-- The EOP entry of the packet at the head of a list of entries, the head included. -/
def packetEop : List IeqEntry → Option IeqEntry
  | [] => none
  | e :: r => if e.eop then some e else match r with
    | [] => none
    | f :: _ => if f.sop then none else packetEop r

/-- Whether a later packet start shows that the packet at the head was cut. -/
def packetCutShort : List IeqEntry → Bool
  | [] => false
  | e :: r => !e.eop && match r with
    | [] => false
    | f :: _ => f.sop || packetCutShort r

/-- R143: the loss cause of a packet's failed end. -/
def badCause (trunc hold : Bool) : Nat := if trunc then 5 else if hold then 3 else 4

/-- R143: an entry's payload bytes are decoded. -/
def State.queueDecode (s : State) (p : Fin 8) (e : IeqEntry) (unchk : Bool) : State :=
  let d0 : DecState := if e.sop then {} else (s.sp.get p).qd.dec
  let bits := tokenBits (s.uc p 255)
  let o := decBytes (s.uc p) (s.ucValid p (s.sp.get p).ucBadQueue) bits e.iet d0 (e.bytes.take e.valid)
  let s := s.qdUpd p fun q => { q with dec := o.dec }
  o.evs.foldl (fun s x => s.queueEvent p e.map unchk x) s

/-- R141, R143: a marker entry: a marker word, or the loss word of an overflow. -/
def State.queueMarker (s : State) (p : Fin 8) (e : IeqEntry) : State :=
  let first := leNat (e.bytes.take 1)
  if first = 0x80 then
    let lost := (s.sp.get p).qd.lost
    let s := s.qdUpd p fun _ => {}
    s.lossOut p (lost + leNat ((e.bytes.drop 4).take 4)) 1
  else
    let s := s.qdUpd p fun _ => {}
    if s.bit (PG.sp p) R.SP_CTL 6 then
      s.toSieve p [markerWord p s.iet (leNat ((e.bytes.drop 2).take 2)) (first = 1)]
    else s

/-- R143: the queue decoder takes the entry `e` at the head, `rest` being what follows it. -/
def State.queueEntry (s : State) (p : Fin 8) (e : IeqEntry) (rest : List IeqEntry) : State :=
  let hold := s.bit (PG.sp p) R.SP_CTL 5
  let s := s.ieqParity p e
  let qd := (s.sp.get p).qd
  if e.parity = 2 ∨ (qd.resync ∧ !e.sop) then
    s.qdUpd p fun q => { q with resync := true, lost := q.lost + 32, current := false, dec := {} }
  else
    -- a good tag with SOP ends a resynchronisation with its loss word
    let s := if qd.resync then (s.lossOut p qd.lost 0).qdUpd p fun _ => {} else s
    if e.mark ∧ e.parity ≠ 1 then s.queueMarker p e
    else
      let s := if e.sop then s.qdUpd p fun q => { lost := if hold then q.lost else 0 } else s
      let s := s.qdUpd p fun q => { q with len := q.len + e.valid, current := !e.eop }
      let qd := (s.sp.get p).qd
      -- hold mode decides a packet at its first entry
      let early : Option Nat :=
        if !hold ∨ !e.sop then none
        else match packetEop (e :: rest) with
          | some x => if x.crcBad then some (badCause x.trunc true) else none
          | none => some 1
      let discard := match qd.discard with
        | some c => some c
        | none => if e.parity = 1 then some 0 else early
      match discard with
      | some c =>
        let s := s.qdUpd p fun q => { q with discard := some c, lost := q.lost + e.valid }
        if e.eop then
          let n := (s.sp.get p).qd.lost
          (s.lossOut p n c).qdUpd p fun _ => {}
        else s
      | none =>
        if e.eop ∧ e.crcBad then (s.lossOut p qd.len (badCause e.trunc hold)).qdUpd p fun _ => {}
        else
          let unchk := (packetEop (e :: rest)).isNone
          let s := s.queueDecode p e unchk
          if e.eop then
            s.qdUpd p fun _ => {}
          else s

/-- R143, R145, R151, R215: the queue decoder may read; while the port's surface is filled, events wait in the queue. -/
def State.queueMayRead (s : State) (p : Fin 8) : Bool :=
  s.alive (PG.sp p) && !s.stopped (PG.sp p) && s.spEn p && s.ieqRuns p && !s.ieqRaw p && s.running (PG.sv p)
    && (s.sp.get p).toSieve.isEmpty && !s.bit PG.sfs R.SFS_STS (8 + p.val)

/-- R143: the head entry may be read now: in hold mode a packet waits for its EOP entry. -/
def State.queueHeadReady (s : State) (p : Fin 8) : Bool :=
  match (s.ieq.get p).q with
  | [] => false
  | e :: r => !s.bit (PG.sp p) R.SP_CTL 5 || e.mark || e.parity = 2 || !e.sop || (packetEop (e :: r)).isSome
      || packetCutShort (e :: r)

/-- R143: one entry is read. -/
def State.queueRead (s : State) (p : Fin 8) : State :=
  match (s.ieq.get p).q with
  | [] => s
  | e :: r => if s.queueMayRead p && s.queueHeadReady p then (s.ieqUpd p fun q => { q with q := r }).queueEntry p e r else s

/-- R142: entries of the current packet at the head of the queue, up to and with its EOP entry. -/
def splitPacket : List IeqEntry → List IeqEntry × List IeqEntry
  | [] => ([], [])
  | e :: r => if e.sop then ([], e :: r) else if e.eop then ([e], r) else
      let (a, b) := splitPacket r
      (e :: a, b)

/-- R142: the current packet's rest is discarded; the answer is the number of bytes. -/
def State.dropRest (s : State) (p : Fin 8) : Nat × State :=
  let q := s.ieq.get p
  let (mine, rest) := splitPacket q.q
  let n := (mine.map IeqEntry.valid).sum
  let s := s.ieqUpd p fun x => { x with
    q := rest
    dma := x.dma.map fun d => if rest.isEmpty && !mine.isEmpty then { d with zeroAt := s.dtc } else d }
  if mine.any IeqEntry.eop then (n, s)
  else
    match (s.sp.get p).rx with
    | none => (n, s)
    | some rx =>
      if rest.isEmpty ∧ !rx.cut then
        let o := match q.opened with | none => 0 | some o => o.bytes.length
        let s := s.ieqUpd p fun x => { x with opened := none }
        (n + o + (rx.wc - rx.rcvd), s.spUpd p fun x => { x with rx := some { rx with drop := true } })
      else (n, s)

/-- R142: DROP_PKT. -/
def State.dropPacket (s : State) (p : Fin 8) : State :=
  let pg := PG.ieq p
  if !(s.sp.get p).qd.current then s.setBit pg R.IEQ_STS 19 true
  else
    let (n, s) := s.dropRest p
    let s := (s.bump pg R.IEQ_CNT1 16 16).qdUpd p fun _ => {}
    if s.ieqRaw p then s else s.lossOut p n 2

/-! ### Raw capture (R145 to R147) -/

/-- R146: a pop in raw mode. -/
def State.rawPop (s : State) (p : Fin 8) (w : Wr) : State :=
  let pg := PG.ieq p
  if (s.ieq.get p).dma.isSome ∨ !s.ieqRaw p then s.logWr pg w .state
  else
    match (s.ieq.get p).q with
    | [] => (s.setBit pg R.IEQ_STS 16 true).irq pg 2
    | e :: r =>
      let s := (s.ieqUpd p fun q => { q with q := r }).ieqParity p e
      let s := (List.range 4).foldl (fun s i =>
        s.setReg pg (R.IEQ_RAW_D i) (wOfNat (leNat ((e.bytes.drop (8 * i)).take 8)))) s
      let s := s.setReg pg R.IEQ_RAW_TAG (wOfNat e.tag)
      let s := s.qdUpd p fun q => { q with current := !e.eop }
      if r.isEmpty then s else s.irq pg 3

/-- R142, R146: a write of IEQ_CMD: DROP_PKT first, then POP. -/
def State.ieqCmd (s : State) (p : Fin 8) (w : Wr) : State :=
  let s := if bitAt w.val 0 then s.dropPacket p else s
  if bitAt w.val 1 then s.rawPop p w else s

/-- R147: a write of IEQ_RAW_DMA_GO. -/
def State.rawDmaGo (s : State) (p : Fin 8) (w : Wr) : State :=
  let pg := PG.ieq p
  let len := bf w.val 0 16
  let cq := bf w.val 16 6
  let addr := (s.reg pg R.IEQ_RAW_DMA_ADDR).toNat
  if (s.ieq.get p).dma.isSome then s.logWr pg w .busy
  else if !s.itemFree .ordinary then s.ledgerFull pg w
  else if len = 0 then s.emptyJob pg cq .okEmpty 0
  else if !s.ieqRaw p ∨ addr % 64 ≠ 0 then s.emptyJob pg cq .failInvalid 0
  else
    let (i, s) := s.openItem pg cq 0 false
    s.ieqUpd p fun q => { q with dma := some { item := i, addr, len, moved := 0, zeroAt := s.dtc } }

/-- R147: the raw read ends with the count moved. -/
def State.rawDmaEnd (s : State) (p : Fin 8) (d : RawDma) : State :=
  (s.ieqUpd p fun q => { q with dma := none }).closeItem d.item (if d.moved = 0 then .okEmpty else .ok) d.moved

/-! ### Camera control (R124, R125) -/

/-- R125: the bytes of SP_CCI_WBUF. -/
def State.cciWbuf (s : State) (p : Fin 8) : List Byte :=
  (List.range 4).flatMap fun i => leBytes 8 (s.reg (PG.sp p) (R.SP_CCI_WBUF i)).toNat

/-- R125: the transfer that a command asks for; WLEN and RLEN above 32 act as 32. -/
def State.cciXfer (s : State) (p : Fin 8) (c : Word) : CciXfer :=
  { addr := bf c 0 7, ccc := bitAt c 24, sent := (s.cciWbuf p).take (min 32 (bf c 8 6)), rlen := min 32 (bf c 16 6) }

/-- R125: a transfer ends with a RESULT and the bytes read. -/
def State.cciFinish (s : State) (p : Fin 8) (result : Nat) (bytes : List Byte) : State :=
  let pg := PG.sp p
  let s := s.spUpd p fun x => { x with cci := none }
  let n := bytes.length
  let s := (List.range 4).foldl (fun s i =>
    if 8 * i < n then
      s.setReg pg (R.SP_CCI_RBUF i)
        (wOfNat (leNat ((bytes ++ ((List.range 32).map fun j =>
          BitVec.ofNat 8 (s.fld pg (R.SP_CCI_RBUF (j / 8)) (8 * (j % 8)) 8)).drop n).drop (8 * i) |>.take 8)))
    else s) s
  (s.setReg pg R.SP_CCI_STS (wOfNat (result <<< 1 + n <<< 4))).irq pg 4

/-- R125: a write of SP_CCI_CMD. The controller works while SP_CCI_CTL.EN = 1. -/
def State.cciStart (s : State) (p : Fin 8) (w : Wr) : State :=
  let pg := PG.sp p
  if s.bit pg R.SP_CCI_STS 0 then s.logWr pg w .busy
  else if !s.bit pg R.SP_CCI_CTL 0 then s
  else if bf w.val 8 6 = 0 ∧ bf w.val 16 6 = 0 then s.cciFinish p 1 []
  else (s.spUpd p fun x => { x with cci := some (s.cciXfer p w.val) }).setReg pg R.SP_CCI_STS 1

/-- R125: RESULT code. -/
def cciCode : CciResult → Nat
  | .done => 0 | .nackAddr => 2 | .nackData => 3 | .arbLost => 4 | .stretch => 5

/-! ### Page resets and writes -/

/-- R122: actions of a reset of an SP page: queue decoder, camera control, counters. -/
def State.spPageReset (s : State) (p : Fin 8) : State :=
  let pg := PG.sp p
  let s := if (s.sp.get p).qd.current then
      let (n, s) := s.dropRest p
      s.lossOut p n 2
    else s
  let s := s.spUpd p fun x => { x with qd := {}, cci := none }
  let s := [R.SP_CNT0, R.SP_CNT1, R.SP_CNT2, R.SP_CNT3].foldl (fun s r => s.setReg pg r 0) s
  s.setReg pg R.SP_CCI_STS 0

/-- R146, R147: actions of a reset of an IEQ page: the queue empties, the holding registers read 0, a raw read ends. -/
def State.ieqPageReset (s : State) (p : Fin 8) : State :=
  let pg := PG.ieq p
  let s := s.ieqUpd p fun q => { q with q := [], opened := none, dma := none }
  let s := s.spUpd p fun x => { x with rx := x.rx.map fun r => { r with cut := true } }
  let s := (List.range 4).foldl (fun s i => s.setReg pg (R.IEQ_RAW_D i) 0) s
  s.setReg pg R.IEQ_RAW_TAG 0

/-- R139: the enable check of an IEQ page. -/
def State.ieqEnableOk (s : State) (p : Fin 8) : Bool := s.fld (PG.ieq p) R.IEQ_TAIL_TIMEOUT 0 16 != 0

/-- A write to a block register of IEQ page `p`. -/
def State.ieqWrite (s : State) (p : Fin 8) (w : Wr) : State :=
  let pg := PG.ieq p
  let r := w.reg
  if r = R.IEQ_CTL then
    if s.enabled pg ∧ !s.quiesced pg then s.logWr pg w .state
    else
      let s := s.plainWrite pg w
      if s.ieqRaw p ∧ 0 < s.ieqLevel p then s.irq pg 3 else s
  else if r = R.IEQ_CMD then s.ieqCmd p w
  else if r = R.IEQ_RAW_DMA_GO then s.rawDmaGo p w
  else s.plainWrite pg w

/-! ### Commands of the table -/

/-- R133: a microcode entry read with an error: a correctable one is counted in UC_CORR, an uncorrectable one takes the entry
out of the decoder's copy, which `front` names, and its index is recorded. -/
def State.ucError (s : State) (p : Fin 8) (front : Bool) (uc : Option (Fin 255 × Bool)) : State :=
  match uc with
  | none => s
  | some (_, false) => s.bump (PG.sp p) R.SP_CNT3 48 16
  | some (i, true) =>
    let s := s.spUpd p fun x => if front then { x with ucBadFront := NSet.add x.ucBadFront i.val }
      else { x with ucBadQueue := NSet.add x.ucBadQueue i.val }
    s.logInfo1 (PG.sp p) i.val

/-- R140: parity that the read of the head entry finds. -/
def State.headParity (s : State) (p : Fin 8) (k : Fin 3) : State :=
  if k = 0 then s
  else s.ieqUpd p fun q => { q with q := match q.q with | [] => [] | e :: r => { e with parity := k } :: r }

/-- CSI2_PACKET_RX (R115 to R117, R123, R133, R134, R136). -/
def execCsi2PacketRx (p : Fin 8) (h : Option CsiHeader) (payload : List Byte) (uc : Option (Fin 255 × Bool))
    (s : State) : Res :=
  s.ends ((s.ucError p true uc).rxPacket p h payload)

/-- PACKET_CRC_RESULT (R117): after the last payload byte. -/
def execPacketCrcResult (p : Fin 8) (ok : Bool) (s : State) : Res :=
  s.ends (match (s.sp.get p).rx with
    | none => s
    | some rx => if rx.rcvd = rx.wc then s.packetEnd p rx ok false else s)

/-- PACKET_TRUNCATED (R117). -/
def execPacketTruncated (p : Fin 8) (s : State) : Res :=
  s.ends (match (s.sp.get p).rx with
    | none => s
    | some rx => if rx.rcvd < rx.wc then s.packetEnd p rx false true else s)

/-- A 64-bit write to a block register of IEQ page `p`. -/
def State.ieqWr (s : State) (ini : Initiator) (p : Fin 8) (off : Nat) (v : Word) : State :=
  s.gate (PG.ieq p) (.full ini off v) fun s => s.ieqWrite p (.full ini off v)

/-- CCI_TRANSFER (R125): a write of SP_CCI_CMD. -/
def execCciTransfer (ini : Initiator) (p : Fin 8) (v : Word) (s : State) : Res :=
  s.ends (s.gate (PG.sp p) (.full ini R.SP_CCI_CMD v) fun s => s.cciStart p (.full ini R.SP_CCI_CMD v))

/-- CCI_DONE (R125). -/
def execCciDone (p : Fin 8) (r : CciResult) (bytes : List Byte) (s : State) : Res :=
  s.ends (match (s.sp.get p).cci with
    | none => s
    | some c => s.cciFinish p (cciCode r) (bytes.take c.rlen))

/-- R139: the tail timeout of the open entry has run out with the reader caught up. -/
def State.tailDue (s : State) (p : Fin 8) : Bool :=
  match (s.ieq.get p).opened, (s.sp.get p).rx with
  | some o, some rx => (s.ieq.get p).q.isEmpty && decide (rx.rcvd < rx.wc) && decide (o.limit ≤ (s.dtc - o.since).toNat)
  | _, _ => false

/-- R139: the open entry is committed with TIMEOUT. -/
def State.tailCommit (s : State) (p : Fin 8) : State :=
  match (s.ieq.get p).opened, (s.sp.get p).rx with
  | some o, some rx =>
    ((s.ieqUpd p fun q => { q with opened := none }).ieqCommit p (o.close rx.map rx.dt false false false true)).bump
      (PG.ieq p) R.IEQ_CNT0 48 16
  | _, _ => s

/-- IEQ_TAIL_TIMEOUT (R139). -/
def execIeqTailTimeout (p : Fin 8) (s : State) : Res := s.ends (if s.tailDue p then s.tailCommit p else s)

/-- IEQ_ENTRY_READ (R133, R140, R143, R147): the queue decoder reads an entry, or a raw queue read takes it (log 207); with
nothing to read, no memory is read. -/
def execIeqEntryRead (p : Fin 8) (k : Fin 3) (uc : Option (Fin 255 × Bool)) (s : State) : Res :=
  s.ends (if s.rawWants p then (s.headParity p k).rawMove p
    else if s.queueMayRead p && s.queueHeadReady p then ((s.headParity p k).ucError p false uc).queueRead p else s)

/-- DROP_PKT (R142): a write of IEQ_CMD. -/
def execDropPkt (ini : Initiator) (p : Fin 8) (s : State) : Res := s.ends (s.ieqWr ini p R.IEQ_CMD 1)

/-- R146: a pop will read the head entry. -/
def State.popReads (s : State) (p : Fin 8) : Bool :=
  s.alive (PG.ieq p) && !s.stopped (PG.ieq p) && s.ieqRaw p && (s.ieq.get p).dma.isNone

/-- IEQ_POP (R140, R146): a write of IEQ_CMD. -/
def execIeqPop (ini : Initiator) (p : Fin 8) (k : Fin 3) (s : State) : Res :=
  s.ends ((if s.popReads p then s.headParity p k else s).ieqWr ini p R.IEQ_CMD 2)

/-- IEQ_RAW_DMA_GO (R147). -/
def execIeqRawDmaGo (ini : Initiator) (p : Fin 8) (v : Word) (s : State) : Res :=
  s.ends (s.ieqWr ini p R.IEQ_RAW_DMA_GO v)

/-- RAW_DMA_IDLE_TIMEOUT (R147): LEVEL has been 0 for 100 µs. -/
def execRawDmaIdleTimeout (p : Fin 8) (s : State) : Res :=
  s.ends (match (s.ieq.get p).dma with
    | none => s
    | some d =>
      if d.moved < d.len ∧ (s.ieq.get p).q.isEmpty ∧ 100000 ≤ (s.dtc - d.zeroAt).toNat then s.rawDmaEnd p d else s)

/-- RAW_DMA_DONE (R147): LEN entries have moved. -/
def execRawDmaDone (p : Fin 8) (s : State) : Res :=
  s.ends (match (s.ieq.get p).dma with
    | none => s.staleReply (PG.ieq p)
    | some d => if d.moved = d.len then s.decided (s.rawDmaEnd p d) else s)

/-- PHY_LOCK_CHANGE (R121). -/
def execPhyLockChange (p : Fin 8) (locked : Bool) (s : State) : Res := s.ends (s.setBit (PG.sp p) R.SP_STS 1 locked)

/-- RX_ACTIVE_TIMEOUT (R121): 1 ms without an HS burst. -/
def execRxActiveTimeout (p : Fin 8) (s : State) : Res :=
  s.ends (if s.bit (PG.sp p) R.SP_STS 0 ∧ 1000000 ≤ (s.dtc - (s.sp.get p).burstAt).toNat then
      (s.setBit (PG.sp p) R.SP_STS 0 false).irq (PG.sp p) 0
    else s)

end Sys2Proof.Machine
end

