-- ==== Sys2Proof/Machine/Surface.lean ====
section
/-!
DEFINITION. Machine/Surface.lean: the surface store: words, freshness, Sieve writes, allocation, filling and freeing of
regions, and the epoch pass (R42, R211 to R222).
-/

namespace Sys2Proof.Machine

/-- `s` with the surface store changed. -/
def State.sfsUpd (s : State) (f : SfsState → SfsState) : State := { s with sfs := f s.sfs }

/-- R212: TICK of a port, µs. -/
def State.tick (s : State) (p : Fin 8) : Nat := s.fld PG.sfs (R.SFS_P_CFG p) 0 9

/-- R212: surface time of an IET that has been extended against the DTC. -/
def State.extTime (s : State) (p : Fin 8) (ext : Int) : Int := ext / (16 * s.tick p : Nat)

/-- R212: surface time of an IET at the Sieve input. -/
def State.surfTime (s : State) (p : Fin 8) (iet : Nat) : Int := s.extTime p (s.fullTick iet)

/-- R212: the port's current surface time. -/
def State.surfNow (s : State) (p : Fin 8) : Nat := s.dtc.toNat / (1000 * s.tick p)

/-- R212: µs to ticks of the port, rounded up. -/
def State.toTicks (s : State) (p : Fin 8) (us : Nat) : Nat :=
  if s.tick p = 0 then 0 else (us + s.tick p - 1) / s.tick p

/-- SP_GEOM.WIDTH. -/
def State.geomW (s : State) (p : Fin 8) : Nat := s.fld (PG.sp p) R.SP_GEOM 0 12
/-- SP_GEOM.HEIGHT. -/
def State.geomH (s : State) (p : Fin 8) : Nat := s.fld (PG.sp p) R.SP_GEOM 16 12

/-- Tiles in a row of 16 × 16 tiles (R161, R216). -/
def State.tilesW (s : State) (p : Fin 8) : Nat := (s.geomW p + 15) / 16

/-- R161: index of the tile of a pixel. -/
def State.tileIx (s : State) (p : Fin 8) (x y : Nat) : Nat := y / 16 * s.tilesW p + x / 16

/-- R216: pixel offset in the store. -/
def State.pixOff (s : State) (p : Fin 8) (x y : Nat) : Nat :=
  s.fld PG.sfs (R.SFS_P_ALLOC p) 0 23 + 256 * s.tileIx p x y + 16 * (y % 16) + x % 16

/-! ### Words (R211, R213) -/

/-- The word at a pixel offset. -/
def State.surfWord (s : State) (o : Nat) : BitVec 32 := Sp.get 0 s.sfs.words o

/-- `s` with the word at a pixel offset written whole, its check codes with it. -/
def State.setSurf (s : State) (o : Nat) (w : BitVec 32) : State :=
  s.sfsUpd fun x => { x with words := Sp.set 0 x.words o w, bad := Sp.erase x.bad o }

/-- R211: polarity. -/
def surfPol (w : BitVec 32) : Bool := w.getLsbD 15
/-- R211: COUNT. -/
def surfCount (w : BitVec 32) : Nat := nfld w.toNat 8 7
/-- R211: LIVE. -/
def surfLive (w : BitVec 32) : Bool := w.getLsbD 5
/-- R212: stored surface time modulo 2^18. -/
def surfStored (w : BitVec 32) : Nat := nfld w.toNat 6 2 * 65536 + nfld w.toNat 16 16

/-- R213: `d` of a word relative to a surface time. -/
def surfD (w : BitVec 32) (t : Int) : Int := sgn 18 (low 18 (t - surfStored w))

/-- R213: the word is fresh. -/
def surfFresh (w : BitVec 32) (t : Int) : Bool :=
  surfLive w && decide (-32768 ≤ surfD w t) && decide (surfD w t ≤ 32767)

/-- R211: a word from its fields. -/
def surfMk (t : Int) (pol : Bool) (count label : Nat) : BitVec 32 :=
  BitVec.ofNat 32 (label + 1 <<< 5 + (low 18 t / 65536) <<< 6 + count <<< 8 + b2n pol <<< 15 + (low 16 t) <<< 16)

/-- R218: an uncorrectable read is recorded. -/
def State.surfBad (s : State) (o mask : Nat) : State :=
  let s := s.setReg PG.sfs R.SFS_ERR_ADDR (wOfNat (o % 2 ^ 23 + mask <<< 32))
  (s.addCnt PG.sfs R.SFS_CNT0 32 16 (popCount 4 mask)).irq PG.sfs 2

/-- R218: an upset of a port's word, found by the access that reads the word at `o`: correctable bytes are corrected in place and
counted, uncorrectable ones stay with the word. An access that does not read the word finds nothing. -/
def State.pixUpset (s : State) (p : Fin 8) (up : Option PixelUpset) (o : Nat) : State :=
  match up with
  | none => s
  | some u =>
    let m := u.bytes.toNat
    if s.pixOff p u.x.toNat u.y.toNat ≠ o then s
    else if u.uncorr then s.sfsUpd fun q => { q with bad := Sp.set 0 q.bad o (Sp.get 0 q.bad o ||| m) }
    else (setBits 4 m).foldl (fun s _ => (s.bump PG.sfs R.SFS_CNT0 0 32).bucketAdd 38) s

/-- R218: a word of a port as the Sieve, a Chord unit or the epoch pass reads it: none where a byte is uncorrectable. -/
def State.surfRead (s : State) (p : Fin 8) (up : Option PixelUpset) (o : Nat) : Option (BitVec 32) × State :=
  let s := s.pixUpset p up o
  let m := Sp.get 0 s.sfs.bad o
  if m = 0 then (some (s.surfWord o), s) else (none, s.surfBad o m)

/-- R213, R224: the fresh word of a pixel of the port, with its `d`; pixels outside the geometry are not fresh. -/
def State.surfFreshAt (s : State) (p : Fin 8) (up : Option PixelUpset) (x y : Int) (t : Int) : Option (BitVec 32 × Int) × State :=
  if x < 0 ∨ y < 0 ∨ (s.geomW p : Int) ≤ x ∨ (s.geomH p : Int) ≤ y then (none, s)
  else
    let (w, s) := s.surfRead p up (s.pixOff p x.toNat y.toNat)
    match w with
    | none => (none, s)
    | some w => (if surfFresh w t then some (w, surfD w t) else none, s)

/-- R154, R213: the age of a fresh word. -/
def surfAge (d : Int) : Nat := d.toNat

/-- R214: the Sieve writes an event's word. -/
def State.surfEvent (s : State) (p : Fin 8) (x y : Nat) (pol : Bool) (t : Int) : State :=
  let o := s.pixOff p x y
  let w := s.surfWord o
  let fresh := Sp.get 0 s.sfs.bad o = 0 && surfFresh w t
  let n := min 127 (surfCount w + 1)
  let s := s.bump PG.sfs (R.SFS_P_CNT p) 0 32
  if !fresh then s.setSurf o (surfMk t pol 1 0)
  else if 0 ≤ surfD w t then s.setSurf o (surfMk t pol n 0)
  else (s.setSurf o ((w &&& 0xFFFF_80FF) ||| BitVec.ofNat 32 (n <<< 8))).bump PG.sfs R.SFS_CNT0 48 16

/-! ### Allocation (R42, R215) -/

/-- Regions that count as allocated: offset and size. -/
def State.regions (s : State) : List (Nat × Nat) :=
  ((List.finRange 8).filterMap fun (p : Fin 8) =>
    let a := s.reg PG.sfs (R.SFS_P_ALLOC p)
    if bitAt a 63 then some (bf a 0 23, bf a 32 24) else none)
  ++ (s.sfs.freeing.filterMap fun f =>
    let a := s.reg PG.sfs (R.SFS_P_ALLOC f.port)
    if bitAt a 63 ∧ bf a 0 23 = f.base then none else some (f.base, f.size))

/-- Regions in rising order of offset. -/
def insertRegion (r : Nat × Nat) : List (Nat × Nat) → List (Nat × Nat)
  | [] => [r]
  | q :: l => if r.1 ≤ q.1 then r :: q :: l else q :: insertRegion r l

/-- Pixels of the store (GT_SURFACE_PIXELS). -/
def surfPixels : Nat := 8388608

/-- Free runs between the allocated regions, from offset `o` on. -/
def freeRuns : Nat → List (Nat × Nat) → List (Nat × Nat)
  | o, [] => if o < surfPixels then [(o, surfPixels - o)] else []
  | o, (b, n) :: r => (if o < b then [(o, b - o)] else []) ++ freeRuns (max o (b + n)) r

/-- Free runs of the store. -/
def State.freeList (s : State) : List (Nat × Nat) := freeRuns 0 (s.regions.foldr insertRegion [])

/-- R215: pixels a port's surface takes. -/
def State.surfSize (s : State) (p : Fin 8) : Nat := (s.geomW p + 15) / 16 * ((s.geomH p + 15) / 16) * 256

/-- R215: a refusal of the surface store: its bit, PORT and cause. -/
def State.surfRefuse (s : State) (p : Fin 8) (bit irq : Nat) : State :=
  ((s.setBit PG.sfs R.SFS_STS bit true).setFld PG.sfs R.SFS_STS 4 3 p.val).irq PG.sfs irq

/-- R215: surface allocation at SP_CTL.EN 0 to 1; the first part tells whether the enable may go on. -/
def State.surfAlloc (s : State) (p : Fin 8) : Bool × State :=
  let tick := s.tick p
  if tick = 0 ∨ 256 < tick then (false, s.surfRefuse p 1 1)
  else
    let n := s.surfSize p
    match s.freeList.find? (fun r => decide (n ≤ r.2)) with
    | none => (false, s.surfRefuse p 0 0)
    | some (o, _) =>
      let s := s.setReg PG.sfs (R.SFS_P_ALLOC p) (wOfNat (o % 2 ^ 23 + n <<< 32 + 1 <<< 63))
      let s := s.setBit PG.sfs R.SFS_STS (8 + p.val) true
      let s := s.setFld PG.sfs (R.SFS_P_PASS p) 0 23 0
      (true, s.sfsUpd fun x => { x with
        sweep := x.sweep.set p false, sweptAt := x.sweptAt.set p (s.surfNow p / 65536) })

/-- R215: a region filled with zero words. -/
def State.surfFill (s : State) (base size : Nat) : State :=
  s.sfsUpd fun x => { x with
    words := x.words.filter fun c => decide (c.1 < base) || decide (base + size ≤ c.1)
    bad := x.bad.filter fun c => decide (c.1 < base) || decide (base + size ≤ c.1) }

/-- R215: SFS_STS.INIT of a port. -/
def State.surfInit (s : State) (p : Fin 8) : Bool := s.bit PG.sfs R.SFS_STS (8 + p.val)

/-- R215: the port's fill ends. -/
def State.surfFillDone (s : State) (p : Fin 8) : State :=
  if !s.surfInit p then s
  else
    let a := s.reg PG.sfs (R.SFS_P_ALLOC p)
    (s.surfFill (bf a 0 23) (bf a 32 24)).setBit PG.sfs R.SFS_STS (8 + p.val) false

/-- R215: SP_CTL.EN 1 to 0: the port's region begins to be freed. -/
def State.surfFree (s : State) (p : Fin 8) : State :=
  let a := s.reg PG.sfs (R.SFS_P_ALLOC p)
  if !bitAt a 63 then s
  else
    let s := s.sfsUpd fun x => { x with
      freeing := x.freeing ++ [{ port := p, base := bf a 0 23, size := bf a 32 24 }], sweep := x.sweep.set p false }
    s.setBit PG.sfs R.SFS_STS (16 + p.val) true

/-- R215: the oldest free of the port takes effect. -/
def State.surfFreed (s : State) (p : Fin 8) : State :=
  match s.sfs.freeing.find? (fun f => f.port == p) with
  | none => s
  | some f =>
    let s := s.sfsUpd fun x => { x with freeing := x.freeing.erase f }
    let a := s.reg PG.sfs (R.SFS_P_ALLOC p)
    let s := if bf a 0 23 = f.base ∧ !s.spEn p then s.setBit PG.sfs (R.SFS_P_ALLOC p) 63 false else s
    if s.sfs.freeing.any (fun f => f.port == p) then s else s.setBit PG.sfs R.SFS_STS (16 + p.val) false

/-- SFS_FREE: largest free run and total of free pixels. -/
def State.surfFreeWord (s : State) : Word :=
  let l := s.freeList.map Prod.snd
  wOfNat (l.foldl max 0 + (l.sum) <<< 32)

/-! ### The epoch pass (R219, R220) -/

/-- R219: the epoch pass runs for the port. -/
def State.passRuns (s : State) (p : Fin 8) : Bool :=
  s.alive PG.sfs && s.spEn p && s.bit PG.sfs (R.SFS_P_ALLOC p) 63

/-- R219: a sweep starts when the surface time has crossed a multiple of 2^16 ticks. -/
def State.sweepStart (s : State) (p : Fin 8) : State :=
  let k := s.surfNow p / 65536
  if s.passRuns p ∧ s.sfs.sweptAt.get p < k then
    let s := s.sfsUpd fun x => { x with sweep := x.sweep.set p true, sweptAt := x.sweptAt.set p k }
    s.setFld PG.sfs (R.SFS_P_PASS p) 0 23 0
  else s

/-- R219, R220: the pass visits the next word of the port's region. -/
def State.sweepVisit (s : State) (p : Fin 8) (up : Option PixelUpset) : State :=
  if !(s.passRuns p && s.sfs.sweep.get p) then s
  else
    let a := s.reg PG.sfs (R.SFS_P_ALLOC p)
    let pos := s.fld PG.sfs (R.SFS_P_PASS p) 0 23
    let o := bf a 0 23 + pos
    let (w, s) := s.surfRead p up o
    let s := match w with
      | some w =>
        if surfLive w && !surfFresh w (s.surfNow p) then
          (s.setSurf o (w &&& 0xFFFF_FFDF)).bump PG.sfs (R.SFS_P_CNT p) 32 32
        else s
      | none => s
    if bf a 32 24 ≤ pos + 1 then
      let n := s.fld PG.sfs (R.SFS_P_PASS p) 32 32
      let s := s.setReg PG.sfs (R.SFS_P_PASS p) (wOfNat (((n + 1) % 2 ^ 32) <<< 32))
      s.sfsUpd fun x => { x with sweep := x.sweep.set p false }
    else s.setFld PG.sfs (R.SFS_P_PASS p) 0 23 (pos + 1)

/-- R222: actions of a reset of the SFS page. -/
def State.sfsPageReset (s : State) : State :=
  let s := s.setReg PG.sfs R.SFS_CNT0 0
  (List.finRange 8).foldl (fun s (p : Fin 8) =>
    (s.setReg PG.sfs (R.SFS_P_CNT p) 0).setFld PG.sfs (R.SFS_P_PASS p) 0 23 0) s

/-- A write to a block register of the SFS page: TICK is writable while the port is disabled (R222). -/
def State.sfsWrite (s : State) (w : Wr) : State :=
  let o := w.reg
  if 0x1000 ≤ o ∧ o < 0x1200 ∧ (o - 0x1000) % 0x40 = 0 then
    if s.spEn (baseOf ((o - 0x1000) / 0x40)) then s.logWr PG.sfs w .state else s.plainWrite PG.sfs w
  else s.plainWrite PG.sfs w

/-! ### Commands of the table -/

/-- SFS_FILL_DONE (R215). -/
def execSfsFillDone (p : Fin 8) (s : State) : Res := s.ends (s.surfFillDone p)

/-- SFS_FREE_DONE (R215). -/
def execSfsFreeDone (p : Fin 8) (s : State) : Res := s.ends (s.surfFreed p)

/-- EPOCH_SWEEP_START (R219). -/
def execEpochSweepStart (p : Fin 8) (s : State) : Res := s.ends (s.sweepStart p)

/-- EPOCH_VISIT (R218 to R220). -/
def execEpochVisit (p : Fin 8) (up : Option PixelUpset) (s : State) : Res :=
  s.ends (s.sweepVisit p up)

end Sys2Proof.Machine
end

