-- ==== Sys2Proof/Machine/Chord.lean ====
section
/-!
DEFINITION. Machine/Chord.lean: the Chord units: input queue, arc corner test, plane fit and normal flow, labels, corner and
flow records (R223 to R235), and the tracker's inputs (R241, R250).
-/

namespace Sys2Proof.Machine

/-- `s` with a Chord unit changed. -/
def State.chdUpd (s : State) (p : Fin 8) (f : ChdState → ChdState) : State := { s with chd := vupd s.chd p f }

/-- `s` with the tracker changed. -/
def State.locUpd (s : State) (f : LocState → LocState) : State := { s with loc := f s.loc }

/-! ### Tracker inputs (R241, R250) -/

/-- R241, R250: a record enters a tracker input; beyond the port's budget of the window it is over budget. -/
def State.locPush (s : State) (p : Fin 8) (r : ChdRec) : State :=
  let c := s.loc.charge.get p + 16
  let excess := decide (s.loc.budget.get p < c)
  let s := s.bump PG.loc (R.LOC_P_CNT0 p) 0 32
  let s := if excess then s.bump PG.loc (R.LOC_P_CNT1 p) 0 32 else s
  s.locUpd fun x => { x with
    charge := x.charge.set p c
    inputs := vupd x.inputs p fun l => l ++ [{ body := r.body, admitted := r.admitted, excess }] }

/-! ### Output queue (R232) -/

/-- R232: a record passes to the results unit. -/
def State.cornerOut (s : State) (p : Fin 8) (r : ChdRec) : State :=
  s.batchAdd p .corner (s.winIndex p (nfld r.body 0 32)) (leBytes 16 r.body)

/-- R232, R241: records leave the output queue in order while the tracker's input takes them. -/
def State.chdDrain (s : State) (p : Fin 8) : Nat → State
  | 0 => s
  | n + 1 =>
    match (s.chd.get p).out with
    | [] => s
    | r :: rest =>
      if r.toLoc && (!s.alive PG.loc || decide (128 ≤ (s.loc.inputs.get p).length)) then s
      else
        let s := s.chdUpd p fun x => { x with out := rest }
        let s := if r.toRes then s.cornerOut p r else s
        let s := if r.toLoc then s.locPush p r else s
        State.chdDrain s p n

/-! ### Input queue (R223) -/

/-- R223: an event skips both tests. -/
def State.chdSkip (s : State) (p : Fin 8) : State := s.bumpIrq0 (PG.chd p) R.CHD_CNT0 32 32 0

/-- R223: an admitted event reaches the Chord unit. -/
def State.chdPush (s : State) (p : Fin 8) (w : Word) (ext : Int) : State :=
  let pg := PG.chd p
  let n := (s.chd.get p).q.length
  if !s.alive pg || !s.enabled pg || decide (256 ≤ n) then s.chdSkip p
  else
    let s := s.chdUpd p fun x => { x with q := x.q ++ [{ word := w, ext, admitted := s.dtc }] }
    s.setFld pg R.CHD_STS 32 9 (max (n + 1) (s.fld pg R.CHD_STS 32 9))

/-- R215, R223: every event in the input queue is skipped. -/
def State.chdSkipAll (s : State) (p : Fin 8) : State :=
  let l := (s.chd.get p).q
  let s := s.chdUpd p fun x => { x with q := [] }
  l.foldl (fun s _ => s.chdSkip p) s

/-! ### Arc corner test (R225 to R227) -/

/-- R225: the circle of radius 3. -/
def circle3 : List (Int × Int) :=
  [(3, 0), (3, 1), (2, 2), (1, 3), (0, 3), (-1, 3), (-2, 2), (-3, 1), (-3, 0), (-3, -1), (-2, -2), (-1, -3), (0, -3),
   (1, -3), (2, -2), (3, -1)]

/-- R225: the circle of radius 4. -/
def circle4 : List (Int × Int) :=
  [(4, 0), (4, 1), (3, 2), (2, 3), (1, 4), (0, 4), (-1, 4), (-2, 3), (-3, 2), (-4, 1), (-4, 0), (-4, -1), (-3, -2),
   (-2, -3), (-1, -4), (0, -4), (1, -4), (2, -3), (3, -2), (4, -1)]

/-- Length of the run of `true` at the head. -/
def runHead : List Bool → Nat
  | true :: r => runHead r + 1
  | _ => 0

/-- R226, R227: start and length of the longest circular run, the lowest start among equals. -/
def longestRun (l : List Bool) : Nat × Nat :=
  let n := l.length
  if l.all id then (0, n)
  else
    (List.range n).foldl (fun (b : Nat × Nat) i =>
      let starts := l.getD i false && !(l.getD ((i + n - 1) % n) false)
      let len := runHead ((l.drop i) ++ (l.take i))
      if starts && decide (b.2 < len) then (i, len) else b) (0, 0)

/-- R227: ARC_DIR of a run on the radius-4 circle. -/
def arcDir (start len : Nat) : Nat :=
  if len = 0 ∨ len = 20 then 0 else (512 * (2 * start + len - 1) + 40) / 80 % 256

/-- A pixel of the test's window: offsets, and its fresh word with `d`. -/
structure WinPix where
  dx : Int
  dy : Int
  w : Option (BitVec 32 × Int)
  deriving DecidableEq, Repr

/-- R224: the 9 × 9 window in row-major order. -/
def State.chdWindow (s : State) (p : Fin 8) (up : Option PixelUpset) (x y : Nat) (t : Int) : List WinPix × State :=
  (List.range 81).foldl (fun (acc : List WinPix × State) i =>
    let dx : Int := (i % 9 : Nat) - 4
    let dy : Int := (i / 9 : Nat) - 4
    let (w, s) := acc.2.surfFreshAt p up (x + dx) (y + dy) t
    (acc.1 ++ [{ dx, dy, w }], s)) ([], s)

/-- A position of the window. -/
def winAt (l : List WinPix) (o : Int × Int) : Option (BitVec 32 × Int) :=
  match l.find? (fun q => q.dx == o.1 && q.dy == o.2) with
  | some q => q.w
  | none => none

/-- R226, R228: the word is recent within `tau` ticks, of the event's polarity where that is asked. -/
def recentPix (w : Option (BitVec 32 × Int)) (tau : Nat) (samePol pol : Bool) : Bool :=
  match w with
  | none => false
  | some (w, d) => decide (surfAge d ≤ tau) && (!samePol || surfPol w == pol)

/-- What the arc test finds. -/
structure ArcRes where
  corner : Bool
  run3 : Nat
  run4 : Nat
  dir : Nat
  deriving DecidableEq, Repr

/-- R226: the arc corner test. -/
def arcTest (ctl arc : Word) (tau : Nat) (win : List WinPix) (pol : Bool) : ArcRes :=
  if !bitAt ctl 0 then { corner := false, run3 := 0, run4 := 0, dir := 0 }
  else
    let rec3 := circle3.map fun o => recentPix (winAt win o) tau (bitAt ctl 2) pol
    let rec4 := circle4.map fun o => recentPix (winAt win o) tau (bitAt ctl 2) pol
    let (_, n3) := longestRun rec3
    let (s4, n4) := longestRun rec4
    let ok3 := decide (bf arc 0 5 ≤ n3) && decide (n3 ≤ bf arc 8 5)
    let ok4 := decide (bf arc 16 5 ≤ n4) && decide (n4 ≤ bf arc 24 5)
    { corner := if bitAt ctl 4 then ok3 || ok4 else ok3 && ok4, run3 := n3, run4 := n4, dir := arcDir s4 n4 }

/-! ### Plane fit (R228 to R231) -/

/-- What the fit gives. -/
structure FitRes where
  n : Nat
  flow : Bool := false
  vx : Int := 0
  vy : Int := 0
  sat : Bool := false
  res : Nat := 0
  dir : Nat := 0
  few : Bool := false
  degenerate : Bool := false
  resFail : Bool := false
  deriving DecidableEq, Repr

/-- R231: the octant of a direction: floor(angle / 45° + 1/2) mod 8. -/
def octant (x y : Int) : Nat :=
  let ax := x.natAbs
  let ay := y.natAbs
  -- near the x axis: |y| < (√2 − 1)|x|; near the y axis: |x| < (√2 − 1)|y|
  let flat := decide ((ax + ay) * (ax + ay) < 2 * ax * ax)
  let steep := decide ((ax + ay) * (ax + ay) < 2 * ay * ay)
  if flat then (if 0 ≤ x then 0 else 4)
  else if steep then (if 0 ≤ y then 2 else 6)
  else if 0 ≤ x then (if 0 ≤ y then 1 else 7) else (if 0 ≤ y then 3 else 5)

/-- Two finite FP32 values on one scale. -/
def fPair (a b : Nat) : Int × Int :=
  match fp32.dec a, fp32.dec b with
  | .fin na m e, .fin nb n g =>
    let k := min e g
    (sgnM na m * 2 ^ (e - k).toNat, sgnM nb n * 2 ^ (g - k).toNat)
  | _, _ => (0, 0)

/-- R230: a velocity in FP32 as Q8.8, ties away from zero, clamped. -/
def flowQ (v : Nat) : Int × Bool :=
  match fToInt .away v 8 with
  | none => ((if (fp32.dec v).cmp (.fin false 0 0) == some .lt then -32767 else 32767), true)
  | some i => if i < -32767 then (-32767, true) else if 32767 < i then (32767, true) else (i, false)

/-- R229, R230: the fit over a support of points (x, y, t). -/
def planeFit (sup : List (Int × Int × Int)) (fitMin resMax tick : Nat) : FitRes :=
  let n := sup.length
  if n < fitMin then { n, few := true }
  else
    let sum := fun (f : Int × Int × Int → Int) => (sup.map f).sum
    let sx := sum fun q => q.1
    let sy := sum fun q => q.2.1
    let st := sum fun q => q.2.2
    let k : Int := n
    let sxx := k * (sum fun q => q.1 * q.1) - sx * sx
    let syy := k * (sum fun q => q.2.1 * q.2.1) - sy * sy
    let sxy := k * (sum fun q => q.1 * q.2.1) - sx * sy
    let sxt := k * (sum fun q => q.1 * q.2.2) - sx * st
    let syt := k * (sum fun q => q.2.1 * q.2.2) - sy * st
    let d := sxx * syy - sxy * sxy
    if d = 0 then { n, degenerate := true }
    else
      let a := fp32.ofRatio (syy * sxt - sxy * syt) d
      let b := fp32.ofRatio (sxx * syt - sxy * sxt) d
      let g := fadd (fmul a a) (fmul b b)
      if fle g 0 then { n, degenerate := true }
      else
        let c := fdiv (fsub (fsub (fint st) (fmul a (fint sx))) (fmul b (fint sy))) (fint k)
        let r2 := sup.foldl (fun acc q =>
          let r := fsub (fsub (fsub (fint q.2.2) (fmul a (fint q.1))) (fmul b (fint q.2.1))) c
          fadd acc (fmul r r)) 0
        let res := match fToInt .even (fsqrt (fdiv r2 (fint k))) 4 with
          | none => 255
          | some i => min 255 i.toNat
        if resMax < 255 ∧ resMax < res then { n, res, resFail := true }
        else
          let scale := fp32.ofRatio 1000 tick
          let (vx, ox) := flowQ (fmul (fdiv a g) scale)
          let (vy, oy) := flowQ (fmul (fdiv b g) scale)
          let (ia, ib) := fPair a b
          { n, flow := true, vx, vy, sat := ox || oy, res, dir := octant ia ib }

/-- R228: the support of the fit: the 5 × 5 block row by row, the event itself in its place. -/
def fitSupport (tau : Nat) (samePol pol : Bool) (win : List WinPix) : List (Int × Int × Int) :=
  win.filterMap fun q =>
    if q.dx.natAbs ≤ 2 ∧ q.dy.natAbs ≤ 2 then
      if q.dx = 0 ∧ q.dy = 0 then some (0, 0, 0)
      else if recentPix q.w tau samePol pol then
        match q.w with
        | some (_, d) => some (q.dx, q.dy, -d)
        | none => none
      else none
    else none

/-! ### One test -/

/-- R232: a corner and flow record. -/
def cornerRecord (w : Word) (a : ArcRes) (f : FitRes) (edge : Bool) : Nat :=
  bf w 0 58 + (bf w 60 2) <<< 58 + b2n a.corner <<< 60 + b2n f.flow <<< 61 + b2n (bitAt w 63) <<< 62 + b2n edge <<< 63
    + (low 16 f.vx) <<< 64 + (low 16 f.vy) <<< 80 + a.dir <<< 96 + a.run3 <<< 104 + a.run4 <<< 109 + f.n <<< 114
    + f.res <<< 119 + b2n f.sat <<< 127

/-- R218, R231: the label written into the event's own word; the byte's code is new. -/
def State.labelWrite (s : State) (p : Fin 8) (o : Nat) (w0 : BitVec 32) (t : Int) (pol : Bool) (a : ArcRes) (f : FitRes) :
    State :=
  if nfld w0.toNat 16 16 = low 16 t ∧ surfPol w0 = pol then
    let label := b2n a.corner <<< 4 + b2n f.flow <<< 3 + f.dir
    s.sfsUpd fun x => { x with
      words := Sp.set 0 x.words o ((s.surfWord o &&& 0xFFFF_FF00) ||| (w0 &&& 0xE0) ||| BitVec.ofNat 32 label)
      bad := Sp.set 0 x.bad o (Sp.get 0 x.bad o &&& 14) }
  else s.bump (PG.chd p) R.CHD_CNT2 32 16

/-- R223 to R232: the test of one event. -/
def State.chdTest (s : State) (p : Fin 8) (up : Option PixelUpset) (e : ChdEvent) : State :=
  let pg := PG.chd p
  let ctl := s.reg pg R.CHD_CTL
  let arc := s.reg pg R.CHD_ARC
  let fit := s.reg pg R.CHD_FIT
  let x := bf e.word 32 11
  let y := bf e.word 43 11
  let pol := bitAt e.word 54
  let t := s.extTime p e.ext
  let o := s.pixOff p x y
  let w0 := s.surfWord o
  let edge := decide (x < 4) || decide (y < 4) || decide (s.geomW p < x + 5) || decide (s.geomH p < y + 5)
  let (win, s) := s.chdWindow p up x y t
  let a := arcTest ctl arc (s.toTicks p (bf arc 32 16)) win pol
  let f : FitRes := if bitAt ctl 1 then
      planeFit (fitSupport (s.toTicks p (bf fit 0 16)) (bitAt ctl 3) pol win) (bf fit 16 5) (bf fit 32 8) (s.tick p)
    else { n := 0 }
  let s := s.bump pg R.CHD_CNT0 0 32
  let s := if a.corner then
      (s.bump pg R.CHD_CNT1 0 32).winCorner p (bf e.word 0 32)
    else s
  let s := if f.flow then s.bump pg R.CHD_CNT1 32 32 else s
  let s := if f.few then s.bump pg R.CHD_CNT2 48 16 else s
  let s := if f.degenerate then s.bump pg R.CHD_CNT2 0 16 else s
  let s := if f.resFail then s.bump pg R.CHD_CNT2 16 16 else s
  let s := if bitAt ctl 7 then s.labelWrite p o w0 t pol a f else s
  let r : ChdRec := { body := cornerRecord e.word a f edge, admitted := e.admitted,
                      toLoc := a.corner || bitAt ctl 5, toRes := bitAt ctl 6 }
  (s.chdUpd p fun x => { x with out := x.out ++ [r] }).chdDrain p 65

/-- R222, R223, R232: the next event's test starts; it waits while the surface store is in reset. -/
def State.chdStart (s : State) (p : Fin 8) (up : Option PixelUpset) : State :=
  let s := s.chdDrain p 65
  match (s.chd.get p).q with
  | [] => s
  | e :: r =>
    if s.running (PG.chd p) && s.alive PG.sfs && decide ((s.chd.get p).out.length < 64) then
      (s.chdUpd p fun x => { x with q := r }).chdTest p up e
    else s

/-- R235: CHD_STS bits of the enable checks that fail. -/
def State.chdChecks (s : State) (p : Fin 8) : List Nat :=
  let pg := PG.chd p
  let ctl := s.reg pg R.CHD_CTL
  let arc := s.reg pg R.CHD_ARC
  let fit := s.reg pg R.CHD_FIT
  let (m3, x3, m4, x4) := (bf arc 0 5, bf arc 8 5, bf arc 16 5, bf arc 24 5)
  (if bitAt ctl 0 ∧ (m3 = 0 ∨ x3 = 0 ∨ m4 = 0 ∨ x4 = 0 ∨ bf arc 32 16 = 0) then [0] else []) ++
  (if bitAt ctl 0 ∧ (x3 < m3 ∨ x4 < m4 ∨ 16 < x3 ∨ 20 < x4 ∨ 32767 < s.toTicks p (bf arc 32 16)) then [1] else []) ++
  (if bitAt ctl 1 ∧ (bf fit 0 16 = 0 ∨ bf fit 16 5 = 0 ∨ bf fit 32 8 = 0) then [2] else []) ++
  (if bitAt ctl 1 ∧ (bf fit 16 5 < 3 ∨ 25 < bf fit 16 5 ∨ 32767 < s.toTicks p (bf fit 0 16)) then [3] else [])

/-- R234, R235: the enable checks; the first part tells whether the page may be enabled. -/
def State.chdEnable (s : State) (p : Fin 8) : Bool × State :=
  match s.chdChecks p with
  | [] => (true, s)
  | l => (false, (l.foldl (fun s b => s.setBit (PG.chd p) R.CHD_STS b true) s).irq (PG.chd p) 1)

/-- R223: actions of a reset of a CHD page. -/
def State.chdPageReset (s : State) (p : Fin 8) : State :=
  let s := s.chdSkipAll p
  [R.CHD_CNT0, R.CHD_CNT1, R.CHD_CNT2].foldl (fun s r => s.setReg (PG.chd p) r 0) s

/-- A write to a block register of a CHD page (R234). -/
def State.chdWrite (s : State) (p : Fin 8) (w : Wr) : State :=
  let pg := PG.chd p
  if (w.reg = R.CHD_CTL ∨ w.reg = R.CHD_ARC ∨ w.reg = R.CHD_FIT) ∧ s.enabled pg ∧ !s.quiesced pg then s.logWr pg w .state
  else s.plainWrite pg w

/-- CHORD_TEST (R223, R233). -/
def execChordTest (p : Fin 8) (up : Option PixelUpset) (s : State) : Res := s.ends (s.chdStart p up)

end Sys2Proof.Machine
end

