-- ==== Sys2Proof/Machine/Lattice.lean ====
section
/-!
DEFINITION. Machine/Lattice.lean: neurons, parameter sets, synapse rows, the annulus, the undo journal, one step of a course,
the leak sweep, courses and their swaps, and the LAT, SHF and KLN pages (R263 to R292, R311 to R318, R328, R335, R337).
-/

namespace Sys2Proof.Machine

/-- `s` with a kiln's lattice changed. -/
def State.latUpd (s : State) (k : Fin 6) (f : LatState → LatState) : State := { s with lat := vupd s.lat k f }

/-- Field of `n` bits at `lo` of a number replaced. -/
def nput (x lo n v : Nat) : Nat := x - (nfld x lo n) <<< lo + (v % 2 ^ n) <<< lo

/-- R5: `a + d` in 24 bits. -/
def step24 (a : Nat) (d : Int) : Nat := low 24 ((a : Int) + d)

/-! ### Arithmetic (R266, R267) -/

/-- R266: mulr. -/
def mulr (q : Nat) (x : Int) : Int := roundEven ((q : Int) * x) 65536

/-- R267: powr, over the bits of `k`. -/
def powr (alpha : Nat) : Nat → Nat → Int → Int → Int
  | 0, _, _, res => res
  | n + 1, k, base, res =>
    if k = 0 then res
    else powr alpha n (k / 2) (mulr base.toNat base) (if k % 2 = 1 then mulr base.toNat res else res)

/-- R267: α to the power `k`, in Q1.16. -/
def alphaPow (alpha k : Nat) : Nat := (powr alpha 24 k alpha 65536).toNat

/-- R267: decay, split at every multiple of 2^20. -/
def decayGo (alpha : Nat) : Nat → Int → Nat → Nat → Int
  | 0, x, _, _ => x
  | n + 1, x, a, b =>
    if a = b then x
    else
      let c : Nat := (a / 2 ^ 20 + 1) * 2 ^ 20 % 2 ^ 24
      let c : Nat := if low 24 ((b : Int) - (c : Int)) ≥ 2 ^ 23 ∨ c = b then b else c
      decayGo alpha n (mulr (alphaPow alpha (low 24 ((c : Int) - a))) x) c b

/-- R267: decay from step `a` to step `b`, modulo 2^24. -/
def decay (x : Int) (alpha a b : Nat) : Int := decayGo alpha 18 x a b

/-! ### Parameter sets (R264, R265) -/

/-- R264: a parameter set. -/
structure PSet where
  model : Nat
  carry : Bool
  emit : Bool
  inShift : Nat
  refract : Nat
  gOut : Nat
  valid : Bool
  theta : Int
  vReset : Int
  vRest : Int
  vdRest : Int
  av : Nat
  aa : Nat
  ad : Nat
  gc : Nat
  aInc : Nat
  vdQuiet : Nat
  key : Nat
  deriving DecidableEq, Repr

/-- R264: parameter set of six words. -/
def PSet.ofWords (ctl thr rest leak adapt key : Word) : PSet :=
  { model := bf ctl 0 2, carry := bitAt ctl 2, emit := bitAt ctl 3, inShift := bf ctl 4 4, refract := bf ctl 8 8,
    gOut := bf ctl 16 8, valid := bitAt ctl 31, theta := sgn 24 (bf thr 0 24), vReset := sgn 24 (bf thr 32 24),
    vRest := sgn 24 (bf rest 0 24), vdRest := sgn 24 (bf rest 32 24), av := bf leak 0 16, aa := bf leak 16 16,
    ad := bf leak 32 16, gc := bf leak 48 16, aInc := bf adapt 0 16, vdQuiet := bf adapt 16 24, key := bf key 0 32 }

/-- R264: parameter set `i` of kiln `k`. -/
def State.pset (s : State) (k : Fin 6) (i : Nat) : PSet :=
  let r := fun o => s.reg (PG.lat k) o
  PSet.ofWords (r (R.PS_CTL i)) (r (R.PS_THR i)) (r (R.PS_REST i)) (r (R.PS_LEAK i)) (r (R.PS_ADAPT i)) (r (R.PS_KEY i))

/-- R265: PSET_WHY of a set, 0 where it passes. -/
def PSet.why (p : PSet) : Nat :=
  if !p.valid then 0
  else if p.model = 3 then 1
  else if p.gOut = 0 ∨ p.av = 0 ∨ (p.model = 1 ∧ (p.aa = 0 ∨ p.aInc = 0)) ∨
      (p.model = 2 ∧ (p.ad = 0 ∨ p.gc = 0 ∨ p.vdQuiet = 0)) then 2
  else if p.theta ≤ p.vReset then 3
  else if p.carry ∧ 0 < p.refract then 4
  else 0

/-- R265: the first failing set and why. -/
def State.psetBad (s : State) (k : Fin 6) : Option (Nat × Nat) :=
  ((List.range 256).find? fun i => (s.pset k i).why != 0).map fun i => (i, (s.pset k i).why)

/-! ### Records (R263, R269) -/

/-- R263, R269: the 20-bit sum of slot `j` of a record and its extension word. -/
def slotSum (rd ext j : Nat) : Nat := nfld rd (128 + 16 * j) 16 + (nfld ext (4 * j) 4) <<< 16

/-- R263: the record and extension word with the sum of slot `j` replaced. -/
def slotPut (rd ext j v : Nat) : Nat × Nat :=
  (nput rd (128 + 16 * j) 16 v, nput ext (4 * j) 4 (v >>> 16))

/-- R282: base address and size in bytes of a shelf region. -/
def State.shelfRegion (s : State) (k : Fin 6) (off : Nat) : Nat × Nat :=
  (shelfBase k + 4096 * s.fld (PG.shf k) off 0 13, 4096 * s.fld (PG.shf k) off 32 13)

/-- R283: address of a neuron's record. -/
def State.neuronAddr (s : State) (k : Fin 6) (n : Nat) : Nat := (s.shelfRegion k R.SHF_NEURON).1 + 48 * n

/-- R283: address of a neuron's extension word. -/
def State.annxAddr (s : State) (k : Fin 6) (n : Nat) : Nat := (s.shelfRegion k R.SHF_ANNX).1 + 8 * n

/-- R279: a skipped access. -/
def State.neuronBad (s : State) (k : Fin 6) (n : Nat) : State :=
  ((s.bump (PG.lat k) R.LAT_CNT3 16 16).logInfo2 (PG.lat k) n).irq (PG.lat k) 1

/-- R279: a neuron's record and extension word, unless the neuron is skipped: one whose access meets an uncorrectable word, from
then on until its record has been written whole. -/
def State.neuronRead (s : State) (k : Fin 6) (n : Nat) : Option (Nat × Nat) × State :=
  let (a, s) := s.readBytes (s.neuronAddr k n) 48
  let (b, s) := s.readBytes (s.annxAddr k n) 8
  if a.bad || b.bad then (none, (s.latUpd k fun l => { l with skip := Sp.set 0 l.skip n 0xFFF }).neuronBad k n)
  else if Sp.get 0 (s.lat.get k).skip n ≠ 0 then (none, s.neuronBad k n)
  else (some (leNat a.bytes, leNat b.bytes), s)

/-- R279: `n` bytes from `a` on have been written through the shelf window or by a load: a record written whole is skipped no
more. -/
def State.shelfTouch (s : State) (k : Fin 6) (a n : Nat) : State :=
  let left := fun (e : Nat × Nat) => (List.range 12).foldl (fun m i =>
    let b := s.neuronAddr k e.1 + 4 * i
    if e.2.testBit i && !(decide (a ≤ b) && decide (b + 4 ≤ a + n)) then m + 2 ^ i else m) 0
  s.latUpd k fun l => { l with skip := (l.skip.map fun e => (e.1, left e)).filter fun e => e.2 != 0 }

/-- R38, R427: the same for a write of any memory. -/
def State.memTouch (s : State) (a n : Nat) : State :=
  match shelfOf a n with
  | none => s
  | some k => s.shelfTouch ⟨k % 6, Nat.mod_lt _ (by decide)⟩ a n

/-- R272: the whole record and extension word written. -/
def State.neuronWrite (s : State) (k : Fin 6) (n : Nat) (x : Nat × Nat) : State :=
  (s.writeNat none (s.neuronAddr k n) 48 x.1).writeNat none (s.annxAddr k n) 8 x.2

/-- What stands stored at an address, without an access; never-written bytes are free values. -/
def State.peekNat (s : State) (a n : Nat) : Nat :=
  leNat ((List.range n).map fun j => (s.mem.byte? (a + j)).getD (Config.freeByte s.free (a + j)))

/-- R271: the neuron is visited at step `c`: its slot holds a sum, or SELF is set. -/
def State.scheduled (s : State) (k : Fin 6) (n c : Nat) : Bool :=
  let rd := s.peekNat (s.neuronAddr k n) 48
  let ext := s.peekNat (s.annxAddr k n) 8
  slotSum rd ext (c % 16) != 0 || rd.testBit 81

/-- R279: a neuron that every access skips, without an access. -/
def State.neuronFaulty (s : State) (k : Fin 6) (n : Nat) : Bool :=
  Sp.get 0 (s.lat.get k).skip n != 0 || isBad (Sp.find s.mem.errs (s.annxAddr k n))
    || (List.range 6).any fun i => isBad (Sp.find s.mem.errs (s.neuronAddr k n + 8 * i))

/-- R319: the key under which a contribution waits: course, slot, arrival step. -/
def aheadKey (c : Fin 16) (n a : Nat) : Nat := (c.val * 2 ^ 19 + n) * 2 ^ 24 + a

/-- R319: a contribution waits until the slot of its arrival step has served the step 16 before. -/
def State.aheadAdd (s : State) (k : Fin 6) (n a : Nat) (c : Int) : State :=
  s.latUpd k fun l =>
    let i := aheadKey l.resident n a
    { l with ahead := Sp.set 0 l.ahead i (low 20 (((Sp.get 0 l.ahead i : Nat) : Int) + c)) }

/-- R268, R269, R319: a contribution joins the slot of arrival step `a`, or waits where that slot has a step left to serve that
a slip has undone. -/
def State.slotAdd (s : State) (k : Fin 6) (n a : Nat) (c : Int) : State :=
  match s.neuronRead k n with
  | (none, s) => s
  | (some (rd, ext), s) =>
    let l := s.lat.get k
    if 15 < sdiff 24 a (l.next.get l.resident) then s.aheadAdd k n a c
    else
      let j := a % 16
      s.neuronWrite k n (slotPut rd ext j (low 20 ((slotSum rd ext j : Int) + c)))

/-- R319: step `c` has been served: contributions that waited for that join the slots of step `c + 16`. -/
def State.unpark (s : State) (k : Fin 6) (c : Nat) : State :=
  let l := s.lat.get k
  let a := step24 c 16
  let mine := fun (e : Nat × Nat) => e.1 % 2 ^ 24 == a && e.1 / 2 ^ 43 == l.resident.val
  (l.ahead.filter mine).foldl (fun s e => s.slotAdd k (e.1 / 2 ^ 24 % 2 ^ 19) a e.2)
    (s.latUpd k fun x => { x with ahead := x.ahead.filter fun e => !mine e })

/-- R319: step `c` is to be undone: what its slots have gathered since is for step `c + 16` and waits. -/
def State.parkStep (s : State) (k : Fin 6) (c : Nat) : State :=
  (List.range (s.fld (PG.lat k) R.LAT_CTL 0 19)).foldl (fun s n =>
    let rd := s.peekNat (s.neuronAddr k n) 48
    let ext := s.peekNat (s.annxAddr k n) 8
    let v := slotSum rd ext (c % 16)
    if v = 0 || s.neuronFaulty k n then s
    else (s.neuronWrite k n (slotPut rd ext (c % 16) 0)).aheadAdd k n (step24 c 16) v) s

/-! ### One step of a neuron (R272 to R276) -/

/-- R272: what a visit leaves. -/
structure Visit where
  rd : Nat
  ext : Nat
  fired : Bool
  overdrive : Bool
  refrDrop : Bool
  /-- clamps of V and VD (R266) -/
  sat : Nat
  deriving DecidableEq, Repr

/-- R266: sat24 with whether it clamped. -/
def sat24 (x : Int) : Int × Nat := (satS 24 x, if satS 24 x = x then 0 else 1)

/-- R272: one visit at step `c`. -/
def visit (p : PSet) (rd ext c : Nat) : Visit :=
  let j := c % 16
  let lu := nfld rd 56 24
  let r := nfld rd 40 8
  let m := low 24 ((c : Int) - lu)
  let blocked := decide (m ≤ r)
  let a : Int := if p.model = 1 then decay (nfld rd 24 16) p.aa lu c else (nfld rd 24 16 : Nat)
  let raw := roundEven (sgn 20 (slotSum rd ext j)) (2 ^ p.inShift)
  let vd0 := sgn 24 (nfld rd 96 24)
  let (vd, n1) := if p.model = 2 then sat24 (p.vdRest + decay (vd0 - p.vdRest) p.ad lu c + raw) else (vd0, 0)
  let inp := if p.model = 2 then mulr p.gc (vd - p.vdRest) else raw
  let v0 := sgn 24 (nfld rd 0 24)
  let (v, n2) := if blocked then (p.vReset, 0)
    else sat24 (p.vRest + decay (v0 - p.vRest) p.av ((lu + r) % 2 ^ 24) c + inp)
  let theta := satS 24 (p.theta + a)
  let fire := !blocked && (rd.testBit 80 || decide (theta ≤ v))
  let e := max (v - theta) 0
  let cap := theta - p.vReset
  let od := fire && decide (cap ≤ e)
  let v' := if !fire then v else if p.carry then p.vReset + min e cap else p.vReset
  let carry := fire && p.carry && decide (cap ≤ e)
  let a' := if fire && p.model == 1 then satU 16 (a + p.aInc) else satU 16 a
  let refr := if fire then p.refract else r - m
  let quiet := p.model != 2 || decide ((vd - p.vdRest).natAbs < p.vdQuiet)
  let vd' := if p.model = 2 ∧ quiet then p.vdRest else vd
  let (rd, ext) := slotPut rd ext j 0
  let rd := nput (nput (nput rd 0 24 (low 24 v')) 24 16 a') 40 8 refr
  let rd := nput (nput rd 56 24 c) 80 2 (b2n carry + b2n (carry || !quiet) <<< 1)
  { rd := nput rd 96 24 (low 24 vd'), ext, fired := fire, overdrive := od, refrDrop := blocked && inp != 0,
    sat := n1 + n2 }

/-! ### Count windows (R327, R328) -/

/-- R327, R328: kiln `k` keeps count windows. -/
def State.cwOn (s : State) (k : Fin 6) : Bool :=
  s.bit (PG.spk 7) R.CW_CTL 48 && s.bit (PG.kln k) R.KLN_CW_MAP 44 && s.fld (PG.spk 7) R.CW_CTL 0 24 != 0

/-- R327: steps of a window. -/
def State.cwLen (s : State) : Nat := s.fld (PG.spk 7) R.CW_CTL 0 24

/-- R327: first step of window `w`. -/
def State.cwFirst (s : State) (w : Nat) : Nat := (s.fld (PG.spk 7) R.CW_CTL 24 24 + w * s.cwLen) % 2 ^ 24

/-- R327: the window of a step; none before window 0, or where the kiln keeps none. -/
def State.cwOf (s : State) (k : Fin 6) (c : Nat) : Option Nat :=
  if !s.cwOn k then none
  else
    let w : Int := ((s.lat.get k).cw : Int) + sdiff 24 c (s.cwFirst (s.lat.get k).cw) / (s.cwLen : Int)
    if w < 0 then none else some w.toNat

/-- R329: a mark on a window of a kiln. -/
def State.cwMark (s : State) (k : Fin 6) (w m : Nat) : State :=
  s.latUpd k fun l => { l with marks := Sp.set 0 l.marks w (Sp.get 0 l.marks w ||| m) }

/-- R329: a mark on the window of a step. -/
def State.cwMarkStep (s : State) (k : Fin 6) (c m : Nat) : State :=
  match s.cwOf k c with
  | none => s
  | some w => s.cwMark k w m

/-- R330: a mark on the windows that are open. -/
def State.cwMarkOpen (s : State) (k : Fin 6) (m : Nat) : State :=
  if s.cwOn k then (s.cwMark k (s.lat.get k).cw m).cwMark k ((s.lat.get k).cw + 1) m else s

/-- R285: first virtual ID and number of IDs of a course. -/
def State.crsIds (s : State) (k : Fin 6) (c : Fin 16) : Nat × Nat :=
  (s.fld (PG.kln k) (R.CRS_IDS c) 0 20, s.fld (PG.kln k) (R.CRS_IDS c) 32 20)

/-- R328, R318: a firing of neuron `n` at step `c` joins its counter, or is taken back. -/
def State.cwCount (s : State) (k : Fin 6) (n c : Nat) (back : Bool) : State :=
  match s.cwOf k c with
  | none => s
  | some w =>
    let map := s.reg (PG.kln k) R.KLN_CW_MAP
    let id := (s.crsIds k (s.lat.get k).resident).1 + n
    if id < bf map 0 20 ∨ bf map 20 20 < id then s
    else
      let i := (id - bf map 0 20) >>> bf map 40 4
      let b : Fin 2 := ⟨w % 2, Nat.mod_lt _ (by decide)⟩
      let v := Sp.get 0 ((s.lat.get k).banks.get b) i
      let put := fun (s : State) x => s.latUpd k fun l => { l with banks := vupd l.banks b fun m => Sp.set 0 m i x }
      if back then put s (v - 1)
      else if v = 2 ^ 32 - 1 then s.cwMark k w 8
      else put s (v + 1)

/-! ### Packets leaving the kiln (R275, R318, R477) -/

/-- R275, R477: a packet leaves the kiln for its router; one that meets a router in reset is lost. -/
def State.kilnSend (s : State) (k : Fin 6) (p : Packet) : State :=
  let s := if p.cancel then s.bump (PG.lat k) R.LAT_CANCEL_CNT 0 32 else s
  if s.alive (PG.spk k) then s.latUpd k fun l => { l with out := l.out ++ [p] }
  else (s.bump (PG.spk k) R.SPK_CNT1 32 32).cwMarkOpen k 4

/-- R275, R285: the packet of a firing of lattice slot `n` at step `c`. -/
def State.firePacket (s : State) (k : Fin 6) (p : PSet) (n c epoch : Nat) (cancel : Bool) : Packet :=
  { key := (p.key + (s.crsIds k (s.lat.get k).resident).1 + n) % 2 ^ 32, step := c % 65536, value := p.gOut, epoch,
    cancel, src := k.val, cone := s.fld (PG.spk 7) R.MODE_STS 0 3 == 1 }

/-! ### The undo journal (R314, R315) -/

/-- R314: entries of the journal (GT_JOURNAL). -/
def journalEntries : Nat := 131072

/-- R314: address of journal entry number `i`. -/
def State.journalAddr (s : State) (k : Fin 6) (i : Nat) : Nat :=
  (s.shelfRegion k R.SHF_JOURNAL).1 + 16 * (i % journalEntries)

/-- LAT_WHL.JLEVEL: entries held. -/
def LatState.jlevel (l : LatState) : Nat :=
  match l.spec with
  | [] => 0
  | x :: _ => l.jnext - x.first

/-- R314: the update entry of a visit: the record as it stood. -/
def updateEntry (rd ext n c : Nat) (fired vdFollows : Bool) : Nat :=
  let j := c % 16
  n + b2n fired <<< 19 + b2n vdFollows <<< 20 + j <<< 21 + (slotSum rd ext j) <<< 25 + (nfld rd 0 24) <<< 45
    + (nfld rd 24 16) <<< 69 + (nfld rd 40 8) <<< 85 + (nfld rd 56 24) <<< 93 + (nfld rd 80 1) <<< 117
    + (nfld rd 81 1) <<< 118 + (c % 128) <<< 119

/-- R314: the VD entry of a visit. -/
def vdEntry (rd n c : Nat) : Nat := n + (nfld rd 96 24) <<< 19 + (c % 128) <<< 119 + 1 <<< 126

/-- R312: the speculative steps that a course holds: those above its floor. -/
def LatState.specHeld (l : LatState) : List SpecStep :=
  l.spec.filter fun e => decide (0 < sdiff 24 e.step (l.floor.get l.resident))

/-- One entry appended to the journal. -/
def State.journalPut (s : State) (k : Fin 6) (e : Nat) : State :=
  let s := s.writeNat none (s.journalAddr k (s.lat.get k).jnext) 16 e
  s.latUpd k fun l => { l with jnext := l.jnext + 1 }

/-- R318: one journal entry undone; the entry's own step and epoch. -/
def State.undoEntry (s : State) (k : Fin 6) (i : Nat) (x : SpecStep) : State :=
  let (e, _, s) := s.readNat (s.journalAddr k i) 16
  let n := nfld e 0 19
  match s.neuronRead k n with
  | (none, s) => s
  | (some (rd, ext), s) =>
    if nfld e 126 2 = 1 then s.neuronWrite k n (nput rd 96 24 (nfld e 19 24), ext)
    else
      let (r, t) := slotPut rd ext (nfld e 21 4) (nfld e 25 20)
      let r := nput (nput (nput r 0 24 (nfld e 45 24)) 24 16 (nfld e 69 16)) 40 8 (nfld e 85 8)
      let r := nput (nput r 56 24 (nfld e 93 24)) 80 2 (nfld e 117 2)
      let s := s.neuronWrite k n (r, t)
      if nfld e 19 1 = 1 then
        let s := s.cwCount k n x.step true
        let p := s.pset k (nfld rd 48 8)
        if p.emit then s.kilnSend k (s.firePacket k p n x.step x.epoch true) else s
      else s

/-- R318: entries from number `a` on undone, newest first, `m` of them. -/
def State.undoEntries (s : State) (k : Fin 6) (a : Nat) (x : SpecStep) : Nat → State
  | 0 => s
  | m + 1 => (s.undoEntry k (a + m) x).undoEntries k a x m

/-- R318, R319: speculative steps from `a` on undone, newest first. -/
def State.undoSteps (s : State) (k : Fin 6) (a : Nat) : List SpecStep → State
  | [] => s
  | x :: r =>
    let s := s.undoSteps k a r
    if sdiff 24 x.step a < 0 then s
    else
      let l := s.lat.get k
      let s := if sdiff 24 x.step (l.next.get l.resident) < 0 then s.parkStep k x.step else s
      let s := s.undoEntries k x.first x ((s.lat.get k).jnext - x.first)
      s.latUpd k fun l => { l with jnext := x.first, spec := l.spec.dropLast }

/-! ### Synapse rows (R277, R278) -/

/-- R278: a synapse found: lattice slot, delay, signed weight shifted by WSHIFT. -/
structure Synapse where
  slot : Nat
  delay : Nat
  w : Int
  deriving DecidableEq, Repr

/-- R278: the address lies in HBM or in the kiln's ROWS region. -/
def State.rowPlace (s : State) (k : Fin 6) (a : Nat) : Bool :=
  let (b, n) := s.shelfRegion k R.SHF_ROWS
  s.inHbm a 64 || (decide (b ≤ a) && decide (a + 64 ≤ b + n))

/-- R278: a faulty row or segment is counted and its address logged. -/
def State.rowFault (s : State) (k : Fin 6) (a : Nat) (poison : Bool) : State :=
  let s := s.logInfo1 (PG.lat k) a
  if poison then (s.bump (PG.lat k) R.LAT_CNT3 0 16).irq (PG.lat k) 1 else s.bump (PG.lat k) R.LAT_CNT3 48 16

/-- R277, R278: the synapses of one segment's words. -/
def State.rowWords (s : State) (k : Fin 6) (c : Fin 16) (shift : Nat) : List Byte → Nat → List Synapse × State
  | bs, n + 1 =>
    let x := leNat (bs.take 4)
    let (id, cnt) := s.crsIds k c
    let t := nfld x 12 20
    if id ≤ t ∧ t < id + cnt then
      let (l, s) := s.rowWords k c shift (bs.drop 4) n
      ({ slot := t - id, delay := nfld x 8 4, w := sgn 8 (nfld x 0 8) * 2 ^ shift } :: l, s)
    else (s.bump (PG.lat k) R.LAT_CNT2 32 16).rowWords k c shift (bs.drop 4) n
  | _, 0 => ([], s)

/-- R277, R278: the synapses of the segments after the first, `n` words still to come. -/
def State.rowSegs (s : State) (k : Fin 6) (c : Fin 16) (shift : Nat) : Nat → Nat → Nat → List Synapse × State
  | 0, _, _ => ([], s)
  | f + 1, a, n =>
    if n = 0 then ([], s)
    else
      let m := min n 16
      let (r, s) := s.readBytes a 64
      let (l, s) := if r.bad then ([], s.rowFault k a true) else s.rowWords k c shift r.bytes m
      let (l', s) := s.rowSegs k c shift f (a + 64) (n - m)
      (l ++ l', s)

/-- R277, R278: the synapses of a row and of its continuations; a row met twice ends the chain. -/
def State.rowChain (s : State) (k : Fin 6) (c : Fin 16) (key : Nat) : Nat → List Nat → Nat → List Synapse × State
  | 0, _, _ => ([], s)
  | f + 1, seen, a =>
    let (r, s) := s.readBytes a 64
    let s := s.bump (PG.lat k) R.LAT_CNT1 32 32
    if r.bad then ([], s.rowFault k a true)
    else
      let h := leNat (r.bytes.take 16)
      let cnt := nfld h 0 11
      let shift := nfld h 20 3
      let nxt := nfld h 64 40
      if nfld h 32 32 ≠ key ∨ 4 < shift ∨ 1024 < cnt ∨ (nxt ≠ 0 ∧ (nxt % 64 ≠ 0 ∨ !s.rowPlace k nxt)) ∨
          nfld h 16 4 ≠ c.val then ([], s.rowFault k a false)
      else
        let s := if cnt = 0 then s.bump (PG.lat k) R.LAT_CNT3 32 16 else s
        let (l, s) := s.rowWords k c shift (r.bytes.drop 16) (min cnt 12)
        let (l', s) := s.rowSegs k c shift 64 (a + 64) (cnt - 12)
        let (l'', s) := if nxt = 0 ∨ seen.contains nxt then ([], s) else s.rowChain k c key f (nxt :: seen) nxt
        (l ++ l' ++ l'', s)

/-- R278: the synapses that a spike's row and its continuations hold. -/
def State.rowSynapses (s : State) (k : Fin 6) (b : BufPkt) : List Synapse × State :=
  s.rowChain k (s.lat.get k).resident b.pkt.key (2 ^ 30) [b.row] b.row

/-- R268, R269: the synapses' contributions join their slots, or are taken back; SYN counts in units of 2^16. -/
def State.applySynapses (s : State) (k : Fin 6) (b : BufPkt) (back : Bool) (l : List Synapse) : State :=
  let s := l.foldl (fun s y =>
    let c := y.w * (b.pkt.value : Int)
    s.slotAdd k y.slot (step24 b.step (1 + y.delay)) (if back then -c else c)) s
  let n := (s.lat.get k).syn + l.length
  (s.addCnt (PG.lat k) R.LAT_CNT1 0 32 (n / 65536)).latUpd k fun x => { x with syn := n % 65536 }

/-- R278: a spike is applied. -/
def State.applySpike (s : State) (k : Fin 6) (b : BufPkt) (back : Bool) : State :=
  let (l, s) := s.rowSynapses k b
  s.applySynapses k b back l

/-! ### Steps of a course (R271, R310 to R312) -/

/-- R324: STATE of the floor unit: 0 OFF, 1 CONE, 2 WHEEL, 3 DRAIN. -/
def State.mode (s : State) : Nat := s.fld (PG.spk 7) R.MODE_STS 0 3

/-- R302: steps' length in ticks. -/
def State.ingLen (s : State) : Nat := s.fld (PG.spk 6) R.ING_STEP 0 32

/-- R302: the step that contains a tick (counted from DTC 0), before it is taken modulo 2^24. -/
def State.stepOfTick (s : State) (t : Int) : Int := (t - s.spk.origin) / (s.ingLen : Int)

/-- R47: ticks since DTC 0. -/
def State.nowTick (s : State) : Int := ((s.dtc.toNat * 2 / 125 : Nat) : Int)

/-- R302: the tick at which step `c` starts, judged against the step current at the DTC. -/
def State.stepStart (s : State) (c : Nat) : Int :=
  let cur := s.stepOfTick s.nowTick
  s.spk.origin + (cur + sdiff 24 c (low 24 cur)) * (s.ingLen : Int)

/-- R284: courses of a kiln. -/
def State.courses (s : State) (k : Fin 6) : Nat := s.fld (PG.kln k) R.KLN_CTL 0 5

/-- R284: the courses below COURSES. -/
def State.courseList (s : State) (k : Fin 6) : List (Fin 16) := (List.finRange 16).filter fun c => decide (c.val < s.courses k)

/-- The kilns whose LAT page is enabled. -/
def State.kilns (s : State) : List (Fin 6) := (List.finRange 6).filter fun k => s.enabled (PG.lat k)

/-- R309: kiln `j`'s course `e` names kiln `k`, or its course `c` where they share the kiln. -/
def State.names (s : State) (j : Fin 6) (e : Fin 16) (k : Fin 6) (c : Fin 16) : Bool :=
  if j = k then e != c && s.bit (PG.kln j) (R.KLN_SRC e) (16 + c.val) else s.bit (PG.kln j) (R.KLN_SRC e) (8 + k.val)

/-- R324: lattice steps of a Cone step. -/
def State.coneLen (s : State) : Nat := 16 * s.fld (PG.spk 7) R.CONE_CTL 0 16 / s.ingLen

/-- R311: the resident course may start the update phase of its next step. -/
def State.mayStart (s : State) (k : Fin 6) : Bool :=
  let l := s.lat.get k
  let c := l.resident
  let n := l.next.get c
  let f := l.floor.get c
  let run : Nat := if s.mode = 2 ∧ s.courses k ≤ 1 then s.fld (PG.spk 7) R.WHL_CTL 1 7 else 0
  s.running (PG.lat k) && l.swap.isNone && s.mode != 0 && s.alive (PG.spk 7)
    && decide (sdiff 24 n f ≤ (run : Int))
    && (decide (s.courses k ≤ 1) || decide (l.ran < s.fld (PG.kln k) R.KLN_CTL 8 16))
    && decide (s.stepStart n + 16 * s.fld (PG.spk 7) R.WHL_CTL 16 16 ≤ s.nowTick)
    && (match s.cwOf k n with | none => true | some w => decide (w < l.cw + 2))
    && (s.kilns.all fun j => (s.courseList j).all fun e =>
          !s.names j e k c || decide (sdiff 24 n ((s.lat.get j).next.get e) < 16384))
    && (s.mode != 1 || (decide (0 ≤ sdiff 24 n s.spk.cone) && decide (sdiff 24 n s.spk.cone < (s.coneLen : Int))))
    && (s.mode != 3 || (match s.spk.drainTo with | none => true | some b => decide (sdiff 24 n b < 0)))

/-- R264, R272, R279, R314: one neuron is visited at step `c`; `spec` tells that the step lies above the floor. -/
def State.neuronVisit (s : State) (k : Fin 6) (n c : Nat) (spec : Bool) : State :=
  let pg := PG.lat k
  match s.neuronRead k n with
  | (none, s) => s
  | (some (rd, ext), s) =>
    let p := s.pset k (nfld rd 48 8)
    let s := s.bump pg R.LAT_CNT0 32 32
    if !p.valid then
      let s := if spec then s.journalPut k (updateEntry rd ext n c false false) else s
      (s.neuronWrite k n (slotPut rd ext (c % 16) 0)).bump pg R.LAT_CNT2 48 16
    else
      let v := visit p rd ext c
      let s := if spec then
          let s := s.journalPut k (updateEntry rd ext n c v.fired (p.model == 2))
          if p.model = 2 then s.journalPut k (vdEntry rd n c) else s
        else s
      let s := s.neuronWrite k n (v.rd, v.ext)
      let s := s.addCnt pg R.LAT_CNT2 16 16 v.sat
      let s := if v.refrDrop then s.bump pg R.LAT_CNT2 0 16 else s
      let s := if v.overdrive then s.bumpIrq0 pg R.LAT_OVERDRIVE 0 32 2 else s
      if v.fired then
        let s := (s.bump pg R.LAT_CNT0 0 32).cwCount k n c false
        if p.emit then s.kilnSend k (s.firePacket k p n c (s.lat.get k).epoch false) else s
      else s

/-- R279, R314: entries that a visit of the neuron writes at a speculative step. -/
def State.visitEntries (s : State) (k : Fin 6) (n : Nat) : Nat :=
  let p := s.pset k (nfld (s.peekNat (s.neuronAddr k n) 48) 48 8)
  if s.neuronFaulty k n then 0 else if p.valid && p.model == 2 then 2 else 1

/-- R315: the journal can take the entries of a visit. -/
def State.journalRoom (s : State) (k : Fin 6) (n : Nat) : Bool :=
  decide ((s.lat.get k).jlevel + s.visitEntries k n ≤ journalEntries)

/-- R271: the update phase of step `c` from slot `n` on, `m` slots still to come; the answer is the slot that waits for a
journal entry (R315). -/
def State.updatePhase (s : State) (k : Fin 6) (c : Nat) : Nat → Nat → Option Nat × State
  | 0, _ => (none, s)
  | m + 1, n =>
    if !s.scheduled k n c then s.updatePhase k c m (n + 1)
    else
      let spec := decide (0 < sdiff 24 c ((s.lat.get k).floor.get (s.lat.get k).resident))
      if spec && !s.journalRoom k n then (some n, s)
      else (s.neuronVisit k n c spec).updatePhase k c m (n + 1)

/-- R323: `a` is applied before `b` in Cone mode, by KEY, then SRC. -/
def keyBefore (a b : Packet) : Bool := decide (a.key < b.key) || (a.key == b.key && decide (a.src < b.src))

/-- Stable insertion by a strict order. -/
def insertBy {α : Type} (before : α → α → Bool) (b : α) : List α → List α
  | [] => [b]
  | x :: r => if before b x then b :: x :: r else x :: insertBy before b r

/-- R323: spikes in the order in which Cone mode takes them, by step, KEY and SRC; in any other mode as they came. -/
def State.coneOrder (s : State) (l : List BufPkt) : List BufPkt :=
  let before := fun (a b : BufPkt) => decide (sdiff 24 a.step b.step < 0) || (a.step == b.step && keyBefore a.pkt b.pkt)
  if s.mode = 1 then l.foldl (fun l b => insertBy before b l) [] else l

/-- R271, R323: the buffered spikes of step `c` are applied. -/
def State.applyPhase (s : State) (k : Fin 6) (c : Nat) : State :=
  let mine := (s.lat.get k).buf.filter fun b => b.step == c
  let order := s.coneOrder mine
  let s := s.latUpd k fun l => { l with buf := l.buf.filter fun b => b.step != c }
  order.foldl (fun s b => s.applySpike k b false) s

/-- R315: the visit that waits for a journal entry is counted, once. -/
def State.journalWait (s : State) (k : Fin 6) : State :=
  match (s.lat.get k).run with
  | none => s
  | some r => if r.counted || decide (s.fld (PG.lat k) R.LAT_CTL 0 19 ≤ r.slot) then s
    else (s.bump (PG.lat k) R.LAT_SLIP_CNT1 32 16).latUpd k fun l => { l with run := some { r with counted := true } }

/-- R317: the last update phase that the resident course has begun. -/
def State.lastBegun (s : State) (k : Fin 6) : Nat :=
  let l := s.lat.get k
  let n := l.next.get l.resident
  if l.run.isSome then n else step24 n (-1)

/-! ### Leak sweep (R281) -/

/-- R281: a record decayed to step `m`, a multiple of 2^20. -/
def leakRecord (p : PSet) (rd m : Nat) : Nat :=
  let lu := nfld rd 56 24
  let r := nfld rd 40 8
  let d := low 24 ((m : Int) - lu)
  let v0 := sgn 24 (nfld rd 0 24)
  let v := if d ≤ r then v0 else satS 24 (p.vRest + decay (v0 - p.vRest) p.av ((lu + r) % 2 ^ 24) m)
  let a : Int := if p.model = 1 then decay (nfld rd 24 16) p.aa lu m else (nfld rd 24 16 : Nat)
  let vd0 := sgn 24 (nfld rd 96 24)
  let vd := if p.model = 2 then satS 24 (p.vdRest + decay (vd0 - p.vdRest) p.ad lu m) else vd0
  let rd := nput (nput (nput rd 0 24 (low 24 v)) 24 16 (satU 16 a)) 40 8 (r - d)
  nput (nput rd 56 24 m) 96 24 (low 24 vd)

/-- R281: the leak sweep visits one neuron of the resident course. -/
def State.leakVisit (s : State) (k : Fin 6) : State :=
  let l := s.lat.get k
  let n := s.fld (PG.lat k) R.LAT_CTL 0 19
  if !(s.alive (PG.lat k) && s.enabled (PG.lat k)) || n = 0 || l.swap.isSome then s
  else
    let i := l.sweep % n
    let s := s.latUpd k fun x => { x with sweep := (i + 1) % n }
    let f := step24 (l.floor.get l.resident) (-1)
    match s.neuronRead k i with
    | (none, s) => s
    | (some (rd, ext), s) =>
      let p := s.pset k (nfld rd 48 8)
      let m := f / 2 ^ 20 * 2 ^ 20
      if p.valid ∧ 2 ^ 20 ≤ sdiff 24 f (nfld rd 56 24) ∧ rd >>> 128 = 0 ∧ ext = 0 then
        s.neuronWrite k i (leakRecord p rd m, ext)
      else s

/-! ### Courses (R284 to R289, R308, R313) -/

/-- R284: the region registers in ascending order. -/
def shelfRegs : List Nat :=
  [R.SHF_NEURON, R.SHF_ANNX, R.SHF_JOURNAL, R.SHF_ROWS, R.SHF_WEIGHTS, R.SHF_LINE, R.SHF_MAPS]

/-- A copy of `n` 32-byte words; a poisoned word stays poisoned (R460). -/
def State.copyWords (s : State) (src dst : Nat) : Nat → State
  | 0 => s
  | n + 1 =>
    let (r, s) := s.readBytes src 32
    (s.writePoisoned none dst r.bytes r.bad).copyWords (src + 32) (dst + 32) n

/-- R286, R287: the regions of a course, packed in ascending order: address and size in the shelf, offset in the save area. -/
def State.crsRegions (s : State) (k : Fin 6) (c : Fin 16) : List (Nat × Nat × Nat) :=
  let on := (List.range 7).filter fun i => s.bit (PG.kln k) (R.CRS_CTL c) (16 + i)
  (on.foldl (fun (a : Nat × List (Nat × Nat × Nat)) i =>
    let (b, n) := s.shelfRegion k (shelfRegs.getD i 0)
    (a.1 + n, a.2 ++ [(b, n, a.1)])) (0, [])).2

/-- R288: entries that an inbox holds. -/
def State.inboxLevel (s : State) (k : Fin 6) (c : Fin 16) : Nat :=
  (s.lat.get k).inTail.get c - (s.lat.get k).inHead.get c

/-- R288: entries that an inbox has room for. -/
def State.inboxRoom (s : State) (k : Fin 6) (c : Fin 16) : Nat :=
  s.fld (PG.kln k) (R.CRS_INBOX_SIZE c) 0 21 - s.inboxLevel k c

/-- R288: address of inbox entry number `i`. -/
def State.inboxAddr (s : State) (k : Fin 6) (c : Fin 16) (i : Nat) : Nat :=
  (s.reg (PG.kln k) (R.CRS_INBOX c)).toNat + 16 * (i % s.fld (PG.kln k) (R.CRS_INBOX_SIZE c) 0 21)

/-- R323: newest inbox entries of a course that Cone mode's order puts behind a spike: of a later step, or of its step with a
greater KEY. -/
def State.inboxBehind (s : State) (k : Fin 6) (c : Fin 16) (b : BufPkt) : Nat :=
  if s.mode ≠ 1 then 0
  else ((List.range (s.inboxLevel k c)).takeWhile fun j =>
    let e := s.peekNat (s.inboxAddr k c ((s.lat.get k).inTail.get c - 1 - j)) 16
    let d := sdiff 24 b.step (nfld e 32 24)
    decide (d < 0) || (d == 0 && decide (b.pkt.key < nfld e 0 32))).length

/-- R323: the `m` inbox entries below number `i` move up by one place; a poisoned one stays poisoned. -/
def State.inboxShift (s : State) (k : Fin 6) (c : Fin 16) (i : Nat) : Nat → State
  | 0 => s
  | m + 1 =>
    let (r, s) := s.readBytes (s.inboxAddr k c (i - 1)) 16
    (s.writePoisoned none (s.inboxAddr k c i) r.bytes r.bad).inboxShift k c (i - 1) m

/-- R288, R323: a spike is written to a course's inbox, in Cone mode at its place in the order of KEY. -/
def State.inboxPut (s : State) (k : Fin 6) (c : Fin 16) (b : BufPkt) : State :=
  let i := (s.lat.get k).inTail.get c
  let m := s.inboxBehind k c b
  let e := b.pkt.key + b.step <<< 32 + b.pkt.value <<< 56 + b.pkt.epoch <<< 64 + (nfld b.row 0 40) <<< 72
  let s := s.inboxShift k c i m
  (s.writeNat none (s.inboxAddr k c (i - m)) 16 e).latUpd k fun l => { l with inTail := l.inTail.set c (i + 1) }

/-- R288: the oldest inbox entry is taken; one that reads poisoned is lost. -/
def State.inboxTake (s : State) (k : Fin 6) (c : Fin 16) : Option BufPkt × State :=
  let i := (s.lat.get k).inHead.get c
  let (e, bad, s) := s.readNat (s.inboxAddr k c i) 16
  let s := s.latUpd k fun l => { l with inHead := l.inHead.set c (i + 1) }
  let step := nfld e 32 24
  if bad then (none, s.cwMarkOpen k 4)
  else (some { pkt := { key := nfld e 0 32, step := step % 65536, value := nfld e 56 8, epoch := nfld e 64 8,
                        cancel := false, src := 0 }, step, row := nfld e 72 40 }, s)

/-- R313: the kiln swaps its resident course out. -/
def State.maySwap (s : State) (k : Fin 6) : Bool :=
  let l := s.lat.get k
  let c := l.resident
  let n := l.next.get c
  let f := l.floor.get c
  s.running (PG.lat k) && decide (1 < s.courses k) && l.swap.isNone && l.run.isNone && l.spec.isEmpty &&
    ((decide (s.fld (PG.kln k) R.KLN_CTL 8 16 ≤ l.ran) && n == f) ||
     (decide (0 < sdiff 24 n f) && (s.courseList k).any fun e =>
        s.names k c k e && decide (sdiff 24 (l.floor.get e) f ≤ 0)))
    && decide (l.buf.length ≤ s.inboxRoom k c)

/-- R287, R308: the swap starts: unapplied spikes go to the outgoing course's inbox, its regions to its save area. -/
def State.courseSwap (s : State) (k : Fin 6) : State :=
  if !s.maySwap k then s
  else
    let l := s.lat.get k
    let c := l.resident
    let s := (s.coneOrder l.buf).foldl (fun s b => s.inboxPut k c b) s
    let s := s.latUpd k fun x => { x with buf := [] }
    let save := (s.reg (PG.kln k) (R.CRS_SAVE c)).toNat
    let s := (s.crsRegions k c).foldl (fun s r => s.copyWords r.1 (save + r.2.2) (r.2.1 / 32)) s
    let e : Fin 16 := ⟨(c.val + 1) % max 1 (s.courses k) % 16, Nat.mod_lt _ (by decide)⟩
    s.latUpd k fun x => { x with swap := some (e, s.dtc) }

/-! ### Pages -/

/-- R283: the region checks of an SHF page: overlapping and out-of-range registers by index. -/
def State.shfFails (s : State) (k : Fin 6) : List Nat × List Nat :=
  let r := shelfRegs.map fun o => s.shelfRegion k o
  let g := fun i => r.getD i (0, 0)
  ((List.range 7).filter fun i => (g i).2 ≠ 0 && (List.range 7).any fun j =>
      j ≠ i && (g j).2 ≠ 0 && decide ((g i).1 < (g j).1 + (g j).2) && decide ((g j).1 < (g i).1 + (g i).2),
   (List.range 7).filter fun i => (g i).2 ≠ 0 && decide (shelfBase k + shelfBytes < (g i).1 + (g i).2))

/-- R283: the enable of an SHF page: whether it passes. -/
def State.shfEnable (s : State) (k : Fin 6) : Bool × State :=
  let (o, r) := s.shfFails k
  if o.isEmpty && r.isEmpty then (true, s)
  else
    let s := if o.isEmpty then s else s.setBit (PG.shf k) R.SHF_STS 0 true
    let s := if r.isEmpty then s else s.setBit (PG.shf k) R.SHF_STS 1 true
    (false, s.setFld (PG.shf k) R.SHF_STS 4 3 ((o ++ r).foldl min 6))

/-- R282: a write to an SHF page. -/
def State.shfWrite (s : State) (k : Fin 6) (w : Wr) : State :=
  if w.reg = R.SHF_STS then s.plainWrite (PG.shf k) w
  else if s.enabled (PG.shf k) then s.logWr (PG.shf k) w .state
  else s.plainWrite (PG.shf k) w

/-- R10: the register at an offset of a page has RW fields. -/
def hasRw (page off : Nat) : Bool := match lookupReg page off with | some (d, _, _) => d.rw != 0 | none => false

/-- R10, R284, R335: a write to a KLN page. -/
def State.klnWrite (s : State) (k : Fin 6) (w : Wr) : State :=
  if hasRw (PG.kln k) w.reg ∧ w.reg ≠ R.KLN_CW_TAIL ∧ s.enabled (PG.lat k) then s.logWr (PG.kln k) w .state
  else s.plainWrite (PG.kln k) w

/-- R10, R264, R290, R335: a write to a LAT page. -/
def State.latWrite (s : State) (k : Fin 6) (w : Wr) : State :=
  if hasRw (PG.lat k) w.reg ∧ s.enabled (PG.lat k) then s.logWr (PG.lat k) w .state else s.plainWrite (PG.lat k) w

/-- R286: an address that is aligned and whose range lies in HBM. -/
def State.hbmAligned (s : State) (a n al : Nat) : Bool := a % al == 0 && s.inHbm a n

/-- R286: a ring size in entries: a power of two in the range. -/
def ringSizeOk (n lo hi : Nat) : Bool := isPow2 n && decide (lo ≤ n) && decide (n ≤ hi)

/-- R286, R335: the lowest course that fails its checks. -/
def State.courseBad (s : State) (k : Fin 6) : Option (Fin 16) :=
  let n := s.courses k
  let pg := PG.kln k
  (s.courseList k).find? fun c =>
    let (b, cnt) := s.crsIds k c
    let ctl := s.reg pg (R.CRS_CTL c)
    !bitAt ctl 0 || cnt == 0 || decide (s.fld (PG.lat k) R.LAT_CTL 0 19 < cnt) || decide (2 ^ 20 < b + cnt)
      || (s.courseList k).any (fun e => e != c &&
          let (b', n') := s.crsIds k e
          decide (b < b' + n') && decide (b' < b + cnt))
      || !bitAt ctl 16 || !bitAt ctl 17 || bitAt ctl 18
      || (decide (1 < n) &&
          (!s.hbmAligned (s.reg pg (R.CRS_SAVE c)).toNat ((s.crsRegions k c).foldl (fun a r => a + r.2.1) 0) 4096
            || !ringSizeOk (s.fld pg (R.CRS_INBOX_SIZE c) 0 21) 1024 1048576
            || !s.hbmAligned (s.reg pg (R.CRS_INBOX c)).toNat (16 * s.fld pg (R.CRS_INBOX_SIZE c) 0 21) 64))
      || (s.fld pg (R.KLN_SRC c) 16 16 >>> n) != 0

/-- R291, R335: the failing checks of a LAT page's enable: bits of LAT_STS, of KLN_STS, of KLN_CW_STS. -/
def State.latFails (s : State) (k : Fin 6) : List Nat × List Nat × List Nat :=
  let n := s.fld (PG.lat k) R.LAT_CTL 0 19
  let pg := PG.kln k
  let sz := fun o => (s.shelfRegion k o).2
  let map := s.reg pg R.KLN_CW_MAP
  let lo := bf map 0 20
  let hi := bf map 20 20
  let cnt := ((hi - lo) >>> bf map 40 4) + 1
  let slot := 64 + roundUp (4 * cnt) 64
  let slots := s.fld pg R.KLN_CW_SLOTS 0 11
  let mapBad := bitAt map 44 && (decide (hi < lo) || decide (65536 < cnt))
  ((if n = 0 then [0] else []) ++ (if 262144 < n then [1] else [])
    ++ (if !s.enabled (PG.shf k) ∨ sz R.SHF_NEURON < 48 * n ∨ sz R.SHF_ANNX < 8 * n ∨ sz R.SHF_JOURNAL < 16 * journalEntries
        then [2] else [])
    ++ (if (s.psetBad k).isSome then [3] else []),
   (if s.courses k = 0 ∨ 16 < s.courses k ∨ (1 < s.courses k ∧ s.fld pg R.KLN_CTL 8 16 = 0) then [0] else [])
    ++ (if (s.courseBad k).isSome then [1] else []),
   (if mapBad then [0] else [])
    ++ (if bitAt map 44 && (!ringSizeOk slots 2 1024 || !s.hbmAligned (s.reg pg R.KLN_CW_RING).toNat (slot * slots) 64)
          || !s.hbmAligned (s.reg pg R.KLN_PTR_BASE).toNat (8 * s.fld pg R.KLN_PTR_COUNT 0 24) 4096 then [1] else []))

/-- Bits of a register set. -/
def State.setBits (s : State) (page off : Nat) (l : List Nat) : State := l.foldl (fun s b => s.setBit page off b true) s

/-- R318: a slip's undo: steps from `a` on are undone, the epoch rises, the course resumes at `a`. -/
def State.undoTo (s : State) (k : Fin 6) (a : Nat) : State :=
  let s := s.undoSteps k a (s.lat.get k).spec
  s.latUpd k fun l => { l with epoch := (l.epoch + 1) % 256, run := none, next := l.next.set l.resident a }

/-- R286: at enable course 0 is resident (log 99). -/
def State.courseZero (s : State) (k : Fin 6) : State :=
  if (s.lat.get k).resident = 0 then s
  else s.latUpd k fun l => { l with resident := 0, swap := none, run := none, ran := 0, sweep := 0 }

/-- R286, R291, R337: the enable of a LAT page: whether it passes; after a reset the speculative steps are undone. -/
def State.latEnable (s : State) (k : Fin 6) : Bool × State :=
  let (a, b, c) := s.latFails k
  if a.isEmpty && b.isEmpty && c.isEmpty then
    let l := s.lat.get k
    let f := l.floor.get l.resident
    let s := if l.broken && l.spec.any fun x => decide (0 < sdiff 24 x.step f) then s.undoTo k (step24 f 1) else s
    (true, (s.courseZero k).latUpd k fun x => { x with broken := false, ptrs := [] })
  else
    let s := ((s.setBits (PG.lat k) R.LAT_STS a).setBits (PG.kln k) R.KLN_STS b).setBits (PG.kln k) R.KLN_CW_STS c
    let s := match s.psetBad k with
      | some (i, w) => (s.setFld (PG.lat k) R.LAT_STS 8 8 i).setFld (PG.lat k) R.LAT_STS 16 4 w
      | none => s
    let s := match s.courseBad k with
      | some i => s.setFld (PG.kln k) R.KLN_STS 4 4 i.val
      | none => s
    (false, s.irq (PG.lat k) 0)

/-- R292, R337: the reset of a LAT page. -/
def State.latPageReset (s : State) (k : Fin 6) : State :=
  let l := s.lat.get k
  let s := (s.addCnt (PG.spk k) R.SPK_CNT1 32 32 (l.buf.length + l.cancels.length)).cwMarkOpen k 16
  let s := s.latUpd k fun x => { x with buf := [], cancels := [], ptrs := [], syn := 0, broken := true }
  [R.LAT_CNT0, R.LAT_CNT1, R.LAT_OVERDRIVE, R.LAT_CNT2, R.LAT_CNT3, R.LAT_SLIP_CNT, R.LAT_SLIP_CNT1,
    R.LAT_CANCEL_CNT].foldl (fun s o => s.setReg (PG.lat k) o 0) s

/-- R315: a speculative visit waits for a journal entry. -/
def execJournalFullWait (k : Fin 6) (s : State) : Res := s.ends (s.journalWait k)

/-- R281: one visit of the leak sweep. -/
def execLeakSweepVisit (k : Fin 6) (s : State) : Res := s.ends (s.leakVisit k)

/-- R287: the kiln saves its resident course. -/
def execCourseSwap (k : Fin 6) (s : State) : Res := s.ends (s.courseSwap k)

end Sys2Proof.Machine
end

