-- ==== Sys2Proof/Machine/Facet.lean ====
section
/-!
DEFINITION. Machine/Facet.lean: descriptors and their checks, sweep convolution and pooling, the descriptor queue, and the FCT
pages (R338 to R371).
-/

namespace Sys2Proof.Machine

/-- `s` with a kiln's facet changed. -/
def State.fctUpd (s : State) (k : Fin 6) (f : FctState → FctState) : State := { s with fct := vupd s.fct k f }

/-! ### Formats (R340) -/

/-- R340: channels per tile. -/
def fmtT (f : Nat) : Nat := if f = 1 then 128 else 64

/-- R340: bytes of one tile at one position. -/
def fmtB (f : Nat) : Nat := if f = 4 then 128 else if f = 5 then 256 else 64

/-- R340: bytes of a weight block. -/
def fmtBlock (f : Nat) : Nat := if f = 4 then 8192 else 4096

/-- R340: an integer format. -/
def fmtInt (f : Nat) : Bool := decide (f ≤ 1)

/-- R340: bits of an integer element. -/
def fmtBits (f : Nat) : Nat := if f = 1 then 4 else 8

/-- R340: the floating-point format of a code. -/
def fmtFp (f : Nat) : FpFmt := if f = 2 then e4m3 else if f = 3 then e5m2 else bf16

/-- R340, R343: element `c` of a tile's bytes, as its bit pattern. -/
def elemOf (f : Nat) (bs : List Byte) (c : Nat) : Nat :=
  if f = 1 then nfld (bs.getD (c / 2) 0).toNat (4 * (c % 2)) 4
  else if f = 4 then leNat ((bs.drop (2 * c)).take 2)
  else if f = 5 then leNat ((bs.drop (4 * c)).take 4)
  else (bs.getD c 0).toNat

/-- R344: the weight of row `r` for output channel `o` of a block. -/
def weightOf (f : Nat) (bs : List Byte) (r o : Nat) : Nat := elemOf f bs (64 * r + o)

/-- Elements packed into bytes: two nibbles a byte in INT4 (R343). -/
def packNibbles : List Nat → List Byte
  | a :: b :: r => BitVec.ofNat 8 (a % 16 + (b % 16) <<< 4) :: packNibbles r
  | [a] => [BitVec.ofNat 8 (a % 16)]
  | [] => []

/-- Elements of a format as bytes. -/
def packElems (f : Nat) (l : List Nat) : List Byte :=
  if f = 1 then packNibbles l
  else (l.map fun v => leBytes (if f = 4 then 2 else if f = 5 then 4 else 1) v).flatten

/-! ### Descriptors (R364) -/

/-- R343: a tensor in memory. -/
structure Tensor where
  addr : Nat
  row : Nat
  plane : Nat
  c : Nat
  h : Nat
  w : Nat
  fmt : Nat
  deriving DecidableEq, Repr

/-- R343: planes of a tensor. -/
def Tensor.planes (t : Tensor) : Nat := (t.c + fmtT t.fmt - 1) / fmtT t.fmt

/-- R343: address of the tile `p` at a position. -/
def Tensor.at_ (t : Tensor) (p y x : Nat) : Nat := t.addr + p * t.plane + y * t.row + x * fmtB t.fmt

/-- R343: bytes from the tensor's first to its last. -/
def Tensor.bytes (t : Tensor) : Nat :=
  if t.c = 0 ∨ t.h = 0 ∨ t.w = 0 then 0
  else (t.planes - 1) * t.plane + (t.h - 1) * t.row + t.w * fmtB t.fmt

/-- R343: the bytes that the tensor's tiles take, row by row: first address and length. -/
def Tensor.rows (t : Tensor) : List (Nat × Nat) :=
  ((List.range t.planes).map fun p => (List.range t.h).map fun y => (t.at_ p y 0, t.w * fmtB t.fmt)).flatten

/-- R343: alignment and pitches. -/
def Tensor.ok (t : Tensor) : Bool :=
  t.addr % 64 == 0 && t.row % 64 == 0 && t.plane % 64 == 0 && decide (t.w * fmtB t.fmt ≤ t.row)
    && decide (t.h * t.row ≤ t.plane)

/-- R364: the fields of a descriptor's words. -/
structure Desc where
  w : List Nat
  deriving DecidableEq, Repr

/-- R364: a field. -/
def Desc.f (d : Desc) (i lo n : Nat) : Nat := nfld (d.w.getD i 0) lo n

/-- R364: the fields by name. -/
def Desc.pool (d : Desc) : Bool := d.f 0 0 4 == 1
def Desc.fmtIn (d : Desc) : Nat := d.f 0 4 4
def Desc.fmtW (d : Desc) : Nat := d.f 0 8 4
def Desc.fmtOut (d : Desc) : Nat := d.f 0 12 4
def Desc.padMode (d : Desc) : Nat := d.f 0 16 2
def Desc.accIn (d : Desc) : Bool := d.f 0 19 1 == 1
def Desc.cin (d : Desc) : Nat := d.f 1 32 13
def Desc.cout (d : Desc) : Nat := if d.pool then d.cin else d.f 1 48 13
def Desc.hIn (d : Desc) : Nat := d.f 1 0 16
def Desc.wIn (d : Desc) : Nat := d.f 1 16 16
def Desc.kh (d : Desc) : Nat := if d.pool then d.f 15 0 4 else d.f 2 0 4
def Desc.kw (d : Desc) : Nat := if d.pool then d.f 15 4 4 else d.f 2 4 4
def Desc.sh (d : Desc) : Nat := if d.pool then d.f 15 8 4 else d.f 2 8 4
def Desc.sw (d : Desc) : Nat := if d.pool then d.f 15 12 4 else d.f 2 12 4
def Desc.dh (d : Desc) : Nat := if d.pool then 1 else d.f 2 16 7
def Desc.dw (d : Desc) : Nat := if d.pool then 1 else d.f 2 24 7
def Desc.lkh (d : Desc) : Nat := if d.pool ∨ d.f 4 16 5 = 0 then d.kh else d.f 4 16 5
def Desc.lkw (d : Desc) : Nat := if d.pool ∨ d.f 4 24 5 = 0 then d.kw else d.f 4 24 5
def Desc.padT (d : Desc) : Nat := if d.pool then d.f 15 16 3 else d.f 3 0 10
def Desc.padB (d : Desc) : Nat := if d.pool then d.f 15 20 3 else d.f 3 16 10
def Desc.padL (d : Desc) : Nat := if d.pool then d.f 15 24 3 else d.f 3 32 10
def Desc.padR (d : Desc) : Nat := if d.pool then d.f 15 28 3 else d.f 3 48 10
def Desc.ofsY (d : Desc) : Int := if d.pool then 0 else sgn 16 (d.f 2 32 16)
def Desc.ofsX (d : Desc) : Int := if d.pool then 0 else sgn 16 (d.f 2 48 16)
def Desc.stripe (d : Desc) : Nat := d.f 4 0 12
def Desc.act (d : Desc) : Nat := d.f 0 20 3
def Desc.p0 (d : Desc) : Nat := d.f 14 0 32
def Desc.p1 (d : Desc) : Nat := d.f 14 32 32

/-- R348: output size in one dimension. -/
def outSize (n p q d lk st : Nat) : Int :=
  if st = 0 then 0 else ((n : Int) + p + q - d * ((lk : Int) - 1) - 1) / (st : Int) + 1

/-- R348: H_out and W_out. -/
def Desc.hOut (d : Desc) : Int := outSize d.hIn d.padT d.padB d.dh d.lkh d.sh
def Desc.wOut (d : Desc) : Int := outSize d.wIn d.padL d.padR d.dw d.lkw d.sw

/-- R349: an empty descriptor. -/
def Desc.empty (d : Desc) : Bool := decide (d.hOut ≤ 0) || decide (d.wOut ≤ 0) || d.hIn == 0 || d.wIn == 0

/-- R343, R364: the tensors of a descriptor. -/
def Desc.input (d : Desc) : Tensor :=
  { addr := d.f 5 0 40, row := d.f 6 0 32, plane := d.f 6 32 32, c := d.cin, h := d.hIn, w := d.wIn, fmt := d.fmtIn }
def Desc.output (d : Desc) : Tensor :=
  { addr := d.f 7 0 40, row := d.f 8 0 32, plane := d.f 8 32 32, c := d.cout, h := d.hOut.toNat, w := d.wOut.toNat,
    fmt := d.fmtOut }
def Desc.raw (d : Desc) : Tensor :=
  { addr := d.f 12 0 40, row := d.f 13 0 32, plane := d.f 13 32 32, c := d.cout, h := d.hOut.toNat, w := d.wOut.toNat,
    fmt := 5 }
def Desc.wAddr (d : Desc) : Nat := d.f 9 0 40
def Desc.chOut (d : Desc) : Nat := d.f 10 0 40
def Desc.chIn (d : Desc) : Nat := d.f 11 0 40

/-- R344: tiles of input and of output channels. -/
def Desc.tIn (d : Desc) : Nat := (d.cin + fmtT d.fmtIn - 1) / fmtT d.fmtIn
def Desc.tOut (d : Desc) : Nat := (d.cout + 63) / 64

/-- R345: the tables that the descriptor reads. -/
def Desc.readsOut (d : Desc) : Bool := !d.pool && d.fmtOut != 5
def Desc.readsIn (d : Desc) : Bool := fmtInt d.fmtIn || (!d.pool && d.padMode == 1)

/-- R364: the bits of each word that carry fields. -/
def descMasks : List Nat :=
  [0xFFFF003F01FFFFFF, 0x1FFF1FFFFFFFFFFF, 0xFFFFFFFF7F7FFFFF, 0x03FF03FF03FF03FF, 0x1F1F0FFF, 0xFFFFFFFFFF,
   0xFFFFFFFFFFFFFFFF, 0xFFFFFFFFFF, 0xFFFFFFFFFFFFFFFF, 0xFFFFFFFFFF, 0xFFFFFFFFFF, 0xFFFFFFFFFF, 0xFFFFFFFFFF,
   0xFFFFFFFFFFFFFFFF, 0xFFFFFFFFFFFFFFFF, 0x7777FFFF]

/-- R356: bytes of the line buffer. -/
def Desc.lineBytes (d : Desc) : Nat :=
  ((d.kh - 1) * d.dh + d.sh * (d.stripe - 1) + 1) * d.wIn * d.tIn * fmtB d.fmtIn

/-- Two ranges, each a first address and a length, overlap. -/
def rangesMeet (a b : Nat × Nat) : Bool :=
  a.2 != 0 && b.2 != 0 && decide (a.1 < b.1 + b.2) && decide (b.1 < a.1 + a.2)

/-- R365: a range that the facet of kiln `k` may address: in HBM, or in its shelf outside NEURON, ANNX and JOURNAL. -/
def State.facetRange (s : State) (k : Fin 6) (r : Nat × Nat) : Bool :=
  r.2 == 0 || s.inHbm r.1 r.2 ||
    (shelfOf r.1 r.2 == some k.val &&
      [R.SHF_NEURON, R.SHF_ANNX, R.SHF_JOURNAL].all fun o => !rangesMeet r (s.shelfRegion k o))

/-- R365: the ranges a descriptor addresses: input, weights, tables; output; RAW. -/
def Desc.reads (d : Desc) : List (Nat × Nat) :=
  [(d.input.addr, d.input.bytes)]
    ++ (if d.pool then [] else [(d.wAddr, d.tOut * d.tIn * d.kh * d.kw * fmtBlock d.fmtW)])
    ++ (if d.readsOut then [(d.chOut, 16 * d.cout)] else []) ++ (if d.readsIn then [(d.chIn, 4 * d.cin)] else [])
def Desc.outRange (d : Desc) : Nat × Nat := (d.output.addr, d.output.bytes)
def Desc.rawRange (d : Desc) : Nat × Nat := if !d.pool && d.accIn then (d.raw.addr, d.raw.bytes) else (0, 0)

/-- R340: FMT_IN and FMT_W form a pair. -/
def fmtPair (a b : Nat) : Bool :=
  (a == 0 && b == 0) || (a == 1 && b == 1) || ((a == 2 || a == 3) && (b == 2 || b == 3)) || (a == 4 && b == 4)

/-- R365: the checks in order; the first that fails names WHY, 0 where all pass. -/
def State.descWhy (s : State) (k : Fin 6) (d : Desc) : Nat :=
  let conv := !d.pool
  let above := fun (a b : Nat) => decide (b < a)
  let checks : List (Nat × Bool) := [
    (1, above (d.f 0 0 4) 1 || (d.w.mapIdx fun i v => v &&& (2 ^ 64 - 1 - descMasks.getD i 0)).any fun v => v != 0),
    (2, above d.fmtIn 4 || above d.fmtOut 5 || (conv && (above d.fmtW 4 || !fmtPair d.fmtIn d.fmtW))
        || (d.pool && d.fmtOut != d.fmtIn)),
    (3, conv && (d.kh == 0 || d.kw == 0)),
    (4, conv && (above d.kh 7 || above d.kw 7 || above d.kh d.lkh || above d.kw d.lkw)),
    (5, d.sh == 0 || d.sw == 0),
    (6, above d.sh 8 || above d.sw 8),
    (7, conv && (d.dh == 0 || d.dw == 0)),
    (8, conv && (above d.dh 64 || above d.dw 64)),
    (9, d.cin == 0 || (conv && d.cout == 0)),
    (10, above d.cin 4096 || above d.cout 4096),
    (11, d.pool && (d.kh == 0 || d.kw == 0)),
    (12, d.pool && (above d.kh 8 || above d.kw 8 || !above d.kh d.padT || !above d.kh d.padB || !above d.kw d.padL
        || !above d.kw d.padR)),
    (13, d.stripe == 0 || above d.stripe 2048),
    (14, conv && above d.lineBytes (min 8388608 (s.shelfRegion k R.SHF_LINE).2)),
    (15, !d.input.ok || !d.output.ok || (conv && d.accIn && (!d.raw.ok || d.raw.addr == 0))
        || (d.outRange :: d.rawRange :: d.reads).any fun r => !s.facetRange k r),
    (16, (d.reads.any fun r => rangesMeet d.outRange r)
        || ((d.reads.any fun r => rangesMeet d.rawRange r)
          || (rangesMeet d.rawRange d.outRange && d.rawRange != d.outRange))),
    (17, conv && (above d.act 3 || (d.act == 2 && !fle d.p0 d.p1) || (d.act == 3 && fisNan d.p0))),
    (18, d.empty && d.f 0 18 1 == 1)]
  ((checks.find? fun c => c.2).map Prod.fst).getD 0

/-! ### Geometry and padding (R348 to R354) -/

/-- R351: the mirrored index. -/
def mirror (i : Int) (n : Nat) : Int :=
  if n ≤ 1 then 0
  else
    let m := i % (2 * ((n : Int) - 1))
    if (n : Int) ≤ m then 2 * ((n : Int) - 1) - m else m

/-- R350: what a tap reads at an index of one dimension: the input index, or none outside the input. -/
def padIndex (mode : Nat) (i : Int) (n : Nat) : Option Nat :=
  if 0 ≤ i ∧ i < n then some i.toNat
  else if n = 0 then none
  else if mode = 2 then some (mirror i n).toNat
  else if mode = 3 then some (if i < 0 then 0 else n - 1)
  else none

/-- R348: input row of an output row and tap row. -/
def Desc.iy (d : Desc) (oy kh : Nat) : Int := (oy : Int) * d.sh - d.padT + d.ofsY + (kh * d.dh : Nat)
/-- R348: input column of an output column and tap column. -/
def Desc.ix (d : Desc) (ox kw : Nat) : Int := (ox : Int) * d.sw - d.padL + d.ofsX + (kw * d.dw : Nat)

/-- What a tap reads at an output position: the input position, or none (R350). -/
def Desc.source (d : Desc) (oy ox kh kw : Nat) : Option (Nat × Nat) :=
  match padIndex d.padMode (d.iy oy kh) d.hIn, padIndex d.padMode (d.ix ox kw) d.wIn with
  | some y, some x => some (y, x)
  | _, _ => none

/-! ### Operand reads (R356, R366) -/

/-- The tiles of the input rows that some tap of some output row reads, by plane, row and column; each row is fetched once
(R356). -/
def State.fetchRow (s : State) (t : Tensor) (p y : Nat) : Nat → List ReadRes × State
  | 0 => ([], s)
  | n + 1 =>
    let (l, s) := s.fetchRow t p y n
    let (r, s) := s.readBytes (t.at_ p y n) (fmtB t.fmt)
    (l ++ [r], s)

/-- Rows by number, those not needed empty. -/
def State.fetchRows (s : State) (t : Tensor) (need : Nat → Bool) (p : Nat) : Nat → List (List ReadRes) × State
  | 0 => ([], s)
  | n + 1 =>
    let (l, s) := s.fetchRows t need p n
    let (r, s) := if need n then s.fetchRow t p n t.w else ([], s)
    (l ++ [r], s)

/-- Planes by number. -/
def State.fetchTensor (s : State) (t : Tensor) (need : Nat → Bool) : Nat → List (List (List ReadRes)) × State
  | 0 => ([], s)
  | n + 1 =>
    let (l, s) := s.fetchTensor t need n
    let (r, s) := s.fetchRows t need n t.h
    (l ++ [r], s)

/-- A fetched tile. -/
def tileAt (t : List (List (List ReadRes))) (p y x : Nat) : ReadRes :=
  (((t.getD p []).getD y []).getD x { bytes := [], bad := false })

/-- R356: rows that some tap of some output row reads. -/
def Desc.rowsRead (d : Desc) : List Nat :=
  ((List.range d.hOut.toNat).map fun oy =>
    (List.range d.kh).filterMap fun kh => padIndex (if d.pool then 0 else d.padMode) (d.iy oy kh) d.hIn).flatten.eraseDups

/-- Entries of `n` bytes of a channel table, each with whether it read poisoned. -/
def State.readTable (s : State) (a n : Nat) : Nat → List (Nat × Bool) × State
  | 0 => ([], s)
  | m + 1 =>
    let (l, s) := s.readTable a n m
    let (v, bad, s) := s.readNat (a + n * m) n
    (l ++ [(v, bad)], s)

/-! ### Convolution (R338, R341, R342, R346, R347) -/

/-- What a descriptor's computation has counted. -/
structure FctTally where
  accSat : Nat := 0
  outSat : Nat := 0
  nan : Nat := 0
  poolEmpty : Nat := 0
  skipped : Nat := 0
  poison : Nat := 0
  mac : Nat := 0
  deriving DecidableEq, Repr

/-- R345: ZP_IN of an input table entry as R341 uses it. -/
def zpIn (f v : Nat) : Int := if f = 0 then sgn 8 v else if f = 1 then sgn 4 v else 0

/-- The exact sum of a column for one tap and input tile, in the integer formats (R341); `q` gives the input elements. -/
def colInt (f : Nat) (q : Nat → Nat) (z : Nat → Int) (wt : Nat → Nat) (n : Nat) : Int :=
  (List.range n).foldl (fun a r => a + (sgn (fmtBits f) (q r) - z r) * sgn (fmtBits f) (wt r)) 0

/-- The exact sum of a column in the floating-point formats (R342). -/
def colFp (f g : Nat) (q wt : Nat → Nat) (n : Nat) : Fl :=
  (List.range n).foldl (fun a r => a.add (((fmtFp f).dec (q r)).mul ((fmtFp g).dec (wt r)))) (.fin false 0 0)

/-- R341, R342: a column sum joins an accumulator: INT32 with saturation, or FP32 with one rounding. -/
def accAdd (int : Bool) (acc : Int) (si : Int) (sf : Fl) : Int × Nat :=
  if int then (satS 32 (acc + si), if satS 32 (acc + si) = acc + si then 0 else 1)
  else ((fp32.enc false ((fp32.dec acc.toNat).add sf) : Nat), 0)

/-- R347: the activation, on FP32 patterns. -/
def Desc.activate (d : Desc) (x : Nat) : Nat :=
  if fisNan x then x
  else if d.act = 1 then (if flt x 0 then 0 else x)
  else if d.act = 2 then
    let y := if flt x d.p0 then d.p0 else x
    if flt d.p1 y then d.p1 else y
  else if d.act = 3 then (if flt x 0 then fmul x d.p0 else x)
  else x

/-- R346: an FP32 value written in an output format with a zero point: pattern, saturated, NaN. -/
def toFormat (f : Nat) (zp : Int) (x : Nat) : Nat × Bool × Bool :=
  if fmtInt f then
    let n := fmtBits f
    match fp32.dec x with
    | .nan => (low n (satS n zp), false, true)
    | .inf neg => (low n (if neg then -(2 ^ (n - 1)) else 2 ^ (n - 1) - 1), true, false)
    | .fin neg m e =>
      let (p, q) := pow2Frac e
      let v := roundEven (sgnM neg m * p) q + zp
      (low n (satS n v), satS n v != v, false)
  else
    let v := fp32.dec x
    let g := fmtFp f
    if f = 4 then (g.enc false v, false, v == .nan)
    else
      let r := g.enc true v
      (r, (match v with | .inf _ => true | _ => g.enc false v != r), v == .nan)

/-- R346, R358: one output element from its accumulator and its table entry; RAW writes the accumulator as it is. -/
def Desc.outElem (d : Desc) (acc : Int) (e : Nat) : Nat × Bool × Bool :=
  if d.fmtOut = 5 then (low 32 acc, false, !fmtInt d.fmtIn && fisNan acc.toNat) else
  let x := if fmtInt d.fmtIn then fint (acc + sgn 32 (nfld e 0 32)) else fadd acc.toNat (nfld e 0 32)
  toFormat d.fmtOut (sgn 16 (nfld e 64 16)) (d.activate (fmul x (nfld e 32 32)))

/-- R342, R346: what the elements written at one position of a tile add to FP_NAN: in an integer format each element of NaN,
else one for the position. DESIGN CHOICE (log 213): a position counts once in each tile in which it is written as NaN. -/
def nanCount (f : Nat) (l : List (Nat × Bool × Bool)) : Nat :=
  let n := (l.filter fun e => e.2.2).length
  if fmtInt f then n else min 1 n

/-- The operands of a run. -/
structure RunCtx where
  d : Desc
  inp : List (List (List ReadRes))
  /-- output and input table entries -/
  tabOut : List (Nat × Bool)
  tabIn : List (Nat × Bool)
  /-- first output channel of the run's tile, and channels in it -/
  o0 : Nat
  on : Nat
  deriving DecidableEq, Repr

/-- R338, R352 to R354: one tap of one input tile is added for every position of the run. -/
def RunCtx.tap (c : RunCtx) (ti kh kw : Nat) (wt : List Byte) (pos : List (Nat × Nat)) (acc : List (List Int)) :
    List (List Int) × Nat × Bool × Nat :=
  let d := c.d
  let f := d.fmtIn
  let t := fmtT f
  let n := min t (d.cin - ti * t)
  let int := fmtInt f
  let z := fun r => zpIn f (c.tabIn.getD (ti * t + r) (0, false)).1
  let res := (pos.zip acc).map fun pa =>
    let src := d.source pa.1.1 pa.1.2 kh kw
    match src with
    | some (y, x) =>
      let tile := tileAt c.inp ti y x
      let r := pa.2.mapIdx fun o a =>
        accAdd int a (if int then colInt f (elemOf f tile.bytes) z (fun r => weightOf d.fmtW wt r o) n else 0)
          (if int then .nan else colFp f d.fmtW (elemOf f tile.bytes) (fun r => weightOf d.fmtW wt r o) n)
      (r.map Prod.fst, (r.map Prod.snd).sum, tile.bad, 1)
    | none =>
      if d.padMode = 1 then
        let q := fun r => nfld (c.tabIn.getD (ti * t + r) (0, false)).1 16 16
        let r := pa.2.mapIdx fun o a =>
          accAdd int a (if int then colInt f q z (fun r => weightOf d.fmtW wt r o) n else 0)
            (if int then .nan else
              fp32.dec (fp32.enc false (colFp f d.fmtW q (fun r => weightOf d.fmtW wt r o) n)))
        (r.map Prod.fst, (r.map Prod.snd).sum, false, 0)
      else (pa.2, 0, false, 0)
  (res.map Prod.fst, (res.map fun x => x.2.1).sum, res.any fun x => x.2.2.1, (res.map fun x => x.2.2.2).sum * n * c.on)

/-- R344, R352: the taps of one input tile, in row-major order; a tap that reads only zero padding is skipped. -/
def State.runTaps (s : State) (c : RunCtx) (to_ ti : Nat) (pos : List (Nat × Nat)) :
    List (Nat × Nat) → List (List Int) → Bool → FctTally → (List (List Int) × Bool × FctTally) × State
  | [], acc, bad, t => ((acc, bad, t), s)
  | (kh, kw) :: r, acc, bad, t =>
    let d := c.d
    if d.padMode = 0 ∧ pos.all fun p => (d.source p.1 p.2 kh kw).isNone then
      s.runTaps c to_ ti pos r acc bad { t with skipped := t.skipped + (if ti = 0 then 1 else 0) }
    else
      let blk := fmtBlock d.fmtW
      let (w, s) := s.readBytes (d.wAddr + ((to_ * d.tIn + ti) * d.kh * d.kw + kh * d.kw + kw) * blk) blk
      let (acc, sat, b, m) := c.tap ti kh kw w.bytes pos acc
      s.runTaps c to_ ti pos r acc (bad || b || w.bad) { t with accSat := t.accSat + sat, mac := t.mac + m }

/-- R338: the input tiles of a run, ascending. -/
def State.runTiles (s : State) (c : RunCtx) (to_ : Nat) (pos : List (Nat × Nat)) :
    List Nat → List (List Int) → Bool → FctTally → (List (List Int) × Bool × FctTally) × State
  | [], acc, bad, t => ((acc, bad, t), s)
  | ti :: r, acc, bad, t =>
    let taps := ((List.range c.d.kh).map fun kh => (List.range c.d.kw).map fun kw => (kh, kw)).flatten
    let ((acc, bad, t), s) := s.runTaps c to_ ti pos taps acc bad t
    s.runTiles c to_ pos r acc bad t

/-- R358: accumulators loaded from the RAW tensor. -/
def State.loadRaw (s : State) (d : Desc) (to_ on : Nat) : List (Nat × Nat) → (List (List Int) × Bool) × State
  | [] => (([], false), s)
  | (y, x) :: r =>
    let (v, s) := s.readBytes (d.raw.at_ to_ y x) 256
    let l := (List.range on).map fun o =>
      let e := elemOf 5 v.bytes o
      if fmtInt d.fmtIn then sgn 32 e else (e : Int)
    let ((q, bad), s) := s.loadRaw d to_ on r
    ((l :: q, bad || v.bad), s)

/-- R343, R346: one run's outputs written. -/
def State.writeRun (s : State) (c : RunCtx) (to_ : Nat) (bad : Bool) :
    List ((Nat × Nat) × List Int) → FctTally → FctTally × State
  | [], t => (t, s)
  | ((y, x), acc) :: r, t =>
    let d := c.d
    let out := d.output
    let el := acc.mapIdx fun o a => d.outElem a (c.tabOut.getD (c.o0 + o) (0, false)).1
    let tt := fmtT d.fmtOut
    let first := c.o0 % tt
    let width := if to_ + 1 = d.tOut then tt - first else 64
    let elems := el.map Prod.fst ++ List.replicate (width - el.length) 0
    let bytes := packElems d.fmtOut elems
    let a := out.at_ (c.o0 / tt) y x + first * fmtB d.fmtOut / tt
    let s := s.writePoisoned none a bytes bad
    s.writeRun c to_ bad r { t with
      outSat := t.outSat + (el.filter fun e => e.2.1).length, nan := t.nan + nanCount d.fmtOut el }

/-- R338: one run. -/
def State.convRun (s : State) (d : Desc) (inp : List (List (List ReadRes))) (tabOut tabIn : List (Nat × Bool))
    (pos : List (Nat × Nat)) (to_ : Nat) (t : FctTally) : FctTally × State :=
  let on := min 64 (d.cout - 64 * to_)
  let c : RunCtx := { d, inp, tabOut, tabIn, o0 := 64 * to_, on }
  let ((acc, b0), s) := if d.accIn then s.loadRaw d to_ on pos
    else ((pos.map fun _ => List.replicate on 0, false), s)
  let ((acc, bad, t), s) := s.runTiles c to_ pos (List.range d.tIn) acc b0 t
  let bad := bad || (tabIn.any Prod.snd) || (((tabOut.drop c.o0).take on).any Prod.snd)
  s.writeRun c to_ bad (pos.zip acc) { t with poison := t.poison + (if bad then 1 else 0) }

/-- R355: the runs of a descriptor: positions and output tile. -/
def Desc.runs (d : Desc) : List (List (Nat × Nat) × Nat) :=
  let h := d.hOut.toNat
  let w := d.wOut.toNat
  let wr := max 1 (min w (2048 / max 1 d.stripe))
  ((List.range ((h + d.stripe - 1) / max 1 d.stripe)).map fun i =>
    ((List.range ((w + wr - 1) / wr)).map fun j =>
      let ys := (List.range (min d.stripe (h - i * d.stripe))).map fun y => i * d.stripe + y
      let xs := (List.range (min wr (w - j * wr))).map fun x => j * wr + x
      let pos := (ys.map fun y => xs.map fun x => (y, x)).flatten
      (List.range d.tOut).map fun o => (pos, o)).flatten).flatten

/-- R338, R356: a convolution. Its input rows pass through the line buffer, whose bytes are free values afterwards: the rules
do not say at which byte of LINE a row stands (log 114). -/
def State.conv (s : State) (k : Fin 6) (d : Desc) : FctTally × State :=
  let need := d.rowsRead
  let (inp, s) := s.fetchTensor d.input (fun y => need.contains y) d.tIn
  let (tabOut, s) := if d.readsOut then s.readTable d.chOut 16 d.cout else ([], s)
  let (tabIn, s) := if d.readsIn then s.readTable d.chIn 4 d.cin else ([], s)
  let b := (s.shelfRegion k R.SHF_LINE).1
  let s := s.forgetRange b (b + d.lineBytes)
  d.runs.foldl (fun acc r => acc.2.convRun d inp tabOut tabIn r.1 r.2 acc.1) ({}, s)

/-! ### Pooling (R359, R360) -/

/-- R360: one output element from the window's elements. -/
def poolElem (f : Nat) (avg incl : Bool) (area : Nat) (z : Int) (l : List Nat) : Nat × Bool × Bool :=
  if fmtInt f then
    let n := fmtBits f
    let q := l.map (sgn n)
    if q.isEmpty then (low n (satS n z), false, false)
    else if avg then
      let v := roundEven ((q.map fun x => x - z).sum) (if incl then area else q.length) + z
      (low n (satS n v), satS n v != v, false)
    else (low n (q.foldl max (-(2 ^ (n - 1)))), false, false)
  else
    let g := fmtFp f
    let single := fun e => fp32.enc false (g.dec e)
    let x := l.map single
    if x.any fisNan then (g.nan, false, true)
    else if avg && !x.isEmpty then toFormat f 0 (fdiv (x.foldl fadd 0) (fint (if incl then area else x.length)))
    else
      match l with
      | [] => (0, false, false)
      | a :: r => (r.foldl (fun m e => if flt (single m) (single e) then e else m) a, false, false)

/-- R360: one output position of one tile. -/
def State.poolPos (s : State) (d : Desc) (inp : List (List (List ReadRes))) (tabIn : List (Nat × Bool))
    (p y x : Nat) (t : FctTally) : FctTally × State :=
  let f := d.fmtIn
  let win := ((List.range d.kh).map fun kh => (List.range d.kw).filterMap fun kw =>
    match padIndex 0 (d.iy y kh) d.hIn, padIndex 0 (d.ix x kw) d.wIn with
    | some a, some b => some (tileAt inp p a b)
    | _, _ => none).flatten
  let el := (List.range (min (fmtT f) (d.cin - p * fmtT f))).map fun c =>
    poolElem f (d.f 0 23 1 == 1) (d.f 0 24 1 == 1) (d.kh * d.kw) (zpIn f (tabIn.getD (p * fmtT f + c) (0, false)).1)
      (win.map fun r => elemOf f r.bytes c)
  let tab := fmtInt f && ((tabIn.drop (p * fmtT f)).take (fmtT f)).any Prod.snd
  let bad := win.any ReadRes.bad || tab
  let bytes := packElems f (el.map Prod.fst ++ List.replicate (fmtT f - el.length) 0)
  let s := s.writePoisoned none (d.output.at_ p y x) bytes bad
  ({ t with outSat := t.outSat + (el.filter fun e => e.2.1).length, nan := t.nan + nanCount f el,
            poolEmpty := t.poolEmpty + (if win.isEmpty && p = 0 then 1 else 0), poison := t.poison + (if bad then 1 else 0) }, s)

/-- R359: a pooling. -/
def State.pool (s : State) (d : Desc) : FctTally × State :=
  let need := d.rowsRead
  let (inp, s) := s.fetchTensor d.input (fun y => need.contains y) d.tIn
  let (tabIn, s) := if fmtInt d.fmtIn then s.readTable d.chIn 4 d.cin else ([], s)
  let pos := ((List.range d.tIn).map fun p => (List.range d.hOut.toNat).map fun y =>
    (List.range d.wOut.toNat).map fun x => (p, y, x)).flatten.flatten
  pos.foldl (fun acc q => acc.2.poolPos d inp tabIn q.1 q.2.1 q.2.2 acc.1) ({}, s)

/-! ### The queue (R367 to R370) -/

/-- R371: counts of a computation; SAT sets when a saturation counter rises from 0. -/
def State.fctTally (s : State) (k : Fin 6) (t : FctTally) : State :=
  let pg := PG.fct k
  let z := s.fld pg R.FCT_CNT2 0 16 = 0 ∧ 0 < t.accSat ∨ s.fld pg R.FCT_CNT2 16 16 = 0 ∧ 0 < t.outSat
  let s := ((s.addCnt pg R.FCT_CNT2 0 16 t.accSat).addCnt pg R.FCT_CNT2 16 16 t.outSat)
  let s := ((s.addCnt pg R.FCT_CNT2 32 16 t.nan).addCnt pg R.FCT_CNT2 48 16 t.poolEmpty)
  let s := ((s.addCnt pg R.FCT_CNT3 0 32 t.skipped).addCnt pg R.FCT_CNT3 32 16 t.poison)
  let m := (s.fct.get k).mac + t.mac
  let s := (s.addCnt pg R.FCT_CNT1 32 32 (m / 2 ^ 20)).fctUpd k fun x => { x with mac := m % 2 ^ 20 }
  if z then s.irq pg 2 else s

/-- R367, R368, R371: a descriptor completes. -/
def State.fctFinish (s : State) (k : Fin 6) (item tag index : Nat) (st : Status) (why : Nat) : State :=
  let pg := PG.fct k
  let s := s.setReg pg R.FCT_LAST (wOfNat (st.code + why <<< 8 + tag <<< 48))
  let s := s.closeItem item st why
  if st.isFail then
    let s := ((s.bump pg R.FCT_CNT0 32 32).setFld pg R.FCT_STS 32 32 index).irq pg 0
    if s.bit pg R.FCT_CTL 0 then (s.setBit pg R.FCT_STS 1 true).irq pg 1 else s
  else s.bump pg R.FCT_CNT0 0 32

/-- R367: entries of the ring. -/
def State.fctSize (s : State) (k : Fin 6) : Nat := s.fld (PG.fct k) R.FCT_Q_SIZE 0 13

/-- R367: address of ring entry number `i`. -/
def State.descAddr (s : State) (k : Fin 6) (i : Nat) : Nat :=
  (s.reg (PG.fct k) R.FCT_Q_BASE).toNat + 256 * (i % max 1 (s.fctSize k))

/-- R367, R431: the item of a descriptor takes the queue and TAG that its word 0 names. -/
def State.itemNames (s : State) (item w0 : Nat) : State :=
  { s with ldg := { s.ldg with items := s.ldg.items.map fun i =>
      if i.idx == item then { i with cq := nfld w0 32 6, tag := nfld w0 48 16 } else i } }

/-- R431: the ledger items of `n` descriptors from ring index `h` on open. -/
def State.descItems (s : State) (k : Fin 6) (h : Nat) : Nat → State
  | 0 => s
  | n + 1 =>
    let w0 := s.peekNat (s.descAddr k h) 8
    let (i, s) := s.openItem (PG.fct k) (nfld w0 32 6) (nfld w0 48 16) false
    (s.fctUpd k fun x => { x with items := x.items ++ [i] }).descItems k ((h + 1) % 2 ^ 32) n

/-- R367, R368: a write of FCT_Q_TAIL submits descriptors. -/
def State.fctTail (s : State) (k : Fin 6) (w : Wr) : State :=
  let pg := PG.fct k
  let v := bf (s.wouldBe pg w) 0 32
  let head := s.fld pg R.FCT_Q_HEAD 0 32
  let old := s.fld pg R.FCT_Q_TAIL 0 32
  let n := (v + 2 ^ 32 - old) % 2 ^ 32
  if s.fctSize k < (v + 2 ^ 32 - head) % 2 ^ 32 then s.logWr pg w .state
  else if ledgerItems < s.ldg.items.length + n + s.reserve then s.ledgerFull pg w
  else (s.setFld pg R.FCT_Q_TAIL 0 32 v).descItems k old n

/-- R338, R365 to R367: the facet starts the next descriptor of its ring. -/
def State.descStart (s : State) (k : Fin 6) : State :=
  let pg := PG.fct k
  let x := s.fct.get k
  let head := s.fld pg R.FCT_Q_HEAD 0 32
  if !s.running pg || x.run.isSome || s.bit pg R.FCT_STS 1 then s
  else
    match x.items with
    | [] => s
    | item :: rest =>
      let index := head % max 1 (s.fctSize k)
      let (r, s) := s.readBytes (s.descAddr k head) 256
      let s := (s.fctUpd k fun y => { y with items := rest }).setFld pg R.FCT_Q_HEAD 0 32 (head + 1)
      let d : Desc := { w := (List.range 32).map fun i => leNat ((r.bytes.drop (8 * i)).take 8) }
      let s := s.itemNames item (d.w.getD 0 0)
      let tag := d.f 0 48 16
      if r.bad then s.fctFinish k item tag index .failPoison 0
      else
        let why := s.descWhy k d
        if why ≠ 0 then s.fctFinish k item tag index .failInvalid why
        else if d.empty then s.fctFinish k item tag index .okEmpty 0
        else
          let (t, s) := if d.pool then s.pool d else s.conv k d
          let run : FctRun := { item, tag, index, status := if t.poison = 0 then .ok else .failPoison, start := s.dtc,
                                outs := d.output.rows }
          ((s.fctTally k t).fctUpd k fun y => { y with run := some run }).setBit pg R.FCT_STS 0 true

/-- R367: the running descriptor's last output is written. -/
def State.descDone (s : State) (k : Fin 6) : State :=
  match (s.fct.get k).run with
  | none => s
  | some r =>
    if !s.alive (PG.fct k) then s
    else
      let c := (s.fct.get k).busy + (s.dtc - r.start).toNat * s.coreClk / 1000
      let s := s.fctUpd k fun x => { x with run := none, busy := c % 1024 }
      let s := (s.addCnt (PG.fct k) R.FCT_CNT1 0 32 (c / 1024)).setBit (PG.fct k) R.FCT_STS 0 false
      s.fctFinish k r.item r.tag r.index r.status 0

/-- R368: RESUME lets the queue go on. -/
def State.fctResume (s : State) (k : Fin 6) : State := s.setBit (PG.fct k) R.FCT_STS 1 false

/-- R370: the enable of an FCT page: whether it passes. -/
def State.fctEnable (s : State) (k : Fin 6) : Bool × State :=
  let pg := PG.fct k
  if s.hbmAligned (s.reg pg R.FCT_Q_BASE).toNat (256 * s.fctSize k) 256 && ringSizeOk (s.fctSize k) 16 4096 then (true, s)
  else (false, (s.setBit pg R.FCT_STS 2 true).irq pg 3)

/-- TAG of a ledger item. -/
def State.itemTag (s : State) (i : Nat) : Nat := ((s.ldg.items.find? fun it => it.idx == i).map Item.tag).getD 0

/-- The descriptors submitted and not completed, the running one first: ledger item, TAG, ring index. -/
def State.fctOpen (s : State) (k : Fin 6) : List (Nat × Nat × Nat) :=
  let x := s.fct.get k
  let head := s.fld (PG.fct k) R.FCT_Q_HEAD 0 32
  (x.run.map fun r => (r.item, r.tag, r.index)).toList
    ++ x.items.mapIdx fun j i => (i, s.itemTag i, (head + j) % max 1 (s.fctSize k))

/-- R368, R369, R371: the facet's part of a reset of its page: the running descriptor's outputs are undefined, and every
descriptor completes with FAIL_RESET. -/
def State.fctPageReset (s : State) (k : Fin 6) : State :=
  let pg := PG.fct k
  let open_ := s.fctOpen k
  let outs := ((s.fct.get k).run.map FctRun.outs).getD []
  let s := outs.foldl (fun s (o : Nat × Nat) => s.forgetRange o.1 (o.1 + o.2)) s
  let s := open_.foldl (fun s (d : Nat × Nat × Nat) => s.fctFinish k d.1 d.2.1 d.2.2 .failReset 0) s
  let s := (s.fctUpd k fun x => { x with items := [], run := none }).setFld pg R.FCT_Q_HEAD 0 32
    (s.fld pg R.FCT_Q_TAIL 0 32)
  s.setBit pg R.FCT_STS 0 false

/-- R371: a write to a facet register. -/
def State.fctWrite (s : State) (k : Fin 6) (w : Wr) : State :=
  let pg := PG.fct k
  if w.reg = R.FCT_Q_TAIL then s.fctTail k w
  else if w.reg = R.FCT_CMD then (if bitAt w.val 0 then s.fctResume k else s)
  else if (w.reg = R.FCT_CTL ∨ w.reg = R.FCT_Q_BASE ∨ w.reg = R.FCT_Q_SIZE) ∧ s.enabled pg then s.logWr pg w .state
  else s.plainWrite pg w

/-- A 64-bit write to a facet register. -/
def State.fctWr (s : State) (ini : Initiator) (k : Fin 6) (off : Nat) (v : Word) : State :=
  s.gate (PG.fct k) (.full ini off v) fun s => s.fctWrite k (.full ini off v)

/-- R367: a write of FCT_Q_TAIL. -/
def execFctTailWrite (ini : Initiator) (k : Fin 6) (v : Word) (s : State) : Res := s.ends (s.fctWr ini k R.FCT_Q_TAIL v)

/-- R338: the next descriptor starts. -/
def execDescriptorStart (k : Fin 6) (s : State) : Res := s.ends (s.descStart k)

/-- R367: the running descriptor completes. -/
def execDescriptorDone (k : Fin 6) (s : State) : Res := s.ends (s.replied (PG.fct k) (s.fct.get k).run.isSome (s.descDone k))

/-- R368: FCT_CMD.RESUME. -/
def execFctResume (ini : Initiator) (k : Fin 6) (s : State) : Res := s.ends (s.fctWr ini k R.FCT_CMD 1)

end Sys2Proof.Machine
end

