-- ==== Sys2Proof/Machine/Incremental.lean ====
section
/-!
DEFINITION. Machine/Incremental.lean: the stack contexts of the FCT pages: incremental layers, rebase, readout (R372 to R395)
and detection (R396 to R402).
-/

namespace Sys2Proof.Machine

/-- A stack context. -/
def State.ictx (s : State) (k : Fin 6) (c : Fin 2) : IncState := (s.inc.get k).get c

/-- `s` with a stack context changed. -/
def State.incUpd (s : State) (k : Fin 6) (c : Fin 2) (f : IncState → IncState) : State :=
  { s with inc := vupd s.inc k fun v => vupd v c f }

/-- R392: a field of a context's register; `r` is one of the register names of R392. -/
def State.incF (s : State) (k : Fin 6) (c : Fin 2) (r : Nat → Nat) (lo n : Nat) : Nat := s.fld (PG.fct k) (r c.val) lo n

/-- R392: fields of INC_CTL. -/
def State.incEn (s : State) (k : Fin 6) (c : Fin 2) : Bool := s.incF k c R.INC_CTL 0 1 == 1
def State.incPort (s : State) (k : Fin 6) (c : Fin 2) : Fin 8 := baseOf (s.incF k c R.INC_CTL 1 3)
def State.incLayers (s : State) (k : Fin 6) (c : Fin 2) : Nat := s.incF k c R.INC_CTL 4 3
def State.incSigned (s : State) (k : Fin 6) (c : Fin 2) : Bool := s.incF k c R.INC_CTL 7 1 == 1
def State.incMode (s : State) (k : Fin 6) (c : Fin 2) : Nat := s.incF k c R.INC_CTL 8 2
def State.incBase (s : State) (k : Fin 6) (c : Fin 2) : Fin 8 := baseOf (s.incF k c R.INC_CTL 10 3)
def State.incRebBase (s : State) (k : Fin 6) (c : Fin 2) : Fin 8 := baseOf (s.incF k c R.INC_CTL 13 3)
def State.incRenorm (s : State) (k : Fin 6) (c : Fin 2) : Nat := s.incF k c R.INC_CTL 16 4
def State.incShift (s : State) (k : Fin 6) (c : Fin 2) : Nat := s.incF k c R.INC_CTL 20 4
def State.incBins (s : State) (k : Fin 6) (c : Fin 2) : Nat := s.incF k c R.INC_CTL 32 5
def State.incEpoch (s : State) (k : Fin 6) (c : Fin 2) : Nat := s.incF k c R.INC_EPOCH 0 8
def State.incReg (s : State) (k : Fin 6) (c : Fin 2) (r : Nat → Nat) : Word := s.reg (PG.fct k) (r c.val)

/-- Counts of a context (R392). -/
def State.incCount (s : State) (k : Fin 6) (c : Fin 2) (r : Nat → Nat) (lo n m : Nat) : State :=
  s.addCnt (PG.fct k) (r c.val) lo n m

/-- R379, R392: saturated additions; bit 6 sets when SAT rises from 0. -/
def State.incSat (s : State) (k : Fin 6) (c : Fin 2) (n : Nat) : State :=
  if n = 0 then s
  else
    let z := s.incF k c R.INC_CNT1 16 16 = 0
    let s := (s.incCount k c R.INC_CNT1 16 16 n).incUpd k c fun x => { x with sat := true }
    if z then s.irq (PG.fct k) 6 else s

/-- R380: a poisoned map read is counted and marks the next readout. -/
def State.incPoison (s : State) (k : Fin 6) (c : Fin 2) : State :=
  (s.incCount k c R.INC_CNT2 48 16 1).incUpd k c fun x => { x with poison := true }

/-- R378: an event that is not applied: counted in LOST, and marked in its window. -/
def State.incLost (s : State) (k : Fin 6) (c : Fin 2) (w : Word) : State :=
  let n := s.winIndex (s.incPort k c) (bf w 0 32)
  ((s.incCount k c R.INC_CNT1 0 16 1).irq (PG.fct k) 5).incUpd k c fun x => { x with loss := NSet.add x.loss n }

/-- R378: an admitted pixel event enters the queues of the enabled contexts of its port. -/
def State.incPush (s : State) (p : Fin 8) (w : Word) : State :=
  (List.finRange 6).foldl (fun s (k : Fin 6) => (List.finRange 2).foldl (fun s (c : Fin 2) =>
    if !s.alive (PG.fct k) || !s.incEn k c || s.incPort k c != p then s
    else if 4096 ≤ (s.ictx k c).q.length then s.incLost k c w
    else s.incUpd k c fun x => { x with q := x.q ++ [w] }) s) s

/-! ### Scale exponent and weight (R373) -/

/-- R373: E in 1/65,536 at a position. -/
def State.incE (s : State) (k : Fin 6) (c : Fin 2) (p : Word) : Int :=
  let h := (s.incReg k c R.INC_HALF).toInt
  if h ≤ 0 then 0 else (p - s.incReg k c R.INC_PREF).toInt * 65536 / h

/-- `2^(2^-i)` for i = 1, 2, …, in units of 2^-128, by repeated square roots from `x`. -/
def pow2Roots : Nat → Nat → List Nat
  | 0, _ => []
  | n + 1, x => let r := isqrt (x * 2 ^ 128); r :: pow2Roots n r

/-- `2^(f / 65536)` in units of 2^-128, for `f` below 65,536. -/
def pow2Fix (f : Nat) : Nat :=
  ((pow2Roots 16 (2 ^ 129)).mapIdx fun i r => if f.testBit (15 - i) then r else 2 ^ 128).foldl
    (fun a r => a * r / 2 ^ 128) (2 ^ 128)

/-- R373: `2^(n + e / 65536)` rounded to the nearest integer. -/
def weightG (n : Int) (e : Int) : Int :=
  let (p, q) := pow2Frac (n + e / 65536)
  roundEven ((pow2Fix (e % 65536).toNat * p : Nat) : Int) (2 ^ 128 * q)

/-! ### Maps (R375, R376) -/

/-- R375: channels of a position in memory. -/
def chanPow (c : Nat) : Nat := if c ≤ 2 then 2 else 2 ^ ((c - 1).log2 + 1)

/-- R375: a map with its tag map; a VOXEL map has none. -/
structure IMap where
  addr : Nat
  tag : Option Nat
  w : Nat
  h : Nat
  c : Nat
  deriving DecidableEq, Repr

/-- R375: bytes of one position, and of the map. -/
def IMap.posBytes (m : IMap) : Nat := 4 * chanPow m.c
def IMap.bytes (m : IMap) : Nat := m.w * m.h * m.posBytes

/-- R375: number of a position. -/
def IMap.ix (m : IMap) (y x : Nat) : Nat := y * m.w + x

/-- R376: a value `d` epochs old. -/
def lazyShift (v : Int) (d renorm : Nat) : Int := if 32 ≤ d * renorm then 0 else roundEven v (2 ^ (d * renorm))

/-- R376: epochs since a tag. -/
def tagAge (epoch tag : Nat) : Nat := (sdiff 8 epoch tag).toNat

/-- R376: the epochs since a position was last written; none where its tag reads poisoned. -/
def State.tagRead (s : State) (k : Fin 6) (c : Fin 2) (m : IMap) (i : Nat) : Option Nat × State :=
  match m.tag with
  | none => (some 0, s)
  | some t =>
    let (v, bad, s) := s.readNat (t + i) 1
    (if bad then none else some (tagAge (s.incEpoch k c) v), s)

/-- R375: the stored values of a position; none where they read poisoned. -/
def State.posVals (s : State) (m : IMap) (i : Nat) : Option (List Int) × State :=
  let (r, s) := s.readBytes (m.addr + i * m.posBytes) m.posBytes
  (if r.bad then none else some ((List.range (chanPow m.c)).map fun j => sgn 32 (leNat ((r.bytes.drop (4 * j)).take 4))), s)

/-- R376: the values of a position as the context uses them; none where a read is poisoned. -/
def State.posRead (s : State) (k : Fin 6) (c : Fin 2) (m : IMap) (i : Nat) : Option (List Int) × State :=
  let (d, s) := s.tagRead k c m i
  let (v, s) := s.posVals m i
  match d, v with
  | some d, some l => (some (l.map fun x => lazyShift x d (s.incRenorm k c)), s)
  | _, _ => (none, s)

/-- R376: the values of a position written whole. -/
def State.posVset (s : State) (m : IMap) (i : Nat) (l : List Int) : State :=
  s.writeBytes none (m.addr + i * m.posBytes) (l.map fun v => leBytes 4 (low 32 v)).flatten

/-- R376: the tag of a position set to EPOCH. -/
def State.tagSet (s : State) (k : Fin 6) (c : Fin 2) (m : IMap) (i : Nat) : State :=
  match m.tag with
  | none => s
  | some t => s.writeNat none (t + i) 1 (s.incEpoch k c)

/-- R372, R375: channels of the input map. -/
def State.incChans (s : State) (k : Fin 6) (c : Fin 2) : Nat :=
  if s.incMode k c = 2 then s.incBins k c else if s.incSigned k c then 1 else 2

/-- R375, R390: the input map; bank `b` of a VOXEL map. -/
def State.inMap (s : State) (k : Fin 6) (c : Fin 2) (b : Nat) : IMap :=
  let p := s.incPort k c
  let m : IMap := { addr := (s.incReg k c R.INC_IN_ADDR).toNat,
                    tag := if s.incMode k c = 2 then none else some (s.incReg k c R.INC_IN_TAG).toNat,
                    w := s.geomW p, h := s.geomH p, c := s.incChans k c }
  { m with addr := m.addr + b * m.bytes }

/-! ### Layers (R379, R381) -/

/-- R392: an incremental layer with its input size. -/
structure ILay where
  kh : Nat
  kw : Nat
  sh : Nat
  sw : Nat
  dh : Nat
  dw : Nat
  cin : Nat
  cout : Nat
  act : Nat
  q : Nat
  padT : Nat
  padB : Nat
  padL : Nat
  padR : Nat
  wts : Nat
  ch : Nat
  m : Nat
  sent : Nat
  tag : Nat
  p0 : Nat
  h : Nat
  w : Nat
  deriving DecidableEq, Repr

/-- R348: the layer's output size. -/
def ILay.hOut (l : ILay) : Int := outSize l.h l.padT l.padB l.dh l.kh l.sh
def ILay.wOut (l : ILay) : Int := outSize l.w l.padL l.padR l.dw l.kw l.sw

/-- The maps M and S of a layer. -/
def ILay.mapM (l : ILay) : IMap := { addr := l.m, tag := some l.tag, w := l.wOut.toNat, h := l.hOut.toNat, c := l.cout }
def ILay.mapS (l : ILay) : IMap := { l.mapM with addr := l.sent }

/-- R392: layer `j` over an input of `cin` channels and size `h` × `w`. -/
def State.layOf (s : State) (k : Fin 6) (c : Fin 2) (j cin h w : Nat) : ILay :=
  let g := s.reg (PG.fct k) (R.LAY_GEOM c j)
  let p := s.reg (PG.fct k) (R.LAY_PAD c j)
  let a := fun (r : Nat → Nat → Nat) => (s.reg (PG.fct k) (r c.val j)).toNat
  { kh := bf g 0 4, kw := bf g 4 4, sh := bf g 8 4, sw := bf g 12 4, dh := bf g 16 4, dw := bf g 20 4, cin,
    cout := bf g 24 7, act := bf g 32 3, q := bf g 40 8, padT := bf p 0 8, padB := bf p 8 8, padL := bf p 16 8,
    padR := bf p 24 8, wts := a R.LAY_W, ch := a R.LAY_CH, m := a R.LAY_M, sent := a R.LAY_S, tag := a R.LAY_TAG,
    p0 := nfld (a R.LAY_P0) 0 32, h, w }

/-- The layers from `j` on. -/
def State.layFrom (s : State) (k : Fin 6) (c : Fin 2) : Nat → Nat → Nat → Nat → Nat → List ILay
  | 0, _, _, _, _ => []
  | n + 1, j, cin, h, w =>
    let l := s.layOf k c j cin h w
    l :: s.layFrom k c n (j + 1) l.cout l.hOut.toNat l.wOut.toNat

/-- R381: the layers of the stack. -/
def State.incLays (s : State) (k : Fin 6) (c : Fin 2) : List ILay :=
  let p := s.incPort k c
  s.layFrom k c (min 4 (s.incLayers k c)) 0 (s.incChans k c) (s.geomH p) (s.geomW p)

/-- R348: the output index that tap `t` reaches from input index `i` in one dimension. -/
def tapOut (i pad t d st : Nat) (n : Int) : Option Nat :=
  if i + pad < t * d ∨ st = 0 then none
  else
    let o := (i + pad - t * d) / st
    if (i + pad - t * d) % st = 0 ∧ (o : Int) < n then some o else none

/-- R379: outputs that an input position reaches, with their taps, in row-major order of the taps. -/
def ILay.reach (l : ILay) (y x : Nat) : List ((Nat × Nat) × (Nat × Nat)) :=
  ((List.range l.kh).map fun kh => (List.range l.kw).filterMap fun kw =>
    match tapOut y l.padT kh l.dh l.sh l.hOut, tapOut x l.padL kw l.dw l.sw l.wOut with
    | some oy, some ox => some ((oy, ox), (kh, kw))
    | _, _ => none).flatten

/-- R344, R381: address of the weights of a tap and an input channel. -/
def ILay.wRow (l : ILay) (kh kw ci : Nat) : Nat := l.wts + (kh * l.kw + kw) * 4096 + 64 * ci

/-- The weights of a tap and an input channel to every output channel; none where they read poisoned. -/
def State.wRead (s : State) (l : ILay) (kh kw ci : Nat) : Option (List Int) × State :=
  let (r, s) := s.readBytes (l.wRow kh kw ci) 64
  (if r.bad then none else some ((List.range l.cout).map fun o => sgn 8 (r.bytes.getD o 0).toNat), s)

/-- A sum saturated to INT32, and whether it saturated. -/
def add32 (a b : Int) : Int × Nat := (satS 32 (a + b), if satS 32 (a + b) = a + b then 0 else 1)

/-- R379: channelwise saturating sums with their count of saturations. -/
def addRow (a b : List Int) : List Int × Nat :=
  let r := (a.zip b).map fun p => add32 p.1 p.2
  (r.map Prod.fst, (r.map Prod.snd).sum)

/-- R379, R381: the activation of a pre-activation; an MS that is no finite number gives a free value. -/
def ILay.activation (l : ILay) (m : Int) (ms free : Nat) : Int :=
  let r : Option Int := match fp32.dec ms with
    | .fin neg a e => let (p, q) := pow2Frac e; some (roundEven (m * sgnM neg a * p) q)
    | _ => none
  match r with
  | none => sgn 32 (Config.freeNat free)
  | some v =>
    let v :=
      if l.act = 1 then max v 0
      else if l.act = 3 ∧ v < 0 then
        match fp32.dec l.p0 with
        | .fin neg a e => let (p, q) := pow2Frac e; roundEven (v * sgnM neg a * p) q
        | _ => sgn 32 (Config.freeNat free)
      else v
    satS 32 v

/-- R345: MS of every channel; none where the table reads poisoned. -/
def State.scales (s : State) (l : ILay) : Option (List Nat) × State :=
  let (t, s) := s.readTable l.ch 16 l.cout
  (if t.any Prod.snd then none else some (t.map fun e => nfld e.1 32 32), s)

/-- The activations of a position. -/
def State.acts (s : State) (l : ILay) (m : List Int) : Option (List Int) × State :=
  let (ms, s) := s.scales l
  match ms with
  | none => (none, s)
  | some ms =>
    let (f, s) := s.takeFree
    (some ((m.zip ms).map fun p => l.activation p.1 p.2 f), s)

/-- R379: a change that passed the gate: source position, channel, δ. -/
structure Passed where
  y : Nat
  x : Nat
  c : Nat
  d : Int
  deriving DecidableEq, Repr

/-- R379: one position of a layer takes additions to M; a gated layer compares its activations with S and sends what passes.
`g` is the gate's threshold, none in the last layer. -/
def State.layTouch (s : State) (k : Fin 6) (c : Fin 2) (l : ILay) (g : Option Nat) (pos : Nat × Nat)
    (adds : Option (List Int × Nat)) : List Passed × State :=
  let i := l.mapM.ix pos.1 pos.2
  let (m, s) := s.posRead k c l.mapM i
  let (sv, s) := match g with
    | none => (some [], s)
    | some _ => s.posRead k c l.mapS i
  match m, sv, adds with
  | some m, some sv, some (adds, n0) =>
    let (m', n) := addRow (m.take l.cout) adds
    let s := s.incSat k c (n0 + n)
    let (a, s) := match g with
      | none => (some [], s)
      | some _ => s.acts l m'
    match a with
    | none => ([], s.incPoison k c)
    | some a =>
      let full := m' ++ m.drop l.cout
      match g with
      | none => ([], (s.posVset l.mapM i full).tagSet k c l.mapM i)
      | some g =>
        let ds := (a.zip sv).map fun p => add32 p.1 (-p.2)
        let s := s.incSat k c (ds.map Prod.snd).sum
        let pass := ds.map fun d => decide (g ≤ d.1.natAbs)
        let sv' := ((a.zip sv).zip pass).map fun p => if p.2 then p.1.1 else p.1.2
        let s := ((s.posVset l.mapM i full).posVset l.mapS i (sv' ++ sv.drop l.cout)).tagSet k c l.mapM i
        let out := (ds.zip pass).mapIdx fun j p => (j, p.1.1, p.2)
        let out := out.filter fun o => o.2.2
        (out.map fun o => { y := pos.1, x := pos.2, c := o.1, d := o.2.1 }, s.incCount k c R.INC_CNT0 32 32 out.length)
  | _, _, _ => ([], s.incPoison k c)

/-- Positions in row-major order, each once. -/
def posSort (l : List (Nat × Nat)) : List (Nat × Nat) :=
  l.foldl (fun acc p => (acc.takeWhile fun q => decide (q.1 < p.1) || (q.1 == p.1 && decide (q.2 < p.2))) ++
    (match acc.dropWhile fun q => decide (q.1 < p.1) || (q.1 == p.1 && decide (q.2 < p.2)) with
      | [] => [p]
      | q :: r => if q = p then q :: r else p :: q :: r)) []

/-- R379: what a position of a layer gains: the sum of W × δ over the changes that reach it, in their order, saturating at
each addition (a single product, as in layer 1, is added to M as it is); `acc` holds the sum so far and its saturations, none
where a weight has read poisoned. -/
def State.gather379 (s : State) (l : ILay) (pos : Nat × Nat) :
    List Passed → Option (Option (List Int) × Nat) → Option (List Int × Nat) × State
  | [], acc => (acc.map fun a => (a.1.getD (List.replicate l.cout 0), a.2), s)
  | d :: r, acc =>
    match acc, (l.reach d.y d.x).find? fun t => t.1 == pos with
    | some (v, n), some (_, kh, kw) =>
      let (w, s) := s.wRead l kh kw d.c
      match w with
      | none => s.gather379 l pos r none
      | some w =>
        let g := w.map (· * d.d)
        match v with
        | none => s.gather379 l pos r (some (some g, n))
        | some v =>
          let (v', n') := addRow v g
          s.gather379 l pos r (some (some v', n + n'))
    | _, _ => s.gather379 l pos r acc

/-- R379: a layer and those after it take the changes of the layer below. -/
def State.layProp (s : State) (k : Fin 6) (c : Fin 2) (kexp : Nat) : List ILay → List Passed → State
  | [], _ => s
  | l :: r, ds =>
    let pos := posSort (ds.map fun d => (l.reach d.y d.x).map Prod.fst).flatten
    let g := if r.isEmpty then none else some (l.q * 2 ^ kexp)
    let (out, s) := pos.foldl (fun (acc : List Passed × State) p =>
      let (adds, s) := acc.2.gather379 l p ds (some (none, 0))
      let (o, s) := s.layTouch k c l g p adds
      (acc.1 ++ o, s)) ([], s)
    if out.isEmpty then s else s.layProp k c kexp r out

/-! ### Rebase (R384 to R387) -/

/-- R392: REBASING, REB_LAYER and REB_ROW show the running rebase. -/
def State.rebShow (s : State) (k : Fin 6) (c : Fin 2) : State :=
  let r := (s.ictx k c).reb
  let pg := PG.fct k
  let s := s.setBit pg (R.INC_STS c) 2 r.isSome
  match r with
  | none => s
  | some r => (s.setFld pg (R.INC_STS c) 3 3 r.layer).setFld pg (R.INC_STS c) 32 16 r.row

/-- R384: the target of the rebase item moves on until it lies ahead of the base. -/
def State.rebTarget (s : State) (k : Fin 6) (c : Fin 2) : State :=
  let span := (s.incReg k c R.INC_REB_SPAN).toNat
  let b := s.incRebBase k c
  let pos := s.pos b
  let t := (s.ictx k c).target + wOfNat span
  let n := if span = 0 ∨ before pos t then 0 else ((pos - t).toInt.toNat / span) + 1
  let t := t + wOfNat (n * span)
  let s := s.incUpd k c fun x => { x with target := t }
  if s.incLayers k c = 0 then s else s.schedAdd (.rebase k c) b t pos

/-- R377, R380: every element of the input map is rewritten at the present epoch, so that no tag lies before the epoch at the
rebase's start; a poisoned one is rewritten whole, with values that the spec does not state (log 221). -/
def State.retag (s : State) (k : Fin 6) (c : Fin 2) : State :=
  let m := s.inMap k c 0
  (List.range (m.w * m.h)).foldl (fun s i =>
    let (v, s) := s.posRead k c m i
    match v with
    | none =>
      let (f, s) := (s.incPoison k c).takeFree
      (s.posVset m i ((List.range (chanPow m.c)).map fun j => sgn 32 (leNat ((List.range 4).map fun b =>
        Config.freeByte f (4 * j + b))))).tagSet k c m i
    | some v => (s.posVset m i v).tagSet k c m i) s

/-- R384, R385: a rebase begins. -/
def State.rebBegin (s : State) (k : Fin 6) (c : Fin 2) : State :=
  let e := s.incEpoch k c
  let s := s.incUpd k c fun x => { x with rebReq := false, reb := some { layer := 0, row := 0, start := e, seen := [] } }
  ((s.rebTarget k c).retag k c).rebShow k c

/-- R384: a rebase is asked for; one asked for while a rebase runs is counted and ignored. -/
def State.rebAsk (s : State) (k : Fin 6) (c : Fin 2) : State :=
  if (s.ictx k c).reb.isSome then s.incCount k c R.INC_CNT2 40 8 1
  else s.incUpd k c fun x => { x with rebReq := true }

/-- R82, R384: the rebase item falls due. -/
def State.rebDue (s : State) (k : Fin 6) (c : Fin 2) : State :=
  let run := (s.ictx k c).reb.isSome
  let s := s.rebAsk k c
  if run then s.rebTarget k c else s

/-- R387: a running rebase is abandoned. -/
def State.rebDrop (s : State) (k : Fin 6) (c : Fin 2) : State := (s.incUpd k c fun x => { x with reb := none }).rebShow k c

/-- A range written with zeros: whole words at once, the rest of its first and last word by partial writes. -/
def State.zeroBytes (s : State) (a n : Nat) : State :=
  let b := min (a + n) ((a + 31) / 32 * 32)
  let e := max b ((a + n) / 32 * 32)
  let s := if a < b then s.writeBytes none a (List.replicate (b - a) 0) else s
  let s := if b < e then s.zeroRange b e else s
  if e < a + n then s.writeBytes none e (List.replicate (a + n - e) 0) else s

/-- R393, R394: the maps and tag maps of a context, as ranges; the first part of each tells a map from a tag map. -/
def State.incRanges (s : State) (k : Fin 6) (c : Fin 2) : List (Bool × Nat × Nat) :=
  let m := s.inMap k c 0
  let lays := s.incLays k c
  let n := if s.incMode k c = 2 then 2 * m.bytes else m.bytes
  [(true, m.addr, n)] ++ (match m.tag with | none => [] | some t => [(false, t, m.w * m.h)])
    ++ (lays.mapIdx fun j l =>
      [(true, l.m, l.mapM.bytes), (false, l.tag, l.mapM.w * l.mapM.h)]
        ++ (if j + 1 < lays.length then [(true, l.sent, l.mapS.bytes)] else [])).flatten

/-- R377: STALE_CLEAR. -/
def State.staleClear (s : State) (k : Fin 6) (c : Fin 2) : State :=
  let s := (s.incRanges k c).foldl (fun s (r : Bool × Nat × Nat) => s.zeroBytes r.2.1 r.2.2) s
  let s := (s.rebDrop k c).setFld (PG.fct k) (R.INC_EPOCH c) 8 8 (s.incEpoch k c)
  (s.incCount k c R.INC_CNT2 32 8 1).incUpd k c fun x => { x with stale := true }

/-- R374, R377: one epoch advance. -/
def State.epochStep (s : State) (k : Fin 6) (c : Fin 2) : State :=
  let pg := PG.fct k
  let half := s.incReg k c R.INC_HALF
  let s := s.setReg pg (R.INC_PREF c) (s.reg pg (R.INC_PREF c) + wOfNat (s.incRenorm k c) * half)
  let s := s.setFld pg (R.INC_EPOCH c) 0 8 (s.incEpoch k c + 1)
  let d := (s.incEpoch k c + 256 - s.incF k c R.INC_EPOCH 8 8) % 256
  if d = 64 ∧ (s.ictx k c).reb.isNone then ((s.incCount k c R.INC_CNT1 48 16 1).irq pg 7).rebBegin k c
  else if d = 127 then s.staleClear k c
  else s

/-- R374: the context advances `n` epochs. -/
def State.epochSteps (s : State) (k : Fin 6) (c : Fin 2) : Nat → State
  | 0 => s
  | n + 1 => (s.epochStep k c).epochSteps k c n

/-- R374: epochs advance until floor(E) lies below RENORM; the answer is E. -/
def State.epochAdvance (s : State) (k : Fin 6) (c : Fin 2) (p : Word) : Int × State :=
  let n := if s.incRenorm k c = 0 then 0 else (s.incE k c p / 65536).toNat / s.incRenorm k c
  let s := s.epochSteps k c n
  (s.incE k c p, s)

/-! ### Events (R378 to R380, R390) -/

/-- R372: the position's channel takes an event. -/
def setChan (l : List Int) (c : Nat) (f : Int → Int × Nat) : List Int × Nat :=
  match l[c]? with
  | none => (l, 0)
  | some v => (l.set c (f v).1, (f v).2)

/-- R390: the bank of the port's window at place `j` is unread by an earlier window of the same bank: one that still stands open,
or one whose chain's readout of the context has yet to run. -/
def State.bankUnread (s : State) (k : Fin 6) (c : Fin 2) (p : Fin 8) (j : Nat) (win : Win) : Bool :=
  let same := fun (w : Win) => w.k % 2 == win.k % 2 && w.k != win.k
  (((s.wins p).take j).any same) || (s.res.chains.get p).any fun h =>
    same h.win && !h.shed && bitAt h.rd (2 * k.val + c.val) && (decide (h.step < 2) || (h.step == 2 &&
      (h.entry == 0 || match (s.ictx k c).ro with | some r => r.chain == h.id && r.status.isNone | none => false)))

/-- R390: an event of a VOXEL context. -/
def State.voxelApply (s : State) (k : Fin 6) (c : Fin 2) (w : Word) : State :=
  let p := s.incPort k c
  let (r, s) := s.winFind p (bf w 0 32)
  match r with
  | none => s.incLost k c w
  | some (j, _) =>
    match (s.wins p)[j]? with
    | none => s.incLost k c w
    | some win =>
      let b := win.k % 2
      let held := (s.ictx k c).bank.get ⟨b, Nat.mod_lt _ (by decide)⟩
      if (held.isSome ∧ held ≠ some win.k) ∨ s.bankUnread k c p j win then s.incLost k c w
      else
        let (x, s) := s.winPlace p (bf w 0 32)
        let span := (win.stop - win.start).toInt
        let top : Int := ((s.incBins k c - 1 : Nat) : Int) * 256
        let u := if span ≤ 0 then 0 else max 0 (min top (top * (x - win.start).toInt / span))
        let bin := (u / 256).toNat
        let f := u % 256
        let sg : Int := if bitAt w 54 then 1 else -1
        let m := s.inMap k c b
        let i := m.ix (bf w 43 11) (bf w 32 11)
        let (v, s) := s.posVals m i
        match v with
        | none => s.incPoison k c
        | some v =>
          let (v, n0) := setChan v bin fun a => add32 a (sg * (256 - f))
          let (v, n1) := if bin + 1 < s.incBins k c then setChan v (bin + 1) fun a => add32 a (sg * f) else (v, 0)
          let s := (s.incSat k c (n0 + n1)).posVset m i v
          (s.incCount k c R.INC_CNT0 0 32 1).incUpd k c fun y =>
            { y with bank := y.bank.set b (some win.k) (Nat.mod_lt _ (by decide)) }

/-- R372, R379: an event of a context with decay. -/
def State.decayApply (s : State) (k : Fin 6) (c : Fin 2) (w : Word) : State :=
  let (p, _, s) := s.lookPos (s.incBase k c) (bf w 0 32)
  let (e, s) := s.epochAdvance k c p
  let g := weightG (s.incShift k c) e
  let on := bitAt w 54
  let y := bf w 43 11
  let x := bf w 32 11
  let ch := if s.incSigned k c then 0 else b2n on
  let g' : Int := if s.incSigned k c && !on then -g else g
  let m := s.inMap k c 0
  let i := m.ix y x
  let s := s.incCount k c R.INC_CNT0 0 32 1
  let (v, s) := s.posRead k c m i
  match v with
  | none => s.incPoison k c
  | some v =>
    let (v, n) := setChan v ch fun a => if s.incMode k c = 1 then (satS 32 g, 0) else add32 a g'
    let s := ((s.incSat k c n).posVset m i v).tagSet k c m i
    let lays := s.incLays k c
    s.layProp k c (e / 65536).toNat lays [{ y, x, c := ch, d := g' }]

/-- R378: a context applies events: its page runs, it is enabled and owes no rebase (R395). -/
def State.incRuns (s : State) (k : Fin 6) (c : Fin 2) : Bool := s.running (PG.fct k) && s.incEn k c

/-- R395: a context with layers owes a rebase before it applies an event. -/
def State.incOwes (s : State) (k : Fin 6) (c : Fin 2) : Bool := (s.ictx k c).needReb && s.incLayers k c != 0

/-- R379: the head of the queue is applied. -/
def State.incApply (s : State) (k : Fin 6) (c : Fin 2) : State :=
  let x := s.ictx k c
  if !s.incRuns k c || s.incOwes k c then s
  else
    match x.q with
    | [] => s
    | w :: r =>
      let s := s.incUpd k c fun y => { y with q := r }
      if s.incMode k c = 2 then s.voxelApply k c w else s.decayApply k c w

/-! ### Row steps -/

/-- R387: S of a source position of layer `l`, set to its activation when the running sweep first reads it. -/
def State.rebSource (s : State) (k : Fin 6) (c : Fin 2) (l : ILay) (pos : Nat × Nat) : Option (List Int) × State :=
  let i := l.mapM.ix pos.1 pos.2
  let seen := match (s.ictx k c).reb with | some r => r.seen.contains pos | none => true
  if seen then s.posRead k c l.mapS i
  else
    let (m, s) := s.posRead k c l.mapM i
    match m with
    | none => (none, s)
    | some m =>
      let (a, s) := s.acts l (m.take l.cout)
      match a with
      | none => (none, s)
      | some a =>
        let full := a ++ List.replicate (chanPow l.cout - l.cout) 0
        let s := ((s.posVset l.mapM i m).posVset l.mapS i full).tagSet k c l.mapM i
        (some full, s.incUpd k c fun x => { x with reb := x.reb.map fun r => { r with seen := pos :: r.seen } })

/-- R348: the input position that a tap reads at an output position; none in the padding. -/
def ILay.source (l : ILay) (oy ox kh kw : Nat) : Option (Nat × Nat) :=
  let y := oy * l.sh + kh * l.dh
  let x := ox * l.sw + kw * l.dw
  if l.padT ≤ y ∧ y - l.padT < l.h ∧ l.padL ≤ x ∧ x - l.padL < l.w then some (y - l.padT, x - l.padL) else none

/-- R385: the exact sums of one output position over the taps and input channels; a poisoned source sends nothing (R380). -/
def State.rebSums (s : State) (k : Fin 6) (c : Fin 2) (below : Option ILay) (l : ILay) (oy ox : Nat) :
    List (Nat × Nat) → List Int → List Int × State
  | [], acc => (acc, s)
  | (kh, kw) :: r, acc =>
    match l.source oy ox kh kw with
    | none => s.rebSums k c below l oy ox r acc
    | some pos =>
      let (v, s) := match below with
        | none => let m := s.inMap k c 0; s.posRead k c m (m.ix pos.1 pos.2)
        | some b => s.rebSource k c b pos
      match v with
      | none => (s.incPoison k c).rebSums k c below l oy ox r acc
      | some v =>
        let (acc, s) := (List.range l.cin).foldl (fun (a : List Int × State) ci =>
          let (w, s) := a.2.wRead l kh kw ci
          match w with
          | none => (a.1, s.incPoison k c)
          | some w => ((a.1.zip w).map fun p => p.1 + p.2 * v.getD ci 0, s)) (acc, s)
        s.rebSums k c below l oy ox r acc

/-- R380, R385: one output position is recomputed and written whole; where its S reads poisoned, S takes the activation of the
new M, as at the sweep's first read (R387; DEDUCED, log 221). -/
def State.rebPos (s : State) (k : Fin 6) (c : Fin 2) (below : Option ILay) (l : ILay) (gated : Bool) (oy ox : Nat) : State :=
  let taps := ((List.range l.kh).map fun kh => (List.range l.kw).map fun kw => (kh, kw)).flatten
  let (sums, s) := s.rebSums k c below l oy ox taps (List.replicate l.cout 0)
  let i := l.mapM.ix oy ox
  let s := s.incSat k c (sums.filter fun v => satS 32 v != v).length
  let s := if !gated then s
    else match s.posRead k c l.mapS i with
      | (some v, s) => s.posVset l.mapS i v
      | (none, s) =>
        let (a, s) := (s.incPoison k c).acts l (sums.map (satS 32))
        s.posVset l.mapS i (a.getD [] ++ List.replicate (chanPow l.cout - (a.getD []).length) 0)
  (s.posVset l.mapM i (sums.map (satS 32) ++ List.replicate (chanPow l.cout - l.cout) 0)).tagSet k c l.mapM i

/-- R385: one row step. -/
def State.rowStep (s : State) (k : Fin 6) (c : Fin 2) (r : Rebase) : State :=
  let lays := s.incLays k c
  match lays[r.layer]? with
  | none => s
  | some l =>
    let below := if r.layer = 0 then none else lays[r.layer - 1]?
    let line := s.shelfRegion k R.SHF_LINE
    let need := ((l.kh - 1) * l.dh + 1) * l.w * 4 * chanPow l.cin
    let s := s.forgetRange line.1 (line.1 + min line.2 need)
    let s := (List.range l.wOut.toNat).foldl (fun s ox =>
      s.rebPos k c below l (decide (r.layer + 1 < lays.length)) r.row ox) s
    let s := s.incUpd k c fun x => { x with reb := x.reb.map fun q =>
      if (r.row + 1 : Nat) < l.hOut then { q with row := r.row + 1 }
      else { q with layer := r.layer + 1, row := 0, seen := [] } }
    s.rebShow k c

/-- R386: the next row step of a running rebase, when no event waits (but for a rebase that events must await) and no
readout runs. -/
def State.rebRow (s : State) (k : Fin 6) (c : Fin 2) : State :=
  let x := s.ictx k c
  match x.reb with
  | none => s
  | some r =>
    if s.incRuns k c && (x.q.isEmpty || s.incOwes k c) && x.ro.isNone then s.rowStep k c r else s

/-- R387: the rebase ends. -/
def State.rebFinish (s : State) (k : Fin 6) (c : Fin 2) : State :=
  match (s.ictx k c).reb with
  | none => s
  | some r =>
    if s.incRuns k c && decide (min 4 (s.incLayers k c) ≤ r.layer) then
      let s := (s.rebDrop k c).setFld (PG.fct k) (R.INC_EPOCH c) 8 8 r.start
      (s.incCount k c R.INC_CNT1 32 16 1).incUpd k c fun x => { x with needReb := false, sat := false, stale := false }
    else s

/-- R384, R395: a rebase that was asked for, or that the page's reset made due, starts. -/
def State.rebStart (s : State) (k : Fin 6) (c : Fin 2) : State :=
  let x := s.ictx k c
  if s.incRuns k c && x.reb.isNone && (x.rebReq || s.incOwes k c) then s.rebBegin k c else s

/-! ### Readout (R388 to R391) -/

/-- R389: E_r's base position at the end of a window: the window's own end where it lies on the base, else where the base stood
when the window ended. -/
def State.roPlace (s : State) (k : Fin 6) (c : Fin 2) (w : Win) : Word :=
  let p := s.incPort k c
  let b := s.incBase k c
  if s.winMode p = 2 ∧ s.winBase p = b then w.stop else (s.posAt b (ietOf w.endDtc)).1

/-- R388: a chain asks for the readout of a context; a disabled context refuses. The answer is the item. -/
def State.roAsk (s : State) (k : Fin 6) (c : Fin 2) (chain : Nat) (w : Win) : Nat × State :=
  let (i, s) := s.openItem (PG.fct k) (s.incF k c R.INC_CTL 24 6) 0 false
  if !s.incEn k c then (i, s.closeItem i .failInvalid 0)
  else
    let pl := s.roPlace k c w
    (i, s.incUpd k c fun x => { x with ro := some { item := i, chain, win := w.k, place := pl } })

/-- `2^(-e / 65536)` in FP32: exact for a whole exponent, else one of the two neighbours of the exact value (R389: within
1 ulp). -/
def invScale (e : Int) (free : Nat) : Nat :=
  let (p, q) := pow2Frac ((-e) / 65536)
  let f := ((-e) % 65536).toNat
  let r := fp32.round false false (pow2Fix f * p) (2 ^ 128 * q)
  if f = 0 then r
  else
    let up := match fp32.dec r with
      | .fin _ m g => let (a, b) := pow2Frac g; decide (m * a * (2 ^ 128 * q) < pow2Fix f * p * b)
      | _ => false
    if Config.freeNat free % 2 = 0 then r else if up then r + 1 else r - 1

/-- R389: the readout's source: its map and layer. -/
def State.roSource (s : State) (k : Fin 6) (c : Fin 2) (win : Nat) : IMap × Option ILay :=
  match s.incF k c R.INC_RO_CTL 4 2 with
  | 0 =>
    match (s.incLays k c).getLast? with
    | some l => (l.mapM, some l)
    | none => (s.inMap k c 0, none)
  | 2 => (s.inMap k c (win % 2), none)
  | _ => (s.inMap k c 0, none)

/-- R389: the value v of a stored element. -/
def State.roValue (s : State) (k : Fin 6) (c : Fin 2) (sc : Nat) (n : Int) : Nat :=
  let src := s.incF k c R.INC_RO_CTL 4 2
  if src = 2 then fmul (fint n) (fp32.ofDyadic false 1 (-8) false)
  else if src = 1 then
    fmul (fint n) (fp32.enc false (match fp32.dec sc with | .fin a m e => .fin a m (e - (s.incShift k c : Int)) | x => x))
  else fmul (fint n) sc

/-- R380, R389: one position is read out and written; a poisoned map read is counted. -/
def State.roPos (s : State) (k : Fin 6) (c : Fin 2) (m : IMap) (l : Option ILay) (t : Tensor) (sc : Nat)
    (tab : List (Nat × Bool)) (y x : Nat) : Bool × State :=
  let (v, s) := s.posRead k c m (m.ix y x)
  let s := if v.isNone then s.incPoison k c else s
  let (v, s) := match l, v with
    | some l, some v => s.acts l (v.take l.cout)
    | _, v => (v, s)
  let bad := v.isNone || tab.any Prod.snd
  let el := (List.range m.c).map fun j =>
    let e := (tab.getD j (0, false)).1
    let z := if fmtInt t.fmt then sgn 16 (nfld e 64 16) else 0
    (toFormat t.fmt z (fadd (fmul (s.roValue k c sc ((v.getD []).getD j 0)) (nfld e 0 32)) (nfld e 32 32))).1
  let n := fmtT t.fmt
  let s := (List.range t.planes).foldl (fun s p =>
    let part := (el.drop (p * n)).take n
    s.writePoisoned none (t.at_ p y x) (packElems t.fmt (part ++ List.replicate (n - part.length) 0)) bad) s
  (bad, s)

/-- R399: what the readout and the detection pass of a chain have found; a chain without a readout of its own finds what the
latest readout found (DESIGN CHOICE, log 222). -/
def IncState.infoOf (x : IncState) (chain : Nat) : ListInfo :=
  match x.infos.find? fun i => i.1 == chain with
  | some i => i.2
  | none => match x.infos with
    | [] => {}
    | i :: _ => { i.2 with candidates := 0, trunc := false, outFull := false, nan := false }

/-- R399: the same, noted; the chains of a port in flight are few. -/
def IncState.infoPut (x : IncState) (chain : Nat) (i : ListInfo) : List (Nat × ListInfo) :=
  ((chain, i) :: x.infos.filter fun e => e.1 != chain).take 16

/-- R388, R389: the readout's snapshot is taken and its tensor written. -/
def State.readout (s : State) (k : Fin 6) (c : Fin 2) : State :=
  match (s.ictx k c).ro with
  | none => s
  | some r =>
    if r.status.isSome || !s.running (PG.fct k) then s
    else
      let done := fun (s : State) (st : Status) => s.incUpd k c fun x => { x with ro := some { r with status := some st } }
      let fmt := s.incF k c R.INC_RO_CTL 0 4
      if !s.incEn k c || decide (4 < fmt) then done s .failInvalid
      else
        let e := s.incE k c r.place
        let (m, l) := s.roSource k c r.win
        let (f, s) := s.takeFree
        let sc := invScale e f
        let (tab, s) := s.readTable (s.incReg k c R.INC_RO_CH).toNat 16 m.c
        let t : Tensor := { addr := (s.incReg k c R.INC_RO_ADDR).toNat, row := s.incF k c R.INC_RO_PITCH 0 32,
                            plane := s.incF k c R.INC_RO_PITCH 32 32, c := m.c, h := m.h, w := m.w, fmt }
        let pos := ((List.range m.h).map fun y => (List.range m.w).map fun x => (y, x)).flatten
        let (bad, s) := pos.foldl (fun (acc : Bool × State) p =>
          let (b, s) := acc.2.roPos k c m l t sc tab p.1 p.2
          (acc.1 || b, s)) (false, s)
        let b := r.win % 2
        let s := if s.incMode k c = 2 then
            (s.zeroBytes m.addr m.bytes).incUpd k c fun x => { x with bank := x.bank.set b none (Nat.mod_lt _ (by decide)) }
          else s
        let s := s.incCount k c R.INC_CNT2 0 32 1
        let s := s.incUpd k c fun x => { x with
          poison := false, loss := NSet.del x.loss r.win
          infos := x.infoPut r.chain { loss := NSet.has x.loss r.win, sat := x.sat, rebasing := x.reb.isSome,
                                       poison := x.poison || bad, stale := x.stale, er := e } }
        done s (if bad then .failPoison else .ok)

/-- R389: the readout completes. -/
def State.roDone (s : State) (k : Fin 6) (c : Fin 2) : State :=
  match (s.ictx k c).ro with
  | some r =>
    match r.status with
    | some st => (s.incUpd k c fun x => { x with ro := none }).closeItem r.item st 0
    | none => s
  | none => s

/-! ### Detection (R396 to R401) -/

/-- log_e 2 in units of 2^-160. -/
def fixLn2 : Nat := 1013035739299659071135698605846798551586536899366

/-- `e^r` in units of 2^-160 by its series, for `r` in the same units. -/
def expSeries (r : Nat) : Nat → Nat → Nat → Nat
  | 0, _, _ => 0
  | n + 1, i, t => t + expSeries r n (i + 1) (t * r / (2 ^ 160 * (i + 1)))

/-- `e^x` as a mantissa in units of 2^-160 and a power of two, for a finite FP32 value (beyond ±200 as at ±200). -/
def expFix (neg : Bool) (m : Nat) (e : Int) : Nat × Int :=
  let (p, q) := pow2Frac (e + 160)
  let x : Int := min (m * p / q) (200 * 2 ^ 160)
  let x := if neg then -x else x
  let n := x / (fixLn2 : Int)
  (expSeries (x % (fixLn2 : Int)).toNat 50 0 (2 ^ 160), n)

/-- FP32 exponential, rounded once. -/
def fexp (x : Nat) : Nat :=
  match fp32.dec x with
  | .nan => fp32.nan
  | .inf neg => if neg then 0 else fp32.top
  | .fin neg m e =>
    let (t, n) := expFix neg m e
    let (p, q) := pow2Frac n
    fp32.round false false (t * p) (2 ^ 160 * q)

/-- FP32 logistic function, rounded once. -/
def flogistic (x : Nat) : Nat :=
  match fp32.dec x with
  | .nan => fp32.nan
  | .inf neg => if neg then 0 else fint 1
  | .fin neg m e =>
    let (t, n) := expFix (!neg) m e
    let (p, q) := pow2Frac n
    fp32.round false false (2 ^ 160 * q) (2 ^ 160 * q + t * p)

/-- R400: a detection head. -/
structure Head where
  t : Tensor
  a : Nat
  sx : Nat
  sy : Nat
  tbl : Nat
  deriving DecidableEq, Repr

/-- R400: NC. -/
def State.detNc (s : State) (k : Fin 6) (c : Fin 2) : Nat := s.incF k c R.DET_CTL 16 11

/-- R400: the heads in use. -/
def State.heads (s : State) (k : Fin 6) (c : Fin 2) : List Head :=
  let pg := PG.fct k
  (List.range (s.incF k c R.DET_CTL 4 2 + 1)).map fun j =>
    let d := s.reg pg (R.HD_DIM c j)
    let a := bf d 28 4 + 1
    { t := { addr := (s.reg pg (R.HD_ADDR c j)).toNat, row := s.fld pg (R.HD_PITCH c j) 0 32,
             plane := s.fld pg (R.HD_PITCH c j) 32 32, c := a * (4 + s.detNc k c), h := bf d 0 12, w := bf d 12 12,
             fmt := bf d 24 4 },
      a, sx := bf d 32 8, sy := bf d 40 8, tbl := (s.reg pg (R.HD_TBL c j)).toNat }

/-- R396: what the decode of one anchor gives. -/
inductive CandRes where
  | none_ | nan | hit (b : Box)
  deriving DecidableEq, Repr

/-- FP32 one half. -/
def fHalf : Nat := fp32.ofDyadic false 1 (-1) false

/-- R396: the smaller and the larger of two FP32 values. -/
def fmin (a b : Nat) : Nat := if flt b a then b else a
def fmax (a b : Nat) : Nat := if flt a b then b else a

/-- R396: Q12.4, saturating. -/
def toQ4 (x : Nat) : Int :=
  match fToInt .even x 4 with
  | some v => satS 16 v
  | none => if x.testBit 31 then -32768 else 32767

/-- R396: the index of the largest logit, the first of equals. -/
def argmax : List Nat → Nat → Nat × Nat → Nat × Nat
  | [], _, b => b
  | x :: r, i, b => argmax r (i + 1) (if flt b.2 x then (i, x) else b)

/-- R396: one anchor at one grid position: channels as FP32 values, priors. -/
def State.decodeBox (s : State) (k : Fin 6) (c : Fin 2) (h : Head) (j gy gx a : Nat) (ch : List Nat) (pw ph : Nat) : CandRes :=
  let sxy := s.incF k c R.DET_SCALE 0 32
  let swh := s.incF k c R.DET_SCALE 32 32
  let cl := s.incF k c R.DET_CLAMP 0 32
  let p := s.incPort k c
  if (pw :: ph :: ch).any fisNan then .nan
  else
    let t := fun i => ch.getD i 0
    let cx := fadd (fmul (fadd (fint gx) fHalf) (fint h.sx)) (fmul (fmul (t 0) sxy) pw)
    let cy := fadd (fmul (fadd (fint gy) fHalf) (fint h.sy)) (fmul (fmul (t 1) sxy) ph)
    let w := fmul pw (fexp (fmin (fmul (t 2) swh) cl))
    let hh := fmul ph (fexp (fmin (fmul (t 3) swh) cl))
    let cor := [fsub cx (fmul w fHalf), fsub cy (fmul hh fHalf), fadd cx (fmul w fHalf), fadd cy (fmul hh fHalf)]
    if cor.any fisNan then .nan
    else
      let logits := ch.drop 4
      let (cls, lg) := argmax (logits.drop 1) 1 (0, logits.getD 0 0)
      let score := flogistic lg
      let least := fp32.ofDyadic false (s.incF k c R.DET_THR 0 16) (-16) false
      let clip := s.incF k c R.DET_CTL 2 1 == 1
      let lim := [fint (s.geomW p), fint (s.geomH p), fint (s.geomW p), fint (s.geomH p)]
      let cor := if clip then (cor.zip lim).map fun q => fmin (fmax q.1 0) q.2 else cor
      let g := fun i => cor.getD i 0
      if !fle least score then .none_
      else if clip && (!flt (g 0) (g 2) || !flt (g 1) (g 3)) then .none_
      else
        let sc := match fToInt .even score 16 with | some v => min 65535 v.toNat | none => 0
        .hit { x0 := toQ4 (g 0), y0 := toQ4 (g 1), x1 := toQ4 (g 2), y1 := toQ4 (g 3), cls, score := sc, head := j, anchor := a }

/-- R396: an element of a head as FP32, by its table entry. -/
def dequant (f : Nat) (q e : Nat) : Nat :=
  if fmtInt f then fmul (fint (sgn (fmtBits f) q - sgn 16 (nfld e 32 16))) (nfld e 0 32)
  else fp32.enc false ((fmtFp f).dec q)

/-- R396, R397: what a pass has gathered: candidates in generation order, NaN candidates, poison. -/
structure DetAcc where
  boxes : List Box := []
  nan : Nat := 0
  bad : Bool := false
  deriving DecidableEq, Repr

/-- R396: one grid position. -/
def State.detPos (s : State) (k : Fin 6) (c : Fin 2) (h : Head) (j : Nat) (anch deq : List (Nat × Bool)) (gy gx : Nat)
    (acc : DetAcc) : DetAcc × State :=
  let f := h.t.fmt
  let (tiles, s) := (List.range h.t.planes).foldl (fun (a : List ReadRes × State) p =>
    let (r, s) := a.2.readBytes (h.t.at_ p gy gx) (fmtB f)
    (a.1 ++ [r], s)) ([], s)
  let bad := tiles.any ReadRes.bad || (anch ++ deq).any Prod.snd
  if bad then ({ acc with bad := true }, s)
  else
    let nc := s.detNc k c
    let ch := (List.range h.t.c).map fun i =>
      dequant f (elemOf f ((tiles.getD (i / fmtT f) { bytes := [], bad := false }).bytes) (i % fmtT f)) (deq.getD i (0, false)).1
    let acc := (List.range h.a).foldl (fun (acc : DetAcc) a =>
      let e := (anch.getD a (0, false)).1
      match s.decodeBox k c h j gy gx a ((ch.drop (a * (4 + nc))).take (4 + nc)) (nfld e 0 32) (nfld e 32 32) with
      | .none_ => acc
      | .nan => { acc with nan := acc.nan + 1 }
      | .hit b => { acc with boxes := acc.boxes ++ [b] }) acc
    (acc, s)

/-- R396: one head. -/
def State.detHead (s : State) (k : Fin 6) (c : Fin 2) (j : Nat) (h : Head) (acc : DetAcc) : DetAcc × State :=
  let (anch, s) := s.readTable h.tbl 8 h.a
  let (deq, s) := s.readTable (h.tbl + 8 * h.a) 8 h.t.c
  let pos := ((List.range h.t.h).map fun y => (List.range h.t.w).map fun x => (y, x)).flatten
  pos.foldl (fun (a : DetAcc × State) p => a.2.detPos k c h j anch deq p.1 p.2 a.1) (acc, s)

/-- R397: at most 16,384 candidates are kept, by the histogram of their scores. -/
def detKeep (n : Nat) (l : List Box) : List Box :=
  if l.length ≤ n then l
  else
    let cnt := fun b => (l.filter fun x => decide (b ≤ x.score / 256)).length
    let cross := (((List.range 256).reverse.find? fun b => decide (n ≤ cnt b))).getD 0
    let room := n - cnt (cross + 1)
    (l.foldl (fun (a : List Box × Nat) x =>
      if cross < x.score / 256 then (x :: a.1, a.2)
      else if x.score / 256 = cross ∧ 0 < a.2 then (x :: a.1, a.2 - 1) else a) ([], room)).1.reverse

/-- A candidate put in its place by score, after its equals. -/
def insertBox (b : Box) : List Box → List Box
  | [] => [b]
  | x :: r => if x.score < b.score then b :: x :: r else x :: insertBox b r

/-- R398: whether two boxes overlap by more than IOU_TH / 65,536. -/
def boxHit (th : Nat) (a b : Box) : Bool :=
  let side := fun (lo hi : Int) => (max 0 (hi - lo))
  let area := fun (x : Box) => fint (side x.x0 x.x1 * side x.y0 x.y1)
  let inter := fint (side (max a.x0 b.x0) (min a.x1 b.x1) * side (max a.y0 b.y0) (min a.y1 b.y1))
  let union := fsub (fadd (area a) (area b)) inter
  flt (fmul (fmul (fint th) union) (fp32.ofDyadic false 1 (-16) false)) inter

/-- R398: suppression: boxes taken in order, and whether candidates were left. -/
def suppress (agn : Bool) (th maxOut : Nat) : Nat → List Box → List Box → List Box × Bool
  | 0, l, out => (out, !l.isEmpty)
  | _, [], out => (out, false)
  | n + 1, b :: r, out =>
    if maxOut ≤ out.length then (out, true)
    else suppress agn th maxOut n (r.filter fun x => !((agn || x.cls == b.cls) && boxHit th b x)) (out ++ [b])

/-- R396: a chain asks for the detection pass of a context. The answer is the item. -/
def State.detAsk (s : State) (k : Fin 6) (c : Fin 2) (chain : Nat) : Nat × State :=
  let (i, s) := s.openItem (PG.fct k) (s.incF k c R.INC_CTL 24 6) 0 false
  if !s.incEn k c || s.incF k c R.DET_CTL 0 1 == 0 then (i, s.closeItem i .failInvalid 0)
  else (i, s.incUpd k c fun x => { x with det := some { item := i, chain } })

/-- R396 to R398: the detection pass. -/
def State.detect (s : State) (k : Fin 6) (c : Fin 2) : State :=
  match (s.ictx k c).det with
  | none => s
  | some d =>
    if d.status.isSome || !s.running (PG.fct k) then s
    else
      let (acc, s) := ((s.heads k c).mapIdx fun j h => (j, h)).foldl
        (fun (a : DetAcc × State) q => a.2.detHead k c q.1 q.2 a.1) ({}, s)
      let trunc := decide (16384 < acc.boxes.length)
      let kept := (detKeep 16384 acc.boxes).foldl (fun l b => insertBox b l) []
      let (out, full) := suppress (s.incF k c R.DET_CTL 1 1 == 1) (s.incF k c R.DET_THR 16 16) (s.incF k c R.DET_CTL 32 9)
        kept.length kept []
      let s := s.incCount k c R.DET_CNT 0 32 acc.boxes.length
      let s := (s.incCount k c R.DET_CNT 32 16 (b2n trunc)).incCount k c R.DET_CNT 48 16 acc.nan
      let s := if trunc then s.irq (PG.fct k) 8 else s
      let p := s.incPort k c
      let s := { s with loc := { s.loc with boxes := s.loc.boxes.set p (s.loc.boxes.get p ++ out) } }
      s.incUpd k c fun x => { x with
        det := some { d with status := some (if acc.bad then .failPoison else .ok) }
        infos :=
          let i := x.infoOf d.chain
          x.infoPut d.chain { i with candidates := acc.boxes.length, trunc, outFull := full, nan := decide (0 < acc.nan),
                                     poison := i.poison || acc.bad } }

/-- R401: the detection pass completes. -/
def State.detDone (s : State) (k : Fin 6) (c : Fin 2) : State :=
  match (s.ictx k c).det with
  | some d =>
    match d.status with
    | some st => (s.incUpd k c fun x => { x with det := none }).closeItem d.item st 0
    | none => s
  | none => s

/-! ### Registers (R392 to R395, R400, R402) -/

/-- R394: a range wholly in HBM or in the region at `o` of one of the kilns. -/
def State.inRegion (s : State) (ks : List (Fin 6)) (o : Nat) (r : Nat × Nat) : Bool :=
  ks.any fun k => let g := s.shelfRegion k o; decide (g.1 ≤ r.1 ∧ r.1 + r.2 ≤ g.1 + g.2)

/-- R394: some two ranges of the list overlap. -/
def anyMeet : List (Nat × Nat) → Bool
  | [] => false
  | r :: l => l.any (rangesMeet r) || anyMeet l

/-- R394: the readout's range. -/
def State.roRange (s : State) (k : Fin 6) (c : Fin 2) : Nat × Nat :=
  let (m, _) := s.roSource k c 0
  let t : Tensor := { addr := (s.incReg k c R.INC_RO_ADDR).toNat, row := s.incF k c R.INC_RO_PITCH 0 32,
                      plane := s.incF k c R.INC_RO_PITCH 32 32, c := m.c, h := m.h, w := m.w,
                      fmt := s.incF k c R.INC_RO_CTL 0 4 }
  (t.addr, t.bytes)

/-- R394: the ADDR check fails. -/
def State.incAddrBad (s : State) (k : Fin 6) (c : Fin 2) : Bool :=
  let rs := s.incRanges k c
  (rs.any fun r => if r.1 then r.2.1 % 64 != 0 || !(s.inHbm r.2.1 r.2.2 || s.inRegion [k] R.SHF_MAPS r.2)
      else !s.inRegion [k] R.SHF_MAPS r.2)
    || ((s.incLays k c).any fun l => !s.inRegion [k] R.SHF_WEIGHTS (l.wts, l.kh * l.kw * 4096))
    || anyMeet (rs.map Prod.snd)
    || !(s.inHbm (s.roRange k c).1 (s.roRange k c).2 || s.inRegion (List.finRange 6) R.SHF_MAPS (s.roRange k c))

/-- R402: the detection check fails. -/
def State.detBad (s : State) (k : Fin 6) (c : Fin 2) : Bool :=
  let nc := s.detNc k c
  let mo := s.incF k c R.DET_CTL 32 9
  let pos := fun (v : Nat) => flt 0 v
  s.incF k c R.DET_CTL 0 1 == 1 &&
    (nc == 0 || decide (1024 < nc) || mo == 0 || decide (256 < mo) || s.incF k c R.DET_THR 16 16 == 0
      || ((s.heads k c).any fun h => h.t.h == 0 || h.t.w == 0 || h.sx == 0 || h.sy == 0 || decide (4 < h.t.fmt)
        || decide (4096 < h.t.c))
      || !pos (s.incF k c R.DET_SCALE 0 32) || !pos (s.incF k c R.DET_SCALE 32 32) || !pos (s.incF k c R.DET_CLAMP 0 32))

/-- The contexts of all kilns. -/
def allCtx : List (Fin 6 × Fin 2) := ((List.finRange 6).map fun k => (List.finRange 2).map fun c => (k, c)).flatten

/-- R394: the checks of an enable in order; 0 where all pass. -/
def State.incWhy (s : State) (k : Fin 6) (c : Fin 2) : Nat :=
  let n := s.incLayers k c
  let mode := s.incMode k c
  let vox := mode == 2
  let src := s.incF k c R.INC_RO_CTL 4 2
  let lays := s.incLays k c
  let p := s.incPort k c
  let half := (s.incReg k c R.INC_HALF).toInt
  let above := fun (a b : Nat) => decide (b < a)
  let checks : List (Nat × Bool) := [
    (1, s.incF k c R.INC_STS 0 1 == 0 || (s.ictx k c).geom != (s.geomW p, s.geomH p)),
    (2, above n 4 || (n == 0 && src == 0) || (n != 0 && mode != 0) || mode == 3 || (vox != (src == 2))),
    (3, (!vox && half == 0) || (!vox && s.incRenorm k c == 0) || (n != 0 && s.incReg k c R.INC_REB_SPAN == 0)
        || (lays.any fun l => l.kh == 0 || l.kw == 0 || l.sh == 0 || l.sw == 0 || l.dh == 0 || l.dw == 0 || l.cout == 0)
        || (lays.dropLast.any fun l => l.q == 0)),
    (4, decide (half < 0) || above (s.incRenorm k c) 12 || (vox && (above 2 (s.incBins k c) || above (s.incBins k c) 16))
        || (lays.any fun l => above l.kh 7 || above l.kw 7 || above l.sh 8 || above l.sw 8 || above l.dh 8 || above l.dw 8
          || above l.cout 64 || decide (l.hOut ≤ 0) || decide (l.wOut ≤ 0))),
    (5, lays.any fun l => !(l.act == 0 || l.act == 1 || l.act == 3) || (l.act == 3 && fisNan l.p0)),
    (6, s.incAddrBad k c),
    (7, lays.any fun l => above (((l.kh - 1) * l.dh + 1) * l.w * 4 * chanPow l.cin) (s.shelfRegion k R.SHF_LINE).2),
    (8, !s.spEn p || (allCtx.any fun q => q != (k, c) && s.incEn q.1 q.2 && s.incPort q.1 q.2 == p
        && s.incLayers q.1 q.2 != 0)),
    (9, s.detBad k c)]
  ((checks.find? fun x => x.2).map Prod.fst).getD 0

/-- R393, R394: INC_CTL.EN goes from 0 to 1 (INC_CTL already holds the written fields, EN still 0). -/
def State.incStart (s : State) (k : Fin 6) (c : Fin 2) : State :=
  let pg := PG.fct k
  let why := s.incWhy k c
  if why ≠ 0 then ((s.setBit pg (R.INC_STS c) 6 true).setFld pg (R.INC_STS c) 8 8 why).irq pg 4
  else
    let s := (s.setReg pg (R.INC_PREF c) (s.pos (s.incBase k c))).setBit pg (R.INC_CTL c) 0 true
    let s := s.incUpd k c fun x => { x with needReb := x.needReb && s.incLayers k c != 0, q := [], rebReq := false, target := s.pos (s.incRebBase k c) }
    if s.incLayers k c = 0 then s else s.rebTarget k c

/-- R378: the events waiting are discarded and counted in LOST. -/
def State.incDiscard (s : State) (k : Fin 6) (c : Fin 2) : State :=
  (s.ictx k c).q.foldl (fun s w => s.incLost k c w) (s.incUpd k c fun x => { x with q := [] })

/-- INC_CTL.EN goes from 1 to 0. -/
def State.incStop (s : State) (k : Fin 6) (c : Fin 2) : State :=
  ((s.incDiscard k c).rebDrop k c).schedDel (.rebase k c) |>.incUpd k c fun x => { x with rebReq := false }

/-- R393: INC_CMD.CLEAR. -/
def State.incClear (s : State) (k : Fin 6) (c : Fin 2) (w : Wr) : State :=
  let pg := PG.fct k
  let p := s.incPort k c
  let cq := bf w.val 2 6
  if (s.ictx k c).clear.isSome then s.logWr pg w .busy
  else if !s.itemFree .ordinary then s.ledgerFull pg w
  else if s.incEn k c || !s.spEn p || s.incAddrBad k c then s.emptyJob pg cq .failInvalid 0
  else
    let (i, s) := s.openItem pg cq 0 false
    let s := (s.incRanges k c).foldl (fun s (r : Bool × Nat × Nat) => s.zeroBytes r.2.1 r.2.2) s
    let s := (s.setFld pg (R.INC_EPOCH c) 0 16 0).setFld pg (R.INC_STS c) 0 2 2
    s.incUpd k c fun x => { x with geom := (s.geomW p, s.geomH p), clear := some i, bank := Vector.replicate 2 none }

/-- R393: CLEAR completes. -/
def State.incClearDone (s : State) (k : Fin 6) (c : Fin 2) : State :=
  match (s.ictx k c).clear with
  | none => s
  | some i =>
    ((s.incUpd k c fun x => { x with clear := none }).setFld (PG.fct k) (R.INC_STS c) 0 2 1).closeItem i .ok 0

/-- R392: registers whose write clears CLEARED: the address registers. -/
def incAddrReg (c o : Nat) : Bool :=
  let r := o - 0x1000 - 0x400 * c
  [0x018, 0x020, 0x028, 0x040].contains r
    || (decide (0x100 ≤ r ∧ r < 0x300) && [0x10, 0x18, 0x20, 0x28, 0x30].contains (r % 0x80))
    || (decide (0x340 ≤ r ∧ r < 0x3C0) && (r % 0x20 == 0 || r % 0x20 == 0x18))

/-- R392: a write of INC_CTL. -/
def State.incCtl (s : State) (k : Fin 6) (c : Fin 2) (w : Wr) : State :=
  let pg := PG.fct k
  let old := s.incReg k c R.INC_CTL
  let new := s.wouldBe pg w
  let cleared := fun (s : State) => if bf old 4 6 = bf new 4 6 then s else s.setBit pg (R.INC_STS c) 0 false
  if bitAt old 0 then
    if bitAt new 0 then s.logWr pg w .state
    else cleared ((s.incStop k c).setReg pg (R.INC_CTL c) new)
  else
    let s := cleared (s.setReg pg (R.INC_CTL c) (putBit new 0 false))
    if bitAt new 0 then s.incStart k c else s

/-- R392, R400: a write to a register of a stack context (offsets from 0x1000 of an FCT page). -/
def State.incWrite (s : State) (k : Fin 6) (w : Wr) : State :=
  let pg := PG.fct k
  let c : Fin 2 := ⟨(w.reg - 0x1000) / 0x400 % 2, Nat.mod_lt _ (by decide)⟩
  if w.reg = R.INC_CTL c then s.incCtl k c w
  else if w.reg = R.INC_CMD c then
    let s := if bitAt w.val 0 then s.incClear k c w else s
    if bitAt w.val 1 && s.incEn k c then s.rebAsk k c else s
  else if w.reg = R.INC_STS c then s.plainWrite pg w
  else if s.incEn k c then s.logWr pg w .state
  else
    let s := s.plainWrite pg w
    if incAddrReg c w.reg then s.setBit pg (R.INC_STS c) 0 false else s

/-- R395: what a reset of the FCT page does to its contexts. -/
def State.incPageReset (s : State) (k : Fin 6) : State :=
  let pg := PG.fct k
  (List.finRange 2).foldl (fun s (c : Fin 2) =>
    let s := (s.incDiscard k c).rebDrop k c
    let s := [R.INC_CNT0 c, R.INC_CNT1 c, R.INC_CNT2 c, R.DET_CNT c].foldl (fun s r => s.setReg pg r 0) s
    (s.setBit pg (R.INC_STS c) 1 false).incUpd k c fun x => { x with
      clear := none, ro := none, det := none, needReb := true }) s

/-- R387: a QUIESCE of the page abandons running rebases. -/
def State.incQuiesce (s : State) (k : Fin 6) : State :=
  (List.finRange 2).foldl (fun s (c : Fin 2) => s.rebDrop k c) s

/-- A 64-bit write to a context's register. -/
def State.incWr (s : State) (ini : Initiator) (k : Fin 6) (off : Nat) (v : Word) : State :=
  s.gate (PG.fct k) (.full ini off v) fun s => s.incWrite k (.full ini off v)

/-! ### Commands of the table -/

/-- R379: a queued admitted event is applied. -/
def execIncEventApply (k : Fin 6) (c : Fin 2) (s : State) : Res := s.ends (s.incApply k c)

/-- R384: a rebase starts. -/
def execRebaseStart (k : Fin 6) (c : Fin 2) (s : State) : Res := s.ends (s.rebStart k c)

/-- R385: one row step. -/
def execRebaseRowStep (k : Fin 6) (c : Fin 2) (s : State) : Res := s.ends (s.rebRow k c)

/-- R387: the rebase ends. -/
def execRebaseDone (k : Fin 6) (c : Fin 2) (s : State) : Res := s.ends (s.rebFinish k c)

/-- R384: INC_CMD.REBASE. -/
def execIncRebase (ini : Initiator) (k : Fin 6) (c : Fin 2) (s : State) : Res := s.ends (s.incWr ini k (R.INC_CMD c) 2)

/-- R393: INC_CMD.CLEAR. -/
def execIncClear (ini : Initiator) (k : Fin 6) (c : Fin 2) (v : Word) (s : State) : Res :=
  s.ends (s.incWr ini k (R.INC_CMD c) v)

/-- R393: CLEAR completes. -/
def execIncClearDone (k : Fin 6) (c : Fin 2) (s : State) : Res := 
  s.ends (s.replied (PG.fct k) (s.ictx k c).clear.isSome (s.incClearDone k c))

/-- R394: a write of INC_CTL. -/
def execIncEnable (ini : Initiator) (k : Fin 6) (c : Fin 2) (v : Word) (s : State) : Res :=
  s.ends (s.incWr ini k (R.INC_CTL c) v)

/-- R388: a readout. -/
def execReadout (k : Fin 6) (c : Fin 2) (s : State) : Res := s.ends (s.readout k c)

/-- R389: a readout completes. -/
def execReadoutDone (k : Fin 6) (c : Fin 2) (s : State) : Res := 
  s.ends (s.replied (PG.fct k) (s.ictx k c).ro.isSome (s.roDone k c))

/-- R396: a detection pass. -/
def execDetectionPass (k : Fin 6) (c : Fin 2) (s : State) : Res := s.ends (s.detect k c)

/-- R401: a detection pass completes. -/
def execDetectionPassDone (k : Fin 6) (c : Fin 2) (s : State) : Res := 
  s.ends (s.replied (PG.fct k) (s.ictx k c).det.isSome (s.detDone k c))

end Sys2Proof.Machine
end

