-- ==== Sys2Proof/Machine/RateChain.lean ====
section
/-!
DEFINITION. Machine/RateChain.lean: the rate chain: region map, bins, linear-phase and minimum-phase channels, detectors, trips
and records (R403 to R423, R600).
-/

namespace Sys2Proof.Machine

/-- `s` with the rate chain changed. -/
def State.rchUpd (s : State) (f : RchState → RchState) : State := { s with rch := f s.rch }

/-- R423: RCH_CTL.RUN. -/
def State.rchRun (s : State) : Bool := s.bit PG.rch R.RCH_CTL 0

/-! ### Bins (R403, R405, R407) -/

/-- R403: the map entry of a tile. -/
def State.rateEntry (s : State) (p : Fin 8) (tile : Nat) : Nat := Sp.get 0 s.rch.map (p.val * 65536 + tile)

/-- R405: the bin that holds an IET. -/
def State.binOf (s : State) (iet : Nat) : Nat := (s.fullTick iet / 16).toNat

/-- The open bin of a region changed. -/
def State.binUpd (s : State) (b region : Nat) (f : RateBin → RateBin) : State :=
  s.rchUpd fun x => { x with
    bins := Sp.set {} x.bins (b * 2048 + region) (f (Sp.get {} x.bins (b * 2048 + region))) }

/-- R405, R406: a pixel event adds 1 to the open bin of its tile's region. -/
def State.rateCount (s : State) (p : Fin 8) (x y : Nat) (pol : Bool) (iet : Nat) : State :=
  let e := s.rateEntry p (s.tileIx p x y)
  let m := nfld e 12 2
  if !s.rchRun || m = 0 || (m = 1 && !pol) || (m = 2 && pol) then s
  else
    let b := s.binOf iet
    let s := if b < s.rch.next then s.bump PG.rch R.RCH_CNT0 0 32 else s
    s.binUpd (max b s.rch.next) (nfld e 0 11) fun k => if k.n < 65535 then { k with n := k.n + 1 } else { k with sat := true }

/-- R407: a loss word of a port marks the bins of the regions that its tiles count in. -/
def State.rateLoss (s : State) (p : Fin 8) (iet : Nat) : State :=
  if !s.rchRun then s
  else
    let b := max (s.binOf iet) s.rch.next
    let tiles := s.rch.map.filter fun e => e.1 / 65536 == p.val && nfld e.2 12 2 != 0
    if tiles.isEmpty then s
    else
      let s := tiles.foldl (fun s e => s.binUpd b (nfld e.2 0 11) fun k => { k with loss := true }) s
      if s.rch.lossBins.contains b then s
      else ((s.rchUpd fun x => { x with lossBins := NSet.add x.lossBins b }).bump PG.rch R.RCH_CNT1 32 16).irq PG.rch 2

/-! ### Records (R414) -/

/-- R414: the results unit takes the waiting records. -/
def State.rateDrain (s : State) : State :=
  if !s.alive PG.res || s.stopped PG.res then s
  else
    s.rch.recs.foldl (fun s r => (s.writeRecord (if r.1 then .rateBlock else .rateSamples) none 0 r.2).2)
      (s.rchUpd fun x => { x with recs := [] })

/-- R414, R503: a record joins the queue of 4,096, or is lost; in WATCH every record is. -/
def State.rateRec (s : State) (blk : Bool) (body : List Byte) : State :=
  let s := if 4096 ≤ s.rch.recs.length ∨ s.pwr.phase = .watch then (s.bump PG.rch R.RCH_CNT0 32 16).irq PG.rch 3
    else s.rchUpd fun x => { x with recs := x.recs ++ [(blk, body)] }
  s.rateDrain

/-- R446: a RATE_SAMPLES body. -/
def samplesBody (ch dtot : Nat) (pos : Bool) (first : Word) (l : List RateSample) : List Byte :=
  leBytes 2 ch ++ leBytes 1 l.length ++ leBytes 1 (b2n pos) ++ leBytes 2 dtot ++ leBytes 2 0 ++ leBytes 8 first.toNat
    ++ (l.map fun q => leBytes 4 (low 32 q.y) ++ leBytes 4 q.flags ++ (if pos then leBytes 8 q.pos.toNat else [])).flatten

/-- R446: a RATE_BLOCK body. -/
def blockBody (ch env : Nat) (b : RateBlk) (pos : Bool) : List Byte :=
  leBytes 2 ch ++ leBytes 2 b.flags ++ leBytes 4 b.n ++ leBytes 4 b.peak ++ leBytes 4 env
    ++ leBytes 4 (fsqrtRat b.sumSq b.n) ++ leBytes 4 0 ++ leBytes 8 b.first.toNat ++ leBytes 8 b.last.toNat
    ++ leBytes 8 (if pos then b.pos.toNat else 0)

/-! ### Detectors and blocks (R418, R419) -/

/-- R418: the detectors after a sample. -/
def Detect.step (d : Detect) (set : Word) (y : Nat) : Detect :=
  let hold := bf set 0 16
  let d := if d.p ≤ y then { d with p := y, hold := 0 }
    else if hold < d.hold + 1 then { d with p := d.p - d.p / 2 ^ bf set 16 5, hold := d.hold + 1 }
    else { d with hold := d.hold + 1 }
  if d.e < y then { d with e := d.e + (y - d.e) / 2 ^ bf set 24 5 } else { d with e := d.e - (d.e - y) / 2 ^ bf set 32 5 }

/-- How a channel's output is handled: its number in records, D_tot, detector settings and span, SAMPLES, DET, POS_EN. -/
structure RateCfg where
  ch : Nat
  dtot : Nat
  det : Word
  span : Word
  samples : Bool
  blocks : Bool
  posEn : Bool
  posBase : Fin 8
  deriving DecidableEq, Repr

/-- R414: the gathered samples are handed. -/
def State.samplesOut (s : State) (c : RateCfg) (o : RateOut) : RateOut × State :=
  match o.gather with
  | none => (o, s)
  | some (first, _, l) => ({ o with gather := none }, s.rateRec false (samplesBody c.ch c.dtot c.posEn first l))

/-- R419: an open block closes with more flags. -/
def State.blockOut (s : State) (c : RateCfg) (o : RateOut) (env extra : Nat) : RateOut × State :=
  match o.blk with
  | none => (o, s)
  | some b =>
    let s := if c.blocks then s.rateRec true (blockBody c.ch env { b with flags := b.flags ||| extra } (bitAt c.det 37)) else s
    ({ o with blk := none }, s)

/-- R419: the next whole multiple of the span after a tag. -/
def nextMultiple (tag span : Word) : Word :=
  if span = 0 then tag else wOfInt ((tag.toInt / span.toNat + 1) * span.toNat)

/-- R414, R418, R419: one output sample: detectors, block, sample record. Flags: SETTLE 1, LOSS 2, SAT 4, HIST_OLD 8 of R446's
sample; a block carries SETTLE, LOSS, SAT in bits 0 to 2, STEP 3, CAPPED 4, HIST_OLD 5. -/
def State.rateSample (s : State) (c : RateCfg) (o : RateOut) (stamp inst : Word) (y : Int) (flags : Nat) : RateOut × State :=
  let a := y.natAbs
  let blkPos := bitAt c.det 37
  let bb := baseOf (bf c.det 38 3)
  let (tag, old, s) := if blkPos then s.lookPos bb (ietOf inst) else (0, false, s)
  -- the block that would hold the sample closes before it at a boundary of the span, on a base that runs
  let (o, s) := match o.blk with
    | none => (o, s)
    | some b =>
      let bound := nextMultiple b.pos c.span
      if blkPos && s.ptbRunning bb && atOrAfter tag bound then
        let step := s.rch.steps.any fun q =>
          q.1 == bb && before q.2.2.1 bound && atOrAfter q.2.2.2 bound && before b.inst q.2.1 && atOrAfter inst q.2.1
        s.blockOut c o o.det.e (if step then 8 else 0)
      else (o, s)
  let det := o.det.step c.det a
  let bf_ := flags % 8 + (if old then 32 else 0)
  let b : RateBlk := match o.blk with
    | none => { n := 1, sumSq := a * a, peak := a, first := stamp, last := stamp, pos := tag, inst, flags := bf_ }
    | some b => { b with n := b.n + 1, sumSq := b.sumSq + a * a, peak := max b.peak a, last := stamp, inst,
                         flags := b.flags ||| bf_ }
  let o : RateOut := { o with det, blk := some b }
  let (o, s) := if bf c.det 48 16 ≤ b.n then s.blockOut c o det.e (if blkPos then 16 else 0) else (o, s)
  -- R412: the position is looked up whether or not records of samples are asked for
  let (x, sold, s) := if c.posEn then s.lookPos c.posBase (ietOf inst) else (0, false, s)
  if !c.samples then (o, s)
  else
    let q : RateSample := { y, flags := flags + (if sold then 8 else 0), pos := x }
    let o : RateOut := { o with gather := match o.gather with
      | none => some (stamp, s.dtc, [q])
      | some (f, t, l) => some (f, t, l ++ [q]) }
    match o.gather with
    | some (_, _, l) => if 64 ≤ l.length then s.samplesOut c o else (o, s)
    | none => (o, s)

/-! ### Profiles (R408, R411, R413) -/

/-- R408: the fields of a profile. -/
structure Profile where
  r : Nat
  m : Nat
  shift : Nat
  cEn : Bool
  lc : Nat
  dc : Nat
  ks : List Nat
  fEn : Bool
  lf : Nat
  df : Nat
  deriving DecidableEq, Repr

/-- R408, R423: profile `i`. -/
def State.profile (s : State) (i : Nat) : Profile :=
  let c := s.reg PG.rch (R.PRF_CIC i)
  let f := s.reg PG.rch (R.PRF_FIR i)
  { r := bf c 0 11, m := if bitAt c 11 then 2 else 1, shift := bf c 16 6
    cEn := bitAt f 7, lc := bf f 0 7, dc := if bitAt f 7 && bitAt f 8 then 2 else 1
    ks := ([bf f 11 5, bf f 16 5, bf f 21 5]).take (bf f 9 2)
    fEn := bitAt f 34, lf := bf f 26 8, df := if bitAt f 34 then 2 ^ bf f 35 2 else 1 }

/-- R408: halfband stages. -/
def Profile.h (p : Profile) : Nat := p.ks.length

/-- R408: total decimation. -/
def Profile.dtot (p : Profile) : Nat := p.r * p.dc * 2 ^ p.h * p.df

/-- R411: group delay in units of 0.5 µs. -/
def Profile.gd (p : Profile) : Nat :=
  4 * (p.r * p.m - 1) + (if p.cEn then (p.lc - 1) * p.r else 0)
    + (p.ks.mapIdx fun h k => (4 * k - 2) * p.r * p.dc * 2 ^ h).sum
    + (if p.fEn then (p.lf - 1) * p.r * p.dc * 2 ^ p.h else 0)

/-- R413: load of a channel of the profile, as MACs per D_tot µs. -/
def Profile.load (p : Profile) : Nat :=
  let t1 := p.r * p.dc
  let per := fun (macs t : Nat) => if t = 0 then 0 else macs * (p.dtot / t)
  (if p.cEn then per ((p.lc + 1) / 2) t1 else 0)
    + (p.ks.mapIdx fun h k => per (k + 1) (t1 * 2 ^ (h + 1))).sum
    + (if p.fEn then per ((p.lf + 1) / 2) p.dtot else 0) + 4

/-- R423: coefficient `j` counted from word `w` of a profile's coefficients. -/
def State.prfCoef (s : State) (i w j : Nat) : Int :=
  sgn 32 (bf (s.reg PG.rch (R.PRF_COEF i (w + j / 2))) (32 * (j % 2)) 32)

/-- R410: impulse response of a symmetric FIR of length `l`. -/
def firTaps (l : Nat) (c : Nat → Int) : List Int := (List.range l).map fun n => c (if n < (l + 1) / 2 then n else l - 1 - n)

/-- R410: impulse response of a halfband. -/
def halfTaps (k : Nat) (c : Nat → Int) : List Int :=
  (List.range (4 * k - 1)).map fun (n : Nat) =>
    let d := ((n : Int) - (2 * k - 1)).natAbs
    if d = 0 then 2 ^ 30 else if d % 2 = 1 then c ((d - 1) / 2) else 0

/-- Saturation to 32 bits with its mark. -/
def sat32 (v : Int) : Int × Bool := (satS 32 v, satS 32 v != v)

/-- R410: one FIR output over a delay line, newest first. -/
def firOut (taps : List Int) (line : List (Int × Bool)) : Int × Bool × Bool :=
  let acc := ((taps.zip line).map fun q => q.1 * q.2.1).sum
  let (y, sat) := sat32 (roundEven acc (2 ^ 31))
  (y, sat, (line.take taps.length).any Prod.snd)

/-! ### Linear-phase channels (R408 to R412) -/

/-- R409: wrapping to 64 bits. -/
def wrap64 (v : Int) : Int := sgn 64 (low 64 v)

/-- R409: the integrators after an input. -/
def cicInteg : Int → List Int → List Int
  | _, [] => []
  | x, i :: r => let y := wrap64 (i + x); y :: cicInteg y r

/-- R409: the combs of delay `m`: their output and their delays after an input. -/
def cicComb (m : Nat) : Int → List (List Int) → Int × List (List Int)
  | x, [] => (x, [])
  | x, d :: r =>
    let old := d.getD (m - 1) 0
    let (y, rest) := cicComb m (wrap64 (x - old)) r
    (y, ((x :: d).take m) :: rest)

/-- A value passing down the stages: value and SAT mark. -/
structure Flow where
  y : Int
  sat : Bool
  deriving DecidableEq, Repr

/-- R410: a FIR stage takes a value at time `t` and gives one where `t` is a multiple of its output period; beside it the
number of saturations. -/
def firStage (taps : List Int) (len period t : Nat) (line : List (Int × Bool)) (v : Flow) :
    Option Flow × Nat × List (Int × Bool) :=
  let line := ((v.y, v.sat) :: line).take len
  if t % period = 0 then
    let (y, sat, mark) := firOut taps line
    (some { y, sat := sat || mark }, b2n sat, line)
  else (none, 0, line)

/-- R408: the halfband stages in turn, with the saturations in them. -/
def halfStages (s : State) (i : Nat) (p : Profile) (t : Nat) :
    Nat → List Nat → List (List (Int × Bool)) → Flow → Option Flow × Nat × List (List (Int × Bool))
  | _, [], ls, v => (some v, 0, ls)
  | h, k :: ks, l :: ls, v =>
    let taps := halfTaps k (s.prfCoef i (16 + 8 * h))
    let (o, n, l) := firStage taps (4 * k - 1) (p.r * p.dc * 2 ^ (h + 1)) t l v
    match o with
    | none => (none, n, l :: ls)
    | some v =>
      let (o, m, rest) := halfStages s i p t (h + 1) ks ls v
      (o, n + m, l :: rest)
  | _, _ :: _, [], v => (some v, 0, [])

/-- R408 to R411: a linear-phase channel takes a closed bin, whose end is `t` µs; an output where one falls, and the
saturations in every stage, whether or not an output falls now. -/
def lpStep (s : State) (i : Nat) (p : Profile) (t : Nat) (b : RateBin) (c : LpState) : Option Flow × Nat × LpState :=
  let c := { c with
    integ := cicInteg b.n c.integ
    satAt := if b.sat then some t else c.satAt
    lossAt := if b.loss then some t else c.lossAt }
  if p.r = 0 ∨ t % p.r ≠ 0 then (none, 0, c)
  else
    let (x, combs) := cicComb p.m (c.integ.getLastD 0) c.combs
    let c := { c with combs }
    let (y, sat) := sat32 (roundEven x (2 ^ p.shift))
    let win := 4 * (p.r * p.m - 1) + 1
    let mark := match c.satAt with | some e => decide (t < e + win) | none => false
    let v : Flow := { y, sat := sat || mark }
    let (o, n, comp) := if p.cEn then firStage (firTaps p.lc (s.prfCoef i 0)) p.lc (p.r * p.dc) t c.comp v
      else (some v, 0, c.comp)
    let c := { c with comp }
    let n := b2n sat + n
    match o with
    | none => (none, n, c)
    | some v =>
      let (o, m, half) := halfStages s i p t 0 p.ks c.half v
      let c := { c with half }
      match o with
      | none => (none, n + m, c)
      | some v =>
        if p.fEn then
          let (o, k, last) := firStage (firTaps p.lf (s.prfCoef i 40)) p.lf p.dtot t c.last v
          (o, n + m + k, { c with last })
        else (some v, n + m, c)

/-- R418, R423: how a linear-phase channel's output is handled. -/
def State.lpCfg (s : State) (n : Nat) : RateCfg :=
  let c := s.reg PG.rch (R.RCH_CH n)
  let i := bf c 12 4
  { ch := n, dtot := (s.profile i).dtot, det := s.reg PG.rch (R.PRF_DET i), span := s.reg PG.rch (R.PRF_SPAN i),
    samples := bitAt c 17, blocks := bitAt c 18, posEn := bitAt c 22, posBase := baseOf (bf c 19 3) }

/-- `s` with a linear-phase channel's state stored. -/
def State.lpSet (s : State) (n : Nat) (c : LpState) : State := s.rchUpd fun x => { x with lp := Sp.set {} x.lp n c }

/-- R410, R423: saturations counted in RCH_CNT0.SAT. -/
def State.bumpSat (s : State) (k : Nat) : State :=
  if k = 0 then s
  else
    let z := s.fld PG.rch R.RCH_CNT0 48 16 = 0
    let s := s.addCnt PG.rch R.RCH_CNT0 48 16 k
    if z then s.irq PG.rch 5 else s

/-- R411, R412: a linear-phase channel takes a bin. -/
def State.lpChannel (s : State) (n t : Nat) (b : RateBin) : State :=
  let c := s.reg PG.rch (R.RCH_CH n)
  let i := bf c 12 4
  let p := s.profile i
  let (o, sats, ch) := lpStep s i p t b (Sp.get {} s.rch.lp n)
  let s := s.bumpSat sats
  match o with
  | none => s.lpSet n ch
  | some v =>
    let stamp := wOfNat (t * 1000)
    let settle := decide ((stamp - s.rch.runAt).toNat < p.gd * 1000 + p.dtot * 1000)
    let loss := match ch.lossAt with | some e => decide (t * 2 < e * 2 + 2 * p.gd + 2 * p.dtot) | none => false
    let flags := b2n settle + 2 * b2n loss + 4 * b2n v.sat
    let inst := stamp - wOfNat (500 + p.gd * 500)
    let (out, s) := s.rateSample (s.lpCfg n) ch.out stamp inst v.y flags
    s.lpSet n { ch with out }

/-! ### Minimum-phase channels (R415 to R417, R600) -/

/-- R415: coefficients b0, b1, b2, a1, a2 and SHIFT of a section. -/
def State.section_ (s : State) (m j : Nat) : Int × Int × Int × Int × Int × Nat :=
  let w0 := s.reg PG.rch (R.SEC_B01 m j)
  let w1 := s.reg PG.rch (R.SEC_B2A1 m j)
  let w2 := s.reg PG.rch (R.SEC_A2 m j)
  (sgn 32 (bf w0 0 32), sgn 32 (bf w0 32 32), sgn 32 (bf w1 0 32), sgn 32 (bf w1 32 32), sgn 32 (bf w2 0 32), bf w2 32 4)

/-- R415: the sections in turn: output, saturations, histories. -/
def mpSections (coef : Nat → Int × Int × Int × Int × Int × Nat) (j : Nat) (x : Int) :
    List (Int × Int × Int × Int) → Int × Nat × List (Int × Int × Int × Int)
  | [] => (x, 0, [])
  | (x1, x2, y1, y2) :: r =>
    let (b0, b1, b2, a1, a2, sh) := coef j
    let acc := b0 * x + b1 * x1 + b2 * x2 - a1 * y1 - a2 * y2
    let (y, sat) := sat32 (roundEven acc (2 ^ (30 + sh)))
    let (o, n, l) := mpSections coef (j + 1) y r
    (o, n + b2n sat, (x, x1, y, y1) :: l)

/-- R405: the sections in turn: whether the output is computed from a saturated bin, by `x`, by the values kept, and by the
coefficients that are not 0. -/
def mpMarks (coef : Nat → Int × Int × Int × Int × Int × Nat) (j : Nat) (x : Bool) :
    List (Bool × Bool × Bool × Bool) → Bool × List (Bool × Bool × Bool × Bool)
  | [] => (x, [])
  | (x1, x2, y1, y2) :: r =>
    let (b0, b1, b2, a1, a2, _) := coef j
    let y := (x && b0 != 0) || (x1 && b1 != 0) || (x2 && b2 != 0) || (y1 && a1 != 0) || (y2 && a2 != 0)
    let (o, l) := mpMarks coef (j + 1) y r
    (o, (x, x1, y, y1) :: l)

/-- R600: the represented instant of a minimum-phase sample. -/
def State.mpInstant (s : State) (m : Nat) (stamp : Word) : Word :=
  let tau := s.fld PG.rch (R.MP_TAU m) 0 32
  if tau = 0x80000000 then stamp - 500
  else wOfInt ((stamp.toInt * 256 - 500 * 256 - sgn 32 tau * 1000) / 256)

/-- How a minimum-phase channel's output is handled. -/
def State.mpCfg (s : State) (m : Nat) : RateCfg :=
  let c := s.reg PG.rch (R.MP_CTL m)
  { ch := 0x8000 + m, dtot := 1, det := s.reg PG.rch (R.MP_DET m), span := s.reg PG.rch (R.MP_SPAN m),
    samples := bitAt c 16, blocks := bitAt c 17, posEn := false, posBase := 0 }

/-- `s` with a minimum-phase channel's state stored. -/
def State.mpSet (s : State) (m : Fin 16) (c : MpState) : State := s.rchUpd fun x => { x with mp := x.mp.set m c }

/-- R23, R30, R422: the trips of a channel reach the rules: the chain runs, and every Sieve that feeds the channel's region
runs. -/
def State.tripOpen (s : State) (m : Fin 16) : Bool :=
  let region := s.fld PG.rch (R.MP_CTL m) 0 11
  s.alive PG.rch && !s.stopped PG.rch && s.rchRun && s.rch.map.all fun e =>
    nfld e.2 12 2 == 0 || nfld e.2 0 11 != region || s.running (PG.sv (baseOf (e.1 / 65536)))

/-- R417: the trip state after a sample; a rising trip goes to the reflex domain, where its trips reach the rules. -/
def State.mpTrip (s : State) (m : Fin 16) (c : MpState) (y : Nat) : MpState × State :=
  let ctl := s.reg PG.rch (R.MP_CTL m)
  let tr := s.reg PG.rch (R.MP_TRIP m)
  let v := match bf ctl 18 2 with | 0 => y | 1 => c.out.det.p | _ => c.out.det.e
  match c.trip with
  | .settling => (if s.fld PG.rch (R.MP_SETTLE m) 0 16 ≤ c.taken then { c with trip := .armed } else c, s)
  | .armed =>
    if bitAt ctl 20 ∧ bf tr 0 32 ≤ v then
      let s := (s.bump PG.rch (R.RCH_MP_CNT m) 0 32).bump PG.rch R.RCH_CNT1 48 16
      let s := s.irq PG.rch 4
      ({ c with trip := .tripped },
        if s.tripOpen m then { s with rfx := { s.rfx with trips := s.rfx.trips ++ [m] } } else s)
    else (c, s)
  | .tripped => (if v < bf tr 32 32 then { c with trip := .armed } else c, s)
  | .off => (c, s)

/-- R415 to R417: a minimum-phase channel takes a bin whose end is `t` µs. -/
def State.mpChannel (s : State) (m : Fin 16) (t : Nat) (b : RateBin) : State :=
  let c := s.rch.mp.get m
  let (y, sats, secs) := mpSections (s.section_ m) 0 b.n c.secs
  let (mark, marks) := mpMarks (s.section_ m) 0 b.sat c.marks
  let settleN := s.fld PG.rch (R.MP_SETTLE m) 0 16
  let left := if b.loss then settleN else c.lossLeft
  let flags := b2n (decide (c.taken < settleN)) + 2 * b2n (decide (0 < left)) + 4 * b2n (mark || decide (0 < sats))
  let s := (List.range sats).foldl (fun s _ => s.bumpIrq0 PG.rch (R.RCH_MP_CNT m) 32 32 5) s
  let stamp := wOfNat (t * 1000)
  let (out, s) := s.rateSample (s.mpCfg m) c.out stamp (s.mpInstant m stamp) y flags
  let c : MpState := { c with secs, marks, taken := c.taken + 1, lossLeft := left - 1, out }
  let (c, s) := s.mpTrip m c y.natAbs
  (s.setReg PG.rch (R.MP_OUT m) (wOfNat (low 32 y + (c.out.det.e % 2 ^ 32) <<< 32))).mpSet m c

/-! ### Bin close (R406) -/

/-- R406: bin `rch.next` may close. -/
def State.binDue (s : State) : Bool :=
  s.alive PG.rch && s.rchRun &&
    decide ((s.rch.next + 1 + s.fld PG.rch R.RCH_LAG 0 10) * 1000 ≤ s.dtc.toNat)

/-- Enabled linear-phase channels. -/
def State.lpEnabled (s : State) : List Nat :=
  (s.regs.filterMap fun e =>
    let o := e.1 % 0x10000
    if e.1 / 0x10000 = PG.rch ∧ R.RCH_CH 0 ≤ o ∧ o < R.RCH_CH 2048 ∧ bitAt e.2 16 then some ((o - R.RCH_CH 0) / 8) else none)

/-- R406: the next bin closes and enters every channel. -/
def State.binClose (s : State) : State :=
  let b := s.rch.next
  let get := fun (s : State) (r : Nat) => Sp.get {} s.rch.bins (b * 2048 + r)
  let s := s.lpEnabled.foldl (fun s n => s.lpChannel n (b + 1) (get s (s.fld PG.rch (R.RCH_CH n) 0 11))) s
  let s := (List.finRange 16).foldl (fun s (m : Fin 16) =>
    let c := s.reg PG.rch (R.MP_CTL m)
    if bitAt c 11 then s.mpChannel m (b + 1) (get s (bf c 0 11)) else s) s
  let s := s.rchUpd fun x => { x with
    next := b + 1, bins := x.bins.filter fun e => decide ((b + 1) * 2048 ≤ e.1), lossBins := NSet.del x.lossBins b }
  (s.setReg PG.rch R.RCH_BIN (wOfNat b)).bump PG.rch R.RCH_CNT1 0 32

/-! ### Load, delay, run (R413, R416, R421) -/

/-- R413: load over the enabled channels as a fraction, in 1 M/s. -/
def State.rchLoad (s : State) : Nat × Nat :=
  s.lpEnabled.foldl (fun acc n =>
    let p := s.profile (s.fld PG.rch (R.RCH_CH n) 12 4)
    let d := p.dtot
    if d = 0 then acc
    else
      let (a, b) := (acc.1 * d + p.load * acc.2, acc.2 * d)
      let g := Nat.gcd a b
      if g = 0 then (a, b) else (a / g, b / g)) (0, 1)

/-- RCH_LOAD: load rounded up, and capacity. -/
def State.rchLoadWord (s : State) : Word :=
  let (a, b) := s.rchLoad
  wOfNat ((a + b - 1) / b % 2 ^ 32 + 12800 <<< 32)

/-- Fixed-point unit of the delay computation. -/
def fxOne : Int := 2 ^ 100

/-- Product of two fixed-point numbers. -/
def fxMul (a b : Int) : Int := a * b / fxOne

/-- π in units of 2^-100. -/
def fxPi : Int := 3982441812995697363688351113952

/-- Series of alternating terms: `x²` powers over factorials. -/
def fxSeries (x2 : Int) : Nat → Nat → Int → Int
  | 0, _, term => term
  | n + 1, k, term => term + fxSeries x2 n (k + 2) (-(fxMul term x2) / ((k + 1) * (k + 2) : Nat))

/-- Cosine and sine of `2π f / 10^6`. -/
def fxCosSin (f : Nat) : Int × Int :=
  let x := fxPi * 2 * f / 1000000
  let x2 := fxMul x x
  (fxSeries x2 40 0 fxOne, fxSeries x2 40 1 x)

/-- R416: Re(Σ k c_k e^(−jwk) / Σ c_k e^(−jwk)) as a fraction over `den`; none where the denominator is 0. -/
def fxDelay (c0 c1 c2 cs sn : Int) : Option (Int × Int) :=
  let c2w := 2 * fxMul cs cs - fxOne
  let s2w := 2 * fxMul cs sn
  let nr := c0 * fxOne + c1 * cs + c2 * c2w
  let ni := -(c1 * sn + c2 * s2w)
  let pr := c1 * cs + 2 * c2 * c2w
  let pi_ := -(c1 * sn + 2 * c2 * s2w)
  let den := nr * nr + ni * ni
  if den < 2 ^ 120 then none else some (pr * nr + pi_ * ni, den)

/-- R416: bound of the error of an FP64 computation of fxDelay over `den`, in units of 2^-100. -/
def fxErr (c0 c1 c2 den : Int) : Nat :=
  let sum := c0.natAbs + c1.natAbs + c2.natAbs
  sum * sum * 2 ^ 254 / den.natAbs + 1

/-- R416: group delay of the cascade at a frequency in 1/256 µs, as MP_TAU holds it: computed with a bound of the error that FP64
may make; within the bound the value is free (log 88). -/
def State.mpTau (s : State) (m n f : Nat) : Nat :=
  let (cs, sn) := if f = 0 then (fxOne, 0) else fxCosSin f
  let one : Int := 2 ^ 30
  let sum := (List.range n).foldl (fun (acc : Option (Int × Nat)) j =>
    let (b0, b1, b2, a1, a2, _) := s.section_ m j
    match acc, fxDelay b0 b1 b2 cs sn, fxDelay one a1 a2 cs sn with
    | some (t, e), some (p, q), some (u, v) =>
      some (t + p * fxOne / q - u * fxOne / v, e + fxErr b0 b1 b2 q + fxErr one a1 a2 v)
    | _, _, _ => none) (some (0, 0))
  match sum with
  | none => 0x80000000
  | some (t, e) =>
    let lo := roundEven ((t - e) * 256) (2 ^ 100)
    let hi := roundEven ((t + e) * 256) (2 ^ 100)
    low 32 (lo + Config.fpPick t e % ((hi - lo).toNat + 1))

/-- R421: a set of detector settings is refused for zeros. -/
def detZero (d span : Word) : Bool :=
  bf d 0 16 = 0 || bf d 16 5 = 0 || bf d 24 5 = 0 || bf d 32 5 = 0 || bf d 48 16 = 0 || (bitAt d 37 && span == 0)

/-- R421: RCH_STS bits that a profile fails. -/
def State.profileFails (s : State) (i : Nat) : List Nat :=
  let p := s.profile i
  let f := s.reg PG.rch (R.PRF_FIR i)
  let range := p.r = 1 || decide (1024 < p.r) || (p.cEn && (p.lc = 0 || decide (64 < p.lc)))
    || (p.fEn && (p.lf = 0 || decide (128 < p.lf))) || p.ks.any (fun k => k = 0 || decide (16 < k)) || bf f 35 2 = 3
    || decide (p.dtot < 2) || decide (1000 < p.dtot)
  (if p.r = 0 then [2] else []) ++ (if range then [3] else []) ++
  (if detZero (s.reg PG.rch (R.PRF_DET i)) (s.reg PG.rch (R.PRF_SPAN i)) then [4] else [])

/-- R421: RCH_STS bits that a minimum-phase channel fails. -/
def State.mpFails (s : State) (m : Nat) : List Nat :=
  let c := s.reg PG.rch (R.MP_CTL m)
  let d := s.reg PG.rch (R.MP_DET m)
  let tr := s.reg PG.rch (R.MP_TRIP m)
  let n := bf c 12 4
  let edge := s.fld PG.rch (R.MP_EDGE m) 0 19
  let unstable := (List.range (min 8 n)).any fun j =>
    let (_, _, _, a1, a2, _) := s.section_ m j
    decide ((2 : Int) ^ 30 ≤ a2.natAbs) || decide ((2 : Int) ^ 30 + a2 ≤ a1.natAbs)
  (if detZero d (s.reg PG.rch (R.MP_SPAN m)) then [4] else []) ++
  (if n = 0 ∨ s.fld PG.rch (R.MP_SETTLE m) 0 16 = 0 ∨ bf tr 0 32 = 0 ∨ bf tr 32 32 = 0 ∨ edge = 0 then [5] else []) ++
  (if 8 < n ∨ bf c 18 2 = 3 ∨ bf tr 0 32 < bf tr 32 32 ∨ 24 < bf d 24 5 ∨ 24 < bf d 32 5 ∨ 500000 ≤ edge then [6] else []) ++
  (if unstable then [7] else [])

/-- R421: RUN goes from 0 to 1. -/
def State.rchStart (s : State) : State :=
  let prf := (List.range 16).filter fun i => s.lpEnabled.any fun n => s.fld PG.rch (R.RCH_CH n) 12 4 == i
  let mps := (List.finRange 16).filter fun (m : Fin 16) => s.bit PG.rch (R.MP_CTL m) 11
  let lag := s.fld PG.rch R.RCH_LAG 0 10
  let badP := (prf.map fun i => (i, s.profileFails i)).filter fun q => !q.2.isEmpty
  let badM := (mps.map fun (m : Fin 16) => (m.val, s.mpFails m.val)).filter fun q => !q.2.isEmpty
  let (a, b) := s.rchLoad
  let all := (if lag = 0 ∨ 1000 < lag then [1] else []) ++ (badP.map Prod.snd).flatten ++ (badM.map Prod.snd).flatten
    ++ (if 12800 * b < a then [8] else [])
  if all.isEmpty then
    let s := s.rchUpd fun x => { x with
      next := s.dtc.toNat / 1000, runAt := s.dtc, bins := [], lossBins := [], lp := [], steps := []
      mp := Vector.ofFn fun (m : Fin 16) =>
        { secs := List.replicate (s.fld PG.rch (R.MP_CTL m) 12 4) (0, 0, 0, 0), trip := .settling
          marks := List.replicate (s.fld PG.rch (R.MP_CTL m) 12 4) (false, false, false, false) } }
    mps.foldl (fun s (m : Fin 16) =>
      let n := s.fld PG.rch (R.MP_CTL m) 12 4
      s.setReg PG.rch (R.MP_TAU m) (wOfNat (s.mpTau m n 0 + (s.mpTau m n (s.fld PG.rch (R.MP_EDGE m) 0 19)) <<< 32))) s
  else
    let s := all.foldl (fun s b => s.setBit PG.rch R.RCH_STS b true) s
    let s := match badP, badM with
      | (i, _) :: _, _ => (s.setFld PG.rch R.RCH_STS 16 4 i).setBit PG.rch R.RCH_STS 20 false
      | [], (m, _) :: _ => (s.setFld PG.rch R.RCH_STS 16 4 m).setBit PG.rch R.RCH_STS 20 true
      | [], [] => s
    (s.irq PG.rch 0).setBit PG.rch R.RCH_CTL 0 false

/-- R422: trips that no rule has taken yet are dropped. -/
def State.tripsDrop (s : State) : State := { s with rfx := { s.rfx with trips := [] } }

/-- R414, R417, R419: RUN goes from 1 to 0: gathered samples are handed, open blocks and bins discarded, trips off. -/
def State.rchStop (s : State) : State :=
  let s := s.lpEnabled.foldl (fun s n => (s.samplesOut (s.lpCfg n) (Sp.get {} s.rch.lp n).out).2) s
  let s := (List.finRange 16).foldl (fun s (m : Fin 16) => (s.samplesOut (s.mpCfg m) (s.rch.mp.get m).out).2) s
  (s.rchUpd fun x => { x with bins := [], lossBins := [], lp := [], mp := Vector.replicate 16 {}, steps := [] }).tripsDrop

/-- R420 to R422: a write of RCH_CTL. -/
def State.rchCtlWrite (s : State) (w : Wr) : State :=
  let old := s.rchRun
  let s := s.plainWrite PG.rch w
  if !old && s.rchRun then s.rchStart else if old && !s.rchRun then s.rchStop else s

/-! ### Region map (R404) -/

/-- R404: tiles of a port. -/
def State.tileCount (s : State) (p : Fin 8) : Nat := s.tilesW p * ((s.geomH p + 15) / 16)

/-- R404: a write of RCH_MAP_GO. -/
def State.rchMapGo (s : State) (w : Wr) : State :=
  let p := baseOf (bf w.val 0 3)
  let cq := bf w.val 8 6
  let a := (s.reg PG.rch R.RCH_MAP_ADDR).toNat
  if s.rch.load.isSome then s.logWr PG.rch w .busy
  else if !s.itemFree .ordinary then s.ledgerFull PG.rch w
  else if !s.spEn p ∨ a % 64 ≠ 0 ∨ !s.inHbm a (2 * s.tileCount p) then s.emptyJob PG.rch cq .failInvalid 0
  else
    let (i, s) := s.openItem PG.rch cq 0 false
    (s.rchUpd fun x => { x with load := some (p, i, a) }).setBit PG.rch R.RCH_STS 24 true

/-- R404: one 32-byte block of the image sets sixteen entries; the first part tells that it read poisoned. -/
def State.rchMapBlock (s : State) (p : Fin 8) (a n k : Nat) : Bool × State :=
  let (r, s) := s.readBytes (a + 32 * k) (min 32 (2 * n - 32 * k))
  if r.bad then (true, s)
  else
    (false, s.rchUpd fun x => { x with map := (List.range (r.bytes.length / 2)).foldl (fun m j =>
      Sp.set 0 m (p.val * 65536 + 16 * k + j) (leNat ((r.bytes.drop (2 * j)).take 2) % 2 ^ 14)) x.map })

/-- R404: the map load ends. -/
def State.rchMapDone (s : State) : State :=
  match s.rch.load with
  | none => s
  | some (p, i, a) =>
    let n := s.tileCount p
    let (bad, s) := (List.range ((2 * n + 31) / 32)).foldl (fun (acc : Bool × State) k =>
      let (b, s) := acc.2.rchMapBlock p a n k
      (acc.1 || b, s)) (false, s)
    ((s.rchUpd fun x => { x with load := none }).setBit PG.rch R.RCH_STS 24 false).closeItem i
      (if bad then .failPoison else .ok) 0

/-- R403: SP_CTL.EN 0 to 1 clears the port's entries. -/
def State.rchMapClear (s : State) (p : Fin 8) : State :=
  s.rchUpd fun x => { x with map := x.map.filter fun e => e.1 / 65536 != p.val }

/-- R422: actions of a reset of the RCH page. -/
def State.rchPageReset (s : State) : State :=
  let s := s.rchUpd fun x => { x with
    bins := [], lossBins := [], lp := [], mp := Vector.replicate 16 {}, steps := [], load := none }
  let s := (s.setReg PG.rch R.RCH_CTL 0).setBit PG.rch R.RCH_STS 24 false
  let s := (s.setReg PG.rch R.RCH_CNT0 0).setReg PG.rch R.RCH_CNT1 0
  ((List.range 16).foldl (fun s m => (s.setReg PG.rch (R.RCH_MP_CNT m) 0).setReg PG.rch (R.MP_OUT m) 0) s).tripsDrop

/-- A write to a block register of the RCH page (R420). -/
def State.rchWrite (s : State) (w : Wr) : State :=
  let r := w.reg
  if r = R.RCH_CTL then s.rchCtlWrite w
  else if r = R.RCH_MAP_GO then s.rchMapGo w
  else if (0x2000 ≤ r ∨ r = R.RCH_LAG) ∧ s.rchRun then
    ((s.setBit PG.rch R.RCH_STS 0 true).irq PG.rch 1).logWr PG.rch w .state
  else s.plainWrite PG.rch w

/-! ### Commands of the table -/

/-- A 64-bit write to a block register of the RCH page. -/
def State.rchWr (s : State) (ini : Initiator) (off : Nat) (v : Word) : State :=
  s.gate PG.rch (.full ini off v) fun s => s.rchWrite (.full ini off v)

/-- RCH_BIN_CLOSE (R406). -/
def execRchBinClose (s : State) : Res := s.ends (if s.binDue then s.binClose else s)

/-- RATE_RECORD_TIMEOUT (R414): 1 ms after the record's first sample. -/
def execRateRecordTimeout (ch : Fin 2048) (s : State) : Res :=
  s.ends (match (Sp.get {} s.rch.lp ch.val).out.gather with
    | none => s
    | some (_, t, _) =>
      if 1000000 ≤ (s.dtc - t).toNat then
        let c := Sp.get {} s.rch.lp ch.val
        let (out, s) := s.samplesOut (s.lpCfg ch.val) c.out
        s.lpSet ch.val { c with out }
      else s)

/-- RCH_RUN (R421): a write of RCH_CTL. -/
def execRchRun (ini : Initiator) (v : Word) (s : State) : Res := s.ends (s.rchWr ini R.RCH_CTL v)

/-- RCH_STOP (R420): a write of RCH_CTL. -/
def execRchStop (ini : Initiator) (v : Word) (s : State) : Res := s.ends (s.rchWr ini R.RCH_CTL v)

/-- RCH_MAP_LOAD (R404): a write of RCH_MAP_GO. -/
def execRchMapLoad (ini : Initiator) (v : Word) (s : State) : Res := s.ends (s.rchWr ini R.RCH_MAP_GO v)

/-- RCH_MAP_LOAD_DONE (R404). -/
def execRchMapLoadDone (s : State) : Res := s.ends (s.replied PG.rch s.rch.load.isSome s.rchMapDone)

end Sys2Proof.Machine
end

