-- ==== Sys2Proof/Machine/Spike.lean ====
section
/-!
DEFINITION. Machine/Spike.lean: the mesh of routers, the spike ingress and egress bridges, the way of a packet into a kiln,
late spikes and slips, the committed floor, the modes of time advance and the count windows (R293 to R337).
-/

namespace Sys2Proof.Machine

/-- `s` with the spike fabric changed. -/
def State.spkUpd (s : State) (f : SpkState → SpkState) : State := { s with spk := f s.spk }

/-- `s` with one router changed. -/
def State.rtrUpd (s : State) (r : Fin 8) (f : RouterState → RouterState) : State :=
  s.spkUpd fun x => { x with routers := vupd x.routers r f }

/-! ### The mesh (R293 to R301) -/

/-- R293: column and row of a router. -/
def routerPlace : Fin 8 → Nat × Nat
  | 0 => (0, 0) | 1 => (1, 0) | 2 => (2, 0) | 6 => (3, 0)
  | 3 => (0, 1) | 4 => (1, 1) | 5 => (2, 1) | _ => (3, 1)

/-- R293: the router beyond an output port (1 XP, 2 XN, 3 YP, 4 YN), and the port on which a packet arrives there. -/
def routerNext (r : Fin 8) (port : Fin 5) : Option (Fin 8 × Fin 5) :=
  let (c, y) := routerPlace r
  let find := fun (d : Nat × Nat) => (List.finRange 8).find? fun q => routerPlace q == d
  match port with
  | 0 => none
  | 1 => (find (c + 1, y)).map fun q => (q, 2)
  | 2 => if c = 0 then none else (find (c - 1, y)).map fun q => (q, 1)
  | 3 => (find (c, y + 1)).map fun q => (q, 4)
  | 4 => if y = 0 then none else (find (c, y - 1)).map fun q => (q, 3)

/-- The kiln of a router, if it serves one. -/
def routerKiln (r : Fin 8) : Option (Fin 6) := if h : r.val < 6 then some ⟨r.val, h⟩ else none

/-- R298, R299: where a router sends a packet. -/
inductive Route where
  | drop (cause : Nat)
  | copies (ports : List (Fin 5)) (ptr : Nat) (miss : Bool)
  deriving DecidableEq, Repr

/-- R299: a packet's way to the egress bridge: along the row, then along the column. -/
def missPort (r : Fin 8) : Fin 5 := if (routerPlace r).1 < 3 then 1 else if (routerPlace r).2 = 0 then 3 else 0

/-- R298, R299: the decision on a packet that came in by `port`; causes: 0 MISS, 1 TURN, 2 LOOP. -/
def State.route (s : State) (r : Fin 8) (port : Fin 5) (p : Packet) : Route :=
  if 8 ≤ p.hops + 1 then .drop 2
  else if p.miss.isSome then .copies [missPort r] 0 false
  else
    match (s.spk.routers.get r).routes.find? fun e =>
        e.2.testBit 69 && (p.key &&& nfld e.2 32 32) == (nfld e.2 0 32 &&& nfld e.2 32 32) with
    | some e =>
      let mask := nfld e.2 32 32
      if (port = 3 ∨ port = 4) ∧ nfld e.2 65 2 ≠ 0 then .drop 1
      else .copies ((List.finRange 5).filter fun q => e.2.testBit (64 + q.val))
        (nfld e.2 72 24 + (p.key &&& (2 ^ 32 - 1 - mask))) false
    | none => if s.bit (PG.spk r) R.SPK_CTL 0 then .copies [missPort r] 0 true else .drop 0

/-- R294, R477: an output port can take a packet; a router or kiln in reset takes it and it is lost. -/
def State.portFree (s : State) (r : Fin 8) (port : Fin 5) : Bool :=
  if port = 0 then
    match routerKiln r with
    | none => true
    | some k => (s.spk.routers.get r).out.isNone || !s.alive (PG.lat k)
  else
    match routerNext r port with
    | none => true
    | some (q, i) => !s.alive (PG.spk q) || decide (((s.spk.routers.get q).inq.get i).length < 64)

/-- A packet joins an input queue of a router. -/
def State.rtrPush (s : State) (r : Fin 8) (i : Fin 5) (p : Packet) : State :=
  s.rtrUpd r fun x =>
    { x with
      headAt := if (x.inq.get i).isEmpty then x.headAt.set i s.dtc else x.headAt
      inq := vupd x.inq i fun q => q ++ [p] }

/-- R334: a packet's step in 24 bits at the egress bridge: the one nearest the lowest floor. -/
def nearStep (ref step : Nat) : Nat := step24 ref (sdiff 16 step ref)

/-- R310: the lowest of 24-bit steps. -/
def lowestStep : List Nat → Option Nat
  | [] => none
  | a :: r => match lowestStep r with
    | none => some a
    | some b => some (if sdiff 24 b a < 0 then b else a)

/-- R310: FLR_MIN: the lowest floor over all courses of all enabled kilns. -/
def State.floorMin (s : State) : Nat :=
  (lowestStep ((s.kilns.map fun k => (s.courseList k).map fun c => (s.lat.get k).floor.get c).flatten)).getD 0

/-- R295: the packets are of one spike: KEY, STEP and VALUE agree. -/
def sameSpike (a b : Packet) : Bool := a.key == b.key && a.step == b.step && a.value == b.value

/-- A list without its first element that meets the test, if one does. -/
def dropFirst {α : Type} (t : α → Bool) : List α → Option (α × List α)
  | [] => none
  | a :: r => if t a then some (a, r) else (dropFirst t r).map fun x => (x.1, a :: x.2)

/-- R334: a packet reaches the egress bridge. -/
def State.egressIn (s : State) (p : Packet) : State :=
  let pg := PG.spk 7
  if p.cancel then
    match dropFirst (fun (h : HeldSpike) => sameSpike h.pkt p) s.spk.hold with
    | none => s
    | some (_, l) => (s.spkUpd fun x => { x with hold := l }).bump pg R.EGR_CNT 48 16
  else if 8192 ≤ s.spk.hold.length then (s.bump pg R.EGR_CNT 32 16).irq pg 3
  else s.spkUpd fun x => { x with hold := x.hold ++ [{ pkt := p, step := nearStep s.floorMin p.step }] }

/-- R298, R477: one copy leaves router `r` by a port. -/
def State.copyOut (s : State) (r : Fin 8) (ptr : Nat) (p : Packet) (port : Fin 5) : State :=
  let s := s.rtrUpd r fun x => { x with movedAt := x.movedAt.set port s.dtc }
  if port = 0 then
    match routerKiln r with
    | none => if r = 7 then s.egressIn p else s
    | some k =>
      if s.alive (PG.lat k) then
        s.rtrUpd r fun x => { x with out := some { pkt := p, ptr, at_ := s.dtc } }
      else s.bump (PG.spk r) R.SPK_CNT1 32 32
  else
    match routerNext r port with
    | none => s
    | some (q, i) =>
      if s.alive (PG.spk q) then s.rtrPush q i p else s.bump (PG.spk r) R.SPK_CNT1 32 32

/-- R294: packets of a kiln enter the LOCAL input of its router as it has room. -/
def State.pullLocal (s : State) (r : Fin 8) : State :=
  match routerKiln r with
  | none => s
  | some k =>
    let n := 64 - ((s.spk.routers.get r).inq.get 0).length
    let l := (s.lat.get k).out
    (l.take n).foldl (fun s p => s.rtrPush r 0 p) (s.latUpd k fun x => { x with out := l.drop n })

/-- R298: an input port whose head can go now. -/
def State.inputReady (s : State) (r : Fin 8) (i : Fin 5) : Bool :=
  match (s.spk.routers.get r).inq.get i with
  | [] => false
  | p :: _ => match s.route r i p with
    | .drop _ => true
    | .copies ports _ _ => ports.all fun q => s.portFree r q

/-- R298, R299: the router treats the packet at the head of one input that can go; among several the choice is open. -/
def State.routerPacket (s : State) (r : Fin 8) : State :=
  if !s.running (PG.spk r) then s
  else
    let s := s.pullLocal r
    match (List.finRange 5).filter fun i => s.inputReady r i with
    | [] => s
    | a :: rest =>
      let (f, s) := s.takeFree
      let i := (a :: rest).getD (Config.freeNat f % (rest.length + 1)) a
      match (s.spk.routers.get r).inq.get i with
      | [] => s
      | p :: q =>
        let way := s.route r i p
        let s := s.rtrUpd r fun x => { x with inq := x.inq.set i q, headAt := x.headAt.set i s.dtc }
        let pg := PG.spk r
        match way with
        | .drop 0 => s.bump pg R.SPK_CNT0 32 16
        | .drop 1 => s.bump pg R.SPK_CNT0 48 8
        | .drop _ => s.bump pg R.SPK_CNT0 56 8
        | .copies ports ptr miss =>
          let s := if miss then s.bump pg R.SPK_CNT0 32 16 else s
          let p' := { p with hops := p.hops + 1, miss := if miss then some r.val else p.miss }
          let s := ports.foldl (fun s port => s.copyOut r ptr p' port) s
          let s := if ports.isEmpty then s else s.bump pg R.SPK_CNT0 0 32
          if p.cancel then s.bump pg R.SPK_CNT1 0 32 else s

/-- R301: an output port holds a packet and has moved nothing for 100 µs. -/
def State.stalled (s : State) (r : Fin 8) (port : Fin 5) : Bool :=
  let x := s.spk.routers.get r
  let old := fun (t : Word) => decide (100000 ≤ (s.dtc - t).toNat)
  old (x.movedAt.get port) &&
    ((port == 0 && (match x.out with | some o => old o.at_ | none => false)) ||
     (List.finRange 5).any fun i => match x.inq.get i with
       | [] => false
       | p :: _ => old (x.headAt.get i) && (match s.route r i p with
         | .drop _ => false
         | .copies ports _ _ => ports.contains port))

/-- R301: STALL sets. -/
def State.routerStall (s : State) (r : Fin 8) (port : Nat) : State :=
  if h : port < 5 then
    if s.alive (PG.spk r) && s.stalled r ⟨port, h⟩ then (s.setBit (PG.spk r) R.SPK_STS 0 true).irq (PG.spk r) 0 else s
  else s

/-! ### The ingress bridge (R302 to R305) -/

/-- R304: the completion time C_n of a port at the present instant; every word of its hold queue carries an IET. -/
def State.doneTick (s : State) (p : Fin 8) : Int :=
  let c := s.nowTick - 16 * s.fld (PG.spk 6) (R.ING_P_CTL p) 16 16
  let held := (s.adm.hold.get p).map fun e => s.fullTick (bf e.word 0 32)
  let c := if s.bit (PG.spk 6) (R.ING_P_CTL p) 0 && s.spEn p then held.foldl min c else c
  max (s.spk.done.get p) c

/-- R304: C_n is formed anew. -/
def State.ingTouch (s : State) (p : Fin 8) : State :=
  let c := s.doneTick p
  s.spkUpd fun x => { x with done := x.done.set p c }

/-- R305: a spike of the bridge enters the mesh, or the spool, or is dropped. -/
def State.ingSend (s : State) (n : Fin 8) (p : Packet) (step : Nat) : State :=
  let pg := PG.spk 6
  let size := s.fld pg R.ING_SPOOL_SIZE 0 21
  if s.spk.spool.isEmpty && decide (((s.spk.routers.get 6).inq.get 0).length < 64) then s.rtrPush 6 0 p
  else if s.spk.spool.length < size then
    let i := (s.spk.spHead + s.spk.spool.length) % size
    let (f, s) := s.takeFree
    let s := s.writeBytes none ((s.reg pg R.ING_SPOOL_BASE).toNat + 16 * i)
      ((List.range 16).map fun j => Config.freeByte f j)
    s.spkUpd fun x => { x with spool := x.spool ++ [p] }
  else
    (List.finRange 6).foldl (fun s k => s.cwMarkStep k step 4) (s.bump pg (R.ING_P_CNT n) 48 16)

/-- R303: the key of a pixel event's spike. -/
def State.ingKey (s : State) (n : Fin 8) (x y : Nat) (pol : Bool) : Nat :=
  let sh := s.fld (PG.spk 6) (R.ING_P_CTL n) 1 3
  let w := s.fld (PG.sp n) R.SP_GEOM 0 12
  let rw := (w + 2 ^ sh - 1) / 2 ^ sh
  (s.fld (PG.spk 6) (R.ING_P_KEY n) 0 32 + 2 * (y >>> sh * rw + x >>> sh) + b2n pol) % 2 ^ 32

/-- R303, R304: an admitted pixel event forms a spike. C_n stands as it was formed while the event was held: the event bounds it
until it reaches the bridge. -/
def State.ingEvent (s : State) (n : Fin 8) (word : Word) : State :=
  let pg := PG.spk 6
  if !s.alive pg || !s.bit pg (R.ING_P_CTL n) 0 then s
  else
    let t := s.fullTick (bf word 0 32)
    let c := s.spk.done.get n
    let late := decide (t < c)
    let (f, s) := s.takeFree
    let step := if s.ingLen = 0 then Config.freeNat f % 2 ^ 24 else low 24 (s.stepOfTick (if late then c else t))
    let s := s.bump pg (R.ING_P_CNT n) 0 32
    let s := if late then s.bump pg (R.ING_P_CNT n) 32 16 else s
    s.ingSend n { key := s.ingKey n (bf word 32 11) (bf word 43 11) (bitAt word 54), step := step % 65536,
                  value := s.fld pg (R.ING_P_CTL n) 8 8, epoch := 0, cancel := false, src := 6, retimed := late,
                  cone := s.mode == 1 } step

/-- R305: the oldest spooled spike enters the mesh. -/
def State.spoolDrain (s : State) : State :=
  match s.spk.spool with
  | [] => s
  | p :: r =>
    if s.alive (PG.spk 6) && decide (((s.spk.routers.get 6).inq.get 0).length < 64) then
      (s.spkUpd fun x =>
        { x with spool := r, spHead := (x.spHead + 1) % max 1 (s.fld (PG.spk 6) R.ING_SPOOL_SIZE 0 21) }).rtrPush 6 0 p
    else s

/-! ### Modes (R322 to R326) -/

/-- R333: STATE changes. -/
def State.setMode (s : State) (m : Nat) : State := (s.setFld (PG.spk 7) R.MODE_STS 0 3 m).irq (PG.spk 7) 2

/-- Every course of every enabled kiln. -/
def State.allCourses (s : State) : List (Fin 6 × Fin 16) :=
  (s.kilns.map fun k => (s.courseList k).map fun c => (k, c)).flatten

/-- R324: DRAIN begins, with the first Cone boundary at or after the highest step of any course. -/
def State.enterDrain (s : State) : State :=
  let len := max 1 s.coneLen
  let d := (s.allCourses.map fun x => (sdiff 24 ((s.lat.get x.1).next.get x.2) s.spk.cone).toNat).foldl max 0
  let b := step24 s.spk.cone ((d + len - 1) / len * len : Nat)
  (s.setMode 3).spkUpd fun x => { x with drainTo := some b }

/-- R322: the recovery item is armed from the live position. -/
def State.armRecovery (s : State) : State :=
  if !s.bit (PG.spk 7) R.CONE_CTL 19 then s
  else
    let p := baseOf (s.fld (PG.spk 7) R.CONE_CTL 16 3)
    let x := s.pos p
    let t := x + s.reg (PG.spk 7) R.CONE_SPAN
    ((s.schedAdd .recovery p t x).setReg (PG.spk 7) R.RECOVER_POS t).spkUpd fun y => { y with recDue := false }

/-- R322, R325: a slip storm of kiln `k`. -/
def State.storm (s : State) (k : Fin 6) : State :=
  let pg := PG.spk 7
  let s := ((s.setBit pg R.MODE_STS 8 true).setFld pg R.MODE_STS 9 3 k.val).irq pg 1
  let s := ((s.irq (PG.lat k) 3).bump pg R.MODE_CNT 0 16).armRecovery
  if s.mode = 2 then s.enterDrain else s

/-- R324: TO_CONE. -/
def State.toConeCmd (s : State) : State := if s.mode = 2 then s.enterDrain else s

/-- R324: TO_WHEEL is held until the next barrier. -/
def State.toWheelCmd (s : State) : State :=
  if s.mode = 1 ∨ (s.mode = 3 ∧ s.spk.drainTo.isSome) then s.spkUpd fun x => { x with toWheel := true } else s

/-- R324: every course has committed every step below `b`. -/
def State.committed (s : State) (b : Nat) : Bool :=
  s.allCourses.all fun x => decide (0 ≤ sdiff 24 ((s.lat.get x.1).floor.get x.2) b)

/-- R324: the barrier of the running Cone step. -/
def State.coneBarrier (s : State) : State :=
  let b := step24 s.spk.cone s.coneLen
  if s.mode ≠ 1 ∨ !s.alive (PG.spk 7) ∨ !s.committed b then s
  else
    let go := (s.spk.first && s.bit (PG.spk 7) R.WHL_CTL 8) || s.spk.toWheel || s.spk.recDue
    let s' := s.spkUpd fun x => { x with cone := b, first := false }
    if go then
      let s' := if s.spk.recDue then s'.bump (PG.spk 7) R.MODE_CNT 16 16 else s'
      ((s'.schedDel .recovery).spkUpd fun x => { x with toWheel := false, recDue := false }).setMode 2
    else s'.bump (PG.spk 7) R.MODE_CNT 32 32

/-- R324: DRAIN ends. -/
def State.drainDone (s : State) : State :=
  if s.mode ≠ 3 ∨ !s.alive (PG.spk 7) then s
  else
    match s.spk.drainTo with
    | some b => if s.committed b then (s.spkUpd fun x => { x with drainTo := none, cone := b, first := false }).setMode 1
      else s
    | none =>
      if s.allCourses.all fun x => (s.lat.get x.1).floor.get x.2 == (s.lat.get x.1).next.get x.2 then s.setMode 0 else s

/-- R336: the failing checks of WHL_CTL.EN, as bits of MODE_STS; `v` is the word being written. -/
def State.whlFails (s : State) (v : Word) : List Nat :=
  let pg := PG.spk 7
  let len := s.ingLen
  let us := s.fld pg R.CONE_CTL 0 16
  let w := s.cwLen * len
  (if len = 0 then [16] else []) ++ (if 64 < bf v 1 7 then [17] else []) ++ (if us = 0 then [18] else [])
    ++ (if us < 100 ∨ 10000 < us ∨ 16 * us % len ≠ 0 then [19] else [])
    ++ (if s.bit pg R.CW_CTL 48 ∧ (s.cwLen = 0 ∨ w < 160 ∨ 16000000 < w) then [20] else [])
    ++ (if s.kilns.any fun k => s.fld (PG.lat k) R.LAT_SLIP_LIMIT 0 16 == 0 then [21] else [])
    ++ (if s.bit pg R.CONE_CTL 19 ∧ s.reg pg R.CONE_SPAN = 0 then [22] else [])

/-- R324, R327, R336: WHL_CTL.EN goes from 0 to 1. -/
def State.whlStart (s : State) (w : Wr) : State :=
  let pg := PG.spk 7
  let v := s.wouldBe pg w
  if s.mode ≠ 0 then s.logWr pg w .busy
  else
    let bad := s.whlFails v
    if !bad.isEmpty then (s.setReg pg R.WHL_CTL (putBit v 0 false)).setBits pg R.MODE_STS bad
    else
      let s := (List.finRange 6).foldl (fun s (k : Fin 6) => s.latUpd k fun l =>
        { l with next := Vector.replicate 16 0, floor := Vector.replicate 16 0, run := none, ran := 0, spec := [], jnext := 0, ahead := [],
                 slips := 0, cw := 0, banks := Vector.replicate 2 [], marks := [] }) s
      let s := s.spkUpd fun x => { x with cone := 0, first := true, toWheel := false, recDue := false, drainTo := none }
      (s.setReg pg R.WHL_CTL v).setMode 1

/-- R333: a write of WHL_CTL. -/
def State.whlCtl (s : State) (w : Wr) : State :=
  let pg := PG.spk 7
  let v := s.wouldBe pg w
  if s.bit pg R.WHL_CTL 0 then
    if bitAt v 0 then s.logWr pg w .state
    else
      let s := s.setReg pg R.WHL_CTL v
      if s.mode = 0 then s else (if s.mode = 3 then s else s.setMode 3).spkUpd fun x => { x with drainTo := none }
  else if bitAt v 0 then s.whlStart w
  else s.setReg pg R.WHL_CTL v

/-! ### From router to kiln (R306, R307, R316 to R320) -/

/-- R318: a slip to step `a` on account of a late spike or a cancel, and the storm it may make (R322). -/
def State.slip (s : State) (k : Fin 6) (a : Nat) : State :=
  let pg := PG.lat k
  let n := (sdiff 24 (s.lastBegun k) a).toNat + 1
  let s := (s.undoTo k a).bump pg R.LAT_SLIP_CNT 0 32
  let s := (s.addCnt pg R.LAT_SLIP_CNT 32 32 n).latUpd k fun l => { l with slips := l.slips + 1 }
  if (s.lat.get k).slips = s.fld pg R.LAT_SLIP_LIMIT 0 16 + 1 then s.storm k else s

/-- R317: the least arrival step of the synapses that is not after `cu`. -/
def lateStep (b : BufPkt) (cu : Nat) (l : List Synapse) : Option Nat :=
  lowestStep ((l.map fun y => step24 b.step (1 + y.delay)).filter fun a => decide (sdiff 24 a cu ≤ 0))

/-- R317, R320: a spike of a passed step is absorbed, or its course slips; a cancel of an applied spike (`back`) alike. -/
def State.lateSpike (s : State) (k : Fin 6) (b : BufPkt) (back : Bool) : State :=
  let (l, s) := s.rowSynapses k b
  let cu := s.lastBegun k
  let f := step24 ((s.lat.get k).floor.get (s.lat.get k).resident) 1
  match lateStep b cu l with
  | none => (s.applySynapses k b back l).bump (PG.lat k) R.LAT_SLIP_CNT1 0 32
  | some a =>
    let a := if sdiff 24 a f < 0 then f else a
    let s := if 0 < sdiff 24 a cu then s else s.slip k a
    s.applySynapses k b back l

/-- R271, R307, R317: a spike for the resident course: it waits in the input buffer for its step, is applied with the step
under way, or is late. -/
def State.spikeIn (s : State) (k : Fin 6) (b : BufPkt) : State :=
  let l := s.lat.get k
  let cu := s.lastBegun k
  let d := sdiff 24 b.step cu
  if 0 < d ∨ (d = 0 ∧ l.run.isSome) then s.latUpd k fun x => { x with buf := x.buf ++ [b] }
  else if d = 0 then s.applySpike k b false
  else s.lateSpike k b false

/-- R316: a CANCEL has met its spike `x`, still buffered; a different epoch counts, the match stands. -/
def State.cancelMet (s : State) (k : Fin 6) (x b : BufPkt) : State :=
  if x.pkt.epoch = b.pkt.epoch then s else (s.bump (PG.lat k) R.LAT_SLIP_CNT1 48 16).irq (PG.lat k) 4

/-- R316, R317: a CANCEL for the resident course. -/
def State.cancelIn (s : State) (k : Fin 6) (b : BufPkt) : State :=
  let s := s.bump (PG.lat k) R.LAT_CANCEL_CNT 32 32
  match dropFirst (fun (x : BufPkt) => sameSpike x.pkt b.pkt) (s.lat.get k).buf with
  | some (x, r) => (s.latUpd k fun l => { l with buf := r }).cancelMet k x b
  | none => s.lateSpike k b true

/-- R307: whether the resident course has no room to keep a spike. -/
def State.bufFull (s : State) (k : Fin 6) (step : Nat) : Bool :=
  let d := sdiff 24 step (s.lastBegun k)
  decide (4096 ≤ (s.lat.get k).buf.length) && (decide (0 < d) || (d == 0 && (s.lat.get k).run.isSome))

/-- R307: inbox entries of the resident course move into the input buffer while it has room, `n` at most. -/
def State.inboxMove (s : State) (k : Fin 6) : Nat → State
  | 0 => s
  | n + 1 =>
    let c := (s.lat.get k).resident
    if s.inboxLevel k c = 0 ∨ 4096 ≤ (s.lat.get k).buf.length then s
    else
      match s.inboxTake k c with
      | (none, s) => s.inboxMove k n
      | (some b, s) =>
        match dropFirst (fun (x : Fin 16 × BufPkt) => x.1 == c && sameSpike x.2.pkt b.pkt) (s.lat.get k).cancels with
        | some (x, r) =>
          (((s.latUpd k fun l => { l with cancels := r }).bump (PG.lat k) R.LAT_CANCEL_CNT 32 32).cancelMet k b x.2).inboxMove k n
        | none => (s.spikeIn k b).inboxMove k n

/-- R307: the resident course's inbox moves as far as there is room; once it is empty, cancels left for the course act on
it. -/
def State.inboxSettle (s : State) (k : Fin 6) : State :=
  let c := (s.lat.get k).resident
  let s := s.inboxMove k (s.inboxLevel k c)
  if s.inboxLevel k c ≠ 0 then s
  else
    let mine := (s.lat.get k).cancels.filter fun x => x.1 == c
    mine.foldl (fun s x => s.cancelIn k x.2)
      (s.latUpd k fun l => { l with cancels := l.cancels.filter fun x => x.1 != c })

/-- R287, R307: the swap ends: the incoming course's regions are read, its inbox moves into the input buffer; cancels whose
spike is not in the inbox act on the course. -/
def State.courseSwapDone (s : State) (k : Fin 6) : State :=
  match (s.lat.get k).swap with
  | none => s
  | some (c, t) =>
    let save := (s.reg (PG.kln k) (R.CRS_SAVE c)).toNat
    let s := (s.crsRegions k c).foldl (fun s r => s.copyWords (save + r.2.2) r.1 (r.2.1 / 32)) s
    let s := s.latUpd k fun l => { l with swap := none, resident := c, ran := 0, sweep := 0, skip := [] }
    let s := s.bump (PG.kln k) R.KLN_SWAP_CNT 0 32
    let s := s.setFld (PG.kln k) R.KLN_SWAP_LAST 0 32 (min (2 ^ 32 - 1) (s.dtc - t).toNat)
    s.inboxSettle k

/-- R309: the course names the packet's source: its kiln, or, for the ingress bridge, any port; the kiln itself needs no
name. -/
def State.sourceNamed (s : State) (k : Fin 6) (c : Fin 16) (src : Nat) : Bool :=
  let r := s.reg (PG.kln k) (R.KLN_SRC c)
  if src = k.val then true else if src < 6 then bitAt r (8 + src) else bf r 0 8 != 0

/-- R288, R307: the whole µs for which the packet at the kiln's router port has been held for want of room count in
INBOX_STALL, each once. -/
def State.stallCount (s : State) (k : Fin 6) : State :=
  let r : Fin 8 := k.castLE (by decide)
  match (s.spk.routers.get r).out with
  | some { held := some t, .. } =>
    let n := (s.dtc - t).toNat / 1000
    (s.addCnt (PG.kln k) R.KLN_SWAP_CNT 32 32 n).rtrUpd r fun x =>
      { x with out := x.out.map fun o => { o with held := some (t + BitVec.ofNat 64 (1000 * n)) } }
  | _ => s

/-- The LOCAL output of the kiln's router is empty again. -/
def State.localTaken (s : State) (k : Fin 6) : State :=
  (s.stallCount k).rtrUpd (k.castLE (by decide)) fun x => { x with out := none, movedAt := x.movedAt.set 0 s.dtc }

/-- R306: pointers that the pointer cache holds. -/
def ptrCacheSize : Nat := 4096

/-- R306: the pointer of index `i`, through the kiln's pointer cache; the second part tells that it reads poisoned. Whether a
pointer read before is still in the cache is open: a free value decides (log 216). -/
def State.ptrRead (s : State) (k : Fin 6) (i : Nat) : Nat × Bool × State :=
  let (f, s) := match Sp.find (s.lat.get k).ptrs i with
    | none => (none, s)
    | some v => let (f, s) := s.takeFree; (if Config.freeNat f % 2 = 0 then some v else none, s)
  match f with
  | some v => (v, false, s)
  | none =>
    let (v, bad, s) := s.readNat ((s.reg (PG.kln k) R.KLN_PTR_BASE).toNat + 8 * i) 8
    (v, bad, s.latUpd k fun l =>
      let r := l.ptrs.filter fun e => e.1 != i
      { l with ptrs := if bad then r else ((i, v) :: r).take ptrCacheSize })

/-- R306: the pointer of a packet: row and course; none where the packet is dropped. -/
def State.rowPointer (s : State) (k : Fin 6) (i : Nat) : Option (Nat × Fin 16) × State :=
  let pg := PG.kln k
  if s.fld pg R.KLN_PTR_COUNT 0 24 ≤ i then (none, s)
  else
    let (v, bad, s) := s.ptrRead k i
    let c : Fin 16 := ⟨nfld v 40 4, Nat.mod_lt _ (by decide)⟩
    if bad ∨ !v.testBit 63 ∨ s.courses k ≤ c.val then (none, s) else (some (nfld v 0 40, c), s)

/-- R306 to R309: the packet at the kiln's router port is taken, dropped, or waits. -/
def State.kilnPacket (s : State) (k : Fin 6) : State :=
  let r : Fin 8 := k.castLE (by decide)
  match (s.spk.routers.get r).out with
  | none => s
  | some o =>
    if !s.running (PG.lat k) then s
    else
      match s.rowPointer k o.ptr with
      | (none, s) => (s.localTaken k).bump (PG.kln k) R.KLN_CW_STS 16 16
      | (some (row, c), s) =>
        let l := s.lat.get k
        let step := nearStep (l.next.get c) o.pkt.step
        let b : BufPkt := { pkt := o.pkt, step, row }
        let here := l.swap.isNone && l.resident == c && s.inboxLevel k c == 0
        let full := if here then !o.pkt.cancel && s.bufFull k step
          else if o.pkt.cancel then decide (1024 ≤ l.cancels.length) else s.inboxRoom k c == 0
        if full then
          if o.held.isSome then s
          else s.rtrUpd r fun x => { x with out := some { o with held := some s.dtc } }
        else
          let s := s.localTaken k
          let named := s.sourceNamed k c o.pkt.src
          let s := if named then s else s.bump (PG.kln k) R.KLN_CW_STS 32 16
          let s := if !named && decide (sdiff 24 step (l.floor.get c) < 0) then s.cwMarkOpen k 4 else s
          let s := if o.pkt.retimed then s.cwMarkStep k step 2 else s
          if here then if o.pkt.cancel then s.cancelIn k b else s.spikeIn k b
          else if o.pkt.cancel then s.latUpd k fun x => { x with cancels := x.cancels ++ [(c, b)] }
          else s.inboxPut k c b

/-! ### The committed floor (R310) -/

/-- R310: the packets in the mesh. -/
def State.inMesh (s : State) : List Packet :=
  (s.spk.routers.toList.map fun r =>
    r.inq.toList.flatten ++ (match r.out with | some o => [o.pkt] | none => [])).flatten
    ++ (s.lat.toList.map fun l => l.out).flatten

/-- R310: steps of a course's inbox entries. -/
def State.inboxSteps (s : State) (k : Fin 6) (c : Fin 16) : List Nat :=
  (List.range (s.inboxLevel k c)).map fun i =>
    nfld (s.peekNat (s.inboxAddr k c ((s.lat.get k).inHead.get c + i)) 16) 32 24

/-- R310: the floor's terms of the ports that a course names. -/
def State.portTerms (s : State) (k : Fin 6) (c : Fin 16) : List Nat :=
  let src := s.reg (PG.kln k) (R.KLN_SRC c)
  (List.finRange 8).filterMap fun p => if bitAt src p.val then some (low 24 (s.stepOfTick (s.doneTick p))) else none

/-- R310: the floor's terms of the packets in the mesh, judged against step `n`. -/
def State.meshTerms (s : State) (n : Nat) : List Nat := s.inMesh.map fun p => nearStep n p.step

/-- R310: the terms of a course's floor. -/
def State.floorTerms (s : State) (k : Fin 6) (c : Fin 16) : List Nat :=
  let l := s.lat.get k
  let n := l.next.get c
  let src := s.reg (PG.kln k) (R.KLN_SRC c)
  let kilns := ((List.finRange 6).filterMap fun j =>
    if j ≠ k ∧ bitAt src (8 + j.val) then
      some ((s.courseList j).map fun e => (s.lat.get j).floor.get e)
    else none).flatten
  let own := (s.courseList k).filterMap fun e => if e ≠ c ∧ bitAt src (16 + e.val) then some (l.floor.get e) else none
  let buf := l.buf.map BufPkt.step ++ l.cancels.map fun x => x.2.step
  n :: s.portTerms k c ++ kilns ++ own ++ s.meshTerms n ++ buf ++ s.inboxSteps k c

/-- R310: the new floor of a course: it never decreases. -/
def State.newFloor (s : State) (k : Fin 6) (c : Fin 16) : Nat :=
  let old := (s.lat.get k).floor.get c
  match lowestStep (s.floorTerms k c) with
  | none => old
  | some f => if sdiff 24 f old < 0 then old else f

/-- The lowest floor of a kiln's courses. -/
def State.kilnFloor (s : State) (k : Fin 6) : Nat :=
  (lowestStep ((s.courseList k).map fun c => (s.lat.get k).floor.get c)).getD 0

/-- R324: outside Cone mode the last Cone boundary follows the lowest floor, by whole Cone steps: DRAIN finds the first boundary
from there. -/
def State.coneFollow (s : State) : State :=
  let len := s.coneLen
  let d := sdiff 24 s.floorMin s.spk.cone
  if s.mode ≠ 2 ∨ len = 0 ∨ d < (len : Int) then s
  else s.spkUpd fun x => { x with cone := step24 x.cone ((d.toNat / len * len : Nat) : Int) }

/-- R310, R312, R322: every floor is formed anew from the former ones; journal entries of committed steps are freed. -/
def State.floorUpdate (s : State) : State :=
  if !s.alive (PG.spk 7) || s.mode == 0 || s.ingLen == 0 then s
  else
    let all := s.allCourses.map fun x => (x.1, x.2, s.newFloor x.1 x.2)
    let lows := s.kilns.map fun k => (k, s.kilnFloor k)
    let s := all.foldl (fun s x => s.latUpd x.1 fun l => { l with floor := l.floor.set x.2.1 x.2.2 }) s
    lows.foldl (fun s x =>
      let up := decide (0 < sdiff 24 (s.kilnFloor x.1) x.2)
      s.latUpd x.1 fun l =>
        { l with
          slips := if up then 0 else l.slips
          spec := l.spec.filter fun e => decide (0 ≤ sdiff 24 e.step (l.floor.get l.resident)) }) s.coneFollow

/-! ### Steps (R271, R311, R312, R323) -/

/-- R271: a course of a kiln has gone through the update phase of step `c`. -/
def State.updated (s : State) (j : Fin 6) (e : Fin 16) (c : Nat) : Bool :=
  let l := s.lat.get j
  let d := sdiff 24 (l.next.get e) c
  decide (0 < d) || (d == 0 && l.resident == e && (match l.run with
    | some r => decide (s.fld (PG.lat j) R.LAT_CTL 0 19 ≤ r.slot)
    | none => false))

/-- R323: all spikes of step `c` have come to the resident course of a kiln with one course: its ports are past the step, the
kilns that it names have gone through their update phases of it, and no packet of a step up to it is under way. A kiln with
several courses cannot tell before it swaps and does not wait (log 220). -/
def State.coneReady (s : State) (k : Fin 6) (c : Nat) : Bool :=
  let l := s.lat.get k
  let src := s.reg (PG.kln k) (R.KLN_SRC l.resident)
  decide (1 < s.courses k) ||
    ((s.portTerms k l.resident ++ s.meshTerms c).all (fun t => decide (0 < sdiff 24 t c)) && l.cancels.isEmpty
      && (List.finRange 6).all fun j => j == k || !bitAt src (8 + j.val) || (s.courseList j).all fun e => s.updated j e c)

/-- R271, R323: the update phase under way goes on, and the apply phase follows; in Cone mode that waits for the step's spikes,
and takes those that fill the input buffer. -/
def State.stepGo (s : State) (k : Fin 6) (slot : Nat) : State :=
  let c := (s.lat.get k).next.get (s.lat.get k).resident
  let n := s.fld (PG.lat k) R.LAT_CTL 0 19
  match s.updatePhase k c (n - slot) slot with
  | (some w, s) => s.latUpd k fun l =>
      { l with run := some { slot := w, counted := match l.run with | some r => r.counted && r.slot == w | none => false } }
  | (none, s) =>
    if s.mode = 1 ∧ !s.coneReady k c then
      let s := s.latUpd k fun l => { l with run := some { slot := max n slot, counted := false } }
      if (s.lat.get k).buf.length < 4096 then s else s.applyPhase k c
    else
      let s := s.latUpd k fun l => { l with run := none, ran := l.ran + 1, next := l.next.set l.resident (step24 c 1) }
      let s := (s.unpark k c).applyPhase k c
      if s.mode = 1 then s.cwMarkStep k c 1 else s

/-- R271, R311, R312: the resident course starts its next step, or goes on with the one that waits. -/
def State.latticeStep (s : State) (k : Fin 6) : State :=
  let l := s.lat.get k
  match l.run with
  | some r => if s.running (PG.lat k) && l.swap.isNone then s.stepGo k r.slot else s
  | none =>
    if !s.mayStart k then s
    else
      let c := l.next.get l.resident
      let spec := decide (0 < sdiff 24 c (l.floor.get l.resident))
      let s := if spec then s.latUpd k fun l =>
          { l with spec := l.spec ++ [{ step := c, first := l.jnext, epoch := l.epoch }] } else s
      s.stepGo k 0

/-! ### Count windows (R329, R330) -/

/-- R329: the header of a snapshot. -/
def cwHeader (w first kiln len marks cnt : Nat) (dtc : Word) : Nat :=
  nfld w 0 32 + first <<< 32 + kiln <<< 56 + len <<< 64 + (marks % 32) <<< 88 + (cnt - 1) <<< 96 + dtc.toNat <<< 128

/-- R329: the oldest open count window of a kiln closes. -/
def State.cwClose (s : State) (k : Fin 6) : State :=
  let l := s.lat.get k
  let w := l.cw
  if !s.cwOn k || !s.enabled (PG.lat k) || decide (sdiff 24 (s.kilnFloor k) (s.cwFirst (w + 1)) < 0) then s
  else
    let pg := PG.kln k
    let map := s.reg pg R.KLN_CW_MAP
    let cnt := ((bf map 20 20 - bf map 0 20) >>> bf map 40 4) + 1
    let b : Fin 2 := ⟨w % 2, Nat.mod_lt _ (by decide)⟩
    let marks := Sp.get 0 l.marks w
    let hdr := leBytes 64 (cwHeader w (s.cwFirst w) k.val s.cwLen marks cnt s.dtc)
    let body := ((List.range cnt).map fun i => leBytes 4 (Sp.get 0 (l.banks.get b) i)).flatten
    let slots := s.fld pg R.KLN_CW_SLOTS 0 11
    let head := s.fld pg R.KLN_CW_HEAD 0 32
    let used := (head + 2 ^ 32 - s.fld pg R.KLN_CW_TAIL 0 32) % 2 ^ 32
    let addr := (s.reg pg R.KLN_CW_RING).toNat + (head % max 1 slots) * (64 + roundUp (4 * cnt) 64)
    let lost := used == slots
    let (f, s) := s.takeFree
    let s := if lost then (s.bump pg R.KLN_CW_CNT 32 16).irq pg 3
      else (s.writeBytes none addr (hdr ++ body)).setFld pg R.KLN_CW_HEAD 0 32 (head + 1)
    let s := s.bump pg R.KLN_CW_CNT 0 32
    let s := if marks.testBit 3 then s.bump pg R.KLN_CW_CNT 48 16 else s
    let s := s.latUpd k fun x =>
      { x with cw := w + 1, banks := x.banks.set b [], marks := x.marks.filter fun m => decide (w < m.1) }
    let pad := List.replicate (roundUp (4 * cnt) 8 - 4 * cnt) 0
    let tail := if s.bit PG.res R.RES_CTL 0 then body ++ pad
      else leBytes 8 (if lost then (Config.freeWord f).toNat else addr)
    (s.writeRecord .count none w (hdr ++ tail)).2

/-! ### Egress (R334) -/

/-- R323, R334: of two held spikes the one that is released first: by step, and, where their step ran in Cone mode, by KEY and
SRC. -/
def heldBefore (a b : HeldSpike) : Bool :=
  decide (sdiff 24 a.step b.step < 0) || (a.step == b.step && a.pkt.cone && b.pkt.cone && keyBefore a.pkt b.pkt)

/-- The held spike released first. -/
def firstHeld : List HeldSpike → Option HeldSpike
  | [] => none
  | a :: r => match firstHeld r with
    | none => some a
    | some b => some (if heldBefore b a then b else a)

/-- R334: a held spike below the lowest floor is released into the ring. -/
def State.egressRelease (s : State) : State :=
  let pg := PG.spk 7
  if !s.running pg then s
  else
    match firstHeld (s.spk.hold.filter fun h => decide (sdiff 24 h.step s.floorMin < 0)) with
    | none => s
    | some h =>
      let s := s.spkUpd fun x => { x with hold := x.hold.erase h }
      let head := s.fld pg R.EGR_RING_HEAD 0 32
      let size := s.fld pg R.EGR_RING_SIZE 0 21
      if size ≤ (head + 2 ^ 32 - s.fld pg R.EGR_RING_TAIL 0 32) % 2 ^ 32 then (s.bump pg R.EGR_CNT 32 16).irq pg 3
      else
        let p := h.pkt
        let e := p.key + h.step <<< 32 + p.value <<< 56 + p.epoch <<< 64 + p.src <<< 72 + b2n p.miss.isSome <<< 75
          + (p.miss.getD 0) <<< 76
        let s := s.writeNat none ((s.reg pg R.EGR_RING_BASE).toNat + 16 * (head % size)) 16 e
        (s.setFld pg R.EGR_RING_HEAD 0 32 (head + 1)).bump pg R.EGR_CNT 0 32

/-! ### SPK pages (R331 to R333) -/

/-- R297: an entry of a route table stored; its reserved bits hold nothing. -/
def State.routePut (s : State) (r : Fin 8) (i e : Nat) : State :=
  s.rtrUpd r fun x => { x with routes := Sp.set 0 x.routes i (nfld e 0 70 + (nfld e 72 24) <<< 72) }

/-- R331: RT_CMD. -/
def State.rtCmd (s : State) (r : Fin 8) (w : Wr) : State :=
  let pg := PG.spk r
  let i := s.fld pg R.RT_IDX 0 14
  let wr := bitAt w.val 0
  let s := if !wr then s
    else if s.enabled pg then s.logWr pg w .state
    else
      let t := s.reg pg R.RT_ROUTE
      s.routePut r i ((s.reg pg R.RT_KEYMASK).toNat + (bf t 0 6) <<< 64 + (bf t 32 24) <<< 72)
  if bitAt w.val 1 then
    let e := Sp.get 0 (s.spk.routers.get r).routes i
    (s.setReg pg R.RT_KEYMASK (wOfNat (nfld e 0 64))).setReg pg R.RT_ROUTE
      (wOfNat (nfld e 64 6 + (nfld e 72 24) <<< 32))
  else s

/-- R331: RT_LOAD_GO. -/
def State.rtLoadGo (s : State) (r : Fin 8) (w : Wr) : State :=
  let pg := PG.spk r
  let n := bf w.val 0 15
  let cq := bf w.val 16 6
  let a := (s.reg pg R.RT_LOAD_ADDR).toNat
  if s.enabled pg then s.logWr pg w .state
  else if (s.spk.routers.get r).load.isSome then s.logWr pg w .busy
  else if !s.itemFree .ordinary then s.ledgerFull pg w
  else if n = 0 then s.emptyJob pg cq .okEmpty 0
  else if 16384 < n ∨ !s.hbmAligned a (16 * n) 64 then s.emptyJob pg cq .failInvalid 0
  else
    let (i, s) := s.openItem pg cq 0 false
    (s.rtrUpd r fun x => { x with load := some (i, a, n) }).setBit pg R.SPK_STS 3 true

/-- R331: the table load ends; a poisoned 32-byte block leaves its entries unchanged. -/
def State.rtLoadDone (s : State) (r : Fin 8) : State :=
  match (s.spk.routers.get r).load with
  | none => s
  | some (i, a, n) =>
    let (bad, s) := (List.range ((n + 1) / 2)).foldl (fun (acc : Bool × State) j =>
      let (x, s) := acc.2.readBytes (a + 32 * j) (min 32 (16 * n - 32 * j))
      if x.bad then (true, s)
      else
        (acc.1, (List.range (x.bytes.length / 16)).foldl (fun s m =>
          s.routePut r (2 * j + m) (leNat ((x.bytes.drop (16 * m)).take 16))) s)) (false, s)
    let s := (s.rtrUpd r fun x => { x with load := none }).setBit (PG.spk r) R.SPK_STS 3 false
    s.closeItem i (if bad then .failPoison else .ok) 0

/-- R331: the enable of an SPK page: whether it passes. -/
def State.spkEnable (s : State) (r : Fin 8) : Bool × State :=
  let used := (s.spk.routers.get r).routes.filter fun e => e.2.testBit 69
  let zero := used.filter fun e => nfld e.2 64 5 == 0
  let loc := if 6 ≤ r.val then used.filter fun e => e.2.testBit 64 else []
  match (zero ++ loc).map Prod.fst with
  | [] => (true, s)
  | a :: l =>
    let pg := PG.spk r
    let s := if zero.isEmpty then s else s.setBit pg R.SPK_STS 1 true
    let s := if loc.isEmpty then s else s.setBit pg R.SPK_STS 2 true
    (false, s.setFld pg R.SPK_STS 16 14 (l.foldl min a))

/-- R331, R477: the reset of an SPK page. -/
def State.spkPageReset (s : State) (r : Fin 8) : State :=
  let x := s.spk.routers.get r
  let n := (x.inq.toList.map List.length).sum + (if x.out.isSome then 1 else 0)
  let s := match routerKiln r with | some k => s.stallCount k | none => s
  let s := (s.addCnt (PG.spk r) R.SPK_CNT1 32 32 n).setBit (PG.spk r) R.SPK_STS 3 false
  let s := s.rtrUpd r fun y => { y with inq := Vector.replicate 5 [], out := none, load := none }
  if r = 7 then (s.addCnt (PG.spk 7) R.EGR_CNT 32 16 s.spk.hold.length).spkUpd fun y => { y with hold := [] } else s

/-- R302: ORIGIN is read against the IET at the write. -/
def State.setOrigin (s : State) : State :=
  s.spkUpd fun x => { x with origin := s.fullTick (s.fld (PG.spk 6) R.ING_STEP 32 32) }

/-- R331 to R333: a write to an SPK page. -/
def State.spkWrite (s : State) (r : Fin 8) (w : Wr) : State :=
  let pg := PG.spk r
  let o := w.reg
  if o = R.RT_CMD then s.rtCmd r w
  else if o = R.RT_LOAD_GO then s.rtLoadGo r w
  else if o = R.SPK_CTL then if s.enabled pg then s.logWr pg w .state else s.plainWrite pg w
  else if r = 6 ∧ 0x200 ≤ o then
    if s.enabled pg then s.logWr pg w .state
    else
      let s := ((List.finRange 8).foldl (fun s p => s.ingTouch p) s).plainWrite pg w
      if o = R.ING_STEP then s.setOrigin else s
  else if r = 7 ∧ o = R.WHL_CTL then s.whlCtl w
  else if r = 7 ∧ o = R.MODE_CMD then
    let s := if bitAt w.val 0 then s.toConeCmd else s
    if bitAt w.val 1 then s.toWheelCmd else s
  else if r = 7 ∧ (o = R.CONE_CTL ∨ o = R.CONE_SPAN ∨ o = R.CW_CTL) ∧ s.bit pg R.WHL_CTL 0 then s.logWr pg w .state
  else s.plainWrite pg w

/-- A 64-bit write to a block register of an SPK page. -/
def State.spkWr (s : State) (ini : Initiator) (r : Fin 8) (off : Nat) (v : Word) : State :=
  s.gate (PG.spk r) (.full ini off v) fun s => s.spkWrite r (.full ini off v)

/-! ### Commands of the table -/

/-- R298: a router matches a packet. -/
def execRouterPacket (r : Fin 8) (s : State) : Res := s.ends (s.routerPacket r)

/-- R301: an output port has moved nothing for 100 µs. -/
def execRouterStall (r : Fin 8) (port : Nat) (s : State) : Res := s.ends (s.routerStall r port)

/-- R305: the spool empties into the mesh. -/
def execIngressSpoolDrain (s : State) : Res := s.ends s.spoolDrain

/-- R306: a packet leaves the kiln's router by LOCAL. -/
def execKilnPacketIn (k : Fin 6) (s : State) : Res := s.ends (s.kilnPacket k)

/-- R271: a course starts a step, or goes on with one; room in its input buffer takes the rest of its inbox. -/
def execLatticeStep (k : Fin 6) (s : State) : Res :=
  let t := s.latticeStep k
  s.ends (if (t.lat.get k).swap.isNone && t.running (PG.lat k) then t.inboxSettle k else t)

/-- R287: the swap ends. -/
def execCourseSwapDone (k : Fin 6) (s : State) : Res := s.ends (s.courseSwapDone k)

/-- R310: the floor unit forms every floor anew. -/
def execFloorUpdate (s : State) : Res := s.ends s.floorUpdate

/-- R329: a count window closes. -/
def execCountWindowClose (k : Fin 6) (s : State) : Res := s.ends (s.cwClose k)

/-- R336: a write of WHL_CTL that sets EN. -/
def execWhlEnable (ini : Initiator) (v : Word) (s : State) : Res := s.ends (s.spkWr ini 7 R.WHL_CTL v)

/-- R324: a write of WHL_CTL that clears EN. -/
def execWhlDisable (ini : Initiator) (v : Word) (s : State) : Res := s.ends (s.spkWr ini 7 R.WHL_CTL v)

/-- R324: MODE_CMD.TO_CONE. -/
def execToCone (ini : Initiator) (s : State) : Res := s.ends (s.spkWr ini 7 R.MODE_CMD 1)

/-- R324: MODE_CMD.TO_WHEEL. -/
def execToWheel (ini : Initiator) (s : State) : Res := s.ends (s.spkWr ini 7 R.MODE_CMD 2)

/-- R324: the barrier of a Cone step. -/
def execConeBarrier (s : State) : Res := s.ends s.coneBarrier

/-- R324: DRAIN ends. -/
def execDrainComplete (s : State) : Res := s.ends s.drainDone

/-- R331: RT_CMD.WRITE. -/
def execRtWrite (ini : Initiator) (r : Fin 8) (s : State) : Res := s.ends (s.spkWr ini r R.RT_CMD 1)

/-- R331: RT_CMD.READ. -/
def execRtRead (ini : Initiator) (r : Fin 8) (s : State) : Res := s.ends (s.spkWr ini r R.RT_CMD 2)

/-- R331: RT_LOAD_GO. -/
def execRtLoad (ini : Initiator) (r : Fin 8) (v : Word) (s : State) : Res := s.ends (s.spkWr ini r R.RT_LOAD_GO v)

/-- R331: the table load ends. -/
def execRtLoadDone (r : Fin 8) (s : State) : Res := 
  s.ends (s.replied (PG.spk r) (s.spk.routers.get r).load.isSome (s.rtLoadDone r))

/-- R334: a held spike is released. -/
def execEgressRelease (s : State) : Res := s.ends s.egressRelease

end Sys2Proof.Machine
end

