-- ==== Sys2Proof/Machine/Admission.lean ====
section
/-!
DEFINITION. Machine/Admission.lean: the Sieves (R148 to R164), admission (R165 to R175, R601), and the enable and disable of a
sensor port with what they do to the Sieve, the surface and the region map (R119, R120, R152, R215, R403).
-/

namespace Sys2Proof.Machine

/-- `s` with the Sieves' and admission's state changed. -/
def State.admUpd (s : State) (f : AdmState → AdmState) : State := { s with adm := f s.adm }

/-- R135: KIND, CLASS, X, Y and POL of an event word. -/
def evKind (w : Word) : Nat := bf w 58 2
def evClass (w : Word) : Nat := bf w 60 2
def evX (w : Word) : Nat := bf w 32 11
def evY (w : Word) : Nat := bf w 43 11
def evPol (w : Word) : Bool := bitAt w 54
def evIet (w : Word) : Nat := bf w 0 32

/-- R601: admission decides. -/
def State.admRuns (s : State) : Bool := s.running PG.adm

/-- R165: units of the three resources in the registers at CHD's offset and after. -/
def State.admBud (s : State) (p : Fin 8) (lo : Nat) : Budget :=
  { chd := s.fld PG.adm (R.ADM_P_BUD_CHD p) lo 32, loc := s.fld PG.adm (R.ADM_P_BUD_LOC p) lo 32,
    kln := s.fld PG.adm (R.ADM_P_BUD_KLN p) lo 32 }

/-- R166: the cost vector of a class. -/
def State.admCost (s : State) (p : Fin 8) (c : Nat) : Budget :=
  let r := s.reg PG.adm (R.ADM_P_COST0 p + 8 * c)
  { chd := bf r 0 16, loc := bf r 16 16, kln := bf r 32 16 }

/-- R166: GUARD. -/
def State.admGuard (s : State) (p : Fin 8) : Budget :=
  let r := s.reg PG.adm (R.ADM_P_GUARD p)
  { chd := bf r 0 20, loc := bf r 20 20, kln := bf r 40 20 }

/-- Operations on the three resources at once. -/
def Budget.map2 (f : Nat → Nat → Nat) (a b : Budget) : Budget :=
  { chd := f a.chd b.chd, loc := f a.loc b.loc, kln := f a.kln b.kln }
def Budget.le (a b : Budget) : Bool := decide (a.chd ≤ b.chd ∧ a.loc ≤ b.loc ∧ a.kln ≤ b.kln)

/-- R165, R250: TOTAL at the present clock. -/
def State.admScaled (s : State) (p : Fin 8) : Budget :=
  let t := s.admBud p 0
  { chd := t.chd * s.coreClk / 1600, loc := t.loc * s.coreClk / 1600, kln := t.kln * s.coreClk / 1600 }

/-- R165: the budgets of a port are loaded in full. -/
def State.admLoad (s : State) (p : Fin 8) : State :=
  let r := s.admBud p 32
  let t := s.admScaled p
  let s := s.admUpd fun x => { x with rem0 := x.rem0.set p r, rem := x.rem.set p (t.map2 (· - ·) r) }
  s.locUpd fun x => { x with budget := x.budget.set p t.loc }

/-- R165, R173: ADM_P_CTL.EN. -/
def State.admEn (s : State) (p : Fin 8) : Bool := s.bit PG.adm (R.ADM_P_CTL p) 0

/-- Index of the present admission window. -/
def State.admNow (s : State) : Nat := s.dtc.toNat / 50000

/-- R165, R170 to R172, R250: an admission window begins. -/
def State.admReload (s : State) : State :=
  let k := s.admNow
  if k ≤ s.adm.win then s
  else
    let old := s.adm
    let s := s.admUpd fun x => { x with win := k, ovc := Vector.replicate 8 false, written := Vector.replicate 8 [],
                                        shed := Vector.replicate 8 (0, 0) }
    let s := s.locUpd fun x => { x with charge := Vector.replicate 8 0 }
    let s := (List.finRange 8).foldl (fun s (p : Fin 8) =>
      let n := if old.win + 1 = k then old.shed.get p else (0, 0)
      let s := if s.isOff (PG.sv p) then s
        else (s.setReg (PG.sv p) R.SV_SHED_LAST (wOfNat (n.1 + n.2 <<< 32))).setReg (PG.sv p) R.SV_SHED_LAST_WIN (wOfNat (k - 1))
      if s.admEn p then s.admLoad p else s) s
    let total := ((List.finRange 8).map fun p => if s.admEn p then (s.admBud p 0).loc else 0).sum
    if 640000 < total ∧ s.alive PG.loc then (s.setBit PG.loc R.LOC_STS 2 true).irq PG.loc 0 else s

/-! ### What leaves a hold queue -/

/-- R85, R150, R444, R445: an auxiliary event, marker or loss word passes to the results unit. DESIGN CHOICE (log 208): each of
them counts in OOP where its window has closed. -/
def State.auxPass (s : State) (p : Fin 8) (w : Word) : State :=
  let (n, s) := s.winCount p (evIet w) fun x =>
    if evKind w = 2 ∧ !bitAt w 48 then { x with frames := min 0xFFFF (x.frames + 1) }
    else if evKind w = 3 then { x with
      loss := true, lossBytes := min 0xFFFF_FFFF (x.lossBytes + bf w 32 16)
      lossWords := x.lossWords.mapIdx fun i v => if i = bf w 48 3 then min 0xFFFF (v + 1) else v }
    else x
  s.batchAdd p .aux n (leBytes 8 w.toNat)

/-- R166, R171: causes of shedding. -/
inductive ShedCause where
  | budget | age | holdFull | disabled | reset
  deriving DecidableEq, Repr

/-- R171, R172: a pixel event is shed. -/
def State.shed (s : State) (p : Fin 8) (w : Word) (c : ShedCause) : State :=
  let pg := PG.sv p
  let two := evClass w = 2
  let s := s.bump pg R.SV_SHED (if two then 32 else 0) 32
  let s := match c with
    | .budget => s.bump pg R.SV_SHED_CAUSE0 0 32
    | .age => s.bump pg R.SV_SHED_CAUSE0 32 32
    | .holdFull => (s.bump pg R.SV_SHED_CAUSE1 0 32).irq PG.adm (8 + p.val)
    | .disabled => s.bump pg R.SV_SHED_CAUSE1 32 16
    | .reset => s.bump pg R.SV_SHED_CAUSE1 48 16
  let s := s.admUpd fun x => { x with shed := vupd x.shed p fun n => if two then (n.1, n.2 + 1) else (n.1 + 1, n.2) }
  (s.winCount p (evIet w) fun x => if two then { x with shed2 := x.shed2 + 1 } else { x with shed1 := x.shed1 + 1 }).2

/-- R170: a window with an event admitted in admission window `k` carries OVERCOMMIT. -/
def Win.markOvc (w : Win) (k : Nat) : Win := if w.fed = some k then { w with overcommit := true } else w

/-- R170: every window of the port that holds an event admitted in the running admission window carries OVERCOMMIT: open, in a
chain, or already recorded. DEDUCED (log 209): a record already in its ring takes the flag where it stands. -/
def State.markOvc (s : State) (p : Fin 8) : State :=
  let k := s.adm.win
  let s : State := { s with res := { s.res with
      wins := vupd s.res.wins p fun ws => ws.map fun w => w.markOvc k
      chains := vupd s.res.chains p fun cs => cs.map fun c => { c with win := c.win.markOvc k } } }
  (s.adm.written.get p).foldl (fun s r =>
    let size := 2 ^ s.fld PG.res (R.RING_SIZE r.1) 0 5
    s.ringPut (s.reg PG.res (R.RING_BASE r.1)).toNat size (r.2.1.toNat + 22) (leBytes 1 (r.2.2 ||| 4))) s

/-- R26, R169, R170, R439: a pixel event is admitted; it goes to the Chord unit, the incremental layers, the ingress bridge and
the counts of its window. -/
def State.admitEv (s : State) (p : Fin 8) (e : HoldEv) : State :=
  let w := putBit e.word 63 e.late
  let pg := PG.sv p
  let s := match evClass w with
    | 0 => s.bump pg R.SV_ADM0 0 32
    | 1 => s.bump pg R.SV_ADM0 32 32
    | _ => s.bump pg R.SV_ADM1 0 32
  let s := if e.late then s.bump pg R.SV_ADM1 32 32 else s
  let first := s.ietToDtc (evIet w)
  let (_, s) := s.winCount p (evIet w) fun x =>
    { (x.seen first) with admitted := x.admitted + 1, late := x.late + b2n e.late, fed := some s.adm.win,
                          drainAt := x.drainAt.map fun _ => s.dtc
                          overcommit := x.overcommit || s.adm.ovc.get p }
  ((s.chdPush p w e.ext).incPush p w).ingEvent p w

/-- The head of a hold queue is taken away. -/
def State.holdPop (s : State) (p : Fin 8) : State :=
  let s := s.ingTouch p
  s.admUpd fun x => { x with hold := vupd x.hold p List.tail, deferred := x.deferred.set p false }

/-- R170: a class-0 event runs over its reservation. -/
def State.overcommit (s : State) (p : Fin 8) : State :=
  let s := (s.setBit PG.adm (R.ADM_P_STS p) 0 true).irq PG.adm p.val
  let s := if s.adm.ovc.get p then s else s.bump PG.adm (R.ADM_P_OVC p) 0 32
  (s.admUpd fun x => { x with ovc := x.ovc.set p true }).markOvc p

/-- R166: the decision on a pixel event at the head of an enabled port. -/
def State.admDecide (s : State) (p : Fin 8) (e : HoldEv) : State :=
  let r0 := s.adm.rem0.get p
  let r := s.adm.rem.get p
  let k := s.admCost p (evClass e.word)
  let take := fun (s : State) (b : Budget) => s.admUpd fun x => { x with rem := x.rem.set p b }
  match evClass e.word with
  | 0 =>
    let s := if k.le r0 then s.admUpd fun x => { x with rem0 := x.rem0.set p (r0.map2 (· - ·) k) }
      else
        let t := k.map2 min r0
        let s := s.overcommit p
        s.admUpd fun x => { x with rem0 := x.rem0.set p (r0.map2 (· - ·) t), rem := x.rem.set p (r.map2 (· - ·) (k.map2 (· - ·) t)) }
    (s.holdPop p).admitEv p e
  | 1 =>
    if k.le r then ((take s (r.map2 (· - ·) k)).holdPop p).admitEv p e
    else if s.fld PG.adm (R.ADM_P_DEFER_MAX p) 0 16 * 1000 ≤ (s.dtc - e.entered).toNat then (s.holdPop p).shed p e.word .age
    else s.admUpd fun x => { x with
      deferred := x.deferred.set p true, hold := vupd x.hold p fun l => l.map fun h => { h with late := true } }
  | _ =>
    if (k.map2 (· + ·) (s.admGuard p)).le r then ((take s (r.map2 (· - ·) k)).holdPop p).admitEv p e
    else (s.holdPop p).shed p e.word .budget

/-- R166, R171, R601: one decision at the head of a hold queue; a reload that is due takes effect before it. -/
def State.admHead (s : State) (p : Fin 8) : State :=
  if !s.admRuns || !s.alive (PG.sv p) then s
  else
    let s := s.admReload
    match s.adm.hold.get p with
    | [] => s
    | e :: _ =>
      if evKind e.word ≠ 0 then (s.holdPop p).auxPass p e.word
      else if !s.admEn p then (s.holdPop p).shed p e.word .disabled
      else s.admDecide p e

/-- R601: admission has stopped deciding: every event that waits leaves with LATE = 1. -/
def State.admPaused (s : State) : State :=
  s.admUpd fun x => { x with hold := x.hold.map fun l => l.map fun h => { h with late := true } }

/-- R171, R215: every pixel event of a hold queue is shed, other words pass to the results unit. -/
def State.holdShed (s : State) (p : Fin 8) (c : ShedCause) : State :=
  let s := s.ingTouch p
  let l := s.adm.hold.get p
  let s := s.admUpd fun x => { x with hold := x.hold.set p [], deferred := x.deferred.set p false }
  l.foldl (fun s e => if evKind e.word = 0 then s.shed p e.word c else s.auxPass p e.word) s

/-! ### Hold-queue entry (R167, R168) -/

/-- R167: events of a hold queue. -/
def holdSize : Nat := 32768

/-- R173: LEVEL_MAX takes in the queue's level. -/
def State.holdMax (s : State) (p : Fin 8) : State :=
  s.setFld PG.adm (R.ADM_P_HOLD p) 16 16 (max (s.adm.hold.get p).length (s.fld PG.adm (R.ADM_P_HOLD p) 16 16))

/-- R167, R169: a word enters a hold queue that has room. -/
def State.holdEnter (s : State) (p : Fin 8) (w : Word) : State :=
  let s := s.ingTouch p
  let e : HoldEv := { word := w, ext := s.fullTick (evIet w), entered := s.dtc, late := s.adm.deferred.get p || !s.admRuns }
  (s.admUpd fun x => { x with hold := vupd x.hold p fun l => l ++ [e] }).holdMax p

/-- R168: a word is to enter the hold queue; the first part tells that the Sieve must hold it back. -/
def State.holdPush (s : State) (p : Fin 8) (w : Word) : Bool × State :=
  match s.adm.hold.get p with
  | [] => (false, s.holdEnter p w)
  | h :: r =>
    if r.length + 1 < holdSize then (false, s.holdEnter p w)
    else if s.adm.deferred.get p then (false, ((s.holdPop p).shed p h.word .holdFull).holdEnter p w)
    else if evKind w = 0 then (false, s.shed p w .holdFull)
    else (true, s)

/-! ### The filters (R152 to R162) -/

/-- R152: place of a pixel's mask bit. -/
def hotKey (p : Fin 8) (x y : Nat) : Nat := p.val * 2 ^ 24 + y * 2 ^ 12 + x

/-- R154: own word and neighbours of a pixel that are fresh, with their ages (R148: cycles 3 to 8). -/
def State.sieveReads (s : State) (p : Fin 8) (up : Option PixelUpset) (x y : Nat) (t : Int) :
    (Option (BitVec 32 × Int) × List (BitVec 32 × Int)) × State :=
  let (own, s) := s.surfFreshAt p up x y t
  let offs : List (Int × Int) := [(-1, -1), (0, -1), (1, -1), (-1, 0), (1, 0), (-1, 1), (0, 1), (1, 1)]
  let (nb, s) := offs.foldl (fun (a : List (BitVec 32 × Int) × State) o =>
    let (w, s) := a.2.surfFreshAt p up (x + o.1) (y + o.2) t
    (a.1 ++ w.toList, s)) ([], s)
  ((own, nb), s)

/-- R155: the refractory filter removes the event. -/
def State.refrHit (s : State) (p : Fin 8) (own : Option (BitVec 32 × Int)) (pol : Bool) : Bool :=
  let c := s.reg (PG.sv p) R.SV_CTL
  match own with
  | none => false
  | some (w, d) => bitAt c 1 && decide (surfAge d < s.toTicks p (s.fld (PG.sv p) R.SV_REFR 0 16))
      && (!bitAt c 4 || surfPol w == pol)

/-- R160: neighbours that give support. -/
def State.baSupport (s : State) (p : Fin 8) (nb : List (BitVec 32 × Int)) (pol : Bool) : Nat :=
  let tau := s.toTicks p (s.fld (PG.sv p) R.SV_BA 0 16)
  (nb.filter fun n => decide (surfAge n.2 ≤ tau) && (!s.bit (PG.sv p) R.SV_CTL 5 || surfPol n.1 == pol)).length

/-- R157: the flicker phase of a position. -/
def flkPhase (pos : Word) (harm : Bool) : Nat := low 32 (pos.toInt / 65536 * (if harm then 2 else 1)) / 65536

/-- R158: a window holds the phase for the polarity. -/
def flkWin (w : Word) (phi : Nat) (pol : Bool) : Bool :=
  let a := bf w 0 16
  let b := bf w 16 16
  bitAt w 34 && bitAt w (if pol then 32 else 33) &&
    (if a < b then decide (a ≤ phi ∧ phi < b) else if b < a then decide (a ≤ phi ∨ phi < b) else false)

/-- R157 to R159: the notch stage; the first part tells that the event is removed. -/
def State.flkStage (s : State) (p : Fin 8) (tile iet : Nat) (pol : Bool) : Bool × State :=
  let pg := PG.sv p
  let b := baseOf (s.fld pg R.SV_CTL 8 3)
  let en := s.bit pg R.SV_CTL 2
  let hit := s.bit pg (R.SV_FLKMAP (tile / 64)) (tile % 64)
  if 2 ≤ s.ptbSt b then
    let (x, _, s) := s.lookPos b iet
    let phi := flkPhase x (s.bit pg R.SV_CTL 6)
    let s := s.bump pg (R.SV_FLK_HIST (phi / 2048)) (if pol then 0 else 32) 32
    let s := if en then s.admUpd fun a => { a with armed := a.armed.set p true } else s
    if en && hit && (List.range 4).any fun k => flkWin (s.reg pg (R.SV_FLK_WIN k)) phi pol then
      (true, s.bump pg R.SV_CNT1 0 32)
    else (false, s)
  else if en && hit then
    let s := s.bump pg R.SV_CNT2 32 32
    if s.adm.armed.get p then (false, (s.irq pg 0).admUpd fun a => { a with armed := a.armed.set p false }) else (false, s)
  else (false, s)

/-- R161: the class of a tile. -/
def State.classOf (s : State) (p : Fin 8) (tile : Nat) : Nat := s.fld (PG.sv p) (R.SV_CLASS (tile / 32)) (2 * (tile % 32)) 2

/-- R503, R506: from ADM's REQ of an entry to WATCH until the wake, an entry from WATCH between them included, the Sieve of a
chosen port discards what it would hand to the hold queue. -/
def State.admBypass (s : State) (p : Fin 8) : Bool :=
  s.bit PG.pwc R.PWC_WATCH_PORTS p && s.fld PG.adm R.PG_PWR 0 2 != 0 &&
    (s.fld PG.adm R.PG_PWR 8 2 == 1 || s.pwr.phase == .watch || s.pwr.fromWatch)

/-- R148, R152 to R162: a pixel event goes through the filters; the answer is its word with its class, where it is handed on. -/
def State.sievePixel (s : State) (p : Fin 8) (up : Option PixelUpset) (w : Word) : Option Word × State :=
  let pg := PG.sv p
  let x := evX w
  let y := evY w
  let pol := evPol w
  if s.bit pg R.SV_CTL 0 && NSet.has s.adm.hot (hotKey p x y) then (none, s.bump pg R.SV_CNT0 0 32)
  else
    let t := s.surfTime p (evIet w)
    let ((own, nb), s) := s.sieveReads p up x y t
    if s.refrHit p own pol then (none, s.bump pg R.SV_CNT0 32 32)
    else
      let tile := s.tileIx p x y
      let (flk, s) := s.flkStage p tile (evIet w) pol
      if flk then (none, s.surfEvent p x y pol t)
      else if s.bit pg R.SV_CTL 3 && decide (s.baSupport p nb pol < s.fld pg R.SV_CTL 16 4) then
        (none, (s.bump pg R.SV_CNT1 32 32).surfEvent p x y pol t)
      else
        let c := s.classOf p tile
        let s := ((s.bump pg R.SV_CNT2 0 32).surfEvent p x y pol t).rateCount p x y pol (evIet w)
        (if c = 3 ∨ s.admBypass p then none else some (putFld w 60 2 c), s)

/-- R150: a word of another kind enters the hold queue; the first part tells that it is held back. -/
def State.sieveOther (s : State) (p : Fin 8) (w : Word) : Bool × State :=
  let (wait, s) := if s.admBypass p then (false, s) else s.holdPush p w
  if wait then (true, s) else (false, if evKind w = 3 then s.rateLoss p (evIet w) else s)

/-- The next word of the queue decoder passes the Sieve. -/
def State.sieveNext (s : State) (p : Fin 8) (up : Option PixelUpset) : State :=
  match (s.sp.get p).toSieve with
  | [] => s
  | w :: r =>
    let pop := fun (s : State) => s.spUpd p fun x => { x with toSieve := r }
    if evKind w = 0 then
      match (pop s).sievePixel p up w with
      | (some w, s) => (s.holdPush p w).2
      | (none, s) => s
    else
      let (wait, s') := s.sieveOther p w
      if wait then s else pop s'

/-- R148, R215, R477: the Sieve takes a word unless its page is in reset, stopped or off, or the surface store holds accesses. -/
def State.sieveStep (s : State) (p : Fin 8) (up : Option PixelUpset) : State :=
  if s.alive (PG.sv p) && !s.stopped (PG.sv p) && s.alive PG.sfs && !s.surfInit p then s.sieveNext p up else s

/-- R171, R215: a word that the Sieve still has in its pipeline: a pixel event completes its filters, surface write and rate
count, and is shed where it would enter the hold queue; other words pass to the results unit. -/
def State.sieveEnd (s : State) (p : Fin 8) (c : ShedCause) (w : Word) : State :=
  if evKind w = 0 then
    match s.sievePixel p none w with
    | (some w, s) => s.shed p w c
    | (none, s) => s
  else
    let s := if evKind w = 3 then s.rateLoss p (evIet w) else s
    if s.admBypass p then s else s.auxPass p w

/-- R171, R215: the hold queue is shed, then what the Sieve has in its pipeline. -/
def State.sieveFlush (s : State) (p : Fin 8) (c : ShedCause) : State :=
  let s := s.holdShed p c
  let l := (s.sp.get p).toSieve
  l.foldl (fun s w => s.sieveEnd p c w) (s.spUpd p fun x => { x with toSieve := [] })

/-! ### SV registers (R153, R163, R164, R171) -/

/-- R153: bits per row of a mask image. -/
def State.maskRow (s : State) (p : Fin 8) : Nat := (s.geomW p + 63) / 64 * 64

/-- R153: bytes of a mask image. -/
def State.maskBytes (s : State) (p : Fin 8) : Nat := s.geomH p * s.maskRow p / 8

/-- R153: SV_TBL_GO. -/
def State.hotLoad (s : State) (p : Fin 8) (w : Wr) : State :=
  let pg := PG.sv p
  let a := (s.reg pg R.SV_TBL_ADDR).toNat
  let cq := bf w.val 0 6
  if (s.adm.load.get p).isSome then s.logWr pg w .busy
  else if !s.itemFree .ordinary then s.ledgerFull pg w
  else if a % 64 ≠ 0 ∨ !s.inHbm a (s.maskBytes p) ∨ !s.spEn p ∨ s.geomW p = 0 ∨ s.geomH p = 0 then
    s.emptyJob pg cq .failInvalid 0
  else
    let (i, s) := s.openItem pg cq 0 false
    s.admUpd fun x => { x with load := x.load.set p (some (i, a)) }

/-- R153: the mask bits of one 32-byte block of the image; the first part tells that it read poisoned. -/
def State.hotBlock (s : State) (p : Fin 8) (a k : Nat) : Bool × State :=
  let (r, s) := s.readBytes (a + 32 * k) (min 32 (s.maskBytes p - 32 * k))
  if r.bad then (true, s)
  else
    let rowW := s.maskRow p
    let hot := (List.range (8 * r.bytes.length)).foldl (fun h j =>
      let b := 256 * k + j
      let key := hotKey p (b % rowW) (b / rowW)
      if s.geomW p ≤ b % rowW then h
      else if bitAt ((r.bytes.getD (j / 8) 0).setWidth 64) (j % 8) then NSet.add h key else NSet.del h key) s.adm.hot
    (false, s.admUpd fun x => { x with hot })

/-- R153: the mask load ends. -/
def State.hotLoadDone (s : State) (p : Fin 8) : State :=
  match s.adm.load.get p with
  | none => s
  | some (i, a) =>
    let s := s.admUpd fun x => { x with load := x.load.set p none }
    if !s.spEn p then s.closeItem i .failInvalid 0
    else
      let (bad, s) := (List.range ((s.maskBytes p + 31) / 32)).foldl (fun (acc : Bool × State) k =>
        let (b, s) := acc.2.hotBlock p a k
        (acc.1 || b, s)) (false, s)
      s.closeItem i (if bad then .failPoison else .ok) 0

/-- R152: the port's mask region is cleared. -/
def State.hotClear (s : State) (p : Fin 8) : State :=
  s.admUpd fun x => { x with hot := x.hot.filter fun k => k / 2 ^ 24 != p.val }

/-- R164: SV_STS bits of the checks that fail. -/
def State.svChecks (s : State) (p : Fin 8) : List Nat :=
  let pg := PG.sv p
  let c := s.reg pg R.SV_CTL
  let per := s.fld pg R.SV_REFR 0 16
  let tau := s.fld pg R.SV_BA 0 16
  let wins := ((List.range 4).map fun k => s.reg pg (R.SV_FLK_WIN k)).filter fun w => bitAt w 34
  ([(0, bitAt c 1 && per == 0), (1, bitAt c 1 && decide (32767 < s.toTicks p per)),
    (2, bitAt c 3 && (tau == 0 || bf c 16 4 == 0)),
    (3, bitAt c 3 && (decide (32767 < s.toTicks p tau) || decide (8 < bf c 16 4))),
    (4, bitAt c 2 && s.ptbSrc (baseOf (bf c 8 3)) != 3),
    (5, bitAt c 2 && wins.isEmpty),
    (6, bitAt c 2 && wins.any fun w => bf w 0 16 == bf w 16 16 || bf w 32 2 == 0)].filter Prod.snd).map Prod.fst

/-- R158, R164: the enable of an SV page: whether it passes. -/
def State.svEnable (s : State) (p : Fin 8) : Bool × State :=
  let l := s.svChecks p
  if l.isEmpty then (true, s.admUpd fun a => { a with armed := a.armed.set p true })
  else (false, l.foldl (fun s b => s.setBit (PG.sv p) R.SV_STS b true) s)

/-- R171: actions of a reset of an SV page. -/
def State.svPageReset (s : State) (p : Fin 8) : State :=
  (s.sieveFlush p .reset).admUpd fun x => { x with load := x.load.set p none }

/-- R163: a write to an SV register. -/
def State.svWrite (s : State) (p : Fin 8) (w : Wr) : State :=
  let pg := PG.sv p
  let r := w.reg
  if r = R.SV_TBL_GO then s.hotLoad p w
  else if r = R.SV_CTL ∨ r = R.SV_REFR ∨ r = R.SV_BA ∨ (0x120 ≤ r ∧ r < 0x140) then
    if s.enabled pg ∧ !s.quiesced pg then s.logWr pg w .state else s.plainWrite pg w
  else s.plainWrite pg w

/-! ### Admission registers (R173, R174) -/

/-- R174: ADM_P_STS bits of the checks that fail. -/
def State.admChecks (s : State) (p : Fin 8) : List Nat :=
  let td := s.fld PG.adm (R.ADM_P_TDELIVER p) 0 17
  let dm := s.fld PG.adm (R.ADM_P_DEFER_MAX p) 0 16
  let t := s.admBud p 0
  let r := s.admBud p 32
  let k := s.admCost p 0
  let d := s.fld PG.adm (R.ADM_P_DECL0 p) 0 32
  ([(1, dm == 0), (2, decide (td < 200) || decide (100000 < td)),
    (3, decide (td < s.fld PG.adm (R.ADM_P_SVC p) 0 17 + dm + 21)),
    (4, !r.le t || !(k.map2 (fun a _ => d * a) k).le r || decide (200000 < t.chd))].filter Prod.snd).map Prod.fst

/-- R165, R173, R174: a write of ADM_P_CTL. -/
def State.admCtl (s : State) (p : Fin 8) (w : Wr) : State :=
  let on := s.admEn p
  let s := s.plainWrite PG.adm w
  if on || !s.admEn p then s
  else
    let l := s.admChecks p
    if l.isEmpty then (s.admReload).admLoad p
    else (l.foldl (fun s b => s.setBit PG.adm (R.ADM_P_STS p) b true) s).setBit PG.adm (R.ADM_P_CTL p) 0 false

/-- R173: a write to an admission register. -/
def State.admWrite (s : State) (w : Wr) : State :=
  let o := w.reg
  if o < 0x1000 ∨ 0x1400 ≤ o then s.plainWrite PG.adm w
  else
    let p := baseOf ((o - 0x1000) / 0x80)
    let q := (o - 0x1000) % 0x80
    if q = 0 then s.admCtl p w
    else if 0x10 ≤ q ∧ q ≤ 0x60 ∧ s.admEn p then s.logWr PG.adm w .state
    else s.plainWrite PG.adm w

/-! ### Enable and disable of a port (R119, R120, R215) -/

/-- R113: the rate lies in the range of the PHY. -/
def State.rateOk (s : State) (p : Fin 8) : Bool :=
  let r := s.fld (PG.sp p) R.SP_PHY_CTL 0 16
  decide (80 ≤ r ∧ r ≤ if s.bit (PG.sp p) R.SP_CTL 1 then 6000 else 4500)

/-- R120: SP_STS bits of the checks that fail, and the lowest refused microcode entry. -/
def State.spChecks (s : State) (p : Fin 8) : List Nat × Option Nat :=
  let pg := PG.sp p
  let c := s.reg pg R.SP_CTL
  let n := bf c 2 3
  let bits := tokenBits (s.uc p 255)
  let uc := (List.range 255).find? fun i => ucEntryBad bits (s.uc p i)
  let dim := fun (v : Nat) => v == 0 || decide (2048 < v)
  (([(8, !s.rateOk p), (9, n == 0 || decide ((if bitAt c 1 then 3 else 4) < n)), (10, dim (s.geomW p) || dim (s.geomH p)),
     (11, bf c 12 8 == 0), (12, uc.isSome)].filter Prod.snd).map Prod.fst, uc)

/-- R120, R136: the receiver holds no packet and no open entry, and the queue decoder no state of one. -/
def State.rxForget (s : State) (p : Fin 8) : State :=
  (s.spUpd p fun x => { x with rx := none, qd := { current := x.qd.current } }).ieqUpd p fun q => { q with opened := none }

/-- R120, R152, R215, R403: SP_CTL.EN goes from 0 to 1 (SP_CTL already holds the written fields, EN still 0). -/
def State.spStart (s : State) (p : Fin 8) : State :=
  let pg := PG.sp p
  let (l, uc) := s.spChecks p
  if !l.isEmpty then
    let s := l.foldl (fun s b => s.setBit pg R.SP_STS b true) s
    match uc with | none => s | some i => s.setFld pg R.SP_STS 16 8 i
  else
    let (ok, s) := s.surfAlloc p
    if !ok then s
    else
      let s := s.ingTouch p
      let s := ((s.setBit pg R.SP_CTL 0 true).hotClear p).rchMapClear p
      s.rxForget p

/-- R215: SP_CTL.EN goes from 1 to 0: the Sieve pipeline drains, the hold queue is shed, the Chord unit skips what waits, and
the region begins to be freed. -/
def State.spStop (s : State) (p : Fin 8) : State :=
  let s := ((s.sieveFlush p .disabled).chdSkipAll p).surfFree p
  (s.ingTouch p).rxForget p

/-- R119: a write of SP_CTL. -/
def State.spCtl (s : State) (p : Fin 8) (w : Wr) : State :=
  let pg := PG.sp p
  let new := s.wouldBe pg w
  if s.spEn p then
    if !bitAt new 0 then (s.spStop p).setReg pg R.SP_CTL new
    else if new = s.reg pg R.SP_CTL then s else s.logWr pg w .state
  else
    let s := s.setReg pg R.SP_CTL (putBit new 0 false)
    if bitAt new 0 then s.spStart p else s

/-- R118, R119, R133: a write to an SP register. -/
def State.spWrite (s : State) (p : Fin 8) (w : Wr) : State :=
  let pg := PG.sp p
  let r := w.reg
  if r = R.SP_CTL then s.spCtl p w
  else if r = R.SP_CCI_CMD then s.cciStart p w
  else if r = R.SP_GEOM ∨ r = R.SP_PHY_CTL ∨ 0x1000 ≤ r then
    if s.spEn p then (if s.wouldBe pg w = s.reg pg r then s else s.logWr pg w .state)
    else
      let s := s.plainWrite pg w
      if 0x1000 ≤ r ∧ r < 0x1800 then
        let i := (r - 0x1000) / 8
        s.spUpd p fun x => { x with ucBadFront := x.ucBadFront.filter (· != i), ucBadQueue := x.ucBadQueue.filter (· != i) }
      else s
  else s.plainWrite pg w

/-- 64-bit writes to the pages of this file. -/
def State.spWr (s : State) (ini : Initiator) (p : Fin 8) (off : Nat) (v : Word) : State :=
  s.gate (PG.sp p) (.full ini off v) fun s => s.spWrite p (.full ini off v)
def State.svWr (s : State) (ini : Initiator) (p : Fin 8) (off : Nat) (v : Word) : State :=
  s.gate (PG.sv p) (.full ini off v) fun s => s.svWrite p (.full ini off v)
def State.admWr (s : State) (ini : Initiator) (off : Nat) (v : Word) : State :=
  s.gate PG.adm (.full ini off v) fun s => s.admWrite (.full ini off v)

/-! ### Commands of the table -/

/-- SP_CTL.EN 0 to 1 (R120). -/
def execSpEnable (ini : Initiator) (p : Fin 8) (v : Word) (s : State) : Res := s.ends (s.spWr ini p R.SP_CTL v)

/-- SP_CTL.EN 1 to 0 (R215). -/
def execSpDisable (ini : Initiator) (p : Fin 8) (v : Word) (s : State) : Res := s.ends (s.spWr ini p R.SP_CTL v)

/-- An event word passes the Sieve (R148). -/
def execSieveEvent (p : Fin 8) (up : Option PixelUpset) (s : State) : Res := s.ends (s.sieveStep p up)

/-- SV_TBL_GO (R153). -/
def execHotMaskLoad (ini : Initiator) (p : Fin 8) (v : Word) (s : State) : Res := s.ends (s.svWr ini p R.SV_TBL_GO v)

/-- The mask load ends (R153). -/
def execHotMaskLoadDone (p : Fin 8) (s : State) : Res := s.ends (s.replied (PG.sv p) (s.adm.load.get p).isSome (s.hotLoadDone p))

/-- An admission window begins (R165). -/
def execAdmWindowReload (s : State) : Res := s.ends s.admReload

/-- A write of ADM_P_CTL (R174). -/
def execAdmPortEnable (ini : Initiator) (p : Fin 8) (v : Word) (s : State) : Res := s.ends (s.admWr ini (R.ADM_P_CTL p) v)

/-- A decision at the head of a hold queue (R166). -/
def execAdmHeadDecision (p : Fin 8) (s : State) : Res := s.ends (s.admHead p)

end Sys2Proof.Machine
end

