-- ==== Sys2Proof/Machine/Crypto.lean ====
section
/-!
DEFINITION. Machine/Crypto.lean: what Saggar's engines compute (R528): SHA-512 (FIPS 180-4), HMAC with SHA-512, and ECDSA on
P-521 (FIPS 186-5). The standards are the spec's own references; their constants are PRESUMED from the standards.
-/

namespace Sys2Proof.Machine

/-! ### SHA-512 -/

/-- Initial hash value. -/
def shaInit : List Word :=
  [0x6A09E667F3BCC908, 0xBB67AE8584CAA73B, 0x3C6EF372FE94F82B, 0xA54FF53A5F1D36F1,
   0x510E527FADE682D1, 0x9B05688C2B3E6C1F, 0x1F83D9ABFB41BD6B, 0x5BE0CD19137E2179]

/-- Round constants 0 to 19. -/
def shaK0 : List Word :=
  [0x428A2F98D728AE22, 0x7137449123EF65CD, 0xB5C0FBCFEC4D3B2F, 0xE9B5DBA58189DBBC,
   0x3956C25BF348B538, 0x59F111F1B605D019, 0x923F82A4AF194F9B, 0xAB1C5ED5DA6D8118,
   0xD807AA98A3030242, 0x12835B0145706FBE, 0x243185BE4EE4B28C, 0x550C7DC3D5FFB4E2,
   0x72BE5D74F27B896F, 0x80DEB1FE3B1696B1, 0x9BDC06A725C71235, 0xC19BF174CF692694,
   0xE49B69C19EF14AD2, 0xEFBE4786384F25E3, 0x0FC19DC68B8CD5B5, 0x240CA1CC77AC9C65]

/-- Round constants 20 to 39. -/
def shaK1 : List Word :=
  [0x2DE92C6F592B0275, 0x4A7484AA6EA6E483, 0x5CB0A9DCBD41FBD4, 0x76F988DA831153B5,
   0x983E5152EE66DFAB, 0xA831C66D2DB43210, 0xB00327C898FB213F, 0xBF597FC7BEEF0EE4,
   0xC6E00BF33DA88FC2, 0xD5A79147930AA725, 0x06CA6351E003826F, 0x142929670A0E6E70,
   0x27B70A8546D22FFC, 0x2E1B21385C26C926, 0x4D2C6DFC5AC42AED, 0x53380D139D95B3DF,
   0x650A73548BAF63DE, 0x766A0ABB3C77B2A8, 0x81C2C92E47EDAEE6, 0x92722C851482353B]

/-- Round constants 40 to 59. -/
def shaK2 : List Word :=
  [0xA2BFE8A14CF10364, 0xA81A664BBC423001, 0xC24B8B70D0F89791, 0xC76C51A30654BE30,
   0xD192E819D6EF5218, 0xD69906245565A910, 0xF40E35855771202A, 0x106AA07032BBD1B8,
   0x19A4C116B8D2D0C8, 0x1E376C085141AB53, 0x2748774CDF8EEB99, 0x34B0BCB5E19B48A8,
   0x391C0CB3C5C95A63, 0x4ED8AA4AE3418ACB, 0x5B9CCA4F7763E373, 0x682E6FF3D6B2B8A3,
   0x748F82EE5DEFB2FC, 0x78A5636F43172F60, 0x84C87814A1F0AB72, 0x8CC702081A6439EC]

/-- Round constants 60 to 79. -/
def shaK3 : List Word :=
  [0x90BEFFFA23631E28, 0xA4506CEBDE82BDE9, 0xBEF9A3F7B2C67915, 0xC67178F2E372532B,
   0xCA273ECEEA26619C, 0xD186B8C721C0C207, 0xEADA7DD6CDE0EB1E, 0xF57D4F7FEE6ED178,
   0x06F067AA72176FBA, 0x0A637DC5A2C898A6, 0x113F9804BEF90DAE, 0x1B710B35131C471B,
   0x28DB77F523047D84, 0x32CAAB7B40C72493, 0x3C9EBE0A15C9BEBC, 0x431D67C49C100D4C,
   0x4CC5D4BECB3E42B6, 0x597F299CFC657E2A, 0x5FCB6FAB3AD6FAEC, 0x6C44198C4A475817]

/-- The round constants. -/
def shaK : List Word := shaK0 ++ shaK1 ++ shaK2 ++ shaK3

/-- Rotation to the right. -/
def rotr (w : Word) (n : Nat) : Word := (w >>> n) ||| (w <<< (64 - n))

/-- The working variables of a round, a to h. -/
structure ShaVars where
  a : Word
  b : Word
  c : Word
  d : Word
  e : Word
  f : Word
  g : Word
  h : Word
  deriving DecidableEq, Repr

/-- One round with its constant and its message-schedule word. -/
def ShaVars.round (v : ShaVars) (k w : Word) : ShaVars :=
  let t1 := v.h + (rotr v.e 14 ^^^ rotr v.e 18 ^^^ rotr v.e 41) + ((v.e &&& v.f) ^^^ (~~~v.e &&& v.g)) + k + w
  let t2 := (rotr v.a 28 ^^^ rotr v.a 34 ^^^ rotr v.a 39) + ((v.a &&& v.b) ^^^ (v.a &&& v.c) ^^^ (v.b &&& v.c))
  { a := t1 + t2, b := v.a, c := v.b, d := v.c, e := v.d + t1, f := v.e, g := v.f, h := v.g }

/-- The next word of the message schedule, from the last sixteen, oldest first. -/
def shaNext (w : List Word) : Word :=
  let x := w.getD 14 0
  let y := w.getD 1 0
  (rotr x 19 ^^^ rotr x 61 ^^^ (x >>> 6)) + w.getD 9 0 + (rotr y 1 ^^^ rotr y 8 ^^^ (y >>> 7)) + w.getD 0 0

/-- The rounds of one block: the constants left, the last sixteen schedule words, the variables. -/
def shaRounds : List Word → List Word → ShaVars → ShaVars
  | [], _, v => v
  | k :: ks, w, v => shaRounds ks (w.drop 1 ++ [shaNext w]) (v.round k (w.getD 0 0))

/-- One block of sixteen words compressed into the hash value. -/
def shaBlock (hv m : List Word) : List Word :=
  let g := fun i => hv.getD i 0
  let v := shaRounds shaK m { a := g 0, b := g 1, c := g 2, d := g 3, e := g 4, f := g 5, g := g 6, h := g 7 }
  [g 0 + v.a, g 1 + v.b, g 2 + v.c, g 3 + v.d, g 4 + v.e, g 5 + v.f, g 6 + v.g, g 7 + v.h]

/-- `n` big-endian words of a byte string. -/
def beWords : Nat → List Byte → List Word
  | 0, _ => []
  | n + 1, l => wOfNat (beNat (l.take 8)) :: beWords n (l.drop 8)

/-- `n` blocks of a padded message. -/
def shaBlocks : Nat → List Byte → List Word → List Word
  | 0, _, hv => hv
  | n + 1, l, hv => shaBlocks n (l.drop 128) (shaBlock hv (beWords 16 (l.take 128)))

/-- SHA-512 of a byte string. -/
def sha512 (m : List Byte) : List Byte :=
  let pad := (239 - m.length % 128) % 128
  let p := m ++ [0x80] ++ List.replicate pad 0 ++ beBytes 16 (8 * m.length)
  (shaBlocks (p.length / 128) p shaInit).flatMap fun w => beBytes 8 w.toNat

/-- HMAC with SHA-512. -/
def hmac512 (key m : List Byte) : List Byte :=
  let k := if 128 < key.length then sha512 key else key
  let k := k ++ List.replicate (128 - k.length) 0
  sha512 (k.map (· ^^^ 0x5C) ++ sha512 (k.map (· ^^^ 0x36) ++ m))

/-! ### P-521 -/

/-- The field prime. -/
def p521 : Nat := 2 ^ 521 - 1

/-- The order of the base point. -/
def n521 : Nat :=
  0x1FFFFFFFFFFFFFFFFFFFFFFFFFFFFFFFFFFFFFFFFFFFFFFFFFFFFFFFFFFFFFFFFFA51868783BF2F966B7FCC0148F709A5D03BB5C9B8899C47AEBB6FB71E91386409

/-- The coefficient b of the curve y^2 = x^3 - 3 x + b. -/
def b521 : Nat :=
  0x0051953eb9618e1c9a1f929a21a0b68540eea2da725b99b315f3b8b489918ef109e156193951ec7e937b1652c0bd3bb1bf073573df883d2c34f1ef451fd46b503f00

/-- The base point. -/
def g521 : Nat × Nat :=
  (0x00c6858e06b70404e9cd9e3ecb662395b4429c648139053fb521f828af606b4d3dbaa14b5e77efe75928fe1dc127a2ffa8de3348b3c1856a429bf97e7e31c2e5bd66,
   0x011839296a789a3bc0045c8a5fb42c7d1bd998f54449579b446817afbd17273e662c97ee72995ef42640c550b9013fad0761353c7086a272c24088be94769fd16650)

/-- `a ^ e` modulo `m` over the lowest `n` bits of `e`. -/
def powMod (m : Nat) : Nat → Nat → Nat → Nat
  | 0, _, _ => 1 % m
  | n + 1, a, e =>
    let r := powMod m n (a * a % m) (e / 2)
    if e % 2 = 1 then r * a % m else r

/-- The inverse modulo a prime of 521 bits. -/
def invMod (m a : Nat) : Nat := powMod m 521 (a % m) (m - 2)

/-- A point of the curve in Jacobian coordinates; z = 0 is the point at infinity. -/
structure Pt where
  x : Nat
  y : Nat
  z : Nat
  deriving DecidableEq, Repr

/-- Twice a point. -/
def Pt.dbl (q : Pt) : Pt :=
  let p := p521
  if q.z = 0 then q
  else
    let d := q.z * q.z % p
    let g := q.y * q.y % p
    let b := q.x * g % p
    let a := 3 * ((q.x + p - d) % p) * (q.x + d) % p
    let x := (a * a + 8 * p - 8 * b) % p
    { x, z := 2 * q.y * q.z % p, y := (a * ((4 * b + p - x) % p) + 8 * p - 8 * (g * g % p)) % p }

/-- The sum of two points. -/
def Pt.add (q r : Pt) : Pt :=
  let p := p521
  if q.z = 0 then r
  else if r.z = 0 then q
  else
    let z1 := q.z * q.z % p
    let z2 := r.z * r.z % p
    let u1 := q.x * z2 % p
    let u2 := r.x * z1 % p
    let s1 := q.y * (r.z * z2 % p) % p
    let s2 := r.y * (q.z * z1 % p) % p
    if u1 = u2 then if s1 = s2 then q.dbl else { x := 1, y := 1, z := 0 }
    else
      let h := (u2 + p - u1) % p
      let t := (s2 + p - s1) % p
      let h2 := h * h % p
      let h3 := h * h2 % p
      let v := u1 * h2 % p
      let x := (t * t + 3 * p - h3 - 2 * v) % p
      { x, y := (t * ((v + p - x) % p) + p - s1 * h3 % p) % p, z := h * (q.z * r.z % p) % p }

/-- A multiple of a point over the lowest `n` bits of the factor. -/
def Pt.mul (q : Pt) : Nat → Nat → Pt
  | 0, _ => { x := 1, y := 1, z := 0 }
  | n + 1, k =>
    let r := (Pt.mul q n (k / 2)).dbl
    if k % 2 = 1 then r.add q else r

/-- The affine coordinates of a point other than infinity. -/
def Pt.affine (q : Pt) : Option (Nat × Nat) :=
  if q.z = 0 then none
  else
    let i := invMod p521 q.z
    let i2 := i * i % p521
    some (q.x * i2 % p521, q.y * (i2 * i % p521) % p521)

/-- The uncompressed point of SEC 1, 133 bytes (R528). -/
def ptBytes (q : Nat × Nat) : List Byte := 0x04 :: (beBytes 66 q.1 ++ beBytes 66 q.2)

/-- The point that 133 bytes encode, if it lies on the curve. -/
def ptOf (l : List Byte) : Option (Nat × Nat) :=
  let x := beNat ((l.drop 1).take 66)
  let y := beNat ((l.drop 67).take 66)
  if l.length = 133 ∧ l.getD 0 0 = 0x04 ∧ x < p521 ∧ y < p521 ∧
      y * y % p521 = (x * x % p521 * x + 3 * (p521 - x) + b521) % p521 then some (x, y)
  else none

/-- R528: the key hash of a public key: the first 32 bytes of the SHA-512 of its point. -/
def keyHash (pub : List Byte) : List Byte := (sha512 pub).take 32

/-- Whether `r`, `s` are a signature of the SHA-512 of `m` under the public key. -/
def ecdsaOk (pub m : List Byte) (r s : Nat) : Bool :=
  match ptOf pub with
  | none => false
  | some q =>
    if 1 ≤ r ∧ r < n521 ∧ 1 ≤ s ∧ s < n521 then
      let w := invMod n521 s
      let g : Pt := { x := g521.1, y := g521.2, z := 1 }
      let v := (g.mul 521 (beNat (sha512 m) * w % n521)).add (({ x := q.1, y := q.2, z := 1 } : Pt).mul 521 (r * w % n521))
      match v.affine with
      | none => false
      | some (x, _) => x % n521 == r
    else false

/-- The public key of a private one, as the point of SEC 1. -/
def ecPub (d : Nat) : List Byte :=
  match (({ x := g521.1, y := g521.2, z := 1 } : Pt).mul 521 d).affine with
  | none => []
  | some q => ptBytes q

/-- The signature of the SHA-512 of `m` under the private key `d` with the per-message secret `k`. -/
def ecdsaSign (d k : Nat) (m : List Byte) : Nat × Nat :=
  match (({ x := g521.1, y := g521.2, z := 1 } : Pt).mul 521 k).affine with
  | none => (0, 0)
  | some (x, _) =>
    let r := x % n521
    (r, invMod n521 k * ((beNat (sha512 m) + r * d) % n521) % n521)

end Sys2Proof.Machine
end

