-- ==== Sys2Proof/Machine/Locus.lean ====
section
/-!
DEFINITION. Machine/Locus.lean: the Locus tracker: track contexts and their candidate slots, serving a record, creation and
eviction, ageing, object binding, TRACK_DELTA records, the cache, CLEAR and FLUSH (R236 to R262).
-/

namespace Sys2Proof.Machine

/-! ### Contexts -/

/-- R236: the fields of a track context. -/
structure Track where
  id : Nat
  port : Nat
  cx : Nat
  cy : Nat
  st : Nat
  cls : Nat
  pol : Bool
  x : Int
  y : Int
  vx : Int
  vy : Int
  tLast : Nat
  tFirst : Nat
  hits : Nat
  quality : Nat
  obj : Nat
  posLast : Nat
  arcDir : Nat
  res : Nat
  deriving DecidableEq, Repr

/-- R236: a slot read as fields. -/
def Track.ofSlot (v : Nat) : Track :=
  { id := nfld v 0 32, port := nfld v 32 3, cx := nfld v 35 11, cy := nfld v 46 11, st := nfld v 57 2, cls := nfld v 59 2,
    pol := v.testBit 61, x := sgn 16 (nfld v 64 16), y := sgn 16 (nfld v 80 16), vx := sgn 16 (nfld v 96 16),
    vy := sgn 16 (nfld v 112 16), tLast := nfld v 128 32, tFirst := nfld v 160 32, hits := nfld v 192 24,
    quality := nfld v 216 16, obj := nfld v 232 16, posLast := nfld v 256 64, arcDir := nfld v 320 8,
    res := nfld v 328 8 }

/-- R236: fields as a slot; reserved bits are 0. -/
def Track.toSlot (t : Track) : Nat :=
  nfld t.id 0 32 + (t.port % 8) <<< 32 + (t.cx % 2048) <<< 35 + (t.cy % 2048) <<< 46 + (t.st % 4) <<< 57
    + (t.cls % 4) <<< 59 + b2n t.pol <<< 61 + (low 16 t.x) <<< 64 + (low 16 t.y) <<< 80 + (low 16 t.vx) <<< 96
    + (low 16 t.vy) <<< 112 + (nfld t.tLast 0 32) <<< 128 + (nfld t.tFirst 0 32) <<< 160 + (nfld t.hits 0 24) <<< 192
    + (nfld t.quality 0 16) <<< 216 + (nfld t.obj 0 16) <<< 232 + (nfld t.posLast 0 64) <<< 256
    + (nfld t.arcDir 0 8) <<< 320 + (nfld t.res 0 8) <<< 328

/-- R255: the fields of an object context. -/
structure Obj where
  id : Nat
  port : Nat
  st : Nat
  cls : Nat
  partial_ : Bool
  score : Nat
  x0 : Int
  y0 : Int
  x1 : Int
  y1 : Int
  vx : Int
  vy : Int
  tracks : Nat
  misses : Nat
  tLast : Nat
  posLast : Nat
  deriving DecidableEq, Repr

/-- R255: an object slot read as fields. -/
def Obj.ofSlot (v : Nat) : Obj :=
  { id := nfld v 0 32, port := nfld v 32 3, st := nfld v 35 2, cls := nfld v 37 10, partial_ := v.testBit 47,
    score := nfld v 48 16, x0 := sgn 16 (nfld v 64 16), y0 := sgn 16 (nfld v 80 16), x1 := sgn 16 (nfld v 96 16),
    y1 := sgn 16 (nfld v 112 16), vx := sgn 16 (nfld v 128 16), vy := sgn 16 (nfld v 144 16), tracks := nfld v 160 16,
    misses := nfld v 176 8, tLast := nfld v 192 32, posLast := nfld v 256 64 }

/-- R255: fields as an object slot. -/
def Obj.toSlot (o : Obj) : Nat :=
  nfld o.id 0 32 + (o.port % 8) <<< 32 + (o.st % 4) <<< 35 + (o.cls % 1024) <<< 37 + b2n o.partial_ <<< 47
    + (nfld o.score 0 16) <<< 48 + (low 16 o.x0) <<< 64 + (low 16 o.y0) <<< 80 + (low 16 o.x1) <<< 96
    + (low 16 o.y1) <<< 112 + (low 16 o.vx) <<< 128 + (low 16 o.vy) <<< 144 + (nfld o.tracks 0 16) <<< 160
    + (nfld o.misses 0 8) <<< 176 + (nfld o.tLast 0 32) <<< 192 + (nfld o.posLast 0 64) <<< 256

/-- R237: slots of the table (GT_LOCUS_SLOTS). -/
def locusSlots : Nat := 4194304
/-- R237: object contexts (GT_OBJECTS). -/
def locusObjects : Nat := 65536

/-- R237: address of a slot. -/
def State.slotAddr (s : State) (i : Nat) : Nat := (s.reg PG.loc R.LOC_TBL_BASE).toNat + 64 * i
/-- R237: address of an object context. -/
def State.objAddr (s : State) (i : Nat) : Nat := (s.reg PG.loc R.LOC_OBJ_BASE).toNat + 64 * i

/-- LOC_LIVE: LIVE and OBJ_LIVE by a signed change. -/
def State.liveAdd (s : State) (lo n : Nat) (d : Int) : State :=
  s.setFld PG.loc R.LOC_LIVE lo n ((s.fld PG.loc R.LOC_LIVE lo n + d).toNat)

/-! ### The cache (R239) -/

/-- R239: the set of a context's index. -/
def cacheSet (i : Nat) : Nat := i % 16384

/-- R239: the cached line of the context of index `i` at address `a`. -/
def State.line? (s : State) (i a : Nat) : Option CacheLine :=
  (Sp.get [] s.loc.cache (cacheSet i)).find? fun x => x.addr == a

/-- R239, R460: a dirty line is written back, with the poison syndrome where a word of it is uncorrectable. -/
def State.lineBack (s : State) (x : CacheLine) : State :=
  if x.dirty then s.writePoisoned none x.addr (leBytes 64 x.data) x.bad else s

/-- R239: a line becomes the last used of its set of eight; the least recently used one makes room. -/
def State.linePut (s : State) (i : Nat) (x : CacheLine) : State :=
  let l := (Sp.get [] s.loc.cache (cacheSet i)).filter fun y => y.addr != x.addr
  let s := (l.drop 7).foldl State.lineBack s
  s.locUpd fun c => { c with cache := Sp.set [] c.cache (cacheSet i) (x :: l.take 7) }

/-- R239, R240: a context read through the cache; the second part tells that it reads poisoned or uncorrectable. DESIGN CHOICE
(log 217): a context that reads poisoned from HBM takes no line. -/
def State.ctxRead (s : State) (i a : Nat) : Nat × Bool × State :=
  match s.line? i a with
  | some x => (x.data, x.bad, s.linePut i x)
  | none =>
    let (v, bad, s) := s.readNat a 64
    (v, bad, if bad then s else s.linePut i { addr := a, data := v })

/-- R239: a context written whole into the cache. -/
def State.ctxWrite (s : State) (i a v : Nat) : State := s.linePut i { addr := a, data := v, dirty := true }

/-- R239: a context read past the cache: its cached line stands for it. -/
def State.ctxLook (s : State) (i a : Nat) : Nat × Bool × State :=
  match s.line? i a with
  | some x => (x.data, x.bad, s)
  | none => s.readNat a 64

/-- R239: a context written past the cache; a cached line follows. -/
def State.ctxThrough (s : State) (i a v : Nat) : State :=
  let put := fun (l : List CacheLine) => l.map fun x => if x.addr == a then { addr := a, data := v } else x
  (s.writeNat none a 64 v).locUpd fun c =>
    { c with cache := Sp.set [] c.cache (cacheSet i) (put (Sp.get [] c.cache (cacheSet i))) }

/-- R254, R262: every dirty line is written back and stays, clean. -/
def State.cacheSync (s : State) : State :=
  let lines := (s.loc.cache.map Prod.snd).flatten
  (lines.foldl State.lineBack s).locUpd fun c =>
    { c with cache := c.cache.map fun e => (e.1, e.2.map fun x => { x with dirty := false }) }

/-- R236, R255: a field of a context as it stands in the cache or in memory, without an access; never-written bytes are 0. -/
def State.ctxPeek (s : State) (i a lo n : Nat) : Nat :=
  match s.line? i a with
  | some x => nfld x.data lo n
  | none => nfld (leNat ((List.range 64).map fun j => (s.mem.byte? (a + j)).getD 0)) lo n

/-- R240: a slot that reads poisoned is counted, once for the record being served. -/
def State.slotBad (s : State) (i : Nat) : State :=
  let s := if s.loc.counted.contains i then s
    else ((s.bump PG.loc R.LOC_CNT2 32 16).logInfo1 PG.loc i).irq PG.loc 2
  s.locUpd fun x => { x with poisoned := NSet.add x.poisoned i, counted := NSet.add x.counted i }

/-- R239: the error that the cache's code shows at a slot's line, if it holds one: counted, and a line that cannot be corrected
is lost. -/
def State.lineErr (s : State) (i : Nat) : State :=
  match s.loc.cacheErr, s.line? i (s.slotAddr i) with
  | some (k, unc), some x =>
    if k ≠ i then s
    else
      let s := s.locUpd fun x => { x with cacheErr := none }
      if unc then (s.bump PG.mras R.MRAS_LOCC 32 16).linePut i { x with bad := true } else s.bump PG.mras R.MRAS_LOCC 0 32
  | _, _ => s

/-- R240: a slot as the tracker reads it: none where it reads poisoned. -/
def State.slotRead (s : State) (i : Nat) : Option Track × State :=
  let (v, bad, s) := (s.lineErr i).ctxRead i (s.slotAddr i)
  if bad then (none, s.slotBad i) else (some (Track.ofSlot v), s)

/-- A slot's word written: through the cache, or past it by the ageing sweep and FLUSH (R239). -/
def State.slotPut (s : State) (past : Bool) (i v : Nat) : State :=
  if past then s.ctxThrough i (s.slotAddr i) v else s.ctxWrite i (s.slotAddr i) v

/-- A slot written by the tracker. -/
def State.slotWrite (s : State) (i : Nat) (t : Track) : State := s.slotPut false i t.toSlot

/-- A slot freed. -/
def State.slotFree (s : State) (past : Bool) (i : Nat) : State := (s.slotPut past i 0).liveAdd 0 22 (-1)

/-- An object context written through the cache. -/
def State.objWrite (s : State) (i : Nat) (o : Obj) : State := s.ctxWrite i (s.objAddr i) o.toSlot

/-- R238: the two candidate slots of a cell. -/
def cellSlots (port cx cy : Nat) : Nat × Nat :=
  let k := port * 2 ^ 22 + cy * 2 ^ 11 + cx
  let p := k * 0x9E3779B1 % 2 ^ 32
  let h0 := p / 2 ^ 10
  (h0, (h0 ^^^ (p % 2 ^ 10 ||| 1)) % 2 ^ 22)

/-- R236: cell coordinate of a pixel. -/
def State.cellOf (s : State) (v : Nat) : Nat := v / 2 ^ s.fld PG.loc R.LOC_CTL 4 3

/-- R238: the slot holds a track of the cell. -/
def Track.inCell (t : Track) (port cx cy : Nat) : Bool := t.st != 0 && t.port == port && t.cx == cx && t.cy == cy

/-! ### Deltas (R258) -/

/-- R258: a TRACK_DELTA body. -/
def deltaBody (id port kind cause cls : Nat) (late : Bool) (x y vx vy : Int) (tLast other posLast : Nat) : Nat :=
  nfld id 0 32 + (port % 8) <<< 32 + (kind % 8) <<< 35 + (cause % 8) <<< 38 + (cls % 4) <<< 41 + b2n late <<< 43
    + (low 16 x) <<< 64 + (low 16 y) <<< 80 + (low 16 vx) <<< 96 + (low 16 vy) <<< 112 + (nfld tLast 0 32) <<< 128
    + (nfld other 0 32) <<< 160 + (nfld posLast 0 64) <<< 192

/-- R258: the results unit takes the queued deltas. -/
def State.deltaDrain (s : State) : State :=
  if !s.alive PG.res || s.stopped PG.res then s
  else
    s.loc.deltas.foldl (fun s d =>
      s.batchAdd d.1 .trackDelta (s.winIndex d.1 (nfld d.2 128 32)) (leBytes 32 d.2)) (s.locUpd fun x => { x with deltas := [] })

/-- R258: a delta joins the queue of 1,024, or is lost; in a twin pair WTH takes every delta but UPDATE. -/
def State.deltaPush (s : State) (p : Fin 8) (kind body : Nat) : State :=
  let s := if s.role = 3 ∧ kind ≠ 1 then s.twinSend 3 ((List.range 4).map fun i => nfld body (64 * i) 64) else s
  let s := if 1024 ≤ s.loc.deltas.length then
      ((s.bump PG.loc R.LOC_CNT3 48 16).setBit PG.loc R.LOC_STS 7 true).irq PG.loc 3
    else s.locUpd fun x => { x with deltas := x.deltas ++ [(p, body)] }
  s.deltaDrain

/-- A delta of a track. -/
def State.trackDelta (s : State) (t : Track) (kind cause other : Nat) (late : Bool) : State :=
  s.deltaPush (baseOf t.port) kind
    (deltaBody t.id t.port kind cause t.cls late t.x t.y t.vx t.vy t.tLast other t.posLast)

/-- A track retired: its slot freed, a RETIRE delta written. -/
def State.retire (s : State) (past : Bool) (i : Nat) (t : Track) (cause other : Nat) (late : Bool) : State :=
  (s.slotFree past i).trackDelta t 3 cause other late

/-! ### Serving a record (R241 to R249) -/

/-- The fields of a corner and flow record that the tracker uses (R232). -/
structure CRec where
  port : Nat
  iet : Nat
  x : Nat
  y : Nat
  pol : Bool
  cls : Nat
  corner : Bool
  flow : Bool
  vx : Int
  vy : Int
  arcDir : Nat
  res : Nat
  deriving DecidableEq, Repr

/-- R232: a record's fields. -/
def CRec.ofBody (v : Nat) : CRec :=
  { port := nfld v 55 3, iet := nfld v 0 32, x := nfld v 32 11, y := nfld v 43 11, pol := v.testBit 54,
    cls := nfld v 58 2, corner := v.testBit 60, flow := v.testBit 61, vx := sgn 16 (nfld v 64 16),
    vy := sgn 16 (nfld v 80 16), arcDir := nfld v 96 8, res := nfld v 119 8 }

/-- Rounding of `n / d` to the nearest integer, ties away from zero. -/
def divAway (n : Int) (d : Nat) : Int := RoundMode.away.apply n d

/-- Division rounded toward zero. -/
def divTrunc (n d : Int) : Int := Int.tdiv n d

/-- Saturation to ±32,767. -/
def sat15 (v : Int) : Int := if v < -32767 then -32767 else if 32767 < v then 32767 else v

/-- The sign of an integer. -/
def sgn1 (v : Int) : Int := if v < 0 then -1 else if 0 < v then 1 else 0

/-- R242: a candidate that matches: slot, track, err. -/
structure Match where
  slot : Nat
  t : Track
  err : Nat
  deriving DecidableEq, Repr

/-- R242: the prediction error of a track for a record. -/
def trackErr (r : CRec) (t : Track) : Nat :=
  let dt := sdiff 32 r.iet t.tLast
  let xp := t.x + divAway (t.vx * dt) 256000
  let yp := t.y + divAway (t.vy * dt) 256000
  max (16 * (r.x : Int) - xp).natAbs (16 * (r.y : Int) - yp).natAbs

/-- R242: the better of two matches. -/
def Match.better (a b : Match) : Bool :=
  decide (a.err < b.err) || (a.err == b.err && (decide (b.t.hits < a.t.hits) ||
    (a.t.hits == b.t.hits && decide (a.slot < b.slot))))

/-- Matches in order, the best first. -/
def insertMatch (m : Match) : List Match → List Match
  | [] => [m]
  | q :: l => if m.better q then m :: q :: l else q :: insertMatch m l

/-- R242: the cells a record looks in. -/
def State.recCells (s : State) (r : CRec) : List (Nat × Nat) :=
  let cx := s.cellOf r.x
  let cy := s.cellOf r.y
  let own := [(cx, cy)]
  if !r.flow then own
  else
    let ux := if r.vy.natAbs ≤ 2 * r.vx.natAbs then sgn1 r.vx else 0
    let uy := if r.vx.natAbs ≤ 2 * r.vy.natAbs then sgn1 r.vy else 0
    let bx := (cx : Int) - ux
    let by_ := (cy : Int) - uy
    let p := baseOf r.port
    let maxX := s.cellOf (s.geomW p - 1)
    let maxY := s.cellOf (s.geomH p - 1)
    if (ux = 0 ∧ uy = 0) ∨ bx < 0 ∨ by_ < 0 ∨ (maxX : Int) < bx ∨ (maxY : Int) < by_ then own
    else own ++ [(bx.toNat, by_.toNat)]

/-- R242: the matches of a record. -/
def State.recMatches (s : State) (r : CRec) : List Match × State :=
  let gate := s.fld PG.loc R.LOC_MATCH 0 16
  (s.recCells r).foldl (fun (acc : List Match × State) c =>
    let (h0, h1) := cellSlots r.port c.1 c.2
    [h0, h1].foldl (fun (acc : List Match × State) i =>
      let (t, s) := acc.2.slotRead i
      match t with
      | none => (acc.1, s)
      | some t =>
        let e := trackErr r t
        if t.inCell r.port c.1 c.2 && decide (e ≤ gate) && (!s.bit PG.loc R.LOC_CTL 1 || t.pol == r.pol)
            && !(acc.1.any fun m => m.slot == i)
        then (insertMatch { slot := i, t, err := e } acc.1, s) else (acc.1, s)) acc) ([], s)

/-- R243: one velocity component after an update. -/
def velUpd (old pos16 posOld : Int) (dt : Int) (shift : Nat) : Int :=
  let v := sat15 (divTrunc ((pos16 - posOld) * 256000) dt)
  old + (v - old) / 2 ^ shift

/-- R243: a track updated by a record; `pos` is POS_LAST by R80. -/
def trackUpdate (t : Track) (r : CRec) (err pos qinc confirm shift : Nat) : Track :=
  let dt := sdiff 32 r.iet t.tLast
  let t' : Track := { t with
    x := 16 * r.x, y := 16 * r.y
    vx := if 16 ≤ dt then velUpd t.vx (16 * r.x) t.x dt shift else t.vx
    vy := if 16 ≤ dt then velUpd t.vy (16 * r.y) t.y dt shift else t.vy
    tLast := if 0 ≤ dt then r.iet else t.tLast
    posLast := if 0 ≤ dt then pos else t.posLast
    hits := min (2 ^ 24 - 1) (t.hits + 1)
    cls := min t.cls r.cls, arcDir := r.arcDir, res := r.res
    quality := min 65535 (t.quality + qinc - min err qinc) }
  if t'.st = 1 ∧ confirm ≤ t'.hits then { t' with st := 2 } else t'

/-- Where a slot for a cell can be had. -/
inductive SlotFor where
  | free (i : Nat)
  | move (i dst : Nat) (t : Track)
  | none
  deriving DecidableEq, Repr

/-- R245: steps 1 and 2: a free candidate of the cell, or a relocation. -/
def State.slotFor (s : State) (port cx cy : Nat) : SlotFor × State :=
  let (h0, h1) := cellSlots port cx cy
  let (t0, s) := s.slotRead h0
  let (t1, s) := s.slotRead h1
  let free := fun (t : Option Track) => match t with | some t => t.st == 0 | none => false
  if free t0 then (.free h0, s)
  else if free t1 then (.free h1, s)
  else
    let tryMove := fun (s : State) (i : Nat) (t : Option Track) =>
      match t with
      | none => ((none : Option (Nat × Track)), s)
      | some t =>
        let (a, b) := cellSlots t.port t.cx t.cy
        let o := if a = i then b else a
        let (u, s) := s.slotRead o
        (if free u then some (o, t) else none, s)
    let (m0, s) := tryMove s h0 t0
    match m0 with
    | some (o, t) => (.move h0 o t, s)
    | none =>
      let (m1, s) := tryMove s h1 t1
      match m1 with
      | some (o, t) => (.move h1 o t, s)
      | none => (.none, s)

/-- A slot had by R245 is taken by a context; the live count does not change. -/
def State.slotTake (s : State) (f : SlotFor) (t : Track) : State :=
  match f with
  | .free i => s.slotWrite i t
  | .move i o m => (s.slotWrite o m).slotWrite i t
  | .none => s

/-- R249: a track whose position left its home cell moves to a slot of the new cell, or stays. -/
def State.rehome (s : State) (i : Nat) (t : Track) : State :=
  let cx := s.cellOf (t.x / 16).toNat
  let cy := s.cellOf (t.y / 16).toNat
  if cx = t.cx ∧ cy = t.cy then s.slotWrite i t
  else
    let (f, s) := s.slotFor t.port cx cy
    match f with
    | .none => (s.slotWrite i t).bump PG.loc R.LOC_CNT2 16 16
    | .move j o m =>
      -- the occupant that could move is the track itself: its slot serves the new cell too
      if j = i then s.slotWrite i { t with cx, cy }
      else (s.slotTake (.move j o m) { t with cx, cy }).slotPut false i 0
    | .free j => (s.slotTake (.free j) { t with cx, cy }).slotPut false i 0

/-- R247, R495: the next identity of a counter of LOC_ID; in a twin pair the counter wraps within its half. -/
def State.nextId (s : State) (lo : Nat) : Nat × State :=
  let v := s.fld PG.loc R.LOC_ID lo 32
  let half := if s.role = 0 then 2 ^ 32 else 2 ^ 31
  let n := (v % half + 1) % half
  (v, s.setFld PG.loc R.LOC_ID lo 32 (v / half * half + max 1 n))

/-- R248: the first valid victim, the invalid ones before it discarded. -/
def State.findVictim (s : State) : Nat → Option (Nat × Track) × State
  | 0 => (none, s)
  | n + 1 =>
    match s.loc.victims with
    | [] => (none, s)
    | v :: rest =>
      let s := s.locUpd fun x => { x with victims := rest }
      let (t, s) := s.slotRead v.slot
      match t with
      | some t =>
        if t.st ≠ 0 ∧ t.id = v.id ∧ t.cls = 1 ∧ t.tLast = v.tLast then (some (v.slot, t), s) else State.findVictim s n
      | none => State.findVictim s n

/-- R245: the context of a new track. -/
def State.newTrack (s : State) (r : CRec) (cx cy id pos : Nat) : Track :=
  { id, port := r.port, cx, cy, st := 1, cls := r.cls, pol := r.pol, x := 16 * r.x, y := 16 * r.y, vx := r.vx, vy := r.vy,
    tLast := r.iet, tFirst := r.iet, hits := 1, quality := s.fld PG.loc R.LOC_AGE 32 16, obj := 0xFFFF, posLast := pos,
    arcDir := r.arcDir, res := r.res }

/-- R485: the own IET of an instant that the peer calls `p`. -/
def State.peerIet (s : State) (p : Nat) : Nat :=
  low 32 ((p : Int) - openDiv 15 ((s.reg PG.wth R.WTH_PEER_OFS).toInt * 2) 125)

/-- R495: how well a track answers a CREATE delta of the peer: its err, if it may take the peer's ID. -/
def State.aliasErr (s : State) (body : Nat) (t : Track) : Option Nat :=
  let iet := s.peerIet (nfld body 128 32)
  let dt := sdiff 32 iet t.tLast
  let xp := t.x + divAway (t.vx * dt) 256000
  let yp := t.y + divAway (t.vy * dt) 256000
  let e := max (sgn 16 (nfld body 64 16) - xp).natAbs (sgn 16 (nfld body 80 16) - yp).natAbs
  if nfld body 35 3 = 0 ∧ t.port = nfld body 32 3 ∧ (sdiff 32 t.tFirst iet).natAbs ≤ s.fld PG.wth R.WTH_CTL 32 16
      ∧ e ≤ s.fld PG.loc R.LOC_MATCH 0 16 then some e else none

/-- R495: a track created on the standby is tested against the pending list; it takes the ID of the best delta that it
answers. -/
def State.aliasTrack (s : State) (i : Nat) (t : Track) : State :=
  if s.role = 0 ∨ s.role = 3 then s
  else
    let c := s.twin.pend.filterMap fun d => (s.aliasErr d.body t).map fun e => (e, d)
    match c with
    | [] => s
    | b :: r =>
      let b := r.foldl (fun a q => if q.1 < a.1 then q else a) b
      let s := s.slotWrite i { t with id := nfld b.2.body 0 32 }
      let s := { s with twin := { s.twin with pend := s.twin.pend.filter fun d => d != b.2 } }
      s.bump PG.wth R.WTH_CNT2 0 32

/-- R245, R246: a corner without a match creates a track, or its creation is refused. -/
def State.trackCreate (s : State) (r : CRec) (pos : Nat) (late : Bool) : State :=
  let limit := s.fld PG.loc R.LOC_LIMIT 0 22
  let res0 := s.fld PG.loc R.LOC_LIMIT 32 22
  let live := s.fld PG.loc R.LOC_LIVE 0 22
  let cx := s.cellOf r.x
  let cy := s.cellOf r.y
  let make := fun (s : State) (f : SlotFor) =>
    let (id, s) := s.nextId 0
    let t := s.newTrack r cx cy id pos
    let s := ((((s.slotTake f t).liveAdd 0 22 1).bump PG.loc R.LOC_CNT0 32 32)).trackDelta t 0 0 0 late
    let (h0, h1) := cellSlots r.port cx cy
    [h0, h1].foldl (fun s i =>
      let (q, s) := s.slotRead i
      if q = some t then s.aliasTrack i t else s) s
  if r.cls ≠ 0 ∧ limit - res0 ≤ live then s.bump PG.loc R.LOC_CNT1 16 16
  else
    let (f, s) := s.slotFor r.port cx cy
    match f with
    | .none =>
      let (h0, h1) := cellSlots r.port cx cy
      let (t0, s) := s.slotRead h0
      let (t1, s) := s.slotRead h1
      let c := [(h0, t0), (h1, t1)].filterMap fun (q : Nat × Option Track) =>
        match q.2 with
        | some t => if t.st ≠ 0 ∧ t.cls = 1 then some (q.1, t) else none
        | none => none
      if r.cls = 0 then
        match c with
        | [] => s.bump PG.loc R.LOC_CNT2 0 16
        | (i, t) :: rest =>
          let (i, t) := rest.foldl (fun b q => if q.2.quality < b.2.quality then q else b) (i, t)
          let s := (s.retire false i t 2 0 late).bump PG.loc R.LOC_CNT1 32 16
          make s (.free i)
      else s.bump PG.loc R.LOC_CNT2 0 16
    | f =>
      if live < limit then make s f
      else
        let (v, s) := s.findVictim 257
        match v with
        | none => (s.bump PG.loc R.LOC_CNT1 0 16).irq PG.loc 1
        | some (i, t) =>
          let s := (s.retire false i t 2 0 late).bump PG.loc R.LOC_CNT1 32 16
          -- the eviction may have freed or moved what was found: the slot is chosen again
          let (f, s) := s.slotFor r.port cx cy
          make s f

/-- R244: the second-best match is merged into the survivor. -/
def State.trackMerge (s : State) (t : Track) (m : Match) (late : Bool) : Track × State :=
  let mg := s.reg PG.loc R.LOC_MATCH
  let vel := bf mg 32 16
  if m.err ≤ bf mg 16 16 ∧ (m.t.vx - t.vx).natAbs ≤ vel ∧ (m.t.vy - t.vy).natAbs ≤ vel then
    let t' : Track := { t with hits := min (2 ^ 24 - 1) (t.hits + m.t.hits), obj := if t.obj = 0xFFFF then m.t.obj else t.obj }
    (t', (s.retire false m.slot m.t 1 t.id late).bump PG.loc R.LOC_CNT1 48 16)
  else (t, s)

/-- R241 to R249: the tracker serves one record. -/
def State.locServe (s : State) (l : LocRec) : State :=
  let r := CRec.ofBody l.body
  let slow := decide (3000 < (s.dtc - l.admitted).toNat)
  let s := if slow then (s.bump PG.loc (R.LOC_P_CNT1 r.port) 32 32).irq PG.loc 4 else s
  let late := l.excess || slow
  let (pos, _, s) := s.lookPos (baseOf (s.fld PG.loc R.LOC_CTL 8 3)) r.iet
  let (ms, s) := s.recMatches r
  match ms with
  | [] => if r.corner then s.trackCreate r pos.toNat late else s
  | m :: rest =>
    let confirm := s.fld PG.loc R.LOC_MATCH 48 8
    let t := trackUpdate m.t r m.err pos.toNat (s.fld PG.loc R.LOC_AGE 48 16) confirm (s.fld PG.loc R.LOC_CTL 12 3)
    let s := s.bump PG.loc R.LOC_CNT0 0 32
    let s := if sdiff 32 r.iet m.t.tLast < 0 then s.bump PG.loc R.LOC_CNT2 48 16 else s
    let s := if m.t.st = 1 ∧ t.st = 2 then s.trackDelta t 2 0 0 late else s
    let (t, s) := match rest with
      | m2 :: _ => if s.bit PG.loc R.LOC_CTL 0 then s.trackMerge t m2 late else (t, s)
      | [] => (t, s)
    let s := s.rehome m.slot t
    if s.bit PG.loc R.LOC_CTL 2 then s.trackDelta t 1 0 0 late else s

/-- R241: the ports from the one whose turn it is. -/
def State.turnOrder (s : State) : List (Fin 8) :=
  (List.range 8).map fun i => baseOf (s.loc.turn.val + i)

/-- R241: the port served next: in-budget heads first, then over-budget ones, in round-robin order. -/
def State.locNext (s : State) : Option (Fin 8) :=
  let head := fun (p : Fin 8) => (s.loc.inputs.get p).head?
  match s.turnOrder.find? (fun p => match head p with | some r => !r.excess | none => false) with
  | some p => some p
  | none => s.turnOrder.find? (fun p => (head p).isSome)

/-- R241: one record is taken and served; the Chord unit's output queue moves up. -/
def State.locRecord (s : State) : State :=
  if !s.running PG.loc then s
  else
    match s.locNext with
    | none => s
    | some p =>
      match s.loc.inputs.get p with
      | [] => s
      | r :: rest =>
        let s := s.locUpd fun x => { x with inputs := x.inputs.set p rest, turn := baseOf (p.val + 1) }
        (s.locServe r).chdDrain p 65

/-! ### Ageing (R248, R253) -/

/-- R248: order of the victim list. -/
def Victim.before (a b : Victim) (now : Nat) : Bool :=
  decide (a.quality < b.quality) || (a.quality == b.quality &&
    (decide (sdiff 32 now b.tLast < sdiff 32 now a.tLast) || (a.tLast == b.tLast && decide (a.slot < b.slot))))

/-- R248: a victim joins the list of 256. -/
def insertVictim (now : Nat) (v : Victim) : List Victim → List Victim
  | [] => [v]
  | q :: l => if v.before q now then v :: q :: l else q :: insertVictim now v l

/-- R253: the sweep runs while the page is enabled or quiesced. -/
def State.sweepRuns (s : State) : Bool := s.alive PG.loc && s.enabled PG.loc

/-- R253: the sweep visits the next slot. -/
def State.locVisit (s : State) : State :=
  if !s.sweepRuns || decide (locusSlots ≤ s.loc.sweepPos) then s
  else
    let i := s.loc.sweepPos
    let flush := decide (0 < s.loc.flushLeft)
    let held := s.ctxPeek i (s.slotAddr i) 57 2 != 0
    let s := s.locUpd fun x => { x with sweepPos := i + 1, flushLeft := x.flushLeft - 1, counted := [] }
    let (v, bad, s) := s.ctxLook i (s.slotAddr i)
    let s := if bad then s.slotBad i else s
    if s.loc.poisoned.contains i then
      let s := (s.slotPut true i 0).locUpd fun x => { x with poisoned := NSet.del x.poisoned i }
      let s := if held then s.liveAdd 0 22 (-1) else s
      s.deltaPush 0 3 (deltaBody i 0 3 3 0 false 0 0 0 0 0 0 0)
    else
      let t := Track.ofSlot v
      if t.st = 0 then s
      else
        let age := sdiff 32 s.iet t.tLast
        let lim := if t.st = 1 then s.fld PG.loc R.LOC_AGE 16 16 else s.fld PG.loc R.LOC_AGE 0 16
        if flush then s.retire true i t 4 0 false
        else if (lim * 16000 : Nat) < age then (s.retire true i t 0 0 false).bump PG.loc R.LOC_CNT3 0 32
        else
          let (t, s) := if t.obj = 0xFFFF then (t, s)
            else
              let (o, bad, s) := s.ctxLook t.obj (s.objAddr t.obj)
              if !bad ∧ nfld o 35 2 = 2 then
                let t' : Track := { t with obj := 0xFFFF }
                (t', s.slotPut true i t'.toSlot)
              else (t, s)
          if t.cls = 1 then
            let v : Victim := { slot := i, id := t.id, quality := t.quality, tLast := t.tLast }
            s.locUpd fun x => { x with gather := (insertVictim s.iet v x.gather).take 256 }
          else s

/-- Indices of the `n` contexts from `base` on that a byte other than 0 in memory or a cached line may make others than free. -/
def State.usedSlots (s : State) (base n : Nat) : List Nat :=
  let add := fun (l : List Nat) a => if base ≤ a ∧ a < base + 64 * n then NSet.add l ((a - base) / 64) else l
  (s.mem.cells.map Prod.fst ++ (s.loc.cache.map fun e => e.2.map CacheLine.addr).flatten).foldl add []

/-- R256: object contexts that are RETIRED, but for those retired since the running sweep began. -/
def State.goneObjects (s : State) : List Nat :=
  (s.usedSlots (s.objAddr 0) locusObjects).filter fun i =>
    s.ctxPeek i (s.objAddr i) 35 2 == 2 && !s.loc.retired.contains i

/-- R248, R256: a sweep ends: the gathered victims replace the list; objects retired before it began are freed. -/
def State.locSweepEnd (s : State) : State :=
  if s.loc.sweepPos < locusSlots then s
  else
    (s.goneObjects.foldl (fun s i => s.ctxThrough i (s.objAddr i) 0) s).locUpd fun x =>
      { x with sweepPos := 0, victims := x.gather, gather := [], retired := [] }

/-! ### Objects (R255, R256) -/

/-- Objects of the port that are LIVE or RETIRED, by index: a free context holds zeros. -/
def State.portObjects (s : State) (p : Fin 8) : List (Nat × Obj) × State :=
  (s.usedSlots (s.objAddr 0) locusObjects).foldl (fun (acc : List (Nat × Obj) × State) i =>
    let (v, bad, s) := acc.2.ctxLook i (acc.2.objAddr i)
    let o := Obj.ofSlot v
    if bad ∨ o.port ≠ p.val ∨ o.st = 0 then (acc.1, s) else (acc.1 ++ [(i, o)], s)) ([], s)

/-- R256: an object predicted to an IET. -/
def Obj.at_ (o : Obj) (iet : Nat) : Obj :=
  let dt := sdiff 32 iet o.tLast
  let dx := divAway (o.vx * dt) 256000
  let dy := divAway (o.vy * dt) 256000
  { o with x0 := o.x0 + dx, x1 := o.x1 + dx, y0 := o.y0 + dy, y1 := o.y1 + dy }

/-- R256: intersection and union of two boxes, in Q12.4 areas. -/
def boxIou (a : Int × Int × Int × Int) (b : Int × Int × Int × Int) : Nat × Nat :=
  let w := min a.2.2.1 b.2.2.1 - max a.1 b.1
  let h := min a.2.2.2 b.2.2.2 - max a.2.1 b.2.1
  let i := w.toNat * h.toNat
  let area := fun (q : Int × Int × Int × Int) => (q.2.2.1 - q.1).toNat * (q.2.2.2 - q.2.1).toNat
  (i, area a + area b - i)

/-- R256: the untaken object a box takes. -/
def bindPick (agnostic : Bool) (th : Nat) (b : Box) (objs : List (Nat × Obj)) : Option (Nat × Obj) :=
  (objs.foldl (fun (best : Option ((Nat × Obj) × Nat × Nat)) q =>
    let (i, u) := boxIou (b.x0, b.y0, b.x1, b.y1) (q.2.x0, q.2.y0, q.2.x1, q.2.y1)
    if th * u ≤ 256 * i ∧ (agnostic || q.2.cls == b.cls) then
      match best with
      | none => some (q, i, u)
      | some (_, bi, bu) => if bi * u < i * bu then some (q, i, u) else best
    else best) none).map Prod.fst

/-- R256: the confirmed tracks of a box's cells that lie inside it take the object; `left` is what remains of BIND_CELLS. -/
def State.bindTracks (s : State) (p : Fin 8) (obj left : Nat) (b : Box) : (List Track × Nat × Bool) × State :=
  let cell := fun (v : Int) => s.cellOf (v / 16).toNat
  let clip := fun (v : Int) (n : Nat) => max 0 (min v ((16 * n - 1 : Nat) : Int))
  let cx0 := cell (clip b.x0 (s.geomW p)); let cx1 := cell (clip b.x1 (s.geomW p))
  let cy0 := cell (clip b.y0 (s.geomH p)); let cy1 := cell (clip b.y1 (s.geomH p))
  let cells := (List.range (cy1 + 1 - cy0)).flatMap fun j => (List.range (cx1 + 1 - cx0)).map fun i => (cx0 + i, cy0 + j)
  let n := min left cells.length
  let (ts, s) := (cells.take n).foldl (fun (acc : List Track × State) c =>
    let (h0, h1) := cellSlots p.val c.1 c.2
    [h0, h1].foldl (fun (acc : List Track × State) i =>
      let (t, s) := acc.2.slotRead i
      match t with
      | none => (acc.1, s)
      | some t =>
        if t.inCell p.val c.1 c.2 && t.st == 2 && decide (b.x0 ≤ t.x ∧ t.x ≤ b.x1 ∧ b.y0 ≤ t.y ∧ t.y ≤ b.y1) then
          (acc.1 ++ [t], s.slotWrite i { t with obj })
        else (acc.1, s)) acc) ([], s)
  ((ts, left - n, decide (n < cells.length)), s)

/-- A delta of an object: box centre, class 0. -/
def State.objDelta (s : State) (kind : Nat) (o : Obj) : State :=
  s.deltaPush (baseOf o.port) kind
    (deltaBody o.id o.port kind 0 0 false ((o.x0 + o.x1) / 2) ((o.y0 + o.y1) / 2) o.vx o.vy o.tLast 0 o.posLast)

/-- R256: what the binding of a window keeps from box to box. -/
structure BindState where
  /-- objects of the port with their state before the binding -/
  objs : List (Nat × Obj)
  taken : List Nat
  left : Nat
  out : List Box
  deriving DecidableEq, Repr

/-- R256: one box is bound. -/
def State.bindBox (s : State) (p : Fin 8) (iet pos : Nat) (k : BindState) (b : Box) : BindState × State :=
  let ctl := s.reg PG.loc R.LOC_CTL
  let th := s.fld PG.loc R.LOC_BIND 0 8
  let live := (k.objs.filter fun q => q.2.st == 1 && !k.taken.contains q.1).map fun q => (q.1, q.2.at_ iet)
  let found : Option (Nat × Bool) × State := match bindPick (bitAt ctl 3) th b live with
    | some (i, _) => (some (i, false), s)
    | none =>
      if s.fld PG.loc (R.LOC_P_OBJ_MAX p) 0 17 ≤ k.objs.length + (k.taken.filter fun i => !(k.objs.any fun q => q.1 == i)).length
      then (none, s)
      else
        let free := (List.range locusObjects).find? fun i =>
          !k.taken.contains i && s.ctxPeek i (s.objAddr i) 35 2 == 0
        (free.map fun i => (i, true), s)
  match found with
  | (none, s) => ({ k with out := k.out ++ [{ b with objId := 0, objIx := 0xFFFF }] }, s.bump PG.loc R.LOC_CNT3 32 16)
  | (some (i, isNew), s) =>
    let old : Obj := ((k.objs.find? fun q => q.1 == i).map Prod.snd).getD
      { id := 0, port := p.val, st := 1, cls := b.cls, partial_ := false, score := 0, x0 := b.x0, y0 := b.y0, x1 := b.x1,
        y1 := b.y1, vx := 0, vy := 0, tracks := 0, misses := 0, tLast := iet, posLast := pos }
    let (id, s) := if isNew then s.nextId 32 else (old.id, s)
    let ((ts, left, part), s) := s.bindTracks p i k.left b
    let n := ts.length
    let dt := sdiff 32 iet old.tLast
    let (fi, s) := s.takeFree
    let move := fun (a0 a1 b0 b1 v : Int) =>
      if isNew then v
      else if dt = 0 then sgn 16 (Config.freeWord fi).toNat
      else sat15 (openDiv 12 (((b0 + b1) - (a0 + a1)) * 256000 * sgn1 dt) (2 * dt.natAbs))
    let vx := if n = 0 then move old.x0 old.x1 b.x0 b.x1 old.vx else openDiv 13 (ts.map Track.vx).sum n
    let vy := if n = 0 then move old.y0 old.y1 b.y0 b.y1 old.vy else openDiv 14 (ts.map Track.vy).sum n
    let o : Obj := { id, port := p.val, st := 1, cls := b.cls, partial_ := part, score := b.score, x0 := b.x0, y0 := b.y0,
                     x1 := b.x1, y1 := b.y1, vx, vy, tracks := n, misses := 0, tLast := iet, posLast := pos }
    let s := s.objWrite i o
    let s := if isNew then (s.liveAdd 32 17 1).objDelta 4 o else s
    ({ k with taken := k.taken ++ [i], left, out := k.out ++ [{ b with objId := id, objIx := i, tracks := n, partial_ := part, vx, vy }] }, s)

/-- R256: the port's boxes are bound at a window close with the given close IET. -/
def State.bindPort (s : State) (p : Fin 8) (iet : Nat) : State :=
  let boxes := s.loc.boxes.get p
  let s := s.locUpd fun x => { x with counted := [] }
  let (pos, _, s) := s.lookPos (baseOf (s.fld PG.loc R.LOC_CTL 8 3)) iet
  let (objs, s) := s.portObjects p
  let k0 : BindState := { objs, taken := [], left := s.fld PG.loc R.LOC_BIND 16 32, out := [] }
  let (k, s) := boxes.foldl (fun (acc : BindState × State) b => acc.2.bindBox p iet pos.toNat acc.1 b) (k0, s)
  let s := (objs.filter fun q => q.2.st == 1 && !k.taken.contains q.1).foldl (fun s q =>
    let m := min 255 (q.2.misses + 1)
    let o := { q.2 with misses := m }
    if s.fld PG.loc R.LOC_BIND 8 8 < m then
      let o := { o with st := 2 }
      let s := (s.objWrite q.1 o).liveAdd 32 17 (-1)
      (s.locUpd fun x => { x with retired := x.retired ++ [q.1] }).objDelta 5 o
    else s.objWrite q.1 o) s
  s.locUpd fun x => { x with boxes := x.boxes.set p [], bound := x.bound.set p k.out }

/-! ### CLEAR, FLUSH, enable, reset (R260 to R262) -/

/-- LOC_TBL_BASE as a number. -/
def State.locTbl (s : State) : Nat := (s.reg PG.loc R.LOC_TBL_BASE).toNat
/-- LOC_OBJ_BASE as a number. -/
def State.locObj (s : State) : Nat := (s.reg PG.loc R.LOC_OBJ_BASE).toNat

/-- R260, R261: a base is unaligned, or its area out of range. -/
def State.locBasesBad (s : State) : Bool :=
  s.locTbl % 65536 != 0 || s.locObj % 65536 != 0 || decide (s.part.hbmBytes < s.locTbl + 64 * locusSlots)
    || decide (s.part.hbmBytes < s.locObj + 64 * locusObjects)

/-- R260: the two areas overlap. -/
def State.locAreasMeet (s : State) : Bool :=
  decide (s.locTbl < s.locObj + 64 * locusObjects) && decide (s.locObj < s.locTbl + 64 * locusSlots)

/-- R261: CLEAR is accepted, or its item fails. -/
def State.locClear (s : State) (w : Wr) (cq : Nat) : State :=
  if s.loc.clearing.isSome then s.logWr PG.loc w .busy
  else if !s.itemFree .ordinary then s.ledgerFull PG.loc w
  else if s.enabled PG.loc ∨ s.locBasesBad then s.emptyJob PG.loc cq .failInvalid 0
  else
    let run : LocClear := { item := (s.openItem PG.loc cq 0 false).1, tbl := s.locTbl, obj := s.locObj }
    ((s.openItem PG.loc cq 0 false).2.locUpd fun x => { x with clearing := some run }).setBit PG.loc R.LOC_STS 1 true

/-- R239, R261: CLEAR completes; CLEARED stays 0 where a base has been written since its start (log 218). -/
def State.locClearDone (s : State) : State :=
  match s.loc.clearing with
  | none => s
  | some c =>
    let s := (s.zeroRange c.tbl (c.tbl + 64 * locusSlots)).zeroRange c.obj (c.obj + 64 * locusObjects)
    let s := s.locUpd fun x =>
      { x with clearing := none, cache := [], victims := [], gather := [], retired := [], poisoned := [] }
    let s := (s.setReg PG.loc R.LOC_ID 0x0000_0001_0000_0001).setReg PG.loc R.LOC_LIVE 0
    ((s.setBit PG.loc R.LOC_STS 1 false).setBit PG.loc R.LOC_STS 0 c.fresh).closeItem c.item .ok 0

/-- R261: FLUSH retires every track and object. -/
def State.locFlush (s : State) : State :=
  let s := (s.locUpd fun x => { x with counted := [] })
  let s := (s.usedSlots s.locTbl locusSlots).foldl (fun s i =>
    let (v, bad, s) := s.ctxLook i (s.slotAddr i)
    let t := Track.ofSlot v
    if bad then s.slotBad i else if t.st = 0 then s else s.retire true i t 4 0 false) s
  (s.usedSlots s.locObj locusObjects).foldl (fun s i =>
    let (v, bad, s) := s.ctxLook i (s.objAddr i)
    let o := Obj.ofSlot v
    if bad ∨ o.st ≠ 1 then s
    else
      let o := { o with st := 2 }
      let s := (s.ctxThrough i (s.objAddr i) o.toSlot).liveAdd 32 17 (-1)
      (s.locUpd fun x => { x with retired := x.retired ++ [i] }).objDelta 5 o) s

/-- R260: LOC_STS bits of the enable checks that fail. -/
def State.locChecks (s : State) : List Nat :=
  let cell := s.fld PG.loc R.LOC_CTL 4 3
  let m := s.reg PG.loc R.LOC_MATCH
  let a := s.reg PG.loc R.LOC_AGE
  let lim := s.reg PG.loc R.LOC_LIMIT
  let b := s.reg PG.loc R.LOC_BIND
  let objs := ((List.range 8).map fun p => s.fld PG.loc (R.LOC_P_OBJ_MAX p) 0 17).sum
  (if !s.bit PG.loc R.LOC_STS 0 then [8] else []) ++ (if cell < 2 ∨ 5 < cell then [3] else []) ++
  (if s.locBasesBad || s.locAreasMeet then [4] else []) ++
  (if bf m 0 16 = 0 ∨ bf m 48 8 = 0 ∨ bf a 0 16 = 0 ∨ bf a 16 16 = 0 ∨ bf lim 0 22 = 0 ∨ bf a 48 16 = 0 ∨ bf b 0 8 = 0
      ∨ bf b 8 8 = 0 ∨ bf b 16 32 = 0 then [5] else []) ++
  (if 1024 < bf m 0 16 ∨ 64 < bf m 48 8 ∨ bf a 0 16 < bf a 16 16 ∨ 2097152 < bf lim 0 22 ∨ bf lim 0 22 ≤ bf lim 32 22
      ∨ locusObjects < objs then [6] else [])

/-- R260: the enable checks; the first part tells whether the page may be enabled. -/
def State.locEnable (s : State) : Bool × State :=
  match s.locChecks with
  | [] => (true, s)
  | l => (false, l.foldl (fun s b => s.setBit PG.loc R.LOC_STS b true) s)

/-- R262: actions of a reset of the LOC page: the counters clear, and DELTA_LOST then shows the deltas discarded. -/
def State.locPageReset (s : State) : State :=
  let lost := s.loc.deltas.length
  let s := s.cacheSync.locUpd fun x => { x with inputs := Vector.replicate 8 [], deltas := [], clearing := none }
  let s := s.setBit PG.loc R.LOC_STS 1 false
  let s := [R.LOC_CNT0, R.LOC_CNT1, R.LOC_CNT2, R.LOC_CNT3].foldl (fun s r => s.setReg PG.loc r 0) s
  let s := (List.finRange 8).foldl (fun s (p : Fin 8) =>
    (s.setReg PG.loc (R.LOC_P_CNT0 p) 0).setReg PG.loc (R.LOC_P_CNT1 p) 0) s
  s.addCnt PG.loc R.LOC_CNT3 48 16 lost

/-- A write to a block register of the LOC page (R259, R261). -/
def State.locWrite (s : State) (w : Wr) : State :=
  let r := w.reg
  if r = R.LOC_CMD then
    if bitAt w.val 0 then s.locClear w (bf w.val 2 6) else if bitAt w.val 1 then s.locFlush else s
  else
    let frozen := r = R.LOC_CTL ∨ r = R.LOC_MATCH ∨ r = R.LOC_AGE ∨ r = R.LOC_LIMIT ∨ r = R.LOC_TBL_BASE
      ∨ r = R.LOC_OBJ_BASE ∨ r = R.LOC_BIND ∨ (0x1000 ≤ r ∧ r < 0x1200 ∧ (r - 0x1000) % 0x40 = 0)
    if frozen ∧ s.enabled PG.loc then s.logWr PG.loc w .state
    else
      let s := s.plainWrite PG.loc w
      if r = R.LOC_TBL_BASE ∨ r = R.LOC_OBJ_BASE then
        (s.setBit PG.loc R.LOC_STS 0 false).locUpd fun x =>
          { x with clearing := x.clearing.map fun c => { c with fresh := false } }
      else s

/-! ### Commands of the table -/

/-- A 64-bit write to a block register of the LOC page. -/
def State.locWr (s : State) (ini : Initiator) (off : Nat) (v : Word) : State :=
  s.gate PG.loc (.full ini off v) fun s => s.locWrite (.full ini off v)

/-- LOCUS_RECORD (R241). -/
def execLocusRecord (cache : Option (Fin 4194304 × Bool)) (s : State) : Res :=
  let err := cache.map fun c => (c.1.val, c.2)
  s.ends (((s.locUpd fun x => { x with cacheErr := err, counted := [] }).locRecord).locUpd fun x =>
    { x with cacheErr := none, counted := [] })

/-- AGEING_SWEEP_VISIT (R253). -/
def execAgeingSweepVisit (s : State) : Res := s.ends s.locVisit

/-- AGEING_SWEEP_END (R248, R256). -/
def execAgeingSweepEnd (s : State) : Res := s.ends s.locSweepEnd

/-- LOC_CLEAR (R261): a write of LOC_CMD; completion queue 0. -/
def execLocClear (ini : Initiator) (s : State) : Res := s.ends (s.locWr ini R.LOC_CMD 1)

/-- LOC_CLEAR_DONE (R261). -/
def execLocClearDone (s : State) : Res := s.ends (s.replied PG.loc s.loc.clearing.isSome s.locClearDone)

/-- LOC_FLUSH (R261): a write of LOC_CMD. -/
def execLocFlush (ini : Initiator) (s : State) : Res := s.ends (s.locWr ini R.LOC_CMD 2)

end Sys2Proof.Machine
end

