-- ==== Sys2Proof/Machine/Jobs.lean ====
section
/-!
DEFINITION. Machine/Jobs.lean: the ledger's posting of completions and its registers (R434 to R436), result windows and their
chains (R437 to R445), result-ring registers (R448 to R450), and the start of a model load (R427).
-/

namespace Sys2Proof.Machine

/-! ### Posting (R432, R434, R435, R557) -/

/-- R557: an MSI-X vector is sent, or stays pending while it or the function is masked or the link is down. -/
def State.msixSend (s : State) (v : Nat) : State :=
  let pg := PG.pcie
  let c := s.reg pg (R.PCIE_MSIX_TBL (2 * v + 1))
  if !s.alive pg || s.bit pg R.PCIE_STS 0 || 2048 ≤ v then s
  else if s.host.fmask || bitAt c 32 || !s.bit pg R.PCIE_STS 1 then s.setBit pg (R.PCIE_MSIX_PBA (v / 64)) (v % 64) true
  else { s with host := { s.host with msg := some (s.reg pg (R.PCIE_MSIX_TBL (2 * v)), bf c 0 32) } }

/-- R432, R434: one completion is posted to queue `q`. -/
def State.postTo (s : State) (c : Completion) (q : Nat) : State :=
  let head := s.fld PG.ldg (R.CQ_HEAD q) 0 32
  let size := s.fld PG.ldg (R.CQ_SIZE q) 0 17
  let phase := ((head + 2 ^ 32 - s.ldg.cqBase.toList.getD q 0) % 2 ^ 32 / max 1 size) % 2 = 0
  let redirect := q ≠ c.cq
  let s := s.writeNat none ((s.reg PG.ldg (R.CQ_BASE q)).toNat + 16 * (head % max 1 size)) 16
    (cplWords c phase redirect s.dtcLow)
  let s := ((s.setFld PG.ldg (R.CQ_HEAD q) 0 32 (head + 1)).bump PG.ldg (R.CQ_CNT q) 0 32).bump PG.ldg R.LDG_CNT 0 32
  let s := if redirect then s.bump PG.ldg R.LDG_CNT 48 16 else s
  let s := { s with ldg := { s.ldg with items := s.ldg.items.filter fun i => i.idx != c.item
                                        waiting := s.ldg.waiting.filter fun x => x.item != c.item } }
  let ctl := s.reg PG.ldg (R.CQ_CTL q)
  if bitAt ctl 1 then s.msixSend (bf ctl 16 11) else s

/-- R434: a completion whose queue is full is counted as stalled, once. -/
def State.stall (s : State) (c : Completion) : State :=
  match s.cqFor c with
  | some q =>
    if s.cqRoom q || c.stalled then s
    else
      let s := { s with ldg := { s.ldg with waiting := s.ldg.waiting.map fun (x : Completion) =>
        if x.item == c.item then { x with stalled := true } else x } }
      s.bump PG.ldg (R.CQ_CNT q) 32 32
  | none => s

/-- R434: a completion whose queue is disabled goes to queue 0, also where the queue is enabled again before it is posted. -/
def State.toZero (s : State) : State :=
  { s with ldg := { s.ldg with waiting := s.ldg.waiting.map fun (c : Completion) => { c with zero := c.zero || !s.cqOn c.cq } } }

/-- R434: the first waiting completion whose queue has room is posted; completions of one queue keep their order. -/
def State.postNext (s : State) : State :=
  if !s.alive PG.ldg || s.stopped PG.ldg then s
  else
    let s := s.ldg.waiting.foldl State.stall s.toZero
    match s.ldg.waiting.find? fun c => match s.cqFor c with | some q => s.cqRoom q | none => false with
    | none => s
    | some c => s.postTo c ((s.cqFor c).getD 0)

/-- R434: every completion that can be posted is. -/
def State.postAll (s : State) : Nat → State
  | 0 => s
  | n + 1 => (s.postNext).postAll n

/-- R435: an item has been in flight for TIMEOUT_MS. -/
def State.itemTimeout (s : State) (n : Nat) : State :=
  let ctl := s.reg PG.ldg R.LDG_CTL
  match s.ldg.items.find? fun i => i.idx % ledgerItems == n && !i.closed with
  | none => s
  | some i =>
    if !s.alive PG.ldg || s.stopped PG.ldg || i.load || !bitAt ctl 0 || (s.dtc - i.opened).toNat < bf ctl 16 16 * 1000000 then s
    else ((s.closeItem i.idx .failTimeout 0).bump PG.ldg R.LDG_CNT 32 16).irq PG.ldg 1

/-- R435: a write of LDG_CTL. -/
def State.ldgCtl (s : State) (w : Wr) : State :=
  let v := s.wouldBe PG.ldg w
  if bitAt v 0 ∧ bf v 16 16 = 0 then (s.setBit PG.ldg R.LDG_STS 17 true).logWr PG.ldg w .refused
  else s.setReg PG.ldg R.LDG_CTL v

/-- R436: CQ_SIZE and CQ_BASE allow the enable. -/
def State.cqGood (s : State) (q : Nat) : Bool :=
  let size := s.fld PG.ldg (R.CQ_SIZE q) 0 17
  let base := (s.reg PG.ldg (R.CQ_BASE q)).toNat
  isPow2 size && decide (16 ≤ size ∧ size ≤ 65536) && decide (base % 4096 = 0) && s.inHbm base (16 * size)

/-- R436: a write of CQ_CTL. -/
def State.cqCtl (s : State) (q : Nat) (w : Wr) : State :=
  let v := s.wouldBe PG.ldg w
  let r := R.CQ_CTL q
  if bitAt v 0 ∧ ¬ s.cqOn q then
    if s.cqGood q then
      let head := s.fld PG.ldg (R.CQ_HEAD q) 0 32
      let s := s.setReg PG.ldg r v
      { s with ldg := { s.ldg with cqBase := if h : q < 64 then s.ldg.cqBase.set q head else s.ldg.cqBase } }
    else
      (((s.setReg PG.ldg r (putBit v 0 false)).setBit PG.ldg R.LDG_STS 19 true).setFld PG.ldg R.LDG_STS 24 6 q).irq PG.ldg 2
  else s.setReg PG.ldg r v

/-- R436: a write to page 0x003. -/
def State.ldgWrite (s : State) (w : Wr) : State :=
  let o := w.reg
  if o = R.LDG_CTL then s.ldgCtl w
  else if 0x1000 ≤ o ∧ o < 0x2000 then
    let q := (o - 0x1000) / 0x40
    if o = R.CQ_CTL q then s.cqCtl q w
    else if (o = R.CQ_BASE q ∨ o = R.CQ_SIZE q) ∧ s.cqOn q then s.logWr PG.ldg w .state
    else s.plainWrite PG.ldg w
  else s.plainWrite PG.ldg w

/-- R477: a reset of page 0x003 clears the counters and disables every queue. -/
def State.ldgPageReset (s : State) : State :=
  let s := (s.setReg PG.ldg R.LDG_CNT 0).setReg PG.ldg R.LDG_STS 0
  (List.range 64).foldl (fun s q => (s.setBit PG.ldg (R.CQ_CTL q) 0 false).setReg PG.ldg (R.CQ_CNT q) 0) s

/-! ### Windows (R437 to R439) -/

/-- R437: the first boundary ahead of a place: its number. -/
def State.winAhead (s : State) (p : Fin 8) (x : Word) : Int := s.winIndexOf p x + 1

/-- R82, R438: the end of the open window of a position port is scheduled. -/
def State.winArm (s : State) (p : Fin 8) (stop : Word) : State :=
  if s.winMode p = 2 then s.schedAdd (.window p) (s.winBase p) stop (s.pos (s.winBase p)) else s.schedDel (.window p)

/-- R437: the port's windows begin afresh: the one that holds the present place opens. DESIGN CHOICE (log 210): R449 takes a
WIN_SPAN of 0 while WIN_CTL.MODE is not 0 and SP_CTL.EN is 0, and R450 checks only the write of MODE; with a span of 0 there is no
boundary, and the port opens no window. -/
def State.winOpen (s : State) (p : Fin 8) : State :=
  if s.winMode p = 0 ∨ s.winStep p = 0 then (s.setWins p []).schedDel (.window p)
  else
    let k := s.winIndexOf p (s.winNow p)
    let stop := s.winBoundary p (k + 1)
    (s.setWins p [{ k := low 32 k, start := s.winBoundary p k, stop, openDtc := s.dtc }]).winArm p stop

/-- R438: the end of the port's open window has fallen due, by a step or not: it is to close, and the next window opens; or,
less than 50 µs after the port's previous close, it runs on to a later boundary. -/
def State.winFallDue (s : State) (p : Fin 8) (byStep : Bool) : State :=
  match (s.wins p).getLast? with
  | none => s
  | some w =>
    if w.due then s
    else
      let early := match s.res.prevClose.get p with
        | some c => decide ((s.dtc - c).toNat < 50000)
        | none => false
      let ix := s.winIndexOf p w.stop
      let next := max (ix + 1) (s.winAhead p (s.winNow p))
      let stop := s.winBoundary p next
      let rest := (s.wins p).dropLast
      if early then
        (s.setWins p (rest ++ [{ w with stop, merged := true, step := w.step || byStep }])).winArm p stop
      else
        let n : Win := { k := low 32 ix, start := w.stop, stop, openDtc := s.dtc, merged := decide (ix + 1 < next),
                         step := byStep && decide (ix + 1 < next) }
        let s := s.setWins p (rest ++ [{ w with due := true, step := w.step || byStep,
                                                endDtc := if s.winMode p = 1 then w.stop else s.dtc }, n])
        let s : State := { s with res := { s.res with prevClose := s.res.prevClose.set p (some s.dtc) } }
        s.winArm p stop

/-- R437, R438: the end of the open window of a time port has passed. -/
def State.winTimeDue (s : State) (p : Fin 8) : State :=
  match (s.wins p).getLast? with
  | none => s
  | some w => if s.winMode p = 1 ∧ ¬ w.due ∧ atOrAfter s.dtc w.stop then s.winFallDue p false else s

/-- R442: ADM_P_TDELIVER in nanoseconds. -/
def State.tDeliver (s : State) (p : Fin 8) : Nat := s.fld PG.adm (R.ADM_P_TDELIVER p) 0 32 * 1000

/-- R439: the device closes an open position window by time. -/
def State.winByTime (s : State) (p : Fin 8) : State :=
  match (s.wins p).getLast? with
  | none => s
  | some w =>
    match w.first with
    | none => s
    | some f =>
      let budget := s.fld PG.res (R.WIN_CTL p) 32 17 * 1000
      if w.due ∨ s.winMode p ≠ 2 ∨ !s.alive PG.res ∨ before s.dtc (f + wOfNat (s.tDeliver p) - wOfNat budget) then s
      else
        let x := s.pos (s.winBase p)
        let stop := s.winBoundary p (s.winAhead p x)
        let n : Win := { k := w.k, start := x, stop, openDtc := s.dtc }
        let s := s.setWins p ((s.wins p).dropLast ++ [{ w with due := true, byTime := true, stop := x, endDtc := s.dtc }, n])
        let s : State := { s with res := { s.res with prevClose := s.res.prevClose.set p (some s.dtc) } }
        s.winArm p stop

/-! ### Chains (R440 to R442) -/

/-- `s` with a port's chains changed. -/
def State.chainsUpd (s : State) (p : Fin 8) (f : List Chain → List Chain) : State :=
  { s with res := { s.res with chains := vupd s.res.chains p f } }

/-- `s` with a chain replaced by its name. -/
def State.setChain (s : State) (p : Fin 8) (c : Chain) : State :=
  s.chainsUpd p fun l => l.map fun x => if x.id == c.id then c else x

/-- R433: how an item that has completed and is not posted yet ended. -/
def State.itemEnd (s : State) (i : Nat) : Option Status := (s.ldg.waiting.find? fun c => c.item == i).map Completion.status

/-- R440: the chain waits for the items; those that have already completed are noted. -/
def State.chainWait (s : State) (p : Fin 8) (c : Chain) (items : List Nat) : State :=
  let done := items.filterMap fun i => (s.itemEnd i).map fun st => (c.id, i, st)
  let s := s.setChain p { c with waits := c.waits ++ items }
  { s with res := { s.res with chainDone := s.res.chainDone ++ done } }

/-- R440: the statuses of the items the chain waits for, once every one of them is known. -/
def State.chainEnds (s : State) (c : Chain) : Option (List Status) :=
  let l := c.waits.filterMap fun i => (s.res.chainDone.find? fun d => d.1 == c.id && d.2.1 == i).map fun d => d.2.2
  if l.length = c.waits.length then some l else none

/-- R440: the items of a step are done with. -/
def State.chainForget (s : State) (c : Chain) : State :=
  { s with res := { s.res with chainDone := s.res.chainDone.filter fun d => d.1 != c.id } }

/-- R440: the contexts that a half of WIN_READOUT names. -/
def ctxsOf (v : Nat) : List (Fin 6 × Fin 2) :=
  (setBits 12 v).map fun i => (⟨i / 2 % 6, Nat.mod_lt _ (by decide)⟩, ⟨i % 2, Nat.mod_lt _ (by decide)⟩)

/-- R473, R475: a job start sent to a block in reset, or powered down, ends at once. -/
def State.nackJob (s : State) (page : Nat) : Nat × State :=
  let (i, s) := s.openItem page 0 0 false
  (i, s.closeItem i (if s.isOff page then .failPower else .failReset) 0)

/-- R440: the readouts, or the detection passes, of the contexts are asked for; none starts before each has an item and a
free context. -/
def State.askAll (s : State) (p : Fin 8) (c : Chain) (l : List (Fin 6 × Fin 2)) (det : Bool) : Bool × State :=
  let busy := l.any fun x => let i := s.ictx x.1 x.2; if det then i.det.isSome else i.ro.isSome
  if busy || decide (ledgerItems < s.ldg.items.length + l.length) then (false, s)
  else
    let (items, s) := l.foldl (fun (acc : List Nat × State) x =>
      let (i, s) :=
        if !acc.2.alive (PG.fct x.1) then acc.2.nackJob (PG.fct x.1)
        else if det then acc.2.detAsk x.1 x.2 c.id else acc.2.roAsk x.1 x.2 c.id c.win
      (acc.1 ++ [i], s)) ([], s)
    (true, s.chainWait p { c with entry := 1 } items)

/-- R440: descriptors of a WIN_CHAIN entry are copied into the kiln's ring as far as it and the ledger have room. -/
def State.chainCopy (s : State) (p : Fin 8) (c : Chain) (k : Fin 6) (tmpl count : Nat) : State :=
  let pg := PG.fct k
  let tail := s.fld pg R.FCT_Q_TAIL 0 32
  let used := (tail + 2 ^ 32 - s.fld pg R.FCT_Q_HEAD 0 32) % 2 ^ 32
  let n := min (count - c.sub) (min (s.fctSize k - used) (ledgerItems - s.ldg.items.length))
  let s := (List.range n).foldl (fun s i =>
    let (r, s) := s.readBytes (tmpl + 256 * (c.sub + i)) 256
    s.writePoisoned none (s.descAddr k ((tail + i) % 2 ^ 32)) r.bytes r.bad) s
  let had := (s.fct.get k).items.length
  let s := (s.setFld pg R.FCT_Q_TAIL 0 32 (tail + n)).descItems k tail n
  s.chainWait p { c with sub := c.sub + n } ((s.fct.get k).items.drop had)

/-- R399: the list header of an OBJECT_LIST record. -/
def listHeader (count : Nat) (l : List ListInfo) : Nat :=
  let any := fun (f : ListInfo → Bool) => b2n (l.any f)
  min 256 count + (min (2 ^ 32 - 1) (l.map ListInfo.candidates).sum) <<< 32 + any ListInfo.trunc <<< 64
    + any ListInfo.outFull <<< 65 + any ListInfo.loss <<< 66 + any ListInfo.sat <<< 67 + any ListInfo.rebasing <<< 68
    + any ListInfo.poison <<< 69 + any ListInfo.nan <<< 70 + any ListInfo.stale <<< 71
    + (low 32 ((l.head?.map ListInfo.er).getD 0)) <<< 96

/-- R399: an entry of an OBJECT_LIST record. -/
def listEntry (b : Box) : Nat :=
  low 16 b.x0 + (low 16 b.y0) <<< 16 + (low 16 b.x1) <<< 32 + (low 16 b.y1) <<< 48 + (b.cls % 1024) <<< 64
    + (b.anchor % 16) <<< 74 + (b.head % 4) <<< 78 + (nfld b.score 0 16) <<< 80 + (nfld b.objId 0 32) <<< 96
    + (nfld b.objIx 0 16) <<< 128 + (nfld b.tracks 0 16) <<< 144 + b2n b.partial_ <<< 160 + (low 16 b.vx) <<< 192
    + (low 16 b.vy) <<< 208

/-- R448: a record of a window is written; the answer tells whether its ring dropped it. -/
def State.chainRecord (s : State) (t : RecType) (p : Fin 8) (win : Nat) (body : List Byte) : Bool × State :=
  let on := s.bit PG.res (R.RING_CTL (routeOf (s.reg PG.res (R.WIN_ROUTE p)) t)) 0
  let (ok, s) := s.writeRecord t (some p) win body
  (on && !ok, s)

/-- R442: the deadline of a window, if it has one. -/
def State.winDeadline (s : State) (p : Fin 8) (w : Win) : Option Word := w.first.map fun f => f + wOfNat (s.tDeliver p)

/-- R442: the window's record is being delivered after its deadline. -/
def State.winLate (s : State) (p : Fin 8) (w : Win) : Bool :=
  match s.winDeadline p w with
  | some d => before d s.dtc
  | none => false

/-- R440, R445: OBJECTS of a WINDOW record. -/
def Chain.objCount (c : Chain) : Nat := if c.shed || c.fail.isSome then 0xFFFF else c.objects.getD 0xFFFF

/-- R445: the body of a WINDOW record. -/
def State.winBody (s : State) (p : Fin 8) (c : Chain) : List Byte :=
  let w := c.win
  let lost := (ctxsOf (bf c.rd 0 12)).any fun x => (s.ictx x.1 x.2).infos.any fun i => i.1 == c.id && i.2.loss
  let flags := b2n w.byTime + b2n w.merged <<< 1 + b2n w.overcommit <<< 2 + b2n c.shed <<< 3 + b2n (s.winLate p w) <<< 4
    + b2n w.discont <<< 5 + b2n w.step <<< 6 + b2n (w.poison || c.poison) <<< 7 + b2n (w.loss || lost) <<< 8
    + b2n c.fail.isSome <<< 9
  let sat := fun n v => min (2 ^ (8 * n) - 1) v
  leBytes 4 w.k ++ leBytes 1 (bf c.ctl 0 2) ++ leBytes 1 (bf c.ctl 2 3) ++ leBytes 2 flags ++ leBytes 8 w.start.toNat
    ++ leBytes 8 w.stop.toNat ++ leBytes 8 w.openDtc.toNat ++ leBytes 8 w.closeDtc.toNat
    ++ leBytes 8 ((s.winDeadline p w).getD 0).toNat ++ leBytes 4 (sat 4 w.admitted) ++ leBytes 4 (sat 4 w.late)
    ++ leBytes 4 (sat 4 w.shed1) ++ leBytes 4 (sat 4 w.shed2) ++ leBytes 4 (sat 4 w.oop) ++ leBytes 4 (sat 4 w.lossBytes)
    ++ (w.lossWords.toList.map fun n => leBytes 2 (sat 2 n)).flatten ++ leBytes 2 (sat 2 w.frames)
    ++ leBytes 2 (min 0xFFFF c.objCount) ++ leBytes 4 (sat 4 w.corners) ++ leBytes 4 0

/-- R440: step 6: the WINDOW record and the chain's completion. -/
def State.chainFinish (s : State) (p : Fin 8) (c : Chain) : State :=
  let late := s.winLate p c.win
  let ring := routeOf (s.reg PG.res (R.WIN_ROUTE p)) .window
  let head := s.reg PG.res (R.RING_HEAD ring)
  let body := s.winBody p c
  let (dropped, s) := s.chainRecord .window p c.win.k body
  let s : State := if c.win.fed = some s.adm.win ∧ s.reg PG.res (R.RING_HEAD ring) ≠ head then
      { s with adm := { s.adm with written := vupd s.adm.written p fun l => l ++ [(ring, head, (body.getD 6 0).toNat)] } }
    else s
  let s := if late then (s.bump PG.res R.RES_CNT1 48 16).irq PG.res 2 else s
  let st : Status := if late then .okLate else .ok
  let st := if c.poison then st.worse .failPoison else st
  let st := if c.shed || c.lost || dropped then st.worse .failShed else st
  let st := match c.fail with | some f => st.worse f | none => st
  let s := (s.chainForget c).chainsUpd p fun l => l.filter fun x => x.id != c.id
  let s := if bf c.ctl 0 2 = 2 ∧ s.role ≠ 0 then
      s.twinOwn { port := p.val, win := c.win.k, admitted := c.win.admitted, objects := c.objCount, corners := c.win.corners }
    else s
  let s := s.twinWindow p c.win.k false
  match c.item with
  | some i => s.closeItem i st c.win.k
  | none => s

/-- R440: step 5: the OBJECT_LIST record. -/
def State.chainList (s : State) (p : Fin 8) (c : Chain) : State :=
  let infos := (ctxsOf (bf c.rd 16 12)).map fun x => (s.ictx x.1 x.2).infoOf c.id
  let boxes := (s.loc.bound.get p).take 256
  let body := leBytes 16 (listHeader boxes.length infos) ++ (boxes.map fun b => leBytes 32 (listEntry b)).flatten
  let (dropped, s) := s.chainRecord .objectList p c.win.k body
  s.setChain p { c with step := 6, entry := 0, objects := some boxes.length, lost := c.lost || dropped }

/-- R433, R440: a finished step takes the status of its items that comes first in R433's order: a poison marks the window, another
failure ends the chain; the answer is the chain at its next place. -/
def Chain.stepped (c : Chain) (l : List Status) (step entry : Nat) : Chain :=
  let w := l.foldl Status.worse .ok
  if w.isFail && w != .failPoison then { c with fail := some w, step := 6, entry := 0, waits := [], sub := 0 }
  else { c with poison := c.poison || w == .failPoison, step, entry, waits := [], sub := 0 }

/-- R431: the chain's ledger item opens. -/
def State.chainOpen (s : State) (p : Fin 8) (c : Chain) : State :=
  let (i, s) := s.openItem PG.res (bf c.ctl 8 6) c.win.k false
  s.setChain p { c with item := some i }

/-- R440: step 1: the port's open batches are written. -/
def State.chainFlush (s : State) (p : Fin 8) (c : Chain) : State :=
  (((s.flushBatch p .corner).flushBatch p .trackDelta).flushBatch p .aux).setChain p
    { c with step := if c.shed then 6 else 2 }

/-- R431, R440: one move of a chain, if it can make one: the next step starts, or a started one is found complete. -/
def State.chainMove (s : State) (p : Fin 8) (c : Chain) : Option State :=
  if c.item.isNone then (if s.itemFree .chain then some (s.chainOpen p c) else none)
  else match c.step with
  | 1 => some (s.chainFlush p c)
  | 2 =>
    let l := ctxsOf (bf c.rd 0 12)
    if l.isEmpty then some (s.setChain p { c with step := 3, entry := 0 })
    else if c.entry = 0 then
      let (ok, s) := s.askAll p c l false
      if ok then some s else none
    else (s.chainEnds c).map fun r => (s.chainForget c).setChain p (c.stepped r 3 0)
  | 3 =>
    let j := c.entry / 2
    if 8 ≤ j then some (s.setChain p { c with step := 4, entry := 0 })
    else
      let e := c.jobs.getD j 0
      let count := bf e 4 12
      if !bitAt e 3 || count = 0 then some (s.setChain p { c with entry := 2 * j + 2 })
      else if 5 < bf e 0 3 then some (s.setChain p (c.stepped [.failInvalid] 6 0))
      else
        let k : Fin 6 := ⟨bf e 0 3 % 6, Nat.mod_lt _ (by decide)⟩
        if c.sub < count then
          if !s.alive (PG.fct k) then
            if !s.itemFree .chain then none else
            let (_, s) := s.nackJob (PG.fct k)
            some ((s.chainForget c).setChain p (c.stepped [if s.isOff (PG.fct k) then .failPower else .failReset] 6 0))
          else
            let s := s.chainCopy p c k (bf e 24 40) count
            if (s.res.chains.get p).contains c then none else some s
        else (s.chainEnds c).map fun r => (s.chainForget c).setChain p (c.stepped r 3 (2 * j + 2))
  | 4 =>
    let l := ctxsOf (bf c.rd 16 12)
    let older := (s.res.chains.get p).any fun x => decide (x.id < c.id) && (x.step == 4 || x.step == 5)
    if l.isEmpty then some (s.setChain p { c with step := 6, entry := 0 })
    else if c.entry = 0 then
      if older then none
      else
        let s := s.locUpd fun x => { x with boxes := x.boxes.set p [], bound := x.bound.set p [] }
        let (ok, s) := s.askAll p c l true
        if ok then some s else none
    else if c.entry = 1 then (s.chainEnds c).map fun r => (s.chainForget c).setChain p (c.stepped r 4 2)
    else none
  | 5 => some (s.chainList p c)
  | 6 => some (s.chainFinish p c)
  | _ => none

/-- R440: a chain's moves until it waits. -/
def State.chainRun (s : State) (p : Fin 8) (id : Nat) : Nat → State
  | 0 => s
  | n + 1 =>
    match (s.res.chains.get p).find? fun c => c.id == id with
    | none => s
    | some c => match s.chainMove p c with
      | none => s
      | some s => s.chainRun p id n

/-- R440: every chain of a port moves on. -/
def State.chainsStep (s : State) (p : Fin 8) : State :=
  if !s.alive PG.res || s.stopped PG.res then s
  else (s.res.chains.get p).foldl (fun s c => s.chainRun p c.id 64) s

/-- R256, R440: the port's boxes are bound for the chain that waits for the binding. -/
def State.chainBind (s : State) (p : Fin 8) : State :=
  match (s.res.chains.get p).find? fun c => c.step == 4 && c.entry == 2 with
  | none => s
  | some c =>
    if s.alive PG.loc && !s.running PG.loc then s
    else
      let s := if s.alive PG.loc then s.bindPort p (ietOf c.win.closeDtc)
        else s.locUpd fun x => { x with boxes := x.boxes.set p [], bound := x.bound.set p (x.boxes.get p) }
      (s.setChain p { c with step := 5, entry := 0 }).chainsStep p

/-! ### The switch of a patch (R430) -/

/-- R430: the patch of a load is complete when every port has switched. -/
def State.patchEnd (s : State) : State :=
  let m := s.res.mdl
  if !s.bit PG.res R.MDL_STS 3 || decide ((List.range 8).any fun p => !m.switched.contains p) then s
  else
    let s := (s.setFld PG.res R.MDL_STS 0 4 1).setFld PG.res R.MDL_ID 32 32 m.patchId
    let s := { s with res := { s.res with mdl := { m with item := none, jobs := [], switched := [], refs := m.patchRefs,
                                                          patchRefs := [] } } }
    match m.item with
    | some i => s.closeItem i .ok 0
    | none => s

/-- R430: a port takes the pending patch's JOBS. -/
def State.patchSwitch (s : State) (p : Fin 8) : State :=
  let m := s.res.mdl
  if !s.bit PG.res R.MDL_STS 3 || m.switched.contains p.val then s
  else
    let jobs := (m.jobs.filter fun j => j.1 == p.val).flatMap Prod.snd
    let s := jobs.foldl (fun s j => s.plainWrite PG.res (Wr.full .loader j.1 j.2)) s
    let s : State := { s with res := { s.res with mdl := { m with switched := p.val :: m.switched } } }
    s.patchEnd

/-! ### Closing (R438, R440, R441) -/

/-- R172: a pixel event of the port's first window waits in the hold queue. -/
def State.winHeld (s : State) (p : Fin 8) : Bool :=
  (s.adm.hold.get p).any fun e => evKind e.word = 0 && (match (s.winFind p (evIet e.word)).1 with
    | some (i, _) => i == 0
    | none => false)

/-- R438: the Chord unit and the tracker still hold an event of the port admitted up to `d`. -/
def State.winDrains (s : State) (p : Fin 8) (d : Word) : Bool :=
  let c := s.chd.get p
  (c.q.any fun e => !before d e.admitted) || (c.out.any fun e => !before d e.admitted)
    || ((s.loc.inputs.get p).any fun e => !before d e.admitted)

/-- R440, R441: the port's first window closes and its chain starts. -/
def State.winClose (s : State) (p : Fin 8) (w : Win) : State :=
  let w := { w with closeDtc := s.dtc }
  let s := s.setWins p ((s.wins p).drop 1)
  let s := { s with res := { s.res with prevClose := s.res.prevClose.set p (some s.dtc) } }
  let s := (s.bump PG.res R.RES_CNT1 0 32).bump PG.res (R.WIN_CNT p) 0 32
  let s := if w.byTime then (s.bump PG.res R.RES_CNT1 32 16).bump PG.res (R.WIN_CNT p) 32 16 else s
  let s := if w.merged then s.bump PG.res (R.WIN_CNT p) 48 16 else s
  let s : State := s.patchSwitch p
  let ctl := s.reg PG.res (R.WIN_CTL p)
  let shed := decide (4 ≤ (s.res.chains.get p).length)
  let s := if shed then s.bump PG.res R.RES_CNT0 48 16 else s
  let c : Chain := {
    id := s.res.nextChain, item := none, win := w, ctl, rd := s.reg PG.res (R.WIN_READOUT p)
    jobs := (List.range 8).map fun j => s.reg PG.res (R.WIN_CHAIN p j)
    step := 1, entry := 0, sub := 0, waits := [], shed, poison := false, fail := none, objects := none
    lost := false }
  let s := { s with res := { s.res with nextChain := s.res.nextChain + 1 } }.chainsUpd p fun l => l ++ [c]
  s.chainRun p c.id 64

/-- R438: a window whose end has fallen due closes once the hold queue and the pipeline let it. -/
def State.winTryClose (s : State) (p : Fin 8) : State :=
  if !s.running PG.res || s.fld PG.res R.PG_PWR 0 2 ≠ 0 then s
  else
    match s.wins p with
    | [] => s
    | w :: r =>
      if !w.due || s.winHeld p then s
      else
        let d := w.drainAt.getD s.dtc
        let s := s.setWins p ({ w with drainAt := some d } :: r)
        if s.winDrains p d then s else s.winClose p { w with drainAt := some d }

/-! ### Registers (R427, R449, R450) -/

/-- R427: a write of MDL_GO. -/
def State.mdlGo (s : State) (w : Wr) : State :=
  let cq := bf w.val 0 6
  let len := s.fld PG.res R.MDL_LEN 0 40
  if s.bit PG.res R.MDL_STS 1 || s.bit PG.res R.MDL_STS 3 then s.logWr PG.res w .busy
  else if !s.itemFree .load then s.ledgerFull PG.res w
  else
    let (i, s) := s.openItem PG.res cq 0 true
    if len = 0 then s.closeItem i .okEmpty 0
    else
      let s := { s with res := { s.res with mdl := { s.res.mdl with
        item := some i, patch := bitAt w.val 8, addr := (s.reg PG.res R.MDL_ADDR).toNat, len } } }
      s.setBit PG.res R.MDL_STS 1 true

/-- R450: WIN_CTL `v` with the port's span is refused. -/
def State.winBad (s : State) (p : Fin 8) (v : Word) : Bool :=
  let mode := bf v 0 2
  let span := s.reg PG.res (R.WIN_SPAN p)
  let us := bf span 0 20
  let budget := bf v 32 17
  let t := s.fld PG.adm (R.ADM_P_TDELIVER p) 0 32
  mode = 3 || (if mode = 1 then decide (us < 50 ∨ 1000000 < us ∨ t < us + budget) else span = 0) || budget = 0
    || decide (t ≤ budget)

/-- R449, R450: a write of WIN_CTL, WIN_SPAN or WIN_ORIGIN. -/
def State.winWrite (s : State) (p : Fin 8) (w : Wr) : State :=
  let v := s.wouldBe PG.res w
  if s.winMode p ≠ 0 ∧ s.bit (PG.sp p) R.SP_CTL 0 then s.logWr PG.res w .state
  else if w.reg = R.WIN_CTL p ∧ bf v 0 2 ≠ 0 ∧ s.winBad p v then
    ((s.setBit PG.res R.RES_STS 0 true).setFld PG.res R.RES_STS 8 5 p).irq PG.res 0
  else
    let s := (s.setReg PG.res w.reg v).winOpen p
    if s.winMode p = 0 then s.patchSwitch p else s

/-- R449, R450: a write of RING_CTL. -/
def State.ringCtl (s : State) (k : Nat) (w : Wr) : State :=
  let r := R.RING_CTL k
  let v := s.wouldBe PG.res w
  if s.bit PG.res r 0 then
    if bitAt v 0 then s.logWr PG.res w .state else s.setReg PG.res r v
  else if bitAt v 0 then
    let lg := s.fld PG.res (R.RING_SIZE k) 0 5
    let base := (s.reg PG.res (R.RING_BASE k)).toNat
    if lg < 16 ∨ 30 < lg ∨ base % 4096 ≠ 0 ∨ ¬ s.inHbm base (2 ^ lg) then
      ((s.setBit PG.res R.RES_STS 1 true).setFld PG.res R.RES_STS 8 5 k).irq PG.res 0
    else s.setReg PG.res r v
  else s.setReg PG.res r v

/-- R449: a write to page 0x061. -/
def State.resWrite (s : State) (w : Wr) : State :=
  let o := w.reg
  if o = R.MDL_GO then s.mdlGo w
  else if 0x1000 ≤ o ∧ o < 0x1800 then
    let p := baseOf ((o - 0x1000) / 0x100)
    if o = R.WIN_CTL p ∨ o = R.WIN_SPAN p ∨ o = R.WIN_ORIGIN p then s.winWrite p w else s.plainWrite PG.res w
  else if 0x2000 ≤ o ∧ o < 0x2800 then
    let k := (o - 0x2000) / 0x40
    if o = R.RING_CTL k then s.ringCtl k w
    else if (o = R.RING_BASE k ∨ o = R.RING_SIZE k) ∧ s.bit PG.res (R.RING_CTL k) 0 then s.logWr PG.res w .state
    else s.plainWrite PG.res w
  else s.plainWrite PG.res w

/-- R429, R430, R477: a reset of page 0x061: a running load, a pending patch and every chain end; open batches are
discarded. The items have been closed by the reset itself. -/
def State.resPageReset (s : State) : State :=
  let m := s.res.mdl
  let busy := s.bit PG.res R.MDL_STS 1
  let s := if busy ∧ m.writing then s.setBit PG.res R.MDL_STS 2 true else s
  let s := (s.setBit PG.res R.MDL_STS 1 false).setBit PG.res R.MDL_STS 3 false
  let s := [R.RES_CNT0, R.RES_CNT1].foldl (fun s r => s.setReg PG.res r 0) s
  let s := (List.range 8).foldl (fun s p => s.setReg PG.res (R.WIN_CNT p) 0) s
  let s := (List.range 32).foldl (fun s k => s.setReg PG.res (R.RING_CNT k) 0) s
  { s with res := { s.res with
      chains := Vector.replicate 8 [], chainDone := [], batches := Vector.replicate 8 (Vector.replicate 3 {})
      mdl := { m with item := none, writing := false, jobs := [], switched := [], patchRefs := [] } } }

/-- R73, R200, R258, R414: the results unit takes what has waited for it. -/
def State.resTake (s : State) : State :=
  if !s.alive PG.res || s.stopped PG.res then s
  else
    let q := s.res.disc
    (q.foldl State.discDeliver { s with res := { s.res with disc := [] } }).deltaDrain

/-- A register write to page 0x061, or to page 0x003, through the common gate. -/
def State.resWr (s : State) (ini : Initiator) (off : Nat) (v : Word) : State :=
  let w := Wr.full ini off v
  s.gate PG.res w fun s => s.resWrite w
def State.ldgWr (s : State) (ini : Initiator) (off : Nat) (v : Word) : State :=
  let w := Wr.full ini off v
  s.gate PG.ldg w fun s => s.ldgWrite w

/-! ### Commands -/

/-- R256: OBJECT_BINDING. -/
def execObjectBinding (p : Fin 8) (s : State) : Res := s.ends (s.chainBind p)

/-- R427: MODEL_LOAD, a write of MDL_GO with PATCH 0. -/
def execModelLoad (ini : Initiator) (v : Word) (s : State) : Res := s.ends (s.resWr ini R.MDL_GO (putBit v 8 false))

/-- R427, R430: MODEL_PATCH, a write of MDL_GO with PATCH 1. -/
def execModelPatch (ini : Initiator) (v : Word) (s : State) : Res := s.ends (s.resWr ini R.MDL_GO (putBit v 8 true))

/-- R434: COMPLETION_POST. -/
def execCompletionPost (s : State) : Res := s.ends s.postNext

/-- R435: LEDGER_TIMEOUT. -/
def execLedgerTimeout (item : Fin 16384) (s : State) : Res := s.ends (s.itemTimeout item)

/-- R435: LDG_CTL_WRITE. -/
def execLdgCtlWrite (ini : Initiator) (v : Word) (s : State) : Res := s.ends (s.ldgWr ini R.LDG_CTL v)

/-- R436: CQ_ENABLE, a write of CQ_CTL. -/
def execCqEnable (ini : Initiator) (q : Fin 64) (v : Word) (s : State) : Res := s.ends (s.ldgWr ini (R.CQ_CTL q) v)

/-- R450: WIN_MODE_ENABLE, a write of WIN_CTL. -/
def execWinModeEnable (ini : Initiator) (p : Fin 8) (v : Word) (s : State) : Res := s.ends (s.resWr ini (R.WIN_CTL p) v)

/-- R450: RING_ENABLE, a write of RING_CTL. -/
def execRingEnable (ini : Initiator) (k : Fin 32) (v : Word) (s : State) : Res := s.ends (s.resWr ini (R.RING_CTL k) v)

/-- R438: WINDOW_CLOSE. -/
def execWindowClose (p : Fin 8) (s : State) : Res := s.ends ((s.winTimeDue p).winTryClose p)

/-- R439: WINDOW_CLOSE_BY_TIME. -/
def execWindowCloseByTime (p : Fin 8) (s : State) : Res := s.ends ((s.winByTime p).winTryClose p)

/-- R440: WINDOW_CHAIN_STEP_DONE. -/
def execWindowChainStepDone (p : Fin 8) (s : State) : Res := s.ends (s.chainsStep p)

/-- R444: BATCH_FLUSH_TIMEOUT. -/
def execBatchFlushTimeout (p : Fin 8) (kind : Fin 3) (s : State) : Res :=
  let b := s.batch p (batchKindOf kind)
  s.ends (if s.running PG.res && !b.entries.isEmpty && decide (100000 ≤ (s.dtc - b.first).toNat)
    then s.flushBatch p (batchKindOf kind) else s)

end Sys2Proof.Machine
end

