-- ==== Sys2Proof/Machine/Reflex.lean ====
section
/-!
DEFINITION. Machine/Reflex.lean: rules, checked mode and retraction, the trigger calendar, the outputs, reflex records, the
voter and the self-test (R176 to R210, R599). The dead-man's own commands stand with twin pairing, which it demotes.
-/

namespace Sys2Proof.Machine

/-! ### Reflex records (R200, R446) -/

/-- `s` with the reflex path changed. -/
def State.rfxUpd (s : State) (f : RfxState → RfxState) : State := { s with rfx := f s.rfx }

/-- R200: a record joins the queue of 256, or is lost. -/
def State.reflexRec (s : State) (r : ReflexRec) : State :=
  if 256 ≤ s.rfx.recs.length then
    ((s.bump PG.rfx R.RFX_CNT0 48 16).setBit PG.rfx R.RFX_STS 10 true).irq PG.rfx 5
  else s.rfxUpd fun x => { x with recs := x.recs ++ [{ r with dtc := s.dtc }] }

/-- R446: the body of a REFLEX record. -/
def reflexBody (r : ReflexRec) : List Byte :=
  let port := match r.pkt with | some (p, _) => p.val | none => 0
  let seq := match r.pkt with | some (_, n) => n | none => 0
  let ptb := match r.target with | some (b, _) => b.val | none => r.base
  let tgt := match r.target with | some (_, t) => t.toNat | none => 0
  leBytes 1 r.kind ++ leBytes 1 r.cause ++ leBytes 1 r.out
    ++ leBytes 1 (b2n r.sw + b2n r.pkt.isSome <<< 1 + b2n r.target.isSome <<< 2 + ptb <<< 3)
    ++ leBytes 2 r.rule ++ leBytes 1 port ++ leBytes 1 r.lane ++ leBytes 2 seq ++ leBytes 2 0
    ++ leBytes 4 r.count ++ leBytes 8 r.dtc.toNat ++ leBytes 8 tgt

/-- R203: RFX_STS.DEADMAN. -/
def State.deadman (s : State) : Bool := s.bit PG.rfx R.RFX_STS 4

/-- R200: the results unit takes one record; while the core heartbeat is lost the core domain does not run. -/
def State.reflexDrain (s : State) : State :=
  if !s.alive PG.res || s.stopped PG.res || (s.deadman && !s.rfx.hbBack) then s
  else
    match s.rfx.recs with
    | [] => s
    | r :: rest => ((s.rfxUpd fun x => { x with recs := rest }).writeRecord .reflex none 0 (reflexBody r)).2

/-! ### Outputs (R183, R201 to R204) -/

/-- R201, R203, R204: no ball is driven: the dead-man holds the outputs, OUT_EN = 0, or the device is not the active one
of its pair. -/
def State.outDark (s : State) (o : Nat) : Bool :=
  s.deadman || !s.bit PG.rfx (R.RFX_OUT_CFG o) 0 || s.role = 1 || s.role = 2

/-- Output index from a field. -/
def outOf (n : Nat) : Fin 32 := ⟨n % 32, Nat.mod_lt _ (by decide)⟩

/-- R183: the output is in a pulse. -/
def State.inPulse (s : State) (o : Fin 32) : Bool :=
  match s.rfx.pulse.get o with
  | none => false
  | some e => before s.dtc e

/-- R183, R203: a pulse of `width` × 10 ns starts or is extended; the timers run on while the outputs are dark, and a dark
firing counts neither as a pulse nor as a merge. The mark of R190 is kept where the firing starts or extends the pulse. -/
def State.startPulse (s : State) (o : Fin 32) (width : Nat) (rule : Option Nat) (mark : Option PulseMark) : State :=
  let fin := s.dtc + wOfNat (width * 10)
  let busy := s.inPulse o
  let fin' := match s.rfx.pulse.get o with
    | some e => if busy && before fin e then e else fin
    | none => fin
  let longer := !busy || s.rfx.pulse.get o != some fin'
  let s := s.rfxUpd fun x => { x with pulse := x.pulse.set o (some fin') }
  if s.outDark o then s
  else
    let s := if busy then
        let s := s.bump PG.rfx R.RFX_CNT0 32 16
        match rule with
        | some r => s.bump PG.rfx (R.RULE_CNT r) 48 16
        | none => s
      else s.bump PG.rfx R.RFX_CNT0 0 32
    match mark with
    | some m => if longer then s.rfxUpd fun x => { x with marks := x.marks ++ [m] } else s
    | none => s

/-- R201: the level an output drives. -/
def State.outDrive (s : State) (o : Fin 32) : Bool := s.inPulse o != s.bit PG.rfx (R.RFX_OUT_CFG o) 1

/-- R201, R202: the ball level of an output; a ball with no pull is at a level the spec leaves open. -/
def State.outLevel (s : State) (i : Nat) (o : Fin 32) : Bool :=
  if s.outDark o then
    match s.fld PG.rfx (R.RFX_OUT_CFG o) 2 2 with
    | 0 => false
    | 1 => true
    | _ => bitAt (Config.freeWord i) o.val
  else (s.rfx.held.get o).getD (s.outDrive o)

/-- R202: a driven output's ball has differed from its drive for more than 100 ns. DESIGN CHOICE (log 212): the ball keeps its
level until the output's bit of RFX_OUT_FAULT is cleared. -/
def State.outFault (s : State) (o : Fin 32) : State :=
  let s := s.rfxUpd fun x => { x with held := x.held.set o (some (!s.outDrive o)) }
  (s.setBit PG.rfx R.RFX_OUT_FAULT o.val true).irq PG.rfx 2

/-- R202: balls whose RFX_OUT_FAULT bit is clear follow their drive. -/
def State.outFollow (s : State) : State :=
  let kept (x : RfxState) : Vector (Option Bool) 32 :=
    Vector.ofFn fun o => if s.bit PG.rfx R.RFX_OUT_FAULT o.val then x.held.get o else none
  s.rfxUpd fun x => { x with held := kept x }

/-! ### Calendar (R185, R192 to R199) -/

/-- R200: a record about a calendar entry. -/
def State.calRec (s : State) (kind cause : Nat) (e : CalEntry) (base : Fin 8) (target : Word) : State :=
  s.reflexRec { kind, cause, out := e.out, sw := e.sw, rule := e.rule, pkt := e.pkt, target := some (base, target) }

/-- R192, R203: an entry fires: its pulse starts, or, on a dark output, it is counted in DARK. -/
def State.calFire (s : State) (e : CalEntry) (base : Fin 8) (target : Word) : State :=
  let s := s.bump PG.tcal R.TCAL_CNT0 0 32
  let s := if s.outDark e.out then
      let s := (s.bump PG.tcal R.TCAL_CNT1 32 16).irq PG.tcal 2
      if s.deadman then s.calRec 3 2 e base target else s
    else s
  let mark : Option PulseMark := match e.unchk, e.pkt with
    | true, some (p, n) => some { out := e.out, rule := e.rule, port := p, seq := n, target := some (base, target) }
    | _, _ => none
  s.startPulse (outOf e.out) e.width (if e.sw then none else some e.rule) mark

/-- Base and target of a pending entry. -/
def State.calAt (s : State) (e : CalEntry) : Fin 8 × Word :=
  match s.schedGet (.calendar e.slot) with
  | some i => (i.base, i.target)
  | none => (0, 0)

/-- An entry leaves the calendar. -/
def State.calDrop (s : State) (slot : Nat) : State :=
  (s.rfxUpd fun r => { r with cal := r.cal.filter fun e => e.slot != slot }).schedDel (.calendar slot)

/-- R192, R195: the entry of a slot falls due. -/
def State.calDue (s : State) (slot : Nat) : State :=
  match s.rfx.cal.find? (fun e => e.slot == slot), s.dueItem (.calendar slot) with
  | some e, some i =>
    let s := s.calDrop slot
    if i.byStep && e.skip then (s.bump PG.tcal R.TCAL_CNT1 16 16).calRec 4 i.cause e i.base i.target
    else s.calFire e i.base i.target
  | _, _ => s

/-- R193: the entries that are due by now fire and free their slots, before an insert, a cancellation or a flush of the same
cycle. -/
def State.calSettle (s : State) : State := s.rfx.cal.foldl (fun s e => s.calDue e.slot) s

/-- R192: the lowest free slot of the calendar's 4,096 from `i` on. -/
def freeSlot (l : List Nat) : Nat → Nat → Nat
  | 0, i => i
  | n + 1, i => if l.contains i then freeSlot l n (i + 1) else i

/-- R185, R192, R193, R196: an entry is inserted, fires at once, or is refused. -/
def State.calInsert (s : State) (e : CalEntry) (base : Fin 8) (target : Word) : State :=
  let s := s.calSettle
  let x := s.pos base
  if s.ptbRunning base && atOrAfter x target then
    (s.bump PG.tcal R.TCAL_CNT1 48 16).calFire e base target
  else if 4096 ≤ s.rfx.cal.length then
    let s := (s.setBit PG.tcal R.TCAL_STS 16 true).irq PG.tcal 0
    (s.bump PG.tcal R.TCAL_CNT0 32 32).calRec 5 6 e base target
  else
    let slot := freeSlot (s.rfx.cal.map CalEntry.slot) 4096 0
    let s := s.rfxUpd fun r => { r with cal := r.cal ++ [{ e with slot }] }
    s.schedAdd (.calendar slot) base target x

/-- R193, R198: entries of the scope leave without pulses; one FLUSH record carries the count. -/
def State.calFlush (s : State) (scope rule out ptb cause : Nat) : State :=
  let s := s.calSettle
  let hit := s.rfx.cal.filter fun e => match scope with
    | 0 => !e.sw && e.rule == rule
    | 1 => e.out == out
    | 2 => (s.calAt e).1.val == ptb
    | _ => true
  let s := hit.foldl (fun s e => s.calDrop e.slot) s
  s.reflexRec { kind := 6, cause, out := if scope = 1 then out else 255, rule := if scope = 0 then rule else 0,
                base := if scope = 2 then ptb else 0, count := hit.length }

/-- R197: a software insert. -/
def State.calSwGo (s : State) : State :=
  let c := s.reg PG.tcal R.TCAL_SW_CTL
  if bf c 16 24 = 0 then s.setBit PG.tcal R.TCAL_STS 17 true
  else
    s.calInsert { slot := 0, sw := true, rule := bf c 48 16, pkt := none, unchk := false, out := bf c 0 5,
                  width := bf c 16 24, skip := bitAt c 8 } (baseOf (bf c 5 3)) (s.reg PG.tcal R.TCAL_SW_POS)

/-- R476: the calendar takes inserts while its page is enabled and not quiesced. -/
def State.calTakes (s : State) : Bool := s.enabled PG.tcal && !s.quiesced PG.tcal

/-- A write to a block register of the TCAL page. -/
def State.tcalWrite (s : State) (w : Wr) : State :=
  let r := w.reg
  if r = R.TCAL_FLUSH then s.calFlush (bf w.val 0 2) (bf w.val 8 8) (bf w.val 16 5) (bf w.val 24 3) 7
  else if r = R.TCAL_SW_GO then if s.calTakes then s.calSwGo else s
  else s.plainWrite PG.tcal w

/-- R198: actions of a reset of the TCAL page. -/
def State.tcalPageReset (s : State) : State :=
  ((s.calFlush 3 0 0 0 8).setReg PG.tcal R.TCAL_CNT0 0).setReg PG.tcal R.TCAL_CNT1 0

/-! ### Rules (R176 to R184) -/

/-- What a rule keeps. -/
def State.ruleRt (s : State) (r : Nat) : RuleRt := Sp.get {} s.rfx.rules r

/-- `s` with what a rule keeps changed. -/
def State.ruleUpd (s : State) (r : Nat) (f : RuleRt → RuleRt) : State :=
  s.rfxUpd fun x => { x with rules := Sp.set {} x.rules r (f (Sp.get {} x.rules r)) }

/-- R176: a vertex of a rule's zone. -/
def State.ruleVertex (s : State) (r i : Nat) : Int × Int :=
  let w := s.reg PG.rfx (R.RULE_ZONE r (i / 2))
  if i % 2 = 0 then (bf w 0 12, bf w 16 12) else (bf w 32 12, bf w 48 12)

/-- The vertices of a rule's zone. -/
def State.ruleVertices (s : State) (r nvert : Nat) : List (Int × Int) := (List.range nvert).map (s.ruleVertex r)

/-- Pairs of each vertex with the next, cyclically. -/
def polyEdges (l : List (Int × Int)) : List ((Int × Int) × (Int × Int)) := l.zip (l.drop 1 ++ l.take 1)

/-- Twice the signed area of a polygon. -/
def polyArea2 (l : List (Int × Int)) : Int :=
  ((polyEdges l).map fun e => e.1.1 * e.2.2 - e.2.1 * e.1.2).sum

/-- R178: the sign of a polygon's area. -/
def polySign (l : List (Int × Int)) : Int := if polyArea2 l < 0 then -1 else 1

/-- R178: the point lies in the polygon or on its boundary. -/
def inPoly (l : List (Int × Int)) (x y : Int) : Bool :=
  let sg := polySign l
  (polyEdges l).all fun e =>
    decide (0 ≤ sg * ((e.2.1 - e.1.1) * (y - e.1.2) - (e.2.2 - e.1.2) * (x - e.1.1)))

/-- R184: the polygon's edges turn one way: no cross product of consecutive edges is 0 or of the other sign. -/
def polyConvex (l : List (Int × Int)) : Bool :=
  let sg := polySign l
  let es := (polyEdges l).map fun e => (e.2.1 - e.1.1, e.2.2 - e.1.2)
  (polyEdges es).all fun p => decide (0 < sg * (p.1.1 * p.2.2 - p.1.2 * p.2.1))

/-- A wrapped or plain range of two phases (R158, R179). -/
def phaseIn (lo hi x : Nat) : Bool :=
  if lo < hi then decide (lo ≤ x ∧ x < hi) else if hi < lo then decide (lo ≤ x ∨ x < hi) else false

/-- R179: the gate of a rule is open. -/
def State.gateOpen (s : State) (r : Nat) : Bool :=
  let c := s.reg PG.rfx (R.RULE_CTL r)
  let lo := s.reg PG.rfx (R.RULE_GATE_LO r)
  let hi := s.reg PG.rfx (R.RULE_GATE_HI r)
  let x := s.pos (baseOf (bf c 42 3))
  match bf c 40 2 with
  | 1 => atOrAfter x lo && before x hi
  | 2 => phaseIn (bf lo 16 32) (bf hi 16 32) (bf x 16 32)
  | _ => true

/-- R177: POL of a rule against a polarity or edge. -/
def polOk (pol : Nat) (p : Bool) : Bool := pol = 0 || (pol = 1 && p) || (pol = 2 && !p)

/-- R177: a front word qualifies for a rule. -/
def State.qualifies (s : State) (r : Nat) (w : Word) : Bool :=
  let c := s.reg PG.rfx (R.RULE_CTL r)
  let pol := polOk (bf c 8 2) (bitAt w 54)
  let hit := match bf c 2 2, bf w 58 2 with
    | 0, 0 => pol && (bitAt c 10 || inPoly (s.ruleVertices r (bf c 11 4)) (bf w 32 11) (bf w 43 11))
    | 1, 1 => pol && bf w 32 11 == s.fld PG.rfx (R.RULE_ACT r) 40 8
    | _, _ => false
  hit && s.gateOpen r

/-- R180: a ring, HOLDING and t_fire. -/
structure RingState where
  ring : List Word
  holding : Bool
  tFire : Word
  deriving DecidableEq, Repr

/-- R180: an input counted at decode time `t`: the state after it, whether it was counted, whether the rule fires. -/
def ringCount (thresh window holdoff : Nat) (g : RingState) (t : Word) : RingState × Bool × Bool :=
  if g.holding ∧ (t - g.tFire).toNat < holdoff * 1000 then (g, false, false)
  else
    let full := decide (thresh ≤ g.ring.length + 1)
    let near := match g.ring with
      | [] => true
      | o :: _ => decide ((t - o).toNat < window)
    if full && near then ({ ring := [], holding := holdoff != 0, tFire := if holdoff = 0 then g.tFire else t }, true, true)
    else
      let l := g.ring ++ [t]
      ({ ring := l.drop (l.length - (thresh - 1)), holding := false, tFire := g.tFire }, true, false)

/-- R180: a rule counts an input by its own words. -/
def State.ringStep (s : State) (r : Nat) (g : RingState) (t : Word) : RingState × Bool × Bool :=
  let c := s.reg PG.rfx (R.RULE_CTL r)
  ringCount (bf c 16 7) (bf c 24 16) (bf c 48 16) g t

/-- R183, R185: a rule acts, by the deciding event's IET (none for a trip). -/
def State.ruleAct (s : State) (r : Nat) (iet : Option Nat) (pkt : Option (Fin 8 × Nat)) (unchk : Bool) : State :=
  let a := s.reg PG.rfx (R.RULE_ACT r)
  let out := bf a 1 5
  let width := bf a 16 24
  if !bitAt a 0 then
    let mark : Option PulseMark := match unchk, pkt with
      | true, some (p, n) => some { out, rule := r, port := p, seq := n, target := none }
      | _, _ => none
    s.startPulse (outOf out) width (some r) mark
  else if !s.calTakes then s
  else
    let base := baseOf (bf a 6 3)
    let (x, s) := match iet with
      | some t => let (x, _, s) := s.lookPos base t; (x, s)
      | none => (s.pos base, s)
    s.calInsert { slot := 0, sw := false, rule := r, pkt, unchk, out, width, skip := bitAt a 9 } base
      (x + s.reg PG.rfx (R.RULE_OFS r))

/-- The live ring of a rule. -/
def State.ringOf (s : State) (r : Nat) : RingState :=
  { ring := (s.ruleRt r).ring, holding := s.bit PG.rfx (R.RULE_STS r) 1, tFire := (s.ruleRt r).tFire }

/-- `s` with the live ring of a rule replaced. -/
def State.setRing (s : State) (r : Nat) (g : RingState) : State :=
  (s.ruleUpd r fun x => { x with ring := g.ring, tFire := g.tFire }).setBit PG.rfx (R.RULE_STS r) 1 g.holding

/-- R181: the ring after the inputs of one cycle: events after a firing are not counted. The answer holds the ring, whether
an input was counted, and the word that fired. -/
def State.ringCycle (s : State) (r : Nat) (t : Word) : RingState → List Word → RingState × Bool × Option Word
  | g, [] => (g, false, none)
  | g, w :: ws =>
    if s.qualifies r w then
      let (g, counted, fired) := s.ringStep r g t
      if fired then (g, true, some w)
      else
        let (g, c, f) := State.ringCycle s r t g ws
        (g, counted || c, f)
    else State.ringCycle s r t g ws

/-- R177: a rule takes front words of port `p`, and some of these qualify. -/
def State.ruleTakes (s : State) (p : Fin 8) (words : List Word) (r : Nat) : Bool :=
  let c := s.reg PG.rfx (R.RULE_CTL r)
  bitAt c 0 && decide (bf c 2 2 < 2) && bf c 4 3 == p.val && words.any (s.qualifies r)

/-- R182, R188, R205: one rule takes the front words of one cycle; `act` tells that the voter takes the cycle's actions. -/
def State.ruleFront (s : State) (act : Bool) (p : Fin 8) (words : List Word) (seq : Nat) (r : Nat) : State :=
  let c := s.reg PG.rfx (R.RULE_CTL r)
  if !s.ruleTakes p words r then s
  else if !bitAt c 1 then
    let (g, counted, f) := s.ringCycle r s.dtc (s.ringOf r) words
    let s := s.setRing r g
    let s := if counted then s.ruleUpd r fun x => { x with counted := true } else s
    match f with
    | none => s
    | some w => if act then (s.bump PG.rfx (R.RULE_CNT r) 0 32).ruleAct r (some (bf w 0 32)) (some (p, seq)) true else s
  else
    let sh : Shadow := match (s.ruleRt r).shadow with
      | some sh => sh
      | none => let g := s.ringOf r; { ring := g.ring, holding := g.holding, tFire := g.tFire, first := none, fires := 0 }
    let (g, _, f) := s.ringCycle r s.dtc { ring := sh.ring, holding := sh.holding, tFire := sh.tFire } words
    let sh : Shadow := {
      ring := g.ring, holding := g.holding, tFire := g.tFire
      first := match sh.first, f with
        | none, some w => some (bf w 0 32)
        | x, _ => x
      fires := sh.fires + b2n f.isSome }
    (s.ruleUpd r fun x => { x with shadow := some sh }).setBit PG.rfx (R.RULE_STS r) 2 true

/-- R599: rules count and fire. -/
def State.rfxCounts (s : State) : Bool := s.running PG.rfx

/-- Words of the next cycle: at most `n`, up to a packet result. -/
def frontTake : Nat → List FrontItem → List Word × Nat × List FrontItem
  | _, [] => ([], 0, [])
  | 0, l => ([], 0, l)
  | n + 1, .ev w q :: l =>
    let (ws, _, r) := frontTake n l
    (w :: ws, q, r)
  | _ + 1, .crc q a b :: l => ([], 0, .crc q a b :: l)

/-- RFX_STS.LANE_OUT. -/
def State.laneOut (s : State) (l : Fin 3) : Bool := s.bit PG.rfx R.RFX_STS l.val

/-- Lanes that are masked. -/
def State.lanesOut (s : State) : Nat := s.fld PG.rfx R.RFX_STS 0 3

/-- R205: a lane is found in the minority, or its word is rewritten: it is masked and its state copied; the third time
within 1 s it stays masked. -/
def State.laneMask (s : State) (l : Fin 3) : State :=
  if s.laneOut l then s
  else
    let s := (s.bump PG.rfx R.RFX_TMR_CNT 0 16).setBit PG.rfx R.RFX_STS l.val true
    let s := s.reflexRec { kind := 7, cause := 10, lane := l.val }
    let recent := (s.rfx.maskedAt.get l).filter fun t => decide ((s.dtc - t).toNat < 1000000000)
    let s := s.rfxUpd fun x => { x with maskedAt := x.maskedAt.set l (s.dtc :: recent) }
    if 2 ≤ recent.length then
      let s := s.rfxUpd fun x => { x with stuck := x.stuck ++ [l], resync := x.resync }
      (s.setBit PG.rfx R.RFX_STS 3 true).irq PG.rfx 0
    else s.rfxUpd fun x => { x with resync := some l }

/-- What the voter takes of a cycle's actions. -/
structure Vote where
  /-- the actions of the rules -/
  rules : Bool := true
  /-- an action that one lane takes beside them -/
  extra : Option (Fin 256) := none
  deriving DecidableEq, Repr

/-- R205: the voter compares the lanes' actions of a cycle, in which rules fire (`fires`) or not. With three lanes the majority acts
and the minority is masked. With two a disagreement is counted and acts by DUAL_POLICY: with OR either lane's action is taken, with
AND only a shared one. A lane left alone acts alone. -/
def State.vote (s : State) (fires : Bool) (fault : Option (Fin 3 × LaneFault)) : Vote × State :=
  match fault with
  | none => ({}, s)
  | some (l, f) =>
    let differs := match f with | .misses => fires | .acts _ => true
    if s.laneOut l || !differs then ({}, s)
    else
      let other : Vote := match f with | .misses => { rules := false } | .acts r => { extra := some r }
      match popCount 3 s.lanesOut with
      | 0 => ({}, s.laneMask l)
      | 1 =>
        let s := s.bump PG.rfx R.RFX_TMR_CNT 0 16
        let either := !s.bit PG.rfx R.RFX_CTL 0
        (match f with
          | .misses => if either then {} else other
          | .acts _ => if either then other else {}, s)
      | _ => (other, s)

/-- R205: the action that one lane has taken beside the rules'. -/
def State.voteExtra (s : State) (v : Vote) : State :=
  match v.extra with
  | none => s
  | some r => (s.bump PG.rfx (R.RULE_CNT r) 0 32).ruleAct r none none false

/-- R134, R181, R205: one RFX_CLK cycle of the front decoders: at most eight words of each port reach the rules, which act in
rule-index order (R193). -/
def State.frontCycle (s : State) (ports : List (Fin 8 × Nat)) (fault : Option (Fin 3 × LaneFault)) : State :=
  let took := ports.map fun x => (x.1, frontTake (min 8 x.2) (s.sp.get x.1).front)
  let s := took.foldl (fun s x => s.spUpd x.1 fun y => { y with front := x.2.2.2 }) s
  if took.all (fun x => x.2.1.isEmpty) || !s.rfxCounts then s
  else
    let fires := (List.range 256).any fun r => took.any fun x =>
      s.ruleTakes x.1 x.2.1 r && !s.bit PG.rfx (R.RULE_CTL r) 1 && (s.ringCycle r s.dtc (s.ringOf r) x.2.1).2.2.isSome
    let (v, s) := s.vote fires fault
    let s := (List.range 256).foldl (fun s r =>
      took.foldl (fun s x => s.ruleFront v.rules x.1 x.2.1 x.2.2.1 r) s) s
    s.voteExtra v

/-- R177: a rule takes trips of channel `m`, and its gate is open. -/
def State.ruleTrips (s : State) (m : Fin 16) (r : Nat) : Bool :=
  let c := s.reg PG.rfx (R.RULE_CTL r)
  bitAt c 0 && bf c 2 2 == 2 && s.fld PG.rfx (R.RULE_ACT r) 40 8 == m.val && s.gateOpen r

/-- R177, R205: a trip reaches the rules. -/
def State.tripInput (s : State) (m : Fin 16) (fault : Option (Fin 3 × LaneFault)) : State :=
  if !s.rfx.trips.contains m then s
  else
    let s := s.rfxUpd fun x => { x with trips := x.trips.erase m }
    if !s.rfxCounts || !s.tripOpen m then s
    else
      let fires := (List.range 256).any fun r => s.ruleTrips m r && (s.ringStep r (s.ringOf r) s.dtc).2.2
      let (v, s) := s.vote fires fault
      let s := (List.range 256).foldl (fun s r =>
        if s.ruleTrips m r then
          let (g, _, fired) := s.ringStep r (s.ringOf r) s.dtc
          let s := s.setRing r g
          if fired && v.rules then (s.bump PG.rfx (R.RULE_CNT r) 0 32).ruleAct r none none false else s
        else s) s
      s.voteExtra v

/-! ### Packet results (R187 to R190) -/

/-- R188: a checked-mode rule learns the result of the packet. -/
def State.shadowEnd (s : State) (p : Fin 8) (seq : Nat) (ok : Bool) (r : Nat) : State :=
  match (s.ruleRt r).shadow with
  | none => s
  | some sh =>
    if s.fld PG.rfx (R.RULE_CTL r) 4 3 ≠ p.val then s
    else
      let s := (s.ruleUpd r fun x => { x with shadow := none }).setBit PG.rfx (R.RULE_STS r) 2 false
      if !ok || !s.rfxCounts then s
      else
        let s := s.setRing r { ring := sh.ring, holding := sh.holding, tFire := sh.tFire }
        let s := s.addCnt PG.rfx (R.RULE_CNT r) 0 32 sh.fires
        let s := s.addCnt PG.rfx (R.RULE_CNT r) 48 16 (sh.fires - 1)
        match sh.first with
        | none => s
        | some t => s.ruleAct r (some t) (some (p, seq)) false

/-- Whether a packet is the one named. -/
def isPkt (e : Option (Fin 8 × Nat)) (p : Fin 8) (seq : Nat) : Bool := e == some (p, seq)

/-- R190, R193, R599: a failed packet's pending entries are cancelled, its pulses reported, its rules set back; while no rule
counts, rings and HOLDING keep their values. -/
def State.packetFailed (s : State) (p : Fin 8) (seq cause : Nat) : State :=
  let s := s.calSettle
  let hits := s.rfx.cal.filter fun e => e.unchk && isPkt e.pkt p seq
  let s := hits.foldl (fun s e =>
    let (b, t) := s.calAt e
    let s := (s.calDrop e.slot).calRec 2 cause e b t
    let s := (s.bump PG.tcal R.TCAL_CNT1 0 16).bump PG.rfx (R.RULE_CNT e.rule) 32 16
    s.irq PG.tcal 1) s
  let marks := s.rfx.marks.filter fun m => m.port == p && m.seq == seq
  let s := marks.foldl (fun s m =>
    (s.reflexRec { kind := 1, cause, out := m.out, rule := m.rule, pkt := some (p, seq), target := m.target }).bump
      PG.rfx (R.RULE_CNT m.rule) 32 16) s
  (List.range 256).foldl (fun s r =>
    let c := s.reg PG.rfx (R.RULE_CTL r)
    if (s.ruleRt r).counted ∧ !bitAt c 1 ∧ bf c 4 3 = p.val then
      let s := if s.rfxCounts then
          (s.ruleUpd r fun x => { x with ring := [] }).setBit PG.rfx (R.RULE_STS r) 1 false
        else s
      (s.setBit PG.rfx (R.RULE_STS r) 0 true).irq PG.rfx 3
    else s) s

/-- R187 to R190: the result of port `p`'s packet reaches the rules, once its events have. -/
def State.rfxCrc (s : State) (p : Fin 8) : State :=
  match (s.sp.get p).front with
  | .crc seq ok trunc :: rest =>
    let s := s.spUpd p fun x => { x with front := rest }
    let s := (List.range 256).foldl (fun s r => s.shadowEnd p seq ok r) s
    let s := if ok then
        s.rfxUpd fun x =>
          { x with cal := x.cal.map fun e => if e.unchk && isPkt e.pkt p seq then { e with unchk := false } else e }
      else s.packetFailed p seq (b2n trunc)
    let s := s.rfxUpd fun x => { x with marks := x.marks.filter fun m => !(m.port == p && m.seq == seq) }
    (List.range 256).foldl (fun s r =>
      if (s.ruleRt r).counted ∧ s.fld PG.rfx (R.RULE_CTL r) 4 3 = p.val
      then s.ruleUpd r fun x => { x with counted := false } else s) s
  | _ => s

/-! ### Enabling a rule (R184) and register writes -/

/-- R184: RULE_STS bits of the checks that fail, RULE_CTL reading `c`. -/
def State.ruleChecks (s : State) (r : Nat) (c : Word) : List Nat :=
  let a := s.reg PG.rfx (R.RULE_ACT r)
  let thresh := bf c 16 7
  let window := bf c 24 16
  let nv := bf c 11 4
  let src := bf c 2 2
  let poly := s.ruleVertices r nv
  let lo := s.reg PG.rfx (R.RULE_GATE_LO r)
  let hi := s.reg PG.rfx (R.RULE_GATE_HI r)
  let gm := bf c 40 2
  (if thresh = 0 then [8] else []) ++ (if 64 < thresh then [9] else []) ++
  (if window = 0 then [10] else []) ++ (if 1 ≤ window ∧ window ≤ 99 then [11] else []) ++
  (if src = 0 ∧ !bitAt c 10 ∧ (nv < 3 ∨ 8 < nv ∨ polyArea2 poly = 0 ∨ !polyConvex poly) then [12] else []) ++
  (if bf a 16 24 = 0 then [13] else []) ++
  (if gm = 3 ∨ (gm = 1 ∧ lo = hi) ∨ (gm = 2 ∧ bf lo 16 32 = bf hi 16 32) then [14] else []) ++
  (if src = 3 ∨ bf c 8 2 = 3 ∨ (src = 2 ∧ 15 < bf a 40 8) then [15] else [])

/-- R176, R184: a write of RULE_CTL that does not leave an enabled rule enabled. -/
def State.ruleCtlWrite (s : State) (r : Nat) (w : Wr) : State :=
  let g := R.RULE_CTL r
  let old := s.reg PG.rfx g
  let new := s.wouldBe PG.rfx w
  if bitAt old 0 then
    let s := s.setReg PG.rfx g new
    (s.ruleUpd r fun x => { x with ring := [], shadow := none }).setBit PG.rfx (R.RULE_STS r) 2 false
  else if bitAt new 0 then
    match s.ruleChecks r new with
    | [] => s.setReg PG.rfx g new
    | l =>
      let s := s.setReg PG.rfx g (putBit new 0 false)
      (l.foldl (fun s b => s.setBit PG.rfx (R.RULE_STS r) b true) s).irq PG.rfx 6
  else s.setReg PG.rfx g new

/-- R201: a write of RFX_OUT_CFG: ACT_LOW changes only while OUT_EN = 0. -/
def State.outCfgWrite (s : State) (w : Wr) : State :=
  let old := s.reg PG.rfx w.reg
  let new := s.wouldBe PG.rfx w
  if bitAt old 0 ∧ bitAt old 1 ≠ bitAt new 1 then
    (s.setReg PG.rfx w.reg (putBit new 1 (bitAt old 1))).logWr PG.rfx w .state
  else s.setReg PG.rfx w.reg new

/-- R207: a self-test starts; one that runs already ignores the command. -/
def State.selftestStart (s : State) : State :=
  if s.bit PG.rfx R.RFX_STS 8 then s else s.setBit PG.rfx R.RFX_STS 8 true

/-- R203: REARM. -/
def State.rearm (s : State) (w : Wr) : State :=
  if !s.deadman then s
  else if s.rfx.hbBack then s.setBit PG.rfx R.RFX_STS 4 false
  else s.logWr PG.rfx w .state

/-- R206: a word of the rule store is written: it is updated in all three copies. -/
def State.eccWritten (s : State) (word : Nat) : State :=
  s.rfxUpd fun x => { x with eccBad := x.eccBad.filter fun b => b.2 != word }

/-- R176: a write to register `k` of rule `r`: of an enabled rule, only its disabling and its status are written. -/
def State.ruleWrite (s : State) (r k : Nat) (w : Wr) : State :=
  if k < 0x48 ∧ s.bit PG.rfx (R.RULE_CTL r) 0 ∧ (k ≠ 0 ∨ bitAt (s.wouldBe PG.rfx w) 0) then s.logWr PG.rfx w .state
  else
    let s := s.eccWritten (16 * r + k / 8)
    if k = 0 then s.ruleCtlWrite r w else s.plainWrite PG.rfx w

/-- A write to a block register of the RFX page (R176, R209). -/
def State.rfxWrite (s : State) (w : Wr) : State :=
  let o := w.reg
  if 0x1000 ≤ o then
    let r := (o - 0x1000) / 0x80
    if 256 ≤ r then s else s.ruleWrite r ((o - 0x1000) % 0x80) w
  else if o = R.RFX_CMD then
    let s := if bitAt w.val 0 then s.selftestStart else s
    if bitAt w.val 1 then s.rearm w else s
  else if R.RFX_OUT_CFG 0 ≤ o ∧ o < R.RFX_OUT_CFG 32 then s.outCfgWrite w
  else if o = R.RFX_OUT_FAULT then (s.plainWrite PG.rfx w).outFollow
  else s.plainWrite PG.rfx w

/-- R208: actions of a reset of the RFX page. -/
def State.rfxPageReset (s : State) : State :=
  let s := s.rfxUpd fun x => { x with
    rules := [], marks := x.marks, maskedAt := Vector.replicate 3 [], resync := none, stuck := [], eccBad := [] }
  let s := (List.range 256).foldl (fun s r =>
    (s.setReg PG.rfx (R.RULE_STS r) (s.reg PG.rfx (R.RULE_STS r) &&& 0xFF00)).setReg PG.rfx (R.RULE_CNT r) 0) s
  let s := (s.setReg PG.rfx R.RFX_TMR_CNT 0).setReg PG.rfx R.RFX_CNT0 0
  s.setFld PG.rfx R.RFX_STS 0 4 0

/-! ### Lanes (R205 to R207) -/

/-- R205: the signatures are compared. With three lanes running the minority is masked; with two, each disagreement is
counted; with one there is nothing to compare. -/
def State.voterCheck (s : State) (minority : Option (Fin 3)) : State :=
  match minority with
  | none => s
  | some l =>
    match popCount 3 s.lanesOut with
    | 0 => s.laneMask l
    | 1 => s.bump PG.rfx R.RFX_TMR_CNT 0 16
    | _ => s

/-- R205: a masked lane's copy is complete: it rejoins. -/
def State.laneResync (s : State) : State :=
  match s.rfx.resync with
  | none => s
  | some l =>
    let s := (s.rfxUpd fun x => { x with
      resync := none, eccBad := x.eccBad.filter fun b => b.1 != l }).bump PG.rfx R.RFX_TMR_CNT 16 16
    (s.setBit PG.rfx R.RFX_STS l.val false).reflexRec { kind := 7, cause := 10, lane := l.val }

/-- R206: the other two copies of a lane's word agree: both lanes run, and neither copy of the word is in error. -/
def State.eccAgree (s : State) (b : Fin 3 × Nat) : Bool :=
  (List.finRange 3).all fun q => q == b.1 || (!s.laneOut q && !s.rfx.eccBad.contains (q, b.2))

/-- R206: an uncorrectable word is rewritten from the other two copies when they agree, counted and reported; until then it
stands. -/
def State.eccRewrite (s : State) (b : Fin 3 × Nat) : State :=
  if s.rfx.eccBad.contains b && s.eccAgree b then
    let s := s.rfxUpd fun x => { x with eccBad := x.eccBad.erase b }
    (s.bump PG.rfx R.RFX_TMR_CNT 48 16).reflexRec { kind := 7, cause := 11, lane := b.1.val }
  else s

/-- R206: the walker passes over the copies: it meets an error in a word of a lane's copy, or none, and rewrites every
uncorrectable word that it can. -/
def State.eccWalk (s : State) (word : Option (Fin 3 × Fin 20480)) (uncorr : Bool) : State :=
  let s := match word with
    | none => s
    | some (l, w) =>
      if !uncorr then s.bump PG.rfx R.RFX_TMR_CNT 32 16
      else s.rfxUpd fun x => { x with eccBad := if x.eccBad.contains (l, w.val) then x.eccBad else x.eccBad ++ [(l, w.val)] }
  s.rfx.eccBad.foldl (fun s b => s.eccRewrite b) s

/-! ### Commands of the table -/

/-- A 64-bit write to a block register of the RFX page. -/
def State.rfxWr (s : State) (ini : Initiator) (off : Nat) (v : Word) : State :=
  s.gate PG.rfx (.full ini off v) fun s => s.rfxWrite (.full ini off v)

/-- A 64-bit write to a block register of the TCAL page. -/
def State.tcalWr (s : State) (ini : Initiator) (off : Nat) (v : Word) : State :=
  s.gate PG.tcal (.full ini off v) fun s => s.tcalWrite (.full ini off v)

/-- RULE_ENABLE (R184): a write of RULE_CTL. -/
def execRuleEnable (ini : Initiator) (r : Fin 256) (v : Word) (s : State) : Res := s.ends (s.rfxWr ini (R.RULE_CTL r) v)

/-- RULE_DISABLE (R176): a write of RULE_CTL. -/
def execRuleDisable (ini : Initiator) (r : Fin 256) (v : Word) (s : State) : Res := s.ends (s.rfxWr ini (R.RULE_CTL r) v)

/-- RULE_INPUT (R177 to R182, R205). -/
def execRuleInput (cyc : RuleCycle) (s : State) : Res :=
  s.ends (s.ifOn PG.rfx fun s => match cyc.src with
    | .front l => s.frontCycle l cyc.fault
    | .trip m => s.tripInput m cyc.fault)

/-- PULSE_END (R183): the timer has run out. -/
def execPulseEnd (o : Fin 32) (s : State) : Res :=
  s.ends (s.ifOn PG.rfx fun s => match s.rfx.pulse.get o with
    | none => s
    | some e => if before s.dtc e then s else s.rfxUpd fun x => { x with pulse := x.pulse.set o none })

/-- RFX_CRC_RESULT (R187 to R190). -/
def execRfxCrcResult (p : Fin 8) (s : State) : Res := s.ends (s.ifOn PG.rfx fun s => s.rfxCrc p)

/-- TCAL_SW_GO (R197). -/
def execTcalSwGo (ini : Initiator) (s : State) : Res := s.ends (s.tcalWr ini R.TCAL_SW_GO 1)

/-- TCAL_FLUSH (R198). -/
def execTcalFlush (ini : Initiator) (v : Word) (s : State) : Res := s.ends (s.tcalWr ini R.TCAL_FLUSH v)

/-- REARM (R203): a write of RFX_CMD. -/
def execRearm (ini : Initiator) (s : State) : Res := s.ends (s.rfxWr ini R.RFX_CMD 2)

/-- SELFTEST (R207): a write of RFX_CMD. -/
def execSelftest (ini : Initiator) (s : State) : Res := s.ends (s.rfxWr ini R.RFX_CMD 1)

/-- SELFTEST_DONE (R207). -/
def execSelftestDone (fail : Bool) (s : State) : Res :=
  s.ends (s.ifOn PG.rfx fun s =>
    if !s.bit PG.rfx R.RFX_STS 8 then s
    else
      let s := s.setBit PG.rfx R.RFX_STS 8 false
      if fail then (s.setBit PG.rfx R.RFX_STS 9 true).irq PG.rfx 4 else s)

/-- VOTER_SIGNATURE_CHECK (R205). -/
def execVoterSignatureCheck (minority : Option (Fin 3)) (s : State) : Res :=
  s.ends (s.ifOn PG.rfx fun s => s.voterCheck minority)

/-- LANE_RESYNC_DONE (R205). -/
def execLaneResyncDone (s : State) : Res := s.ends (s.ifOn PG.rfx fun s => s.laneResync)

/-- ECC_WALK (R206): what the walker meets in one pass. -/
def execEccWalk (word : Option (Fin 3 × Fin 20480)) (uncorr : Bool) (s : State) : Res :=
  s.ends (s.ifOn PG.rfx fun s => s.eccWalk word uncorr)

/-- OUTPUT_FAULT (R202): of an output that is driven. -/
def execOutputFault (o : Fin 32) (s : State) : Res :=
  s.ends (s.ifOn PG.rfx fun s =>
    if s.outDark o then s else s.outFault o)

/-- REFLEX_RECORD_DRAIN (R200). -/
def execReflexRecordDrain (s : State) : Res := s.ends s.reflexDrain

/-- R205: PLL_LOCK_LOSS: a PLL (0 core, 1 reflex, 2 host, 3 HBM) has lost lock: the device has detected the fault and masks
nothing. -/
def execPllLockLoss (pll : Fin 4) (s : State) : Res :=
  s.ends { s with unlocked := if s.unlocked.contains pll then s.unlocked else s.unlocked ++ [pll] }

end Sys2Proof.Machine
end

