-- ==== Sys2Proof/Machine/Twin.lean ====
section
/-!
DEFINITION. Machine/Twin.lean: the Woeth link's receiver, the roles of a twin pair and the alive pair, takeover, mirrored
identities, comparison (R478 to R500), and the core heartbeat with its dead-man (R31, R203, R486).
-/

namespace Sys2Proof.Machine

/-! ### Roles (R486 to R494) -/

/-- R488, R526: TWIN_SEL is high. -/
def State.twinSel (s : State) : Bool := s.bit PG.pwc R.PWC_STRAP 0

/-- R489, R495: a change of ROLE; bit 31 of both LOC_ID counters follows it. -/
def State.setRole (s : State) (r : Nat) : State :=
  let s := s.setFld PG.wth R.WTH_STS 0 2 r
  if r = 0 then s
  else (s.setBit PG.loc R.LOC_ID 31 (r != 3)).setBit PG.loc R.LOC_ID 63 (r != 3)

/-- R486: WOETH_ALIVE_IN has shown no edge for 1 µs. -/
def State.aliveStatic (s : State) : Bool :=
  match s.twin.aliveAt with
  | none => true
  | some t => decide (1000 ≤ (s.dtc - t).toNat)

/-- R489: no peer heartbeat for 4 µs, or for PAIR_WAIT_US since EN if none was ever received. -/
def State.peerSilent (s : State) : Bool :=
  match s.twin.hbAt with
  | some t => decide (4000 ≤ (s.dtc - t).toNat)
  | none => decide (s.fld PG.wth R.WTH_CTL 16 16 * 1000 ≤ (s.dtc - s.twin.since).toNat)

/-- R489: no back-off is running. -/
def State.backoffOver (s : State) : Bool :=
  match s.twin.backoff with
  | none => true
  | some t => atOrAfter s.dtc t

/-- R489: a standby claims; ALIVE_OUT toggles from now on. -/
def State.claim (s : State) : State := (s.twinUpd fun t => { t with claimAt := s.dtc, backoff := none }).setRole 2

/-- R489: a standby whose peer is silent claims. -/
def State.claimIfSilent (s : State) : State :=
  if s.role = 1 ∧ s.peerSilent ∧ s.aliveStatic ∧ s.backoffOver then s.claim else s

/-- R488, R489: a claim is withdrawn. -/
def State.withdraw (s : State) : State :=
  let n := if s.twinSel then 60000 else 20000
  let s := s.twinUpd fun t => { t with backoff := some (s.dtc + wOfNat n) }
  (s.bump PG.wth R.WTH_CNT0 32 16).setRole 1

/-- R493: window-chain items in flight fail with FAIL_TWIN while their chains run on; unsent stream data is discarded. -/
def State.twinDrop (s : State) : State :=
  let s := (s.res.chains.toList.flatten).foldl (fun s c => match c.item with
    | some i => s.closeItem i .failTwin c.win.k
    | none => s) s
  (List.finRange 2).foldl (fun s q => s.netUpd q fun n => { n with sendq := [] }) s

/-- R491: an enabled stream of a device that becomes active sends its first datagram, with RESTART, empty if no records
wait. -/
def State.streamFirst (s : State) (q : Fin 2) (st : Fin 16) : State :=
  if !s.bit (PG.net q) (R.STR_CTL st) 0 then s
  else
    let n := (s.net.get q).sendq.length
    let s := s.streamSend q st true
    if n < (s.net.get q).sendq.length ∨ !s.netLink q then s
    else
      let seq := s.fld (PG.net q) (R.STR_SEQ st) 0 32
      let d : Datagram := { st, seq, flags := 7, recOfs := 0xFFFF, records := 0, recIndex := 0, payload := [], wins := [] }
      (s.setReg (PG.net q) (R.STR_SEQ st) (wOfNat ((seq + 1) % 2 ^ 32))).netUpd q fun x =>
        { x with sendq := x.sendq ++ [d], restart := x.restart.set st false }

/-- R492: windows whose records wait in rings with NET = 1. -/
def State.replayCount (s : State) : Nat :=
  ((List.range 32).map fun k =>
    if s.bit PG.res (R.RING_CTL k) 2 then ((s.res.marks.toList.getD k []).filter RecMark.lastOfWindow).length else 0).sum

/-- R495: a LOC_ID counter on entering ACTIVE: the peer's next ID if that is ahead. -/
def State.idLoad (s : State) (lo : Nat) : State :=
  let own := s.fld PG.loc R.LOC_ID lo 32
  let peer := s.fld PG.wth R.WTH_PEER_ID lo 32
  if 0 < sdiff 32 peer own then s.setFld PG.loc R.LOC_ID lo 32 peer else s

/-- R112, R489, R491, R492, R495: the device becomes ACTIVE. -/
def State.activate (s : State) : State :=
  let take := s.twin.peerRole = 3
  let n := s.replayCount
  let s := ((s.setRole 3).idLoad 0).idLoad 32
  let s := if take then
      let s := (s.bump PG.wth R.WTH_CNT0 0 16).setBit PG.wth R.WTH_STS 8 true
      ((s.irq PG.wth 0).twinUpd fun t => { t with takeovers := t.takeovers + 1 }).addCnt PG.wth R.WTH_CNT1 16 16 n
    else s
  (List.finRange 2).foldl (fun s q =>
    let s := s.netUpd q fun x => { x with restart := Vector.replicate 16 true }
    (List.finRange 16).foldl (fun s st => s.streamFirst q st) s) s

/-- R488, R489: the claim window has passed without a peer edge. -/
def State.claimEnd (s : State) : State :=
  let n := if s.twinSel then 1000 else 500
  if s.role = 2 ∧ n ≤ (s.dtc - s.twin.claimAt).toNat then s.activate else s

/-- R486, R489: an edge of WOETH_ALIVE_IN. -/
def State.aliveEdge (s : State) : State :=
  let s := s.twinUpd fun t => { t with aliveAt := some s.dtc }
  if s.role = 2 then s.withdraw else s

/-- R489, R498: no heartbeat for 4 µs. -/
def State.peerLost (s : State) : State :=
  let s := if s.bit PG.wth R.WTH_STS 3 ∧ s.peerSilent then
      ((s.setBit PG.wth R.WTH_STS 3 false).setBit PG.wth R.WTH_STS 10 true).irq PG.wth 2
    else s
  s.claimIfSilent

/-- R494: the active device hands over, or ignores the command. -/
def State.yield (s : State) : State :=
  let fresh : Bool := match s.twin.hbAt with
    | some t => decide ((s.dtc - t).toNat < 4000)
    | none => false
  if s.role = 3 ∧ fresh ∧ s.twin.peerRole = 1 then
    let s := (s.setRole 1).bump PG.wth R.WTH_CNT0 16 16
    let s := (List.finRange 2).foldl (fun s q => s.netUpd q fun n => { n with sendq := [] }) s
    let w := fun o => ((List.range 4).map fun i => (nfld (s.twin.ownSent.toList.getD (o + i) 0) 0 16) <<< (16 * i)).sum
    s.twinSend 5 [1, w 0, w 4]
  else s.setBit PG.wth R.WTH_STS 15 true

/-! ### The receiver (R481 to R485) -/

/-- R481: the fields of a received frame. -/
structure TwinRx where
  type : Nat
  seq : Nat
  ack : Nat
  words : List Nat
  deriving DecidableEq, Repr

/-- R482: LEN is one that the type allows. -/
def twinLenOk (type len : Nat) : Bool :=
  match type with
  | 1 => len == 8
  | 2 => len == 3
  | 3 => len % 4 == 0 && len != 0
  | 4 => len % 2 == 0 && len != 0
  | 5 => len == 3
  | 6 => len == 1
  | _ => false

/-- R481: a frame whose length and type are right. -/
def twinParse (f : List Byte) : Option TwinRx :=
  let h := leNat (f.take 7)
  let len := nfld h 8 8
  if f.length = 7 + 8 * len ∧ twinLenOk (nfld h 0 8) len then
    some { type := nfld h 0 8, seq := nfld h 16 16, ack := nfld h 32 16
           words := (List.range len).map fun i => leNat ((f.drop (7 + 8 * i)).take 8) }
  else none

/-- R483: a NAK for the SEQ expected. -/
def State.sendNak (s : State) : State := s.twinPlain 6 [(s.twin.rseq + 1) % 2 ^ 16]

/-- R483: frames that the peer acknowledges leave the replay buffer. -/
def State.twinAck (s : State) (ack : Nat) : State :=
  let s := s.twinUpd fun t => { t with replay := t.replay.filter fun f => decide (sdiff 16 ack f.1 < 0) }
  s.twinFlush s.twin.queue.length

/-- R481 to R483: a frame of a type arrives: a bad one is discarded and answered with a NAK; a sequenced one is taken only in
order, a gap being answered with a NAK. -/
def State.twinRx (s : State) (type : Nat) (f : List Byte) (crcOk : Bool) (act : State → TwinRx → State) : State :=
  if !s.linkUp then s
  else
    let bad := (s.bump PG.wth R.WTH_CNT0 48 16).sendNak
    if !crcOk then bad
    else
      match twinParse f with
      | none => bad
      | some r =>
        if r.type ≠ type then bad
        else
          let s := s.twinAck r.ack
          if type = 3 ∨ type = 4 ∨ type = 5 then
            if s.twin.resync ∨ r.seq = (s.twin.rseq + 1) % 2 ^ 16 then
              act (s.twinUpd fun t => { t with rseq := r.seq, resync := false }) r
            else if 0 < sdiff 16 r.seq s.twin.rseq then s.sendNak else s
          else act s r

/-- R485: round trip and offset of a heartbeat that answers one of ours. -/
def State.twinOffset (s : State) (w0 w3 w4 : Word) : State :=
  if w3 = 0 ∧ w4 = 0 then s
  else
    let rtt := (s.dtc - w3) - (w0 - w4)
    let ofs := openDiv 16 ((w4 - w3) - (s.dtc - w0)).toInt 2
    let s := s.twinUpd fun t => { t with ofs := (ofs :: t.ofs).take 16 }
    let s := s.setReg PG.wth R.WTH_PEER_RTT (wOfNat (rtt.toNat % 2 ^ 32))
    s.setReg PG.wth R.WTH_PEER_OFS (wOfInt (openDiv 17 s.twin.ofs.sum s.twin.ofs.length))

/-- R484, R485, R489: a HEARTBEAT frame. -/
def State.heartbeatRx (s : State) (r : TwinRx) : State :=
  let w := fun i => wOfNat (r.words.getD i 0)
  let s := match s.twin.hbAt with
    | some t => if 1140 < (s.dtc - t).toNat then s.bump PG.wth R.WTH_CNT1 0 16 else s
    | none => s
  let role := bf (w 1) 0 2
  let s := s.twinUpd fun t => { t with hbAt := some s.dtc, hbW0 := w 0, peerRole := role }
  let s := s.twinOffset (w 0) (w 3) (w 4)
  let s := (s.setBit PG.wth R.WTH_STS 3 true).setBit PG.wth R.WTH_STS 6 (role == 3)
  let s := s.setReg PG.wth R.WTH_PEER_ID (w 2)
  if s.role = 1 ∧ role = 1 ∧ !s.twinSel ∧ s.aliveStatic ∧ s.backoffOver then s.claim
  else if s.role = 2 ∧ 2 ≤ role then s.withdraw
  else if s.role = 3 ∧ role = 3 ∧ s.twinSel then
    (((s.setRole 1).setBit PG.wth R.WTH_STS 11 true).irq PG.wth 3).twinDrop
  else s

/-- R496: a TIME frame is compared with the own base of its index. -/
def State.timeRx (s : State) (r : TwinRx) : State :=
  let w0 := wOfNat (r.words.getD 0 0)
  let p := baseOf (bf w0 0 3)
  let own := wOfNat (r.words.getD 1 0) - s.reg PG.wth R.WTH_PEER_OFS
  let (x, _, s) := s.lookPos p (ietOf own)
  let far := (s.reg PG.wth R.WTH_PTB_TOL).toNat < (x - wOfNat (r.words.getD 2 0)).toInt.natAbs
  if far ∨ s.ptbSt p ≠ bf w0 3 2 ∨ s.twin.discs.get p % 256 ≠ bf w0 8 8 then
    (s.setBit PG.wth R.WTH_STS 12 true).irq PG.wth 4
  else s

/-- R495: the tracks that may answer a CREATE delta: those of the candidate slots of its cell. -/
def State.aliasFind (s : State) (body : Nat) : Option (Nat × Nat × Track) × State :=
  let port := nfld body 32 3
  let cx := s.cellOf ((sgn 16 (nfld body 64 16) / 16).toNat)
  let cy := s.cellOf ((sgn 16 (nfld body 80 16) / 16).toNat)
  let (h0, h1) := cellSlots port cx cy
  [h0, h1].foldl (fun (acc : Option (Nat × Nat × Track) × State) i =>
    let (t, s) := acc.2.slotRead i
    match t with
    | none => (acc.1, s)
    | some t =>
      if t.inCell port cx cy then
        match s.aliasErr body t with
        | none => (acc.1, s)
        | some e => match acc.1 with
          | none => (some (e, i, t), s)
          | some b => (if e < b.1 then some (e, i, t) else some b, s)
      else (acc.1, s)) (none, s)

/-- R495: the LIVE object that best answers an OBJ_NEW delta. -/
def State.aliasObj (s : State) (body : Nat) : Option (Nat × Nat × Obj) × State :=
  let (l, s) := s.portObjects (baseOf (nfld body 32 3))
  let x := sgn 16 (nfld body 64 16)
  let y := sgn 16 (nfld body 80 16)
  let err := fun (o : Obj) => max (openDiv 18 (o.x0 + o.x1) 2 - x).natAbs (openDiv 18 (o.y0 + o.y1) 2 - y).natAbs
  let c := l.filter fun q => q.2.st == 1 && decide (err q.2 ≤ s.fld PG.loc R.LOC_MATCH 0 16)
  (c.foldl (fun (b : Option (Nat × Nat × Obj)) q => match b with
    | none => some (err q.2, q.1, q.2)
    | some b => if err q.2 < b.1 then some (err q.2, q.1, q.2) else some b) none, s)

/-- R495: a CREATE or OBJ_NEW delta of the peer finds its match, or waits in the pending list. -/
def State.aliasDelta (s : State) (body : Nat) : State :=
  let id := nfld body 0 32
  let wait := fun (s : State) =>
    if 1024 ≤ s.twin.pend.length then s.bump PG.wth R.WTH_CNT1 32 16
    else s.twinUpd fun t => { t with pend := t.pend ++ [{ body, until_ := s.dtc + 10000 }] }
  match nfld body 35 3 with
  | 0 =>
    match s.aliasFind body with
    | (some (_, i, t), s) => (s.slotWrite i { t with id }).bump PG.wth R.WTH_CNT2 0 32
    | (none, s) => wait s
  | 4 =>
    match s.aliasObj body with
    | (some (_, i, o), s) => (s.writeNat none (s.objAddr i) 64 { o with id }.toSlot).bump PG.wth R.WTH_CNT2 0 32
    | (none, s) => wait s
  | _ => s

/-- The groups of `n` of a list. -/
def groups (n : Nat) (l : List Nat) : List (List Nat) :=
  (List.range (l.length / n)).map fun i => (l.drop (n * i)).take n

/-- R495: a LOCUS frame. -/
def State.locusRx (s : State) (r : TwinRx) : State :=
  if (s.role = 1 ∨ s.role = 2) ∧ s.alive PG.loc then
    (groups 4 r.words).foldl (fun s g =>
      s.aliasDelta (((List.range 4).map fun i => g.getD i 0 <<< (64 * i)).sum)) s
  else s

/-- R495: pending deltas that have found no match in 10 µs are counted. -/
def State.aliasExpire (s : State) : State :=
  let gone := s.twin.pend.filter fun d => atOrAfter s.dtc d.until_
  (s.twinUpd fun t => { t with pend := t.pend.filter fun d => before s.dtc d.until_ }).addCnt PG.wth R.WTH_CNT1 32 16 gone.length

/-- R492: the network consumers of a standby's rings advance past the windows reported SENT: the streams build, number and
drop their datagrams (R112). -/
def State.ringsAdvance (s : State) : State :=
  if s.role = 1 ∨ s.role = 2 then
    (List.finRange 2).foldl (fun s q => (List.finRange 16).foldl (fun s st => s.streamSend q st true) s) s
  else s

/-- R492, R497: one entry of a LEDGER frame. -/
def State.ledgerEntry (s : State) (g : List Nat) : State :=
  let w0 := wOfNat (g.getD 0 0)
  let w1 := wOfNat (g.getD 1 0)
  let p := bf w0 32 3
  let win := bf w0 0 32
  let s := if bitAt w0 35 then
      (s.setFld PG.wth (R.WTH_P_SENT p) 0 32 win).twinUpd fun t => { t with sentPorts := NSet.add t.sentPorts p }
    else s.setFld PG.wth (R.WTH_P_SENT p) 32 32 win
  if (s.role = 1 ∨ s.role = 2) ∧ s.bit PG.wth R.WTH_CTL 1 ∧ s.winMode (baseOf p) = 2 then
    let e : WinSum := { port := p, win, admitted := bf w1 0 32, objects := bf w1 32 16, corners := bf w1 48 16 }
    match s.cmpEntry e with
    | some s => s
    | none => s.twinUpd fun t => { t with cmp := t.cmp ++ [(e, s.dtc + 10000000)] }
  else s

/-- R492, R497: a LEDGER frame. -/
def State.ledgerRx (s : State) (r : TwinRx) : State := ((groups 2 r.words).foldl State.ledgerEntry s).ringsAdvance

/-- R497: an entry that has waited 10 ms for the own record counts as a difference. -/
def State.cmpExpire (s : State) : State :=
  let gone := s.twin.cmp.filter fun e => atOrAfter s.dtc e.2
  gone.foldl (fun s _ => s.cmpDiff) (s.twinUpd fun t => { t with cmp := t.cmp.filter fun e => before s.dtc e.2 })

/-- R494: an ARB frame: at a handover the standby claims at once. -/
def State.arbRx (s : State) (r : TwinRx) : State :=
  if (r.words.getD 0 0).testBit 0 then
    let s := (List.range 8).foldl (fun s p =>
      let v := nfld (r.words.getD (1 + p / 4) 0) (16 * (p % 4)) 16
      let cur := s.fld PG.wth (R.WTH_P_SENT p) 0 32
      if s.twin.sentPorts.contains p then s.setFld PG.wth (R.WTH_P_SENT p) 0 32 (low 32 ((cur : Int) + sdiff 16 v cur))
      else s) s
    let s := s.ringsAdvance
    if s.role = 1 then s.claim else s
  else s

/-- R483: the peer asks for every frame from a SEQ on. -/
def State.nakRx (s : State) (r : TwinRx) : State :=
  let q := nfld (r.words.getD 0 0) 0 16
  let s := s.bump PG.wth R.WTH_CNT2 48 16
  (s.twin.replay.filter fun f => decide (0 ≤ sdiff 16 f.1 q)).foldl (fun s f => s.twinWire f.2) s

/-! ### What the device sends (R482, R484) -/

/-- R484: OUT_DRIVEN: RFX_OUT0–31 are driven as configured. -/
def State.outDriven (s : State) : Bool := !s.deadman && (s.role == 0 || s.role == 3)

/-- R486: WOETH_ALIVE_OUT toggles; it is low at every other time. -/
def State.aliveOut (s : State) : Bool := !s.deadman && (s.role == 2 || s.role == 3)

/-- R482, R484: a heartbeat goes out. -/
def State.heartbeatTx (s : State) : State :=
  let s := s.twinUpd fun t => { t with wire := [] }
  s.twinPlain 1 [s.dtc.toNat, s.role + b2n s.outDriven <<< 2 + s.twin.takeovers.toNat <<< 8, (s.reg PG.loc R.LOC_ID).toNat,
    s.twin.hbW0.toNat, (s.twin.hbAt.getD 0).toNat, 0, 0, 0]

/-- R482: a TIME frame of a running base goes out. DESIGN CHOICE (log 223): the 8-bit count of discontinuity records wraps; R482
states neither that nor that it saturates. -/
def State.timeTx (s : State) (p : Fin 8) : State :=
  if !s.ptbRunning p then s
  else s.twinPlain 2 [p.val + s.ptbSt p <<< 3 + (s.twin.discs.get p % 256) <<< 8, s.dtc.toNat, (s.pos p).toNat]

/-! ### The link (R479, R500) -/

/-- R479: the link goes down. -/
def State.linkDrop (s : State) : State :=
  if s.bit PG.wth R.WTH_STS 2 then
    (((s.setBit PG.wth R.WTH_STS 2 false).bump PG.wth R.WTH_CNT2 32 16).irq PG.wth 6)
  else s

/-- R479: the link has retrained. -/
def State.linkRise (s : State) : State :=
  if !s.alive PG.wth then s
  else
    let s := (s.setBit PG.wth R.WTH_STS 2 true).twinUpd fun t => { t with resync := true }
    s.twinFlush s.twin.queue.length

/-! ### Registers (R498 to R500) -/

/-- R498, R499: a write of WTH_CTL. -/
def State.wthCtl (s : State) (w : Wr) : State :=
  let v := s.wouldBe PG.wth w
  if s.bit PG.wth R.WTH_CTL 0 then
    if bitAt v 0 then s.logWr PG.wth w .state
    else (s.setReg PG.wth R.WTH_CTL v).setRole 0
  else if bitAt v 0 then
    if bf v 16 16 = 0 ∨ bf v 32 16 = 0 then
      (s.setReg PG.wth R.WTH_CTL (putBit v 0 false)).setBit PG.wth R.WTH_STS 14 true
    else ((s.setReg PG.wth R.WTH_CTL v).twinUpd fun t => { t with since := s.dtc }).setRole 1
  else s.setReg PG.wth R.WTH_CTL v

/-- R498: a write to page 0x090. -/
def State.wthWrite (s : State) (w : Wr) : State :=
  let o := w.reg
  if o = R.WTH_CTL then s.wthCtl w
  else if o = R.WTH_CMD then (if bitAt w.val 0 then s.yield else s)
  else if (o = R.WTH_CMP_TOL ∨ o = R.WTH_PTB_TOL) ∧ s.bit PG.wth R.WTH_CTL 0 then s.logWr PG.wth w .state
  else s.plainWrite PG.wth w

/-- R500: a reset of page 0x090. -/
def State.wthPageReset (s : State) : State :=
  let s := s.linkDrop.twinUpd fun t => { t with replay := [], queue := [], pend := [] }
  [R.WTH_CNT0, R.WTH_CNT1, R.WTH_CNT2].foldl (fun s r => s.setReg PG.wth r 0) s

/-- A register write to page 0x090 through the common gate. -/
def State.wthWr (s : State) (ini : Initiator) (off : Nat) (v : Word) : State :=
  let w := Wr.full ini off v
  s.gate PG.wth w fun s => s.wthWrite w

/-! ### The core heartbeat and the dead-man (R31, R203, R486, R522) -/

/-- R522: the PWC masks the dead-man from S5 to the end of X4, and before the first exit. -/
def State.deadmanMasked (s : State) : Bool :=
  match s.pwr.phase with
  | .active | .watch | .rollback => false
  | .entering => s.pwr.step == 5
  | _ => true

/-- R31, R489, R493: the core domain sends a heartbeat pulse. -/
def State.coreBeat (s : State) : State :=
  if s.isOff PG.res then s
  else
    let s := { s with rfx := { s.rfx with hbAt := s.dtc, hbBack := true } }
    if s.twin.demote then
      let s := (s.setBit PG.wth R.WTH_STS 9 true).irq PG.wth 1
      (s.twinUpd fun t => { t with demote := false }).twinDrop
    else s

/-- R31, R203, R486, R489: no pulse for 1.5 µs: the outputs are tri-stated, the NET transmitters go idle, ALIVE_OUT stops. -/
def State.deadmanFire (s : State) : State :=
  if s.deadmanMasked || (s.dtc - s.rfx.hbAt).toNat < 1500 || (s.deadman && !s.rfx.hbBack) then s
  else
    let s := (s.setBit PG.rfx R.RFX_STS 4 true).irq PG.rfx 1
    let s := { s with rfx := { s.rfx with hbBack := false } }
    if s.role = 3 then (s.setRole 1).twinUpd fun t => { t with demote := true } else s

/-! ### Commands -/

/-- R31: CORE_HEARTBEAT. -/
def execCoreHeartbeat (s : State) : Res := s.ends s.coreBeat

/-- R31: DEADMAN_FIRE. -/
def execDeadmanFire (s : State) : Res := s.ends s.deadmanFire

/-- R499: WTH_ENABLE, a write of WTH_CTL. -/
def execWthEnable (ini : Initiator) (v : Word) (s : State) : Res := s.ends (s.wthWr ini R.WTH_CTL v)

/-- R489: WTH_DISABLE, a write of WTH_CTL. -/
def execWthDisable (ini : Initiator) (v : Word) (s : State) : Res := s.ends (s.wthWr ini R.WTH_CTL v)

/-- R494: YIELD. -/
def execYield (ini : Initiator) (s : State) : Res := s.ends (s.wthWr ini R.WTH_CMD 1)

/-- R484: HEARTBEAT_SEND. -/
def execHeartbeatSend (s : State) : Res := s.ends s.heartbeatTx

/-- R482: TIME_SEND. -/
def execTimeSend (p : Fin 8) (s : State) : Res := s.ends (s.timeTx p)

/-- R485: HEARTBEAT. -/
def execHeartbeat (frame : List Byte) (crcOk : Bool) (s : State) : Res := s.ends (s.twinRx 1 frame crcOk State.heartbeatRx)

/-- R496: TIME. -/
def execTime (frame : List Byte) (crcOk : Bool) (s : State) : Res := s.ends (s.twinRx 2 frame crcOk State.timeRx)

/-- R495: LOCUS. -/
def execLocus (frame : List Byte) (crcOk : Bool) (s : State) : Res := s.ends (s.twinRx 3 frame crcOk State.locusRx)

/-- R492: LEDGER. -/
def execLedger (frame : List Byte) (crcOk : Bool) (s : State) : Res := s.ends (s.twinRx 4 frame crcOk State.ledgerRx)

/-- R494: ARB. -/
def execArb (frame : List Byte) (crcOk : Bool) (s : State) : Res := s.ends (s.twinRx 5 frame crcOk State.arbRx)

/-- R483: NAK. -/
def execNak (frame : List Byte) (crcOk : Bool) (s : State) : Res := s.ends (s.twinRx 6 frame crcOk State.nakRx)

/-- R479: WOETH_LINK_DOWN: a lane loses block lock. -/
def execWoethLinkDown (_lane : Fin 4) (s : State) : Res := s.ends s.linkDrop

/-- R479: WOETH_LINK_UP. -/
def execWoethLinkUp (s : State) : Res := s.ends s.linkRise

/-- R489: PEER_LOST. -/
def execPeerLost (s : State) : Res := s.ends s.peerLost

/-- R489: ALIVE_IN_EDGE. -/
def execAliveInEdge (s : State) : Res := s.ends s.aliveEdge

/-- R489: CLAIM_WINDOW_END. -/
def execClaimWindowEnd (s : State) : Res := s.ends s.claimEnd

/-- R488: BACKOFF_END. -/
def execBackoffEnd (s : State) : Res :=
  s.ends (if s.backoffOver then (s.twinUpd fun t => { t with backoff := none }).claimIfSilent else s)

/-- R495: ALIAS_EXPIRE. -/
def execAliasExpire (s : State) : Res := s.ends s.aliasExpire

/-- R497: CMP_ENTRY_TIMEOUT. -/
def execCmpEntryTimeout (s : State) : Res := s.ends s.cmpExpire

end Sys2Proof.Machine
end

