-- ==== Sys2Proof/Machine/Host.lean ====
section
/-!
DEFINITION. Machine/Host.lean: the host complex: harts and the machine timer, the PLIC, the PCIe link and its MSI-X table, the
boot flash and its command engine, the UART, GPIO and the TAP (R548 to R567).
-/

namespace Sys2Proof.Machine

/-- `s` with the host complex changed. -/
def State.hostUpd (s : State) (f : HostState → HostState) : State := { s with host := f s.host }

/-- A register write to a page through the common gate, given the page's rule for writes. -/
def State.wrTo (s : State) (page : Nat) (f : State → Wr → State) (ini : Initiator) (off : Nat) (v : Word) : State :=
  s.gate page (.full ini off v) fun s => f s (.full ini off v)

/-- R541: the level of the open debug session: 0 LOCKED, 1 OWNER, 2 RETURN. -/
def State.dbgLevel (s : State) : Nat := s.fld PG.sgr R.SGR_STS 4 2

/-! ### Harts (R548 to R552) -/

/-- R550: mtime. -/
def State.mtime (s : State) : Word := wOfNat (s.dtc.toNat * 2 / 125)

/-- R550: the timer interrupt of hart `h` is pending. -/
def State.timerDue (s : State) (h : Fin 8) : Bool := atOrAfter s.mtime (s.reg PG.host (R.HOST_MTIMECMP h))

/-- R550: hart `h` takes note of its timer. -/
def State.timerNote (s : State) (h : Fin 8) : State :=
  s.hostUpd fun x => { x with mtip := x.mtip.set h (s.timerDue h) }

/-- R551: a write of HOST_HART_START. -/
def State.hartStart (s : State) (w : Wr) : State :=
  let run := s.fld PG.host R.HOST_HART_STS 0 8
  let want := bf w.val 0 8
  let s := if want.testBit 0 || (List.range' 1 7).any (fun h => want.testBit h && run.testBit h) then s.logWr PG.host w .state
    else s
  (List.finRange 8).foldl (fun s (h : Fin 8) =>
    if h.val ≠ 0 ∧ want.testBit h ∧ ¬ run.testBit h then
      (s.setBit PG.host R.HOST_HART_STS h true).hostUpd fun x =>
        { x with start := x.start.set h (s.reg PG.host (R.HOST_BOOT h)), halted := x.halted.set h false }
    else s) s

/-- R552: a write to page 0x092. -/
def State.hostWrite (s : State) (w : Wr) : State :=
  if w.reg = R.HOST_HART_START then s.hartStart w
  else
    let s := s.plainWrite PG.host w
    if 0x1000 ≤ w.reg ∧ w.reg < 0x1040 then (List.finRange 8).foldl State.timerNote s else s

/-- R506: the harts halt for the handshake: cores 1–7, and for SLUMBER and DORMANT core 0 waits in WFI. -/
def State.hartsHalt (s : State) (deep : Bool) : State :=
  let run := s.fld PG.host R.HOST_HART_STS 0 8
  let s := (s.setFld PG.host R.HOST_HART_STS 1 7 0).hostUpd fun x => { x with held := x.held ||| (run &&& 0xFE) }
  if deep then s.setBit PG.host R.HOST_HART_STS 8 true else s

/-- R508: the harts that the handshake halted go on. -/
def State.hartsResume (s : State) : State :=
  let s := (s.setFld PG.host R.HOST_HART_STS 0 8 (s.fld PG.host R.HOST_HART_STS 0 8 ||| s.host.held)).setBit PG.host R.HOST_HART_STS 8 false
  s.hostUpd fun x => { x with held := 0 }

/-! ### Interrupts (R553) -/

/-- R553: the condition of a source. -/
def State.srcHigh (s : State) (n : Nat) : Bool :=
  if 1 ≤ n ∧ n ≤ 151 then
    (pageKind (n - 1)).isSome && !s.isOff (n - 1) && (s.reg (n - 1) R.PG_IRQ_RAW &&& s.reg (n - 1) R.PG_IRQ_EN) != 0
  else if 256 ≤ n ∧ n < 320 then s.bit PG.ldg (R.CQ_CTL (n - 256)) 1 && s.cqLevel (n - 256) != 0 && !s.isOff PG.ldg
  else if 320 ≤ n ∧ n < 352 then s.bit PG.gpio R.GPIO_IRQ_PEND (n - 320)
  else if 352 ≤ n ∧ n < 384 then s.bit PG.pcie R.PCIE_MSI_PEND (n - 352) && s.bit PG.pcie R.PCIE_STS 0
  else false

/-- R553: a source pends while its condition holds and no hart has claimed it. -/
def State.srcPends (s : State) (n : Nat) : Bool := s.srcHigh n && !s.host.claimed.contains n

/-- The enable bit of a source in a context. -/
def State.srcOn (s : State) (ctx n : Nat) : Bool := (Sp.get 0 s.host.enab (ctx * 32 + n / 32)).testBit (n % 32)

/-- The priority of a source (R553, 0 to 7). -/
def State.srcPrio (s : State) (n : Nat) : Nat := Sp.get 0 s.host.prio n

/-- The pending source of a context with the highest priority, the lowest of equals; 0 without one. -/
def State.plicBest (s : State) (ctx : Nat) : Nat :=
  (List.range' 1 1023).foldl (fun b n =>
    if s.srcPends n && s.srcOn ctx n && decide ((if b = 0 then 0 else s.srcPrio b) < s.srcPrio n) then n else b) 0

/-- R553: a context claims: the reply is the source. -/
def State.plicClaim (s : State) (ctx : Nat) : State :=
  let n := s.plicBest ctx
  let s : State := { s with reply := .data (wOfNat n) }
  if n = 0 then s else s.hostUpd fun x => { x with claimed := NSet.add x.claimed n }

/-- R553: a context completes a source that it has enabled. -/
def State.plicComplete (s : State) (ctx n : Nat) : State :=
  if s.srcOn ctx n then s.hostUpd fun x => { x with claimed := NSet.del x.claimed n } else s

/-- R553: a 32-bit read of the PLIC window at an offset. -/
def State.plicRead (s : State) (o : Nat) : Nat × State :=
  if o < 0x1000 then (s.srcPrio (o / 4), s)
  else if o < 0x1080 then
    (((List.range 32).map fun b => (b2n (s.srcPends ((o - 0x1000) / 4 * 32 + b))) <<< b).sum, s)
  else if 0x2000 ≤ o ∧ o < 0x2800 then
    let e := (o - 0x2000) % 0x80 / 4
    (Sp.get 0 s.host.enab ((o - 0x2000) / 0x80 * 32 + e), s)
  else if 0x20_0000 ≤ o ∧ o < 0x21_0000 then
    let c := (o - 0x20_0000) / 0x1000
    if o % 0x1000 = 0 then (s.host.thresh.toList.getD c 0, s)
    else if o % 0x1000 = 4 then
      let s := s.plicClaim c
      (match s.reply with | .data v => v.toNat | _ => 0, s)
    else (0, s)
  else (0, s)

/-- R553: a 32-bit write of the PLIC window at an offset. -/
def State.plicWrite (s : State) (o v : Nat) : State :=
  if o < 0x1000 then
    if o / 4 = 0 then s else s.hostUpd fun x => { x with prio := Sp.set 0 x.prio (o / 4) (v % 8) }
  else if 0x2000 ≤ o ∧ o < 0x2800 then
    let e := (o - 0x2000) % 0x80 / 4
    let v := v % 2 ^ 32
    let v := if e = 0 then v - v % 2 else v
    s.hostUpd fun x => { x with enab := Sp.set 0 x.enab ((o - 0x2000) / 0x80 * 32 + e) v }
  else if 0x20_0000 ≤ o ∧ o < 0x21_0000 then
    let c := (o - 0x20_0000) / 0x1000
    if o % 0x1000 = 0 then
      s.hostUpd fun x => { x with thresh := if h : c < 16 then x.thresh.set c (v % 8) else x.thresh }
    else if o % 0x1000 = 4 then s.plicComplete c (v % 2 ^ 32)
    else s
  else s

/-- The external interrupt line of a context. -/
def State.plicLine (s : State) (ctx : Nat) : Bool :=
  let n := s.plicBest ctx
  n != 0 && decide (s.host.thresh.toList.getD ctx 0 < s.srcPrio n)

/-! ### PCIe (R554 to R559) -/

/-- R559: a field of PCIE_ERR counts; ERR sets when it rises from 0. -/
def State.pcieErr (s : State) (lo : Nat) : State := s.bumpIrq0 PG.pcie R.PCIE_ERR lo 16 1

/-- Vectors that wait for their mask or for the link are sent when both allow it. -/
def State.msixFlush (s : State) : State :=
  (List.range 2048).foldl (fun s v =>
    if s.bit PG.pcie (R.PCIE_MSIX_PBA (v / 64)) (v % 64) && s.bit PG.pcie R.PCIE_STS 1 && !s.host.fmask &&
        !s.bit PG.pcie (R.PCIE_MSIX_TBL (2 * v + 1)) 32 then
      (s.setBit PG.pcie (R.PCIE_MSIX_PBA (v / 64)) (v % 64) false).msixSend v
    else s) s

/-- R559: the link comes up or goes down; speed and width are what the link partners have agreed on. -/
def State.pcieLink (s : State) (up : Bool) : State :=
  if up = s.bit PG.pcie R.PCIE_STS 1 then s
  else if up then
    if !s.alive PG.pcie || s.stopped PG.pcie then s
    else
      let (i, s) := s.takeFree
      let s := s.setFld PG.pcie R.PCIE_STS 2 3 (1 + Config.freeNat i % 5)
      let (i, s) := s.takeFree
      let s := s.setFld PG.pcie R.PCIE_STS 5 5 (2 ^ (Config.freeNat i % 4))
      ((s.setBit PG.pcie R.PCIE_STS 1 true).irq PG.pcie 0).msixFlush
  else (s.setFld PG.pcie R.PCIE_STS 1 9 0).irq PG.pcie 0

/-- R559: a write to page 0x091. -/
def State.pcieWrite (s : State) (w : Wr) : State :=
  if w.reg = R.PCIE_OB_BASE ∧ s.bit PG.pcie R.PCIE_STS 1 then s.logWr PG.pcie w .state
  else
    let s := s.plainWrite PG.pcie w
    if 0x8000 ≤ w.reg then s.msixFlush else s

/-- R558: a write of data to PCIE_MSI_ADDR by a device below the root port. -/
def State.msiDoorbell (s : State) (d : Nat) : State :=
  if d < 32 then s.setBit PG.pcie R.PCIE_MSI_PEND d true else s

/-- R558: a configuration request has waited 50 ms. -/
def State.cfgTimeout (s : State) : State :=
  match s.host.cfg with
  | none => s
  | some t =>
    if s.dtc.toNat < t + 50000000 then s
    else
      let s : State := { s with reply := .data (BitVec.allOnes 64) }
      (s.pcieErr 48).hostUpd fun x => { x with cfg := none }

/-! ### Boot flash (R530, R560 to R562) -/

/-- The byte of the flash at an address. -/
def State.flashByte (s : State) (a : Nat) : Byte :=
  match Sp.find s.mem.flash a with
  | some b => b
  | none => Config.flashByte s.mem.flashLog a

/-- Bytes of the flash. -/
def State.flashBytes (s : State) (a n : Nat) : List Byte := (List.range n).map fun j => s.flashByte (a + j)

/-- Bytes written to the flash by Saggar. -/
def State.flashPut (s : State) (a : Nat) : List Byte → State
  | [] => s
  | b :: r => State.flashPut { s with mem := { s.mem with flash := Sp.insert s.mem.flash a b } } (a + 1) r

/-- R562: a host command is refused: its opcode is denied or its range overlaps a protected one. -/
def State.xspiRefused (s : State) (op : Nat) (adr : Option Nat) (len : Nat) : Bool :=
  s.host.denied.contains op ||
    match adr with
    | none => false
    | some a => s.dbgLevel != 2 && s.host.prot.any fun r => decide (a < r.2) && decide (r.1 < a + max 1 len)

/-- R561, R562: a write of XSPI_GO. -/
def State.xspiGo (s : State) (w : Wr) : State :=
  let c := s.reg PG.xspi R.XSPI_CMD
  let len := min 256 (bf c 22 9)
  let adr := if bitAt c 16 then some (s.fld PG.xspi R.XSPI_ADDR 0 32) else none
  if s.bit PG.xspi R.XSPI_STS 0 then s.logWr PG.xspi w .busy
  else if s.xspiRefused (bf c 0 16) adr len then s.setBit PG.xspi R.XSPI_STS 2 true
  else
    let data := if bitAt c 31 then
        ((List.range 32).flatMap fun i => leBytes 8 (s.reg PG.xspi (R.XSPI_DATA i)).toNat).take len
      else []
    (s.setBit PG.xspi R.XSPI_STS 0 true).hostUpd fun x =>
      { x with xcmd := some (bf c 0 16, adr, data), poll := if bitAt c 32 then some s.dtc else none }

/-- Bytes put into the data buffer from its start. -/
def State.xspiFill (s : State) (l : List Byte) : State :=
  (List.range l.length).foldl (fun s i => s.setFld PG.xspi (R.XSPI_DATA (i / 8)) (8 * (i % 8)) 8 (l.getD i 0).toNat) s

/-- What a host command that carries data to the flash, or none, has made of the flash is the flash's own: bytes that Saggar
wrote outside the protected ranges are no longer known. -/
def State.flashDone (s : State) : State :=
  match s.host.xcmd with
  | none => s
  | some c =>
    let keep := fun (a : Nat) => s.host.prot.any fun r => decide (r.1 ≤ a) && decide (a < r.2)
    { s with mem := { s.mem with flash := s.mem.flash.filter fun x => keep x.1, flashLog := s.mem.flashLog ++ [c] } }

/-- R561: a command, and its polling, has ended; `bytes` are what a read returned. -/
def State.xspiEnd (s : State) (bytes : List Byte) : State :=
  if !s.bit PG.xspi R.XSPI_STS 0 then s
  else
    let c := s.reg PG.xspi R.XSPI_CMD
    let len := min 256 (bf c 22 9)
    let s := if bitAt c 31 || len = 0 then s.flashDone else s.xspiFill (bytes.take len)
    let s := ((s.setBit PG.xspi R.XSPI_STS 0 false).setBit PG.xspi R.XSPI_STS 1 true).irq PG.xspi 0
    s.hostUpd fun x => { x with poll := none }

/-- R561: the write-in-progress bit has stayed set for XSPI_TO ms. -/
def State.xspiPoll (s : State) : State :=
  match s.host.poll with
  | none => s
  | some t =>
    if !s.bit PG.xspi R.XSPI_STS 0 || (s.dtc - t).toNat < s.fld PG.xspi R.XSPI_TO 0 16 * 1000000 then s
    else (s.setBit PG.xspi R.XSPI_STS 3 true).xspiEnd []

/-- R562: a write to page 0x093. -/
def State.xspiWrite (s : State) (w : Wr) : State :=
  if w.reg = R.XSPI_GO then s.xspiGo w else s.plainWrite PG.xspi w

/-! ### UART (R564) -/

/-- R564: a byte of the transmit FIFO. -/
def State.uartPush (s : State) (b : Byte) : State :=
  if 64 ≤ s.host.txf.length then s.bump PG.uart R.UART_CNT 0 16 else s.hostUpd fun x => { x with txf := x.txf ++ [b] }

/-- R564: a read of UART_DATA. -/
def State.uartPop (s : State) : Nat × State :=
  match s.host.rxf with
  | [] => (0, s)
  | b :: r => (b.toNat, s.hostUpd fun x => { x with rxf := r })

/-- R564: a write of UART_CTL. -/
def State.uartCtl (s : State) (w : Wr) : State :=
  let v := s.wouldBe PG.uart w
  if bitAt v 0 ∧ ¬ s.bit PG.uart R.UART_CTL 0 ∧ bf v 16 16 = 0 then
    (s.setReg PG.uart R.UART_CTL (putBit v 0 false)).setBit PG.uart R.UART_STS 19 true
  else s.setReg PG.uart R.UART_CTL v

/-- R564: a write to page 0x095. -/
def State.uartWrite (s : State) (w : Wr) : State :=
  if w.reg = R.UART_CTL then s.uartCtl w
  else if w.reg = R.UART_DATA then (if bf w.m 0 8 = 0 then s else s.uartPush (w.val.setWidth 8))
  else s.plainWrite PG.uart w

/-- R564: a byte arrives on UART_RX. -/
def State.uartRx (s : State) (b : Byte) (parityErr frameErr : Bool) : State :=
  if !s.running PG.uart || !s.bit PG.uart R.UART_CTL 0 then s
  else
    let pe := parityErr && s.fld PG.uart R.UART_CTL 1 2 != 0
    let full := decide (64 ≤ s.host.rxf.length)
    let s := if pe then s.setBit PG.uart R.UART_STS 16 true else s
    let s := if frameErr then s.setBit PG.uart R.UART_STS 17 true else s
    let s := if full then (s.setBit PG.uart R.UART_STS 18 true).bump PG.uart R.UART_CNT 16 16
      else (s.hostUpd fun x => { x with rxf := x.rxf ++ [b] }).irq PG.uart 0
    if pe || frameErr || full then s.irq PG.uart 2 else s

/-- R564: a byte has been shifted out. -/
def State.uartTx (s : State) : State :=
  match s.host.txf with
  | [] => s
  | b :: r =>
    if !s.running PG.uart || !s.bit PG.uart R.UART_CTL 0 then s
    else
      let s := s.hostUpd fun x => { x with txf := r, txd := some b }
      if r.isEmpty then s.irq PG.uart 1 else s

/-! ### GPIO (R565) -/

/-- R565: the level of each pin: its output's where it is driven, else the level from outside. -/
def State.gpioIn (s : State) : Nat :=
  let oe := s.fld PG.gpio R.GPIO_OE 0 32
  (s.fld PG.gpio R.GPIO_OUT 0 32 &&& oe) ||| (s.host.pins.toNat &&& (oe ^^^ 0xFFFF_FFFF))

/-- R565: an edge on a pin, by the level from outside; one that the pin's output drives has none. -/
def State.gpioEdge (s : State) (n : Fin 32) (lvl : Bool) : State :=
  let old := s.host.pins.getLsbD n
  let s := s.hostUpd fun x => { x with pins := if lvl then x.pins ||| (1#32 <<< n.val) else x.pins &&& ~~~(1#32 <<< n.val) }
  let sel := s.fld PG.gpio R.GPIO_IRQ_CFG (2 * n) 2
  if old = lvl ∨ s.isOff PG.gpio ∨ s.resetting PG.gpio ∨ s.bit PG.gpio R.GPIO_OE n then s
  else if sel = 3 ∨ (sel = 1 ∧ lvl) ∨ (sel = 2 ∧ ¬ lvl) then (s.setBit PG.gpio R.GPIO_IRQ_PEND n true).irq PG.gpio 0
  else s

/-- R565: pins whose level was `old` and has changed by the device's own outputs: the edges that are selected. -/
def State.gpioNote (s : State) (old : Nat) : State :=
  let new := s.gpioIn
  let hits := (List.range 32).filter fun n =>
    let sel := s.fld PG.gpio R.GPIO_IRQ_CFG (2 * n) 2
    old.testBit n != new.testBit n && (sel == 3 || sel == (if new.testBit n then 1 else 2))
  if hits.isEmpty then s else (hits.foldl (fun s n => s.setBit PG.gpio R.GPIO_IRQ_PEND n true) s).irq PG.gpio 0

/-- R565: a write to page 0x096; RAW bit 0 follows GPIO_IRQ_PEND. -/
def State.gpioWrite (s : State) (w : Wr) : State :=
  let old := s.gpioIn
  let s := (s.plainWrite PG.gpio w).gpioNote old
  if w.reg = R.GPIO_IRQ_PEND then s.setBit PG.gpio R.PG_IRQ_RAW 0 (s.fld PG.gpio R.GPIO_IRQ_PEND 0 32 != 0) else s

/-! ### The management target's contents and the TAP (R514, R563, R566) -/

/-- R514: the state that the status block shows. -/
def State.aonState (s : State) : Nat :=
  match s.pwr.phase with
  | .active => 0 | .watch => 1 | .slumber => 2 | .dormant => 3 | .entering => 4 | .exiting => 5
  | .rollback => if s.pwr.fromWatch then 1 else 0
  | .porst => 5 | .tripped => 3

/-- R514: the AON status block. -/
def State.aonStatus (s : State) : List Byte :=
  let f := s.reg PG.pwc R.PWC_WAKE_FAIL
  (leBytes 1 (s.aonState + bf f 0 1 <<< 3 + bf f 1 2 <<< 4)) ++ leBytes 1 (bf f 4 7) ++ leBytes 1 (bf f 12 4) ++
    leBytes 1 (bf f 16 8) ++ leBytes 2 0x4806 ++ leBytes 2 0

/-- R563: the management target serves a transfer. -/
def State.mgmtUp (s : State) : Bool := s.pageState PG.i2c == 2

/-- R563: the content of an index that a bus read returns; a free value where the spec gives the index none. -/
def State.mgmtByte (s : State) (i : Nat) : Byte × State :=
  if i < 8 then (s.aonStatus.getD i 0, s)
  else if 0x50 ≤ i ∧ i < 0x90 then
    let b := BitVec.ofNat 8 (s.fld PG.i2c (R.I2C_OUT ((i - 0x50) / 8)) (8 * ((i - 0x50) % 8)) 8)
    (b, if i = 0x8F then s.setBit PG.i2c R.I2C_STS 1 false else s)
  else if i = 0x90 then (BitVec.ofNat 8 (s.fld PG.i2c R.I2C_STS 0 2), s)
  else
    let (f, s) := s.takeFree
    (Config.freeByte f i, s)

/-- R563: bytes read from the current index on. -/
def State.mgmtBytes (s : State) : Nat → List Byte × State
  | 0 => ([], s)
  | n + 1 =>
    let (b, s) := s.mgmtByte s.host.index
    let s := s.hostUpd fun x => { x with index := (x.index + 1) % 256 }
    let (l, s) := State.mgmtBytes s n
    (b :: l, s)

/-- R563: a read transfer. -/
def State.mgmtRead (s : State) (n : Nat) : State :=
  if !s.mgmtUp then { s with reply := .nack }
  else
    let (l, s) := s.mgmtBytes n
    { s with reply := .bytes l }

/-- R563: data bytes of a write transfer; the transfer ends at a byte that is not acknowledged. -/
def State.mgmtPut (s : State) : List Byte → State
  | [] => { s with reply := .none }
  | b :: r =>
    let i := s.host.index
    if i < 0x10 ∨ 0x50 ≤ i ∨ s.bit PG.i2c R.I2C_STS 0 then { s with reply := .nack }
    else
      let s := s.setFld PG.i2c (R.I2C_IN ((i - 0x10) / 8)) (8 * ((i - 0x10) % 8)) 8 b.toNat
      let s := if i = 0x4F then (s.setBit PG.i2c R.I2C_STS 0 true).irq PG.i2c 0 else s
      State.mgmtPut (s.hostUpd fun x => { x with index := (i + 1) % 256 }) r

/-- R563: a write transfer. -/
def State.mgmtWrite (s : State) (bytes : List Byte) : State :=
  if !s.mgmtUp then { s with reply := .nack }
  else match bytes with
    | [] => { s with reply := .none }
    | i :: r => (s.hostUpd fun x => { x with index := i.toNat }).mgmtPut r

/-- R541, R544: a debugger's access to a hart through the debug module. -/
def State.debugHart (s : State) (h : Fin 8) (op : HartOp) : State :=
  let s := s.hostUpd fun x => { x with tapIdle := false }
  if s.dbgLevel = 0 ∨ s.isOff PG.host ∨ (s.pwr.phase = .watch ∧ h.val ≠ 0) ∨ ¬ s.bit PG.host R.HOST_HART_STS h then
    { s with reply := .none }
  else match op with
    | .halt => s.hostUpd fun x => { x with halted := x.halted.set h true }
    | .resume => s.hostUpd fun x => { x with halted := x.halted.set h false }
    | .access =>
      let (i, s) := s.takeFree
      { s with reply := .data (Config.freeWord i) }

/-! ### Commands -/

/-- R551: HART_START, a write of HOST_HART_START. -/
def execHartStart (ini : Initiator) (v : Word) (s : State) : Res :=
  s.ends (s.wrTo PG.host State.hostWrite ini R.HOST_HART_START v)

/-- R550: MACHINE_TIMER_INTERRUPT. -/
def execMachineTimerInterrupt (h : Fin 8) (s : State) : Res := s.ends (if s.alive PG.host then s.timerNote h else s)

/-- R553: PLIC_CLAIM. -/
def execPlicClaim (ctx : Fin 16) (s : State) : Res := s.ends (if s.isOff PG.host then s else s.plicClaim ctx)

/-- R553: PLIC_COMPLETE. -/
def execPlicComplete (ctx : Fin 16) (src : Nat) (s : State) : Res :=
  s.ends (if s.isOff PG.host then s else s.plicComplete ctx src)

/-- R559: PCIE_LINK_CHANGE. -/
def execPcieLinkChange (up : Bool) (s : State) : Res := s.ends (s.pcieLink up)

/-- R558: CFG_TIMEOUT. -/
def execCfgTimeout (s : State) : Res := s.ends s.cfgTimeout

/-- R561: XSPI_GO. -/
def execXspiGo (ini : Initiator) (s : State) : Res := s.ends (s.wrTo PG.xspi State.xspiWrite ini R.XSPI_GO 0)

/-- R561: XSPI_DONE. -/
def execXspiDone (bytes : List Byte) (s : State) : Res := s.ends (s.xspiEnd bytes)

/-- R561: XSPI_POLL_TIMEOUT. -/
def execXspiPollTimeout (s : State) : Res := s.ends s.xspiPoll

/-- R563: MGMT_READ. -/
def execMgmtRead (n : Nat) (s : State) : Res := s.ends (s.mgmtRead n)

/-- R564: UART_DATA_WRITE. -/
def execUartDataWrite (ini : Initiator) (v : Word) (s : State) : Res :=
  s.ends (s.wrTo PG.uart State.uartWrite ini R.UART_DATA v)

/-- R564: UART_DATA_READ. -/
def execUartDataRead (ini : Initiator) (s : State) : Res :=
  if s.isOff PG.uart ∨ (s.stopped PG.uart ∧ !s.inHandshake) then s.ends (s.busErr ini)
  else
    let (v, t) := s.uartPop
    s.ends { t with reply := .data (wOfNat v) }

/-- R564: UART_BYTE_RX. -/
def execUartByteRx (b : Byte) (parityErr frameErr : Bool) (s : State) : Res := s.ends (s.uartRx b parityErr frameErr)

/-- R564: UART_ENABLE, a write of UART_CTL. -/
def execUartEnable (ini : Initiator) (v : Word) (s : State) : Res := s.ends (s.wrTo PG.uart State.uartWrite ini R.UART_CTL v)

/-- R564: UART_BYTE_TX. -/
def execUartByteTx (s : State) : Res := s.ends s.uartTx

/-- R565: GPIO_EDGE. -/
def execGpioEdge (pin : Fin 32) (level : Bool) (s : State) : Res := s.ends (s.gpioEdge pin level)

/-- R566: TAP_RESET. -/
def execTapReset (s : State) : Res := s.ends (s.hostUpd fun x => { x with tapIdle := true })

/-- R541: DEBUG_MODULE_ACCESS. -/
def execDebugModuleAccess (hart : Fin 8) (op : HartOp) (s : State) : Res := s.ends (s.debugHart hart op)

/-- R563: MGMT_DYNAMIC_ADDRESS. -/
def execMgmtDynamicAddress (addr : BitVec 7) (s : State) : Res :=
  s.ends (if s.mgmtUp then s.setFld PG.i2c R.I2C_STS 2 7 addr.toNat else s)

end Sys2Proof.Machine
end

