-- ==== Sys2Proof/Machine/MemCmd.lean ====
section
/-!
DEFINITION. Machine/MemCmd.lean: what the memory blocks do on their own and their registers: leaky buckets (R461, R469), scrub
and fill (R462 to R465, R468), thermal throttling (R466), merge-buffer flushes (R458), recalibration (R454), and the pages of
the controllers (R467).
-/

namespace Sys2Proof.Machine

/-! ### Merge buffers and recalibration -/

/-- R458: the entries of a merge buffer whose 128 ns have passed flush. -/
def State.mergeFlush (s : State) (pc : Fin 32) : State :=
  let l := s.mem.merge.get pc
  let due := l.filter fun e => decide (128 ≤ (s.dtc - e.first).toNat)
  due.foldl State.flushEntry (s.setMerge pc (l.filter fun e => decide ((s.dtc - e.first).toNat < 128)))

/-! ### Leaky buckets (R461) -/

/-- R461, R469: a write of BKT_CFG. -/
def State.bktCfg (s : State) (b : Nat) (w : Wr) : State :=
  let r := R.BKT_CFG b
  let v := s.wouldBe PG.mras w
  if s.bit PG.mras r 32 then
    if bitAt v 32 then s.logWr PG.mras w .state else (s.setReg PG.mras r v).setFld PG.mras (R.BKT_STS b) 0 16 0
  else if bitAt v 32 then
    if bf v 0 16 = 0 ∨ bf v 16 16 = 0 then
      ((s.setReg PG.mras r (putBit v 32 false)).setBit PG.mras R.MRAS_STS 0 true).setFld PG.mras R.MRAS_STS 8 6 b
    else
      let s := s.setReg PG.mras r v
      s.memUpd fun m => { m with bktAt := if h : b < 39 then m.bktAt.set b s.dtc else m.bktAt }
  else s.setReg PG.mras r v

/-- R469: a write to page 0x089. -/
def State.mrasWrite (s : State) (w : Wr) : State :=
  let o := w.reg
  if 0x1000 ≤ o ∧ o < 0x1000 + 0x10 * 39 then
    let b := (o - 0x1000) / 0x10
    if o = R.BKT_CFG b then s.bktCfg b w
    else
      let s := s.plainWrite PG.mras w
      s.setBit PG.mras R.MRAS_OVF b (s.bit PG.mras (R.BKT_STS b) 16)
  else s.plainWrite PG.mras w

/-- R469: a reset of page 0x089 clears the counters. -/
def State.mrasPageReset (s : State) : State :=
  (List.range 39).foldl (fun s b => s.setFld PG.mras (R.BKT_STS b) 32 16 0) (s.setReg PG.mras R.MRAS_LOCC 0)

/-! ### Scrub and fill (R462 to R465) -/

/-- R462: the memories that a scrub or fill may cover. -/
inductive ScbMem where
  | hbm
  | shelf (k : Nat)
  | surface
  deriving DecidableEq, Repr

/-- R462: the memory that holds an address. -/
def State.scbMem (s : State) (a : Nat) : Option ScbMem :=
  if a < s.part.hbmBytes then some .hbm
  else if 0x50_0000_0000 ≤ a ∧ a < 0x50_0200_0000 then some .surface
  else (shelfOf a 1).map .shelf

/-- R462: word size of a memory. -/
def ScbMem.word : ScbMem → Nat
  | .hbm => 32 | .shelf _ => 8 | .surface => 4

/-- R462: end of a memory's addresses. -/
def State.scbEnd (s : State) : ScbMem → Nat
  | .hbm => s.part.hbmBytes
  | .shelf k => shelfBase k + shelfBytes
  | .surface => 0x50_0200_0000

/-- R462: the bytes of a memory that are allocated (R215, R282), as ranges. -/
def State.scbAlloc (s : State) : ScbMem → List (Nat × Nat)
  | .hbm => [(0, s.part.hbmBytes)]
  | .shelf k =>
    let kk : Fin 6 := ⟨k % 6, Nat.mod_lt _ (by decide)⟩
    [R.SHF_NEURON, R.SHF_ANNX, R.SHF_JOURNAL, R.SHF_ROWS, R.SHF_WEIGHTS, R.SHF_LINE, R.SHF_MAPS].foldl (fun l r =>
      let g := s.shelfRegion kk r
      if g.2 = 0 then l else Iv.add l g.1 (g.1 + g.2)) []
  | .surface => s.regions.foldl (fun l g => Iv.add l (0x50_0000_0000 + 4 * g.1) (0x50_0000_0000 + 4 * (g.1 + g.2))) []

/-- R462: WHY a range is refused; 0 for a good one. -/
def State.scbWhy (s : State) (a n : Nat) : Nat :=
  match s.scbMem a with
  | none => 2
  | some m =>
    if a % m.word ≠ 0 ∨ n % m.word ≠ 0 then 1
    else if s.scbEnd m < a + n then 2
    else if (s.scbAlloc m).any fun g => decide (g.1 ≤ a ∧ a + n ≤ g.2) then 0 else 3

/-- R463: the summary of a scrub so far. -/
structure ScrubSum where
  words : Nat := 0
  corr : Nat := 0
  uncorr : Nat := 0
  poison : Nat := 0
  first : Option Nat := none
  deriving DecidableEq, Repr

/-- R463: an error found by a scrub joins its summary. -/
def ScrubSum.found (m : ScrubSum) (a : Nat) : Option WordErr → ScrubSum
  | none => m
  | some .correctable => { m with corr := m.corr + 1 }
  | some .uncorrectable => { m with uncorr := m.uncorr + 1, first := some (m.first.getD a) }
  | some .poison => { m with poison := m.poison + 1, first := some (m.first.getD a) }

/-- R459, R463: the scrub read of a word of HBM or of a shelf: a correctable error is written back corrected, an uncorrectable
one with the poison syndrome. -/
def State.scrubWord (s : State) (sh : Option Nat) (a : Nat) : Option WordErr × State :=
  if sh.isNone && s.hbmOffline then (some .poison, s)
  else
    let s := if sh.isNone then s.flushWord a else s
    let (i, s) := s.takeFree
    let k := s.wordKind a i
    match k with
    | none => (none, s)
    | some e =>
      let s := s.wordErr sh a e false
      let bs := s.wordBytes a (wordSize sh) i
      (some e, match e with
        | .correctable => if s.wordWritten a then s.storeWord a bs none else s
        | .uncorrectable => s.storeWord a bs (some .poison)
        | .poison => s)

/-- R459: the scrub read of a surface word: a word with an uncorrectable byte is rewritten as 0. -/
def State.scrubSurface (s : State) (a : Nat) : Option WordErr × State :=
  let o := (a - 0x50_0000_0000) / 4
  if Sp.get 0 s.sfs.bad o = 0 then (none, s)
  else
    let (_, s) := s.surfRead 0 none o
    (some .uncorrectable, s.setSurf o 0)

/-- R463: the words of a range scrubbed in ascending order. -/
def State.scrubWords (s : State) (m : ScbMem) (t : ScrubSum) (a : Nat) : Nat → ScrubSum × State
  | 0 => (t, s)
  | n + 1 =>
    let (e, s) := match m with
      | .hbm => s.scrubWord none a
      | .shelf k => s.scrubWord (some k) a
      | .surface => s.scrubSurface a
    s.scrubWords m ({ t with words := t.words + 1 }.found a e) (a + m.word) n

/-- R465: the words of a range filled with the pattern. -/
def State.fillWords (s : State) (m : ScbMem) (pat a : Nat) : Nat → State
  | 0 => s
  | n + 1 =>
    let s := match m with
      | .hbm => s.writeBytes none a (leBytes 32 (pat + pat <<< 64 + pat <<< 128 + pat <<< 192))
      | .shelf _ => s.writeBytes none a (leBytes 8 pat)
      | .surface => s.setSurf ((a - 0x50_0000_0000) / 4) (BitVec.ofNat 32 (if a % 8 = 0 then pat else pat >>> 32))
    s.fillWords m pat (a + m.word) n

/-- R462, R463, R465: the first `n` words of the running operation are visited, and the summary of a scrub is written; the
answer is DETAIL. -/
def State.scbVisit (s : State) (m : ScbMem) (n : Nat) : Nat × State :=
  let a := s.fld PG.scb R.SCB_ADDR 0 40
  let pos := fun (s : State) => s.setReg PG.scb R.SCB_POS (wOfNat (a + n * m.word))
  if s.mem.scbFill then
    let pat := (s.reg PG.scb R.SCB_PAT).toNat
    let s := match m with
      | .surface => s.fillWords m pat a n
      | _ => if pat = 0 then s.zeroRange a (a + n * m.word) else s.fillWords m pat a n
    (n % 2 ^ 32, (pos s).memTouch a (n * m.word))
  else
    let (t, s) := s.scrubWords m {} a n
    let s := (s.setReg PG.scb R.SCB_WORDS (wOfNat t.words)).setReg PG.scb R.SCB_SUM1
      (wOfNat (min 0xFFFFFFFF t.corr + (min 0xFFFFFFFF t.uncorr) <<< 32))
    let s := s.setReg PG.scb R.SCB_SUM2 (wOfNat (min 0xFFFFFFFF t.poison))
    let s := s.setReg PG.scb R.SCB_FIRST (match t.first with | some x => wOfNat (x % 2 ^ 40 + 2 ^ 63) | none => 0)
    let s := if t.uncorr + t.poison = 0 then s else s.irq PG.scb 1
    (t.uncorr + t.poison, pos s)

/-- R462: a write of SCB_GO. -/
def State.scbGo (s : State) (w : Wr) : State :=
  let pg := PG.scb
  let a := s.fld pg R.SCB_ADDR 0 40
  let n := s.fld pg R.SCB_LEN 0 40
  if s.bit pg R.SCB_STS 0 then s.logWr pg w .busy
  else if !s.itemFree .ordinary then s.ledgerFull pg w
  else
    let (i, s) := s.openItem pg (bf w.val 8 6) 0 false
    if n = 0 then
      let s := [R.SCB_WORDS, R.SCB_SUM1, R.SCB_SUM2, R.SCB_FIRST].foldl (fun s r => s.setReg pg r 0) s
      (s.setBit pg R.SCB_STS 1 true).closeItem i .okEmpty 0
    else
      let why := s.scbWhy a n
      if why ≠ 0 then ((s.setBit pg R.SCB_STS 2 true).setFld pg R.SCB_STS 4 4 why).closeItem i .failInvalid why
      else
        let s := (s.setBit pg R.SCB_STS 0 true).setReg pg R.SCB_POS (wOfNat a)
        s.memUpd fun m => { m with scbItem := some i, scbFill := bitAt w.val 0 }

/-- R463, R465: the running operation completes. -/
def State.scbDone (s : State) : State :=
  match s.mem.scbItem with
  | none => s
  | some i =>
    if !s.running PG.scb then s
    else
      match s.scbMem (s.fld PG.scb R.SCB_ADDR 0 40) with
      | none => s
      | some m =>
        let (d, s) := s.scbVisit m (s.fld PG.scb R.SCB_LEN 0 40 / m.word)
        let s := ((s.setBit PG.scb R.SCB_STS 0 false).irq PG.scb 0).memUpd fun m => { m with scbItem := none }
        s.closeItem i .ok d

/-- R463: a reset of page 0x088 ends the running operation after some of its words (its item has been closed). -/
def State.scbPageReset (s : State) : State :=
  match s.mem.scbItem with
  | none => s
  | some _ =>
    match s.scbMem (s.fld PG.scb R.SCB_ADDR 0 40) with
    | none => s
    | some m =>
      let (i, s) := s.takeFree
      let n := s.fld PG.scb R.SCB_LEN 0 40 / m.word
      let (_, s) := s.scbVisit m (Config.freeNat i % (n + 1))
      (s.setBit PG.scb R.SCB_STS 0 false).memUpd fun m => { m with scbItem := none }

/-- R468: a write to page 0x088. -/
def State.scbWrite (s : State) (w : Wr) : State :=
  let o := w.reg
  if o = R.SCB_GO then s.scbGo w
  else if (o = R.SCB_ADDR ∨ o = R.SCB_LEN ∨ o = R.SCB_PAT) ∧ s.bit PG.scb R.SCB_STS 0 then s.logWr PG.scb w .busy
  else s.plainWrite PG.scb w

/-! ### Thermal throttling (R466) -/

/-- R467: the microseconds since the last count join MEM_THR_CNT while LEVEL is above 0. -/
def State.thrCount (s : State) : State :=
  let us := (s.dtc - s.mem.thrCntAt).toNat / 1000
  let s := if s.fld (PG.mem 0) R.MEM_TEMP 8 2 = 0 then s else s.addCnt (PG.mem 0) R.MEM_THR_CNT 0 32 us
  s.memUpd fun m => { m with thrCntAt := m.thrCntAt + wOfNat (us * 1000) }

/-- R466: LEVEL changes. -/
def State.thrLevel (s : State) (n : Nat) : State :=
  if s.fld (PG.mem 0) R.MEM_TEMP 8 2 = n then s
  else
    let s := (s.thrCount.setFld (PG.mem 0) R.MEM_TEMP 8 2 n).bump (PG.mem 0) R.MEM_THR_CNT 32 16
    s.memUpd fun m => { m with thrAt := s.dtc }

/-- R466: controller 0 reads the stack temperature. -/
def State.tempRead (s : State) (t : BitVec 8) : State :=
  let pg := PG.mem 0
  if !s.alive pg then s
  else
    let s := (s.setFld pg R.MEM_TEMP 0 8 t.toNat).setBit pg R.MEM_TEMP 16 (decide (85 < t.toInt))
    if t.toInt < 100 then s else ((s.setBit pg R.MEM_TEMP 17 true).irq pg 3).thrLevel 3

/-- A value held between two limits. -/
def clampTo (lo hi v : Nat) : Nat := max lo (min hi v)

/-- R466, R467: T_ON and HYST in force. -/
def State.thrOn (s : State) : Nat := clampTo 80 95 (s.fld (PG.mem 0) R.MEM_THR 0 8)
def State.thrHyst (s : State) : Nat := clampTo 1 10 (s.fld (PG.mem 0) R.MEM_THR 8 8)

/-- R466: at most once per 1 ms, LEVEL follows the temperature. -/
def State.thrUpdate (s : State) : State :=
  let pg := PG.mem 0
  let t := sgn 8 (s.fld pg R.MEM_TEMP 0 8)
  let l := s.fld pg R.MEM_TEMP 8 2
  if !s.alive pg || (s.dtc - s.mem.thrAt).toNat < 1000000 then s
  else if (s.thrOn : Int) ≤ t then s.thrLevel (min 3 (l + 1))
  else if t ≤ (s.thrOn : Int) - s.thrHyst then s.thrLevel (l - 1)
  else s

/-! ### Pages (R467) -/

/-- R467: a reset of a MEM page clears its counters and logs. -/
def State.memPageReset (s : State) (c : Nat) : State :=
  let s := [R.MEM_PC0_CNT, R.MEM_PC1_CNT, R.MEM_PC0_ERR, R.MEM_PC1_ERR, R.MEM_MRG_CNT].foldl (fun s r => s.setReg (PG.mem c) r 0) s
  if c = 0 then (s.setReg (PG.mem 0) R.MEM_THR_CNT 0).memUpd fun m => { m with thrCntAt := s.dtc } else s

/-- A register write to page 0x088, or to page 0x089, through the common gate. -/
def State.scbWr (s : State) (ini : Initiator) (off : Nat) (v : Word) : State :=
  let w := Wr.full ini off v
  s.gate PG.scb w fun s => s.scbWrite w
def State.mrasWr (s : State) (ini : Initiator) (off : Nat) (v : Word) : State :=
  let w := Wr.full ini off v
  s.gate PG.mras w fun s => s.mrasWrite w

/-! ### Commands -/

/-- R454: HBM_RECAL: the controller recalibrates its read timing; nothing but time is affected. -/
def execHbmRecal (_c : Fin 16) (s : State) : Res := s.ends s

/-- R458: MERGE_FLUSH. -/
def execMergeFlush (pc : Fin 32) (s : State) : Res := s.ends (s.mergeFlush pc)

/-- R461: BUCKET_LEAK. -/
def execBucketLeak (b : Fin 39) (s : State) : Res := s.ends (s.bucketLeak b)

/-- R461: BUCKET_ENABLE, a write of BKT_CFG. -/
def execBucketEnable (ini : Initiator) (b : Fin 39) (v : Word) (s : State) : Res := s.ends (s.mrasWr ini (R.BKT_CFG b) v)

/-- R462: SCRUB, a write of SCB_GO with OP 0. -/
def execScrub (ini : Initiator) (v : Word) (s : State) : Res := s.ends (s.scbWr ini R.SCB_GO (putBit v 0 false))

/-- R462: FILL, a write of SCB_GO with OP 1. -/
def execFill (ini : Initiator) (v : Word) (s : State) : Res := s.ends (s.scbWr ini R.SCB_GO (putBit v 0 true))

/-- R463: SCB_DONE. -/
def execScbDone (s : State) : Res := s.ends (s.replied PG.scb s.mem.scbItem.isSome s.scbDone)

/-- R466: HBM_TEMP_READ. -/
def execHbmTempRead (temp : BitVec 8) (s : State) : Res := s.ends (s.tempRead temp)

/-- R466: THROTTLE_UPDATE. -/
def execThrottleUpdate (s : State) : Res := s.ends s.thrUpdate

end Sys2Proof.Machine
end

