-- ==== Sys2Proof/Machine/Pages.lean ====
section
/-!
DEFINITION. Machine/Pages.lean: what is common to all pages: their reset, enable, disable and quiesce (R470 to R477, R570 to
R574), interrupts by test injection, and the end of a debug session, which a reset of Saggar's page brings about (R542, R547).
-/

namespace Sys2Proof.Machine

/-! ### Sessions and locks (R540 to R542) -/

/-- R542: the open session ends; `cause` is the code of SGR_DBG_LOG. -/
def State.sessionEnd (s : State) (cause : Nat) : State :=
  let l := s.dbgLevel
  if l = 0 then s
  else
    let s := s.setReg PG.sgr R.SGR_DBG_LOG (wOfNat (l + cause <<< 2 + s.dtcLow <<< 32))
    (s.setFld PG.sgr R.SGR_STS 4 2 0).irq PG.sgr 2

/-- R540: writes that Saggar gates reach the page. -/
def State.pageUnlocked (s : State) (page : Nat) : Bool :=
  s.bit PG.sgr (R.SGR_LOCK (page / 64)) (page % 64) || s.dbgLevel != 0

/-- R547: actions of a reset of Saggar's page; the running command has ended with the page's items. -/
def State.sgrPageReset (s : State) : State :=
  let s := s.sessionEnd 2
  { s with sgr := { s.sgr with erase := none } }.setBit PG.sgr R.SGR_STS 7 false

/-- R527: actions of a reset of the power controller's page. -/
def State.pwcPageReset (s : State) : State :=
  [R.PWC_ENTRY_LOG, R.PWC_ABORT_CNT, R.PWC_CNT, R.PWC_TIMES].foldl (fun s r => s.setReg PG.pwc r 0) s

/-! ### Indices of instances -/

/-- A port or base number. -/
def fin8 (n : Nat) : Fin 8 := ⟨n % 8, Nat.mod_lt _ (by decide)⟩

/-- A kiln number. -/
def fin6 (n : Nat) : Fin 6 := ⟨n % 6, Nat.mod_lt _ (by decide)⟩

/-- A network port number. -/
def fin2 (n : Nat) : Fin 2 := ⟨n % 2, Nat.mod_lt _ (by decide)⟩

/-! ### Reset (R472, R477) -/

/-- R472: step 2 of a reset, the actions that the block's chapter lists. -/
def State.blockReset (s : State) (k : PageKind) (page : Nat) : State :=
  let i := pageInstance k page
  match k with
  | .pwc => s.pwcPageReset
  | .sgr => s.sgrPageReset
  | .ldg => s.ldgPageReset
  | .sp => s.spPageReset (fin8 i)
  | .ieq => s.ieqPageReset (fin8 i)
  | .sv => s.svPageReset (fin8 i)
  | .rfx => s.rfxPageReset
  | .tcal => s.tcalPageReset
  | .sfs => s.sfsPageReset
  | .chd => s.chdPageReset (fin8 i)
  | .loc => s.locPageReset
  | .lat => s.latPageReset (fin6 i)
  | .fct => (s.fctPageReset (fin6 i)).incPageReset (fin6 i)
  | .spk | .spk6 | .spk7 => s.spkPageReset (fin8 i)
  | .rch => s.rchPageReset
  | .res => s.resPageReset
  | .ptb => s.ptbPageReset (fin8 i)
  | .net0 | .net1 => s.netPageReset (fin2 i)
  | .mem0 | .mem => s.memPageReset i
  | .scb => s.scbPageReset
  | .mras => s.mrasPageReset
  | .wth => s.wthPageReset
  | .adm => s.admPaused
  | .top | .kln | .shf | .dtc | .pcie | .host | .xspi | .i2c | .uart | .gpio => s

/-- R470: EPOCH of a page rises. -/
def State.epochUp (s : State) (page : Nat) : State :=
  s.setFld page R.PG_STS 16 16 (s.fld page R.PG_STS 16 16 + 1)

/-- R573, R574: causes and logs of a page clear. -/
def State.clearLogs (s : State) (page : Nat) : State :=
  [R.PG_IRQ_RAW, R.PG_ERR_LOG0, R.PG_ERR_LOG1, R.PG_ERR_LOG2, R.PG_ERR_LOG3].foldl (fun s r => s.setReg page r 0) s

/-- R471 to R474: a reset begins: the epoch rises, the page's items end, the block takes its actions. -/
def State.resetBegin (s : State) (page : Nat) : State :=
  match pageKind page with
  | none => s
  | some k =>
    let s : State := { (s.epochUp page) with inReset := NSet.add s.inReset page }
    let s := ((s.clearLogs page).lateReplies page .failReset).orphan page
    (s.decided (s.closePageItems page .failReset)).blockReset k page

/-- R472, R571: a reset ends. -/
def State.resetEnd (s : State) (page : Nat) : State :=
  match pageKind page with
  | none => s
  | some k =>
    if !s.resetting page then s
    else
      let s : State := { s with inReset := NSet.del s.inReset page }
      let s := s.setFld page R.PG_CTL 0 2 (b2n (kindEnable k))
      if page = PG.res then s.resTake else s

/-- A reset that begins and ends within one command. -/
def State.resetWhole (s : State) (page : Nat) : State := (s.resetBegin page).resetEnd page

/-! ### Enable, disable, quiesce (R476, R571) -/

/-- R571: the enable checks of the block's chapter. -/
def State.enableCheck (s : State) (k : PageKind) (page : Nat) : Bool × State :=
  let i := pageInstance k page
  match k with
  | .ieq => if s.ieqEnableOk (fin8 i) then (true, s) else (false, s.setBit page R.IEQ_STS 20 true)
  | .sv => s.svEnable (fin8 i)
  | .chd => s.chdEnable (fin8 i)
  | .loc => s.locEnable
  | .lat => s.latEnable (fin6 i)
  | .fct => s.fctEnable (fin6 i)
  | .shf => s.shfEnable (fin6 i)
  | .spk | .spk6 | .spk7 => s.spkEnable (fin8 i)
  | _ => (true, s)

/-- What a block does when its page stops running by a disable or a quiesce. -/
def State.pauseBlock (s : State) (k : PageKind) (page : Nat) : State :=
  match k with
  | .adm => s.admPaused
  | .fct => s.incQuiesce (fin6 (pageInstance k page))
  | _ => s

/-- What a block does when its page runs again. -/
def State.resumeBlock (s : State) (k : PageKind) : State :=
  match k with
  | .res => s.resTake
  | _ => s

/-- R571: a write of PG_CTL. -/
def State.pgCtl (s : State) (k : PageKind) (page : Nat) (w : Wr) : State :=
  if bitAt w.val 2 then
    if kindNoReset k || (k == .pwc && (s.bit PG.pwc R.PWC_STS 3 || s.bit PG.pwc R.PWC_STS 6))
        || (k == .ldg && !s.ldg.items.isEmpty) then s.logWr page w .state
    else s.resetBegin page
  else if kindFixed k || bf w.m 0 1 = 0 then s
  else
    let was := s.running page
    let en := bitAt w.val 0
    let (ok, s) := if en && !s.enabled page then s.enableCheck k page else (true, s)
    let s := s.setFld page R.PG_CTL 0 2 (b2n (en && ok) + b2n (bitAt w.val 1) <<< 1)
    let now := s.running page
    if was && !now then s.pauseBlock k page else if !was && now then s.resumeBlock k else s

/-! ### The header (R570, R573) -/

/-- R570: implemented bits of the interrupt registers. -/
def irqMask (k : PageKind) : Word := wOfNat (2 ^ kindIrqBits k - 1)

/-- R570, R573: a write to a header register. -/
def State.hdrWrite (s : State) (k : PageKind) (page : Nat) (w : Wr) : State :=
  let o := w.reg
  if o = R.PG_CTL then s.pgCtl k page w
  else if o = R.PG_IRQ_RAW then
    let s := s.plainWrite page w
    match k with
    | .uart => if s.host.rxf.isEmpty then s else s.irq page 0
    | .gpio => if s.fld PG.gpio R.GPIO_IRQ_PEND 0 32 != 0 then s.irq page 0 else s
    | .net0 | .net1 => if (s.net.get (fin2 (pageInstance k page))).txts.isEmpty then s else s.irq page 1
    | _ => s
  else if o = R.PG_IRQ_EN then s.setReg page o (s.wouldBe page w &&& irqMask k)
  else if o = R.PG_IRQ_SET then
    if s.pageUnlocked page then s.orReg page R.PG_IRQ_RAW (w.val &&& irqMask k) else s.logWr page w .locked
  else s

/-- A 64-bit write to a header register of a page; a slot without a page ends with a bus error (R8). -/
def State.hdrWr (s : State) (ini : Initiator) (page off : Nat) (v : Word) : State :=
  match pageKind page with
  | none => s.busErr ini
  | some k => s.gate page (.full ini off v) fun s => s.hdrWrite k page (.full ini off v)

/-- R472: a reset whose block may end it has come to its end. -/
def State.resetDone (s : State) (page : Nat) : State := if s.isOff page then s else s.resetEnd page

/-! ### Commands -/

/-- R472: PAGE_RESET_COMPLETE. -/
def execPageResetComplete (page : Nat) (s : State) : Res := s.ends (s.resetDone page)

/-- R571: PAGE_ENABLE, a write of PG_CTL. -/
def execPageEnable (ini : Initiator) (page : Nat) (s : State) : Res := s.ends (s.hdrWr ini page R.PG_CTL 1)

/-- R571: PAGE_DISABLE, a write of PG_CTL. -/
def execPageDisable (ini : Initiator) (page : Nat) (s : State) : Res := s.ends (s.hdrWr ini page R.PG_CTL 0)

/-- R571: PAGE_QUIESCE, a write of PG_CTL with ENABLE as it stands. -/
def execPageQuiesce (ini : Initiator) (page : Nat) (s : State) : Res :=
  s.ends (s.hdrWr ini page R.PG_CTL (wOfNat (2 + b2n (s.enabled page))))

/-- R573: PG_IRQ_SET. -/
def execPgIrqSet (ini : Initiator) (page : Nat) (v : Word) (s : State) : Res := s.ends (s.hdrWr ini page R.PG_IRQ_SET v)

end Sys2Proof.Machine
end

