-- ==== Sys2Proof/Machine/Saggar.lean ====
section
/-!
DEFINITION. Machine/Saggar.lean: Saggar: the flash directory, boot images and the ownership record, the cold boot, the
measurement chain, quotes, page locks, debug sessions and the commands (R528 to R547).
-/

namespace Sys2Proof.Machine

/-- `s` with Saggar's state changed. -/
def State.sgrUpd (s : State) (f : SgrState → SgrState) : State := { s with sgr := f s.sgr }

/-! ### Boot flash objects (R426, R530, R531, R533) -/

/-- R426: a signature block of 256 bytes signs the bytes under the public key. -/
def sigOk (pub m sig : List Byte) : Bool :=
  sig.take 32 == keyHash pub && ecdsaOk pub m (beNat ((sig.drop 32).take 66)) (beNat ((sig.drop 98).take 66))

/-- R530: OFS and LEN of the first directory entry of a TYPE and SLOT. -/
def State.flashEntry (s : State) (type slot : Nat) : Option (Nat × Nat) :=
  let f := fun a n => leNat (s.flashBytes a n)
  if f 0 4 ≠ 0x5247_4453 then none
  else
    ((List.range (min 126 (f 4 4))).find? fun i => f (64 + 32 * i) 1 == type && f (65 + 32 * i) 1 == slot).map fun i =>
      (f (72 + 32 * i) 8, f (80 + 32 * i) 8)

/-- R531: what a boot image's header tells, with its signed bytes. -/
structure BootImage where
  slot : Nat
  svn : Nat
  load : Nat
  entry : Word
  body : List Byte
  payload : List Byte
  deriving DecidableEq, Repr

/-- R531, R534: the image of a slot, if its header, signature and TYPE check and its SVN is not below the floor. -/
def State.bootImage (s : State) (dirType slot type maxLen : Nat) (keys : List (List Byte)) (floor : Nat) : Option BootImage :=
  match s.flashEntry dirType slot with
  | none => none
  | some (o, _) =>
    let h := s.flashBytes o 64
    let len := leNat ((h.drop 16).take 8)
    let zero := (h.drop 5).take 3 ++ (h.drop 12).take 4 ++ h.drop 40
    let svn := leNat ((h.drop 8).take 4)
    if leNat (h.take 4) ≠ 0x4754_4D49 ∨ leNat ((h.drop 4).take 1) ≠ type ∨ maxLen < len ∨ 65535 < svn ∨ svn < floor
        ∨ zero.any (· != 0) then none
    else
      let body := s.flashBytes o (64 + len)
      let sig := s.flashBytes (o + 64 + len) 256
      if keys.any fun k => sigOk k body sig then
        some { slot, svn, load := leNat ((h.drop 24).take 8), entry := wOfNat (leNat ((h.drop 32).take 8)), body,
               payload := body.drop 64 }
      else none

/-- R534: of the two slots, the image with the higher SVN, slot A on a tie. -/
def State.bootSelect (s : State) (dirType type maxLen : Nat) (keys : List (List Byte)) (floor : Nat) : Option BootImage :=
  match s.bootImage dirType 0 type maxLen keys floor, s.bootImage dirType 1 type maxLen keys floor with
  | some a, some b => if a.svn < b.svn then some b else some a
  | some a, none => some a
  | none, b => b

/-- R530: the contents of the ENROLL region. -/
def State.enrollBytes (s : State) : Option (List Byte) := (s.flashEntry 1 0).map fun e => s.flashBytes e.1 (min e.2 8192)

/-- R530: the 768 bytes of the RECORD object. -/
def State.recordBytes (s : State) : Option (List Byte) := (s.flashEntry 2 0).map fun e => s.flashBytes e.1 768

/-- R543: the object is a RETURN marker. -/
def isMarker (r : List Byte) : Bool := leNat (r.take 4) == 0x5254_524E

/-- R533: an ownership record's fields. -/
def recSeq (r : List Byte) : Nat := leNat ((r.drop 4).take 4)
def recOwner (r : List Byte) : List Byte := (r.drop 48).take 133
def recDebug (r : List Byte) : List Byte := (r.drop 181).take 133
def recSalt (r : List Byte) : List Byte := (r.drop 314).take 32

/-- R533, R543: the owner-secret regions, offset and length. -/
def recRegions (r : List Byte) : List (Nat × Nat) :=
  ((List.range 8).map fun i => (leNat ((r.drop (384 + 16 * i)).take 8), leNat ((r.drop (392 + 16 * i)).take 8))).filter
    fun x => x.2 != 0

/-- R533: the record's MAGIC, signature and IDH check. -/
def recOk (idh r : List Byte) : Bool :=
  leNat (r.take 4) == 0x4F57_4E52 && (r.drop 8).take 32 == idh && sigOk Config.ownershipKey (r.take 512) (r.drop 512)

/-! ### Identity, chain, floors (R529, R535, R536) -/

/-- R529: the private identity key. -/
def State.idKey (s : State) : Nat := match s.sgr.seed with | some x => Config.identityKey x | none => 0

/-- R528: the public identity key. -/
def State.idPub (s : State) : List Byte := ecPub s.idKey

/-- R528: the IDH. -/
def State.idh (s : State) : List Byte := keyHash s.idPub

/-- Bytes put into consecutive registers, the first byte lowest. -/
def State.putRegs (s : State) (page off : Nat) (l : List Byte) : State :=
  (List.range (l.length / 8)).foldl (fun s i => s.setReg page (off + 8 * i) (wOfNat (leNat ((l.drop (8 * i)).take 8)))) s

/-- R536: the chain value M. -/
def State.chainM (s : State) : List Byte := (List.range 8).flatMap fun i => leBytes 8 (s.reg PG.sgr (R.SGR_MEAS i)).toNat

/-- R536: an extend. -/
def State.extendM (s : State) (d : List Byte) (label : Nat) : State :=
  let m := sha512 (s.chainM ++ d ++ leBytes 8 label)
  (s.putRegs PG.sgr (R.SGR_MEAS 0) m).bump PG.sgr R.SGR_MEAS_CNT 0 32

/-- R538: LIFECYCLE. -/
def State.lifecycle (s : State) : Nat := s.fld PG.sgr R.SGR_STS 0 3

/-- R535: SGR_FLOOR shows the counters. -/
def State.showFloors (s : State) : State :=
  let c := s.sgr.counters
  s.setReg PG.sgr R.SGR_FLOOR (wOfNat (c.get 0 % 65536 + (c.get 1 % 65536) <<< 16 + (c.get 2 % 2 ^ 32) <<< 32))

/-- R539, R542: a refusal is counted. -/
def State.denied (s : State) : State := (s.bump PG.sgr R.SGR_CNT 0 16).irq PG.sgr 0

/-! ### RETURN (R543) -/

/-- R543: the RETURN marker over the RECORD object; it keeps the regions that are to be erased. -/
def State.writeMarker (s : State) : State :=
  match s.flashEntry 2 0, s.recordBytes with
  | some e, some r => s.flashPut e.1 (leBytes 4 0x5254_524E ++ List.replicate 380 0 ++ (r.drop 384).take 128 ++ List.replicate 256 0)
  | _, _ => s

/-- R543: step 2, the owner-secret regions are erased; an erased flash byte is 0xFF. -/
def State.eraseSecrets (s : State) : State :=
  match s.recordBytes with
  | none => s
  | some r => (recRegions r).foldl (fun s g => s.flashPut g.1 (List.replicate (min g.2 (2 ^ 28)) 0xFF)) s

/-- R543: step 3, HBM, the shelves and the surface store are filled with 0; the Locus cache holds no line of its own. -/
def State.fillAll (s : State) : State :=
  let m := { s.mem with merge := Vector.replicate 32 [] }
  let m := m.zero 0 s.part.hbmBytes
  let m := (List.range 6).foldl (fun m k => m.zero (shelfBase k) (shelfBase k + shelfBytes)) m
  { s with mem := m, sfs := { s.sfs with words := [], bad := [] } }

/-- R543: step 4, the host domain is reset; core 0 stays in Saggar's hold, for no loader has been verified. -/
def State.hostReset (s : State) : State :=
  let s := [PG.pcie, PG.host, PG.xspi, PG.i2c, PG.uart, PG.gpio].foldl (fun s p => s.resetWhole p) s
  let s := s.setReg PG.host R.HOST_HART_STS (regReset PG.host R.HOST_HART_STS)
  { s with host := { s.host with hold := true, held := 0, halted := Vector.replicate 8 false } }

/-! ### Boot (R532, R534) -/

/-- R562: the denied opcodes and protected ranges. -/
def State.xspiSetup (s : State) : State :=
  let obj := fun t => match s.flashEntry t 0 with | some e => [(e.1, e.1 + e.2)] | none => []
  { s with host := { s.host with denied := Config.replayOps.take 8, prot := (0, 4096) :: (obj 1 ++ obj 2) } }

/-- R532: the boot stops. -/
def State.bootStop (s : State) (err : Nat) : State := s.setFld PG.sgr R.SGR_STS 16 4 err

/-- R532, R535, R536, R540: a cold start of Saggar. -/
def State.coldStart (s : State) : State :=
  let s := (List.range 8).foldl (fun s i => s.setReg PG.sgr (R.SGR_MEAS i) 0) s
  let s := (List.range 64).foldl (fun s i => s.setReg PG.sgr (R.SGR_LOCK i) (BitVec.allOnes 64)) s
  let s := ((s.setReg PG.sgr R.SGR_MEAS_CNT 0).setReg PG.sgr R.SGR_STS (wOfNat (1 <<< 24))).setReg PG.sgr R.SGR_SVN 0
  { s with sgr := { counters := s.sgr.counters }, host := { s.host with hold := true } }

/-- R532: stage 0; `authentic` tells whether the flash's counters authenticate (R535). -/
def State.stage0 (s : State) (authentic : Bool) : State :=
  let s := s.coldStart
  match s.enrollBytes with
  | none => s.bootStop 2
  | some e =>
    match Config.pufSeed e with
    | none => s.bootStop 1
    | some seed =>
      let s := s.sgrUpd fun x => { x with seed := some seed }
      let s := (s.putRegs PG.sgr (R.SGR_IDH 0) s.idh).xspiSetup
      let c := s.sgr.counters
      let marker := match s.recordBytes with | some r => isMarker r | none => false
      let s := if marker then ((s.eraseSecrets).fillAll).hostReset else s
      let s := s.setFld PG.sgr R.SGR_STS 0 3 (if marker then 3 else 1)
      if !authentic ∨ 65535 < c.get 0 ∨ 65535 < c.get 1 then s.bootStop 7
      else
        let s := s.showFloors
        match s.bootSelect 3 1 32704 [Config.firmwareKey 0, Config.firmwareKey 1] (c.get 0) with
        | none => s.bootStop 3
        | some im =>
          let d := sha512 im.body
          let s := (s.setFld PG.sgr R.SGR_SVN 0 16 im.svn).setFld PG.sgr R.SGR_SVN 32 1 im.slot
          ((s.sgrUpd fun x => { x with fwHash := d }).extendM d 1).setFld PG.sgr R.SGR_STS 8 3 1

/-- R532: a cold start waits for stage 0. -/
def State.coldPending (s : State) : Bool := s.fld PG.sgr R.SGR_STS 8 3 == 0 && s.fld PG.sgr R.SGR_STS 16 4 == 0

/-- R532: the loader is copied to LOAD and the copy verified; core 0 is released at ENTRY. -/
def State.loaderStart (s : State) (im : BootImage) : State :=
  if s.hbmOffline ∨ !s.inHbm im.load im.payload.length then s.bootStop 8
  else
    let s := s.writeBytes none im.load im.payload
    let (r, s) := s.readBytes im.load im.payload.length
    if r.bad ∨ r.bytes ≠ im.payload then s.bootStop 8
    else
      let d := sha512 im.body
      let s := (s.setFld PG.sgr R.SGR_SVN 16 16 im.svn).setFld PG.sgr R.SGR_SVN 33 1 im.slot
      let s := (s.extendM d 3).setFld PG.sgr R.SGR_STS 8 3 2
      { s with host := { s.host with hold := false, start := s.host.start.set 0 im.entry } }

/-- R532: stage 1. -/
def State.stage1 (s : State) : State :=
  let none_ := s.extendM (sha512 (List.replicate 768 0)) 2
  match s.recordBytes with
  | none => none_.bootStop 4
  | some r =>
    if isMarker r then none_.bootStop 4
    else if r.all (· == 0xFF) then none_.bootStop 4
    else if !recOk s.idh r ∨ recSeq r < s.sgr.counters.get 2 then none_.bootStop 5
    else
      let s := (s.setFld PG.sgr R.SGR_STS 0 3 2).extendM (sha512 r) 2
      let s := s.sgrUpd fun x => { x with record := some r }
      match s.bootSelect 4 2 (16 * 2 ^ 20) [recOwner r] (s.sgr.counters.get 1) with
      | none => s.bootStop 6
      | some im => s.loaderStart im

/-! ### Commands (R539 to R542) -/

/-- What a command answers: its status and its output. -/
structure CmdRes where
  status : Status
  out : List Byte := []
  deriving DecidableEq, Repr

/-- A command refused (R539). -/
def State.cmdDenied (s : State) : CmdRes × State := ({ status := .failDenied }, s.denied)

/-- GET_ID. -/
def State.cmdGetId (s : State) : CmdRes × State :=
  if s.lifecycle = 0 then s.cmdDenied
  else ({ status := .ok, out := s.idPub ++ (Config.certificate (s.enrollBytes.getD [])).take 2048 }, s)

/-- R537: the signed part of a quote, bytes 0 to 231. -/
def State.quoteHead (s : State) (nonce : List Byte) : List Byte :=
  let sts := s.reg PG.sgr R.SGR_STS
  let svn := s.reg PG.sgr R.SGR_SVN
  let c := s.sgr.counters
  leBytes 4 0x5154_4753 ++ leBytes 1 1 ++ leBytes 1 (bf sts 0 3) ++ leBytes 1 (bf sts 4 2)
    ++ leBytes 1 (bf sts 6 1 + bf sts 24 1 <<< 1) ++ leBytes 4 (s.fld PG.sgr R.SGR_MEAS_CNT 0 32) ++ leBytes 4 s.sgr.wakes
    ++ leBytes 8 s.dtc.toNat ++ leBytes 4 (bf svn 0 32) ++ leBytes 2 (c.get 0) ++ leBytes 2 (c.get 1) ++ s.idh
    ++ (match s.sgr.record with | some r => keyHash (recOwner r) | none => List.replicate 32 0)
    ++ nonce ++ List.replicate (64 - nonce.length) 0 ++ leBytes 1 nonce.length ++ List.replicate 7 0 ++ s.chainM

/-- QUOTE (R537). -/
def State.cmdQuote (s : State) (arg : List Byte) : CmdRes × State :=
  if s.lifecycle = 0 then s.cmdDenied
  else if arg.length < 1 ∨ 64 < arg.length then ({ status := .failInvalid }, s)
  else
    let (i, s) := s.takeFree
    let h := s.quoteHead arg
    let (r, x) := ecdsaSign s.idKey (1 + Config.freeNat i % (n521 - 1)) h
    ({ status := .ok, out := h ++ beBytes 66 r ++ beBytes 66 x ++ List.replicate 148 0 }, s.bump PG.sgr R.SGR_CNT 16 16)

/-- EXTEND (R536). -/
def State.cmdExtend (s : State) (arg : List Byte) : CmdRes × State :=
  let l := leNat ((arg.drop 64).take 8)
  if arg.length ≠ 72 ∨ l < 2 ^ 63 then ({ status := .failInvalid }, s)
  else ({ status := .ok }, s.extendM (arg.take 64) l)

/-- SEAL (R540). -/
def State.cmdSeal (s : State) : CmdRes × State :=
  let s := (List.range 64).foldl (fun s i => s.setReg PG.sgr (R.SGR_LOCK i) 0) s
  ({ status := .ok }, (s.setBit PG.sgr R.SGR_STS 6 true).setFld PG.sgr R.SGR_STS 8 3 3)

/-- LOCKSET (R540). -/
def State.cmdLockset (s : State) (arg : List Byte) : CmdRes × State :=
  if s.bit PG.sgr R.SGR_STS 6 ∧ s.dbgLevel = 0 then s.cmdDenied
  else if arg.length ≠ 512 then ({ status := .failInvalid }, s)
  else ({ status := .ok }, s.putRegs PG.sgr (R.SGR_LOCK 0) arg)

/-- DERIVE (R539). -/
def State.cmdDerive (s : State) (arg : List Byte) : CmdRes × State :=
  if s.lifecycle ≠ 2 then s.cmdDenied
  else if arg.length ≠ 32 then ({ status := .failInvalid }, s)
  else
    let root := match s.sgr.seed with | some x => Config.sealRoot x | none => []
    ({ status := .ok, out := hmac512 root (recSalt (s.sgr.record.getD []) ++ arg) }, s)

/-- CHALLENGE (R542). -/
def State.cmdChallenge (s : State) (arg : List Byte) : CmdRes × State :=
  let level := leNat (arg.take 1) % 4
  let late : Bool := match s.sgr.refuse with | some t => before s.dtc t | none => false
  if s.lifecycle = 0 ∨ late ∨ (level = 1 ∧ s.lifecycle ≠ 2) then s.cmdDenied
  else if arg = [] ∨ level = 0 ∨ level = 3 then ({ status := .failInvalid }, s)
  else
    let (i, s) := s.takeFree
    let block := (List.range 64).map (Config.freeByte i) ++ s.idh ++ leBytes 1 level ++ List.replicate 7 0
      ++ leBytes 8 s.dtc.toNat ++ List.replicate 16 0
    ({ status := .ok, out := block }, s.sgrUpd fun x => { x with chal := some { block, level, at_ := s.dtc } })

/-- R542: a session opens. -/
def State.sessionOpen (s : State) (block : List Byte) (level : Nat) : State :=
  let s := (s.setFld PG.sgr R.SGR_STS 4 2 level).extendM (sha512 block) 6
  (s.bump PG.sgr R.SGR_CNT 32 16).irq PG.sgr 1

/-- R542: a challenge has expired. -/
def State.chalOld (s : State) (c : Challenge) : Bool := decide (60000000000 ≤ (s.dtc - c.at_).toNat)

/-- RESPOND (R542, R543): the answer is none where a RETURN erase has begun. -/
def State.cmdRespond (s : State) (arg : List Byte) : Option CmdRes × State :=
  match s.sgr.chal with
  | none => let (r, s) := s.cmdDenied; (some r, s)
  | some c =>
    if s.chalOld c then let (r, s) := s.cmdDenied; (some r, s)
    else if arg.length ≠ 132 then (some { status := .failInvalid }, s)
    else
      let pub := if c.level = 1 then (match s.sgr.record with | some r => recDebug r | none => []) else Config.returnKey
      let good := ecdsaOk pub c.block (beNat (arg.take 66)) (beNat (arg.drop 66)) && (c.level != 1 || s.lifecycle == 2)
      if !good then
        let (r, s) := s.cmdDenied
        (some r, s.sgrUpd fun x => { x with chal := none, refuse := some (s.dtc + 1000000000) })
      else if c.level = 2 ∧ s.lifecycle ≠ 3 then (none, s.writeMarker)
      else (some { status := .ok }, (s.sgrUpd fun x => { x with chal := none }).sessionOpen c.block c.level)

/-- CLOSE (R542). -/
def State.cmdClose (s : State) : CmdRes × State :=
  if s.dbgLevel = 0 then s.cmdDenied else ({ status := .ok }, s.sessionEnd 0)

/-- R539: the RECORD counter and its mirror after a new record. -/
def State.raise (s : State) (kind : Fin 3) (v : Nat) : State :=
  (s.sgrUpd fun x => { x with counters := x.counters.set kind (max (x.counters.get kind) v) }).showFloors

/-- SET_OWNER (R539). -/
def State.cmdSetOwner (s : State) (arg : List Byte) : CmdRes × State :=
  let r := arg.take 768
  let lc := s.lifecycle
  let signed := match s.sgr.record with
    | some old => ecdsaOk (recOwner old) r (beNat ((arg.drop 768).take 66)) (beNat (arg.drop 834))
    | none => false
  if lc = 0 then s.cmdDenied
  else if arg.length ≠ (if lc = 2 then 900 else 768) ∨ leNat (r.take 4) ≠ 0x4F57_4E52 then ({ status := .failInvalid }, s)
  else if (lc = 2 ∧ !signed) ∨ !recOk s.idh r ∨ recSeq r ≤ s.sgr.counters.get 2 then s.cmdDenied
  else
    let s := match s.flashEntry 2 0 with | some e => s.flashPut e.1 r | none => s
    ({ status := .ok }, s.raise 2 (recSeq r))

/-- RAISE_FLOOR (R539): kind in bytes 0–3, value in bytes 4–7. -/
def State.cmdRaise (s : State) (arg : List Byte) : CmdRes × State :=
  let kind := leNat (arg.take 4)
  let v := leNat (arg.drop 4)
  let run := match kind with
    | 0 => s.fld PG.sgr R.SGR_SVN 0 16
    | 1 => s.fld PG.sgr R.SGR_SVN 16 16
    | _ => recSeq (s.sgr.record.getD [])
  if s.lifecycle ≠ 2 then s.cmdDenied
  else if arg.length ≠ 8 ∨ 2 < kind then ({ status := .failInvalid }, s)
  else if run < v then s.cmdDenied
  else ({ status := .ok }, s.raise ⟨kind % 3, Nat.mod_lt _ (by decide)⟩ v)

/-- ENROLL (R538): new helper data; the identity follows from it at the next cold start. -/
def State.cmdEnroll (s : State) : CmdRes × State :=
  if s.lifecycle ≠ 0 then s.cmdDenied
  else
    let (i, s) := s.takeFree
    let s := match s.flashEntry 1 0 with
      | some e => s.flashPut e.1 ((List.range (min e.2 8192)).map (Config.freeByte i))
      | none => s
    let pub := match Config.pufSeed (s.enrollBytes.getD []) with
      | some x => ecPub (Config.identityKey x)
      | none => []
    ({ status := .ok, out := pub }, s)

/-- R539: a command by its OP; none where it goes on (a RETURN erase). -/
def State.cmdRun (s : State) (op : Nat) (arg : List Byte) : Option CmdRes × State :=
  let f := fun (x : CmdRes × State) => (some x.1, x.2)
  match op with
  | 1 => f s.cmdGetId
  | 2 => f (s.cmdQuote arg)
  | 3 => f (s.cmdExtend arg)
  | 4 => f s.cmdSeal
  | 5 => f (s.cmdLockset arg)
  | 6 => f (s.cmdDerive arg)
  | 7 => f (s.cmdChallenge arg)
  | 8 => s.cmdRespond arg
  | 9 => f s.cmdClose
  | 10 => f (s.cmdSetOwner arg)
  | 11 => f (s.cmdRaise arg)
  | _ => (some { status := .failInvalid }, s)

/-- R543: Saggar runs a RETURN erase. -/
def State.eraseStart (s : State) (item : Option Nat) : State :=
  (s.sgrUpd fun x => { x with erase := some item }).setBit PG.sgr R.SGR_STS 7 true

/-- R539: a command by SGR_CMD: an item opens, the argument is read, the output written. -/
def State.sgrCmd (s : State) (w : Wr) : State :=
  let pg := PG.sgr
  let op := bf w.val 0 8
  if s.bit pg R.SGR_STS 7 then s.logWr pg w .busy
  else if !s.itemFree .ordinary then s.ledgerFull pg w
  else
    let (i, s) := s.openItem pg (bf w.val 8 6) 0 false
    let a := (s.reg pg R.SGR_ARG).toNat
    let n := s.fld pg R.SGR_ARG_LEN 0 16
    let o := (s.reg pg R.SGR_OUT).toNat
    let takes := [2, 3, 5, 6, 7, 8, 10, 11].contains op
    if takes ∧ (a % 64 ≠ 0 ∨ !s.inHbm a n) then s.closeItem i .failInvalid 0
    else
      let (r, s) := if takes then s.readBytes a n else ({ bytes := [], bad := false }, s)
      if r.bad then s.closeItem i .failPoison 0
      else
        match s.cmdRun op r.bytes with
        | (none, s) => s.eraseStart (some i)
        | (some c, t) =>
          if c.out.isEmpty then t.closeItem i c.status 0
          else if s.fld pg R.SGR_OUT_LEN 0 16 < c.out.length ∨ o % 64 ≠ 0 ∨ !s.inHbm o c.out.length then s.closeItem i .failInvalid 0
          else (t.writeBytes (some i) o c.out).closeItem i c.status 0

/-- R547: a write to page 0x002. -/
def State.sgrWrite (s : State) (w : Wr) : State :=
  if w.reg = R.SGR_CMD then s.sgrCmd w
  else if s.bit PG.sgr R.SGR_STS 7 ∧ [R.SGR_ARG, R.SGR_ARG_LEN, R.SGR_OUT, R.SGR_OUT_LEN].contains w.reg then
    s.logWr PG.sgr w .busy
  else s.plainWrite PG.sgr w

/-- R541, R544: what the TAP's mailbox answers to a command that it does not run: unpowered, asleep, busy. -/
def State.tapGate (s : State) (act : State → CmdRes × State) : State :=
  let s := s.hostUpd fun x => { x with tapIdle := false }
  let up := match s.pwr.phase with
    | .exiting => s.pwr.step == 4 && s.fld PG.sgr R.SGR_STS 16 4 != 0
    | .porst | .slumber | .dormant | .tripped => false
    | _ => true
  if !up then { s with reply := .none }
  else if s.stopped PG.sgr then { s with reply := .asleep }
  else if s.bit PG.sgr R.SGR_STS 7 then { s with reply := .busy }
  else
    let (c, s) := act s
    { s with reply := .tap c.status.code c.out }

/-- R541: the mailbox runs these commands only, and in UNENROLLED none of them (R538). -/
def tapOps : List Nat := [1, 7, 8, 9, 10]

/-- R541: a command by the mailbox. -/
def State.tapCmd (s : State) (op : Nat) (arg : List Byte) : State :=
  s.tapGate fun s =>
    if !tapOps.contains op then ({ status := .failInvalid }, s)
    else if s.lifecycle = 0 then s.cmdDenied
    else match s.cmdRun op arg with
      | (some c, s) => (c, s)
      | (none, s) => ({ status := .ok }, s.eraseStart none)

/-- R539, R541: a command by the path that it takes; by SGR_CMD it is a write of that register. -/
def State.sgrVia (s : State) (op : Nat) (via : SgrVia) : State :=
  match via with
  | .host ini cq => s.wrTo PG.sgr State.sgrWrite ini R.SGR_CMD (wOfNat (op + cq.val <<< 8))
  | .tap arg => s.tapCmd op arg

/-- R543: a RETURN erase has come to its end: the level opens. -/
def State.returnDone (s : State) : State :=
  match s.sgr.erase with
  | none => s
  | some item =>
    let block := match s.sgr.chal with | some c => c.block | none => []
    let s := ((s.eraseSecrets).fillAll).hostReset
    let s := s.sgrUpd fun x => { x with erase := none, chal := none, record := none }
    let s := (s.setBit PG.sgr R.SGR_STS 7 false).setFld PG.sgr R.SGR_STS 0 3 3
    let s := (s.sessionOpen block 2).irq PG.sgr 3
    match item with
    | some i => s.closeItem i .ok 0
    | none => s

/-- R542: an outstanding challenge expires. -/
def State.chalExpire (s : State) : State :=
  match s.sgr.chal with
  | none => s
  | some c => if s.chalOld c && s.sgr.erase.isNone then s.sgrUpd fun x => { x with chal := none } else s

/-! ### Commands -/

/-- R532: BOOT_STAGE_0, within step X4 of an exit (R518). -/
def execBootStage0 (authentic : Bool) (s : State) : Res :=
  s.ends (if s.pwr.phase = .exiting ∧ s.pwr.step = 4 ∧ s.coldPending then s.stage0 authentic else s)

/-- R532: BOOT_STAGE_1, after step X4. -/
def execBootStage1 (s : State) : Res :=
  s.ends (if s.pwr.phase = .active ∧ s.alive PG.sgr ∧ s.fld PG.sgr R.SGR_STS 8 3 = 1 ∧ s.fld PG.sgr R.SGR_STS 16 4 = 0
    then s.stage1 else s)

/-- R541: STATUS by the mailbox. -/
def execStatus (s : State) : Res :=
  s.ends (s.tapGate fun s => ({ status := .ok, out := leBytes 8 (s.reg PG.sgr R.SGR_STS).toNat }, s))

/-- R538: ENROLL by the mailbox. -/
def execEnroll (s : State) : Res := s.ends (s.tapGate State.cmdEnroll)

/-- R539: GET_ID. -/
def execGetId (via : SgrVia) (s : State) : Res := s.ends (s.sgrVia 1 via)

/-- R537: QUOTE. -/
def execQuote (via : SgrVia) (s : State) : Res := s.ends (s.sgrVia 2 via)

/-- R536: EXTEND. -/
def execExtend (via : SgrVia) (s : State) : Res := s.ends (s.sgrVia 3 via)

/-- R540: SEAL. -/
def execSeal (via : SgrVia) (s : State) : Res := s.ends (s.sgrVia 4 via)

/-- R540: LOCKSET. -/
def execLockset (via : SgrVia) (s : State) : Res := s.ends (s.sgrVia 5 via)

/-- R539: DERIVE. -/
def execDerive (via : SgrVia) (s : State) : Res := s.ends (s.sgrVia 6 via)

/-- R542: CHALLENGE. -/
def execChallenge (via : SgrVia) (s : State) : Res := s.ends (s.sgrVia 7 via)

/-- R542: RESPOND. -/
def execRespond (via : SgrVia) (s : State) : Res := s.ends (s.sgrVia 8 via)

/-- R543: RETURN_ERASE_DONE. -/
def execReturnEraseDone (s : State) : Res := s.ends s.returnDone

/-- R542: CLOSE. -/
def execClose (via : SgrVia) (s : State) : Res := s.ends (s.sgrVia 9 via)

/-- R539: SET_OWNER. -/
def execSetOwner (via : SgrVia) (s : State) : Res := s.ends (s.sgrVia 10 via)

/-- R539: RAISE_FLOOR. -/
def execRaiseFloor (via : SgrVia) (s : State) : Res := s.ends (s.sgrVia 11 via)

/-- R542: CHALLENGE_EXPIRE. -/
def execChallengeExpire (s : State) : Res := s.ends s.chalExpire

end Sys2Proof.Machine
end

