-- ==== Sys2Proof/Machine/Power.lean ====
section
/-!
DEFINITION. Machine/Power.lean: the power controller: entry and its handshake, rollback, wake sources, exit, retention and its
failures (R501 to R527), the CORE_CLK point (R33, R34, R580), rail faults and the thermal trip (R584, R592), power-on reset
and straps (R526).
-/

namespace Sys2Proof.Machine

/-- `s` with the power controller's state changed. -/
def State.pwrUpd (s : State) (f : PwrState → PwrState) : State := { s with pwr := f s.pwr }

/-! ### The handshake (R504 to R509) -/

/-- R503: the port is kept running in WATCH. -/
def State.watchPort (s : State) (p : Nat) : Bool := s.bit PG.pwc R.PWC_WATCH_PORTS p

/-- R505: the pages that get REQ, with their step, in order. -/
def State.reqOrder (s : State) (target : Nat) : List (Nat × Nat) :=
  let deep := target != 1
  let at_ := fun (k : Nat) (l : List Nat) => l.map fun p => (p, k)
  let ports := (List.range 8).filter fun p => deep || !s.watchPort p
  at_ 1 [PG.wth] ++ at_ 2 [PG.net 0, PG.net 1, PG.pcie]
    ++ at_ 3 (PG.adm :: ports.flatMap fun p => [PG.sp p, PG.ieq p, PG.sv p])
    ++ at_ 4 ((List.range 8).map PG.chd ++ [PG.loc]) ++ at_ 5 ((List.range 8).map PG.spk ++ List.range' 0x040 24)
    ++ at_ 6 [PG.res]
    ++ at_ 7 ((if deep then [PG.rch] else []) ++ (if deep || ports.length == 8 then [PG.sfs] else []))
    ++ at_ 8 [PG.scb, PG.sgr] ++ at_ 9 [PG.ldg] ++ at_ 10 [PG.host, PG.xspi, PG.i2c, PG.uart, PG.gpio]
    ++ at_ 11 ((List.range 16).map PG.mem)
    ++ (if deep then at_ 12 ([PG.tcal, PG.rfx] ++ (List.range 8).map PG.ptb ++ [PG.dtc]) else [])

/-- R506: REQ goes to the first page that has not answered; it ends Saggar's session before SLUMBER and DORMANT (R504). A page
that WATCH has stopped stays so (DEDUCED, log 161). -/
def State.sendReq (s : State) : State :=
  match s.pwr.todo with
  | [] => s
  | (pg, _) :: _ =>
    let s := s.pwrUpd fun x => { x with reqAt := s.dtc }
    let hs := if s.pwr.held.contains pg then 2 else 1
    let s := s.setReg pg R.PG_PWR (wOfNat (hs + (s.fld pg R.PG_PWR 2 2) <<< 2 + s.pwr.target <<< 8))
    if pg = PG.sgr ∧ s.pwr.target ≠ 1 then s.sessionEnd 1 else s

/-- R504: REF_WHY of a request, 0 where it passes. -/
def State.refWhy (s : State) (target : Nat) (ini : Initiator) : Nat :=
  let here := match s.pwr.phase with
    | .active => true
    | .watch => target != 1 && ini == .hostCore 0
    | _ => false
  if !here then 1
  else if s.fld PG.pwc R.PWC_DEFER_MAX 0 20 = 0 then 2
  else if target ≠ 1 ∧ s.reg PG.pwc R.PWC_WAKE_EN = 0 then 3
  else 0

/-- R504: an entry is requested. -/
def State.enterReq (s : State) (target : Nat) (ini : Initiator) : State :=
  match s.refWhy target ini with
  | 0 =>
    let s := (s.setBit PG.pwc R.PWC_STS 3 true).setFld PG.pwc R.PWC_STS 4 2 target
    (s.pwrUpd fun x => { x with
      fromWatch := x.phase == .watch, phase := .entering, target, step := 1, todo := s.reqOrder target, acked := []
      held := if x.phase = .watch then x.acked else []
      wake := [], replayed := false, startAt := s.dtc }).sendReq
  | n => ((s.setBit PG.pwc R.PWC_STS 8 true).setFld PG.pwc R.PWC_STS 9 3 n).irq PG.pwc 0

/-- R506: what a page answers. -/
inductive Answer where
  | ack | defer | nack (reason : Nat)
  deriving DecidableEq, Repr

/-- R369, R395, R506: the page has work of its own that it does not put off. -/
def State.pageBusy (s : State) (k : PageKind) (page : Nat) (coresReady : Bool) : Bool :=
  let i := pageInstance k page
  let c := s.pageItems page != 0
  match k with
  | .adm => (List.finRange 8).any fun (p : Fin 8) => !(s.adm.hold.get p).isEmpty
  | .sp => c || !(s.sp.get (fin8 i)).toSieve.isEmpty
  | .ieq => c || !(s.ieq.get (fin8 i)).q.isEmpty
  | .chd => c || !(s.chd.get (fin8 i)).q.isEmpty || !(s.chd.get (fin8 i)).out.isEmpty
  | .loc => if s.pwr.target = 1 then c || s.loc.inputs.toList.any (fun l => !l.isEmpty) || !s.loc.deltas.isEmpty else false
  | .spk | .spk6 | .spk7 =>
    c || (s.spk.routers.get (fin8 i)).inq.toList.any (fun l => !l.isEmpty) || (s.spk.routers.get (fin8 i)).out.isSome
  | .lat => c || !(s.lat.get (fin6 i)).buf.isEmpty || !(s.lat.get (fin6 i)).out.isEmpty
  | .fct =>
    let x := s.inc.get (fin6 i)
    c || (s.fct.get (fin6 i)).run.isSome || !(s.fct.get (fin6 i)).items.isEmpty
      || x.toList.any fun y => y.reb.isSome || y.ro.isSome || y.det.isSome || y.clear.isSome || !y.q.isEmpty
  | .res => s.res.chains.toList.any fun l => !l.isEmpty
  | .rch => false
  | .sfs => c || s.fld PG.sfs R.SFS_STS 8 16 != 0
  | .sgr => c || s.bit PG.sgr R.SGR_STS 7
  | .ldg => !s.ldg.waiting.isEmpty
  | .host => !coresReady
  | .xspi => s.bit PG.xspi R.XSPI_STS 0
  | .uart => !s.host.txf.isEmpty
  | .mem0 | .mem => !(s.mem.merge.toList.getD (2 * i) []).isEmpty || !(s.mem.merge.toList.getD (2 * i + 1) []).isEmpty
  | .net0 | .net1 => c || !(s.net.get (fin2 i)).sendq.isEmpty
  | _ => c

/-- R369, R395: a descriptor runs, or a CLEAR, a readout or a detection pass that the page has begun. -/
def State.fctWorks (s : State) (k : Fin 6) : Bool :=
  (s.fct.get k).run.isSome || (s.inc.get k).toList.any fun y =>
    y.clear.isSome || (match y.ro with | some r => r.status.isSome | none => false)
      || (match y.det with | some d => d.status.isSome | none => false)

/-- R199, R254, R369, R395, R422, R506: the answer of a page to REQ; what a chapter states comes before the rule for a disabled
page. -/
def State.answer (s : State) (page : Nat) (coresReady : Bool) : Answer :=
  match pageKind page with
  | none => .ack
  | some k =>
    let deep := s.pwr.target ≠ 1
    let rest := fun (a : Answer) => if s.enabled page then a else .ack
    if s.isOff page ∨ k = .rch then .ack
    else if s.resetting page then .defer
    else match k with
      | .tcal => if deep ∧ !s.rfx.cal.isEmpty ∧ !s.bit PG.tcal R.TCAL_CTL 0 then .nack 2 else .ack
      | .fct =>
        if s.fctWorks (fin6 (pageInstance k page)) then .defer
        else rest (if s.pageBusy k page coresReady then .defer else .ack)
      | .wth => rest (if s.bit PG.wth R.WTH_CTL 0 then .nack 3 else .ack)
      | .ptb =>
        rest (if deep ∧ s.bit page R.PTB_ALARM_CTL 0 ∧ s.bit page R.PTB_ALARM_CTL 1 ∧ s.fld page R.PTB_CTL 0 3 ≠ 0
            ∧ s.bit PG.pwc R.PWC_WAKE_EN 1 then .nack 4
          else .ack)
      | _ => rest (if s.pageBusy k page coresReady then .defer else .ack)

/-- R506, R507: time since REQ in µs. -/
def State.deferUs (s : State) : Nat := (s.dtc - s.pwr.reqAt).toNat / 1000

/-- R506: a page stops. -/
def State.pageStop (s : State) (page : Nat) : State :=
  let us := if s.fld page R.PG_PWR 2 2 = 3 then s.deferUs else 0
  let s := if page = PG.tcal ∧ s.pwr.target ≠ 1 ∧ !s.rfx.cal.isEmpty then s.calFlush 3 0 0 0 9 else s
  let s := if page = PG.host then s.hartsHalt (s.pwr.target != 1) else s
  let s := if page = PG.adm then s.admPaused else s
  let s := s.setReg page R.PG_PWR (wOfNat (2 + 1 <<< 2 + s.pwr.target <<< 8 + (us % 2 ^ 32) <<< 32))
  (s.pwrUpd fun x => { x with todo := x.todo.drop 1, acked := page :: x.acked }).sendReq

/-- R508: a stopped page goes on. -/
def State.pageGo (s : State) (page : Nat) : State :=
  let s := s.setFld page R.PG_PWR 0 2 0
  let s := if page = PG.host then s.hartsResume else s
  if page = PG.res then s.resTake else s

/-- R508: a page returns to the state it held before its REQ: one that WATCH had stopped stays stopped. -/
def State.pageBack (s : State) (page : Nat) : State :=
  if s.pwr.held.contains page then
    let s := s.setFld page R.PG_PWR 0 2 2
    if page = PG.host then s.setBit PG.host R.HOST_HART_STS 8 false else s
  else s.pageGo page

/-- R508: the entry's stopped pages go on, the last one first; the device stands where it stood before the request. -/
def State.entryUndo (s : State) : State :=
  let s := s.pwr.acked.foldl State.pageBack s
  let s := match s.pwr.todo with
    | (pg, _) :: _ => s.setFld pg R.PG_PWR 0 2 (if s.pwr.held.contains pg then 2 else 0)
    | [] => s
  s.pwrUpd fun x => { x with phase := if x.fromWatch then .watch else .active, todo := [], acked := x.held, held := [], wake := []
                             alarms := [] }

/-- R508: a NACK ends the handshake; a wake event that had been latched is counted. -/
def State.nackReq (s : State) (page step reason : Nat) : State :=
  let us := if s.fld page R.PG_PWR 2 2 = 3 then s.deferUs else 0
  let hs := if s.pwr.held.contains page then 2 else 0
  let s := s.setReg page R.PG_PWR (wOfNat (hs + 2 <<< 2 + reason <<< 4 + s.pwr.target <<< 8 + (us % 2 ^ 32) <<< 32))
  let s := s.setReg PG.pwc R.PWC_ENTRY_LOG
    (wOfNat (page + reason <<< 16 + s.pwr.target <<< 20 + step <<< 24 + s.dtcLow <<< 32))
  let s := (s.bump PG.pwc R.PWC_CNT 0 16).irq PG.pwc 0
  let s := (s.setBit PG.pwc R.PWC_STS 3 false).setBit PG.pwc R.PWC_STS 6 true
  let s := if s.pwr.wake.isEmpty then s else s.bump PG.pwc R.PWC_ABORT_CNT 0 32
  s.pwrUpd fun x => { x with phase := .rollback, todo := [], wake := [] }

/-- R506: the page that has REQ answers; before its ACK to SLUMBER, LOC writes back its dirty lines. -/
def State.pageAnswer (s : State) (coresReady : Bool) : State :=
  match s.pwr.phase, s.pwr.todo with
  | .entering, (pg, step) :: _ =>
    match s.answer pg coresReady with
    | .ack => (if pg = PG.loc ∧ s.pwr.target = 2 then s.cacheSync else s).pageStop pg
    | .nack r => s.nackReq pg step r
    | .defer => (s.setFld pg R.PG_PWR 2 2 3).setFld pg R.PG_PWR 32 32 s.deferUs
  | _, _ => s

/-- R507: a page has answered DEFER for PWC_DEFER_MAX. -/
def State.deferEnd (s : State) : State :=
  match s.pwr.phase, s.pwr.todo with
  | .entering, (pg, step) :: _ =>
    if s.fld pg R.PG_PWR 2 2 ≠ 3 ∨ s.deferUs < s.fld PG.pwc R.PWC_DEFER_MAX 0 20 then s
    else if s.bit PG.pwc R.PWC_CTL 0 then s.pageStop pg
    else s.nackReq pg step 1
  | _, _ => s

/-- R508: the rollback completes. -/
def State.rollbackEnd (s : State) : State :=
  if s.pwr.phase ≠ .rollback then s
  else (s.entryUndo).setFld PG.pwc R.PWC_STS 4 3 0

/-! ### Power-down (R473, R502, R522, R524) -/

/-- R524: bits of a register that the retention set, or the AON domain, keeps across SLUMBER; `deep` across DORMANT. -/
def keepMask (k : PageKind) (off : Nat) (deep : Bool) : Word :=
  let all : Word := BitVec.allOnes 64
  let rw : Word := match findReg (kindRegs k) off with | some (d, _, _) => BitVec.ofNat 64 d.rw | none => 0
  let in_ := fun (l : List Nat) => if l.contains off then all else 0
  match k with
  | .pwc => all
  | .ptb => if off = R.PTB_STS then 3 else rw
  | .dtc => if (List.range 8).any fun i => off = R.TMAP_CTL i then all else rw
  | .rfx => if off = R.RFX_CTL ∨ (0x200 ≤ off ∧ off < 0x300) ∨ (0x1000 ≤ off ∧ (off - 0x1000) % 0x80 < 0x48) then all else 0
  | .tcal => in_ [R.TCAL_CTL]
  | .sp => if [R.SP_CTL, R.SP_GEOM, R.SP_PHY_CTL, R.SP_RLY_CTL, R.SP_CCI_CTL].contains off ∨ (0x1000 ≤ off ∧ off < 0x1800) then all
    else 0
  | .sfs => if (List.range 8).any fun i => off = R.SFS_P_CFG i then all else 0
  | .ieq => in_ [R.IEQ_CTL, R.IEQ_TAIL_TIMEOUT]
  | .loc => if off = R.LOC_STS then (if deep then 0 else 1) else if off = R.LOC_LIVE ∧ !deep then all else rw
  | .net0 | .net1 =>
    if [R.NET_CTL, R.NET_MAC_ADDR, R.NET_MAX_FRAME, R.NET_TS_LAT].contains off ∨ (0x180 ≤ off ∧ off ≤ 0x1A8)
        ∨ (0x1000 ≤ off ∧ off < 0x1080 ∧ (off - 0x1000) % 0x20 < 0x10) then all
    else if 0x2000 ≤ off then (if deep ∧ (off - 0x2000) % 0x80 = 0 then ~~~1 else all) else 0
  | .ldg =>
    if off = R.LDG_CTL ∨ off = R.LDG_RESERVE then all
    else if 0x1000 ≤ off then (if deep ∧ (off - 0x1000) % 0x40 = 0x20 then ~~~1 else all) else 0
  | .res =>
    if off = R.RES_CTL ∨ off = R.RES_ROUTE_DEV ∨ off = R.MDL_ID then all
    else if 0x2000 ≤ off then (if deep ∧ (off - 0x2000) % 0x40 = 0x20 then ~~~1 else all) else 0
  | .wth => in_ [R.WTH_CTL, R.WTH_CMP_TOL, R.WTH_PTB_TOL]
  | .mem0 | .mem => if deep then in_ [R.MEM_THR] else in_ [R.MEM_THR, R.MEM_STS, R.MEM_CFG]
  | .uart => in_ [R.UART_CTL]
  | .gpio => in_ [R.GPIO_OUT, R.GPIO_OE, R.GPIO_IRQ_CFG]
  | .sgr => if [R.SGR_STS, R.SGR_FLOOR, R.SGR_SVN, R.SGR_MEAS_CNT].contains off ∨ (0x200 ≤ off) then all else 0
  | _ => 0

/-- R524: the registers after a power-down that keeps the set (`saved`) or nothing; headers stand (R572). -/
def State.regsDown (s : State) (saved deep : Bool) : State :=
  { s with regs := s.regs.filterMap fun e =>
      let page := e.1 / 0x10000
      let off := e.1 % 0x10000
      match pageKind page with
      | none => none
      | some k =>
        if off < 0x100 ∨ k = .pwc then some e
        else
          let m := if saved then keepMask k off deep else 0
          let d := regReset page off
          let v := (e.2 &&& m) ||| (d &&& ~~~m)
          if v = d then none else some (e.1, v) }

/-- R516, R525: the base freezes where it stands. -/
def State.ptbFreeze (s : State) (p : Fin 8) : State :=
  let x := s.pos p
  s.ptbUpd p fun b => { pos := x, at_ := s.dtc, la := b.la, lb := b.lb, lz := b.lz, discAt := b.discAt, extrapOn := b.extrapOn, velEdges := b.velEdges,
                        encFilt := b.encFilt }

/-- R524: what the blocks keep besides registers is lost, but for the retention set. -/
def State.blocksDown (s : State) (saved deep : Bool) : State :=
  let s := if saved then (List.finRange 8).foldl State.ptbFreeze s else { s with ptb := Vector.replicate 8 {} }
  let s := if saved && !deep then s
    else if saved then s.addCnt PG.rfx R.RFX_CNT0 48 16 s.rfx.recs.length else s
  let recs := if saved && !deep then s.rfx.recs else []
  let res : ResState := if saved then { rseq := s.res.rseq, marks := if deep then Vector.replicate 32 [] else s.res.marks } else {}
  let host : HostState := { pins := s.host.pins, tapIdle := s.host.tapIdle }
  { s with
    sched := if saved then s.sched.filter fun i => match i.id with | .alarm _ | .pps => true | _ => false else []
    ldg := { cqBase := if saved then s.ldg.cqBase else Vector.replicate 64 0 }
    rfx := { recs, hbAt := s.rfx.hbAt }
    res, host
    tmap := Vector.replicate 8 {}, net := Vector.replicate 2 {}, pps := {}, sp := Vector.replicate 8 {}
    ieq := Vector.replicate 8 {}, sfs := {}, chd := Vector.replicate 8 {}, loc := {}, rch := {}, adm := {}
    lat := Vector.replicate 6 {}, spk := {}, fct := Vector.replicate 6 {}
    inc := Vector.replicate 6 (Vector.replicate 2 {}), twin := {}
    inReset := [], unlocked := [] }

/-- R464, R501, R524: the shelves lose their contents; HBM does without power. -/
def State.memDown (s : State) (hbm : Bool) : State :=
  let s := (List.range 6).foldl (fun s k => s.forgetRange (shelfBase k) (shelfBase k + shelfBytes)) s
  let s : State := { s with mem := { s.mem with merge := Vector.replicate 32 [] } }
  if hbm then s.forgetRange 0 s.part.hbmBytes else s

/-- R545: what Saggar does not keep. -/
def State.sgrDown (s : State) (saved : Bool) : State :=
  if saved then s.sgrUpd fun x => { x with chal := none, refuse := none, erase := none }
  else s.sgrUpd fun x => { counters := x.counters }

/-- R502: outputs that a state keeps on: 2 SLUMBER, 3 DORMANT, else all. -/
def State.railsKept (s : State) (target : Nat) : BitVec 7 :=
  let rly := (List.range 8).any fun p => s.bit (PG.sp p) R.SP_RLY_CTL 0
  if target = 2 then (if rly then 0x61 else 0x60) else if target = 3 then (if rly then 0x01 else 0) else 0x7F

/-- A port placed in a list by ascending key. -/
def portInsert (key : Fin 8 → Nat) (p : Fin 8) : List (Fin 8) → List (Fin 8)
  | [] => [p]
  | q :: r => if key p < key q then p :: q :: r else q :: portInsert key p r

/-- R524: enabled ports by ascending surface region. -/
def State.portOrder (s : State) : List (Fin 8) :=
  ((List.finRange 8).filter fun (p : Fin 8) => s.bit (PG.sp p) R.SP_CTL 0).foldl
    (fun l p => portInsert (fun q => s.fld PG.sfs (R.SFS_P_ALLOC q) 0 23) p l) []

/-- R470, R472, R522: the domains lose power; `saved` tells whether the retention set of S3 is kept. -/
def State.domainsDown (s : State) (saved deep : Bool) : State :=
  let s := s.pwrUpd fun x => { x with saved, ports := if saved then s.portOrder else [] }
  let up := poweredPages.filter fun p => !s.isOff p
  let s := up.foldl State.epochUp s
  let s := (((s.blocksDown saved deep).memDown deep).sgrDown saved).regsDown saved deep
  { s with off := poweredPages, coreClk := 1600 }

/-- R473, R474, R507: at S5 the items of the pages that lose power end with FAIL_POWER; what can be posted is. -/
def State.itemsPower (s : State) : State :=
  let hs := s.reg PG.ldg R.PG_PWR
  let s := poweredPages.foldl (fun s p => (s.lateReplies p .failPower).closePageItems p .failPower) s
  let s := (s.setReg PG.ldg R.PG_PWR 0).postAll s.ldg.waiting.length
  s.setReg PG.ldg R.PG_PWR hs

/-! ### Alarms (R86, R516) -/

/-- R516: the DTC at which the alarm of a running FREE base falls due. -/
def State.alarmDtc (s : State) (p : Fin 8) : Option Word :=
  let pg := PG.ptb p
  let d := (s.reg pg R.PTB_ALARM - s.pos p).toInt
  let r := s.ptbNominal p
  if s.ptbSrc p ≠ 0 ∨ !s.ptbRunning p ∨ !s.bit pg R.PTB_ALARM_CTL 0 ∨ !s.bit pg R.PTB_ALARM_CTL 1 ∨ r ≤ 0 ∨ d ≤ 0 then none
  else some (s.dtc + wOfNat ((d.toNat * 10 ^ 9 + r.toNat - 1) / r.toNat))

/-- R516: wake sources armed in AON. -/
def State.armAlarms (s : State) : State :=
  s.pwrUpd fun x => { x with alarms := (List.finRange 8).filterMap fun p => (s.alarmDtc p).map fun t => (p, t) }

/-! ### Exit (R512 to R521) -/

/-- R527: bits of PWC_WAKE_CAUSE of a wake event. -/
def causeBits : WakeCause → Nat
  | .pin => 1
  | .alarm p => 2 + p.val <<< 8
  | .i2c => 4
  | .hbm => 8
  | .sw => 16

/-- R527: wake events added to PWC_WAKE_CAUSE; the alarm's PTB is that of the last one. -/
def State.addCauses (s : State) (l : List WakeCause) : State :=
  l.foldl (fun s c =>
    let s := match c with | .alarm _ => s.setFld PG.pwc R.PWC_WAKE_CAUSE 8 3 0 | _ => s
    s.orReg PG.pwc R.PWC_WAKE_CAUSE (wOfNat (causeBits c))) s

/-- R512, R518: an exit starts from the state left: 0 power-on reset, 1 WATCH, 2 SLUMBER, 3 DORMANT. -/
def State.exitStart (s : State) (from_ : Nat) (wake : List WakeCause) (replayed : Bool) : State :=
  let s := s.setReg PG.pwc R.PWC_WAKE_CAUSE (wOfNat (from_ <<< 12))
  let s := if replayed then s else s.addCauses wake
  s.pwrUpd fun x => { x with phase := .exiting, target := from_, step := 1, wake, replayed, startAt := s.dtc, attempts := 0,
                             retry := false }

/-- R513, R517: a wake event from an enabled source. -/
def State.wakeEvent (s : State) (c : WakeCause) : State :=
  match s.pwr.phase with
  | .watch => s.exitStart 1 [c] false
  | .slumber => s.exitStart 2 [c] false
  | .dormant => s.exitStart 3 [c] false
  | .entering => s.pwrUpd fun x => { x with wake := x.wake ++ [c] }
  | .exiting =>
    let s := match c with | .alarm _ => s.pwrUpd fun x => { x with wake := x.wake ++ [c] } | _ => s
    s.addCauses [c]
  | .rollback => s.bump PG.pwc R.PWC_ABORT_CNT 0 32
  | .active | .porst | .tripped => s

/-- R86, R513: an alarm is a wake source. -/
def State.alarmWakes (s : State) (p : Fin 8) : Bool :=
  s.bit PG.pwc R.PWC_WAKE_EN 1 && s.bit (PG.ptb p) R.PTB_ALARM_CTL 1

/-- R516: an AON comparator has been reached. -/
def State.alarmReach (s : State) (p : Fin 8) : State :=
  match s.pwr.alarms.find? fun a => a.1 == p && atOrAfter s.dtc a.2 with
  | none => s
  | some _ =>
    let s := s.pwrUpd fun x => { x with alarms := x.alarms.filter fun a => a.1 != p }
    if s.alarmWakes p then s.wakeEvent (.alarm p) else s

/-- R514: the host domain is off, so that the AON detector watches the management bus. -/
def State.hostOff (s : State) : Bool := s.isOff PG.i2c

/-- R514: a write header on the management bus. -/
def State.mgmtWakeHdr (s : State) : State :=
  let s : State := if s.hostOff then { s with reply := .nack } else s
  if s.bit PG.pwc R.PWC_WAKE_EN 2 then s.wakeEvent .i2c else s

/-- R519 to R521: an exit fails: every rail drops, and the device stays in DORMANT. -/
def State.exitFail (s : State) (cause : Nat) : State :=
  let s := if s.isOff PG.ldg then (s.memDown true).regsDown true true else s.domainsDown false true
  let s := (s.setBit PG.pwc R.PWC_WAKE_FAIL 0 true).setFld PG.pwc R.PWC_WAKE_FAIL 1 2 cause
  let s := s.setFld PG.pwc R.PWC_STS 0 7 0
  s.pwrUpd fun x => { x with phase := .dormant, target := 3, step := 0, pwrEn := 0, refclk := false, failed := true, retry := false,
                             wake := [] }

/-- R519: X1 has timed out; `low` holds the PG inputs that were low. -/
def State.regTimeout (s : State) (low : BitVec 7) : State :=
  if s.pwr.phase ≠ .exiting ∨ s.pwr.step ≠ 1 ∨ s.pwr.retry then s
  else
    let n := s.pwr.attempts + 1
    if n < 3 then s.pwrUpd fun x => { x with attempts := n, retry := true, reqAt := s.dtc }
    else ((s.exitFail 1).setFld PG.pwc R.PWC_WAKE_FAIL 4 7 low.toNat).setFld PG.pwc R.PWC_WAKE_FAIL 12 4 3

/-- R519: 20 ms after a failed attempt. -/
def State.regRetry (s : State) : State :=
  if s.pwr.phase = .exiting ∧ s.pwr.retry ∧ 20000000 ≤ (s.dtc - s.pwr.reqAt).toNat then
    s.pwrUpd fun x => { x with retry := false }
  else s

/-- R520: X2 has timed out. -/
def State.oscTimeout (s : State) (mhz : BitVec 8) : State :=
  if s.pwr.phase ≠ .exiting ∨ s.pwr.step ≠ 2 then s
  else (s.exitFail 2).setFld PG.pwc R.PWC_WAKE_FAIL 16 8 mhz.toNat

/-- R521: X4 has timed out. -/
def State.logicTimeout (s : State) : State :=
  if s.pwr.phase ≠ .exiting ∨ s.pwr.step ≠ 4 then s else s.exitFail 3

/-- R546: Saggar's wake path: the running firmware slot still holds the kept image, or a cold boot follows. -/
def State.sgrWake (s : State) : State :=
  let slot := s.fld PG.sgr R.SGR_SVN 32 1
  let same : Bool := match s.flashEntry 3 slot with
    | none => false
    | some e =>
      let len := leNat ((s.flashBytes e.1 24).drop 16)
      decide (len ≤ 32704) && sha512 (s.flashBytes e.1 (64 + len)) == s.sgr.fwHash
  if s.pwr.saved ∧ same then
    ((s.setBit PG.sgr R.SGR_STS 24 false).sgrUpd fun x => { x with wakes := x.wakes + 1 }).xspiSetup
  else (s.setFld PG.sgr R.SGR_STS 8 3 0).setFld PG.sgr R.SGR_STS 16 4 0

/-- R518: step X3 has ended and step X4 begins. -/
def State.exitLogic (s : State) : State :=
  let s := s.pwrUpd fun x => { x with step := 4 }
  if s.pwr.target = 1 ∨ s.pwr.target = 0 then s else s.sgrWake

/-- R451, R454: the stack has been trained. -/
def State.trained (s : State) (t : Train) : State :=
  let s := (List.finRange 16).foldl (fun s (c : Fin 16) =>
    s.setReg (PG.mem c) R.MEM_STS (wOfNat (1 + (min 15 (t.repaired.filter (· == c)).length) <<< 2))) s
  (s.setFld (PG.mem 0) R.MEM_CFG 0 2 t.rate).setFld (PG.mem 0) R.MEM_CFG 4 4 (match s.part with | .i24 => 12 | .i16 => 8)

/-- R454, R521: some channel has failed at every rate: the stack is offline and the exit goes on. -/
def State.memOffline (s : State) (failed : List (Fin 16)) : State :=
  if s.pwr.phase ≠ .exiting ∨ s.pwr.step ≠ 3 then s
  else
    let s := (List.finRange 16).foldl (fun s (c : Fin 16) => s.setBit (PG.mem c) R.MEM_STS 1 true) s
    let s := s.pwrUpd fun x => { x with memFail := failed }
    (s.setBit PG.pwc R.PWC_WAKE_FAIL 3 true).exitLogic

/-! ### The end of an exit (R518, R524, R525, R567) -/

/-- R73, R525: a running base resumes; a servo base has then accepted nothing, as at a start (DEDUCED, log 203: it re-enters
ACQUIRE), and the DTC of its last discontinuity stands (R71 lists no wake); an encoder base stands still until its next edge. -/
def State.ptbResume (s : State) (p : Fin 8) : State :=
  if !s.ptbRunning p then s
  else
    let x0 := (s.ptb.get p).pos
    let free := s.ptbSrc p = 0
    let b := if free then s.settled p else { s.ptb.get p with at_ := s.dtc }
    let s := s.ptbUpd p fun _ => { b with accAt := s.dtc, accepted := false, inTol := 0, outTol := 0 }
    let s := (s.setFld (PG.ptb p) R.PTB_STS 0 6 1).setBit (PG.ptb p) R.PTB_STS 2 (s.ptbEnc p)
    let s := s.schedMap (schedStepped p x0 b.pos (stepCode .wake))
    let s := s.discRecord { base := p, cause := .wake, dtc := s.dtc, posBefore := x0, posAfter := b.pos }
    if free then s.ptbSetState p 2 else s

/-- R516: a base whose alarm has woken the device. -/
def State.alarmShow (s : State) (c : WakeCause) : State :=
  match c with
  | .alarm p => (((s.ptbFlag p 14).setBit (PG.ptb p) R.PTB_ALARM_CTL 0 false).schedDel (.alarm p))
  | _ => s

/-- R215, R217, R524: a port is enabled again: its surface is allocated and filled. -/
def State.portAgain (s : State) (p : Fin 8) : State :=
  (((s.setBit (PG.sp p) R.SP_CTL 0 false).spStart p).surfFillDone p)

/-- R524: ENABLE of a page after SLUMBER or DORMANT. -/
def enableAfter (k : PageKind) (was : Bool) : Bool :=
  match k with
  | .ieq => was
  | .adm | .scb | .mras | .sv | .chd | .loc | .lat | .fct | .shf | .spk | .spk6 | .spk7 => false
  | _ => true

/-- R470, R524: a page's header at power-up. -/
def State.headerUp (s : State) (page : Nat) : State :=
  match pageKind page with
  | none => s
  | some k =>
    let en := if s.pwr.saved then enableAfter k (s.enabled page) else kindEnable k
    let s := ((s.epochUp page).clearLogs page).setReg page R.PG_CTL (wOfNat (b2n en))
    (s.setReg page R.PG_IRQ_EN 0).setReg page R.PG_PWR 0

/-- R518: CORE_CLK in MHz at a point. -/
def clkOf (point : Nat) : Nat := 800 + 400 * point

/-- R580: the clock stands at the point of PWC_DVFS. -/
def State.clkSet (s : State) : State :=
  let pt := s.fld PG.pwc R.PWC_DVFS 0 2
  { (s.setFld PG.pwc R.PWC_STS 13 2 pt) with coreClk := clkOf pt }.pwrUpd fun x => { x with vid := pt, raise := none }

/-- R518, R524, R551: the device returns from SLUMBER or DORMANT, or comes up after power-on reset. -/
def State.bringUp (s : State) : State :=
  let first := s.pwr.target = 0
  let s := if first then s else poweredPages.foldl State.headerUp s
  let s : State := { s with off := [], rfx := { s.rfx with hbAt := s.dtc } }
  let s := s.setBit PG.pcie R.PCIE_STS 0 (s.bit PG.pwc R.PWC_STRAP 1)
  let s := s.pwr.memFail.foldl (fun s (c : Fin 16) => s.irq (PG.mem c) 4) s
  let s := (List.finRange 8).foldl State.ptbResume s
  let s := s.pwr.wake.foldl State.alarmShow s
  let s := if s.pwr.saved then s.pwr.ports.foldl State.portAgain s else s
  let s := if s.pwr.saved ∧ s.pwr.target = 2 then s.locUpd fun x => { x with flushLeft := locusSlots } else s
  let warm := s.pwr.saved && !s.bit PG.sgr R.SGR_STS 24
  let s := if warm then
      { s with host := { s.host with hold := false, start := s.host.start.set 0 (s.reg PG.pwc R.PWC_RESUME_VEC) } }
    else s
  s.clkSet.resTake

/-- R518: every domain is out of reset and the restore is complete: the device is ACTIVE. -/
def State.exitEnd (s : State) : State :=
  let from_ := s.pwr.target
  let s := if from_ = 1 then (s.pwr.acked.foldl State.pageGo s).clkSet else s.bringUp
  let s := if from_ = 0 then s.setReg PG.pwc R.PWC_WAKE_CAUSE 0x20 else s.bump PG.pwc R.PWC_CNT 16 16
  let s := if s.pwr.replayed then
      ((s.addCauses s.pwr.wake).setBit PG.pwc R.PWC_WAKE_CAUSE 7 true).bump PG.pwc R.PWC_CNT 32 16
    else s
  let s := s.setFld PG.pwc R.PWC_STS 0 7 0
  let s := s.setFld PG.pwc R.PWC_TIMES 32 32 ((s.dtc - s.pwr.startAt).toNat / 1000)
  let s := s.irq PG.pwc 1
  let s := if s.pwr.failed then s.irq PG.pwc 3 else s
  s.pwrUpd fun x => { x with phase := .active, step := 0, wake := [], replayed := false, failed := false, acked := [], alarms := [],
                             saved := false, memFail := [], ports := [] }

/-- R518: a step's ready signal arrives. -/
def State.exitStep (s : State) (t : Train) : State :=
  if s.pwr.phase ≠ .exiting ∨ s.pwr.retry then s
  else match s.pwr.step with
    | 1 => s.pwrUpd fun x => { x with pwrEn := BitVec.allOnes 7, step := 2 }
    | 2 => s.pwrUpd fun x => { x with refclk := true, step := 3 }
    | 3 => (if s.pwr.target = 0 ∨ s.pwr.target = 3 then s.trained t else s).exitLogic
    | _ => if s.coldPending ∧ s.pwr.target ≠ 1 then s else s.exitEnd

/-! ### Entry steps (R510, R511) -/

/-- R511: the entry is abandoned. -/
def State.entryAbandon (s : State) : State :=
  ((s.entryUndo).bump PG.pwc R.PWC_ABORT_CNT 0 32).setFld PG.pwc R.PWC_STS 3 3 0

/-- R510: the state is reached. -/
def State.entered (s : State) (phase : PwrPhase) (sts : Nat) : State :=
  let s := (s.setFld PG.pwc R.PWC_STS 0 3 sts).setFld PG.pwc R.PWC_STS 3 3 0
  let s := s.setFld PG.pwc R.PWC_TIMES 0 32 ((s.dtc - s.pwr.startAt).toNat / 1000)
  s.pwrUpd fun x => { x with phase, step := 0, aonPhase := 0, aonFrac := 0 }

/-- R503, R510: W4 ends. -/
def State.enterWatch (s : State) : State :=
  let s := ((s.pcieLink false).netSetLink 0 false).netSetLink 1 false
  let wake := s.pwr.wake
  let s := ({ s with coreClk := 800 }.entered .watch 1).irq PG.pwc 2
  if wake.isEmpty then s else s.exitStart 1 wake false

/-- R510, R522: S5 ends. -/
def State.enterDeep (s : State) : State :=
  let deep := s.pwr.target = 3
  let wake := s.pwr.wake
  let s := (s.itemsPower).domainsDown true deep
  let s := s.entered (if deep then .dormant else .slumber) 0
  let s := s.pwrUpd fun x => { x with pwrEn := s.railsKept x.target, refclk := false, acked := [], held := [] }
  if wake.isEmpty then s else s.exitStart s.pwr.target wake true

/-- R510: an entry step completes. -/
def State.entryStep (s : State) : State :=
  if s.pwr.phase ≠ .entering then s
  else
    let watch := s.pwr.target = 1
    let next := fun (s : State) => s.pwrUpd fun x => { x with step := x.step + 1 }
    match s.pwr.step with
    | 1 => if !s.pwr.todo.isEmpty then s else if s.pwr.wake.isEmpty then next s else s.entryAbandon
    | 2 => if s.pwr.wake.isEmpty then next s else s.entryAbandon
    | 3 =>
      let s := if watch then s else s.armAlarms
      if s.pwr.wake.isEmpty then next s else s.entryAbandon
    | 4 => if watch then s.enterWatch else next s
    | _ => s.enterDeep

/-! ### CORE_CLK points (R34, R580) -/

/-- R34, R580: a write of PWC_DVFS. -/
def State.dvfs (s : State) (w : Wr) : State :=
  let pt := bf (s.wouldBe PG.pwc w) 0 2
  let low := s.bit PG.res R.MDL_STS 0 && decide (pt < s.res.mdl.minClk)
  if 2 < pt ∨ low then (s.setBit PG.pwc R.PWC_STS 12 true).irq PG.pwc 4
  else
    let s := s.setReg PG.pwc R.PWC_DVFS (wOfNat pt)
    let now := s.fld PG.pwc R.PWC_STS 13 2
    if now < pt ∧ s.pwr.phase ≠ .watch then s.pwrUpd fun x => { x with vid := pt, raise := some (pt, s.dtc) }
    else
      let clk := if s.pwr.phase = .watch then s.coreClk else clkOf pt
      { (s.setFld PG.pwc R.PWC_STS 13 2 pt) with coreClk := clk }.pwrUpd fun x => { x with vid := pt, raise := none }

/-- R580: 100 µs after the new CORE_VID, CORE_CLK rises. -/
def State.dvfsRaise (s : State) : State :=
  match s.pwr.raise with
  | none => s
  | some (pt, t) =>
    if (s.dtc - t).toNat < 100000 then s
    else
      let clk := if s.pwr.phase = .active then clkOf pt else s.coreClk
      { (s.setFld PG.pwc R.PWC_STS 13 2 pt) with coreClk := clk }.pwrUpd fun x => { x with raise := none }

/-- R527: a write to page 0x001. -/
def State.pwcWrite (s : State) (w : Wr) : State :=
  if w.reg = R.PWC_CMD then
    match bf w.val 0 3 with
    | 1 => s.enterReq 1 w.ini
    | 2 => s.enterReq 2 w.ini
    | 3 => s.enterReq 3 w.ini
    | 4 => if s.pwr.phase = .watch ∧ w.ini = .hostCore 0 then s.wakeEvent .sw else s
    | _ => s
  else if w.reg = R.PWC_DVFS then s.dvfs w
  else s.plainWrite PG.pwc w

/-- A write to page 0x001 by an initiator; with the host domain off there is none. -/
def State.pwcWr (s : State) (ini : Initiator) (off : Nat) (v : Word) : State :=
  if s.hostOff then s else s.wrTo PG.pwc State.pwcWrite ini off v

/-! ### Rail faults, thermal trip, power-on reset (R526, R584, R592) -/

/-- R584: the PG input of an output that is on has stayed low for 10 µs, outside step X1. -/
def State.railFault (s : State) (n : Fin 7) : State :=
  let x1 := s.pwr.phase = .exiting ∧ s.pwr.step = 1
  if s.pwr.phase = .porst ∨ s.pwr.phase = .tripped ∨ x1 ∨ !s.pwr.pwrEn.getLsbD n then s
  else
    let held := s.isOff PG.ldg && s.pwr.saved
    let wake := if s.pwr.phase = .entering then s.pwr.wake else []
    let s := if s.isOff PG.ldg then (s.memDown true).regsDown held true else s.domainsDown false true
    let s := s.setReg PG.pwc R.PWC_WAKE_FAIL
      (wOfNat (bf (s.reg PG.pwc R.PWC_WAKE_FAIL) 3 1 <<< 3 + 1 + 1 <<< 1 + (1 <<< n.val) <<< 4))
    let s := s.setFld PG.pwc R.PWC_STS 0 7 0
    let s := s.pwrUpd fun x => { x with
      phase := .dormant, target := 3, step := 0, todo := [], acked := [], held := [], pwrEn := 0, refclk := false, failed := true
      retry := false, wake := [], saved := held }
    if wake.isEmpty then s else s.exitStart 3 wake false

/-- R592: the die has reached the trip temperature. -/
def State.thermTrip (s : State) : State :=
  if s.pwr.phase = .tripped ∨ s.pwr.phase = .porst then s
  else
    let s := if s.isOff PG.ldg then (s.memDown true).regsDown false true else s.domainsDown false true
    let s := s.setFld PG.pwc R.PWC_STS 0 7 0
    s.pwrUpd fun x => { x with phase := .tripped, step := 0, todo := [], acked := [], held := [], pwrEn := 0, refclk := false, wake := [],
                               saved := false, retry := false }

/-- R526: PORST_N low resets the whole device; the flash, the pins and the commands that wait are not part of it. An open
debug session ends with cause PORST (R542). -/
def State.powerOn (s : State) : State :=
  let l := s.dbgLevel
  let n : State := { State.reset with
    part := s.part, free := s.free, pending := s.pending
    enc := s.enc.map fun x => { a := x.a, b := x.b, z := x.z }
    mem := { flash := s.mem.flash, flashLog := s.mem.flashLog }
    sgr := { counters := s.sgr.counters }
    host := { pins := s.host.pins } }
  if l = 0 then n else n.setReg PG.sgr R.SGR_DBG_LOG (wOfNat (l + 3 <<< 2 + s.dtcLow <<< 32))

/-- R526: the straps are sampled, and the exit as from DORMANT starts. -/
def State.strapSample (s : State) (straps : BitVec 4) : State :=
  if s.pwr.phase ≠ .porst then s
  else (s.setReg PG.pwc R.PWC_STRAP (wOfNat straps.toNat)).exitStart 0 [] false

/-- R521: FAULT_N is asserted. -/
def State.faultN (s : State) : Bool :=
  s.bit PG.pwc R.PWC_WAKE_FAIL 0 || s.bit PG.pwc R.PWC_WAKE_FAIL 3 || s.bit (PG.mem 0) R.MEM_TEMP 17

/-- R592: THERMTRIP_N is asserted. -/
def State.thermTripN (s : State) : Bool := s.pwr.phase == .tripped

/-! ### Commands -/

/-- R526: POWER_ON_RESET. -/
def execPowerOnReset (s : State) : Res := s.ends s.powerOn

/-- R526: STRAP_SAMPLE. -/
def execStrapSample (straps : BitVec 4) (s : State) : Res := s.ends (s.strapSample straps)

/-- R504: ENTER_WATCH, a write of PWC_CMD. -/
def execEnterWatch (ini : Initiator) (s : State) : Res := s.ends (s.pwcWr ini R.PWC_CMD 1)

/-- R504: ENTER_SLUMBER, a write of PWC_CMD. -/
def execEnterSlumber (ini : Initiator) (s : State) : Res := s.ends (s.pwcWr ini R.PWC_CMD 2)

/-- R504: ENTER_DORMANT, a write of PWC_CMD. -/
def execEnterDormant (ini : Initiator) (s : State) : Res := s.ends (s.pwcWr ini R.PWC_CMD 3)

/-- R513: WAKE, a write of PWC_CMD. -/
def execWake (ini : Initiator) (s : State) : Res := s.ends (s.pwcWr ini R.PWC_CMD 4)

/-- R506: PAGE_ANSWER. -/
def execPageAnswer (coresReady : Bool) (s : State) : Res := s.ends (s.pageAnswer coresReady)

/-- R507: DEFER_TIMEOUT. -/
def execDeferTimeout (s : State) : Res := s.ends s.deferEnd

/-- R508: ROLLBACK_DONE. -/
def execRollbackDone (s : State) : Res := s.ends s.rollbackEnd

/-- R510: ENTRY_STEP_DONE. -/
def execEntryStepDone (s : State) : Res := s.ends s.entryStep

/-- R515: WAKE_PIN. -/
def execWakePin (s : State) : Res := s.ends (if s.bit PG.pwc R.PWC_WAKE_EN 0 then s.wakeEvent .pin else s)

/-- R516: ALARM_WAKE. -/
def execAlarmWake (p : Fin 8) (s : State) : Res := s.ends (s.alarmReach p)

/-- R514: MGMT_WAKE. -/
def execMgmtWake (s : State) : Res := s.ends s.mgmtWakeHdr

/-- R514: MGMT_STATUS_READ. -/
def execMgmtStatusRead (s : State) : Res := s.ends (if s.hostOff then { s with reply := .bytes s.aonStatus } else s)

/-- R513: CORE0_HBM_WAKE. -/
def execCore0HbmWake (s : State) : Res :=
  s.ends (if s.pwr.phase = .watch ∨ (s.pwr.phase = .entering ∧ s.pwr.target = 1) then s.wakeEvent .hbm else s)

/-- R518: EXIT_STEP_DONE. -/
def execExitStepDone (tr : Train) (s : State) : Res := s.ends (s.exitStep tr)

/-- R519: REGULATOR_TIMEOUT. -/
def execRegulatorTimeout (pgLow : BitVec 7) (s : State) : Res := s.ends (s.regTimeout pgLow)

/-- R519: REGULATOR_RETRY. -/
def execRegulatorRetry (s : State) : Res := s.ends s.regRetry

/-- R520: OSCILLATOR_TIMEOUT. -/
def execOscillatorTimeout (refMhz : BitVec 8) (s : State) : Res := s.ends (s.oscTimeout refMhz)

/-- R521: MEMORY_TIMEOUT. -/
def execMemoryTimeout (failed : List (Fin 16)) (s : State) : Res := s.ends (s.memOffline failed)

/-- R521: LOGIC_TIMEOUT. -/
def execLogicTimeout (s : State) : Res := s.ends s.logicTimeout

/-- R34: DVFS_REQUEST, a write of PWC_DVFS. -/
def execDvfsRequest (ini : Initiator) (v : Word) (s : State) : Res := s.ends (s.pwcWr ini R.PWC_DVFS v)

/-- R580: DVFS_RAISE_WAIT. -/
def execDvfsRaiseWait (s : State) : Res := s.ends s.dvfsRaise

/-- R584: RAIL_FAULT. -/
def execRailFault (out : Fin 7) (s : State) : Res := s.ends (s.railFault out)

/-- R592: THERMTRIP. -/
def execThermtrip (s : State) : Res := s.ends s.thermTrip

/-- R563: MGMT_WRITE; in WATCH and during an entry the write header is a wake event too (R513). -/
def execMgmtWrite (bytes : List Byte) (s : State) : Res :=
  s.ends (if s.hostOff then s.mgmtWakeHdr else (s.mgmtWrite bytes).mgmtWakeHdr)

end Sys2Proof.Machine
end

