-- ==== Sys2Proof/Machine/Read.lean ====
section
/-!
DEFINITION. Machine/Read.lean: reads of registers: the fields that show a block's live state, write-only and self-clearing bits,
and what a read changes (R10, R11, R470, R570 to R573, R576).
-/

namespace Sys2Proof.Machine

/-- A field of `n` bits at `lo` that shows a number. -/
def shownFld (lo n v : Nat) : Word := wOfNat ((v % 2 ^ n) <<< lo)

/-- A bit that shows a condition. -/
def shownBit (i : Nat) (b : Bool) : Word := shownFld i 1 (b2n b)

/-- R570, R575: the header's constant registers and its live fields. -/
def State.hdrShown (s : State) (page off : Nat) (v : Word) : Word :=
  if off = R.PG_ID ∨ off = R.PG_CAP then regReset page off
  else if off = R.PG_STS then v ||| shownFld 0 4 (s.pageState page)
  else if off = R.PG_CTL then v ||| shownBit 2 (s.resetting page)
  else if off = R.PG_IRQ_STS then s.reg page R.PG_IRQ_RAW &&& s.reg page R.PG_IRQ_EN
  else if off = R.PG_LEDGER then shownFld 0 15 (s.pageItems page)
  else v

/-- R40, R41, R576: registers of page 0x000, which are constant but for the order code and the single part. -/
def State.topShown (s : State) (off : Nat) : Word :=
  let v := regReset PG.top off
  if off = R.TOP_DEVID then
    (v &&& 0xFFFF_FFFF_00FF_FFFF) ||| shownFld 24 8 (match s.part with | .i24 => 0x18 | .i16 => 0x10)
  else if off = R.TOP_SERIAL then Config.serial
  else if off = R.GT_HBM_BYTES then wOfNat s.part.hbmBytes
  else v

/-- R48 to R50: live registers of a time base. -/
def State.ptbShown (s : State) (p : Fin 8) (off : Nat) (v : Word) : Word :=
  if off = R.PTB_POS then s.pos p
  else if off = R.PTB_VEL then wOfInt (s.vel p)
  else if off = R.PTB_TRIM then wOfInt (openDiv 19 (s.trim p) 65536)
  else v

/-- R97: head of the transmit timestamp queue. -/
def State.netShown (s : State) (q : Fin 2) (off : Nat) (v : Word) : Word :=
  let l := (s.net.get q).txts
  if off = R.NET_TXTS_STS then v ||| shownFld 0 7 l.length
  else match l with
    | [] => v
    | e :: _ =>
      if off = R.NET_TXTS_SEQ then shownFld 0 16 e.seq ||| shownBit 16 true ||| shownFld 17 2 e.ring
      else if off = R.NET_TXTS_DTC then e.dtc
      else if off = R.NET_TXTS_POS then e.pos
      else v

/-- R173: live registers of admission. -/
def State.admShown (s : State) (off : Nat) (v : Word) : Word :=
  if off = R.ADM_WIN then wOfNat s.admNow
  else if off < 0x1000 then v
  else
    let p := fin8 ((off - 0x1000) / 0x80)
    if off = R.ADM_P_STS p then v ||| shownBit 8 (s.adm.deferred.get p)
    else if off = R.ADM_P_HOLD p then v ||| shownFld 0 16 (s.adm.hold.get p).length
    else v

/-- R222: live registers of the surface store. -/
def State.sfsShown (s : State) (off : Nat) (v : Word) : Word :=
  if off = R.SFS_FREE then s.surfFreeWord
  else if off < 0x1000 then v
  else
    let p := fin8 ((off - 0x1000) / 0x40)
    if off = R.SFS_P_TIME p then shownFld 0 18 (s.surfNow p) else v

/-- R284, R335: live registers of a kiln. -/
def State.klnShown (s : State) (k : Fin 6) (off : Nat) (v : Word) : Word :=
  let l := s.lat.get k
  if off = R.KLN_STS then v ||| shownFld 8 4 l.resident ||| shownBit 12 l.swap.isSome
  else if 0x1000 ≤ off ∧ (off - 0x1000) % 0x40 = 0x28 then
    shownFld 0 24 (l.next.toList.getD ((off - 0x1000) / 0x40) 0)
  else v

/-- R290, R335: live registers of a lattice. -/
def State.latShown (s : State) (k : Fin 6) (off : Nat) (v : Word) : Word :=
  let l := s.lat.get k
  if off = R.LAT_STEP then shownFld 0 24 (l.next.get l.resident) ||| shownFld 24 4 l.resident
  else if off = R.LAT_WHL then
    shownFld 0 24 (l.floor.get l.resident) ||| shownFld 24 8 l.epoch ||| shownFld 32 7 (l.specHeld.length) ||| shownFld 40 18 l.jlevel
  else v

/-- R332, R333: live registers of the ingress bridge and of the floor unit. -/
def State.spkShown (s : State) (r : Fin 8) (off : Nat) (v : Word) : Word :=
  if r.val = 7 ∧ off = R.FLR_MIN then shownFld 0 24 s.floorMin ||| shownFld 32 24 (s.spk.drainTo.getD 0)
  else if r.val = 6 ∧ 0x1000 ≤ off ∧ (off - 0x1000) % 0x40 = 0x10 then
    shownFld 0 32 (low 32 (s.doneTick (fin8 ((off - 0x1000) / 0x40))))
  else v

/-- R423: live registers of the rate chain. -/
def State.rchShown (s : State) (off : Nat) (v : Word) : Word :=
  if off = R.RCH_LOAD then s.rchLoadWord
  else if 0x2000 ≤ off ∧ off < 0x6000 then
    let i := (off - 0x2000) / 0x400
    if (off - 0x2000) % 0x400 = 0x20 then shownFld 0 32 (s.profile i).gd
    else if (off - 0x2000) % 0x400 = 0x28 then shownFld 0 10 (s.profile i).dtot
    else v
  else v

/-- R449: live registers of the results unit: the index of the newest window of a port, and its chains. -/
def State.resShown (s : State) (off : Nat) (v : Word) : Word :=
  if 0x1000 ≤ off ∧ off < 0x1800 ∧ (off - 0x1000) % 0x100 = 0x18 then
    let p := fin8 ((off - 0x1000) / 0x100)
    let k := match (s.wins p).getLast? with | some w => w.k | none => 0
    shownFld 0 32 k ||| shownFld 32 3 (s.res.chains.get p).length
  else v

/-- R498: live bits of WTH_STS. -/
def State.wthShown (s : State) (off : Nat) (v : Word) : Word :=
  if off = R.WTH_STS then
    let hb := s.twin.hbAt.isSome && !s.peerSilent
    v ||| shownBit 3 hb ||| shownBit 4 (!s.aliveStatic) ||| shownBit 5 s.twinSel ||| shownBit 6 (hb && s.twin.peerRole == 3)
  else v

/-- R184, R201, R209: live registers of the reflex path; a dark output whose ball has no pull reads a free level. -/
def State.rfxShown (s : State) (off : Nat) (v : Word) : Word :=
  if off = R.RFX_REC_LEVEL then shownFld 0 9 s.rfx.recs.length
  else if off = R.RFX_OUT_LEVEL then
    (List.finRange 32).foldl (fun (w : Word) (o : Fin 32) => w ||| shownBit o.val (s.outLevel s.free o)) 0
  else v

/-- Live registers of the pages whose fields show few things. -/
def State.miscShown (s : State) (k : PageKind) (i off : Nat) (v : Word) : Word :=
  match k with
  | .dtc => if off = R.DTC_NOW then s.dtc else if off = R.DTC_IET then wOfNat s.iet else v
  | .ieq =>
    let x := s.ieq.get (fin8 i)
    if off = R.IEQ_STS then
      v ||| shownFld 0 13 x.q.length ||| shownBit 13 x.opened.isSome ||| shownBit 21 x.dma.isSome
    else v
  | .chd => if off = R.CHD_STS then v ||| shownFld 16 9 (s.chd.get (fin8 i)).q.length else v
  | .loc => if off = R.LOC_LIVE then v ||| shownFld 55 9 s.loc.victims.length else v
  | .tcal => if off = R.TCAL_STS then v ||| shownFld 0 13 s.rfx.cal.length else v
  | .ldg =>
    if off = R.LDG_STS then
      v ||| shownFld 0 15 s.ldg.items.length ||| shownBit 18 (s.ldg.waiting.any fun c => (s.cqFor c).isNone)
    else v
  | .mem0 | .mem =>
    if off = R.MEM_MRG_LVL then
      shownFld 0 7 (s.mem.merge.toList.getD (2 * i) []).length ||| shownFld 16 7 (s.mem.merge.toList.getD (2 * i + 1) []).length
    else v
  | .host => if off = R.HOST_MTIME then s.mtime else v
  | .pcie => if off = R.PCIE_ID then (Config.pcieId &&& 0xFFFF) ||| 0x4806_0000 else v
  | .uart =>
    if off = R.UART_STS then v ||| shownFld 0 7 s.host.rxf.length ||| shownFld 8 7 s.host.txf.length
    else if off = R.UART_DATA then wOfNat s.uartPop.1
    else v
  | .gpio => if off = R.GPIO_IN then wOfNat s.gpioIn else v
  | _ => v

/-- R10: what a read of a register returns. -/
def State.shown (s : State) (page off : Nat) : Word :=
  match pageKind page with
  | none => 0
  | some k =>
    match lookupReg page off with
    | none => 0
    | some (d, _, _) =>
      let v := s.reg page off &&& ~~~(BitVec.ofNat 64 d.wo)
      let i := pageInstance k page
      if off < 0x100 then s.hdrShown page off v
      else match k with
        | .top => s.topShown off
        | .ptb => s.ptbShown (fin8 i) off v
        | .net0 | .net1 => s.netShown (fin2 i) off v
        | .adm => s.admShown off v
        | .sfs => s.sfsShown off v
        | .kln => s.klnShown (fin6 i) off v
        | .lat => s.latShown (fin6 i) off v
        | .spk | .spk6 | .spk7 => s.spkShown (fin8 i) off v
        | .rch => s.rchShown off v
        | .res => s.resShown off v
        | .wth => s.wthShown off v
        | .rfx => s.rfxShown off v
        | _ => s.miscShown k i off v

/-- R10, R11: self-clearing bits of a register that a read of the bits of `m` clears: a field of which a part is read clears
as a whole (MEM_MRG_CNT.RMW lies in both halves). -/
def clearedBy (d : RegDef) (k : PageKind) (off : Nat) (m : Word) : Word :=
  let m := if (k = .mem0 ∨ k = .mem) ∧ off = R.MEM_MRG_CNT then
      (if bf m 0 32 = 0 then m else m ||| 0x0000_FFFF_0000_0000) ||| (if bf m 32 32 = 0 then 0 else 0x0000_0000_FF00_0000)
    else m
  BitVec.ofNat 64 d.rc &&& m

/-- What a read of a register changes: self-clearing fields, maxima since the last read, the UART's receive FIFO, and a free
value that it has used. -/
def State.readEffect (s : State) (page off : Nat) (m : Word) : State :=
  match pageKind page, lookupReg page off with
  | some k, some (d, _, _) =>
    if s.isOff page then s
    else
      let c := clearedBy d k off m
      let s := if c = 0 then s else s.setReg page off (s.reg page off &&& ~~~c)
      if k = .chd ∧ off = R.CHD_STS ∧ bf m 32 32 ≠ 0 then
        s.setFld page off 32 9 (s.chd.get (fin8 (pageInstance k page))).q.length
      else if k = .adm ∧ 0x1000 ≤ off ∧ (off - 0x1000) % 0x80 = 0x68 ∧ bf m 0 32 ≠ 0 then
        s.setFld page off 16 16 (s.adm.hold.get (fin8 ((off - 0x1000) / 0x80))).length
      else if k = .uart ∧ off = R.UART_DATA ∧ bf m 0 32 ≠ 0 then s.uartPop.2
      else if k = .rfx ∧ off = R.RFX_OUT_LEVEL then s.takeFree.2
      else s
  | _, _ => s

/-- R288, R466: MEM_THR_CNT, and INBOX_STALL of KLN_SWAP_CNT, count up to the instant of a read. -/
def State.readUpdate (s : State) (page off : Nat) : State :=
  if page = PG.mem 0 ∧ off = R.MEM_THR_CNT then s.thrCount
  else if pageKind page = some .kln ∧ off = R.KLN_SWAP_CNT then s.stallCount (fin6 (pageInstance .kln page))
  else s

/-- R6, R8, R10: a read of `size` bytes at an offset of a page; none where the access is not accepted. -/
def State.readReg (s : State) (page off size : Nat) : Option (Word × State) :=
  match pageKind page, Wr.mk? .saggar off size 0 with
  | some _, some w =>
    let s := s.readUpdate page w.reg
    let v := s.shown page w.reg &&& w.m
    let v := if off % 8 = 4 then v >>> 32 else v
    some (v, s.readEffect page w.reg w.m)
  | _, _ => none

end Sys2Proof.Machine
end

