-- ==== Sys2Proof/Machine/Write.lean ====
section
/-!
DEFINITION. Machine/Write.lean: a write of a register by its page (R6 to R12), and the addresses of the register pages (R35).
-/

namespace Sys2Proof.Machine

/-! ### Register pages -/

/-- R35: first address of the register pages, bytes of a page. -/
def pagesBase : Nat := 0x60_0000_0000

/-- R6: the write reaches nothing that the register takes: a 32-bit write of the half in which a WO register has no field. -/
def Wr.misses (w : Wr) (d : RegDef) : Bool := d.wo != 0 && BitVec.ofNat 64 (d.wo ||| d.rw ||| d.w1c ||| d.w1s) &&& w.m == 0

/-- The block's own rule for a write to one of its registers; a write to an unimplemented offset is ignored (R8). -/
def State.blockWrite (s : State) (k : PageKind) (page : Nat) (w : Wr) : State :=
  let i := pageInstance k page
  if (lookupReg page w.reg).all fun r => w.misses r.1 then s
  else match k with
  | .top => s
  | .pwc => s.pwcWrite w
  | .sgr => s.sgrWrite w
  | .ldg => s.ldgWrite w
  | .sp => s.spWrite (fin8 i) w
  | .ieq => s.ieqWrite (fin8 i) w
  | .sv => s.svWrite (fin8 i) w
  | .adm => s.admWrite w
  | .rfx => s.rfxWrite w
  | .tcal => s.tcalWrite w
  | .sfs => s.sfsWrite w
  | .chd => s.chdWrite (fin8 i) w
  | .loc => s.locWrite w
  | .kln => s.klnWrite (fin6 i) w
  | .lat => s.latWrite (fin6 i) w
  | .fct => if w.reg < 0x1000 then s.fctWrite (fin6 i) w else s.incWrite (fin6 i) w
  | .shf => s.shfWrite (fin6 i) w
  | .spk | .spk6 | .spk7 => s.spkWrite (fin8 i) w
  | .rch => s.rchWrite w
  | .res => s.resWrite w
  | .ptb => s.ptbWrite (fin8 i) w
  | .dtc => s.dtcWrite w
  | .net0 | .net1 => s.netWrite (fin2 i) w
  | .mem0 | .mem => s.plainWrite page w
  | .scb => s.scbWrite w
  | .mras => s.mrasWrite w
  | .wth => s.wthWrite w
  | .pcie => s.pcieWrite w
  | .host => s.hostWrite w
  | .xspi => s.xspiWrite w
  | .i2c => s.plainWrite page w
  | .uart => s.uartWrite w
  | .gpio => s.gpioWrite w

/-- R6 to R10: a write of `size` bytes at an offset of a page; `cut` is what a reset of page 0x061 meets in a running load. -/
def State.regWrite (s : State) (cut : State → State) (ini : Initiator) (page off size : Nat) (v : Word) : State :=
  match pageKind page, Wr.mk? ini off size v with
  | some k, some w =>
    s.gate page w fun s =>
      if w.reg < 0x100 then (if page = PG.res ∧ w.reg = R.PG_CTL ∧ bitAt w.val 2 then cut s else s).hdrWrite k page w
      else s.blockWrite k page w
  | _, _ => s.busErr ini

/-- R35: page and offset of an address of the register pages. -/
def pageAt (a : Nat) : Option (Nat × Nat) :=
  if pagesBase ≤ a ∧ a < pagesBase + 0x1000_0000 then some ((a - pagesBase) / 0x10000, (a - pagesBase) % 0x10000) else none

/-- R38: a window is open while its page is quiesced or disabled, out of reset. -/
def State.windowOpen (s : State) (page : Nat) : Bool := s.alive page && (s.quiesced page || !s.enabled page)

end Sys2Proof.Machine
end

