-- ==== Sys2Proof/Machine/Loader.lean ====
section
/-!
DEFINITION. Machine/Loader.lean: the phases of a model load (R424 to R430): format, verification, checks, writes, and the patch
that swaps the window chains.
-/

namespace Sys2Proof.Machine

/-- R425: a section of an image. -/
structure Sect where
  type : Nat
  target : Nat
  ofs : Nat
  len : Nat
  dest : Nat
  deriving DecidableEq, Repr

/-- R428: causes of MDL_STS.WHY. -/
inductive LoadWhy where
  | format | target | signature | poison | geometry | clock | admission | pset | locSum | busy | overlap | swap | write
  deriving DecidableEq, Repr

/-- R428: the code of a cause. -/
def LoadWhy.code : LoadWhy → Nat
  | .format => 1 | .target => 2 | .signature => 3 | .poison => 4 | .geometry => 5 | .clock => 6 | .admission => 7 | .pset => 8
  | .locSum => 9 | .busy => 10 | .overlap => 11 | .swap => 12 | .write => 13

/-- R428: the status of a load that a cause ends. -/
def LoadWhy.status : LoadWhy → Status
  | .signature => .failDenied
  | .poison => .failPoison
  | _ => .failInvalid

/-! ### The image (R424, R425) -/

/-- A field of `n` bytes of the image. -/
def imgNat (im : List Byte) (o n : Nat) : Nat := leNat ((im.drop o).take n)

/-- R425: the section table. -/
def imgSects (im : List Byte) : List Sect :=
  (List.range (imgNat im 24 4)).map fun i =>
    let o := imgNat im 28 4 + 32 * i
    { type := imgNat im o 1, target := imgNat im (o + 1) 1, ofs := imgNat im (o + 8) 8, len := imgNat im (o + 16) 8,
      dest := imgNat im (o + 24) 8 }

/-- R424: FLAGS.PATCH. -/
def imgPatch (im : List Byte) : Bool := (imgNat im 6 2).testBit 0

/-- R425: entries of a WRITES, JOBS or REFS section. -/
def imgPairs (im : List Byte) (x : Sect) : List (Nat × Nat) :=
  (List.range (x.len / 16)).map fun j => (imgNat im (x.ofs + 16 * j) 8, imgNat im (x.ofs + 16 * j + 8) 8)

/-- R425: the sections that hold register writes; a patch keeps its JOBS apart. -/
def Sect.writes (x : Sect) : Bool := x.type == 1 || x.type == 5

/-- R425: the destination of a BLOB or FILL lies in HBM or in a shelf window. -/
def State.destOk (s : State) (x : Sect) : Bool := s.inHbm x.dest x.len || (shelfOf x.dest x.len).isSome

/-- R425: a section is in range and aligned. -/
def State.sectOk (s : State) (len : Nat) (x : Sect) : Bool :=
  decide (1 ≤ x.type) && decide (x.type ≤ 7) &&
    (x.type == 3 || (x.ofs % 64 == 0 && decide (384 ≤ x.ofs) && decide (x.ofs + x.len ≤ len - 256))) &&
    (!(x.writes || x.type == 6 || x.type == 4) || x.len % 16 == 0) && (!(x.type == 2 || x.type == 3) || s.destOk x)

/-- R428: the format of the image. -/
def State.imgFormat (s : State) (im : List Byte) (patch : Bool) : Bool :=
  let len := im.length
  let n := imgNat im 24 4
  let t := imgNat im 28 4
  decide (640 ≤ len) && imgNat im 0 4 == 0x5452_4C4D && imgNat im 4 2 == 1 && imgNat im 8 8 == len &&
    t % 64 == 0 && decide (384 ≤ t) && decide (t + 32 * n ≤ len - 256) && imgPatch im == patch &&
    (imgSects im).all (s.sectOk len)

/-- R425: an address that a WRITES entry may name. -/
def writesTarget (a : Nat) : Bool :=
  match pageAt a with
  | none => false
  | some (p, o) =>
    a % 8 == 0 && (pageKind p).isSome &&
      ((decide (0x008 ≤ p) && decide (p ≤ 0x030)) || (decide (0x040 ≤ p) && decide (p ≤ 0x060)) ||
        (p == 0x061 && decide (0x1000 ≤ o) && decide (o < 0x1800)))

/-- R425: an address that a JOBS entry for a port may name. -/
def jobsTarget (port a : Nat) : Bool :=
  let b := pagesBase + PG.res * 0x10000 + 0x1000 + 0x100 * port
  a % 8 == 0 && decide (port < 8) && decide (b + 0x20 ≤ a) && decide (a ≤ b + 0x68)

/-- R428: TARGET. -/
def targetsOk (im : List Byte) (l : List Sect) : Bool :=
  l.all fun x => !x.writes || (imgPairs im x).all fun e =>
    let a := e.1 % 2 ^ 40
    if x.type = 1 then writesTarget a else jobsTarget x.target a

/-- R426: the signature block and the owner's key. -/
def State.imgSigned (s : State) (im : List Byte) : Bool :=
  match s.sgr.record with
  | none => false
  | some r =>
    let body := im.take (im.length - 256)
    let b := im.drop (im.length - 256)
    decide (b.take 32 = keyHash (recOwner r)) && ecdsaOk (recOwner r) body (beNat ((b.drop 32).take 66)) (beNat ((b.drop 98).take 66))

/-- R43: the rule and the kiln that a register write names exist; every other index that a write can name exists in any field. -/
def indexOk (a : Nat) (v : Word) : Bool :=
  match pageAt a with
  | none => true
  | some (p, o) =>
    if p = PG.rfx then decide (o < 0x9000)
    else if p = PG.res ∧ 0x1000 ≤ o ∧ o < 0x1800 ∧ 0x20 ≤ o % 0x100 ∧ o % 0x100 < 0x60 then decide (bf v 0 3 < 6)
    else true

/-- R2, R43: the declared counts fit the Geometry Table, and every index exists. -/
def State.geometryOk (s : State) (im : List Byte) (l : List Sect) : Bool :=
  decide (imgNat im 40 8 ≤ s.part.hbmBytes) &&
    ((List.range 30).all fun i =>
      let n := imgNat im (64 + 8 * i) 8
      let g := (s.shown PG.top (0x1008 + 8 * i)).toNat
      if i = 8 then decide (n % 65536 ≤ g % 65536) && decide (n / 65536 ≤ g / 65536) else decide (n ≤ g)) &&
    l.all fun x => (x.type != 4 || decide (x.target < 8)) &&
      (!x.writes || (imgPairs im x).all fun e => indexOk (e.1 % 2 ^ 40) (wOfNat e.2))

/-! ### What the writes would make (R428) -/

/-- Register writes of the image in order: page, offset, value. -/
def imgWrites (im : List Byte) (l : List Sect) : List (Nat × Nat × Word) :=
  (l.filter Sect.writes).flatMap fun x => (imgPairs im x).filterMap fun e =>
    (pageAt (e.1 % 2 ^ 40)).map fun a => (a.1, a.2, wOfNat e.2)

/-- The registers as the image's writes would set them. -/
def State.asWritten (s : State) (l : List (Nat × Nat × Word)) : State :=
  l.foldl (fun s e => if e.2.1 < 0x100 then s else s.plainWrite e.1 (Wr.full .loader e.2.1 e.2.2)) s

/-- Ports whose admission block the image writes. -/
def admPorts (l : List (Nat × Nat × Word)) : List (Fin 8) :=
  (List.finRange 8).filter fun (p : Fin 8) =>
    l.any fun e => e.1 == PG.adm && decide (0x1000 ≤ e.2.1) && (e.2.1 - 0x1000) / 0x80 == p.val

/-- R174: the admission blocks as written pass. -/
def State.admissionOk (t : State) (l : List (Nat × Nat × Word)) : Bool := (admPorts l).all fun p => (t.admChecks p).isEmpty

/-- R265: the parameter sets of every kiln, as they would stand after the writes, pass. -/
def State.psetsOk (t : State) : Bool := (List.finRange 6).all fun (k : Fin 6) => (t.psetBad k).isNone

/-- R250: the LOC totals as written. -/
def State.locSumOk (t : State) (l : List (Nat × Nat × Word)) : Bool :=
  decide (((admPorts l).map fun p => (t.admBud p 0).loc).sum ≤ 640000)

/-- A write by the loader, tried: whether its page ignores it, and why, with the state after it. -/
def State.tryWrite (s : State) (page off : Nat) (v : Word) : Nat × State :=
  if s.isOff page then (1, s)
  else
    let t := (s.setReg page R.PG_ERR_LOG0 0).regWrite id .loader page off 8 v
    (t.fld page R.PG_ERR_LOG0 16 8, s.regWrite id .loader page off 8 v)

/-- R428: every WRITES target is writable in its page's present state. -/
def State.targetsFree (s : State) (im : List Byte) (l : List Sect) : Bool :=
  (imgWrites im (l.filter fun x => x.type == 1)).all fun e =>
    let c := (s.tryWrite e.1 e.2.1 e.2.2).1
    c != LogCause.state.code && c != LogCause.busy.code && c != LogCause.handshake.code && c != LogCause.inReset.code

/-- Ranges (start, length) of the BLOB and FILL sections. -/
def destRanges (l : List Sect) : List (Nat × Nat) :=
  (l.filter fun x => x.type == 2 || x.type == 3).map fun x => (x.dest, x.len)

/-- R425: the image's REFS. -/
def imgRefs (im : List Byte) (l : List Sect) : List (Nat × Nat) := (l.filter fun x => x.type == 6).flatMap (imgPairs im)

/-- R430: a patch passes its checks. -/
def State.swapOk (s : State) (im : List Byte) (l : List Sect) : Bool :=
  let m := s.res.mdl
  (l.all fun x => x.type != 1 && x.type != 4) && imgNat im 20 4 == s.fld PG.res R.MDL_ID 0 32 &&
    (destRanges l).all fun r =>
      decide (m.swapBase ≤ r.1) && decide (r.1 + r.2 ≤ m.swapBase + m.swapLen) && !(m.refs.any (rangesMeet r))

/-- R428: the first phase that fails after the image has been read and its signature checked. -/
def State.loadChecks (s : State) (im : List Byte) (l : List Sect) : Option LoadWhy :=
  let ws := imgWrites im l
  let t := s.asWritten ws
  let range := (s.res.mdl.addr, s.res.mdl.len)
  if !s.geometryOk im l then some .geometry
  else if s.coreClk < clkOf (imgNat im 32 1) then some .clock
  else if !t.admissionOk ws then some .admission
  else if !t.psetsOk then some .pset
  else if !t.locSumOk ws then some .locSum
  else if !s.targetsFree im l then some .busy
  else if anyMeet (range :: destRanges l) then some .overlap
  else if s.res.mdl.patch && !s.swapOk im l then some .swap
  else none

/-! ### The write phase (R429) -/

/-- R429: the bit that a write sets to enable something. -/
def enableBit (k : PageKind) (off : Nat) : Option Nat :=
  if off = R.PG_CTL then some 0
  else match k with
    | .sp => if off = R.SP_CTL then some 0 else none
    | .adm => if 0x1000 ≤ off ∧ off % 0x80 = 0 then some 0 else none
    | .rfx => if 0x1000 ≤ off ∧ off % 0x80 = 0 then some 0 else none
    | .spk7 => if off = R.WHL_CTL then some 0 else if off = R.CW_CTL then some 48 else none
    | .fct => if off = R.INC_CTL 0 ∨ off = R.INC_CTL 1 then some 0 else none
    | .rch => if off = R.RCH_CTL then some 0 else none
    | _ => none

/-- R429: an enable that a write made has been refused. -/
def State.enableRefused (s : State) (page off : Nat) (v : Word) : Bool :=
  match pageKind page with
  | none => false
  | some k =>
    (match enableBit k off with
      | some b => bitAt v b && !s.bit page off b && !(off == R.PG_CTL && bitAt v 2)
      | none => false) ||
    (k == .res && decide (0x1000 ≤ off) && off % 0x100 == 0 && bf v 0 2 != 0 && s.fld page off 0 2 != bf v 0 2)

/-- How the write phase stands: what ended it, write entries done. -/
structure LoadRun where
  why : Option LoadWhy := none
  idx : Nat := 0
  deriving DecidableEq, Repr

/-- R8, R10: the register takes a write of one of its fields. -/
def takesWrite (page off : Nat) : Bool :=
  match lookupReg page off with
  | some (d, _, _) => d.rw ||| d.w1c ||| d.w1s ||| d.wo != 0
  | none => false

/-- R429: register writes, until one is ignored or an enable is refused. -/
def State.loadWrites (s : State) (r : LoadRun) : List (Nat × Nat × Word) → LoadRun × State
  | [] => (r, s)
  | e :: l =>
    let (c, s) := s.tryWrite e.1 e.2.1 e.2.2
    if c ≠ 0 ∨ !takesWrite e.1 e.2.1 ∨ s.enableRefused e.1 e.2.1 e.2.2 then ({ r with why := some .write }, s)
    else State.loadWrites s { r with idx := r.idx + 1 } l

/-- R38, R425: a BLOB's or FILL's destination accepts it. -/
def State.destOpen (s : State) (a n : Nat) : Bool :=
  match shelfOf a n with
  | some k => s.windowOpen (PG.shf k)
  | none => true

/-- R429: one section of the write phase. -/
def State.loadSect (s : State) (im : List Byte) (item : Nat) (r : LoadRun) (x : Sect) : LoadRun × State :=
  if r.why.isSome then (r, s)
  else match x.type with
    | 1 | 5 => if x.type = 5 ∧ s.res.mdl.patch then (r, s) else s.loadWrites r (imgWrites im [x])
    | 2 =>
      if !s.destOpen x.dest x.len then ({ r with why := some .write }, s)
      else
        let (b, s) := s.readBytes (s.res.mdl.addr + x.ofs) x.len
        if b.bad then ({ r with why := some .poison }, s)
        else (r, (s.writeBytes (some item) x.dest b.bytes).memTouch x.dest x.len)
    | 3 =>
      if !s.destOpen x.dest x.len then ({ r with why := some .write }, s)
      else if x.dest % 32 = 0 ∧ x.len % 32 = 0 ∧ s.inHbm x.dest x.len then (r, s.zeroRange x.dest (x.dest + x.len))
      else (r, (s.writeBytes (some item) x.dest (List.replicate x.len 0)).memTouch x.dest x.len)
    | 4 =>
      let pg := PG.spk x.target
      if !s.alive pg ∨ s.stopped pg ∨ s.enabled pg ∨ 16384 < x.len / 16 then ({ r with why := some .write }, s)
      else (r, (List.range (x.len / 16)).foldl (fun s j => s.routePut (fin8 x.target) j (imgNat im (x.ofs + 16 * j) 16)) s)
    | _ => (r, s)

/-! ### The end of a load -/

/-- `s` with the loader changed. -/
def State.mdlUpd (s : State) (f : LoaderState → LoaderState) : State := { s with res := { s.res with mdl := f s.res.mdl } }

/-- R428, R429: a load fails. -/
def State.loadFail (s : State) (item : Nat) (why : LoadWhy) (wrote : Bool) (idx : Nat) : State :=
  let s := (s.setBit PG.res R.MDL_STS 1 false).setFld PG.res R.MDL_STS 8 8 why.code
  let s := if wrote then (s.setBit PG.res R.MDL_STS 2 true).setFld PG.res R.MDL_STS 32 32 idx else s
  (s.mdlUpd fun m => { m with item := none, writing := false }).closeItem item why.status 0

/-- R34, R429: a full load completes with OK. -/
def State.loadOk (s : State) (item : Nat) (im : List Byte) (l : List Sect) : State :=
  let s := (s.setFld PG.res R.MDL_STS 0 4 1).setFld PG.res R.MDL_STS 8 8 0
  let s := s.setReg PG.res R.MDL_ID (wOfNat (imgNat im 16 4))
  (s.mdlUpd fun m => { m with item := none, writing := false, refs := imgRefs im l, swapBase := imgNat im 304 8,
                               swapLen := imgNat im 312 8, minClk := imgNat im 32 1 }).closeItem item .ok 0

/-- R430: a patch's copies are complete: it waits for the ports. -/
def State.patchReady (s : State) (im : List Byte) (l : List Sect) : State :=
  let base := pagesBase + PG.res * 0x10000
  let jobs := (l.filter fun x => x.type == 5).map fun x =>
    (x.target, (imgPairs im x).map fun e => (e.1 % 2 ^ 40 - base, wOfNat e.2))
  let s := (s.setBit PG.res R.MDL_STS 1 false).setBit PG.res R.MDL_STS 3 true
  let s := s.mdlUpd fun m => { m with writing := false, jobs, switched := [], patchId := imgNat im 16 4, patchRefs := imgRefs im l }
  (List.finRange 8).foldl (fun s (p : Fin 8) => if s.winMode p = 0 then s.patchSwitch p else s) s

/-- R429: what the write phase does one after the other: each write entry, and each other section whole. -/
def imgUnits (l : List Sect) : List Sect :=
  l.flatMap fun x => if x.writes then (List.range (x.len / 16)).map fun j => { x with ofs := x.ofs + 16 * j, len := 16 } else [x]

/-- R429: the write phase, and the end of the load. -/
def State.loadWrite (s : State) (item : Nat) (im : List Byte) (l : List Sect) : State :=
  let s := s.mdlUpd fun m => { m with writing := true }
  let (r, s) := l.foldl (fun (acc : LoadRun × State) x => acc.2.loadSect im item acc.1 x) ({}, s)
  let bad := s.ldg.items.any fun i => i.idx == item && i.poisoned
  match r.why with
  | some w => s.loadFail item w true r.idx
  | none =>
    if bad then s.loadFail item .poison true r.idx
    else if s.res.mdl.patch then s.patchReady im l
    else s.loadOk item im l

/-- R428: the phases up to the write phase, in the table's order: the image and why the load fails, if it does. -/
def State.loadVerify (s : State) : List Byte × Option LoadWhy × State :=
  let m := s.res.mdl
  if !s.inHbm m.addr m.len then ([], some .format, s)
  else
    let (b, s) := s.readBytes m.addr m.len
    let im := b.bytes
    let l := imgSects im
    if !s.imgFormat im m.patch then (im, some .format, s)
    else if !targetsOk im l then (im, some .target, s)
    else if !s.imgSigned im then (im, some .signature, s)
    else if b.bad then (im, some .poison, s)
    else
      let s := s.extendM (sha512 (im.take (im.length - 256))) (if m.patch then 5 else 4)
      (im, s.loadChecks im l, s)

/-- R428: the phases of a load. -/
def State.loadRun (s : State) (item : Nat) : State :=
  match s.loadVerify with
  | (_, some w, s) => s.loadFail item w false 0
  | (im, none, s) => s.loadWrite item im (imgSects im)

/-- R429: a reset of page 0x061 meets a load that runs. How far the load had come is open: a free value gives the number of
write-phase units that it had done, none where it still was before that phase (log 224). -/
def State.loadCut (s : State) : State :=
  match s.res.mdl.item with
  | none => s
  | some item =>
    if !s.bit PG.res R.MDL_STS 1 then s
    else
      let (f, s) := s.takeFree
      match Config.freeNat f, s.loadVerify with
      | n + 1, (im, none, t) =>
        ((imgUnits (imgSects im)).take n).foldl (fun (s : State) x =>
          let (r, t) := s.loadSect im item {} x
          if r.why.isSome then s else t) (t.mdlUpd fun m => { m with writing := true })
      | _, _ => s

/-- R6 to R10: a write of `size` bytes at an offset of a page. -/
def State.writeReg (s : State) (ini : Initiator) (page off size : Nat) (v : Word) : State :=
  s.regWrite State.loadCut ini page off size v

/-- R571: PAGE_RESET, a write of PG_CTL.RESET. -/
def execPageReset (ini : Initiator) (page : Nat) (s : State) : Res := s.ends (s.writeReg ini page R.PG_CTL 8 4)

/-- R429: MODEL_LOAD_DONE. -/
def execModelLoadDone (s : State) : Res :=
  s.ends (match s.res.mdl.item with
    | none => s.staleReply PG.res
    | some i => if s.bit PG.res R.MDL_STS 1 && s.alive PG.res then s.decided (s.loadRun i) else s)

end Sys2Proof.Machine
end

