-- ==== Sys2Proof/Machine/Bus.lean ====
section
/-!
DEFINITION. Machine/Bus.lean: accesses: the physical address map (R35 to R39, R549),
the PCIe window in both directions (R555 to R558), and scheduled items that fall due (R82, R86).
-/

namespace Sys2Proof.Machine

/-! ### Reads of registers -/

/-- R503: outside an entry, an access to the page of a stopped block ends with a bus error. -/
def State.pageShut (s : State) (page : Nat) : Bool := s.stopped page && !s.inHandshake

/-- A read of a register by an initiator. -/
def State.loadReg (s : State) (ini : Initiator) (page off size : Nat) : State :=
  if s.pageShut page then s.busErr ini
  else match s.readReg page off size with
    | none => s.busErr ini
    | some (v, s) => { s with reply := .data v }

/-! ### Memory as an initiator sees it (R454 to R459) -/

/-- Bytes of an access. -/
def accSize : Access → Nat
  | .load n => n
  | .store n _ => n
  | .readBytes n => n
  | .writeBytes l => l.length
  | .amo n _ => n

/-- The access reads. -/
def accReads : Access → Bool
  | .load _ | .readBytes _ | .amo _ _ => true
  | .store _ _ | .writeBytes _ => false

/-- The bytes that the access writes. -/
def accBytes : Access → List Byte
  | .store n v | .amo n v => leBytes n v.toNat
  | .writeBytes l => l
  | .load _ | .readBytes _ => []

/-- A load, store or AMO moves one to eight bytes. -/
def accWide : Access → Bool
  | .load n | .store n _ | .amo n _ => n == 0 || decide (8 < n)
  | .readBytes _ | .writeBytes _ => false

/-- The initiator is a hart. -/
def isHart : Initiator → Bool
  | .hostCore _ => true
  | _ => false

/-- R456, R457: the stored word at `a` has taken an upset; a never-written word's code reports anything already (R464). -/
def State.upsetWord (s : State) (a : Nat) (u : Upset) : State :=
  if u.damage.val = 0 ∨ !s.wordWritten a ∨ (Sp.find s.mem.errs a).isSome then s
  else
    let e : WordErr := if u.damage.val = 1 then .correctable else .uncorrectable
    { s with mem := { s.mem with errs := Sp.insert s.mem.errs a e } }

/-- R455: a retry that succeeds is counted. -/
def State.busRetry (s : State) (a : Nat) (u : Upset) : State :=
  if 1 ≤ u.retries ∧ u.retries ≤ 3 then s.bump (memPage (pcOf a)) R.MEM_MRG_CNT 48 16 else s

/-- What a read delivered, as the initiator's reply (R459, R460). -/
def State.deliver (s : State) (ini : Initiator) (acc : Access) (r : ReadRes) : State :=
  if r.bad then { s with reply := if isHart ini then .accessFault else .poisoned }
  else match acc with
    | .readBytes _ => { s with reply := .bytes r.bytes }
    | _ => { s with reply := .data (wOfNat (leNat r.bytes)) }

/-- R459: a hart's store: the line is filled, changed, and written back as whole words, a poisoned one with the poison
syndrome. -/
def State.coreStore (s : State) (a : Nat) (bs : List Byte) : State :=
  let first := a / 64
  let lines := if bs.isEmpty then 0 else (a + bs.length - 1) / 64 - first + 1
  (List.range (2 * lines)).foldl (fun s j =>
    let w := first * 64 + 32 * j
    let new := (List.range 32).filterMap fun i =>
      if a ≤ w + i ∧ w + i < a + bs.length then some (i, bs.getD (w + i - a) 0) else none
    let (r, s) := s.readWord none w
    s.storeWord w (overlay r.bytes new) (if r.bad then some .poison else none)) s

/-- R459: a write of HBM by an initiator. -/
def State.storeHbm (s : State) (ini : Initiator) (a : Nat) (acc : Access) : State :=
  match acc with
  | .writeBytes l => s.writeBytes none a l
  | _ => if isHart ini then s.coreStore a (accBytes acc) else s.writeBytes none a (accBytes acc)

/-- R35, R454 to R459: an access to HBM. -/
def State.hbmAccess (s : State) (ini : Initiator) (a : Nat) (acc : Access) (u : Upset) : State :=
  let w := a / 32 * 32
  if accWide acc ∨ (s.hbmOffline ∧ isHart ini) then s.busErr ini
  else
    let s := (s.upsetWord w u).busRetry a u
    if 4 ≤ u.retries ∧ accReads acc then
      (s.hbmErr w .uncorrectable false).deliver ini acc { bytes := [], bad := true }
    else
      let s := if 4 ≤ u.retries ∧ s.wordWritten w then
          { s with mem := { s.mem with errs := Sp.insert s.mem.errs w .uncorrectable } }
        else s
      match acc with
      | .load n | .readBytes n =>
        let (r, s) := s.readBytes a n
        s.deliver ini acc r
      | .amo n _ =>
        let (r, s) := s.readBytes a n
        let s := s.deliver ini acc r
        if r.bad then s else s.storeHbm ini a acc
      | .store _ _ | .writeBytes _ => s.storeHbm ini a acc

/-- R6, R217: the windows take aligned 32-bit and 64-bit accesses, and runs of them. -/
def windowSize (a : Nat) (acc : Access) : Bool :=
  match acc with
  | .load n | .store n _ => (n == 4 || n == 8) && a % n == 0
  | .readBytes n => n % 4 == 0 && a % 4 == 0
  | .writeBytes l => l.length % 4 == 0 && a % 4 == 0
  | .amo _ _ => false

/-! ### The surface store window (R216 to R218) -/

/-- R217, R218: words of the surface store read through the window from offset `o` on; the reads that met an uncorrectable byte
are counted. -/
def State.surfLoad (s : State) (o : Nat) : Nat → (List Byte × Bool) × State
  | 0 => (([], false), s)
  | n + 1 =>
    let m := Sp.get 0 s.sfs.bad o
    let w := s.surfWord o
    let s := if m = 0 then s
      else (s.setReg PG.sfs R.SFS_ERR_ADDR (wOfNat (o % 2 ^ 23 + m <<< 32))).addCnt PG.sfs R.SFS_CNT0 32 16 (popCount 4 m)
    let ((l, b), s) := State.surfLoad s (o + 1) n
    ((leBytes 4 w.toNat ++ l, b || m != 0), s)

/-- R217: words written through the window. -/
def State.surfStore (s : State) (o : Nat) : Nat → List Byte → State
  | 0, _ => s
  | n + 1, l => State.surfStore (s.setSurf o (BitVec.ofNat 32 (leNat (l.take 4)))) (o + 1) n (l.drop 4)

/-- R218: a byte of a surface word has taken an upset; a correctable one is corrected where it is read. -/
def State.surfUpset (s : State) (o : Nat) (reads : Bool) (u : Upset) : State :=
  if u.damage.val = 0 ∨ !reads then s
  else if u.damage.val = 1 then (s.bump PG.sfs R.SFS_CNT0 0 32).bucketAdd 38
  else s.sfsUpd fun x => { x with bad := Sp.set 0 x.bad o (Sp.get 0 x.bad o ||| 2 ^ u.byte.val) }

/-- R35, R38, R217: an access to the surface store window. -/
def State.surfAccess (s : State) (ini : Initiator) (a : Nat) (acc : Access) (u : Upset) : State :=
  let o := (a - 0x50_0000_0000) / 4
  let n := accSize acc / 4
  if !s.windowOpen PG.sfs ∨ !windowSize a acc then s.busErr ini
  else if accReads acc then
    let ((l, b), s) := (s.surfUpset o true u).surfLoad o n
    if !b then s.deliver ini acc { bytes := l, bad := false }
    else if isHart ini then s.busErr ini
    else { s with reply := .errorData l }
  else s.surfStore o n (accBytes acc)

/-- R35, R38, R457: an access to the window of the shelf of kiln `k`. -/
def State.shelfAccess (s : State) (ini : Initiator) (k a : Nat) (acc : Access) (u : Upset) : State :=
  if !s.windowOpen (PG.shf k) ∨ !windowSize a acc then s.busErr ini
  else
    let s := s.upsetWord (a / 8 * 8) u
    if accReads acc then
      let (r, s) := s.readBytes a (accSize acc)
      s.deliver ini acc r
    else (s.writeBytes none a (accBytes acc)).memTouch a (accBytes acc).length

/-! ### The flash, the PLIC and the outbound window (R39, R553, R557, R558, R561) -/

/-- R39, R561: an access to the flash window: read only; a read waits while the engine polls. -/
def State.flashAccess (s : State) (ini : Initiator) (a : Nat) (acc : Access) : State :=
  if s.isOff PG.xspi ∨ accWide acc ∨ !accReads acc then s.busErr ini
  else if s.host.poll.isSome then { s with reply := .none }
  else s.deliver ini acc { bytes := s.flashBytes (a - 0x40_0000_0000) (accSize acc), bad := false }

/-- R35: the whole range lies in the PLIC window. -/
def plicAt (a n : Nat) : Bool := decide (0x61_0000_0000 ≤ a ∧ a + n ≤ 0x61_0400_0000)

/-- R553: an access to the PLIC window, as aligned 32-bit accesses. -/
def State.plicAccess (s : State) (ini : Initiator) (a : Nat) (acc : Access) : State :=
  let o := a - 0x61_0000_0000
  if s.isOff PG.host ∨ !windowSize a acc then s.busErr ini
  else match acc with
    | .load n =>
      let (x, s) := s.plicRead o
      if n = 8 then
        let (y, s) := s.plicRead (o + 4)
        { s with reply := .data (wOfNat (x + y * 2 ^ 32)) }
      else { s with reply := .data (wOfNat x) }
    | .store n v => if n = 8 then (s.plicWrite o (bf v 0 32)).plicWrite (o + 4) (bf v 32 32) else s.plicWrite o (bf v 0 32)
    | _ => s.busErr ini

/-- The answer of an agent outside the part to a read: free data. -/
def State.outsideReads (s : State) (acc : Access) : State :=
  match acc with
  | .readBytes n =>
    let (i, s) := s.takeFree
    { s with reply := .bytes ((List.range n).map (Config.freeByte i)) }
  | .load n =>
    let (i, s) := s.takeFree
    { s with reply := .data (Config.freeWord i &&& wOfNat (2 ^ (8 * n) - 1)) }
  | _ => { s with reply := .none }

/-- R557, R558: an access to the outbound window: a memory request, or in root-port mode, in its last 256 MiB, a configuration
request, which waits for its completion unless it names the root port's own bus. -/
def State.outboundAccess (s : State) (ini : Initiator) (a : Nat) (acc : Access) : State :=
  let o := a - 0x80_0000_0000
  if s.isOff PG.pcie ∨ accWide acc then s.busErr ini
  else if s.bit PG.pcie R.PCIE_STS 0 ∧ 0xFF_F000_0000 ≤ a then
    if a < 0xFF_F010_0000 then s.outsideReads acc
    else
      let s := s.hostUpd fun x => { x with outb := some (wOfNat a, acc) }
      if accReads acc then
        { s.hostUpd fun x => { x with cfg := some s.dtc.toNat } with reply := .none }
      else s
  else
    let s := s.hostUpd fun x => { x with outb := some (s.reg PG.pcie R.PCIE_OB_BASE + wOfNat o, acc) }
    s.outsideReads acc

/-! ### The physical address map (R35) -/

/-- R6, R35: an access to the register pages. -/
def State.pageAccess (s : State) (ini : Initiator) (page off : Nat) (acc : Access) : State :=
  match acc with
  | .load n => s.loadReg ini page off n
  | .store n v => s.writeReg ini page off n v
  | _ => s.busErr ini

/-- R503, R513: an access of core 0 in WATCH that needs HBM is a wake event. -/
def State.hbmWake (s : State) (ini : Initiator) : State :=
  if ini = .hostCore 0 ∧ s.pwr.phase = .watch then s.wakeEvent .hbm else s

/-- R541: the debug system bus reaches nothing while no session is open (DEDUCED, log 234: such an access ends with a bus error). -/
def State.busLocked (s : State) (ini : Initiator) : Bool := ini == .debugBus && s.dbgLevel == 0

/-- R35, R549: an access to the physical address map; outside every region it ends with a bus error, and so does one of the debug
system bus to HBM in WATCH (R544). -/
def State.physAccess (s : State) (ini : Initiator) (a : Nat) (acc : Access) (u : Upset) : State :=
  let n := accSize acc
  let s := { s with reply := .none }
  if s.busLocked ini then s.busErr ini
  else if s.inHbm a n then
    if ini = .debugBus ∧ s.pwr.phase = .watch then s.busErr ini else (s.hbmWake ini).hbmAccess ini a acc u
  else match acc with
    | .amo _ _ => s.busErr ini
    | _ =>
      if 0x40_0000_0000 ≤ a ∧ a + n ≤ 0x40_1000_0000 then s.flashAccess ini a acc
      else if 0x50_0000_0000 ≤ a ∧ a + n ≤ 0x50_0200_0000 then s.surfAccess ini a acc u
      else match shelfOf a n with
        | some k => s.shelfAccess ini k a acc u
        | none =>
          match pageAt a with
          | some (page, off) => s.pageAccess ini page off acc
          | none =>
            if plicAt a n then s.plicAccess ini a acc
            else if 0x80_0000_0000 ≤ a ∧ a + n ≤ 0x100_0000_0000 then s.outboundAccess ini a acc
            else s.busErr ini

/-! ### Inbound PCIe (R555 to R558) -/

/-- R555: the address that a request to a BAR reaches: BAR 0–1, 2–3 and 4–5 as 0, 1 and 2; none where it completes with
Unsupported Request. -/
def State.barAddr (s : State) (bar off n : Nat) : Option Nat :=
  if bar = 0 then (if off + n ≤ 0x1000_0000 then some (pagesBase + off) else none)
  else if bar = 1 then (if off + n ≤ s.part.hbmBytes then some off else none)
  else if bar = 2 then (if off + n ≤ 0x2000_0000 then some (0x50_0000_0000 + off) else none)
  else none

/-- R556: the completion of a request that a bus error or poison has met. -/
def State.inboundEnd (s : State) (a : Nat) (acc : Access) : State :=
  match s.reply with
  | .busError | .errorData _ =>
    let s := (s.pcieErr 0).logInfo1 PG.pcie a
    { s with reply := if accReads acc then .abort else .none }
  | .poisoned => s.pcieErr 32
  | _ => s

/-- R556: a request completes with Unsupported Request. -/
def State.inboundUr (s : State) : State := { s.pcieErr 16 with reply := .unsupported }

/-- R556, R558: an inbound request. -/
def State.inbound (s : State) (bar : Fin 4) (off : Nat) (acc : Access) (bad : Bool) : State :=
  let rc := s.bit PG.pcie R.PCIE_STS 0
  let n := accSize acc
  let s := { s with reply := .none }
  if !s.bit PG.pcie R.PCIE_STS 1 then s
  else if rc ∧ !accReads acc ∧ wOfNat off = s.reg PG.pcie R.PCIE_MSI_ADDR ∧ !bad then s.msiDoorbell (leNat ((accBytes acc).take 4))
  else
    match (if rc then (if off + n ≤ s.part.hbmBytes then some off else none) else s.barAddr bar off n) with
    | none => s.inboundUr
    | some a =>
      if bad ∧ !accReads acc then s.logInfo1 PG.pcie a
      else (s.physAccess .pcie a acc {}).inboundEnd a acc

/-! ### Scheduled items (R82 to R86) -/

/-- R86: the alarm of base `p` falls due. -/
def State.alarmDue (s : State) (p : Fin 8) : State :=
  let s := ((s.ptbFlag p 14).setBit (PG.ptb p) R.PTB_ALARM_CTL 0 false).schedDel (.alarm p)
  if s.alarmWakes p then s.wakeEvent (.alarm p) else s

/-- R82: a scheduled item falls due, if the base's position says so. -/
def State.itemDue (s : State) (id : ItemId) : State :=
  match s.dueItem id with
  | none => s
  | some i =>
    match id with
    | .alarm p => s.ifOn (PG.ptb p) fun s => s.alarmDue p
    | .pps => s.ifOn (PG.net 0) State.ppsDue
    | .calendar slot => s.ifOn PG.tcal fun s => s.calDue slot
    | .window p => s.winFallDue p i.byStep
    | .rebase k c => s.rebDue k c
    | .recovery => (s.schedDel .recovery).spkUpd fun x => { x with recDue := true }

/-! ### Commands -/

/-- R8, R10: REGISTER_WRITE, of a page or of the PLIC window. -/
def execRegisterWrite (ini : Initiator) (addr size : Nat) (v : Word) (s : State) : Res :=
  let s := { s with reply := .none }
  s.ends (if s.busLocked ini then s.busErr ini else match pageAt addr with
    | some (page, off) => s.writeReg ini page off size v
    | none => if plicAt addr size then s.plicAccess ini addr (.store size v) else s.busErr ini)

/-- R8, R11: RC_READ, of a page or of the PLIC window. -/
def execRcRead (ini : Initiator) (addr size : Nat) (s : State) : Res :=
  s.ends (if s.busLocked ini then s.busErr ini else match pageAt addr with
    | some (page, off) => s.loadReg ini page off size
    | none => if plicAt addr size then s.plicAccess ini addr (.load size) else s.busErr ini)

/-- R35: PHYSICAL_ACCESS. -/
def execPhysicalAccess (ini : Initiator) (addr : Nat) (acc : Access) (up : Upset) (s : State) : Res :=
  s.ends (s.physAccess ini addr acc up)

/-- R556: PCIE_INBOUND_REQUEST. -/
def execPcieInboundRequest (bar : Fin 4) (off : Nat) (acc : Access) (poisoned : Bool) (s : State) : Res :=
  s.ends (s.inbound bar off acc poisoned)

/-- R82: SCHEDULED_ITEM_DUE. -/
def execScheduledItemDue (i : ItemId) (s : State) : Res := s.ends (s.itemDue i)

end Sys2Proof.Machine
end

