-- ==== Sys2Proof/Machine/Dispatch.lean ====
section
/-!
DEFINITION. Machine/Dispatch.lean: one arm per command, each one call of its meaning.
-/

namespace Sys2Proof.Machine

def exec (i : Instr) (s : State) : Host.Outcome State Fault Refusal :=
  match i with
  | .registerWrite ini addr size v => Sys2Proof.Machine.execRegisterWrite ini addr size v s
  | .rcRead ini addr size => Sys2Proof.Machine.execRcRead ini addr size s
  | .physicalAccess ini addr acc up => Sys2Proof.Machine.execPhysicalAccess ini addr acc up s
  | .pageReset ini page => Sys2Proof.Machine.execPageReset ini page s
  | .pageResetComplete page => Sys2Proof.Machine.execPageResetComplete page s
  | .pageEnable ini page => Sys2Proof.Machine.execPageEnable ini page s
  | .pageDisable ini page => Sys2Proof.Machine.execPageDisable ini page s
  | .pageQuiesce ini page => Sys2Proof.Machine.execPageQuiesce ini page s
  | .pgIrqSet ini page v => Sys2Proof.Machine.execPgIrqSet ini page v s
  | .powerOnReset => Sys2Proof.Machine.execPowerOnReset s
  | .strapSample straps => Sys2Proof.Machine.execStrapSample straps s
  | .encoderEdge e a b => Sys2Proof.Machine.execEncoderEdge e a b s
  | .zEdge z => Sys2Proof.Machine.execZEdge z s
  | .mainsZeroCross m => Sys2Proof.Machine.execMainsZeroCross m s
  | .ptbRun ini p v => Sys2Proof.Machine.execPtbRun ini p v s
  | .ptbStop ini p v => Sys2Proof.Machine.execPtbStop ini p v s
  | .ptbSrcDefaults ini p v => Sys2Proof.Machine.execPtbSrcDefaults ini p v s
  | .snap ini p => Sys2Proof.Machine.execSnap ini p s
  | .forceStep ini p => Sys2Proof.Machine.execForceStep ini p s
  | .acceptSlew ini p => Sys2Proof.Machine.execAcceptSlew ini p s
  | .armHome ini p => Sys2Proof.Machine.execArmHome ini p s
  | .clearServo ini p => Sys2Proof.Machine.execClearServo ini p s
  | .offsetSubmit ini p v => Sys2Proof.Machine.execOffsetSubmit ini p v s
  | .holdoverTimeout p => Sys2Proof.Machine.execHoldoverTimeout p s
  | .slewDone p => Sys2Proof.Machine.execSlewDone p s
  | .standstill p => Sys2Proof.Machine.execStandstill p s
  | .histSample p => Sys2Proof.Machine.execHistSample p s
  | .scheduledItemDue item => Sys2Proof.Machine.execScheduledItemDue item s
  | .tmapEnable ini n v => Sys2Proof.Machine.execTmapEnable ini n v s
  | .tmapIntervalEnd n => Sys2Proof.Machine.execTmapIntervalEnd n s
  | .netModeChange ini q v => Sys2Proof.Machine.execNetModeChange ini q v s
  | .netPtpDisable ini q v => Sys2Proof.Machine.execNetPtpDisable ini q v s
  | .netLinkChange q up => Sys2Proof.Machine.execNetLinkChange q up s
  | .netFrameRx q frame fcsOk => Sys2Proof.Machine.execNetFrameRx q frame fcsOk s
  | .netTxTail ini q ring v => Sys2Proof.Machine.execNetTxTail ini q ring v s
  | .netFrameTx q => Sys2Proof.Machine.execNetFrameTx q s
  | .netTxtsPop ini q => Sys2Proof.Machine.execNetTxtsPop ini q s
  | .ppsOutEnable ini v => Sys2Proof.Machine.execPpsOutEnable ini v s
  | .ppsOutPulseEnd => Sys2Proof.Machine.execPpsOutPulseEnd s
  | .ppsInEdge => Sys2Proof.Machine.execPpsInEdge s
  | .streamEnable ini q st v => Sys2Proof.Machine.execStreamEnable ini q st v s
  | .streamDatagramSend q st => Sys2Proof.Machine.execStreamDatagramSend q st s
  | .streamFlushTimeout q st => Sys2Proof.Machine.execStreamFlushTimeout q st s
  | .csi2PacketRx p header payload uc => Sys2Proof.Machine.execCsi2PacketRx p header payload uc s
  | .packetCrcResult p ok => Sys2Proof.Machine.execPacketCrcResult p ok s
  | .packetTruncated p => Sys2Proof.Machine.execPacketTruncated p s
  | .spEnable ini p v => Sys2Proof.Machine.execSpEnable ini p v s
  | .spDisable ini p v => Sys2Proof.Machine.execSpDisable ini p v s
  | .cciTransfer ini p v => Sys2Proof.Machine.execCciTransfer ini p v s
  | .cciDone p r bytes => Sys2Proof.Machine.execCciDone p r bytes s
  | .ieqTailTimeout p => Sys2Proof.Machine.execIeqTailTimeout p s
  | .ieqEntryRead p parity uc => Sys2Proof.Machine.execIeqEntryRead p parity uc s
  | .dropPkt ini p => Sys2Proof.Machine.execDropPkt ini p s
  | .ieqPop ini p parity => Sys2Proof.Machine.execIeqPop ini p parity s
  | .ieqRawDmaGo ini p v => Sys2Proof.Machine.execIeqRawDmaGo ini p v s
  | .rawDmaIdleTimeout p => Sys2Proof.Machine.execRawDmaIdleTimeout p s
  | .rawDmaDone p => Sys2Proof.Machine.execRawDmaDone p s
  | .sieveEvent p up => Sys2Proof.Machine.execSieveEvent p up s
  | .hotMaskLoad ini p v => Sys2Proof.Machine.execHotMaskLoad ini p v s
  | .hotMaskLoadDone p => Sys2Proof.Machine.execHotMaskLoadDone p s
  | .admWindowReload => Sys2Proof.Machine.execAdmWindowReload s
  | .admPortEnable ini p v => Sys2Proof.Machine.execAdmPortEnable ini p v s
  | .admHeadDecision p => Sys2Proof.Machine.execAdmHeadDecision p s
  | .ingressSpoolDrain => Sys2Proof.Machine.execIngressSpoolDrain s
  | .ruleEnable ini r v => Sys2Proof.Machine.execRuleEnable ini r v s
  | .ruleDisable ini r v => Sys2Proof.Machine.execRuleDisable ini r v s
  | .ruleInput cyc => Sys2Proof.Machine.execRuleInput cyc s
  | .pulseEnd o => Sys2Proof.Machine.execPulseEnd o s
  | .rfxCrcResult p => Sys2Proof.Machine.execRfxCrcResult p s
  | .tcalSwGo ini => Sys2Proof.Machine.execTcalSwGo ini s
  | .tcalFlush ini v => Sys2Proof.Machine.execTcalFlush ini v s
  | .coreHeartbeat => Sys2Proof.Machine.execCoreHeartbeat s
  | .deadmanFire => Sys2Proof.Machine.execDeadmanFire s
  | .rearm ini => Sys2Proof.Machine.execRearm ini s
  | .selftest ini => Sys2Proof.Machine.execSelftest ini s
  | .selftestDone fail => Sys2Proof.Machine.execSelftestDone fail s
  | .voterSignatureCheck minority => Sys2Proof.Machine.execVoterSignatureCheck minority s
  | .laneResyncDone => Sys2Proof.Machine.execLaneResyncDone s
  | .eccWalk word uncorr => Sys2Proof.Machine.execEccWalk word uncorr s
  | .outputFault o => Sys2Proof.Machine.execOutputFault o s
  | .reflexRecordDrain => Sys2Proof.Machine.execReflexRecordDrain s
  | .sfsFillDone p => Sys2Proof.Machine.execSfsFillDone p s
  | .sfsFreeDone p => Sys2Proof.Machine.execSfsFreeDone p s
  | .epochSweepStart p => Sys2Proof.Machine.execEpochSweepStart p s
  | .epochVisit p up => Sys2Proof.Machine.execEpochVisit p up s
  | .chordTest p up => Sys2Proof.Machine.execChordTest p up s
  | .locusRecord cache => Sys2Proof.Machine.execLocusRecord cache s
  | .ageingSweepVisit => Sys2Proof.Machine.execAgeingSweepVisit s
  | .ageingSweepEnd => Sys2Proof.Machine.execAgeingSweepEnd s
  | .objectBinding p => Sys2Proof.Machine.execObjectBinding p s
  | .locClear ini => Sys2Proof.Machine.execLocClear ini s
  | .locClearDone => Sys2Proof.Machine.execLocClearDone s
  | .locFlush ini => Sys2Proof.Machine.execLocFlush ini s
  | .latticeStep k => Sys2Proof.Machine.execLatticeStep k s
  | .journalFullWait k => Sys2Proof.Machine.execJournalFullWait k s
  | .leakSweepVisit k => Sys2Proof.Machine.execLeakSweepVisit k s
  | .courseSwap k => Sys2Proof.Machine.execCourseSwap k s
  | .courseSwapDone k => Sys2Proof.Machine.execCourseSwapDone k s
  | .routerPacket r => Sys2Proof.Machine.execRouterPacket r s
  | .routerStall r port => Sys2Proof.Machine.execRouterStall r port s
  | .kilnPacketIn k => Sys2Proof.Machine.execKilnPacketIn k s
  | .floorUpdate => Sys2Proof.Machine.execFloorUpdate s
  | .countWindowClose k => Sys2Proof.Machine.execCountWindowClose k s
  | .whlEnable ini v => Sys2Proof.Machine.execWhlEnable ini v s
  | .whlDisable ini v => Sys2Proof.Machine.execWhlDisable ini v s
  | .toCone ini => Sys2Proof.Machine.execToCone ini s
  | .toWheel ini => Sys2Proof.Machine.execToWheel ini s
  | .coneBarrier => Sys2Proof.Machine.execConeBarrier s
  | .drainComplete => Sys2Proof.Machine.execDrainComplete s
  | .rtWrite ini r => Sys2Proof.Machine.execRtWrite ini r s
  | .rtRead ini r => Sys2Proof.Machine.execRtRead ini r s
  | .rtLoad ini r v => Sys2Proof.Machine.execRtLoad ini r v s
  | .rtLoadDone r => Sys2Proof.Machine.execRtLoadDone r s
  | .egressRelease => Sys2Proof.Machine.execEgressRelease s
  | .fctTailWrite ini k v => Sys2Proof.Machine.execFctTailWrite ini k v s
  | .descriptorStart k => Sys2Proof.Machine.execDescriptorStart k s
  | .descriptorDone k => Sys2Proof.Machine.execDescriptorDone k s
  | .fctResume ini k => Sys2Proof.Machine.execFctResume ini k s
  | .incEventApply k c => Sys2Proof.Machine.execIncEventApply k c s
  | .rebaseStart k c => Sys2Proof.Machine.execRebaseStart k c s
  | .rebaseRowStep k c => Sys2Proof.Machine.execRebaseRowStep k c s
  | .rebaseDone k c => Sys2Proof.Machine.execRebaseDone k c s
  | .incRebase ini k c => Sys2Proof.Machine.execIncRebase ini k c s
  | .incClear ini k c v => Sys2Proof.Machine.execIncClear ini k c v s
  | .incClearDone k c => Sys2Proof.Machine.execIncClearDone k c s
  | .incEnable ini k c v => Sys2Proof.Machine.execIncEnable ini k c v s
  | .readout k c => Sys2Proof.Machine.execReadout k c s
  | .readoutDone k c => Sys2Proof.Machine.execReadoutDone k c s
  | .detectionPass k c => Sys2Proof.Machine.execDetectionPass k c s
  | .detectionPassDone k c => Sys2Proof.Machine.execDetectionPassDone k c s
  | .rchBinClose => Sys2Proof.Machine.execRchBinClose s
  | .rateRecordTimeout ch => Sys2Proof.Machine.execRateRecordTimeout ch s
  | .rchRun ini v => Sys2Proof.Machine.execRchRun ini v s
  | .rchStop ini v => Sys2Proof.Machine.execRchStop ini v s
  | .rchMapLoad ini v => Sys2Proof.Machine.execRchMapLoad ini v s
  | .rchMapLoadDone => Sys2Proof.Machine.execRchMapLoadDone s
  | .modelLoad ini v => Sys2Proof.Machine.execModelLoad ini v s
  | .modelPatch ini v => Sys2Proof.Machine.execModelPatch ini v s
  | .modelLoadDone => Sys2Proof.Machine.execModelLoadDone s
  | .completionPost => Sys2Proof.Machine.execCompletionPost s
  | .ledgerTimeout item => Sys2Proof.Machine.execLedgerTimeout item s
  | .ldgCtlWrite ini v => Sys2Proof.Machine.execLdgCtlWrite ini v s
  | .cqEnable ini q v => Sys2Proof.Machine.execCqEnable ini q v s
  | .winModeEnable ini p v => Sys2Proof.Machine.execWinModeEnable ini p v s
  | .ringEnable ini k v => Sys2Proof.Machine.execRingEnable ini k v s
  | .windowClose p => Sys2Proof.Machine.execWindowClose p s
  | .windowCloseByTime p => Sys2Proof.Machine.execWindowCloseByTime p s
  | .windowChainStepDone p => Sys2Proof.Machine.execWindowChainStepDone p s
  | .batchFlushTimeout p kind => Sys2Proof.Machine.execBatchFlushTimeout p kind s
  | .hbmRecal c => Sys2Proof.Machine.execHbmRecal c s
  | .mergeFlush pc => Sys2Proof.Machine.execMergeFlush pc s
  | .bucketLeak b => Sys2Proof.Machine.execBucketLeak b s
  | .bucketEnable ini b v => Sys2Proof.Machine.execBucketEnable ini b v s
  | .scrub ini v => Sys2Proof.Machine.execScrub ini v s
  | .fill ini v => Sys2Proof.Machine.execFill ini v s
  | .scbDone => Sys2Proof.Machine.execScbDone s
  | .hbmTempRead temp => Sys2Proof.Machine.execHbmTempRead temp s
  | .throttleUpdate => Sys2Proof.Machine.execThrottleUpdate s
  | .wthEnable ini v => Sys2Proof.Machine.execWthEnable ini v s
  | .wthDisable ini v => Sys2Proof.Machine.execWthDisable ini v s
  | .yield ini => Sys2Proof.Machine.execYield ini s
  | .heartbeatSend => Sys2Proof.Machine.execHeartbeatSend s
  | .timeSend p => Sys2Proof.Machine.execTimeSend p s
  | .heartbeat frame crcOk => Sys2Proof.Machine.execHeartbeat frame crcOk s
  | .time frame crcOk => Sys2Proof.Machine.execTime frame crcOk s
  | .locus frame crcOk => Sys2Proof.Machine.execLocus frame crcOk s
  | .ledger frame crcOk => Sys2Proof.Machine.execLedger frame crcOk s
  | .arb frame crcOk => Sys2Proof.Machine.execArb frame crcOk s
  | .nak frame crcOk => Sys2Proof.Machine.execNak frame crcOk s
  | .woethLinkDown lane => Sys2Proof.Machine.execWoethLinkDown lane s
  | .woethLinkUp => Sys2Proof.Machine.execWoethLinkUp s
  | .peerLost => Sys2Proof.Machine.execPeerLost s
  | .aliveInEdge => Sys2Proof.Machine.execAliveInEdge s
  | .claimWindowEnd => Sys2Proof.Machine.execClaimWindowEnd s
  | .backoffEnd => Sys2Proof.Machine.execBackoffEnd s
  | .aliasExpire => Sys2Proof.Machine.execAliasExpire s
  | .cmpEntryTimeout => Sys2Proof.Machine.execCmpEntryTimeout s
  | .enterWatch ini => Sys2Proof.Machine.execEnterWatch ini s
  | .enterSlumber ini => Sys2Proof.Machine.execEnterSlumber ini s
  | .enterDormant ini => Sys2Proof.Machine.execEnterDormant ini s
  | .wake ini => Sys2Proof.Machine.execWake ini s
  | .pageAnswer coresReady => Sys2Proof.Machine.execPageAnswer coresReady s
  | .deferTimeout => Sys2Proof.Machine.execDeferTimeout s
  | .rollbackDone => Sys2Proof.Machine.execRollbackDone s
  | .entryStepDone => Sys2Proof.Machine.execEntryStepDone s
  | .wakePin => Sys2Proof.Machine.execWakePin s
  | .alarmWake p => Sys2Proof.Machine.execAlarmWake p s
  | .mgmtWake => Sys2Proof.Machine.execMgmtWake s
  | .mgmtStatusRead => Sys2Proof.Machine.execMgmtStatusRead s
  | .core0HbmWake => Sys2Proof.Machine.execCore0HbmWake s
  | .exitStepDone tr => Sys2Proof.Machine.execExitStepDone tr s
  | .regulatorTimeout pgLow => Sys2Proof.Machine.execRegulatorTimeout pgLow s
  | .regulatorRetry => Sys2Proof.Machine.execRegulatorRetry s
  | .oscillatorTimeout refMhz => Sys2Proof.Machine.execOscillatorTimeout refMhz s
  | .memoryTimeout failed => Sys2Proof.Machine.execMemoryTimeout failed s
  | .logicTimeout => Sys2Proof.Machine.execLogicTimeout s
  | .dvfsRequest ini v => Sys2Proof.Machine.execDvfsRequest ini v s
  | .dvfsRaiseWait => Sys2Proof.Machine.execDvfsRaiseWait s
  | .railFault out => Sys2Proof.Machine.execRailFault out s
  | .thermtrip => Sys2Proof.Machine.execThermtrip s
  | .bootStage0 authentic => Sys2Proof.Machine.execBootStage0 authentic s
  | .bootStage1 => Sys2Proof.Machine.execBootStage1 s
  | .status => Sys2Proof.Machine.execStatus s
  | .enroll => Sys2Proof.Machine.execEnroll s
  | .getId via => Sys2Proof.Machine.execGetId via s
  | .quote via => Sys2Proof.Machine.execQuote via s
  | .extend via => Sys2Proof.Machine.execExtend via s
  | .seal via => Sys2Proof.Machine.execSeal via s
  | .lockset via => Sys2Proof.Machine.execLockset via s
  | .derive via => Sys2Proof.Machine.execDerive via s
  | .challenge via => Sys2Proof.Machine.execChallenge via s
  | .respond via => Sys2Proof.Machine.execRespond via s
  | .returnEraseDone => Sys2Proof.Machine.execReturnEraseDone s
  | .close via => Sys2Proof.Machine.execClose via s
  | .setOwner via => Sys2Proof.Machine.execSetOwner via s
  | .raiseFloor via => Sys2Proof.Machine.execRaiseFloor via s
  | .challengeExpire => Sys2Proof.Machine.execChallengeExpire s
  | .hartStart ini v => Sys2Proof.Machine.execHartStart ini v s
  | .machineTimerInterrupt h => Sys2Proof.Machine.execMachineTimerInterrupt h s
  | .plicClaim ctx => Sys2Proof.Machine.execPlicClaim ctx s
  | .plicComplete ctx src => Sys2Proof.Machine.execPlicComplete ctx src s
  | .pcieLinkChange up => Sys2Proof.Machine.execPcieLinkChange up s
  | .pcieInboundRequest bar off acc poisoned => Sys2Proof.Machine.execPcieInboundRequest bar off acc poisoned s
  | .cfgTimeout => Sys2Proof.Machine.execCfgTimeout s
  | .xspiGo ini => Sys2Proof.Machine.execXspiGo ini s
  | .xspiDone bytes => Sys2Proof.Machine.execXspiDone bytes s
  | .xspiPollTimeout => Sys2Proof.Machine.execXspiPollTimeout s
  | .mgmtWrite bytes => Sys2Proof.Machine.execMgmtWrite bytes s
  | .mgmtRead n => Sys2Proof.Machine.execMgmtRead n s
  | .uartDataWrite ini v => Sys2Proof.Machine.execUartDataWrite ini v s
  | .uartDataRead ini => Sys2Proof.Machine.execUartDataRead ini s
  | .uartByteRx b parityErr frameErr => Sys2Proof.Machine.execUartByteRx b parityErr frameErr s
  | .uartEnable ini v => Sys2Proof.Machine.execUartEnable ini v s
  | .gpioEdge pin level => Sys2Proof.Machine.execGpioEdge pin level s
  | .tapReset => Sys2Proof.Machine.execTapReset s
  | .phyLockChange p locked => Sys2Proof.Machine.execPhyLockChange p locked s
  | .rxActiveTimeout p => Sys2Proof.Machine.execRxActiveTimeout p s
  | .uartByteTx => Sys2Proof.Machine.execUartByteTx s
  | .pllLockLoss pll => Sys2Proof.Machine.execPllLockLoss pll s
  | .debugModuleAccess hart op => Sys2Proof.Machine.execDebugModuleAccess hart op s
  | .mgmtDynamicAddress addr => Sys2Proof.Machine.execMgmtDynamicAddress addr s

end Sys2Proof.Machine
end

