-- ==== Sys2Proof/Safety.lean ====
section
/-!
DEFINITION. Safety.lean: the terms that claims use: a step that answers, a page that takes writes, and what a command leaves
as it was.
-/

namespace Sys2Proof

open Sys2Proof.Machine

/-- A step that answers a next state. -/
def SafeStep (s : State) : Prop := ∃ t, step s = .next t

/-- R472, R503, R509, R572: a write to a register of the page reaches its block: the page is powered, out of reset, and has not
stopped by a handshake. -/
def Writable (s : State) (page : Nat) : Prop :=
  s.isOff page = false ∧ s.resetting page = false ∧ s.stopped page = false

/-- Everything but the registers stands as it was. -/
def OnlyRegs (s t : State) : Prop := t = { s with regs := t.regs }

/-- Every register but those listed, as (page, offset), holds its value. -/
def RegsKept (s t : State) (l : List (Nat × Nat)) : Prop :=
  ∀ page off, off < 0x10000 → (page, off) ∉ l → t.reg page off = s.reg page off

/-- Every register of a page but those listed by offset holds its value, and every register of every other page. -/
def PageKept (s t : State) (page : Nat) (l : List Nat) : Prop :=
  ∀ q off, off < 0x10000 → (q ≠ page ∨ off ∉ l) → t.reg q off = s.reg q off

/-- R56: no SNAP and no FORCE_STEP of the base lies in this DTC cycle. -/
def FreshCycle (s : State) (p : Fin 8) : Prop := (s.ptb.get p).snapAt ≠ some s.dtc ∧ s.cycleStep p = none

/-- R56: PTB_SNAP_POS, PTB_SNAP_VEL and PTB_SNAP_DTC hold what the base shows. -/
def SnapShows (s : State) (p : Fin 8) : Prop :=
  s.reg (PG.ptb p) R.PTB_SNAP_POS = s.pos p ∧ s.reg (PG.ptb p) R.PTB_SNAP_VEL = wOfInt (s.vel p) ∧
    s.reg (PG.ptb p) R.PTB_SNAP_DTC = s.dtc

/-- R13: a counter field of `n` bits stands `k` higher, or at all ones. -/
def Counted (s t : State) (page off lo n k : Nat) : Prop :=
  t.fld page off lo n = min (2 ^ n - 1) (s.fld page off lo n + k)

/-- R431: one job start has opened one ledger item, of the page and queue, not ended. -/
def Opened (s t : State) (page cq idx : Nat) : Prop :=
  ∃ it, t.ldg.items = s.ldg.items ++ [it] ∧ it.idx = idx ∧ it.page = page ∧ it.cq = cq ∧ it.closed = false

/-- R473: the completion of the item waits, behind those that waited, with the status and the detail. -/
def Completed (s t : State) (idx : Nat) (st : Status) (detail : Nat) : Prop :=
  t.item? idx = none ∧
    ∃ c, t.ldg.waiting = s.ldg.waiting ++ [c] ∧ c.item = idx ∧ c.status = st ∧ c.detail = min detail (2 ^ 32 - 1)

/-- R15: one job start has opened an item of the page and queue, and its completion waits with the status. -/
def StartedAndEnded (s t : State) (page cq : Nat) (st : Status) : Prop :=
  t.ldg.items.length = s.ldg.items.length + 1 ∧
    ∃ c, t.ldg.waiting = s.ldg.waiting ++ [c] ∧ c.page = page ∧ c.cq = cq ∧ c.status = st

/-- An item in flight that has met no poison. -/
def Running (s : State) (idx : Nat) : Prop := ∃ it, s.item? idx = some it ∧ it.poisoned = false

end Sys2Proof
end

