-- ==== Sys2Proof/Certificates/Slice0/Obligations.lean ====
section
/-!
DEFINITION. Certificates/Slice0/Obligations.lean: the statements for the provers.
-/

open Sys2Proof Sys2Proof.Machine

/-- SNAP on a time-base page that takes writes latches the base's position, velocity and DTC of the same instant into
PTB_SNAP_POS, PTB_SNAP_VEL and PTB_SNAP_DTC; no other register changes, and of the other state only the base's record that its SNAP lies
in this DTC cycle. FORCE_STEP there moves the position by exactly PTB_STEP at once, leaves the outstanding slew at 0 with SLEWING clear, and
leaves the loop trim, the integrator and every other base as they were; with PTB_STEP = 0, and no SNAP of the same cycle, it changes nothing.
A SNAP of the same cycle latches what each command of PTB_CMD and an offset leave. -/
def Obligations.SnapAndForceStep : Prop :=
  ∀ (ini : Initiator) (p : Fin 8) (s : State), Writable s (PG.ptb p) →
    (∃ t, exec (.snap ini p) s = .next t ∧
      t.reg (PG.ptb p) R.PTB_SNAP_POS = s.pos p ∧ t.reg (PG.ptb p) R.PTB_SNAP_VEL = wOfInt (s.vel p) ∧
      t.reg (PG.ptb p) R.PTB_SNAP_DTC = s.dtc ∧ t = { s with regs := t.regs, ptb := t.ptb } ∧
      t.ptb.get p = { s.ptb.get p with snapAt := some s.dtc } ∧ (∀ q, q ≠ p → t.ptb.get q = s.ptb.get q) ∧
      PageKept s t (PG.ptb p) [R.PTB_SNAP_POS, R.PTB_SNAP_VEL, R.PTB_SNAP_DTC]) ∧
    (s.reg (PG.ptb p) R.PTB_STEP = 0 → (s.ptb.get p).snapAt ≠ some s.dtc → exec (.forceStep ini p) s = .next s) ∧
    (s.reg (PG.ptb p) R.PTB_STEP ≠ 0 → ∃ t, exec (.forceStep ini p) s = .next t ∧
      t.pos p = s.pos p + s.reg (PG.ptb p) R.PTB_STEP ∧
      (t.ptb.get p).slewN = 0 ∧ t.bit (PG.ptb p) R.PTB_STS 4 = false ∧
      (t.ptb.get p).loop = (s.ptb.get p).loop ∧ (t.ptb.get p).integ = (s.ptb.get p).integ ∧
      (∀ q, q ≠ p → t.ptb.get q = s.ptb.get q) ∧ t.dtc = s.dtc) ∧
    ((s.ptb.get p).snapAt = some s.dtc → ∀ i e, i ∈ [Instr.forceStep ini p, .acceptSlew ini p, .armHome ini p, .clearServo ini p,
      .offsetSubmit ini p e] → ∃ t, exec i s = .next t ∧ SnapShows t p)

/-- On a time-base page that takes writes, with no SNAP of the base in the same DTC cycle: ACCEPT_SLEW with PTB_REFUSED_OFS = 0 changes nothing; otherwise it adds
PTB_REFUSED_OFS to the slew still outstanding (held in 10^-18 of a raw unit), clears PTB_REFUSED_OFS, and SLEWING tells
whether a slew is outstanding. ARM_HOME arms the homing and changes nothing else. CLEAR_SERVO sets the integrator and the
loop trim to 0, clears RATE_LIMIT, and keeps the outstanding slew. -/
def Obligations.SlewHomeAndServoCommands : Prop :=
  ∀ (ini : Initiator) (p : Fin 8) (s : State), Writable s (PG.ptb p) → (s.ptb.get p).snapAt ≠ some s.dtc →
    (s.reg (PG.ptb p) R.PTB_REFUSED_OFS = 0 → exec (.acceptSlew ini p) s = .next s) ∧
    (s.reg (PG.ptb p) R.PTB_REFUSED_OFS ≠ 0 → ∃ t, exec (.acceptSlew ini p) s = .next t ∧
      (t.ptb.get p).slewN = (s.settled p).slewN + (s.reg (PG.ptb p) R.PTB_REFUSED_OFS).toInt * 10 ^ 18 ∧
      t.reg (PG.ptb p) R.PTB_REFUSED_OFS = 0 ∧
      t.bit (PG.ptb p) R.PTB_STS 4 = decide ((t.ptb.get p).slewN ≠ 0) ∧
      t = { s with regs := t.regs, ptb := t.ptb } ∧ (∀ q, q ≠ p → t.ptb.get q = s.ptb.get q) ∧
      PageKept s t (PG.ptb p) [R.PTB_STS, R.PTB_REFUSED_OFS]) ∧
    (∃ t, exec (.armHome ini p) s = .next t ∧ t.ptb.get p = { s.ptb.get p with homeArmed := true } ∧
      t = { s with ptb := t.ptb } ∧ (∀ q, q ≠ p → t.ptb.get q = s.ptb.get q)) ∧
    (∃ t, exec (.clearServo ini p) s = .next t ∧ (t.ptb.get p).integ = 0 ∧ (t.ptb.get p).loop = 0 ∧
      (t.ptb.get p).slewN = (s.settled p).slewN ∧ t.bit (PG.ptb p) R.PTB_STS 5 = false ∧
      t = { s with regs := t.regs, ptb := t.ptb } ∧ (∀ q, q ≠ p → t.ptb.get q = s.ptb.get q) ∧
      PageKept s t (PG.ptb p) [R.PTB_STS])

/-- A write of PTB_CTL on a page that takes writes, with no SNAP of the base in the same DTC cycle, by the value `c` that the register would hold. RUN 0 to 1 with SRC kept and
every check of R55 passing: the position is PTB_START, the integrator, the slew, the history and (the model's choice, log 200) the loop trim are clear, and STATE is ACQUIRE,
or LOCKED for a FREE base. RUN 1 to 0 with SRC, INPUT, DIR and Z_EN kept: the position and the history freeze, the velocity reads
0 and STATE is STOPPED. While RUN = 1 a change of SRC, INPUT, DIR or Z_EN is ignored as a whole and logged with cause STATE.
With RUN 0 before and after, a change of SRC to a source of R49 loads that source's row of R54 and nothing else. -/
def Obligations.PtbControlRunStopAndSource : Prop :=
  ∀ (ini : Initiator) (p : Fin 8) (v : Word) (s : State), Writable s (PG.ptb p) → (s.ptb.get p).snapAt ≠ some s.dtc →
    let pg := PG.ptb p
    let old := s.reg pg R.PTB_CTL
    let c := s.wouldBe pg (.full ini R.PTB_CTL v)
    (bitAt old 8 = false → bitAt c 8 = true → bf old 0 3 = bf c 0 3 → (s.setReg pg R.PTB_CTL c).ptbRunFails p = [] →
      ∃ t, exec (.ptbRun ini p v) s = .next t ∧ t.pos p = s.reg pg R.PTB_START ∧ (t.ptb.get p).integ = 0 ∧
        (t.ptb.get p).loop = 0 ∧ (t.ptb.get p).slewN = 0 ∧ (t.ptb.get p).hist = [] ∧ t.ptbSt p = (if bf c 0 3 = 0 then 2 else 1)) ∧
    (bitAt old 8 = true → bitAt c 8 = false → (old ^^^ c) &&& ptbCtlFrozen = 0 →
      ∃ t, exec (.ptbStop ini p v) s = .next t ∧ t.pos p = s.pos p ∧ t.vel p = 0 ∧ t.ptbSt p = 0 ∧
        (t.ptb.get p).hist = (s.ptb.get p).hist ∧ (∀ q, q ≠ p → t.ptb.get q = s.ptb.get q) ∧
        t = { s with regs := t.regs, ptb := t.ptb } ∧ PageKept s t pg [R.PTB_CTL, R.PTB_STS]) ∧
    (bitAt old 8 = true → (old ^^^ c) &&& ptbCtlFrozen ≠ 0 →
      exec (.ptbStop ini p v) s = .next (s.logWr pg (.full ini R.PTB_CTL v) .state)) ∧
    (bitAt old 8 = false → bitAt c 8 = false → bf old 0 3 ≠ bf c 0 3 → bf c 0 3 < 5 →
      ∃ t, exec (.ptbSrcDefaults ini p v) s = .next t ∧ t.reg pg R.PTB_CTL = c ∧
        (t.reg pg R.PTB_JUMP_MAX, t.reg pg R.PTB_NOMINAL, t.reg pg R.PTB_KP, t.reg pg R.PTB_KI, t.reg pg R.PTB_SLEW_MAX) =
          (match bf c 0 3 with
            | 0 => (0x3E8_0000, 0x3B9A_CA00_0000, 0, 0, 0)
            | 1 => (0x1_0000, 0, 0, 0, 0)
            | 2 => (0x10_0000_0000, 0, 0, 0, 0)
            | 3 => (0x3_46DC_0000, 0x37_0000_0000_0000, 1526, 31, 200000000)
            | _ => (0x3E8_0000, 0x3B9A_CA00_0000, 45875, 19661, 500000)) ∧
        (t.fld pg R.PTB_SERVO_CTL 0 32, t.fld pg R.PTB_SERVO_CTL 32 8, t.fld pg R.PTB_SERVO_CTL 48 16) =
          (match bf c 0 3 with
            | 3 => (2 ^ 24, 8, 100)
            | 4 => (100, 8, 3000)
            | _ => (0, 1, 1)) ∧
        OnlyRegs s t ∧ PageKept s t pg [R.PTB_CTL, R.PTB_JUMP_MAX, R.PTB_NOMINAL, R.PTB_KP, R.PTB_KI, R.PTB_SLEW_MAX,
          R.PTB_SERVO_CTL])

/-- Of base `p`, the one running powered encoder base that decodes ENC input `e`, in a DTC cycle without SNAP or FORCE_STEP of it. A change of
a level of the input takes effect at a sample (ENCODER_EDGE, whatever levels it brings) ENC_FILT + 1 ns or more after the first
sample that showed it. Of A or B alone: the count moves by one, up at an A rise with B low, a B rise with A high, an A fall with B high or a B fall
with A low and down at the others, inverted by DIR; the edge is dated by that first sample, REVERSE tells the sense and STANDSTILL clears. Of both, first shown by one sample:
the count stays, ENC_ERR sets with its RAW bit and is counted. Where nothing has passed the filter, no base changes. A rise of Z with Z_EN = 1
latches the position at its first sample into PTB_ZPOS (Z_EDGE); with a homing armed it loads PTB_HOME into the position and disarms, without one the
position stays; a fall changes no position. The input then shows the sample's levels, a changed one dated by it. -/
def Obligations.EncoderAndZEdges : Prop :=
  ∀ (e p : Fin 8) (s : State), s.encBase e p = true → (∀ q, q ≠ p → s.encBase e q = false) → FreshCycle s p →
    let b := s.ptb.get p
    let x := s.enc.get e
    let passed := fun (since : Option Word) (ts : Word) => since = some ts ∧ b.encFilt + 1 ≤ (s.dtc - ts).toNat
    let waitsBy := fun (n : Nat) (level : Bool) (since : Option Word) (mine : Bool) =>
      level = mine ∨ ∃ ts, since = some ts ∧ (s.dtc - ts).toNat < n + 1
    let waits := waitsBy b.encFilt
    let waits' := waitsBy (min b.encFilt (s.fld (PG.ptb p) R.PTB_CTL 16 3))
    (∀ a' b' : Bool, ∀ ts : Word, waits' x.z x.zAt b.lz →
      (x.a ≠ b.la ∧ passed x.aAt ts ∧ waits' x.b x.bAt b.lb ∨ x.b ≠ b.lb ∧ passed x.bAt ts ∧ waits' x.a x.aAt b.la) →
      let viaA := decide (x.a ≠ b.la ∧ passed x.aAt ts ∧ waits' x.b x.bAt b.lb)
      let up := (if viaA then decide (x.a ≠ b.lb) else decide (b.la = x.b)) ^^ s.bit (PG.ptb p) R.PTB_CTL 7
      ∃ t, exec (.encoderEdge e a' b') s = .next t ∧ (t.ptb.get p).cnt = b.cnt + (if up then 1 else -1) ∧
        (t.ptb.get p).la = (if viaA then x.a else b.la) ∧ (t.ptb.get p).lb = (if viaA then b.lb else x.b) ∧
        (t.ptb.get p).pos = b.pos ∧ (t.ptb.get p).edges.head? = some ts ∧
        t.bit (PG.ptb p) R.PTB_STS 3 = !up ∧ t.bit (PG.ptb p) R.PTB_STS 2 = false ∧
        (∀ q, q ≠ p → t.ptb.get q = s.ptb.get q) ∧
        t = { s with regs := t.regs, ptb := t.ptb, sched := t.sched, enc := t.enc } ∧
        PageKept s t (PG.ptb p) [R.PTB_STS, R.PG_IRQ_RAW]) ∧
    (∀ a' b' : Bool, ∀ ts : Word, waits x.z x.zAt b.lz → x.a ≠ b.la → x.b ≠ b.lb → passed x.aAt ts → passed x.bAt ts →
      ∃ t, exec (.encoderEdge e a' b') s = .next t ∧
        t.ptb.get p = { b with la := x.a, lb := x.b } ∧ t.bit (PG.ptb p) R.PTB_STS 9 = true ∧
        t.bit (PG.ptb p) R.PG_IRQ_RAW 9 = true ∧ Counted s t (PG.ptb p) R.PTB_CNT0 0 16 1 ∧
        (∀ q, q ≠ p → t.ptb.get q = s.ptb.get q) ∧ t = { s with regs := t.regs, ptb := t.ptb, enc := t.enc } ∧
        PageKept s t (PG.ptb p) [R.PTB_STS, R.PG_IRQ_RAW, R.PTB_CNT0]) ∧
    (waits x.a x.aAt b.la → waits x.b x.bAt b.lb →
      (waits x.z x.zAt b.lz → ∀ a' b' : Bool, ∃ t, exec (.encoderEdge e a' b') s = .next t ∧ t = { s with enc := t.enc } ∧
        (∀ f, f ≠ e → t.enc.get f = s.enc.get f) ∧
        t.enc.get e = { x with a := a', b := b', aAt := if a' = x.a then x.aAt else some s.dtc,
                               bAt := if b' = x.b then x.bAt else some s.dtc }) ∧
      (∀ z' : Bool, ∀ ts : Word, x.z ≠ b.lz → passed x.zAt ts →
        (x.z = false → ∃ t, exec (.zEdge ⟨e, z'⟩) s = .next t ∧ t.ptb.get p = { b with lz := false } ∧
          (∀ q, q ≠ p → t.ptb.get q = s.ptb.get q) ∧ t = { s with ptb := t.ptb, enc := t.enc }) ∧
        (x.z = true → s.bit (PG.ptb p) R.PTB_CTL 10 = true → ∃ t, exec (.zEdge ⟨e, z'⟩) s = .next t ∧
          t.reg (PG.ptb p) R.PTB_ZPOS = s.posAgo p (s.dtc - ts).toNat ∧ (t.enc.get e).z = z' ∧
          (b.homeArmed = false → t.pos p = s.pos p ∧ (∀ q, q ≠ p → t.ptb.get q = s.ptb.get q) ∧
            t = { s with regs := t.regs, ptb := t.ptb, enc := t.enc }) ∧
          (b.homeArmed = true → t.pos p = s.reg (PG.ptb p) R.PTB_HOME ∧ (t.ptb.get p).homeArmed = false))))

/-- Of a base whose page has power. MAINS_ZERO_CROSS on the input of a running MAINS base, the only one on it, that has seen no
edge since RUN, with no SNAP of it in the same DTC cycle, only starts the period measurement. HOLDOVER_TIMEOUT where a servo base in ACQUIRE or LOCKED has accepted no offset
for HOLD_MS enters HOLDOVER and raises its RAW bit, with trim and integrator kept. SLEW_DONE where the outstanding slew has been
worked off clears SLEWING and the slew. STANDSTILL where the last edge lies 2^VEL_EDGES times 10 ms back sets PTB_STS.STANDSTILL.
HIST_SAMPLE where STRIDE ticks have passed stores the present position under the present IET, newest first, 4,096 kept. -/
def Obligations.TimeDrivenBaseEvents : Prop :=
  ∀ (p : Fin 8) (s : State), s.isOff (PG.ptb p) = false →
    (∀ m : Fin 2, s.ptbRunning p = true → s.ptbSrc p = 3 → s.fld (PG.ptb p) R.PTB_CTL 4 3 = m.val →
      (s.ptb.get p).mainsLast = none → (s.ptb.get p).snapAt ≠ some s.dtc → (∀ q, q ≠ p → s.ptbRunning q = false) →
      ∃ t, exec (.mainsZeroCross m) s = .next t ∧ t.ptb.get p = { s.ptb.get p with mainsLast := some s.dtc } ∧
        (∀ q, q ≠ p → t.ptb.get q = s.ptb.get q) ∧ t = { s with ptb := t.ptb }) ∧
    (s.holdoverDue p = true → ∃ t, exec (.holdoverTimeout p) s = .next t ∧ t.ptbSt p = 3 ∧
      t.bit (PG.ptb p) R.PG_IRQ_RAW 1 = true ∧ OnlyRegs s t ∧ PageKept s t (PG.ptb p) [R.PTB_STS, R.PG_IRQ_RAW]) ∧
    (s.holdoverDue p = false → exec (.holdoverTimeout p) s = .next s) ∧
    ((s.ptb.get p).slewN ≠ 0 → (s.settled p).slewN = 0 → ∃ t, exec (.slewDone p) s = .next t ∧
      (t.ptb.get p).slewN = 0 ∧ t.bit (PG.ptb p) R.PTB_STS 4 = false ∧ (t.ptb.get p).loop = (s.settled p).loop ∧
      t = { s with regs := t.regs, ptb := t.ptb } ∧ PageKept s t (PG.ptb p) [R.PTB_STS]) ∧
    (s.standstillDue p = true → ∃ t, exec (.standstill p) s = .next t ∧ t.bit (PG.ptb p) R.PTB_STS 2 = true ∧
      OnlyRegs s t ∧ PageKept s t (PG.ptb p) [R.PTB_STS]) ∧
    (s.histDue p = true → ∃ t, exec (.histSample p) s = .next t ∧
      (t.ptb.get p).hist = (s.iet, s.pos p) :: (s.ptb.get p).hist.take 4095 ∧ t = { s with ptb := t.ptb } ∧
      (∀ q, q ≠ p → t.ptb.get q = s.ptb.get q)) ∧
    (s.histDue p = false → exec (.histSample p) s = .next s)

/-- OFFSET_SUBMIT on a time-base page that takes writes, with no SNAP and no FORCE_STEP of the base in the same DTC cycle. At a base that is not a running PTP base it is discarded with OFS_IGNORED
and changes no time base. At a running PTP base: a stale offset is discarded, with OFS_STALE and its count; in ACQUIRE
with nothing accepted yet, a fresh offset moves the position by it at once; otherwise, with no slew outstanding, a fresh offset above PTB_JUMP_MAX
is stored in PTB_REFUSED_OFS, flagged and counted and leaves the loop as it is, and another enters the loop: the loop trim
becomes kp times e plus the integrator, clamped to the largest slew, and the position does not move at once. -/
def Obligations.OffsetSubmission : Prop :=
  ∀ (ini : Initiator) (p : Fin 8) (e : Word) (s : State), Writable s (PG.ptb p) → FreshCycle s p →
    let pg := PG.ptb p
    let ptp := s.ptbSrc p = 4 ∧ s.ptbRunning p = true
    let stale := s.ofsStale p (s.reg pg R.PTB_OFS_DTC)
    let first := s.ptbSt p = 1 ∧ (s.ptb.get p).accepted = false
    (¬ ptp → ∃ t, exec (.offsetSubmit ini p e) s = .next t ∧ t.bit pg R.PTB_STS 13 = true ∧ t.bit pg R.PG_IRQ_RAW 13 = true ∧
      OnlyRegs s t ∧ PageKept s t pg [R.PTB_STS, R.PG_IRQ_RAW]) ∧
    (ptp → stale = true → ∃ t, exec (.offsetSubmit ini p e) s = .next t ∧ t.bit pg R.PTB_STS 12 = true ∧
      Counted s t pg R.PTB_CNT0 48 16 1 ∧ OnlyRegs s t ∧ PageKept s t pg [R.PTB_STS, R.PG_IRQ_RAW, R.PTB_CNT0]) ∧
    (ptp → stale = false → first → ∃ t, exec (.offsetSubmit ini p e) s = .next t ∧ t.pos p = s.pos p + e ∧
      (t.ptb.get p).accepted = true ∧ (t.ptb.get p).accAt = s.dtc) ∧
    (ptp → stale = false → ¬ first → (s.ptb.get p).slewN = 0 →
      ((s.reg pg R.PTB_JUMP_MAX).toNat < e.toInt.natAbs → ∃ t, exec (.offsetSubmit ini p e) s = .next t ∧
        t.reg pg R.PTB_REFUSED_OFS = e ∧ t.bit pg R.PTB_STS 8 = true ∧ Counted s t pg R.PTB_CNT0 32 16 1 ∧
        (t.ptb.get p).loop = (s.ptb.get p).loop ∧ (t.ptb.get p).integ = (s.ptb.get p).integ ∧
        PageKept s t pg [R.PTB_STS, R.PG_IRQ_RAW, R.PTB_CNT0, R.PTB_REFUSED_OFS]) ∧
      (e.toInt.natAbs ≤ (s.reg pg R.PTB_JUMP_MAX).toNat →
        let kp := sgn 32 (s.fld pg R.PTB_KP 0 32)
        let ki := sgn 32 (s.fld pg R.PTB_KI 0 32)
        let m : Int := s.ptbSlewMax p * 2 ^ 32
        let i := (s.ptb.get p).integ + ki * e.toInt
        let i' := if (kp * e.toInt + i).natAbs ≤ m.natAbs then i else (s.ptb.get p).integ
        ∃ t, exec (.offsetSubmit ini p e) s = .next t ∧ (t.ptb.get p).integ = i' ∧
          (t.ptb.get p).loop = max (-m) (min m (kp * e.toInt + i')) ∧ (t.ptb.get p).accAt = s.dtc ∧
          (∀ q, q ≠ p → t.ptb.get q = s.ptb.get q) ∧ t = { s with regs := t.regs, ptb := t.ptb } ∧
          PageKept s t pg [R.PTB_STS, R.PG_IRQ_RAW]))

/-- TMAP_ENABLE, a write of TMAP_CTL on the DTC page, with EN 0 to 1: with MODE STAMP and INTERVAL 0 it is refused, EN reads 0 and
the port's TMAP_ZERO sets; otherwise EN reads 1, TMAP_RATE is 0 and the map waits for its first event. TMAP_INTERVAL_END of an interval that
held an event and has ended moves TMAP_OFS by half of e, the smallest residual less LAT, and TMAP_RATE by e over eight intervals, both
rounded to nearest even, the rate limited to 500 ppm, shows the residual in TMAP_RESID, and forgets it; of an interval without events it changes nothing. -/
def Obligations.StampMapEnableAndInterval : Prop :=
  (∀ (ini : Initiator) (n : Fin 8) (v : Word) (s : State), Writable s PG.dtc →
    let c := s.wouldBe PG.dtc (.full ini (R.TMAP_CTL n) v)
    s.bit PG.dtc (R.TMAP_CTL n) 0 = false → bitAt c 0 = true →
    (bitAt c 1 = true → bf c 32 8 = 0 → ∃ t, exec (.tmapEnable ini n v) s = .next t ∧
      t.bit PG.dtc (R.TMAP_CTL n) 0 = false ∧ t.bit PG.dtc R.DTC_STS n = true ∧ OnlyRegs s t ∧
      PageKept s t PG.dtc [R.TMAP_CTL n, R.DTC_STS]) ∧
    (bitAt c 1 = false ∨ bf c 32 8 ≠ 0 → ∃ t, exec (.tmapEnable ini n v) s = .next t ∧
      t.reg PG.dtc (R.TMAP_CTL n) = c ∧ t.reg PG.dtc (R.TMAP_RATE n) = 0 ∧ t.tmap.get n = {} ∧
      t = { s with regs := t.regs, tmap := t.tmap } ∧ PageKept s t PG.dtc [R.TMAP_CTL n, R.TMAP_RATE n])) ∧
  (∀ (n : Fin 8) (s : State), s.isOff PG.dtc = false →
    (s.tmapDue n = false → exec (.tmapIntervalEnd n) s = .next s) ∧
    (∀ r, (s.tmap.get n).rmin = some r → s.tmapDue n = true →
      let e := r - (s.fld PG.dtc (R.TMAP_CTL n) 16 16 : Int)
      let ticks := s.fld PG.dtc (R.TMAP_CTL n) 32 8 * 1024
      ∃ t, exec (.tmapIntervalEnd n) s = .next t ∧
        t.reg PG.dtc (R.TMAP_OFS n) = wOfInt ((s.reg PG.dtc (R.TMAP_OFS n)).toInt + roundEven (e * 2 ^ 24) 2) ∧
        t.reg PG.dtc (R.TMAP_RATE n) = wOfInt (max (-549755813) (min 549755813
          ((s.reg PG.dtc (R.TMAP_RATE n)).toInt + roundEven (e * 2 ^ 40) (8 * ticks)))) ∧
        t.reg PG.dtc (R.TMAP_RESID n) = wOfNat (low 32 r) ∧ (t.tmap.get n).rmin = none ∧
        t = { s with regs := t.regs, tmap := t.tmap } ∧
        PageKept s t PG.dtc [R.TMAP_OFS n, R.TMAP_RATE n, R.TMAP_RESID n]))

/-- SCHEDULED_ITEM_DUE of an item that is not pending, or that its base's position has not reached and no step has passed, changes
nothing. An alarm that is due, on a powered page, with no wake to raise: PTB_STS.ALARM and its RAW bit set, PTB_ALARM_CTL.EN clears and the item
is gone. A Cone-mode recovery item that is due is gone and the recovery is due. A PPS item that is due with the page powered raises PPS_OUT until
WIDTH later and raises its cause, and NET_PPS_NEXT moves by one period where the position is still before that. -/
def Obligations.ScheduledItemFallsDue : Prop :=
  (∀ (id : ItemId) (s : State), s.dueItem id = none → exec (.scheduledItemDue id) s = .next s) ∧
  (∀ (p : Fin 8) (s : State), (s.dueItem (.alarm p)).isSome = true → s.isOff (PG.ptb p) = false → s.alarmWakes p = false →
    ∃ t, exec (.scheduledItemDue (.alarm p)) s = .next t ∧ t.bit (PG.ptb p) R.PTB_STS 14 = true ∧
      t.bit (PG.ptb p) R.PG_IRQ_RAW 14 = true ∧ t.bit (PG.ptb p) R.PTB_ALARM_CTL 0 = false ∧
      t.schedGet (.alarm p) = none ∧ t = { s with regs := t.regs, sched := t.sched } ∧
      PageKept s t (PG.ptb p) [R.PTB_STS, R.PG_IRQ_RAW, R.PTB_ALARM_CTL]) ∧
  (∀ s : State, (s.dueItem .recovery).isSome = true → ∃ t, exec (.scheduledItemDue .recovery) s = .next t ∧
      t.schedGet .recovery = none ∧ t.spk = { s.spk with recDue := true } ∧ t = { s with sched := t.sched, spk := t.spk }) ∧
  (∀ s : State, (s.dueItem .pps).isSome = true → s.isOff (PG.net 0) = false → s.bit (PG.net 0) R.NET_PPS_CTL 0 = true →
    let next := s.reg (PG.net 0) R.NET_PPS_NEXT + s.reg (PG.net 0) R.NET_PPS_PERIOD
    before (s.pos s.ppsBase) next = true →
    ∃ t, exec (.scheduledItemDue .pps) s = .next t ∧ t.reg (PG.net 0) R.NET_PPS_NEXT = next ∧ t.pps.out = true ∧
      t.pps.until_ = s.dtc + wOfNat (s.fld (PG.net 0) R.NET_PPS_CTL 8 24) ∧ t.bit (PG.net 0) R.PG_IRQ_RAW 7 = true ∧
      t = { s with regs := t.regs, sched := t.sched, pps := t.pps } ∧
      PageKept s t (PG.net 0) [R.NET_PPS_NEXT, R.NET_PPS_CNT, R.PG_IRQ_RAW])

/-- On an Ethernet page that takes writes, by the value `c` that NET_CTL would hold. NET_MODE_CHANGE to a reserved MODE or FEC, or to
10GBASE-R with FEC 2, only sets NET_STS[2]. A permitted change of MODE or FEC stores `c`, takes the link down, loads NET_TS_LAT for a mode that
the table of R93 lists and empties the timestamp queue; the frames that stand in the
transmit rings then, up to TAIL, post no entry. NET_PTP_DISABLE, MODE and FEC kept and TS_EN 1 to 0, stores `c` and empties the queue only.
NET_LINK_CHANGE of a powered port in a running mode, not stopped, sets NET_STS.LINK to the new level and raises the LINK cause when it changes.
On the first Ethernet page, taking writes: PPS_OUT_ENABLE with WIDTH or PERIOD 0 is refused, OUT_EN reads 0 and the write is logged with cause REFUSED;
otherwise it stores the register and one item with target NET_PPS_NEXT on the selected base is pending. PPS_OUT_PULSE_END once the pulse has lasted WIDTH takes
PPS_OUT down, and before that changes nothing. PPS_IN_EDGE with IN_EN and no edge within the last microsecond latches the DTC of the edge, four cycles
before it counts, and the base's position at it, counts the edge and raises its cause; with IN_EN = 0 it changes nothing. -/
def Obligations.EthernetModeLinkAndPps : Prop :=
  (∀ (q : Fin 2) (s : State), Writable s (PG.net q) →
     (∀ (ini : Initiator) (v : Word),
       let pg := PG.net q
       let old := s.reg pg R.NET_CTL
       let c := s.wouldBe pg (.full ini R.NET_CTL v)
       let bad := bf c 0 2 = 3 ∨ bf c 2 2 = 3 ∨ (bf c 0 2 = 1 ∧ bf c 2 2 = 2)
       (bad → ∃ t, exec (.netModeChange ini q v) s = .next t ∧ t.bit pg R.NET_STS 2 = true ∧ OnlyRegs s t ∧
         PageKept s t pg [R.NET_STS]) ∧
       (¬ bad → bf old 0 4 ≠ bf c 0 4 → ∃ t, exec (.netModeChange ini q v) s = .next t ∧ t.reg pg R.NET_CTL = c ∧
         t.netLink q = false ∧ (t.net.get q).txts = [] ∧
         (∀ i : Fin 2, (t.net.get q).mute.get i = some (s.fld pg (R.NET_RING_TAIL i) 0 32)) ∧
         (∀ tx rx, tsLat (bf c 0 2) (bf c 2 2) = some (tx, rx) → t.reg pg R.NET_TS_LAT = wOfNat (tx + rx <<< 16)) ∧
         t = { s with regs := t.regs, net := t.net } ∧
         PageKept s t pg [R.NET_CTL, R.NET_STS, R.NET_TS_LAT, R.PG_IRQ_RAW]) ∧
       (¬ bad → bf old 0 4 = bf c 0 4 → bitAt old 4 = true → bitAt c 4 = false →
         ∃ t, exec (.netPtpDisable ini q v) s = .next t ∧ t.reg pg R.NET_CTL = c ∧ (t.net.get q).txts = [] ∧
           (∀ i : Fin 2, (t.net.get q).mute.get i = some (s.fld pg (R.NET_RING_TAIL i) 0 32)) ∧
           t = { s with regs := t.regs, net := t.net } ∧ PageKept s t pg [R.NET_CTL])) ∧
     (∀ up : Bool, s.fld (PG.net q) R.NET_CTL 0 2 ≠ 0 → ∃ t, exec (.netLinkChange q up) s = .next t ∧ t.netLink q = up ∧
       (s.netLink q ≠ up → t.bit (PG.net q) R.PG_IRQ_RAW 0 = true) ∧ OnlyRegs s t ∧
       PageKept s t (PG.net q) [R.NET_STS, R.PG_IRQ_RAW])) ∧
  (∀ (ini : Initiator) (v : Word) (s : State), Writable s (PG.net 0) →
    let pg := PG.net 0
    let w := Wr.full ini R.NET_PPS_CTL v
    let c := s.wouldBe pg w
    s.bit pg R.NET_PPS_CTL 0 = false → bitAt c 0 = true →
    ((bf c 8 24 = 0 ∨ s.reg pg R.NET_PPS_PERIOD = 0) →
      exec (.ppsOutEnable ini v) s = .next ((s.setReg pg R.NET_PPS_CTL (putBit c 0 false)).logWr pg w .refused)) ∧
    (bf c 8 24 ≠ 0 → s.reg pg R.NET_PPS_PERIOD ≠ 0 → ∃ t, exec (.ppsOutEnable ini v) s = .next t ∧
      t.reg pg R.NET_PPS_CTL = c ∧ (∃ i, t.schedGet .pps = some i ∧ i.base = baseOf (bf c 2 3) ∧ i.target = s.reg pg R.NET_PPS_NEXT) ∧
      t = { s with regs := t.regs, sched := t.sched } ∧ PageKept s t pg [R.NET_PPS_CTL])) ∧
  (∀ s : State, (s.pps.out = true → atOrAfter s.dtc s.pps.until_ = true →
      exec .ppsOutPulseEnd s = .next { s with pps := { s.pps with out := false } }) ∧
    (s.pps.out = false ∨ atOrAfter s.dtc s.pps.until_ = false → exec .ppsOutPulseEnd s = .next s)) ∧
  (∀ s : State, s.isOff (PG.net 0) = false →
    let pg := PG.net 0
    (s.bit pg R.NET_PPS_CTL 1 = false → exec .ppsInEdge s = .next s) ∧
    (s.bit pg R.NET_PPS_CTL 1 = true → (∀ d, s.pps.inLast = some d → 1000 ≤ (s.dtc - 4 - d).toNat) →
      ∃ t, exec .ppsInEdge s = .next t ∧ t.reg pg R.NET_PPS_IN_DTC = s.dtc - 4 ∧
        t.reg pg R.NET_PPS_IN_POS = s.posAgo s.ppsBase 4 ∧ Counted s t pg R.NET_PPS_CNT 16 16 1 ∧
        t.bit pg R.PG_IRQ_RAW 6 = true ∧ t = { s with regs := t.regs, pps := t.pps } ∧
        PageKept s t pg [R.NET_PPS_IN_DTC, R.NET_PPS_IN_POS, R.NET_PPS_CNT, R.PG_IRQ_RAW]))

/-- Of an Ethernet port whose link is up and whose page is powered and out of reset: NET_FRAME_RX of a frame with a bad FCS only counts it, and so does
one of a wrong length; a good untagged or once tagged frame that is no PTP message and no PAUSE frame taken, addressed to NET_MAC_ADDR or to a group,
is delivered to ring RX1 where that ring has room, without a timestamp: a completion
for the slot at HEAD replaces the one that stood there, HEAD advances by one and its cause is raised. NET_FRAME_TX with nothing to
hold it back sends the frame at the head of TX0 with its FCS, first of all, when its descriptor and bytes read clean and it asks for neither stamp nor insertion nor cause, and
advances HEAD. NET_TX_TAIL stores TAIL of a ring of nonzero SIZE, and only sets NET_STS[3] for one of SIZE 0. NET_TXTS_POP removes the oldest
timestamp; the READY cause stays raised while one remains. -/
def Obligations.FramesAndHostRings : Prop :=
  ∀ (q : Fin 2) (s : State), Writable s (PG.net q) →
    let pg := PG.net q
    (∀ (f : List Byte) (ok : Bool), s.netLink q = true →
      (ok = false → ∃ t, exec (.netFrameRx q f ok) s = .next t ∧ Counted s t pg R.NET_CNT0 0 16 1 ∧ OnlyRegs s t ∧
        PageKept s t pg [R.NET_CNT0]) ∧
      (ok = true → (f.length + 4 < 64 ∨ s.maxFrame q < f.length + 4) → ∃ t, exec (.netFrameRx q f ok) s = .next t ∧
        Counted s t pg R.NET_CNT0 16 16 1 ∧ OnlyRegs s t ∧ PageKept s t pg [R.NET_CNT0]) ∧
      (ok = true → 64 ≤ f.length + 4 → f.length + 4 ≤ s.maxFrame q → (etherAt f).isSome = true →
        (s.bit pg R.NET_CTL 8 = false ∨ pauseQuanta f = none) → ptpClass f = .other →
        (frameBe f 0 6 = s.fld pg R.NET_MAC_ADDR 0 48 ∨ frameBe f 0 1 % 2 = 1) →
        s.fld pg (R.NET_RING_SIZE 3) 0 13 ≠ 0 → s.ringPending q 3 ≠ 0 →
        ∃ t, exec (.netFrameRx q f ok) s = .next t ∧
          (let slot := s.fld pg (R.NET_RING_HEAD 3) 0 32 % s.fld pg (R.NET_RING_SIZE 3) 0 13
           (t.net.get q).rx = { ring := 3, slot, frame := f, tsValid := false, msgType := 0, dtc := 0, pos := 0 } ::
             (s.net.get q).rx.filter fun o => o.ring != 3 || o.slot != slot) ∧
          t.fld pg (R.NET_RING_HEAD 3) 0 32 = (s.fld pg (R.NET_RING_HEAD 3) 0 32 + 1) % 2 ^ 32 ∧
          t.bit pg R.PG_IRQ_RAW 4 = true ∧ (∀ q', q' ≠ q → t.net.get q' = s.net.get q'))) ∧
    (s.netLink q = true → before s.dtc (s.net.get q).pauseTo = false →
      (s.bit PG.rfx R.RFX_STS 4 = false ∨ s.rfx.hbBack = true) →
      s.fld pg (R.NET_RING_SIZE 0) 0 13 ≠ 0 → s.ringPending q 0 ≠ 0 →
      ∀ d s1 r s2, s.readNat (s.ringEntry q 0 0 16) 16 = (d, false, s1) →
        s1.readBytes (nfld d 0 64) (nfld d 64 14) = (r, s2) → r.bad = false → nfld d 78 3 = 0 →
        ∃ t, exec (.netFrameTx q) s = .next t ∧ (t.net.get q).wire = withFcs r.bytes ∧
          t.fld pg (R.NET_RING_HEAD 0) 0 32 = (s2.fld pg (R.NET_RING_HEAD 0) 0 32 + 1) % 2 ^ 32) ∧
    (∀ (ini : Initiator) (i : Fin 4) (v : Word),
      (s.fld pg (R.NET_RING_SIZE i) 0 13 ≠ 0 → ∃ t, exec (.netTxTail ini q i v) s = .next t ∧
        t.fld pg (R.NET_RING_TAIL i) 0 32 = bf v 0 32 ∧ OnlyRegs s t ∧ PageKept s t pg [R.NET_RING_TAIL i]) ∧
      (s.fld pg (R.NET_RING_SIZE i) 0 13 = 0 → ∃ t, exec (.netTxTail ini q i v) s = .next t ∧ t.bit pg R.NET_STS 3 = true ∧
        OnlyRegs s t ∧ PageKept s t pg [R.NET_STS])) ∧
    (∀ ini : Initiator, ∃ t, exec (.netTxtsPop ini q) s = .next t ∧ (t.net.get q).txts = (s.net.get q).txts.tail ∧
      ((s.net.get q).txts.tail ≠ [] → t.bit pg R.PG_IRQ_RAW 1 = true) ∧ t = { s with regs := t.regs, net := t.net } ∧
      PageKept s t pg [R.PG_IRQ_RAW])

/-- STREAM_ENABLE, EN 0 to 1 on an Ethernet page that takes writes: a context with bad parameters reads EN = 0 and its index stands in NET_STS with the flag of a
refused stream; a good one stores STR_CTL, its sequence starts at 0 and its next datagram is marked as a restart. STREAM_DATAGRAM_SEND of an enabled context
that has a ring with a whole datagram to send, and STREAM_FLUSH_TIMEOUT once FLUSH_US have passed, on a single part with the link up and room in the transmit buffer, take the datagram's
bytes from the ring: RING_NET advances by them, the datagram joins the transmit buffer with the sequence number, and STR_SEQ counts on. With no
ring to send, or EN = 0, nothing changes. -/
def Obligations.StreamContexts : Prop :=
  ∀ (q : Fin 2) (st : Fin 16) (s : State), Writable s (PG.net q) →
    let pg := PG.net q
    (∀ (ini : Initiator) (v : Word),
      let c := s.wouldBe pg (.full ini (R.STR_CTL st) v)
      s.bit pg (R.STR_CTL st) 0 = false → bitAt c 0 = true →
      (s.streamBad q st c = true → ∃ t, exec (.streamEnable ini q st v) s = .next t ∧ t.bit pg (R.STR_CTL st) 0 = false ∧
        t.bit pg R.NET_STS 4 = true ∧ t.fld pg R.NET_STS 8 4 = st.val ∧ OnlyRegs s t ∧ PageKept s t pg [R.STR_CTL st, R.NET_STS]) ∧
      (s.streamBad q st c = false → ∃ t, exec (.streamEnable ini q st v) s = .next t ∧ t.reg pg (R.STR_CTL st) = c ∧
        t.reg pg (R.STR_SEQ st) = 0 ∧ (t.net.get q).restart.get st = true ∧ t = { s with regs := t.regs, net := t.net } ∧
        PageKept s t pg [R.STR_CTL st, R.STR_SEQ st])) ∧
    (s.bit pg (R.STR_CTL st) 0 = false → exec (.streamDatagramSend q st) s = .next s) ∧
    (s.bit pg (R.STR_CTL st) 0 = true → s.streamRing q st = none → exec (.streamDatagramSend q st) s = .next s) ∧
    (∀ (flush : Bool) (k : Fin 32) (n : Nat), (flush = true → s.flushDue q st = true) →
      s.bit pg (R.STR_CTL st) 0 = true → s.streamRing q st = some k → s.streamTake k (s.streamSpace q st) flush = some n →
      s.role = 0 → s.netLink q = true → ((s.net.get q).sendq.map fun d => d.payload.length + 100).sum + n + 100 ≤ 65536 →
      ∃ t d, exec (if flush then .streamFlushTimeout q st else .streamDatagramSend q st) s = .next t ∧
        (t.net.get q).sendq = (s.net.get q).sendq ++ [d] ∧ d.st = st ∧ d.seq = s.fld pg (R.STR_SEQ st) 0 32 ∧
        t.reg PG.res (R.RING_NET k) = s.reg PG.res (R.RING_NET k) + wOfNat n ∧
        t.fld pg (R.STR_SEQ st) 0 32 = (s.fld pg (R.STR_SEQ st) 0 32 + 1) % 2 ^ 32)

/-- Of an enabled sensor port with no packet open and no relay: CSI2_PACKET_RX of a header that fails its check only counts it and raises the header cause; a header
of another virtual channel is only counted; a good long-packet header of the port's channel with an enabled data type opens a packet of that type and word count, to which the payload that came with
it, up to the word count, belongs, and the next packet number follows. PACKET_CRC_RESULT with the whole payload received ends the packet: the result
follows its events in the front buffer, and a bad one is counted and raises its cause. PACKET_TRUNCATED with part of the payload missing ends it as
truncated, counted, with the cause. With no packet open both change nothing. -/
def Obligations.PacketsOpenAndEnd : Prop :=
  ∀ (p : Fin 8) (s : State),
    let pg := PG.sp p
    (s.spEn p = true → (s.sp.get p).rx = none → s.bit pg R.SP_RLY_CTL 0 = false → s.bit pg R.SP_STS 0 = true →
      ∀ (h : CsiHeader) (payload : List Byte),
      (h.check = .bad → ∃ t, exec (.csi2PacketRx p (some h) payload none) s = .next t ∧ Counted s t pg R.SP_CNT0 16 16 1 ∧
        t.bit pg R.PG_IRQ_RAW 1 = true ∧ (t.sp.get p).rx = none ∧ t = { s with regs := t.regs, sp := t.sp } ∧
        PageKept s t pg [R.SP_CNT0, R.PG_IRQ_RAW]) ∧
      (h.check = .good → h.vc.toNat ≠ s.fld pg R.SP_CTL 8 4 → ∃ t, exec (.csi2PacketRx p (some h) payload none) s = .next t ∧
        Counted s t pg R.SP_CNT1 0 16 1 ∧ (t.sp.get p).rx = none ∧ t = { s with regs := t.regs, sp := t.sp } ∧
        PageKept s t pg [R.SP_CNT1]) ∧
      (h.check ≠ .bad → h.vc.toNat = s.fld pg R.SP_CTL 8 4 → 0x30 ≤ h.dt.toNat → h.dt.toNat < 0x38 →
        s.bit pg R.SP_CTL (12 + (h.dt.toNat - 0x30)) = true →
        ∃ t rx, exec (.csi2PacketRx p (some h) payload none) s = .next t ∧ (t.sp.get p).rx = some rx ∧
          rx.dt = h.dt.toNat ∧ rx.wc = h.wc.toNat ∧ rx.seq = (s.sp.get p).seq ∧ rx.rcvd = min h.wc.toNat payload.length ∧
          (t.sp.get p).seq = ((s.sp.get p).seq + 1) % 65536)) ∧
    (∀ ok : Bool, (s.sp.get p).rx = none → exec (.packetCrcResult p ok) s = .next s) ∧
    ((s.sp.get p).rx = none → exec (.packetTruncated p) s = .next s) ∧
    (∀ rx, (s.sp.get p).rx = some rx →
      (rx.rcvd = rx.wc → ∀ ok : Bool, ∃ t, exec (.packetCrcResult p ok) s = .next t ∧ (t.sp.get p).rx = none ∧
        (t.sp.get p).front = (s.sp.get p).front ++ [.crc rx.seq ok false] ∧
        (ok = false → Counted s t pg R.SP_CNT0 32 16 1 ∧ t.bit pg R.PG_IRQ_RAW 2 = true) ∧
        (∀ q, q ≠ p → t.sp.get q = s.sp.get q ∧ t.ieq.get q = s.ieq.get q)) ∧
      (rx.rcvd < rx.wc → ∃ t, exec (.packetTruncated p) s = .next t ∧ (t.sp.get p).rx = none ∧
        (t.sp.get p).front = (s.sp.get p).front ++ [.crc rx.seq false true] ∧
        Counted s t pg R.SP_CNT0 48 16 1 ∧ t.bit pg R.PG_IRQ_RAW 2 = true ∧
        (∀ q, q ≠ p → t.sp.get q = s.sp.get q ∧ t.ieq.get q = s.ieq.get q)))

/-- PHY_LOCK_CHANGE sets SP_STS[1] to the new level and changes nothing else. RX_ACTIVE_TIMEOUT of an active receiver that has seen no burst for 1 ms clears
RX_ACTIVE and raises its cause, and before that changes nothing. CCI_TRANSFER on a sensor page that takes writes: while a transfer runs it is logged with cause BUSY; with
the controller off it changes nothing; with both lengths 0 it ends at once with RESULT 1 and no bytes; otherwise the transfer is on the bus, with the
address, the first WLEN bytes of the write buffer and the length to read (both lengths at most 32), and SP_CCI_STS reads busy alone. CCI_DONE of a transfer on the bus stores its RESULT and the number of bytes read, at most what the transfer asks for, raises the cause and frees the bus; without one it changes nothing. -/
def Obligations.PhyAndCameraControl : Prop :=
  ∀ (p : Fin 8) (s : State),
    let pg := PG.sp p
    (∀ locked : Bool, exec (.phyLockChange p locked) s = .next (s.setBit pg R.SP_STS 1 locked)) ∧
    (s.bit pg R.SP_STS 0 = true → 1000000 ≤ (s.dtc - (s.sp.get p).burstAt).toNat →
      exec (.rxActiveTimeout p) s = .next ((s.setBit pg R.SP_STS 0 false).irq pg 0)) ∧
    (s.bit pg R.SP_STS 0 = false ∨ (s.dtc - (s.sp.get p).burstAt).toNat < 1000000 →
      exec (.rxActiveTimeout p) s = .next s) ∧
    (∀ (ini : Initiator) (v : Word), Writable s pg →
      (s.bit pg R.SP_CCI_STS 0 = true →
        exec (.cciTransfer ini p v) s = .next (s.logWr pg (.full ini R.SP_CCI_CMD v) .busy)) ∧
      (s.bit pg R.SP_CCI_STS 0 = false → s.bit pg R.SP_CCI_CTL 0 = false → exec (.cciTransfer ini p v) s = .next s) ∧
      (s.bit pg R.SP_CCI_STS 0 = false → s.bit pg R.SP_CCI_CTL 0 = true → bf v 8 6 = 0 → bf v 16 6 = 0 →
        ∃ t, exec (.cciTransfer ini p v) s = .next t ∧ t.reg pg R.SP_CCI_STS = 2 ∧ t.bit pg R.PG_IRQ_RAW 4 = true ∧
          t = { s with regs := t.regs, sp := t.sp } ∧ PageKept s t pg [R.SP_CCI_STS, R.PG_IRQ_RAW]) ∧
      (s.bit pg R.SP_CCI_STS 0 = false → s.bit pg R.SP_CCI_CTL 0 = true → (bf v 8 6 ≠ 0 ∨ bf v 16 6 ≠ 0) →
        ∃ t c, exec (.cciTransfer ini p v) s = .next t ∧ (t.sp.get p).cci = some c ∧ c.addr = bf v 0 7 ∧
          c.sent = (s.cciWbuf p).take (min 32 (bf v 8 6)) ∧ c.rlen = min 32 (bf v 16 6) ∧ t.reg pg R.SP_CCI_STS = 1 ∧
          t = { s with regs := t.regs, sp := t.sp } ∧ PageKept s t pg [R.SP_CCI_STS])) ∧
    (∀ (r : CciResult) (bytes : List Byte),
      ((s.sp.get p).cci = none → exec (.cciDone p r bytes) s = .next s) ∧
      (∀ c, (s.sp.get p).cci = some c → ∃ t, exec (.cciDone p r bytes) s = .next t ∧ (t.sp.get p).cci = none ∧
        t.reg pg R.SP_CCI_STS = wOfNat (cciCode r <<< 1 + (min bytes.length c.rlen) <<< 4) ∧
        t.bit pg R.PG_IRQ_RAW 4 = true ∧ t = { s with regs := t.regs, sp := t.sp }))

/-- IEQ_TAIL_TIMEOUT of a port whose reader has caught up and whose open entry has run out commits that entry with TIMEOUT as the only one
and counts it; otherwise it changes nothing. IEQ_ENTRY_READ gives the head entry to a raw read that wants one, which has then moved one more, and changes nothing for it on an
empty queue; with none it takes the head entry, not read before, where the queue decoder may read, a clean Frame Start or Frame End marker there handing the Sieve its marker
word where MARK_EN is set, and changes nothing where it may not. DROP_PKT on a queue page that takes writes sets IEQ_STS[19] alone when no packet is current; otherwise, not in raw mode, it counts the drop and
hands the Sieve a loss word of cause 2 with the bytes discarded. IEQ_POP in raw mode with no raw read running sets the EMPTY flag and cause of an empty queue; of another it takes the head, shows its tag and its 32 bytes
in the holding registers; outside raw mode, or while a raw read runs, it is logged with cause STATE. -/
def Obligations.IngressQueueEntries : Prop :=
  ∀ (p : Fin 8) (s : State),
    let pg := PG.ieq p
    (s.tailDue p = false → exec (.ieqTailTimeout p) s = .next s) ∧
    (∀ o rx, (s.ieq.get p).opened = some o → (s.sp.get p).rx = some rx → s.tailDue p = true →
      ∃ t, exec (.ieqTailTimeout p) s = .next t ∧ (t.ieq.get p).opened = none ∧
        (t.ieq.get p).q = [o.close rx.map rx.dt false false false true] ∧ Counted s t pg R.IEQ_CNT0 48 16 1 ∧
        t = { s with regs := t.regs, ieq := t.ieq } ∧ (∀ q, q ≠ p → t.ieq.get q = s.ieq.get q) ∧
        PageKept s t pg [R.IEQ_CNT0, R.IEQ_CNT1, R.PG_IRQ_RAW]) ∧
    (∀ (k : Fin 3) (uc : Option (Fin 255 × Bool)) (d : RawDma), (s.ieq.get p).dma = some d → d.moved < d.len →
      ((s.ieq.get p).q = [] → exec (.ieqEntryRead p k uc) s = .next s) ∧
      (∀ e r, (s.ieq.get p).q = e :: r → ∃ t, exec (.ieqEntryRead p k uc) s = .next t ∧ (t.ieq.get p).q = r ∧
        (∃ d', (t.ieq.get p).dma = some d' ∧ d'.moved = d.moved + 1 ∧ d'.item = d.item ∧ d'.len = d.len ∧ d'.addr = d.addr) ∧
        (t.sp.get p).qd.current = !e.eop ∧ (∀ q, q ≠ p → t.ieq.get q = s.ieq.get q ∧ t.sp.get q = s.sp.get q))) ∧
    (∀ (k : Fin 3) (uc : Option (Fin 255 × Bool)), s.rawWants p = false →
      (∀ e r, (s.ieq.get p).q = e :: r → e.parity = 0) →
      ((s.queueMayRead p && s.queueHeadReady p) = false → exec (.ieqEntryRead p k uc) s = .next s) ∧
      ((s.queueMayRead p && s.queueHeadReady p) = true → ∃ t, exec (.ieqEntryRead p k uc) s = .next t ∧
        (t.ieq.get p).q = (s.ieq.get p).q.tail ∧ (∀ q, q ≠ p → t.ieq.get q = s.ieq.get q ∧ t.sp.get q = s.sp.get q))) ∧
    (∀ e r, (s.ieq.get p).q = e :: r → s.rawWants p = false → s.queueMayRead p = true → e.mark = true → e.parity = 0 →
      (s.sp.get p).qd.resync = false → leNat (e.bytes.take 1) ≠ 0x80 → s.bit (PG.sp p) R.SP_CTL 6 = true →
      ∃ t, exec (.ieqEntryRead p 0 none) s = .next t ∧ (t.ieq.get p).q = r ∧
        (t.sp.get p).toSieve = [markerWord p s.iet (leNat ((e.bytes.drop 2).take 2)) (decide (leNat (e.bytes.take 1) = 1))] ∧
        t = { s with ieq := t.ieq, sp := t.sp }) ∧
    (∀ ini : Initiator, Writable s pg →
      ((s.sp.get p).qd.current = false →
        exec (.dropPkt ini p) s = .next (s.setBit pg R.IEQ_STS 19 true)) ∧
      ((s.sp.get p).qd.current = true → s.ieqRaw p = false → ∃ t, exec (.dropPkt ini p) s = .next t ∧
        Counted s t pg R.IEQ_CNT1 16 16 1 ∧
        (t.sp.get p).toSieve = (s.sp.get p).toSieve ++ [lossWord p s.iet (s.dropRest p).1 2] ∧
        (t.sp.get p).qd = {} ∧ t.bit (PG.sp p) R.PG_IRQ_RAW 5 = true ∧
        t = { s with regs := t.regs, ieq := t.ieq, sp := t.sp }) ∧
      (s.ieqRaw p = false ∨ (s.ieq.get p).dma.isSome = true →
        exec (.ieqPop ini p 0) s = .next (s.logWr pg (.full ini R.IEQ_CMD 2) .state)) ∧
      (s.ieqRaw p = true → (s.ieq.get p).dma = none → (s.ieq.get p).q = [] →
        exec (.ieqPop ini p 0) s = .next ((s.setBit pg R.IEQ_STS 16 true).irq pg 2)) ∧
      (∀ e r, s.ieqRaw p = true → (s.ieq.get p).dma = none → (s.ieq.get p).q = e :: r →
        ∃ t, exec (.ieqPop ini p 0) s = .next t ∧ (t.ieq.get p).q = r ∧ t.reg pg R.IEQ_RAW_TAG = wOfNat e.tag ∧
          (∀ i, i < 4 → t.reg pg (R.IEQ_RAW_D i) = wOfNat (leNat ((e.bytes.drop (8 * i)).take 8))) ∧
          t = { s with regs := t.regs, ieq := t.ieq, sp := t.sp }))

/-- SIEVE_EVENT of a port whose Sieve works, the surface store's initialization done, with the oldest word `w` waiting and no upset found. A pixel event on a masked pixel with the
hot-pixel filter on is removed and counted. With every filter off and a class other than 3, outside the WATCH bypass and with room in the hold queue, it joins the hold
queue with the class of its tile, stamped with the DTC of its entry, and is counted as passed. A marker or an auxiliary event joins the hold queue as it is. In each case
the word leaves the Sieve's input. With no word waiting nothing changes. -/
def Obligations.SieveTakesOneWord : Prop :=
  ∀ (p : Fin 8) (s : State), s.alive (PG.sv p) = true → s.stopped (PG.sv p) = false → s.alive PG.sfs = true → s.surfInit p = false →
    let pg := PG.sv p
    ((s.sp.get p).toSieve = [] → exec (.sieveEvent p none) s = .next s) ∧
    (∀ w r, (s.sp.get p).toSieve = w :: r →
      (evKind w = 0 → s.bit pg R.SV_CTL 0 = true → NSet.has s.adm.hot (hotKey p (evX w) (evY w)) = true →
        ∃ t, exec (.sieveEvent p none) s = .next t ∧ (t.sp.get p).toSieve = r ∧ Counted s t pg R.SV_CNT0 0 32 1 ∧
          t.adm = s.adm ∧ t = { s with regs := t.regs, sp := t.sp } ∧ PageKept s t pg [R.SV_CNT0]) ∧
      (evKind w = 0 → s.fld pg R.SV_CTL 0 4 = 0 → s.classOf p (s.tileIx p (evX w) (evY w)) ≠ 3 → s.admBypass p = false →
        (s.adm.hold.get p).length < holdSize →
        ∃ t e, exec (.sieveEvent p none) s = .next t ∧ (t.sp.get p).toSieve = r ∧
          t.adm.hold.get p = s.adm.hold.get p ++ [e] ∧
          e.word = putFld w 60 2 (s.classOf p (s.tileIx p (evX w) (evY w))) ∧ e.entered = s.dtc ∧
          Counted s t pg R.SV_CNT2 0 32 1) ∧
      ((evKind w = 1 ∨ evKind w = 2) → s.admBypass p = false → (s.adm.hold.get p).length < holdSize →
        ∃ t e, exec (.sieveEvent p none) s = .next t ∧ (t.sp.get p).toSieve = r ∧
          t.adm.hold.get p = s.adm.hold.get p ++ [e] ∧ e.word = w ∧ e.entered = s.dtc ∧
          t = { s with regs := t.regs, sp := t.sp, adm := t.adm, spk := t.spk }))

/-- IEQ_RAW_DMA_GO on a queue page that takes writes: while a raw read runs it is logged with cause BUSY; with no ledger item left for it, it is refused as LEDGER_FULL; with LEN 0 it ends at once OK_EMPTY; outside raw mode or with an
address that is not a multiple of 64 it ends at once FAIL_INVALID; otherwise it opens an item and the raw read of LEN entries to that address runs with none moved. RAW_DMA_DONE once
LEN entries have moved ends it OK with the count; RAW_DMA_IDLE_TIMEOUT once LEVEL has been 0 for 100 µs ends it with the count moved, OK_EMPTY when that is 0. With no raw read running
the timeout changes nothing, and RAW_DMA_DONE is a reply that the page does not wait for (R471): nothing changes, but one that a reset has made stale counts in PG_ERR_LOG1.
HOT_MASK_LOAD on a Sieve page that takes writes: while a load runs it is logged with cause BUSY; with no ledger item left it is refused as LEDGER_FULL; with an unaligned address, an image that does not lie in
HBM, the port disabled, or no geometry it ends at once FAIL_INVALID; otherwise it opens an item and the load runs, with the address
as it then stands. HOT_MASK_LOAD_DONE ends the running load: FAIL_INVALID with the port disabled, else OK, or FAIL_POISON; without one it is a reply that the page
does not wait for: nothing changes, but one that a reset has made stale counts in PG_ERR_LOG1 (R471). -/
def Obligations.RawQueueReadAndHotMaskLoad : Prop :=
  (∀ (p : Fin 8) (s : State),
     let pg := PG.ieq p
     (∀ (ini : Initiator) (v : Word), Writable s pg →
       let w := Wr.full ini R.IEQ_RAW_DMA_GO v
       let addr := (s.reg pg R.IEQ_RAW_DMA_ADDR).toNat
       ((s.ieq.get p).dma.isSome = true → exec (.ieqRawDmaGo ini p v) s = .next (s.logWr pg w .busy)) ∧
       ((s.ieq.get p).dma = none → s.itemFree .ordinary = false → exec (.ieqRawDmaGo ini p v) s = .next (s.ledgerFull pg w)) ∧
       ((s.ieq.get p).dma = none → s.itemFree .ordinary = true →
         (bf v 0 16 = 0 → ∃ t, exec (.ieqRawDmaGo ini p v) s = .next t ∧ StartedAndEnded s t pg (bf v 16 6) .okEmpty ∧
           t = { s with ldg := t.ldg, res := t.res, free := t.free }) ∧
         (bf v 0 16 ≠ 0 → (s.ieqRaw p = false ∨ addr % 64 ≠ 0) → ∃ t, exec (.ieqRawDmaGo ini p v) s = .next t ∧
           StartedAndEnded s t pg (bf v 16 6) .failInvalid ∧ t = { s with ldg := t.ldg, res := t.res, free := t.free }) ∧
         (bf v 0 16 ≠ 0 → s.ieqRaw p = true → addr % 64 = 0 →
           ∃ t d, exec (.ieqRawDmaGo ini p v) s = .next t ∧ (t.ieq.get p).dma = some d ∧ d.addr = addr ∧ d.len = bf v 0 16 ∧
             d.moved = 0 ∧ Opened s t pg (bf v 16 6) d.item ∧ t = { s with ldg := t.ldg, ieq := t.ieq, free := t.free }))) ∧
     ((s.ieq.get p).dma = none → exec (.rawDmaDone p) s = .next (s.staleReply pg) ∧
       (s.ldg.orphans.any (fun o => o.1 == pg) = false → exec (.rawDmaDone p) s = .next s) ∧ exec (.rawDmaIdleTimeout p) s = .next s) ∧
     (∀ d, (s.ieq.get p).dma = some d → Running s d.item →
       (d.moved = d.len → ∃ t, exec (.rawDmaDone p) s = .next t ∧ (t.ieq.get p).dma = none ∧
         Completed s t d.item (if d.moved = 0 then .okEmpty else .ok) d.moved ∧
         t = { s with ldg := t.ldg, ieq := t.ieq, res := t.res }) ∧
       (d.moved < d.len → (s.ieq.get p).q = [] → 100000 ≤ (s.dtc - d.zeroAt).toNat → ∃ t, exec (.rawDmaIdleTimeout p) s = .next t ∧
         (t.ieq.get p).dma = none ∧ Completed s t d.item (if d.moved = 0 then .okEmpty else .ok) d.moved ∧
         t = { s with ldg := t.ldg, ieq := t.ieq, res := t.res }))) ∧
  (∀ (p : Fin 8) (s : State),
     let pg := PG.sv p
     let a := (s.reg pg R.SV_TBL_ADDR).toNat
     let bad := a % 64 ≠ 0 ∨ s.inHbm a (s.maskBytes p) = false ∨ s.spEn p = false ∨ s.geomW p = 0 ∨ s.geomH p = 0
     (∀ (ini : Initiator) (v : Word), Writable s pg →
       let w := Wr.full ini R.SV_TBL_GO v
       ((s.adm.load.get p).isSome = true → exec (.hotMaskLoad ini p v) s = .next (s.logWr pg w .busy)) ∧
       (s.adm.load.get p = none → s.itemFree .ordinary = false → exec (.hotMaskLoad ini p v) s = .next (s.ledgerFull pg w)) ∧
       (s.adm.load.get p = none → s.itemFree .ordinary = true → bad →
         ∃ t, exec (.hotMaskLoad ini p v) s = .next t ∧ StartedAndEnded s t pg (bf v 0 6) .failInvalid ∧
           t = { s with ldg := t.ldg, res := t.res, free := t.free }) ∧
       (s.adm.load.get p = none → s.itemFree .ordinary = true → ¬ bad →
         ∃ t i, exec (.hotMaskLoad ini p v) s = .next t ∧ t.adm.load.get p = some (i, a) ∧ Opened s t pg (bf v 0 6) i ∧
           t = { s with ldg := t.ldg, adm := t.adm, free := t.free })) ∧
     (s.adm.load.get p = none → exec (.hotMaskLoadDone p) s = .next (s.staleReply pg) ∧
       (s.ldg.orphans.any (fun o => o.1 == pg) = false → exec (.hotMaskLoadDone p) s = .next s)) ∧
     (∀ i a', s.adm.load.get p = some (i, a') → Running s i →
       (s.spEn p = false → ∃ t, exec (.hotMaskLoadDone p) s = .next t ∧ t.adm.load.get p = none ∧
         Completed s t i .failInvalid 0 ∧ t = { s with ldg := t.ldg, adm := t.adm, res := t.res }) ∧
       (s.spEn p = true → ∃ t st, exec (.hotMaskLoadDone p) s = .next t ∧ t.adm.load.get p = none ∧
         (st = .ok ∨ st = .failPoison) ∧ Completed s t i st 0)))

/-- ADM_WINDOW_RELOAD inside the window last loaded changes nothing; at a new one it becomes the present window and every enabled port's budgets are full again. ADM_PORT_ENABLE, EN 0 to 1 on the admission page taking
writes: with a failing check EN reads 0 and each failing check's bit sets in the port's status. ADM_HEAD_DECISION with no window due: of an empty queue it changes nothing; a class-0 head within its reservation leaves the queue, its cost is
taken from the reservation, and it is counted as admitted; a class-2 head without budget for its cost and the guard is shed with cause BUDGET and counted; the head of a disabled port is shed with cause DISABLED. -/
def Obligations.AdmissionBudgetsAndDecisions : Prop :=
  (∀ s : State, (s.admNow ≤ s.adm.win → exec .admWindowReload s = .next s) ∧
    (s.adm.win < s.admNow → ∃ t, exec .admWindowReload s = .next t ∧ t.adm.win = s.admNow ∧
      (∀ p, s.admEn p = true → t.adm.rem0.get p = s.admBud p 32 ∧
        t.adm.rem.get p = (s.admScaled p).map2 (· - ·) (s.admBud p 32)) ∧
      (∀ p, t.adm.hold.get p = s.adm.hold.get p))) ∧
  (∀ (ini : Initiator) (p : Fin 8) (v : Word) (s : State), Writable s PG.adm → s.admEn p = false → bitAt v 0 = true →
    s.admChecks p ≠ [] → ∃ t, exec (.admPortEnable ini p v) s = .next t ∧ t.admEn p = false ∧
      (∀ b, b ∈ s.admChecks p → t.bit PG.adm (R.ADM_P_STS p) b = true) ∧ OnlyRegs s t ∧
      PageKept s t PG.adm [R.ADM_P_CTL p, R.ADM_P_STS p]) ∧
  (∀ (ini : Initiator) (p : Fin 8) (v : Word) (s : State), Writable s PG.adm → s.admEn p = false → bitAt v 0 = true →
    s.admChecks p = [] → s.admNow ≤ s.adm.win → ∃ t, exec (.admPortEnable ini p v) s = .next t ∧ t.admEn p = true ∧
      t.adm.rem0.get p = s.admBud p 32 ∧ t.adm.rem.get p = (s.admScaled p).map2 (· - ·) (s.admBud p 32) ∧
      t = { s with regs := t.regs, adm := t.adm, loc := t.loc } ∧ PageKept s t PG.adm [R.ADM_P_CTL p]) ∧
  (∀ (p : Fin 8) (s : State), s.admRuns = true → s.alive (PG.sv p) = true → s.admNow ≤ s.adm.win →
    (s.adm.hold.get p = [] → exec (.admHeadDecision p) s = .next s) ∧
    (∀ e r, s.adm.hold.get p = e :: r → evKind e.word = 0 →
      let k := s.admCost p (evClass e.word)
      (s.admEn p = true → evClass e.word = 0 → k.le (s.adm.rem0.get p) = true →
        ∃ t, exec (.admHeadDecision p) s = .next t ∧ t.adm.hold.get p = r ∧
          t.adm.rem0.get p = (s.adm.rem0.get p).map2 (· - ·) k ∧ t.adm.rem.get p = s.adm.rem.get p ∧
          Counted s t (PG.sv p) R.SV_ADM0 0 32 1) ∧
      (s.admEn p = true → evClass e.word = 2 → (k.map2 (· + ·) (s.admGuard p)).le (s.adm.rem.get p) = false →
        ∃ t, exec (.admHeadDecision p) s = .next t ∧ t.adm.hold.get p = r ∧ t.adm.rem.get p = s.adm.rem.get p ∧
          Counted s t (PG.sv p) R.SV_SHED 32 32 1 ∧ Counted s t (PG.sv p) R.SV_SHED_CAUSE0 0 32 1) ∧
      (s.admEn p = false → ∃ t, exec (.admHeadDecision p) s = .next t ∧ t.adm.hold.get p = r ∧
          Counted s t (PG.sv p) R.SV_SHED_CAUSE1 32 16 1)))

/-- SP_ENABLE on the page of a disabled sensor port that takes writes, by the value `c` that SP_CTL would hold with EN 1: with a failing check the port stays disabled and every failing check's bit sets; with none, and a
surface region that fits, the port is enabled, no packet and no entry is open, the queue decoder holds no state of a packet but that one is current, and its hot mask is clear. SP_DISABLE of an
enabled port stores SP_CTL with EN 0, no packet is open, and its hold queue and its Sieve are empty. Of an enabled port a
write that would change another field is logged with cause STATE. -/
def Obligations.SensorPortEnable : Prop :=
  ∀ (ini : Initiator) (p : Fin 8) (v : Word) (s : State), Writable s (PG.sp p) →
    let pg := PG.sp p
    let w := Wr.full ini R.SP_CTL v
    let c := s.wouldBe pg w
    let s0 := s.setReg pg R.SP_CTL (putBit c 0 false)
    (s.spEn p = false → bitAt c 0 = true → (s0.spChecks p).1 ≠ [] → ∃ t, exec (.spEnable ini p v) s = .next t ∧ t.spEn p = false ∧
      (∀ b, b ∈ (s0.spChecks p).1 → t.bit pg R.SP_STS b = true) ∧ OnlyRegs s t ∧ PageKept s t pg [R.SP_CTL, R.SP_STS]) ∧
    (s.spEn p = false → bitAt c 0 = true → (s0.spChecks p).1 = [] → (s0.surfAlloc p).1 = true →
      ∃ t, exec (.spEnable ini p v) s = .next t ∧ t.spEn p = true ∧ (t.sp.get p).rx = none ∧
        (t.sp.get p).qd = { current := (s.sp.get p).qd.current } ∧ (t.ieq.get p).opened = none ∧
        (∀ k, k ∈ t.adm.hot → k / 2 ^ 24 ≠ p.val)) ∧
    (s.spEn p = true → bitAt c 0 = false → ∃ t, exec (.spDisable ini p v) s = .next t ∧ t.reg pg R.SP_CTL = c ∧ t.spEn p = false ∧
      (t.sp.get p).rx = none ∧ (t.sp.get p).toSieve = [] ∧ t.adm.hold.get p = []) ∧
    (s.spEn p = true → bitAt c 0 = true → c ≠ s.reg pg R.SP_CTL → exec (.spEnable ini p v) s = .next (s.logWr pg w .state))

/-- RULE_ENABLE and RULE_DISABLE, writes of RULE_CTL on the reflex page taking writes, by the value `c` it would hold. EN 0 to 1
with no failing check stores `c`, in all three lanes' copies of the word, and nothing else. With failing checks EN reads 0, the bit of every failing check sets in
RULE_STS, and RAW bit 6 sets. Any write with EN 1 to a rule already enabled is logged with cause STATE. EN 1 to 0 stores `c` and
drops the rule's counted inputs and its open packet; other rules keep theirs. -/
def Obligations.ReflexRuleEnableAndDisable : Prop :=
  ∀ (ini : Initiator) (r : Fin 256) (v : Word) (s : State), Writable s PG.rfx →
    let g := R.RULE_CTL r
    let w := Wr.full ini g v
    let old := s.reg PG.rfx g
    let c := s.wouldBe PG.rfx w
    let copies := { s.rfx with eccBad := s.rfx.eccBad.filter fun b => b.2 != 16 * r.val }
    (bitAt old 0 = false → bitAt c 0 = true → s.ruleChecks r c = [] →
      exec (.ruleEnable ini r v) s = .next { s.setReg PG.rfx g c with rfx := copies }) ∧
    (bitAt old 0 = false → bitAt c 0 = true → s.ruleChecks r c ≠ [] → ∃ t, exec (.ruleEnable ini r v) s = .next t ∧
      t.bit PG.rfx g 0 = false ∧ (∀ b, b ∈ s.ruleChecks r c → t.bit PG.rfx (R.RULE_STS r) b = true) ∧
      t.bit PG.rfx R.PG_IRQ_RAW 6 = true ∧ t = { s with regs := t.regs, rfx := copies } ∧ PageKept s t PG.rfx [g, R.RULE_STS r, R.PG_IRQ_RAW]) ∧
    (bitAt old 0 = true → bitAt c 0 = true → exec (.ruleEnable ini r v) s = .next (s.logWr PG.rfx w .state)) ∧
    (bitAt old 0 = true → bitAt c 0 = false → ∃ t, exec (.ruleDisable ini r v) s = .next t ∧ t.reg PG.rfx g = c ∧
      (t.ruleRt r).ring = [] ∧ (t.ruleRt r).shadow = none ∧ t.bit PG.rfx (R.RULE_STS r) 2 = false ∧
      (∀ q, q ≠ r.val → t.ruleRt q = s.ruleRt q) ∧ t = { s with regs := t.regs, rfx := t.rfx } ∧
      PageKept s t PG.rfx [g, R.RULE_STS r])

/-- RULE_INPUT with no lane that differs, where the reflex page runs and rule `r` alone is enabled, with HOLDOFF 0, an immediate action and HOLDING clear.
A front word of its port that does not qualify only leaves the port's front queue. A qualifying one below the threshold
joins the ring of counted inputs. At the threshold, with the oldest of the ring inside the window, an unchecked rule fires: FIRES
counts one, the ring is empty, and a pulse of WIDTH times 10 ns starts on its driven, idle output. For a checked rule the ring,
the pulses and the calendar stay as they are and RULE_STS.PENDING sets. A trip of the rule's channel fires it alike while trips are open; while the feeding Sieve or the rate chain stands still
a trip only leaves the queue. -/
def Obligations.RuleInputCountsAndFires : Prop :=
  ∀ (r : Fin 256) (s : State), s.running PG.rfx = true →
    (∀ q : Nat, q < 256 → q ≠ r.val → s.bit PG.rfx (R.RULE_CTL q) 0 = false) →
    let c := s.reg PG.rfx (R.RULE_CTL r)
    let a := s.reg PG.rfx (R.RULE_ACT r)
    let ring := (s.ruleRt r).ring
    let o := outOf (bf a 1 5)
    let fires := bf c 16 7 ≤ ring.length + 1 ∧ ∀ e, ring.head? = some e → (s.dtc - e).toNat < bf c 24 16
    let fired := fun t : State => Counted s t PG.rfx (R.RULE_CNT r) 0 32 1 ∧ (t.ruleRt r).ring = [] ∧
      t.rfx.pulse.get o = some (s.dtc + wOfNat (bf a 16 24 * 10)) ∧ Counted s t PG.rfx R.RFX_CNT0 0 32 1 ∧
      (∀ k, k ≠ o → t.rfx.pulse.get k = s.rfx.pulse.get k) ∧ t.rfx.cal = s.rfx.cal
    bitAt c 0 = true → s.bit PG.rfx (R.RULE_STS r) 1 = false → bf c 48 16 = 0 → bitAt a 0 = false →
    (∀ (p : Fin 8) (n seq : Nat) (w : Word), (s.sp.get p).front = [.ev w seq] → 0 < n → bf c 4 3 = p.val → bf c 2 2 < 2 →
      (s.qualifies r w = false → ∃ t, exec (.ruleInput ⟨.front [(p, n)], none⟩) s = .next t ∧ (t.sp.get p).front = [] ∧
        t = { s with sp := t.sp } ∧ ∀ q, q ≠ p → t.sp.get q = s.sp.get q) ∧
      (s.qualifies r w = true → bitAt c 1 = false → ring.length + 1 < bf c 16 7 →
        ∃ t, exec (.ruleInput ⟨.front [(p, n)], none⟩) s = .next t ∧ (t.sp.get p).front = [] ∧ (t.ruleRt r).ring = ring ++ [s.dtc] ∧
          t.rfx.pulse = s.rfx.pulse ∧ t.rfx.cal = s.rfx.cal ∧ PageKept s t PG.rfx [R.RULE_STS r]) ∧
      (s.qualifies r w = true → bitAt c 1 = false → fires → s.outDark o = false → s.inPulse o = false →
        ∃ t, exec (.ruleInput ⟨.front [(p, n)], none⟩) s = .next t ∧ (t.sp.get p).front = [] ∧ fired t) ∧
      (s.qualifies r w = true → bitAt c 1 = true →
        ∃ t, exec (.ruleInput ⟨.front [(p, n)], none⟩) s = .next t ∧ (t.ruleRt r).ring = ring ∧ t.rfx.pulse = s.rfx.pulse ∧
          t.rfx.cal = s.rfx.cal ∧ t.bit PG.rfx (R.RULE_STS r) 2 = true ∧ PageKept s t PG.rfx [R.RULE_STS r])) ∧
    (∀ (m : Fin 16) (fault : Option (Fin 3 × LaneFault)), m ∈ s.rfx.trips → s.tripOpen m = false →
      exec (.ruleInput ⟨.trip m, fault⟩) s = .next { s with rfx := { s.rfx with trips := s.rfx.trips.erase m } }) ∧
    (∀ m : Fin 16, m ∈ s.rfx.trips → s.tripOpen m = true → bf c 2 2 = 2 → bf a 40 8 = m.val → s.gateOpen r = true → fires →
      s.outDark o = false → s.inPulse o = false → ∃ t, exec (.ruleInput ⟨.trip m, none⟩) s = .next t ∧ fired t ∧
        t.rfx.trips = s.rfx.trips.erase m)

/-- With the reflex page powered. PULSE_END while the timer runs changes nothing; after it the output is idle and nothing else
changes. RFX_CRC_RESULT with no result at the front of the port's queue changes nothing. A good result leaves the queue, its packet's
calendar entries stay and are no longer retractable, and with no checked rule waiting nothing else of the path changes. A
failed result, with the entries of the calendar in distinct slots and none of them due, removes exactly the unchecked entries of its packet, and every
unchecked rule of the port that has counted inputs of the packet is SUSPECT and starts over: empty ring, HOLDING clear; while the page is stopped, ring and
HOLDING keep their values. -/
def Obligations.PulseEndAndPacketResult : Prop :=
  ∀ s : State, s.isOff PG.rfx = false →
    (∀ o, s.inPulse o = true → exec (.pulseEnd o) s = .next s) ∧
    (∀ o e, s.rfx.pulse.get o = some e → s.inPulse o = false → ∃ t, exec (.pulseEnd o) s = .next t ∧
      t.rfx.pulse.get o = none ∧ (∀ k, k ≠ o → t.rfx.pulse.get k = s.rfx.pulse.get k) ∧
      t = { s with rfx := { s.rfx with pulse := t.rfx.pulse } }) ∧
    (∀ p, (s.sp.get p).front = [] → exec (.rfxCrcResult p) s = .next s) ∧
    (∀ p seq trunc rest, (s.sp.get p).front = .crc seq true trunc :: rest → (∀ k, k < 256 → (s.ruleRt k).shadow = none) →
      ∃ t, exec (.rfxCrcResult p) s = .next t ∧ (t.sp.get p).front = rest ∧
        t.rfx.cal = s.rfx.cal.map (fun e => if e.unchk && isPkt e.pkt p seq then { e with unchk := false } else e) ∧
        t.rfx.recs = s.rfx.recs ∧ t.rfx.pulse = s.rfx.pulse ∧ t = { s with rfx := t.rfx, sp := t.sp }) ∧
    (∀ p seq trunc rest, (s.sp.get p).front = .crc seq false trunc :: rest →
      s.rfx.cal.Pairwise (fun a b => a.slot ≠ b.slot) → (∀ e, e ∈ s.rfx.cal → s.dueItem (.calendar e.slot) = none) →
      ∃ t, exec (.rfxCrcResult p) s = .next t ∧ (t.sp.get p).front = rest ∧
        t.rfx.cal = s.rfx.cal.filter (fun e => !(e.unchk && isPkt e.pkt p seq)) ∧
        (∀ k, k < 256 → (s.ruleRt k).counted = true → s.bit PG.rfx (R.RULE_CTL k) 1 = false →
          s.fld PG.rfx (R.RULE_CTL k) 4 3 = p.val →
          (s.running PG.rfx = true → (t.ruleRt k).ring = [] ∧ t.bit PG.rfx (R.RULE_STS k) 1 = false) ∧
          (s.running PG.rfx = false → (t.ruleRt k).ring = (s.ruleRt k).ring ∧
            t.bit PG.rfx (R.RULE_STS k) 1 = s.bit PG.rfx (R.RULE_STS k) 1) ∧
          t.bit PG.rfx (R.RULE_STS k) 0 = true))

/-- On the calendar page taking writes, with no entry due (due ones fire first, R193). TCAL_SW_GO: with the calendar not taking inserts nothing changes; a width of 0 is refused with
TCAL_STS bit 17; a target not yet reached joins the calendar in the lowest free slot and is scheduled on its base; with 4,096 entries
pending it is refused and counted; a target already reached on a running base fires at once, on a driven idle output, and counts as late.
TCAL_FLUSH, the entries in distinct slots, removes exactly the entries of its scope (a rule, an output, a base, or all), which are then not
scheduled any more, and queues one FLUSH record that carries their number. -/
def Obligations.CalendarInsertAndFlush : Prop :=
  ∀ (ini : Initiator) (s : State), Writable s PG.tcal → (∀ e, e ∈ s.rfx.cal → s.dueItem (.calendar e.slot) = none) →
    let c := s.reg PG.tcal R.TCAL_SW_CTL
    let b := baseOf (bf c 5 3)
    let x := s.reg PG.tcal R.TCAL_SW_POS
    let o := outOf (bf c 0 5)
    let reached := s.ptbRunning b = true ∧ atOrAfter (s.pos b) x = true
    (s.calTakes = false → exec (.tcalSwGo ini) s = .next s) ∧
    (s.calTakes = true → bf c 16 24 = 0 → exec (.tcalSwGo ini) s = .next (s.setBit PG.tcal R.TCAL_STS 17 true)) ∧
    (s.calTakes = true → bf c 16 24 ≠ 0 →
      (¬ reached → s.rfx.cal.length < 4096 → ∃ t e, exec (.tcalSwGo ini) s = .next t ∧
        t.rfx.cal = s.rfx.cal ++ [e] ∧ e.slot < 4096 ∧ (∀ f, f ∈ s.rfx.cal → f.slot ≠ e.slot) ∧
        (∀ j, j < e.slot → ∃ f, f ∈ s.rfx.cal ∧ f.slot = j) ∧ e.sw = true ∧ e.out = bf c 0 5 ∧ e.width = bf c 16 24 ∧
        e.rule = bf c 48 16 ∧ e.skip = bitAt c 8 ∧ e.unchk = false ∧
        t.schedGet (.calendar e.slot) =
          some { id := .calendar e.slot, base := b, target := x, behind := before (s.pos b) x, byStep := false } ∧
        t = { s with rfx := t.rfx, sched := t.sched }) ∧
      (¬ reached → 4096 ≤ s.rfx.cal.length → ∃ t, exec (.tcalSwGo ini) s = .next t ∧ t.rfx.cal = s.rfx.cal ∧
        t.sched = s.sched ∧ t.bit PG.tcal R.TCAL_STS 16 = true ∧ t.bit PG.tcal R.PG_IRQ_RAW 0 = true ∧
        Counted s t PG.tcal R.TCAL_CNT0 32 32 1) ∧
      (reached → s.outDark (bf c 0 5) = false → s.inPulse o = false → ∃ t, exec (.tcalSwGo ini) s = .next t ∧
        t.rfx.cal = s.rfx.cal ∧ t.sched = s.sched ∧ t.rfx.pulse.get o = some (s.dtc + wOfNat (bf c 16 24 * 10)) ∧
        Counted s t PG.tcal R.TCAL_CNT1 48 16 1 ∧ Counted s t PG.tcal R.TCAL_CNT0 0 32 1)) ∧
    (∀ v : Word, s.rfx.cal.Pairwise (fun a b => a.slot ≠ b.slot) →
      let hit := fun e : CalEntry => match bf v 0 2 with
        | 0 => !e.sw && e.rule == bf v 8 8
        | 1 => e.out == bf v 16 5
        | 2 => (s.calAt e).1.val == bf v 24 3
        | _ => true
      ∃ t, exec (.tcalFlush ini v) s = .next t ∧ t.rfx.cal = s.rfx.cal.filter (fun e => !hit e) ∧
        (∀ e, e ∈ s.rfx.cal → hit e = true → t.schedGet (.calendar e.slot) = none) ∧
        (s.rfx.recs.length < 256 → ∃ rec, t.rfx.recs = s.rfx.recs ++ [rec] ∧ rec.kind = 6 ∧ rec.cause = 7 ∧
          rec.count = (s.rfx.cal.filter hit).length ∧ rec.dtc = s.dtc))

/-- CORE_HEARTBEAT with the results page powered records the instant and that pulses are back; where the dead-man has demoted the device it also sets
WTH_STS bit 9 and drops unsent stream data. DEADMAN_FIRE in the active state less than 1.5 µs after the last pulse changes nothing; from then on
it sets RFX_STS.DEADMAN and RAW bit 1, every output is dark, and an active device of a pair becomes standby. REARM, a write of RFX_CMD on the
reflex page taking writes, clears DEADMAN once pulses are back, is logged with cause STATE before, and does nothing without DEADMAN. -/
def Obligations.HeartbeatDeadmanAndRearm : Prop :=
  (∀ s : State, s.isOff PG.res = false → s.twin.demote = false →
    exec .coreHeartbeat s = .next { s with rfx := { s.rfx with hbAt := s.dtc, hbBack := true } }) ∧
  (∀ s : State, s.isOff PG.res = false → s.twin.demote = true → ∃ t, exec .coreHeartbeat s = .next t ∧
    t.rfx = { s.rfx with hbAt := s.dtc, hbBack := true } ∧ t.twin.demote = false ∧ t.bit PG.wth R.WTH_STS 9 = true ∧
    t.bit PG.wth R.PG_IRQ_RAW 1 = true ∧ ∀ q, (t.net.get q).sendq = []) ∧
  (∀ s : State, s.pwr.phase = .active → (s.dtc - s.rfx.hbAt).toNat < 1500 → exec .deadmanFire s = .next s) ∧
  (∀ s : State, s.pwr.phase = .active → 1500 ≤ (s.dtc - s.rfx.hbAt).toNat → (s.deadman = false ∨ s.rfx.hbBack = true) →
    ∃ t, exec .deadmanFire s = .next t ∧ t.deadman = true ∧ t.bit PG.rfx R.PG_IRQ_RAW 1 = true ∧ t.rfx.hbBack = false ∧
      (∀ o, t.outDark o = true) ∧ (s.role = 3 → t.role = 1 ∧ t.twin.demote = true) ∧
      (s.role ≠ 3 → t.role = s.role ∧ t.twin = s.twin) ∧ t = { s with regs := t.regs, rfx := t.rfx, twin := t.twin } ∧
      RegsKept s t [(PG.rfx, R.RFX_STS), (PG.rfx, R.PG_IRQ_RAW), (PG.wth, R.WTH_STS), (PG.loc, R.LOC_ID)]) ∧
  (∀ (ini : Initiator) (s : State), Writable s PG.rfx →
    (s.deadman = false → exec (.rearm ini) s = .next s) ∧
    (s.deadman = true → s.rfx.hbBack = true → ∃ t, exec (.rearm ini) s = .next t ∧ t.deadman = false ∧ OnlyRegs s t ∧
      PageKept s t PG.rfx [R.RFX_STS]) ∧
    (s.deadman = true → s.rfx.hbBack = false →
      exec (.rearm ini) s = .next (s.logWr PG.rfx (.full ini R.RFX_CMD 2) .state)))

/-- SELFTEST on the reflex page taking writes sets RUNNING, and while it runs is ignored; SELFTEST_DONE clears it and sets FAIL, with RAW bit 4, only at a failure.
Of the powered page: VOTER_SIGNATURE_CHECK with three lanes in and a minority lane masks it and starts its copy, or at the third time within 1 s
leaves it masked with bit 3 set; with one lane out it is only counted. LANE_RESYNC_DONE lets the lane rejoin. ECC_WALK, no uncorrectable word standing, counts a
corrected error, or rewrites and counts an uncorrectable word where both other lanes run, and leaves it standing where one does not. OUTPUT_FAULT of a driven output sets its RFX_OUT_FAULT bit and RAW bit 2, and its ball reads the other level than it drives; of a dark one it changes nothing. REFLEX_RECORD_DRAIN takes
the oldest record, and writes 48 bytes to its ring where that is enabled and has room. PLL_LOCK_LOSS records the PLL. -/
def Obligations.ReflexIntegrityCommands : Prop :=
  (∀ (ini : Initiator) (s : State), Writable s PG.rfx →
    (s.bit PG.rfx R.RFX_STS 8 = false → exec (.selftest ini) s = .next (s.setBit PG.rfx R.RFX_STS 8 true)) ∧
    (s.bit PG.rfx R.RFX_STS 8 = true → exec (.selftest ini) s = .next s)) ∧
  (∀ s : State, s.isOff PG.rfx = false →
    (∀ fail, s.bit PG.rfx R.RFX_STS 8 = true → ∃ t, exec (.selftestDone fail) s = .next t ∧ t.bit PG.rfx R.RFX_STS 8 = false ∧
      t.bit PG.rfx R.RFX_STS 9 = (fail || s.bit PG.rfx R.RFX_STS 9) ∧
      t.bit PG.rfx R.PG_IRQ_RAW 4 = (fail || s.bit PG.rfx R.PG_IRQ_RAW 4) ∧ OnlyRegs s t ∧
      PageKept s t PG.rfx [R.RFX_STS, R.PG_IRQ_RAW]) ∧
    exec (.voterSignatureCheck none) s = .next s ∧
    (∀ l, s.lanesOut = 0 →
      let recent := (s.rfx.maskedAt.get l).filter fun t => decide ((s.dtc - t).toNat < 1000000000)
      ∃ t, exec (.voterSignatureCheck (some l)) s = .next t ∧ t.laneOut l = true ∧
        Counted s t PG.rfx R.RFX_TMR_CNT 0 16 1 ∧ t.rfx.maskedAt.get l = s.dtc :: recent ∧
        (recent.length < 2 → t.rfx.resync = some l) ∧
        (2 ≤ recent.length → t.bit PG.rfx R.RFX_STS 3 = true ∧ l ∈ t.rfx.stuck ∧ t.rfx.resync = s.rfx.resync) ∧
        t = { s with regs := t.regs, rfx := t.rfx }) ∧
    (∀ l, popCount 3 s.lanesOut = 1 →
      exec (.voterSignatureCheck (some l)) s = .next (s.bump PG.rfx R.RFX_TMR_CNT 0 16)) ∧
    (∀ l, s.rfx.resync = some l → ∃ t, exec .laneResyncDone s = .next t ∧ t.laneOut l = false ∧ t.rfx.resync = none ∧
      Counted s t PG.rfx R.RFX_TMR_CNT 16 16 1 ∧ t = { s with regs := t.regs, rfx := t.rfx }) ∧
    (s.rfx.eccBad = [] →
      (∀ u, exec (.eccWalk none u) s = .next s) ∧
      (∀ l k, exec (.eccWalk (some (l, k)) false) s = .next (s.bump PG.rfx R.RFX_TMR_CNT 32 16)) ∧
      (∀ l k, (∀ q, q ≠ l → s.laneOut q = false) → ∃ t, exec (.eccWalk (some (l, k)) true) s = .next t ∧ t.rfx.eccBad = [] ∧
        Counted s t PG.rfx R.RFX_TMR_CNT 48 16 1 ∧ t = { s with regs := t.regs, rfx := t.rfx }) ∧
      (∀ l k q, q ≠ l → s.laneOut q = true → ∃ t, exec (.eccWalk (some (l, k)) true) s = .next t ∧
        t.rfx.eccBad = [(l, k.val)] ∧ t = { s with rfx := { s.rfx with eccBad := t.rfx.eccBad } })) ∧
    (∀ o : Fin 32, s.outDark o = true → exec (.outputFault o) s = .next s) ∧
    (∀ o : Fin 32, s.outDark o = false → ∃ t, exec (.outputFault o) s = .next t ∧
      t.bit PG.rfx R.RFX_OUT_FAULT o = true ∧ t.bit PG.rfx R.PG_IRQ_RAW 2 = true ∧
      (∀ i, t.outLevel i o = !s.outDrive o) ∧ t = { s with regs := t.regs, rfx := t.rfx } ∧
      PageKept s t PG.rfx [R.RFX_OUT_FAULT, R.PG_IRQ_RAW])) ∧
  (∀ (s : State) (r : ReflexRec) (rest : List ReflexRec), s.alive PG.res = true → s.stopped PG.res = false →
    (s.deadman = false ∨ s.rfx.hbBack = true) → s.rfx.recs = r :: rest →
    let k := routeOf (s.reg PG.res R.RES_ROUTE_DEV) .reflex
    (s.bit PG.res (R.RING_CTL k) 0 = false → ∃ t, exec .reflexRecordDrain s = .next t ∧ t.rfx.recs = rest ∧
      Counted s t PG.res R.RES_CNT0 32 16 1 ∧ t = { s with regs := t.regs, rfx := t.rfx }) ∧
    (s.bit PG.res (R.RING_CTL k) 0 = true → s.ringUsed k + 48 ≤ 2 ^ s.fld PG.res (R.RING_SIZE k) 0 5 →
      ∃ t, exec .reflexRecordDrain s = .next t ∧ t.rfx.recs = rest ∧
        t.reg PG.res (R.RING_HEAD k) = s.reg PG.res (R.RING_HEAD k) + 48 ∧ t.res.rseq.get k = s.res.rseq.get k + 1)) ∧
  (∀ s : State, s.rfx.recs = [] → exec .reflexRecordDrain s = .next s) ∧
  (∀ (pll : Fin 4) (s : State), ∃ t, exec (.pllLockLoss pll) s = .next t ∧ pll ∈ t.unlocked ∧
    (∀ q, q ∈ s.unlocked → q ∈ t.unlocked) ∧ t = { s with unlocked := t.unlocked })

/-- SFS_FILL_DONE of a port whose fill runs: every word of the port's region reads 0, every other word is unchanged, and its INIT bit clears;
without a fill nothing changes. SFS_FREE_DONE takes the port's oldest region that is being freed: it leaves the list, and the port's VALID bit clears if the region is
still the port's and the port is disabled; without one nothing changes. EPOCH_SWEEP_START begins a sweep at word 0 where the surface time has crossed a multiple of 2^16
ticks. EPOCH_VISIT, in the middle of a sweep and with no upset, clears LIVE of a live word that is not fresh and counts it, leaves every other word as it is, and passes on; at the
last word the sweep ends and is counted. -/
def Obligations.SurfaceRegionsAndEpochPass : Prop :=
  ∀ (p : Fin 8) (s : State),
    let a := s.reg PG.sfs (R.SFS_P_ALLOC p)
    let base := bf a 0 23
    let size := bf a 32 24
    let pos := s.fld PG.sfs (R.SFS_P_PASS p) 0 23
    let w := s.surfWord (base + pos)
    let stale := surfLive w = true ∧ surfFresh w (s.surfNow p) = false
    (s.surfInit p = false → exec (.sfsFillDone p) s = .next s) ∧
    (s.surfInit p = true → ∃ t, exec (.sfsFillDone p) s = .next t ∧ t.surfInit p = false ∧
      (∀ o, base ≤ o → o < base + size → t.surfWord o = 0) ∧
      (∀ o, (o < base ∨ base + size ≤ o) → t.surfWord o = s.surfWord o) ∧
      t = { s with regs := t.regs, sfs := t.sfs } ∧ PageKept s t PG.sfs [R.SFS_STS]) ∧
    (s.sfs.freeing.find? (fun f => f.port == p) = none → exec (.sfsFreeDone p) s = .next s) ∧
    (∀ f, s.sfs.freeing.find? (fun f => f.port == p) = some f → ∃ t, exec (.sfsFreeDone p) s = .next t ∧
      t.sfs.freeing = s.sfs.freeing.erase f ∧ t.sfs.words = s.sfs.words ∧
      (base = f.base → s.spEn p = false → t.bit PG.sfs (R.SFS_P_ALLOC p) 63 = false) ∧
      ((∀ g, g ∈ t.sfs.freeing → g.port ≠ p) → t.bit PG.sfs R.SFS_STS (16 + p.val) = false) ∧
      t = { s with regs := t.regs, sfs := t.sfs } ∧ PageKept s t PG.sfs [R.SFS_STS, R.SFS_P_ALLOC p]) ∧
    (s.surfNow p / 65536 ≤ s.sfs.sweptAt.get p → exec (.epochSweepStart p) s = .next s) ∧
    (s.passRuns p = true → s.sfs.sweptAt.get p < s.surfNow p / 65536 → ∃ t, exec (.epochSweepStart p) s = .next t ∧
      t.sfs.sweep.get p = true ∧ t.sfs.sweptAt.get p = s.surfNow p / 65536 ∧ t.fld PG.sfs (R.SFS_P_PASS p) 0 23 = 0 ∧
      t.sfs.words = s.sfs.words ∧ PageKept s t PG.sfs [R.SFS_P_PASS p]) ∧
    (s.sfs.sweep.get p = false → exec (.epochVisit p none) s = .next s) ∧
    (s.passRuns p = true → s.sfs.sweep.get p = true → Sp.get 0 s.sfs.bad (base + pos) = 0 → ∃ t,
      exec (.epochVisit p none) s = .next t ∧
      (stale → t.surfWord (base + pos) = w &&& 0xFFFF_FFDF ∧ Counted s t PG.sfs (R.SFS_P_CNT p) 32 32 1) ∧
      (¬ stale → t.sfs.words = s.sfs.words) ∧ (∀ o, o ≠ base + pos → t.surfWord o = s.surfWord o) ∧
      (pos + 1 < size → t.fld PG.sfs (R.SFS_P_PASS p) 0 23 = (pos + 1) % 2 ^ 23 ∧ t.sfs.sweep.get p = true) ∧
      (size ≤ pos + 1 → t.sfs.sweep.get p = false ∧
        t.fld PG.sfs (R.SFS_P_PASS p) 32 32 = (s.fld PG.sfs (R.SFS_P_PASS p) 32 32 + 1) % 2 ^ 32) ∧
      t = { s with regs := t.regs, sfs := t.sfs } ∧ PageKept s t PG.sfs [R.SFS_P_PASS p, R.SFS_P_CNT p])

/-- CHORD_TEST with no upset, records to the results unit off, and the output queue empty. With no event waiting, or the surface store in reset, nothing changes. Of a running Chord unit, the surface store working, it removes the
oldest event, counts one test, counts a corner where the arc test over the 9 by 9 window of fresh words finds one, counts a flow where the plane fit gives one, and hands a record that goes to the
tracker, which is alive and has room in the port's input, to that input's end, with the bytes of R232; a record without corner that only corners would send goes nowhere. Memory, ledger and the
other Chord units stay as they were, and without labels every surface word does. -/
def Obligations.ChordTestTakesOldestEvent : Prop :=
  ∀ (p : Fin 8) (s : State), (s.chd.get p).out = [] → s.bit (PG.chd p) R.CHD_CTL 6 = false →
    let pg := PG.chd p
    ((s.chd.get p).q = [] ∨ s.alive PG.sfs = false → exec (.chordTest p none) s = .next s) ∧
    (∀ e r, (s.chd.get p).q = e :: r → s.running pg = true → s.alive PG.sfs = true →
      s.alive PG.loc = true → (s.loc.inputs.get p).length < 128 →
      let x := bf e.word 32 11
      let y := bf e.word 43 11
      let t0 := s.extTime p e.ext
      let win := (s.chdWindow p none x y t0).1
      let arc := s.reg pg R.CHD_ARC
      let fit := s.reg pg R.CHD_FIT
      let a := arcTest (s.reg pg R.CHD_CTL) arc (s.toTicks p (bf arc 32 16)) win (bitAt e.word 54)
      let f : FitRes := if s.bit pg R.CHD_CTL 1 then
          planeFit (fitSupport (s.toTicks p (bf fit 0 16)) (s.bit pg R.CHD_CTL 3) (bitAt e.word 54) win) (bf fit 16 5) (bf fit 32 8) (s.tick p)
        else { n := 0 }
      let edge := decide (x < 4) || decide (y < 4) || decide (s.geomW p < x + 5) || decide (s.geomH p < y + 5)
      ∃ t, exec (.chordTest p none) s = .next t ∧ (t.chd.get p).q = r ∧ (t.chd.get p).out = [] ∧
        Counted s t pg R.CHD_CNT0 0 32 1 ∧ Counted s t pg R.CHD_CNT1 0 32 (b2n a.corner) ∧
        Counted s t pg R.CHD_CNT1 32 32 (b2n f.flow) ∧
        ((a.corner || s.bit pg R.CHD_CTL 5) = true → ∃ rec, t.loc.inputs.get p = s.loc.inputs.get p ++ [rec] ∧
          rec.body = cornerRecord e.word a f edge ∧ rec.admitted = e.admitted) ∧
        ((a.corner || s.bit pg R.CHD_CTL 5) = false → t.loc = s.loc) ∧
        (s.bit pg R.CHD_CTL 7 = false → t.sfs.words = s.sfs.words) ∧
        t.mem = s.mem ∧ t.ldg = s.ldg ∧ (∀ q, q ≠ p → t.chd.get q = s.chd.get q))

/-- LOCUS_RECORD with no cache error, of a running tracker, takes the head of the port whose turn it is and passes the turn on. A record admitted at most 3 µs ago that no track matches and
that is no corner only reads; one with a match counts it and, with merging and UPDATE deltas off, no confirmation and the home cell kept, leaves the track, updated by R243, in the dirty line of its slot,
and memory as that line's place in the cache requires. With no record waiting, or the tracker not running, nothing changes. AGEING_SWEEP_VISIT reads the next slot past the cache: a free one is left; a track past its limit, in
no flush, is retired and counted. AGEING_SWEEP_END at the table's end, with no object retired before the sweep began, replaces the victim list by the gathered one; before it, it changes nothing. OBJECT_BINDING with no chain waiting for it
changes nothing; of a port with one chain that waits for it it binds the port's boxes and the chain, its steps 5 and 6 done, ends. -/
def Obligations.TrackerRecordsAndSweep : Prop :=
  (∀ s : State, (s.running PG.loc = false ∨ s.locNext = none) → s.loc.cacheErr = none → s.loc.counted = [] →
    exec (.locusRecord none) s = .next s) ∧
  (∀ (s : State) (p : Fin 8) (l : LocRec) (rest : List LocRec), s.running PG.loc = true → s.locNext = some p →
    s.loc.inputs.get p = l :: rest → (s.chd.get p).out = [] → (s.dtc - l.admitted).toNat ≤ 3000 →
    let r := CRec.ofBody l.body
    let s1 := { s with loc := { s.loc with cacheErr := none, counted := [], inputs := s.loc.inputs.set p rest, turn := baseOf (p.val + 1) } }
    let q := s1.lookPos (baseOf (s.fld PG.loc R.LOC_CTL 8 3)) r.iet
    let s2 := (q.2.2.recMatches r).2
    ((q.2.2.recMatches r).1 = [] → r.corner = false → ∃ t, exec (.locusRecord none) s = .next t ∧ t.regs = s2.regs ∧ t.mem = s2.mem ∧
      t.loc = { s2.loc with cacheErr := none, counted := [] }) ∧
    (∀ m tail, (q.2.2.recMatches r).1 = m :: tail →
      let u := trackUpdate m.t r m.err q.1.toNat (s2.fld PG.loc R.LOC_AGE 48 16) (s2.fld PG.loc R.LOC_MATCH 48 8) (s2.fld PG.loc R.LOC_CTL 12 3)
      s2.bit PG.loc R.LOC_CTL 0 = false → s2.bit PG.loc R.LOC_CTL 2 = false → 0 ≤ sdiff 32 r.iet m.t.tLast →
      ¬ (m.t.st = 1 ∧ u.st = 2) → s2.cellOf (u.x / 16).toNat = u.cx → s2.cellOf (u.y / 16).toNat = u.cy →
      let a := s2.slotAddr m.slot
      let e := (s2.bump PG.loc R.LOC_CNT0 0 32).ctxWrite m.slot a u.toSlot
      ∃ t, exec (.locusRecord none) s = .next t ∧ t.regs = e.regs ∧ t.mem = e.mem ∧ t.loc.cache = e.loc.cache ∧
        t.line? m.slot a = some { addr := a, data := u.toSlot, dirty := true } ∧ t.ldg = e.ldg ∧ t.chd = s2.chd)) ∧
  (∀ s : State, s.sweepRuns = false → exec .ageingSweepVisit s = .next s) ∧
  (∀ s : State, s.sweepRuns = true → s.loc.sweepPos < locusSlots → s.loc.sweepPos ∉ s.loc.poisoned → s.loc.flushLeft = 0 →
    let i := s.loc.sweepPos
    let q := State.ctxLook { s with loc := { s.loc with sweepPos := i + 1, counted := [] } } i (s.slotAddr i)
    let u := Track.ofSlot q.1
    let age := sdiff 32 q.2.2.iet u.tLast
    let lim := if u.st = 1 then q.2.2.fld PG.loc R.LOC_AGE 16 16 else q.2.2.fld PG.loc R.LOC_AGE 0 16
    q.2.1 = false →
    (u.st = 0 → ∃ t, exec .ageingSweepVisit s = .next t ∧ t.mem = q.2.2.mem ∧ t.regs = q.2.2.regs ∧ t.loc = q.2.2.loc) ∧
    (u.st ≠ 0 → (lim * 16000 : Nat) < age →
      let e := (q.2.2.retire true i u 0 0 false).bump PG.loc R.LOC_CNT3 0 32
      ∃ t, exec .ageingSweepVisit s = .next t ∧ t.mem = e.mem ∧ t.regs = e.regs ∧ t.loc = e.loc)) ∧
  (∀ s : State, s.loc.sweepPos < locusSlots → exec .ageingSweepEnd s = .next s) ∧
  (∀ s : State, locusSlots ≤ s.loc.sweepPos → s.goneObjects = [] → exec .ageingSweepEnd s =
    .next { s with loc := { s.loc with sweepPos := 0, victims := s.loc.gather, gather := [], retired := [] } }) ∧
  (∀ (s : State) (p : Fin 8), s.res.chains.get p = [] → exec (.objectBinding p) s = .next s) ∧
  (∀ (s : State) (p : Fin 8) (c : Chain) (i : Nat), s.res.chains.get p = [c] → c.step = 4 → c.entry = 2 → c.item = some i →
    (s.running PG.loc = true ∨ s.alive PG.loc = false) → s.alive PG.res = true → s.stopped PG.res = false →
    ∃ t, exec (.objectBinding p) s = .next t ∧ t.loc.boxes.get p = [] ∧ t.res.chains.get p = [] ∧ t.item? i = none)

/-- LOC_CLEAR on the tracker's page taking writes: while one runs it is logged with cause BUSY; with no ledger item left it is refused as LEDGER_FULL; on an enabled page or with bad bases it
ends at once FAIL_INVALID; otherwise an item opens and LOC_STS bit 1 sets. LOC_CLEAR_DONE of a running CLEAR, with the memory in its canonical form, no gathered write waiting and HBM not offline, leaves every byte of both tables 0 and every other byte as it was, the cache empty, LOC_ID at
1 and 1, LOC_LIVE 0, READY set if no base has been written since its start, and the item complete with OK; without one it is a reply the page does not wait for (R471). LOC_FLUSH with empty tables changes
nothing; with one live track stored or cached it retires that track. -/
def Obligations.TrackerClearAndFlush : Prop :=
  (∀ (ini : Initiator) (s : State), Writable s PG.loc →
    let w := Wr.full ini R.LOC_CMD 1
    (s.loc.clearing.isSome = true → exec (.locClear ini) s = .next (s.logWr PG.loc w .busy)) ∧
    (s.loc.clearing = none → s.itemFree .ordinary = false → exec (.locClear ini) s = .next (s.ledgerFull PG.loc w)) ∧
    (s.loc.clearing = none → s.itemFree .ordinary = true → (s.enabled PG.loc = true ∨ s.locBasesBad = true) →
      ∃ t, exec (.locClear ini) s = .next t ∧ StartedAndEnded s t PG.loc 0 .failInvalid ∧
        t = { s with ldg := t.ldg, res := t.res, free := t.free }) ∧
    (s.loc.clearing = none → s.itemFree .ordinary = true → s.enabled PG.loc = false → s.locBasesBad = false →
      ∃ t i, exec (.locClear ini) s = .next t ∧
        t.loc.clearing = some { item := i, tbl := s.locTbl, obj := s.locObj } ∧ Opened s t PG.loc 0 i ∧ t.bit PG.loc R.LOC_STS 1 = true ∧
        t = { s with ldg := t.ldg, loc := t.loc, regs := t.regs, free := t.free } ∧ PageKept s t PG.loc [R.LOC_STS]) ∧
    (s.usedSlots s.locTbl locusSlots = [] → s.usedSlots s.locObj locusObjects = [] → s.loc.counted = [] →
      exec (.locFlush ini) s = .next s) ∧
    (∀ i, s.usedSlots s.locTbl locusSlots = [i] →
      let q := State.ctxLook { s with loc := { s.loc with counted := [] } } i (s.slotAddr i)
      let u := Track.ofSlot q.1
      let e := q.2.2.retire true i u 4 0 false
      q.2.1 = false → u.st ≠ 0 → e.usedSlots e.locObj locusObjects = [] →
      ∃ t, exec (.locFlush ini) s = .next t ∧ t.mem = e.mem ∧ t.regs = e.regs ∧ t.loc = e.loc)) ∧
  (∀ s : State, s.loc.clearing = none → exec .locClearDone s = .next (s.staleReply PG.loc)) ∧
  (∀ (s : State) (c : LocClear), s.loc.clearing = some c → Running s c.item → s.mem.wf = true → (∀ pc : Fin 32, s.mem.merge.get pc = []) →
    s.hbmOffline = false →
    let inside := fun a : Nat => (c.tbl ≤ a ∧ a < c.tbl + 64 * locusSlots) ∨ (c.obj ≤ a ∧ a < c.obj + 64 * locusObjects)
    ∃ t, exec .locClearDone s = .next t ∧ t.loc.clearing = none ∧ t.loc.cache = [] ∧ (∀ a, inside a → t.mem.byte? a = some 0) ∧
      (∀ a, ¬ inside a → t.mem.byte? a = s.mem.byte? a) ∧
      t.reg PG.loc R.LOC_ID = 0x0000_0001_0000_0001 ∧ t.reg PG.loc R.LOC_LIVE = 0 ∧ t.bit PG.loc R.LOC_STS 0 = c.fresh ∧
      t.bit PG.loc R.LOC_STS 1 = false ∧ Completed s t c.item .ok 0)

/-- The law of one visit at step `c` of a neuron with record `rd` and extension word `ext`. Of every model: the sum of the step's slot becomes 0, every other slot keeps its sum, LU becomes the step, the parameter-set index stays,
and a neuron still refractory, its LU within R steps, does not fire. Of a model-0 neuron not refractory and without a pending carry: V is the decayed potential plus the rounded input, clamped to 24 bits; it fires exactly where
V has reached the threshold THETA; without a firing V is stored; with one and no carry, V becomes V_RESET and R becomes REFRACT. -/
def Obligations.NeuronVisitLaw : Prop :=
  (∀ (p : Sys2Proof.Machine.PSet) (rd ext c j : Nat), j < 16 →
    let v := visit p rd ext c
    slotSum v.rd v.ext j = (if j = c % 16 then 0 else slotSum rd ext j) ∧ nfld v.rd 56 24 = c % 2 ^ 24 ∧
    nfld v.rd 48 8 = nfld rd 48 8) ∧
  (∀ (p : Sys2Proof.Machine.PSet) (rd ext c : Nat), low 24 ((c : Int) - nfld rd 56 24) ≤ nfld rd 40 8 → (visit p rd ext c).fired = false) ∧
  (∀ (p : Sys2Proof.Machine.PSet) (rd ext c : Nat), p.model = 0 → rd.testBit 80 = false → p.carry = false →
    nfld rd 40 8 < low 24 ((c : Int) - nfld rd 56 24) → p.refract < 256 →
    (-(2 ^ 23) ≤ p.vReset ∧ p.vReset < 2 ^ 23) →
    let lu := nfld rd 56 24
    let inp := roundEven (sgn 20 (slotSum rd ext (c % 16))) (2 ^ p.inShift)
    let pot := satS 24 (p.vRest + decay (sgn 24 (nfld rd 0 24) - p.vRest) p.av ((lu + nfld rd 40 8) % 2 ^ 24) c + inp)
    let theta := satS 24 (p.theta + nfld rd 24 16)
    let v := visit p rd ext c
    (v.fired = true ↔ theta ≤ pot) ∧
    (v.fired = false → sgn 24 (nfld v.rd 0 24) = pot) ∧
    (v.fired = true → sgn 24 (nfld v.rd 0 24) = p.vReset ∧ nfld v.rd 40 8 = p.refract))

/-- LATTICE_STEP of a kiln that does not run changes nothing; of one that may start its next step, with an empty inbox, no cancels and no spike for the step, and no neuron scheduled, outside Cone mode it passes to the next step and stores nothing, and in Cone mode, with the step's spikes still to come, it waits after the
update phase; with the lattice's one neuron scheduled, at a step not above the floor, outside Cone mode, it makes exactly that neuron's visit. JOURNAL_FULL_WAIT counts the visit that waits, once. LEAK_SWEEP_VISIT passes on by one neuron; it rewrites, decayed, one with a valid set, 2^20 steps behind the floor and nothing in
its slots, and no younger one. COURSE_SWAP where the kiln may not swap changes nothing; else it empties the input buffer and starts the swap to the next course. COURSE_SWAP_DONE, of a course with an empty inbox, makes it
resident and counts the swap; without a swap it changes nothing. -/
def Obligations.KilnStepsAndCourses : Prop :=
  ∀ (k : Fin 6) (s : State),
    let l := s.lat.get k
    let c := l.next.get l.resident
    let n := s.fld (PG.lat k) R.LAT_CTL 0 19
    let quiet := s.inboxLevel k l.resident = 0 ∧ l.cancels = [] ∧ l.ahead = [] ∧ ∀ b, b ∈ l.buf → b.step ≠ c
    (s.running (PG.lat k) = false → exec (.latticeStep k) s = .next s) ∧
    (s.mayStart k = true → l.run = none → quiet → sdiff 24 c (l.floor.get l.resident) ≤ 0 →
      ((∀ i, i < n → s.scheduled k i c = false) → s.mode ≠ 1 →
        ∃ t, exec (.latticeStep k) s = .next t ∧ (t.lat.get k).next.get l.resident = step24 c 1 ∧ (t.lat.get k).ran = l.ran + 1 ∧
          (t.lat.get k).run = none ∧ (∀ j, j ≠ k → t.lat.get j = s.lat.get j) ∧ t = { s with lat := t.lat }) ∧
      ((∀ i, i < n → s.scheduled k i c = false) → s.mode = 1 → s.coneReady k c = false → l.buf.length < 4096 →
        ∃ t, exec (.latticeStep k) s = .next t ∧ (t.lat.get k).run = some { slot := n, counted := false } ∧
          (t.lat.get k).next = l.next ∧ t = { s with lat := t.lat }) ∧
      (n = 1 → s.scheduled k 0 c = true → s.mode ≠ 1 →
        ∃ t, exec (.latticeStep k) s = .next t ∧ (t.lat.get k).next.get l.resident = step24 c 1 ∧
          t.mem = (s.neuronVisit k 0 c false).mem ∧ t.regs = (s.neuronVisit k 0 c false).regs)) ∧
    ((∀ r, l.run = some r → r.counted = true ∨ n ≤ r.slot) → exec (.journalFullWait k) s = .next s) ∧
    (∀ r, l.run = some r → r.counted = false → r.slot < n → ∃ t, exec (.journalFullWait k) s = .next t ∧
      (t.lat.get k).run = some { r with counted := true } ∧ Counted s t (PG.lat k) R.LAT_SLIP_CNT1 32 16 1 ∧
      t = { s with regs := t.regs, lat := t.lat } ∧ PageKept s t (PG.lat k) [R.LAT_SLIP_CNT1]) ∧
    (let i := l.sweep % n
     let s1 := s.latUpd k fun x => { x with sweep := (i + 1) % n }
     let q := s1.neuronRead k i
     let f := step24 (l.floor.get l.resident) (-1)
     let m := f / 2 ^ 20 * 2 ^ 20
     (n = 0 → exec (.leakSweepVisit k) s = .next s) ∧
     (n ≠ 0 → s.alive (PG.lat k) = true → s.enabled (PG.lat k) = true → l.swap = none → ∀ rd ext, q.1 = some (rd, ext) →
       let p := q.2.pset k (nfld rd 48 8)
       (sdiff 24 f (nfld rd 56 24) < 2 ^ 20 → ∃ t, exec (.leakSweepVisit k) s = .next t ∧ t.mem = q.2.mem ∧ t.regs = q.2.regs) ∧
       (p.valid = true → 2 ^ 20 ≤ sdiff 24 f (nfld rd 56 24) → rd >>> 128 = 0 → ext = 0 →
         let e := q.2.neuronWrite k i (leakRecord p rd m, ext)
         ∃ t, exec (.leakSweepVisit k) s = .next t ∧ t.mem = e.mem ∧ t.regs = e.regs))) ∧
    (s.maySwap k = false → exec (.courseSwap k) s = .next s) ∧
    (s.maySwap k = true → ∃ t e, exec (.courseSwap k) s = .next t ∧ (t.lat.get k).buf = [] ∧ (t.lat.get k).swap = some (e, s.dtc) ∧
      e.val = (l.resident.val + 1) % max 1 (s.courses k) % 16) ∧
    (l.swap = none → exec (.courseSwapDone k) s = .next s) ∧
    (∀ e b, l.swap = some (e, b) → s.inboxLevel k e = 0 → l.cancels = [] → ∃ t, exec (.courseSwapDone k) s = .next t ∧
      (t.lat.get k).resident = e ∧ (t.lat.get k).swap = none ∧ (t.lat.get k).ran = 0 ∧
      Counted s t (PG.kln k) R.KLN_SWAP_CNT 0 32 1)

/-- ROUTER_PACKET of a running router with a packet ready at exactly one input, nothing coming from its kiln: a packet that misses is dropped and counted; one with a single way to a neighbour in
operation leaves its queue and joins the end of the neighbour's input, one hop older, and is counted. ROUTER_STALL sets STALL, with RAW bit 0, exactly where the port has stalled. KILN_PACKET_IN takes a
spike for a later step of the resident course into the input buffer, holds it at the port while that is full, and drops and counts one whose pointer lies beyond the table; with nothing at the port it changes nothing. INGRESS_SPOOL_DRAIN
passes the oldest spooled spike to router 6 where that has room. EGRESS_RELEASE writes the first held spike below the lowest floor into the ring's next entry and counts it. -/
def Obligations.PacketsThroughTheFabric : Prop :=
  (∀ (r : Fin 8) (s : State), s.running (PG.spk r) = false → exec (.routerPacket r) s = .next s) ∧
  (∀ (r : Fin 8) (i : Fin 5) (x : Packet) (rest : List Packet) (s : State), s.running (PG.spk r) = true →
    (∀ k, routerKiln r = some k → (s.lat.get k).out = []) →
    (∀ j, j ≠ i → (s.spk.routers.get r).inq.get j = []) → (s.spk.routers.get r).inq.get i = x :: rest → s.inputReady r i = true →
    (s.route r i x = .drop 0 → ∃ t, exec (.routerPacket r) s = .next t ∧ (t.spk.routers.get r).inq.get i = rest ∧
      Counted s t (PG.spk r) R.SPK_CNT0 32 16 1 ∧ (∀ q, q ≠ r → t.spk.routers.get q = s.spk.routers.get q) ∧
      PageKept s t (PG.spk r) [R.SPK_CNT0]) ∧
    (∀ port q j ptr, s.route r i x = .copies [port] ptr false → port ≠ 0 → routerNext r port = some (q, j) → s.alive (PG.spk q) = true →
      x.cancel = false → ∃ t, exec (.routerPacket r) s = .next t ∧ (t.spk.routers.get r).inq.get i = rest ∧
        (t.spk.routers.get q).inq.get j = (s.spk.routers.get q).inq.get j ++ [{ x with hops := x.hops + 1 }] ∧
        Counted s t (PG.spk r) R.SPK_CNT0 0 32 1 ∧ PageKept s t (PG.spk r) [R.SPK_CNT0])) ∧
  (∀ (r : Fin 8) (port : Fin 5) (s : State),
    ((s.alive (PG.spk r) = false ∨ s.stalled r port = false) → exec (.routerStall r port) s = .next s) ∧
    (s.alive (PG.spk r) = true → s.stalled r port = true → ∃ t, exec (.routerStall r port) s = .next t ∧
      t.bit (PG.spk r) R.SPK_STS 0 = true ∧ t.bit (PG.spk r) R.PG_IRQ_RAW 0 = true ∧ OnlyRegs s t ∧
      PageKept s t (PG.spk r) [R.SPK_STS, R.PG_IRQ_RAW])) ∧
  (∀ (k : Fin 6) (s : State),
    let r : Fin 8 := k.castLE (by decide)
    let l := s.lat.get k
    ((s.spk.routers.get r).out = none → exec (.kilnPacketIn k) s = .next s) ∧
    (∀ o, (s.spk.routers.get r).out = some o → s.running (PG.lat k) = true →
      (s.fld (PG.kln k) R.KLN_PTR_COUNT 0 24 ≤ o.ptr → o.held = none → ∃ t, exec (.kilnPacketIn k) s = .next t ∧
        (t.spk.routers.get r).out = none ∧ t.lat = s.lat ∧ t.mem = s.mem ∧ Counted s t (PG.kln k) R.KLN_CW_STS 16 16 1) ∧
      (∀ row, (s.rowPointer k o.ptr).1 = some (row, l.resident) → l.swap = none → s.inboxLevel k l.resident = 0 →
        o.pkt.cancel = false → o.pkt.retimed = false → o.pkt.src = k.val → l.buf.length < 4096 →
        let step := nearStep (l.next.get l.resident) o.pkt.step
        0 < sdiff 24 step (s.lastBegun k) → ∃ t, exec (.kilnPacketIn k) s = .next t ∧ (t.spk.routers.get r).out = none ∧
          (t.lat.get k).buf = l.buf ++ [{ pkt := o.pkt, step, row }]) ∧
      (∀ row, (s.rowPointer k o.ptr).1 = some (row, l.resident) → l.swap = none → s.inboxLevel k l.resident = 0 →
        o.pkt.cancel = false → 4096 ≤ l.buf.length → 0 < sdiff 24 (nearStep (l.next.get l.resident) o.pkt.step) (s.lastBegun k) →
        ∃ t, exec (.kilnPacketIn k) s = .next t ∧ (t.lat.get k).buf = l.buf ∧
          (t.spk.routers.get r).out = some { o with held := some (o.held.getD s.dtc) }))) ∧
  (∀ s : State, s.spk.spool = [] → exec .ingressSpoolDrain s = .next s) ∧
  (∀ (s : State) (x : Packet) (rest : List Packet), s.spk.spool = x :: rest → s.alive (PG.spk 6) = true →
    ((s.spk.routers.get 6).inq.get 0).length < 64 → ∃ t, exec .ingressSpoolDrain s = .next t ∧ t.spk.spool = rest ∧
      (t.spk.routers.get 6).inq.get 0 = (s.spk.routers.get 6).inq.get 0 ++ [x] ∧ t = { s with spk := t.spk }) ∧
  (∀ (s : State) (h : HeldSpike), s.running (PG.spk 7) = true →
    firstHeld (s.spk.hold.filter fun h => decide (sdiff 24 h.step s.floorMin < 0)) = some h →
    let pg := PG.spk 7
    let head := s.fld pg R.EGR_RING_HEAD 0 32
    let size := s.fld pg R.EGR_RING_SIZE 0 21
    (head + 2 ^ 32 - s.fld pg R.EGR_RING_TAIL 0 32) % 2 ^ 32 < size → h.pkt.miss = none →
    let s1 : State := { s with spk := { s.spk with hold := s.spk.hold.erase h } }
    let e := h.pkt.key + h.step <<< 32 + h.pkt.value <<< 56 + h.pkt.epoch <<< 64 + h.pkt.src <<< 72
    ∃ t, exec .egressRelease s = .next t ∧ t.spk = s1.spk ∧
      t.mem = (s1.writeNat none ((s.reg pg R.EGR_RING_BASE).toNat + 16 * (head % size)) 16 e).mem ∧
      t.fld pg R.EGR_RING_HEAD 0 32 = (head + 1) % 2 ^ 32 ∧ Counted s t pg R.EGR_CNT 0 32 1)

/-- RT_WRITE on a router's page taking writes stores KEY, MASK and route of the registers at entry RT_IDX, with the page disabled, and nothing else; on an enabled page it is logged with cause STATE. RT_READ
delivers the entry at RT_IDX into the registers and changes nothing else. RT_LOAD is logged with cause STATE on an enabled page, with BUSY while a load runs, refused as LEDGER_FULL without an item; with 0 entries it ends at once OK_EMPTY, with too many, or
a bad address, FAIL_INVALID; else it opens an item and LOADING sets. RT_LOAD_DONE of a running load clears it and completes the item, OK or FAIL_POISON; without one the reply is stale: it is discarded, and counted where a reset has left one on its way. -/
def Obligations.RouteTables : Prop :=
  (∀ (ini : Initiator) (r : Fin 8) (s : State), Writable s (PG.spk r) →
    let pg := PG.spk r
    let i := s.fld pg R.RT_IDX 0 14
    let route := s.reg pg R.RT_ROUTE
    let e := (s.reg pg R.RT_KEYMASK).toNat + (bf route 0 6) <<< 64 + (bf route 32 24) <<< 72
    let x := Sp.get 0 (s.spk.routers.get r).routes i
    (s.enabled pg = true → exec (.rtWrite ini r) s = .next (s.logWr pg (.full ini R.RT_CMD 1) .state)) ∧
    (s.enabled pg = false → ∃ t, exec (.rtWrite ini r) s = .next t ∧ Sp.get 0 (t.spk.routers.get r).routes i = e ∧
      (∀ j, j ≠ i → Sp.get 0 (t.spk.routers.get r).routes j = Sp.get 0 (s.spk.routers.get r).routes j) ∧
      (∀ q, q ≠ r → t.spk.routers.get q = s.spk.routers.get q) ∧ t = { s with spk := t.spk }) ∧
    (∃ t, exec (.rtRead ini r) s = .next t ∧ t.reg pg R.RT_KEYMASK = wOfNat (nfld x 0 64) ∧
      t.reg pg R.RT_ROUTE = wOfNat (nfld x 64 6 + (nfld x 72 24) <<< 32) ∧ OnlyRegs s t ∧
      PageKept s t pg [R.RT_KEYMASK, R.RT_ROUTE]) ∧
    (∀ v : Word,
      let w := Wr.full ini R.RT_LOAD_GO v
      let n := bf v 0 15
      let cq := bf v 16 6
      let bad := 16384 < n ∨ s.hbmAligned (s.reg pg R.RT_LOAD_ADDR).toNat (16 * n) 64 = false
      (s.enabled pg = true → exec (.rtLoad ini r v) s = .next (s.logWr pg w .state)) ∧
      (s.enabled pg = false → (s.spk.routers.get r).load.isSome = true → exec (.rtLoad ini r v) s = .next (s.logWr pg w .busy)) ∧
      (s.enabled pg = false → (s.spk.routers.get r).load = none → s.itemFree .ordinary = false →
        exec (.rtLoad ini r v) s = .next (s.ledgerFull pg w)) ∧
      (s.enabled pg = false → (s.spk.routers.get r).load = none → s.itemFree .ordinary = true →
        (n = 0 → ∃ t, exec (.rtLoad ini r v) s = .next t ∧ StartedAndEnded s t pg cq .okEmpty) ∧
        (n ≠ 0 → bad → ∃ t, exec (.rtLoad ini r v) s = .next t ∧ StartedAndEnded s t pg cq .failInvalid) ∧
        (n ≠ 0 → ¬ bad → ∃ t idx, exec (.rtLoad ini r v) s = .next t ∧ Opened s t pg cq idx ∧
          (t.spk.routers.get r).load = some (idx, (s.reg pg R.RT_LOAD_ADDR).toNat, n) ∧ t.bit pg R.SPK_STS 3 = true ∧
          PageKept s t pg [R.SPK_STS])))) ∧
  (∀ (r : Fin 8) (s : State), (s.spk.routers.get r).load = none →
    exec (.rtLoadDone r) s = .next (s.staleReply (PG.spk r))) ∧
  (∀ (r : Fin 8) (s : State) (idx a n : Nat), (s.spk.routers.get r).load = some (idx, a, n) → Running s idx →
    ∃ t st, exec (.rtLoadDone r) s = .next t ∧ (t.spk.routers.get r).load = none ∧ t.bit (PG.spk r) R.SPK_STS 3 = false ∧
      (st = .ok ∨ st = .failPoison) ∧ Completed s t idx st 0)

/-- FLOOR_UPDATE, where the floor unit works, gives every course of every enabled kiln its new floor, never below the old one, and changes the lattice state alone, in WHEEL mode the Cone boundary that follows the floor too. WHL_ENABLE, WHL_CTL.EN 0 to 1 on the page taking writes: outside OFF
it is logged with BUSY; with failing checks EN reads 0 and each one's bit sets in MODE_STS; else STATE is CONE and every course starts at step 0. WHL_DISABLE, EN 1 to 0, stores the register and, outside OFF, drains without a bound.
TO_CONE in WHEEL mode drains to a Cone boundary and elsewhere does nothing; TO_WHEEL in CONE mode is held until the barrier, and in WHEEL mode or OFF it does nothing. CONE_BARRIER with every step below the next boundary committed moves the
boundary on, to WHEEL mode where that waits; else it changes nothing. DRAIN_COMPLETE at its bound ends DRAIN in CONE mode. COUNT_WINDOW_CLOSE of a kiln whose oldest window is complete closes it and counts it. -/
def Obligations.FloorModesAndCountWindows : Prop :=
  (∀ s : State, s.mode = 0 → exec .floorUpdate s = .next s) ∧
  (∀ s : State, s.alive (PG.spk 7) = true → s.mode ≠ 0 → s.ingLen ≠ 0 → ∃ t, exec .floorUpdate s = .next t ∧
    (∀ k c, (k, c) ∈ s.allCourses → (t.lat.get k).floor.get c = s.newFloor k c ∧
      0 ≤ sdiff 24 ((t.lat.get k).floor.get c) ((s.lat.get k).floor.get c)) ∧
    (∀ k c, (k, c) ∉ s.allCourses → (t.lat.get k).floor.get c = (s.lat.get k).floor.get c) ∧
    (s.mode ≠ 2 → t.spk = s.spk) ∧ t = { s with lat := t.lat, spk := t.spk }) ∧
  (∀ (ini : Initiator) (v : Word) (s : State), Writable s (PG.spk 7) →
    let pg := PG.spk 7
    let w := Wr.full ini R.WHL_CTL v
    let c := s.wouldBe pg w
    (s.bit pg R.WHL_CTL 0 = false → bitAt c 0 = true →
      (s.mode ≠ 0 → exec (.whlEnable ini v) s = .next (s.logWr pg w .busy)) ∧
      (s.mode = 0 → s.whlFails c ≠ [] → ∃ t, exec (.whlEnable ini v) s = .next t ∧ t.bit pg R.WHL_CTL 0 = false ∧
        (∀ b, b ∈ s.whlFails c → t.bit pg R.MODE_STS b = true) ∧ OnlyRegs s t ∧ PageKept s t pg [R.WHL_CTL, R.MODE_STS]) ∧
      (s.mode = 0 → s.whlFails c = [] → ∃ t, exec (.whlEnable ini v) s = .next t ∧ t.reg pg R.WHL_CTL = c ∧ t.mode = 1 ∧
        (∀ k e, (t.lat.get k).next.get e = 0 ∧ (t.lat.get k).floor.get e = 0) ∧ t.spk.cone = 0 ∧
        t = { s with regs := t.regs, lat := t.lat, spk := t.spk })) ∧
    (s.bit pg R.WHL_CTL 0 = true → bitAt c 0 = false → ∃ t, exec (.whlDisable ini v) s = .next t ∧ t.reg pg R.WHL_CTL = c ∧
      (s.mode = 0 → t.mode = 0) ∧ (s.mode ≠ 0 → t.mode = 3 ∧ t.spk.drainTo = none) ∧ t = { s with regs := t.regs, spk := t.spk }) ∧
    (s.mode ≠ 2 → exec (.toCone ini) s = .next s) ∧
    (s.mode = 2 → ∃ t, exec (.toCone ini) s = .next t ∧ t.mode = 3 ∧ t.spk.drainTo.isSome = true ∧
      t = { s with regs := t.regs, spk := t.spk } ∧ PageKept s t pg [R.MODE_STS, R.PG_IRQ_RAW]) ∧
    ((s.mode = 0 ∨ s.mode = 2) → exec (.toWheel ini) s = .next s) ∧
    (s.mode = 1 → exec (.toWheel ini) s = .next { s with spk := { s.spk with toWheel := true } })) ∧
  (∀ s : State,
    let b := step24 s.spk.cone s.coneLen
    let go := (s.spk.first && s.bit (PG.spk 7) R.WHL_CTL 8) || s.spk.toWheel || s.spk.recDue
    (s.mode ≠ 1 ∨ s.committed b = false → exec .coneBarrier s = .next s) ∧
    (s.mode = 1 → s.alive (PG.spk 7) = true → s.committed b = true → ∃ t, exec .coneBarrier s = .next t ∧ t.spk.cone = b ∧
      t.mode = (if go then 2 else 1) ∧ (go = false → Counted s t (PG.spk 7) R.MODE_CNT 32 32 1) ∧
      (go = true → t.spk.toWheel = false ∧ t.spk.recDue = false) ∧ t.lat = s.lat ∧ t.mem = s.mem)) ∧
  (∀ s : State, s.mode ≠ 3 → exec .drainComplete s = .next s) ∧
  (∀ (s : State) (b : Nat), s.mode = 3 → s.alive (PG.spk 7) = true → s.spk.drainTo = some b →
    (s.committed b = false → exec .drainComplete s = .next s) ∧
    (s.committed b = true → ∃ t, exec .drainComplete s = .next t ∧ t.mode = 1 ∧ t.spk.cone = b ∧ t.spk.drainTo = none ∧
      t = { s with regs := t.regs, spk := t.spk } ∧ PageKept s t (PG.spk 7) [R.MODE_STS, R.PG_IRQ_RAW])) ∧
  (∀ (k : Fin 6) (s : State), s.cwOn k = false → exec (.countWindowClose k) s = .next s) ∧
  (∀ (k : Fin 6) (s : State), s.cwOn k = true → s.enabled (PG.lat k) = true →
    0 ≤ sdiff 24 (s.kilnFloor k) (s.cwFirst ((s.lat.get k).cw + 1)) → ∃ t, exec (.countWindowClose k) s = .next t ∧
      (t.lat.get k).cw = (s.lat.get k).cw + 1 ∧ Counted s t (PG.kln k) R.KLN_CW_CNT 0 32 1 ∧
      (t.lat.get k).next = (s.lat.get k).next ∧ ∀ j, j ≠ k → t.lat.get j = s.lat.get j)

/-- FCT_TAIL_WRITE on a facet page taking writes: a tail that the ring cannot hold is logged with cause STATE; without items and the reserve it is refused as LEDGER_FULL; else the tail is stored and one item opens per descriptor submitted. DESCRIPTOR_START with no
descriptor waiting, one running, or the queue halted changes nothing; else the oldest one leaves the queue and the head moves on: a poisoned one, and one that fails a check, ends at once and its item is closed; a good, non-empty one runs. DESCRIPTOR_DONE, with none running, is a stale reply; of a running one it clears
BUSY, completes its item with its status, and counts it as completed or as failed, a failure halting the queue where FCT_CTL says so. FCT_RESUME on the page taking writes clears HALTED alone. -/
def Obligations.FacetDescriptors : Prop :=
  ∀ (k : Fin 6) (s : State),
    let pg := PG.fct k
    let head := s.fld pg R.FCT_Q_HEAD 0 32
    (∀ (ini : Initiator) (v : Word), Writable s pg →
      let w := Wr.full ini R.FCT_Q_TAIL v
      let tail := bf (s.wouldBe pg w) 0 32
      let n := (tail + 2 ^ 32 - s.fld pg R.FCT_Q_TAIL 0 32) % 2 ^ 32
      let fits := (tail + 2 ^ 32 - head) % 2 ^ 32 ≤ s.fctSize k
      (¬ fits → exec (.fctTailWrite ini k v) s = .next (s.logWr pg w .state)) ∧
      (fits → ledgerItems < s.ldg.items.length + n + s.reserve → exec (.fctTailWrite ini k v) s = .next (s.ledgerFull pg w)) ∧
      (fits → s.ldg.items.length + n + s.reserve ≤ ledgerItems → ∃ t l, exec (.fctTailWrite ini k v) s = .next t ∧
        t.fld pg R.FCT_Q_TAIL 0 32 = tail ∧ l.length = n ∧ (t.fct.get k).items = (s.fct.get k).items ++ l ∧
        t.ldg.items.length = s.ldg.items.length + n ∧ t = { s with regs := t.regs, ldg := t.ldg, fct := t.fct, free := t.free } ∧
        PageKept s t pg [R.FCT_Q_TAIL])) ∧
    (∀ ini : Initiator, Writable s pg → exec (.fctResume ini k) s = .next (s.setBit pg R.FCT_STS 1 false)) ∧
    ((s.fct.get k).items = [] ∨ (s.fct.get k).run.isSome = true ∨ s.bit pg R.FCT_STS 1 = true → exec (.descriptorStart k) s = .next s) ∧
    (∀ item rest, s.running pg = true → (s.fct.get k).run = none → s.bit pg R.FCT_STS 1 = false → (s.fct.get k).items = item :: rest →
      let r := s.readBytes (s.descAddr k head) 256
      let d : Desc := { w := (List.range 32).map fun i => leNat ((r.1.bytes.drop (8 * i)).take 8) }
      let s1 := ((r.2.fctUpd k fun y => { y with items := rest }).setFld pg R.FCT_Q_HEAD 0 32 (head + 1)).itemNames item (d.w.getD 0 0)
      (r.1.bad = true ∨ s1.descWhy k d ≠ 0 → ∃ t, exec (.descriptorStart k) s = .next t ∧ (t.fct.get k).items = rest ∧
        (t.fct.get k).run = none ∧ t.fld pg R.FCT_Q_HEAD 0 32 = (head + 1) % 2 ^ 32 ∧ t.item? item = none ∧
        Counted s t pg R.FCT_CNT0 32 32 1 ∧ t.mem = r.2.mem) ∧
      (r.1.bad = false → s1.descWhy k d = 0 → d.empty = false → ∃ t run, exec (.descriptorStart k) s = .next t ∧
        (t.fct.get k).items = rest ∧ (t.fct.get k).run = some run ∧ run.item = item ∧ run.start = s.dtc ∧
        t.fld pg R.FCT_Q_HEAD 0 32 = (head + 1) % 2 ^ 32 ∧ t.bit pg R.FCT_STS 0 = true)) ∧
    ((s.fct.get k).run = none → exec (.descriptorDone k) s = .next (s.staleReply pg)) ∧
    (∀ run, (s.fct.get k).run = some run → s.alive pg = true → Running s run.item → ∃ t, exec (.descriptorDone k) s = .next t ∧
      (t.fct.get k).run = none ∧ t.bit pg R.FCT_STS 0 = false ∧ Completed s t run.item run.status 0 ∧
      (run.status.isFail = false → Counted s t pg R.FCT_CNT0 0 32 1 ∧ t.bit pg R.FCT_STS 1 = s.bit pg R.FCT_STS 1) ∧
      (run.status.isFail = true → Counted s t pg R.FCT_CNT0 32 32 1 ∧
        t.bit pg R.FCT_STS 1 = (s.bit pg R.FCT_CTL 0 || s.bit pg R.FCT_STS 1)) ∧ t.mem = s.mem)

/-- INC_EVENT_APPLY of a context that does not run, or has no event waiting, changes nothing. Of a running decay context, the oldest event leaves the queue and is counted; with no layer, no epoch due and the element readable, the element's channel takes the event's weight (or, in the second mode, becomes it) and only it and its tag are written.
REBASE_START of a running context asked for one begins at layer 0, row 0 and the present epoch; REBASE_ROW_STEP, no event waiting (or events waiting for this rebase), moves a running rebase on by one row of its layer, or to the next layer; REBASE_DONE after the last layer ends it, stores the epoch at its start, and counts it. Without a rebase the three change nothing.
INC_REBASE on the page taking writes asks an enabled context for one, or is counted while one runs; of a disabled context it changes nothing. -/
def Obligations.IncrementalEventsAndRebase : Prop :=
  ∀ (k : Fin 6) (c : Fin 2) (s : State),
    let x := s.ictx k c
    let pg := PG.fct k
    (s.incRuns k c = false ∨ x.q = [] → exec (.incEventApply k c) s = .next s) ∧
    (∀ w r, s.incRuns k c = true → s.incOwes k c = false → s.incMode k c ≠ 2 → x.q = w :: r →
      let s1 := s.incUpd k c fun y => { y with q := r }
      let q := s1.lookPos (s.incBase k c) (bf w 0 32)
      let s2 := q.2.2.incCount k c R.INC_CNT0 0 32 1
      let e := q.2.2.incE k c q.1
      let g := weightG (q.2.2.incShift k c) e
      let ch := if q.2.2.incSigned k c then 0 else b2n (bitAt w 54)
      let g' : Int := if q.2.2.incSigned k c && !bitAt w 54 then -g else g
      let m := q.2.2.inMap k c 0
      let i := m.ix (bf w 43 11) (bf w 32 11)
      let rd := s2.posRead k c m i
      ∃ t, exec (.incEventApply k c) s = .next t ∧ (t.ictx k c).q = r ∧ Counted s t pg (R.INC_CNT0 c) 0 32 1 ∧
        (q.2.2.incLayers k c = 0 → (e / 65536).toNat / q.2.2.incRenorm k c = 0 → ∀ v, rd.1 = some v →
          let new := setChan v ch fun a => if rd.2.incMode k c = 1 then (satS 32 g, 0) else add32 a g'
          let u := ((rd.2.incSat k c new.2).posVset m i new.1).tagSet k c m i
          t.mem = u.mem ∧ t.regs = u.regs)) ∧
    (s.incRuns k c = false ∨ x.reb.isSome = true → exec (.rebaseStart k c) s = .next s) ∧
    (s.incRuns k c = true → x.reb = none → x.rebReq = true → ∃ t, exec (.rebaseStart k c) s = .next t ∧
      (t.ictx k c).reb = some { layer := 0, row := 0, start := s.incEpoch k c, seen := [] } ∧ (t.ictx k c).rebReq = false ∧
      t.bit pg (R.INC_STS c) 2 = true) ∧
    (x.reb = none → exec (.rebaseRowStep k c) s = .next s ∧ exec (.rebaseDone k c) s = .next s) ∧
    (∀ r l, x.reb = some r → s.incRuns k c = true → x.q = [] ∨ s.incOwes k c = true → x.ro = none → (s.incLays k c)[r.layer]? = some l →
      ∃ t seen, exec (.rebaseRowStep k c) s = .next t ∧ (r.layer = 0 → seen = r.seen) ∧
        (t.ictx k c).reb = some (if (r.row + 1 : Nat) < l.hOut then { r with row := r.row + 1, seen } else { r with layer := r.layer + 1, row := 0, seen := [] })) ∧
    (∀ r, x.reb = some r → s.incRuns k c = true → min 4 (s.incLayers k c) ≤ r.layer → ∃ t, exec (.rebaseDone k c) s = .next t ∧
      (t.ictx k c).reb = none ∧ (t.ictx k c).needReb = false ∧ t.fld pg (R.INC_EPOCH c) 8 8 = r.start % 256 ∧
      Counted s t pg (R.INC_CNT1 c) 32 16 1 ∧ t = { s with regs := t.regs, inc := t.inc } ∧
      PageKept s t pg [R.INC_STS c, R.INC_EPOCH c, R.INC_CNT1 c]) ∧
    (∀ ini : Initiator, Writable s pg →
      (s.incEn k c = false → exec (.incRebase ini k c) s = .next s) ∧
      (s.incEn k c = true → x.reb.isSome = true → exec (.incRebase ini k c) s = .next (s.incCount k c R.INC_CNT2 40 8 1)) ∧
      (s.incEn k c = true → x.reb = none → ∃ t, exec (.incRebase ini k c) s = .next t ∧ t.ictx k c = { x with rebReq := true } ∧
        t = { s with inc := t.inc }))

/-- INC_CLEAR, a write of INC_CMD with bit 0 alone: while one runs it is logged with BUSY; without an item it is refused; on an enabled context, a disabled port or bad addresses it ends at once FAIL_INVALID; else an item opens and INC_STS shows clearing. INC_CLEAR_DONE
completes it, CLEARED set. INC_ENABLE, EN 0 to 1: with a failing check EN stays 0 and INC_STS carries its number; else EN is 1, the reference position is the base's, and no event waits. A write of an enabled context's register that keeps EN is logged with STATE, one that clears it stops the context. READOUT of a
context asked for one ends FAIL_INVALID when disabled, and else OK or FAIL_POISON, counted; READOUT_DONE completes the item. DETECTION_PASS appends at most MAX_OUT boxes to the port's, and DETECTION_PASS_DONE completes the item; a completion that nothing waits for is a stale reply. -/
def Obligations.IncrementalClearReadoutDetection : Prop :=
  ∀ (k : Fin 6) (c : Fin 2) (s : State),
    let x := s.ictx k c
    let pg := PG.fct k
    (∀ (ini : Initiator) (v : Word), Writable s pg → bitAt v 0 = true → bitAt v 1 = false →
      let w := Wr.full ini (R.INC_CMD c) v
      let bad := s.incEn k c = true ∨ s.spEn (s.incPort k c) = false ∨ s.incAddrBad k c = true
      (x.clear.isSome = true → exec (.incClear ini k c v) s = .next (s.logWr pg w .busy)) ∧
      (x.clear = none → s.itemFree .ordinary = false → exec (.incClear ini k c v) s = .next (s.ledgerFull pg w)) ∧
      (x.clear = none → s.itemFree .ordinary = true → bad → ∃ t, exec (.incClear ini k c v) s = .next t ∧
        StartedAndEnded s t pg (bf v 2 6) .failInvalid ∧ t = { s with ldg := t.ldg, res := t.res, free := t.free }) ∧
      (x.clear = none → s.itemFree .ordinary = true → ¬ bad → ∃ t i, exec (.incClear ini k c v) s = .next t ∧
        (t.ictx k c).clear = some i ∧ (t.item? i).isSome = true ∧ t.fld pg (R.INC_STS c) 0 2 = 2 ∧ t.fld pg (R.INC_EPOCH c) 0 16 = 0)) ∧
    (x.clear = none → exec (.incClearDone k c) s = .next (s.staleReply pg)) ∧
    (∀ i, x.clear = some i → Running s i → ∃ t, exec (.incClearDone k c) s = .next t ∧ (t.ictx k c).clear = none ∧
      t.fld pg (R.INC_STS c) 0 2 = 1 ∧ Completed s t i .ok 0 ∧
      t = { s with regs := t.regs, ldg := t.ldg, res := t.res, inc := t.inc } ∧ PageKept s t pg [R.INC_STS c]) ∧
    (∀ (ini : Initiator) (v : Word), Writable s pg →
      let w := Wr.full ini (R.INC_CTL c) v
      let new := s.wouldBe pg w
      let old := s.reg pg (R.INC_CTL c)
      let s0 := s.setReg pg (R.INC_CTL c) (putBit new 0 false)
      let s1 := if bf old 4 6 = bf new 4 6 then s0 else s0.setBit pg (R.INC_STS c) 0 false
      (bitAt old 0 = false → bitAt new 0 = true → s1.incWhy k c ≠ 0 → ∃ t, exec (.incEnable ini k c v) s = .next t ∧
        t.incEn k c = false ∧ t.bit pg (R.INC_STS c) 6 = true ∧ t.fld pg (R.INC_STS c) 8 8 = s1.incWhy k c ∧ OnlyRegs s t ∧
        PageKept s t pg [R.INC_CTL c, R.INC_STS c, R.PG_IRQ_RAW]) ∧
      (bitAt old 0 = false → bitAt new 0 = true → s1.incWhy k c = 0 → ∃ t, exec (.incEnable ini k c v) s = .next t ∧
        t.incEn k c = true ∧ t.reg pg (R.INC_PREF c) = s1.pos (s1.incBase k c) ∧ (t.ictx k c).q = []) ∧
      (bitAt old 0 = true → bitAt new 0 = true → exec (.incEnable ini k c v) s = .next (s.logWr pg w .state)) ∧
      (bitAt old 0 = true → bitAt new 0 = false → ∃ t, exec (.incEnable ini k c v) s = .next t ∧
        t.reg pg (R.INC_CTL c) = new ∧ t.incEn k c = false ∧ (t.ictx k c).q = [] ∧ (t.ictx k c).reb = none)) ∧
    (x.ro = none → exec (.readout k c) s = .next s ∧ exec (.readoutDone k c) s = .next (s.staleReply pg)) ∧
    (∀ r, x.ro = some r → r.status = none → s.running pg = true →
      (s.incEn k c = false → ∃ t, exec (.readout k c) s = .next t ∧ (t.ictx k c).ro = some { r with status := some .failInvalid } ∧
        t = { s with inc := t.inc }) ∧
      (s.incEn k c = true → s.incF k c R.INC_RO_CTL 0 4 ≤ 4 → ∃ t st, exec (.readout k c) s = .next t ∧ (st = .ok ∨ st = .failPoison) ∧
        (t.ictx k c).ro = some { r with status := some st } ∧ Counted s t pg (R.INC_CNT2 c) 0 32 1)) ∧
    (∀ r st, x.ro = some r → r.status = some st → Running s r.item → ∃ t, exec (.readoutDone k c) s = .next t ∧
      (t.ictx k c).ro = none ∧ Completed s t r.item st 0 ∧ t = { s with ldg := t.ldg, res := t.res, inc := t.inc }) ∧
    (x.det = none → exec (.detectionPass k c) s = .next s ∧ exec (.detectionPassDone k c) s = .next (s.staleReply pg)) ∧
    (∀ d, x.det = some d → d.status = none → s.running pg = true → ∃ t st out, exec (.detectionPass k c) s = .next t ∧
      (st = .ok ∨ st = .failPoison) ∧ (t.ictx k c).det = some { d with status := some st } ∧
      t.loc.boxes.get (s.incPort k c) = s.loc.boxes.get (s.incPort k c) ++ out ∧ out.length ≤ s.incF k c R.DET_CTL 32 9) ∧
    (∀ d st, x.det = some d → d.status = some st → Running s d.item → ∃ t, exec (.detectionPassDone k c) s = .next t ∧
      (t.ictx k c).det = none ∧ Completed s t d.item st 0 ∧ t = { s with ldg := t.ldg, res := t.res, inc := t.inc })

/-- RCH_BIN_CLOSE before the bin's time changes nothing; after it the next bin is open, RCH_BIN names the closed one, it is counted, and no bin up to it is held. RATE_RECORD_TIMEOUT hands the samples that a channel has gathered for 1 ms and changes nothing before. RCH_RUN, RCH_CTL.RUN 0 to 1
on the page taking writes: with LAG out of range RUN reads 0, with its bit and RAW bit 0; with LAG, every used profile, every enabled minimum-phase channel and the load in order, RUN reads 1 and the first bin is the present millisecond's. RCH_STOP discards open
bins, channel state and trips on their way. RCH_MAP_LOAD and RCH_MAP_LOAD_DONE run as a job of the page's. -/
def Obligations.RateChainRunAndBins : Prop :=
  (∀ s : State, s.binDue = false → exec .rchBinClose s = .next s) ∧
  (∀ s : State, s.binDue = true → ∃ t, exec .rchBinClose s = .next t ∧ t.rch.next = s.rch.next + 1 ∧
    t.reg PG.rch R.RCH_BIN = wOfNat s.rch.next ∧ Counted s t PG.rch R.RCH_CNT1 0 32 1 ∧
    (∀ e, e ∈ t.rch.bins → (s.rch.next + 1) * 2048 ≤ e.1)) ∧
  (∀ (n : Fin 2048) (s : State),
    let o := (Sp.get {} s.rch.lp n.val).out
    (o.gather = none → exec (.rateRecordTimeout n) s = .next s) ∧
    (∀ a b l, o.gather = some (a, b, l) → (s.dtc - b).toNat < 1000000 → exec (.rateRecordTimeout n) s = .next s) ∧
    (∀ a b l, o.gather = some (a, b, l) → 1000000 ≤ (s.dtc - b).toNat → ∃ t, exec (.rateRecordTimeout n) s = .next t ∧
      (Sp.get {} t.rch.lp n.val).out.gather = none ∧ (Sp.get {} t.rch.lp n.val).out.det = o.det)) ∧
  (∀ (ini : Initiator) (v : Word) (s : State), Writable s PG.rch →
    let w := Wr.full ini R.RCH_CTL v
    let s1 := s.setReg PG.rch R.RCH_CTL (s.wouldBe PG.rch w)
    let lag := s.fld PG.rch R.RCH_LAG 0 10
    let profiles := fun n => s1.profileFails (s1.fld PG.rch (R.RCH_CH n) 12 4) = []
    (s.rchRun = false → s1.rchRun = true → (lag = 0 ∨ 1000 < lag) → ∃ t, exec (.rchRun ini v) s = .next t ∧ t.rchRun = false ∧
      t.bit PG.rch R.RCH_STS 1 = true ∧ t.bit PG.rch R.PG_IRQ_RAW 0 = true ∧ OnlyRegs s t ∧
      PageKept s t PG.rch [R.RCH_CTL, R.RCH_STS, R.PG_IRQ_RAW]) ∧
    (s.rchRun = false → s1.rchRun = true → 1 ≤ lag → lag ≤ 1000 → (∀ n, n ∈ s1.lpEnabled → profiles n) →
      (∀ m : Fin 16, s1.bit PG.rch (R.MP_CTL m) 11 = true → s1.mpFails m = []) → s1.rchLoad.1 ≤ 12800 * s1.rchLoad.2 →
      ∃ t, exec (.rchRun ini v) s = .next t ∧ t.rchRun = true ∧ t.rch.next = s.dtc.toNat / 1000 ∧ t.rch.runAt = s.dtc ∧
        t.rch.bins = [] ∧ t = { s with regs := t.regs, rch := t.rch }) ∧
    (s.rchRun = true → s1.rchRun = false → ∃ t, exec (.rchStop ini v) s = .next t ∧ t.rchRun = false ∧ t.rch.bins = [] ∧
      t.rch.lp = [] ∧ t.rfx.trips = [] ∧ t.rch.map = s.rch.map) ∧
    (let g := Wr.full ini R.RCH_MAP_GO v
     let p := baseOf (bf v 0 3)
     let a := (s.reg PG.rch R.RCH_MAP_ADDR).toNat
     let bad := s.spEn p = false ∨ a % 64 ≠ 0 ∨ s.inHbm a (2 * s.tileCount p) = false
     (s.rch.load.isSome = true → exec (.rchMapLoad ini v) s = .next (s.logWr PG.rch g .busy)) ∧
     (s.rch.load = none → s.itemFree .ordinary = false → exec (.rchMapLoad ini v) s = .next (s.ledgerFull PG.rch g)) ∧
     (s.rch.load = none → s.itemFree .ordinary = true → bad → ∃ t, exec (.rchMapLoad ini v) s = .next t ∧
       StartedAndEnded s t PG.rch (bf v 8 6) .failInvalid) ∧
     (s.rch.load = none → s.itemFree .ordinary = true → ¬ bad → ∃ t i, exec (.rchMapLoad ini v) s = .next t ∧
       t.rch.load = some (p, i, a) ∧ Opened s t PG.rch (bf v 8 6) i ∧ t.bit PG.rch R.RCH_STS 24 = true ∧
       PageKept s t PG.rch [R.RCH_STS]))) ∧
  (∀ s : State, s.rch.load = none → exec .rchMapLoadDone s = .next (s.staleReply PG.rch)) ∧
  (∀ (s : State) (p : Fin 8) (i a : Nat), s.rch.load = some (p, i, a) → Running s i → ∃ t st, exec .rchMapLoadDone s = .next t ∧
    t.rch.load = none ∧ t.bit PG.rch R.RCH_STS 24 = false ∧ (st = .ok ∨ st = .failPoison) ∧ Completed s t i st 0)

/-- COMPLETION_POST with nothing waiting changes nothing; the one completion waiting, its queue enabled with room, is written as the 16 bytes of R432 at the queue's next entry, the head moves on by one, it is counted for the queue and in all, and its item is free. LEDGER_TIMEOUT of an item that is no load and has been in flight for the
whole time ends it with FAIL_TIMEOUT, counted, with RAW bit 1; earlier it changes nothing. LDG_CTL_WRITE with TIMEOUT_EN and a time of 0 is refused and logged, and is else stored. CQ_ENABLE of a disabled queue stores the register with a good base and size, and otherwise reads
EN 0 with the queue's number in LDG_STS. -/
def Obligations.LedgerAndQueues : Prop :=
  (∀ s : State, s.ldg.waiting = [] → exec .completionPost s = .next s) ∧
  (∀ (s : State) (c : Completion) (q : Fin 64), s.alive PG.ldg = true → s.stopped PG.ldg = false → s.ldg.waiting = [c] →
    s.cqFor c = some q.val → s.cqRoom q = true →
    let head := s.fld PG.ldg (R.CQ_HEAD q) 0 32
    let size := s.fld PG.ldg (R.CQ_SIZE q) 0 17
    let phase := ((head + 2 ^ 32 - s.ldg.cqBase.get q) % 2 ^ 32 / max 1 size) % 2 = 0
    ∃ t, exec .completionPost s = .next t ∧
      t.mem = (s.writeNat none ((s.reg PG.ldg (R.CQ_BASE q)).toNat + 16 * (head % max 1 size)) 16
        (cplWords c (decide phase) (decide (q.val ≠ c.cq)) s.dtcLow)).mem ∧
      t.fld PG.ldg (R.CQ_HEAD q) 0 32 = (head + 1) % 2 ^ 32 ∧ Counted s t PG.ldg (R.CQ_CNT q) 0 32 1 ∧
      Counted s t PG.ldg R.LDG_CNT 0 32 1 ∧ t.ldg.waiting = [] ∧ ∀ i, i ∈ t.ldg.items → i.idx ≠ c.item) ∧
  (∀ (s : State) (n : Fin 16384) (i : Item), s.ldg.items.find? (fun i => i.idx % ledgerItems == n.val && !i.closed) = some i →
    let ms := s.fld PG.ldg R.LDG_CTL 16 16
    ((i.load = true ∨ s.bit PG.ldg R.LDG_CTL 0 = false ∨ (s.dtc - i.opened).toNat < ms * 1000000) →
      exec (.ledgerTimeout n) s = .next s) ∧
    (s.alive PG.ldg = true → s.stopped PG.ldg = false → i.load = false → s.bit PG.ldg R.LDG_CTL 0 = true →
      ms * 1000000 ≤ (s.dtc - i.opened).toNat → ∃ t, exec (.ledgerTimeout n) s = .next t ∧
        Completed s t i.idx .failTimeout 0 ∧ Counted s t PG.ldg R.LDG_CNT 32 16 1 ∧ t.bit PG.ldg R.PG_IRQ_RAW 1 = true ∧
        t = { s with regs := t.regs, ldg := t.ldg, res := t.res } ∧ PageKept s t PG.ldg [R.LDG_CNT, R.PG_IRQ_RAW])) ∧
  (∀ (ini : Initiator) (v : Word) (s : State), Writable s PG.ldg →
    let w := Wr.full ini R.LDG_CTL v
    let new := s.wouldBe PG.ldg w
    (bitAt new 0 = true → bf new 16 16 = 0 →
      exec (.ldgCtlWrite ini v) s = .next ((s.setBit PG.ldg R.LDG_STS 17 true).logWr PG.ldg w .refused)) ∧
    ((bitAt new 0 = false ∨ bf new 16 16 ≠ 0) → exec (.ldgCtlWrite ini v) s = .next (s.setReg PG.ldg R.LDG_CTL new))) ∧
  (∀ (ini : Initiator) (q : Fin 64) (v : Word) (s : State), Writable s PG.ldg → s.cqOn q = false →
    let new := s.wouldBe PG.ldg (.full ini (R.CQ_CTL q) v)
    bitAt new 0 = true →
    (s.cqGood q = true → ∃ t, exec (.cqEnable ini q v) s = .next t ∧ t.reg PG.ldg (R.CQ_CTL q) = new ∧
      t.ldg.cqBase.get q = s.fld PG.ldg (R.CQ_HEAD q) 0 32 ∧ t = { s with regs := t.regs, ldg := { s.ldg with cqBase := t.ldg.cqBase } } ∧
      PageKept s t PG.ldg [R.CQ_CTL q]) ∧
    (s.cqGood q = false → ∃ t, exec (.cqEnable ini q v) s = .next t ∧ t.cqOn q = false ∧ t.bit PG.ldg R.LDG_STS 19 = true ∧
      t.fld PG.ldg R.LDG_STS 24 6 = q.val ∧ t.bit PG.ldg R.PG_IRQ_RAW 2 = true ∧ OnlyRegs s t ∧
      PageKept s t PG.ldg [R.CQ_CTL q, R.LDG_STS, R.PG_IRQ_RAW]))

/-- WIN_MODE_ENABLE, a write of WIN_CTL with a mode on the page taking writes: while the port has a mode and is enabled it is logged with STATE; out of range it is refused with the port's number; else it is stored and one window opens, the cell of the port's grid that holds the present place. RING_ENABLE of a
disabled ring stores the register or refuses with the ring's number. WINDOW_CLOSE of a due position window that nothing holds up closes it, counted, and the port's next one is the oldest; without a ledger item its chain waits for one. WINDOW_CLOSE_BY_TIME at the deadline less the budget opens the next window at the
present position, under the same number. WINDOW_CHAIN_STEP_DONE lets a chain at its last step end, its item complete. BATCH_FLUSH_TIMEOUT writes a batch that has waited 100 µs, and changes nothing before. -/
def Obligations.WindowsChainsAndBatches : Prop :=
  (∀ (ini : Initiator) (p : Fin 8) (v : Word) (s : State), Writable s PG.res →
    let w := Wr.full ini (R.WIN_CTL p) v
    let new := s.wouldBe PG.res w
    (s.winMode p ≠ 0 → s.bit (PG.sp p) R.SP_CTL 0 = true → exec (.winModeEnable ini p v) s = .next (s.logWr PG.res w .state)) ∧
    (s.winMode p = 0 → bf new 0 2 ≠ 0 → s.winBad p new = true → ∃ t, exec (.winModeEnable ini p v) s = .next t ∧
      t.reg PG.res (R.WIN_CTL p) = s.reg PG.res (R.WIN_CTL p) ∧ t.bit PG.res R.RES_STS 0 = true ∧ t.fld PG.res R.RES_STS 8 5 = p.val ∧
      t.bit PG.res R.PG_IRQ_RAW 0 = true ∧ OnlyRegs s t ∧ PageKept s t PG.res [R.RES_STS, R.PG_IRQ_RAW]) ∧
    (s.winMode p = 0 → bf new 0 2 ≠ 0 → s.winBad p new = false → ∃ t x k, exec (.winModeEnable ini p v) s = .next t ∧
      t.reg PG.res (R.WIN_CTL p) = new ∧ t.wins p = [x] ∧ k = t.winIndexOf p (t.winNow p) ∧ x.k = low 32 k ∧
      x.start = t.winBoundary p k ∧ x.stop = t.winBoundary p (k + 1) ∧ x.openDtc = s.dtc ∧ x.due = false ∧ x.admitted = 0 ∧
      (∀ q, q ≠ p → t.wins q = s.wins q) ∧ t = { s with regs := t.regs, res := t.res, sched := t.sched } ∧
      PageKept s t PG.res [R.WIN_CTL p])) ∧
  (∀ (ini : Initiator) (k : Fin 32) (v : Word) (s : State), Writable s PG.res → s.bit PG.res (R.RING_CTL k) 0 = false →
    let new := s.wouldBe PG.res (.full ini (R.RING_CTL k) v)
    let lg := s.fld PG.res (R.RING_SIZE k) 0 5
    let base := (s.reg PG.res (R.RING_BASE k)).toNat
    let good := 16 ≤ lg ∧ lg ≤ 30 ∧ base % 4096 = 0 ∧ s.inHbm base (2 ^ lg) = true
    bitAt new 0 = true →
    (good → exec (.ringEnable ini k v) s = .next (s.setReg PG.res (R.RING_CTL k) new)) ∧
    (¬ good → ∃ t, exec (.ringEnable ini k v) s = .next t ∧ t.bit PG.res (R.RING_CTL k) 0 = false ∧
      t.bit PG.res R.RES_STS 1 = true ∧ t.fld PG.res R.RES_STS 8 5 = k.val ∧ OnlyRegs s t ∧
      PageKept s t PG.res [R.RES_STS, R.PG_IRQ_RAW])) ∧
  (∀ (p : Fin 8) (s : State),
    (s.wins p = [] → exec (.windowClose p) s = .next s ∧ exec (.windowCloseByTime p) s = .next s) ∧
    (∀ w r, s.wins p = w :: r → s.winMode p = 2 → w.due = true → s.running PG.res = true → s.fld PG.res R.PG_PWR 0 2 = 0 →
      s.winHeld p = false → s.winDrains p (w.drainAt.getD s.dtc) = false → s.bit PG.res R.MDL_STS 3 = false →
      ∃ t, exec (.windowClose p) s = .next t ∧ t.wins p = r ∧ t.res.prevClose.get p = some s.dtc ∧
        Counted s t PG.res R.RES_CNT1 0 32 1 ∧ Counted s t PG.res (R.WIN_CNT p) 0 32 1 ∧
        (s.itemFree .chain = false → s.res.chains.get p = [] → ∃ c, t.res.chains.get p = [c] ∧ c.item = none ∧ c.win.k = w.k)) ∧
    (∀ w f, (s.wins p).getLast? = some w → w.first = some f → w.due = false → s.winMode p = 2 → s.alive PG.res = true →
      before s.dtc (f + wOfNat (s.tDeliver p) - wOfNat (s.fld PG.res (R.WIN_CTL p) 32 17 * 1000)) = false →
      s.bit PG.res R.MDL_STS 3 = false → ∃ t n, exec (.windowCloseByTime p) s = .next t ∧ (t.wins p).getLast? = some n ∧ n.k = w.k ∧
        n.start = s.pos (s.winBase p) ∧ n.openDtc = s.dtc ∧ n.due = false) ∧
    (s.res.chains.get p = [] → exec (.windowChainStepDone p) s = .next s) ∧
    (∀ c i, s.res.chains.get p = [c] → c.item = some i → c.step = 6 → s.alive PG.res = true → s.stopped PG.res = false →
      ∃ t, exec (.windowChainStepDone p) s = .next t ∧ t.res.chains.get p = [] ∧ t.item? i = none) ∧
    (∀ c, s.res.chains.get p = [c] → c.item = none → s.itemFree .chain = false → exec (.windowChainStepDone p) s = .next s) ∧
    (∀ k : Fin 3, let b := s.batch p (batchKindOf k)
      ((b.entries = [] ∨ (s.dtc - b.first).toNat < 100000) → exec (.batchFlushTimeout p k) s = .next s) ∧
      (s.running PG.res = true → b.entries ≠ [] → 100000 ≤ (s.dtc - b.first).toNat →
        ∃ t, exec (.batchFlushTimeout p k) s = .next t ∧ (t.batch p (batchKindOf k)).entries = [] ∧ t.res.chains = s.res.chains)))

/-- MODEL_LOAD and MODEL_PATCH, writes of MDL_GO on the page taking writes: while a load or a patch runs, logged with BUSY; with no item left, refused; with length 0, at once OK_EMPTY; else an item opens, the loader holds address, length and kind, and LOADING sets. MODEL_LOAD_DONE without a load is a
stale reply. Of an image that does not lie in HBM the load fails with FORMAT; of one read whole but not formed as the spec says, with FORMAT; in both LOADING clears, PARTIAL stays, and memory keeps what reading left. A full load whose image passes every check and holds no section to write ends OK, LOADED set and the model's ID stored. -/
def Obligations.ModelLoad : Prop :=
  (∀ (ini : Initiator) (v : Word) (patch : Bool) (s : State), Writable s PG.res →
    let w := Wr.full ini R.MDL_GO (putBit v 8 patch)
    let c : Instr := if patch then .modelPatch ini v else .modelLoad ini v
    let busy := s.bit PG.res R.MDL_STS 1 = true ∨ s.bit PG.res R.MDL_STS 3 = true
    let len := s.fld PG.res R.MDL_LEN 0 40
    (busy → exec c s = .next (s.logWr PG.res w .busy)) ∧
    (¬ busy → s.itemFree .load = false → exec c s = .next (s.ledgerFull PG.res w)) ∧
    (¬ busy → s.itemFree .load = true → len = 0 → ∃ t, exec c s = .next t ∧ StartedAndEnded s t PG.res (bf v 0 6) .okEmpty) ∧
    (¬ busy → s.itemFree .load = true → len ≠ 0 → ∃ t i, exec c s = .next t ∧ Opened s t PG.res (bf v 0 6) i ∧
      t.res.mdl = { s.res.mdl with item := some i, patch, addr := (s.reg PG.res R.MDL_ADDR).toNat, len } ∧
      t.bit PG.res R.MDL_STS 1 = true ∧ PageKept s t PG.res [R.MDL_STS])) ∧
  (∀ s : State, s.res.mdl.item = none → exec .modelLoadDone s = .next (s.staleReply PG.res)) ∧
  (∀ (s : State) (i : Nat), s.res.mdl.item = some i → s.bit PG.res R.MDL_STS 1 = true → s.alive PG.res = true → Running s i →
    let m := s.res.mdl
    let q := s.readBytes m.addr m.len
    let im := q.1.bytes
    let l := imgSects im
    let s1 := q.2.extendM (sha512 (im.take (im.length - 256))) 4
    (s.inHbm m.addr m.len = false → ∃ t, exec .modelLoadDone s = .next t ∧ t.bit PG.res R.MDL_STS 1 = false ∧
      t.fld PG.res R.MDL_STS 8 8 = LoadWhy.format.code ∧ t.bit PG.res R.MDL_STS 2 = s.bit PG.res R.MDL_STS 2 ∧ t.res.mdl.item = none ∧
      Completed s t i LoadWhy.format.status 0 ∧ t.mem = s.mem ∧ PageKept s t PG.res [R.MDL_STS]) ∧
    (s.inHbm m.addr m.len = true → q.1.bad = false → q.2.ldg = s.ldg →
      (s.imgFormat im m.patch = false → q.2.imgFormat im m.patch = false → ∃ t, exec .modelLoadDone s = .next t ∧
        t.bit PG.res R.MDL_STS 1 = false ∧ t.fld PG.res R.MDL_STS 8 8 = LoadWhy.format.code ∧ t.res.mdl.item = none ∧
        Completed s t i LoadWhy.format.status 0 ∧ t.mem = q.2.mem) ∧
      (m.patch = false → q.2.imgFormat im false = true → targetsOk im l = true → q.2.imgSigned im = true → s1.loadChecks im l = none →
        (∀ x, x ∈ l → x.type = 6) → ∃ t, exec .modelLoadDone s = .next t ∧ t.fld PG.res R.MDL_STS 0 4 = 1 ∧
          t.fld PG.res R.MDL_STS 8 8 = 0 ∧ t.reg PG.res R.MDL_ID = wOfNat (imgNat im 16 4) ∧ t.res.mdl.item = none ∧
          t.res.mdl.refs = imgRefs im l ∧ Completed s t i .ok 0 ∧ t.mem = q.2.mem)))

/-- HBM_RECAL changes nothing. MERGE_FLUSH with no entry of 128 ns or more changes nothing; the one such entry leaves the merge buffer, discarded uncounted while HBM is offline, else written as a full word, counted in GATHERED, where its mask is full, and counted in RMW where it is not. BUCKET_LEAK lowers LEVEL of an enabled bucket by 1, not below 0, once its interval has passed, and changes nothing else.
BUCKET_ENABLE, a write of BKT_CFG on the page taking writes: EN with a zero threshold or interval is refused with its number; with both it is stored and the leak counts from now; of an enabled bucket only a write that clears EN is taken, and it clears LEVEL. HBM_TEMP_READ stores the temperature and HOT; at 100 °C
or more CRIT, RAW bit 3 and LEVEL 3. THROTTLE_UPDATE changes LEVEL by 1 at most once per 1 ms. -/
def Obligations.MemoryUpkeep : Prop :=
  (∀ (c : Fin 16) (s : State), exec (.hbmRecal c) s = .next s) ∧
  (∀ (pc : Fin 32) (s : State),
    let old := fun e : MergeEntry => decide (128 ≤ (s.dtc - e.first).toNat)
    let l := s.mem.merge.get pc
    let rest := l.filter fun e => !old e
    (l.filter old = [] → exec (.mergeFlush pc) s = .next s) ∧
    (∀ e, l.filter old = [e] → s.hbmOffline = true → exec (.mergeFlush pc) s = .next (s.setMerge pc rest)) ∧
    (∀ e, l.filter old = [e] → s.hbmOffline = false → e.bytes.length = 32 → ∃ t, exec (.mergeFlush pc) s = .next t ∧
      t.mem = ((s.setMerge pc rest).storeWord e.word (e.bytes.map Prod.snd) none).mem ∧ t = { s with regs := t.regs, mem := t.mem } ∧
      Counted s t (memPage (pcOf e.word)) R.MEM_MRG_CNT 0 24 1 ∧ PageKept s t (memPage (pcOf e.word)) [R.MEM_MRG_CNT]) ∧
    (∀ e, l.filter old = [e] → s.hbmOffline = false → e.bytes.length ≠ 32 → ∃ t, exec (.mergeFlush pc) s = .next t ∧ t.mem.merge.get pc = rest ∧
      Counted s t (memPage (pcOf e.word)) R.MEM_MRG_CNT 24 24 1)) ∧
  (∀ (b : Fin 39) (s : State),
    let ms := s.fld PG.mras (R.BKT_CFG b) 16 16
    let on := s.alive PG.mras = true ∧ s.bit PG.mras (R.BKT_CFG b) 32 = true ∧ ms ≠ 0 ∧ ms * 1000000 ≤ (s.dtc - s.mem.bktAt.get b).toNat
    (¬ on → exec (.bucketLeak b) s = .next s) ∧
    (on → ∃ t, exec (.bucketLeak b) s = .next t ∧
      t.fld PG.mras (R.BKT_STS b) 0 16 = s.fld PG.mras (R.BKT_STS b) 0 16 - 1 ∧
      t.mem = { s.mem with bktAt := s.mem.bktAt.set b (s.mem.bktAt.get b + wOfNat (ms * 1000000)) } ∧
      t = { s with regs := t.regs, mem := t.mem } ∧ PageKept s t PG.mras [R.BKT_STS b]) ∧
    ∀ (ini : Initiator) (v : Word), Writable s PG.mras →
      let w := Wr.full ini (R.BKT_CFG b) v
      let new := s.wouldBe PG.mras w
      (s.bit PG.mras (R.BKT_CFG b) 32 = true → bitAt new 32 = true → exec (.bucketEnable ini b v) s = .next (s.logWr PG.mras w .state)) ∧
      (s.bit PG.mras (R.BKT_CFG b) 32 = true → bitAt new 32 = false → ∃ t, exec (.bucketEnable ini b v) s = .next t ∧
        t.reg PG.mras (R.BKT_CFG b) = new ∧ t.fld PG.mras (R.BKT_STS b) 0 16 = 0 ∧ OnlyRegs s t ∧
        PageKept s t PG.mras [R.BKT_CFG b, R.BKT_STS b]) ∧
      (s.bit PG.mras (R.BKT_CFG b) 32 = false → bitAt new 32 = true → (bf new 0 16 = 0 ∨ bf new 16 16 = 0) →
        ∃ t, exec (.bucketEnable ini b v) s = .next t ∧ t.bit PG.mras (R.BKT_CFG b) 32 = false ∧ t.bit PG.mras R.MRAS_STS 0 = true ∧
          t.fld PG.mras R.MRAS_STS 8 6 = b.val ∧ OnlyRegs s t ∧ PageKept s t PG.mras [R.BKT_CFG b, R.MRAS_STS]) ∧
      (s.bit PG.mras (R.BKT_CFG b) 32 = false → bitAt new 32 = true → bf new 0 16 ≠ 0 → bf new 16 16 ≠ 0 →
        exec (.bucketEnable ini b v) s = .next { s.setReg PG.mras (R.BKT_CFG b) new with
          mem := { s.mem with bktAt := s.mem.bktAt.set b s.dtc } }) ∧
      (s.bit PG.mras (R.BKT_CFG b) 32 = false → bitAt new 32 = false →
        exec (.bucketEnable ini b v) s = .next (s.setReg PG.mras (R.BKT_CFG b) new))) ∧
  (∀ (x : BitVec 8) (s : State),
    (s.alive (PG.mem 0) = false → exec (.hbmTempRead x) s = .next s ∧ exec .throttleUpdate s = .next s) ∧
    (s.alive (PG.mem 0) = true → ∃ t, exec (.hbmTempRead x) s = .next t ∧ t.fld (PG.mem 0) R.MEM_TEMP 0 8 = x.toNat ∧
      t.bit (PG.mem 0) R.MEM_TEMP 16 = decide (85 < x.toInt) ∧
      (x.toInt < 100 → OnlyRegs s t ∧ PageKept s t (PG.mem 0) [R.MEM_TEMP] ∧
        t.fld (PG.mem 0) R.MEM_TEMP 8 2 = s.fld (PG.mem 0) R.MEM_TEMP 8 2 ∧ t.bit (PG.mem 0) R.MEM_TEMP 17 = s.bit (PG.mem 0) R.MEM_TEMP 17) ∧
      (100 ≤ x.toInt → t.fld (PG.mem 0) R.MEM_TEMP 8 2 = 3 ∧ t.bit (PG.mem 0) R.MEM_TEMP 17 = true ∧
        t.bit (PG.mem 0) R.PG_IRQ_RAW 3 = true ∧ PageKept s t (PG.mem 0) [R.MEM_TEMP, R.MEM_THR_CNT, R.PG_IRQ_RAW]))) ∧
  (∀ s : State, s.alive (PG.mem 0) = true →
    let temp := sgn 8 (s.fld (PG.mem 0) R.MEM_TEMP 0 8)
    let level := s.fld (PG.mem 0) R.MEM_TEMP 8 2
    ((s.dtc - s.mem.thrAt).toNat < 1000000 → exec .throttleUpdate s = .next s) ∧
    (1000000 ≤ (s.dtc - s.mem.thrAt).toNat → ∃ t, exec .throttleUpdate s = .next t ∧
      ((s.thrOn : Int) ≤ temp → t.fld (PG.mem 0) R.MEM_TEMP 8 2 = min 3 (level + 1)) ∧
      (temp ≤ (s.thrOn : Int) - s.thrHyst → t.fld (PG.mem 0) R.MEM_TEMP 8 2 = level - 1) ∧
      ((s.thrOn : Int) - s.thrHyst < temp → temp < s.thrOn → t = s) ∧
      t.fld (PG.mem 0) R.MEM_TEMP 0 8 = s.fld (PG.mem 0) R.MEM_TEMP 0 8 ∧ PageKept s t (PG.mem 0) [R.MEM_TEMP, R.MEM_THR_CNT]))

/-- SCRUB and FILL, writes of SCB_GO with OP 0 and 1 on the page taking writes: while BUSY the write is logged; with no ledger item left it is refused; with SCB_LEN 0 it completes at once with OK_EMPTY, ZERO_LEN set and the summary 0; a bad range completes with FAIL_INVALID, BAD and WHY; else BUSY sets, an item of page and queue
opens, the operation is under way and SCB_POS is the start; memory does not change. -/
def Obligations.ScrubAndFillStart : Prop :=
  ∀ (ini : Initiator) (v : Word) (s : State), Writable s PG.scb →
    let a := s.fld PG.scb R.SCB_ADDR 0 40
    let n := s.fld PG.scb R.SCB_LEN 0 40
    let why := s.scbWhy a n
    let starts := fun (c : Instr) (op : Bool) =>
      (s.bit PG.scb R.SCB_STS 0 = true → exec c s = .next (s.logWr PG.scb (Wr.full ini R.SCB_GO (putBit v 0 op)) .busy)) ∧
      (s.bit PG.scb R.SCB_STS 0 = false → s.itemFree .ordinary = false →
        exec c s = .next (s.ledgerFull PG.scb (Wr.full ini R.SCB_GO (putBit v 0 op)))) ∧
      (s.bit PG.scb R.SCB_STS 0 = false → s.itemFree .ordinary = true → n = 0 → ∃ t, exec c s = .next t ∧
        StartedAndEnded s t PG.scb (bf v 8 6) .okEmpty ∧ t.bit PG.scb R.SCB_STS 1 = true ∧
        t.reg PG.scb R.SCB_WORDS = 0 ∧ t.reg PG.scb R.SCB_SUM1 = 0 ∧ t.reg PG.scb R.SCB_SUM2 = 0 ∧ t.reg PG.scb R.SCB_FIRST = 0 ∧
        t.mem = s.mem ∧ PageKept s t PG.scb [R.SCB_STS, R.SCB_WORDS, R.SCB_SUM1, R.SCB_SUM2, R.SCB_FIRST]) ∧
      (s.bit PG.scb R.SCB_STS 0 = false → s.itemFree .ordinary = true → n ≠ 0 → why ≠ 0 → ∃ t, exec c s = .next t ∧
        StartedAndEnded s t PG.scb (bf v 8 6) .failInvalid ∧ t.bit PG.scb R.SCB_STS 2 = true ∧ t.fld PG.scb R.SCB_STS 4 4 = why ∧
        t.mem = s.mem ∧ PageKept s t PG.scb [R.SCB_STS]) ∧
      (s.bit PG.scb R.SCB_STS 0 = false → s.itemFree .ordinary = true → n ≠ 0 → why = 0 → ∃ t i, exec c s = .next t ∧
        Opened s t PG.scb (bf v 8 6) i ∧ t.mem = { s.mem with scbItem := some i, scbFill := op } ∧ t.bit PG.scb R.SCB_STS 0 = true ∧
        t.reg PG.scb R.SCB_POS = wOfNat a ∧ PageKept s t PG.scb [R.SCB_STS, R.SCB_POS])
    starts (.scrub ini v) false ∧ starts (.fill ini v) true

/-- SCB_DONE of a page that waits for none is a stale reply: it is discarded, and counted where a reset has left one on its way; with the page not running it changes nothing; else the item completes with OK, or in HBM with FAIL_POISON where its own gathered write met poison, BUSY clears, RAW bit 0 sets, SCB_POS is the end;
a SCRUB stores the number of its words; a FILL's DETAIL is its words, and of the surface store every word filled then holds its half of SCB_PAT with no bad byte. -/
def Obligations.ScrubAndFillDone : Prop :=
  (∀ s : State, s.mem.scbItem = none → exec .scbDone s = .next (s.staleReply PG.scb) ∧
    (s.ldg.orphans.any (fun o => o.1 == PG.scb) = false → exec .scbDone s = .next s) ∧
    (s.ldg.orphans.any (fun o => o.1 == PG.scb) = true → ∃ t, exec .scbDone s = .next t ∧ Counted s t PG.scb R.PG_ERR_LOG1 48 16 1 ∧
      t.ldg.orphans.length + 1 = s.ldg.orphans.length ∧ t = { s with regs := t.regs, ldg := t.ldg } ∧ PageKept s t PG.scb [R.PG_ERR_LOG1])) ∧
  (∀ s : State, s.mem.scbItem ≠ none → s.running PG.scb = false → exec .scbDone s = .next s) ∧
  (∀ (s : State) (i : Nat) (m : ScbMem), s.mem.scbItem = some i → Running s i → s.running PG.scb = true →
    s.scbMem (s.fld PG.scb R.SCB_ADDR 0 40) = some m →
    let a := s.fld PG.scb R.SCB_ADDR 0 40
    let n := s.fld PG.scb R.SCB_LEN 0 40 / m.word
    ∃ t d st, exec .scbDone s = .next t ∧ Completed s t i st d ∧ (st = .ok ∨ st = .failPoison) ∧ (m ≠ .hbm → st = .ok) ∧
      t.bit PG.scb R.SCB_STS 0 = false ∧ t.bit PG.scb R.PG_IRQ_RAW 0 = true ∧
      t.mem.scbItem = none ∧ t.reg PG.scb R.SCB_POS = wOfNat (a + n * m.word) ∧
      (s.mem.scbFill = true → d = n % 2 ^ 32) ∧
      (s.mem.scbFill = true → m = .surface → a % 4 = 0 → ∀ j, j < n →
        let o := (a - 0x50_0000_0000) / 4 + j
        let pat := s.reg PG.scb R.SCB_PAT
        t.surfWord o = (if (a + 4 * j) % 8 = 0 then pat.setWidth 32 else (pat >>> 32).setWidth 32) ∧ Sp.get 0 t.sfs.bad o = 0) ∧
      (s.mem.scbFill = false → t.reg PG.scb R.SCB_WORDS = wOfNat n))

/-- A write of WTH_CTL on the page taking writes: EN 0 to 1 with a zero PAIR_WAIT_US or MATCH_T leaves EN 0 with EN_BAD; else the role is STANDBY and bit 31 of both LOC_ID counters is 1; EN 1 to 0 makes the role OFF; while EN stays 1 it is logged. YIELD of an active device with a heartbeat of a standby within 4 µs makes it STANDBY, counted,
with no unsent datagram; else it only sets YIELD_REFUSED. ALIVE_IN_EDGE in CLAIM withdraws, counted, for 20 or 60 µs; else it only notes the edge. PEER_LOST clears PEER_HB with its bit and cause once the peer is silent, and a standby that sees no edge and runs no back-off claims. CLAIM_WINDOW_END in CLAIM after 0.5 or 1 µs makes the device
ACTIVE, counted as a takeover of an active peer; earlier or in another role it changes nothing. BACKOFF_END ends the back-off, and not before its time. -/
def Obligations.TwinRoles : Prop :=
  (∀ (ini : Initiator) (v : Word) (c : Instr) (s : State), Writable s PG.wth → c = .wthEnable ini v ∨ c = .wthDisable ini v →
    let w := Wr.full ini R.WTH_CTL v
    let new := s.wouldBe PG.wth w
    let en := s.bit PG.wth R.WTH_CTL 0
    (en = true → bitAt new 0 = true → exec c s = .next (s.logWr PG.wth w .state)) ∧
    (en = true → bitAt new 0 = false → ∃ t, exec c s = .next t ∧ t.reg PG.wth R.WTH_CTL = new ∧ t.role = 0 ∧ OnlyRegs s t ∧
      PageKept s t PG.wth [R.WTH_CTL, R.WTH_STS]) ∧
    (en = false → bitAt new 0 = true → (bf new 16 16 = 0 ∨ bf new 32 16 = 0) → ∃ t, exec c s = .next t ∧
      t.bit PG.wth R.WTH_CTL 0 = false ∧ t.bit PG.wth R.WTH_STS 14 = true ∧ t.role = s.role ∧ OnlyRegs s t ∧
      PageKept s t PG.wth [R.WTH_CTL, R.WTH_STS]) ∧
    (en = false → bitAt new 0 = true → bf new 16 16 ≠ 0 → bf new 32 16 ≠ 0 → ∃ t, exec c s = .next t ∧
      t.reg PG.wth R.WTH_CTL = new ∧ t.role = 1 ∧ t.bit PG.loc R.LOC_ID 31 = true ∧ t.bit PG.loc R.LOC_ID 63 = true ∧
      t.twin = { s.twin with since := s.dtc } ∧ t = { s with regs := t.regs, twin := t.twin } ∧
      RegsKept s t [(PG.wth, R.WTH_CTL), (PG.wth, R.WTH_STS), (PG.loc, R.LOC_ID)]) ∧
    (en = false → bitAt new 0 = false → exec c s = .next (s.setReg PG.wth R.WTH_CTL new))) ∧
  (∀ (ini : Initiator) (s : State), Writable s PG.wth →
    let fresh := ∃ x, s.twin.hbAt = some x ∧ (s.dtc - x).toNat < 4000
    (s.role = 3 ∧ fresh ∧ s.twin.peerRole = 1 → ∃ t, exec (.yield ini) s = .next t ∧ t.role = 1 ∧
      Counted s t PG.wth R.WTH_CNT0 16 16 1 ∧ (∀ q, (t.net.get q).sendq = []) ∧ t.ldg = s.ldg ∧
      (s.linkUp = false → ∃ a b, t.twin.queue = s.twin.queue ++ [(5, [1, a, b])]) ∧
      RegsKept s t [(PG.wth, R.WTH_STS), (PG.wth, R.WTH_CNT0), (PG.loc, R.LOC_ID)]) ∧
    (¬ (s.role = 3 ∧ fresh ∧ s.twin.peerRole = 1) → exec (.yield ini) s = .next (s.setBit PG.wth R.WTH_STS 15 true))) ∧
  (∀ s : State,
    (∃ t, exec .aliveInEdge s = .next t ∧ t.twin.aliveAt = some s.dtc ∧
      (s.role = 2 → t.role = 1 ∧ Counted s t PG.wth R.WTH_CNT0 32 16 1 ∧
        t.twin.backoff = some (s.dtc + (if s.twinSel then 60000 else 20000))) ∧
      (s.role ≠ 2 → t = { s with twin := { s.twin with aliveAt := some s.dtc } })) ∧
    (let lost := s.bit PG.wth R.WTH_STS 3 = true ∧ s.peerSilent = true
     let claims := s.role = 1 ∧ s.peerSilent = true ∧ s.aliveStatic = true ∧ s.backoffOver = true
     (¬ lost → ¬ claims → exec .peerLost s = .next s) ∧
     (lost → ¬ claims → ∃ t, exec .peerLost s = .next t ∧ t.bit PG.wth R.WTH_STS 3 = false ∧ t.bit PG.wth R.WTH_STS 10 = true ∧
       t.bit PG.wth R.PG_IRQ_RAW 2 = true ∧ t.role = s.role ∧ OnlyRegs s t ∧ PageKept s t PG.wth [R.WTH_STS, R.PG_IRQ_RAW]) ∧
     (claims → ∃ t, exec .peerLost s = .next t ∧ t.role = 2 ∧ t.twin = { s.twin with claimAt := s.dtc, backoff := none } ∧
       t.bit PG.wth R.WTH_STS 3 = false)) ∧
    (let n := if s.twinSel then 1000 else 500
     ((s.role ≠ 2 ∨ (s.dtc - s.twin.claimAt).toNat < n) → exec .claimWindowEnd s = .next s) ∧
     (s.role = 2 → n ≤ (s.dtc - s.twin.claimAt).toNat → ∃ t, exec .claimWindowEnd s = .next t ∧ t.role = 3 ∧
       (s.twin.peerRole = 3 → Counted s t PG.wth R.WTH_CNT0 0 16 1 ∧ t.bit PG.wth R.WTH_STS 8 = true ∧
         t.bit PG.wth R.PG_IRQ_RAW 0 = true ∧ t.twin.takeovers = s.twin.takeovers + 1) ∧
       (s.twin.peerRole ≠ 3 → t.twin = s.twin))) ∧
    (s.backoffOver = false → exec .backoffEnd s = .next s) ∧
    (s.backoffOver = true → ∃ t, exec .backoffEnd s = .next t ∧ t.twin.backoff = none ∧
      (s.role = 1 ∧ s.peerSilent = true ∧ s.aliveStatic = true → t.role = 2) ∧
      (¬ (s.role = 1 ∧ s.peerSilent = true ∧ s.aliveStatic = true) → t = { s with twin := { s.twin with backoff := none } })))

/-- WOETH_LINK_DOWN clears LINK_UP, counted, with RAW bit 6; with the link down it changes nothing. WOETH_LINK_UP of a powered page sets LINK_UP. HEARTBEAT_SEND with the link up puts one HEARTBEAT frame with its CRC on the wire: the DTC, the role, OUT_DRIVEN and takeovers, the own next IDs, and the peer's last heartbeat; TIME_SEND of a running base one TIME
frame: the base, its state, its count of discontinuity records (modulo 256, the model's choice, log entry 223), the DTC and the position; of a stopped base, or with the link down, nothing. ALIAS_EXPIRE drops the mirrored deltas that have waited 10 us and counts them; CMP_ENTRY_TIMEOUT drops the window entries that have waited 10 ms, counts each as a difference and sets LEDGER_DIFF with RAW bit 5. -/
def Obligations.WoethLinkAndSends : Prop :=
  (∀ (lane : Fin 4) (s : State),
    (s.bit PG.wth R.WTH_STS 2 = false → exec (.woethLinkDown lane) s = .next s) ∧
    (s.bit PG.wth R.WTH_STS 2 = true → ∃ t, exec (.woethLinkDown lane) s = .next t ∧ t.bit PG.wth R.WTH_STS 2 = false ∧
      Counted s t PG.wth R.WTH_CNT2 32 16 1 ∧ t.bit PG.wth R.PG_IRQ_RAW 6 = true ∧ t.role = s.role ∧ OnlyRegs s t ∧
      PageKept s t PG.wth [R.WTH_STS, R.WTH_CNT2, R.PG_IRQ_RAW])) ∧
  (∀ s : State,
    (s.alive PG.wth = false → exec .woethLinkUp s = .next s) ∧
    (s.alive PG.wth = true → ∃ t, exec .woethLinkUp s = .next t ∧ t.linkUp = true ∧ t.twin.resync = true ∧
      (s.twin.queue = [] → t.twin = { s.twin with resync := true }) ∧ t = { s with regs := t.regs, twin := t.twin } ∧
      PageKept s t PG.wth [R.WTH_STS])) ∧
  (∀ s : State, ∃ t, exec .heartbeatSend s = .next t ∧ t = { s with twin := { s.twin with wire := t.twin.wire } } ∧
    let f := twinFrame 1 0 s.twin.rseq [s.dtc.toNat, s.role + b2n s.outDriven <<< 2 + s.twin.takeovers.toNat <<< 8,
      (s.reg PG.loc R.LOC_ID).toNat, s.twin.hbW0.toNat, (s.twin.hbAt.getD 0).toNat, 0, 0, 0]
    (s.linkUp = true → t.twin.wire = [f ++ leBytes 8 (crc32c f)]) ∧ (s.linkUp = false → t.twin.wire = [])) ∧
  (∀ (p : Fin 8) (s : State),
    (s.ptbRunning p = false ∨ s.linkUp = false → exec (.timeSend p) s = .next s) ∧
    (s.ptbRunning p = true → s.linkUp = true →
      let f := twinFrame 2 0 s.twin.rseq [p.val + s.ptbSt p <<< 3 + (s.twin.discs.get p % 256) <<< 8, s.dtc.toNat, (s.pos p).toNat]
      exec (.timeSend p) s = .next { s with twin := { s.twin with wire := s.twin.wire ++ [f ++ leBytes 8 (crc32c f)] } })) ∧
  (∀ s : State, ∃ t, exec .aliasExpire s = .next t ∧ t.twin.pend = s.twin.pend.filter (fun d => before s.dtc d.until_) ∧
    Counted s t PG.wth R.WTH_CNT1 32 16 (s.twin.pend.filter fun d => atOrAfter s.dtc d.until_).length ∧
    t = { s with regs := t.regs, twin := t.twin } ∧ PageKept s t PG.wth [R.WTH_CNT1]) ∧
  (∀ s : State, ∃ t, exec .cmpEntryTimeout s = .next t ∧ t.twin.cmp = s.twin.cmp.filter (fun e => before s.dtc e.2) ∧
    Counted s t PG.wth R.WTH_CNT1 48 16 (s.twin.cmp.filter fun e => atOrAfter s.dtc e.2).length ∧
    ((∃ e, e ∈ s.twin.cmp ∧ atOrAfter s.dtc e.2 = true) → t.bit PG.wth R.WTH_STS 13 = true ∧ t.bit PG.wth R.PG_IRQ_RAW 5 = true) ∧
    t = { s with regs := t.regs, twin := t.twin } ∧ PageKept s t PG.wth [R.WTH_STS, R.WTH_CNT1, R.PG_IRQ_RAW])

/-- A received HEARTBEAT, TIME, LOCUS, LEDGER, ARB or NAK frame: with the link down it changes nothing; one with a bad CRC or form only counts in CRC_ERR and is answered by a NAK; of the sequenced ones a gap only sends a NAK, and a repeat changes nothing but what its ACK frees. A good HEARTBEAT notes the peer's time, role and IDs and may change the role by R489.
A TIME frame whose state differs from the own base's sets PTB_DIVERGE, and no base changes. A LEDGER entry stores the window as closed or SENT. An ARB handover makes a standby claim, any other ARB changes nothing. A NAK is counted and resends from its SEQ on. A LOCUS frame changes no track of a device that is no standby. -/
def Obligations.WoethFramesReceived : Prop :=
  (∀ (f : List Byte) (ok : Bool) (s : State),
    let frames := fun (c : Instr) (ty : Nat) =>
      let nak := twinFrame 6 0 s.twin.rseq [(s.twin.rseq + 1) % 2 ^ 16]
      (s.linkUp = false → exec c s = .next s) ∧
      (s.linkUp = true → (ok = false ∨ ∀ r, twinParse f = some r → r.type ≠ ty) → ∃ t, exec c s = .next t ∧
        Counted s t PG.wth R.WTH_CNT0 48 16 1 ∧ t.twin = { s.twin with wire := s.twin.wire ++ [nak ++ leBytes 8 (crc32c nak)] } ∧
        t = { s with regs := t.regs, twin := t.twin } ∧ PageKept s t PG.wth [R.WTH_CNT0]) ∧
      (∀ r, s.linkUp = true → ok = true → twinParse f = some r → r.type = ty → ty = 3 ∨ ty = 4 ∨ ty = 5 →
        s.twin.resync = false → r.seq ≠ (s.twin.rseq + 1) % 2 ^ 16 → ∃ t, exec c s = .next t ∧ t = { s with twin := t.twin } ∧
          t.twin.rseq = s.twin.rseq ∧ (∀ x, x ∈ t.twin.replay → x ∈ s.twin.replay ∨ s.twin.queue ≠ []) ∧
          (sdiff 16 r.seq s.twin.rseq ≤ 0 → s.twin.queue = [] → t.twin.wire = s.twin.wire))
    frames (.heartbeat f ok) 1 ∧ frames (.time f ok) 2 ∧ frames (.locus f ok) 3 ∧ frames (.ledger f ok) 4 ∧
      frames (.arb f ok) 5 ∧ frames (.nak f ok) 6) ∧
  (∀ (f : List Byte) (s : State) (r : TwinRx), s.linkUp = true → twinParse f = some r →
    let w := fun i => wOfNat (r.words.getD i 0)
    let inOrder := s.twin.resync = true ∨ r.seq = (s.twin.rseq + 1) % 2 ^ 16
    (r.type = 1 → ∃ t, exec (.heartbeat f true) s = .next t ∧ t.twin.hbAt = some s.dtc ∧ t.twin.hbW0 = w 0 ∧
      t.twin.peerRole = bf (w 1) 0 2 ∧ t.reg PG.wth R.WTH_PEER_ID = w 2 ∧ t.bit PG.wth R.WTH_STS 3 = true ∧
      t.bit PG.wth R.WTH_STS 6 = (bf (w 1) 0 2 == 3) ∧
      (s.role = 1 → bf (w 1) 0 2 = 1 → s.twinSel = false → s.aliveStatic = true → s.backoffOver = true → t.role = 2) ∧
      (s.role = 2 → 2 ≤ bf (w 1) 0 2 → t.role = 1 ∧ Counted s t PG.wth R.WTH_CNT0 32 16 1) ∧
      (s.role = 3 → bf (w 1) 0 2 = 3 → s.twinSel = true → t.role = 1 ∧ t.bit PG.wth R.WTH_STS 11 = true ∧
        t.bit PG.wth R.PG_IRQ_RAW 3 = true) ∧
      (s.role = 0 → t.role = 0)) ∧
    (r.type = 2 → ∃ t, exec (.time f true) s = .next t ∧ t.ptb = s.ptb ∧ t.dtc = s.dtc ∧
      (s.ptbSt (baseOf (bf (w 0) 0 3)) ≠ bf (w 0) 3 2 → t.bit PG.wth R.WTH_STS 12 = true ∧ t.bit PG.wth R.PG_IRQ_RAW 4 = true)) ∧
    (r.type = 3 → inOrder → s.role = 0 ∨ s.role = 3 → ∃ t, exec (.locus f true) s = .next t ∧ t.twin.rseq = r.seq ∧
      t.twin.resync = false ∧ t = { s with twin := t.twin }) ∧
    (r.type = 4 → inOrder → s.role = 0 ∨ s.role = 3 → r.words.length = 2 → ∃ t, exec (.ledger f true) s = .next t ∧
      t.twin.rseq = r.seq ∧ t.fld PG.wth (R.WTH_P_SENT (bf (w 0) 32 3)) (if bitAt (w 0) 35 then 0 else 32) 32 = bf (w 0) 0 32 ∧
      t = { s with regs := t.regs, twin := t.twin } ∧ PageKept s t PG.wth [R.WTH_P_SENT (bf (w 0) 32 3)]) ∧
    (r.type = 5 → inOrder → ((r.words.getD 0 0).testBit 0 = false → ∃ t, exec (.arb f true) s = .next t ∧ t.twin.rseq = r.seq ∧
        t = { s with twin := t.twin }) ∧
      ((r.words.getD 0 0).testBit 0 = true → s.role = 1 → ∃ t, exec (.arb f true) s = .next t ∧ t.role = 2 ∧ t.twin.backoff = none)) ∧
    (r.type = 6 → ∃ t, exec (.nak f true) s = .next t ∧ Counted s t PG.wth R.WTH_CNT2 48 16 1 ∧
      t = { s with regs := t.regs, twin := t.twin } ∧ PageKept s t PG.wth [R.WTH_CNT2] ∧
      (s.twin.queue = [] → t.twin.wire = s.twin.wire ++
        (t.twin.replay.filter fun x => decide (0 ≤ sdiff 16 x.1 (nfld (r.words.getD 0 0) 0 16))).map
          (fun x => x.2 ++ leBytes 8 (crc32c x.2)))))

/-- ENTER_WATCH, ENTER_SLUMBER and ENTER_DORMANT on the page taking writes, the host domain on: a failing check sets REFUSED, REF_WHY and RAW bit 0 and nothing else; a passing one starts the handshake over the pages of R505. WAKE from core 0 in WATCH starts the exit with cause SW; else it changes nothing. PAGE_ANSWER: at ACK the page stops and
the next is asked; at NACK the log, the count, RAW bit 0 and ROLLBACK follow; at DEFER only the page's PG_PWR changes. DEFER_TIMEOUT acts after PWC_DEFER_MAX, as ACK with FORCE and as NACK TIMEOUT without. ROLLBACK_DONE returns to the state before, with the pages that WATCH had stopped. ENTRY_STEP_DONE takes the next step, abandons the entry at a wake event in the first three
steps, and ends W4 in WATCH. -/
def Obligations.PowerEntry : Prop :=
  (∀ (ini : Initiator) (c : Instr) (target : Nat) (s : State), Writable s PG.pwc →
    (c = .enterWatch ini ∧ target = 1) ∨ (c = .enterSlumber ini ∧ target = 2) ∨ (c = .enterDormant ini ∧ target = 3) →
    (s.hostOff = true → exec c s = .next s ∧ exec (.wake ini) s = .next s) ∧
    (s.hostOff = false → s.refWhy target ini ≠ 0 → ∃ t, exec c s = .next t ∧ t.bit PG.pwc R.PWC_STS 8 = true ∧
      t.fld PG.pwc R.PWC_STS 9 3 = s.refWhy target ini ∧ t.bit PG.pwc R.PG_IRQ_RAW 0 = true ∧ OnlyRegs s t ∧
      PageKept s t PG.pwc [R.PWC_STS, R.PG_IRQ_RAW]) ∧
    (s.hostOff = false → s.refWhy target ini = 0 → ∃ t, exec c s = .next t ∧ t.pwr.phase = .entering ∧ t.pwr.target = target ∧
      t.pwr.step = 1 ∧ t.pwr.todo = s.reqOrder target ∧ t.pwr.acked = [] ∧ t.pwr.wake = [] ∧ t.bit PG.pwc R.PWC_STS 3 = true ∧
      t.fld PG.pwc R.PWC_STS 4 2 = target ∧ t = { s with regs := t.regs, pwr := t.pwr }) ∧
    (s.hostOff = false → (s.pwr.phase = .watch ∧ ini = .hostCore 0) → ∃ t, exec (.wake ini) s = .next t ∧ t.pwr.phase = .exiting ∧
      t.pwr.target = 1 ∧ t.pwr.step = 1 ∧ t.pwr.wake = [.sw] ∧ t.reg PG.pwc R.PWC_WAKE_CAUSE = 0x1010 ∧
      PageKept s t PG.pwc [R.PWC_WAKE_CAUSE]) ∧
    (s.hostOff = false → ¬ (s.pwr.phase = .watch ∧ ini = .hostCore 0) → exec (.wake ini) s = .next s)) ∧
  (∀ (ready : Bool) (s : State),
    ((s.pwr.phase ≠ .entering ∨ s.pwr.todo = []) → exec (.pageAnswer ready) s = .next s ∧ exec .deferTimeout s = .next s) ∧
    (∀ pg k r, s.pwr.phase = .entering → s.pwr.todo = (pg, k) :: r →
      let waits := s.fld pg R.PG_PWR 2 2 ≠ 3 ∨ s.deferUs < s.fld PG.pwc R.PWC_DEFER_MAX 0 20
      let stops := fun t : State => t.pwr.todo = r ∧ t.pwr.acked = pg :: s.pwr.acked ∧ t.pwr.phase = .entering ∧
        ((∀ x, x ∈ r → x.1 ≠ pg) → t.stopped pg = true)
      let refuses := fun (t : State) (why : Nat) => t.pwr.phase = .rollback ∧ t.pwr.todo = [] ∧ t.pwr.wake = [] ∧
        t.reg PG.pwc R.PWC_ENTRY_LOG = wOfNat (pg + why <<< 16 + s.pwr.target <<< 20 + k <<< 24 + s.dtcLow <<< 32) ∧
        Counted s t PG.pwc R.PWC_CNT 0 16 1 ∧ t.bit PG.pwc R.PG_IRQ_RAW 0 = true ∧ t.bit PG.pwc R.PWC_STS 3 = false ∧
        t.bit PG.pwc R.PWC_STS 6 = true ∧ (s.pwr.wake ≠ [] → Counted s t PG.pwc R.PWC_ABORT_CNT 0 32 1) ∧
        t = { s with regs := t.regs, pwr := t.pwr }
      (s.answer pg ready = .ack → ∃ t, exec (.pageAnswer ready) s = .next t ∧ stops t) ∧
      (∀ why, s.answer pg ready = .nack why → ∃ t, exec (.pageAnswer ready) s = .next t ∧ refuses t why) ∧
      (s.answer pg ready = .defer → ∃ t, exec (.pageAnswer ready) s = .next t ∧ t.fld pg R.PG_PWR 2 2 = 3 ∧ OnlyRegs s t ∧
        PageKept s t pg [R.PG_PWR]) ∧
      (waits → exec .deferTimeout s = .next s) ∧
      (¬ waits → s.bit PG.pwc R.PWC_CTL 0 = true → ∃ t, exec .deferTimeout s = .next t ∧ stops t) ∧
      (¬ waits → s.bit PG.pwc R.PWC_CTL 0 = false → ∃ t, exec .deferTimeout s = .next t ∧ refuses t 1))) ∧
  (∀ s : State,
    let back := fun t : State => t.pwr.phase = (if s.pwr.fromWatch then .watch else .active) ∧ t.pwr.todo = [] ∧ t.pwr.acked = s.pwr.held ∧
      t.pwr.wake = []
    (s.pwr.phase ≠ .rollback → exec .rollbackDone s = .next s) ∧
    (s.pwr.phase = .rollback → ∃ t, exec .rollbackDone s = .next t ∧ back t ∧ t.bit PG.pwc R.PWC_STS 6 = false) ∧
    (s.pwr.phase ≠ .entering → exec .entryStepDone s = .next s) ∧
    (s.pwr.phase = .entering → s.pwr.step = 1 → s.pwr.todo ≠ [] → exec .entryStepDone s = .next s) ∧
    (s.pwr.phase = .entering → (s.pwr.step = 1 ∧ s.pwr.todo = []) ∨ s.pwr.step = 2 ∨ s.pwr.step = 3 → s.pwr.wake = [] →
      ∃ t, exec .entryStepDone s = .next t ∧ t.pwr.step = s.pwr.step + 1 ∧ t.pwr.phase = .entering ∧ t = { s with pwr := t.pwr }) ∧
    (s.pwr.phase = .entering → (s.pwr.step = 1 ∧ s.pwr.todo = []) ∨ s.pwr.step = 2 ∨ s.pwr.step = 3 → s.pwr.wake ≠ [] →
      ∃ t, exec .entryStepDone s = .next t ∧ back t ∧ t.bit PG.pwc R.PWC_STS 3 = false ∧
        (s.res.disc = [] → s.loc.deltas = [] → Counted s t PG.pwc R.PWC_ABORT_CNT 0 32 1)) ∧
    (s.pwr.phase = .entering → s.pwr.step = 4 → s.pwr.target = 1 → s.pwr.wake = [] → ∃ t, exec .entryStepDone s = .next t ∧
      t.pwr.phase = .watch ∧ t.coreClk = 800 ∧ t.fld PG.pwc R.PWC_STS 0 6 = 1 ∧ t.bit PG.pwc R.PG_IRQ_RAW 2 = true ∧
      t.bit PG.pcie R.PCIE_STS 1 = false ∧ t.mem = s.mem) ∧
    (s.pwr.phase = .entering → s.pwr.step = 4 → s.pwr.target ≠ 1 → ∃ t, exec .entryStepDone s = .next t ∧ t.pwr.step = 5 ∧
      t = { s with pwr := { s.pwr with step := 5 } }))

/-- A wake event (WAKE_PIN, MGMT_WAKE, a reached alarm, CORE0_HBM_WAKE), its source enabled, in WATCH, SLUMBER or DORMANT starts the exit from that state with its cause; while the device is ACTIVE it changes nothing; in a rollback it is only counted; in an entry it waits. A source that is not enabled changes nothing. MGMT_STATUS_READ with the host domain off
answers the AON status bytes. EXIT_STEP_DONE takes X1 to X2 with every PWR_EN, X2 to X3 with REFCLK_EN, ends an exit from WATCH in ACTIVE, counted, with RAW bit 1, and changes nothing without an exit. REGULATOR_TIMEOUT lets two attempts wait 20 ms; the third, OSCILLATOR_TIMEOUT and LOGIC_TIMEOUT fail the exit: DORMANT, every rail off, FAIL with
its cause. MEMORY_TIMEOUT in X3 sets MEM and OFFLINE and goes on to X4. -/
def Obligations.PowerWakeAndExit : Prop :=
  (∀ (p : Fin 8) (s : State),
    let reached := ∃ a, s.pwr.alarms.find? (fun a => a.1 == p && atOrAfter s.dtc a.2) = some a
    let starts := fun (c : Instr) (m : Nat) => ∀ k : Nat, (s.pwr.phase = .watch ∧ k = 1) ∨ (s.pwr.phase = .slumber ∧ k = 2) ∨
        (s.pwr.phase = .dormant ∧ k = 3) → ∃ t, exec c s = .next t ∧ t.pwr.phase = .exiting ∧ t.pwr.target = k ∧ t.pwr.step = 1 ∧
      t.pwr.startAt = s.dtc ∧ t.reg PG.pwc R.PWC_WAKE_CAUSE = wOfNat (k <<< 12 + m) ∧ PageKept s t PG.pwc [R.PWC_WAKE_CAUSE]
    let counts := fun c : Instr => s.pwr.phase = .rollback → ∃ t, exec c s = .next t ∧ Counted s t PG.pwc R.PWC_ABORT_CNT 0 32 1 ∧
      PageKept s t PG.pwc [R.PWC_ABORT_CNT]
    (s.bit PG.pwc R.PWC_WAKE_EN 0 = false → exec .wakePin s = .next s) ∧
    (s.bit PG.pwc R.PWC_WAKE_EN 0 = true → starts .wakePin 1 ∧ counts .wakePin ∧ (s.pwr.phase = .active → exec .wakePin s = .next s) ∧
      (s.pwr.phase = .entering → exec .wakePin s = .next { s with pwr := { s.pwr with wake := s.pwr.wake ++ [.pin] } })) ∧
    (s.bit PG.pwc R.PWC_WAKE_EN 2 = true → starts .mgmtWake 4 ∧ counts .mgmtWake) ∧
    (∃ t, exec .mgmtWake s = .next t ∧ (s.hostOff = true → t.reply = .nack) ∧ (s.hostOff = false → t.reply = s.reply) ∧
      (s.bit PG.pwc R.PWC_WAKE_EN 2 = false → t = { s with reply := t.reply })) ∧
    (¬ reached → exec (.alarmWake p) s = .next s) ∧
    (reached → s.alarmWakes p = true → starts (.alarmWake p) (2 + p.val <<< 8)) ∧
    (reached → s.alarmWakes p = false → exec (.alarmWake p) s =
      .next { s with pwr := { s.pwr with alarms := s.pwr.alarms.filter fun a => a.1 != p } }) ∧
    (s.pwr.phase = .watch → starts .core0HbmWake 8) ∧
    (s.pwr.phase ≠ .watch → ¬ (s.pwr.phase = .entering ∧ s.pwr.target = 1) → exec .core0HbmWake s = .next s) ∧
    (s.hostOff = true → exec .mgmtStatusRead s = .next { s with reply := .bytes s.aonStatus }) ∧
    (s.hostOff = false → exec .mgmtStatusRead s = .next s)) ∧
  (∀ (tr : Train) (low : BitVec 7) (mhz : BitVec 8) (failed : List (Fin 16)) (s : State),
    let fails := fun (t : State) (why : Nat) => t.pwr.phase = .dormant ∧ t.pwr.pwrEn = 0 ∧ t.pwr.refclk = false ∧ t.pwr.failed = true ∧
      t.off = poweredPages ∧ t.bit PG.pwc R.PWC_WAKE_FAIL 0 = true ∧ t.fld PG.pwc R.PWC_WAKE_FAIL 1 2 = why ∧
      t.fld PG.pwc R.PWC_STS 0 7 = 0 ∧ t.faultN = true
    (s.pwr.phase ≠ .exiting → exec (.exitStepDone tr) s = .next s ∧ exec (.regulatorTimeout low) s = .next s ∧
      exec .regulatorRetry s = .next s ∧ exec (.oscillatorTimeout mhz) s = .next s ∧ exec (.memoryTimeout failed) s = .next s ∧
      exec .logicTimeout s = .next s) ∧
    (s.pwr.phase = .exiting → s.pwr.retry = false →
      (s.pwr.step = 1 → exec (.exitStepDone tr) s = .next { s with pwr := { s.pwr with pwrEn := BitVec.allOnes 7, step := 2 } }) ∧
      (s.pwr.step = 2 → exec (.exitStepDone tr) s = .next { s with pwr := { s.pwr with refclk := true, step := 3 } }) ∧
      (s.pwr.step = 3 → s.pwr.target = 1 ∨ s.pwr.target = 0 → ∃ t, exec (.exitStepDone tr) s = .next t ∧ t.pwr.step = 4 ∧
        (s.pwr.target = 1 → t = { s with pwr := t.pwr }) ∧ (s.pwr.target = 0 → t.fld (PG.mem 0) R.MEM_CFG 0 2 = tr.rate ∧ ∀ c : Fin 16, t.bit (PG.mem c) R.MEM_STS 0 = true ∧
          t.bit (PG.mem c) R.MEM_STS 1 = false)) ∧
      (s.pwr.step = 4 → s.pwr.target = 1 → ∃ t, exec (.exitStepDone tr) s = .next t ∧ t.pwr.phase = .active ∧ t.pwr.step = 0 ∧
        t.pwr.acked = [] ∧ t.pwr.failed = false ∧ t.fld PG.pwc R.PWC_STS 0 7 = 0 ∧ t.bit PG.pwc R.PG_IRQ_RAW 1 = true ∧
        t.coreClk = clkOf (s.fld PG.pwc R.PWC_DVFS 0 2) ∧ (s.pwr.failed = true → t.bit PG.pwc R.PG_IRQ_RAW 3 = true)) ∧
      (s.pwr.step = 1 → s.pwr.attempts + 1 < 3 → exec (.regulatorTimeout low) s =
        .next { s with pwr := { s.pwr with attempts := s.pwr.attempts + 1, retry := true, reqAt := s.dtc } }) ∧
      (s.pwr.step = 1 → 3 ≤ s.pwr.attempts + 1 → s.off = poweredPages → ∃ t, exec (.regulatorTimeout low) s = .next t ∧ fails t 1 ∧
        t.fld PG.pwc R.PWC_WAKE_FAIL 4 7 = low.toNat ∧ t.fld PG.pwc R.PWC_WAKE_FAIL 12 4 = 3) ∧
      (s.pwr.step ≠ 1 → exec (.regulatorTimeout low) s = .next s)) ∧
    (s.pwr.phase = .exiting → s.pwr.retry = true → exec (.exitStepDone tr) s = .next s ∧ exec (.regulatorTimeout low) s = .next s ∧
      ((s.dtc - s.pwr.reqAt).toNat < 20000000 → exec .regulatorRetry s = .next s) ∧
      (20000000 ≤ (s.dtc - s.pwr.reqAt).toNat → exec .regulatorRetry s = .next { s with pwr := { s.pwr with retry := false } })) ∧
    (s.pwr.phase = .exiting →
      (s.pwr.step = 2 → s.off = poweredPages → ∃ t, exec (.oscillatorTimeout mhz) s = .next t ∧ fails t 2 ∧
        t.fld PG.pwc R.PWC_WAKE_FAIL 16 8 = mhz.toNat) ∧
      (s.pwr.step ≠ 2 → exec (.oscillatorTimeout mhz) s = .next s) ∧
      (s.pwr.step = 3 → ∃ t, exec (.memoryTimeout failed) s = .next t ∧ t.pwr.step = 4 ∧ t.pwr.memFail = failed ∧ t.hbmOffline = true ∧
        t.bit PG.pwc R.PWC_WAKE_FAIL 3 = true ∧ t.faultN = true) ∧
      (s.pwr.step ≠ 3 → exec (.memoryTimeout failed) s = .next s) ∧
      (s.pwr.step = 4 → s.off = poweredPages → ∃ t, exec .logicTimeout s = .next t ∧ fails t 3) ∧
      (s.pwr.step ≠ 4 → exec .logicTimeout s = .next s)))

/-- DVFS_REQUEST on the page taking writes: a reserved point, or one below a loaded model's need, only sets DVFS_REFUSED with RAW bit 4; a lower or equal point acts at once; a higher one waits 100 µs for DVFS_RAISE_WAIT. RAIL_FAULT of an output that is on, outside X1, leaves the device in DORMANT with every rail off and FAIL, the output's bit in PG_LOW; THERMTRIP leaves it
tripped. Neither changes a device before its straps are sampled. POWER_ON_RESET returns every part of the device to reset but the flash, the pins and its counters. STRAP_SAMPLE, once after it, stores the straps and starts the exit. -/
def Obligations.ClockRailsAndReset : Prop :=
  (∀ (ini : Initiator) (v : Word) (s : State), Writable s PG.pwc → s.hostOff = false →
    let pt := bf (s.wouldBe PG.pwc (.full ini R.PWC_DVFS v)) 0 2
    let now := s.fld PG.pwc R.PWC_STS 13 2
    let bad := 2 < pt ∨ (s.bit PG.res R.MDL_STS 0 = true ∧ pt < s.res.mdl.minClk)
    (bad → ∃ t, exec (.dvfsRequest ini v) s = .next t ∧ t.bit PG.pwc R.PWC_STS 12 = true ∧ t.bit PG.pwc R.PG_IRQ_RAW 4 = true ∧
      OnlyRegs s t ∧ PageKept s t PG.pwc [R.PWC_STS, R.PG_IRQ_RAW]) ∧
    (¬ bad → now < pt → s.pwr.phase ≠ .watch → ∃ t, exec (.dvfsRequest ini v) s = .next t ∧ t.reg PG.pwc R.PWC_DVFS = wOfNat pt ∧
      t.pwr = { s.pwr with vid := pt, raise := some (pt, s.dtc) } ∧ t.coreClk = s.coreClk ∧ PageKept s t PG.pwc [R.PWC_DVFS]) ∧
    (¬ bad → pt ≤ now → s.pwr.phase ≠ .watch → ∃ t, exec (.dvfsRequest ini v) s = .next t ∧ t.reg PG.pwc R.PWC_DVFS = wOfNat pt ∧
      t.fld PG.pwc R.PWC_STS 13 2 = pt ∧ t.coreClk = clkOf pt ∧ t.pwr = { s.pwr with vid := pt, raise := none } ∧
      PageKept s t PG.pwc [R.PWC_DVFS, R.PWC_STS])) ∧
  (∀ s : State,
    (s.pwr.raise = none → exec .dvfsRaiseWait s = .next s) ∧
    (∀ pt x, s.pwr.raise = some (pt, x) → (s.dtc - x).toNat < 100000 → exec .dvfsRaiseWait s = .next s) ∧
    (∀ pt x, s.pwr.raise = some (pt, x) → pt < 4 → 100000 ≤ (s.dtc - x).toNat → ∃ t, exec .dvfsRaiseWait s = .next t ∧
      t.fld PG.pwc R.PWC_STS 13 2 = pt ∧ t.pwr = { s.pwr with raise := none } ∧
      t.coreClk = (if s.pwr.phase = .active then clkOf pt else s.coreClk) ∧ PageKept s t PG.pwc [R.PWC_STS])) ∧
  (∀ (n : Fin 7) (s : State),
    let idle := s.pwr.phase = .porst ∨ s.pwr.phase = .tripped
    (idle ∨ (s.pwr.phase = .exiting ∧ s.pwr.step = 1) ∨ s.pwr.pwrEn.getLsbD n = false → exec (.railFault n) s = .next s) ∧
    (¬ (idle ∨ (s.pwr.phase = .exiting ∧ s.pwr.step = 1) ∨ s.pwr.pwrEn.getLsbD n = false) → s.pwr.phase ≠ .entering →
      s.isOff PG.ldg = false → ∃ t, exec (.railFault n) s = .next t ∧ t.pwr.phase = .dormant ∧ t.pwr.pwrEn = 0 ∧ t.pwr.failed = true ∧
      t.off = poweredPages ∧ t.bit PG.pwc R.PWC_WAKE_FAIL 0 = true ∧ t.bit PG.pwc R.PWC_WAKE_FAIL (4 + n.val) = true ∧
      t.fld PG.pwc R.PWC_STS 0 7 = 0) ∧
    (idle → exec .thermtrip s = .next s) ∧
    (¬ idle → ∃ t, exec .thermtrip s = .next t ∧ t.pwr.phase = .tripped ∧ t.thermTripN = true ∧ t.pwr.pwrEn = 0 ∧ t.pwr.refclk = false ∧
      (s.isOff PG.ldg = false → t.off = poweredPages))) ∧
  (∀ (x : BitVec 4) (s : State),
    (s.dbgLevel = 0 → exec .powerOnReset s = .next { State.reset with
      part := s.part, free := s.free, pending := s.pending, mem := { flash := s.mem.flash, flashLog := s.mem.flashLog },
      sgr := { counters := s.sgr.counters }, host := { pins := s.host.pins },
      enc := s.enc.map fun x => { a := x.a, b := x.b, z := x.z } }) ∧
    (∃ t, exec .powerOnReset s = .next t ∧ t.pwr = State.reset.pwr ∧ t.dtc = 0 ∧ t.off = poweredPages ∧ t.ldg = State.reset.ldg ∧
      ∀ q off, off < 0x10000 → (q ≠ PG.sgr ∨ off ≠ R.SGR_DBG_LOG) → t.reg q off = regReset q off) ∧
    (s.pwr.phase ≠ .porst → exec (.strapSample x) s = .next s) ∧
    (s.pwr.phase = .porst → ∃ t, exec (.strapSample x) s = .next t ∧ t.reg PG.pwc R.PWC_STRAP = wOfNat x.toNat ∧ t.pwr.phase = .exiting ∧
      t.pwr.target = 0 ∧ t.pwr.step = 1 ∧ t = { s with regs := t.regs, pwr := t.pwr } ∧
      PageKept s t PG.pwc [R.PWC_STRAP, R.PWC_WAKE_CAUSE]))

/-- BOOT_STAGE_0 outside step X4 of a cold exit changes nothing; in it every page lock opens, SEALED clears and core 0 is held; with no ENROLL region the boot stops with BOOT_ERR 2, with an unusable one with 1, with counters that do not authenticate with 7; with a selected firmware image, and no RETURN marker, BOOT_STAGE is 1, the SVN is the
image's, its hash is kept and the chain holds one extend; with none selected it stops with 3. BOOT_STAGE_1 before stage 1 changes nothing; with no record it stops with 4, with a bad one with 5; with a good one the lifecycle is OWNED, and with a loader that is written and read back in HBM BOOT_STAGE is 2 and core 0 starts at ENTRY;
with no loader it stops with 6, with one not read back with 8. RETURN_ERASE_DONE of a running erase leaves HBM all 0, the
lifecycle RETURNED and level RETURN open. CHALLENGE_EXPIRE drops a challenge 60 s old. -/
def Obligations.SaggarBootAndReturn : Prop :=
  (∀ (authentic : Bool) (s : State),
    let here := s.pwr.phase = .exiting ∧ s.pwr.step = 4 ∧ s.coldPending = true
    (¬ here → exec (.bootStage0 authentic) s = .next s) ∧
    (here → ∃ t, exec (.bootStage0 authentic) s = .next t ∧ t.bit PG.sgr R.SGR_STS 6 = false ∧ t.host.hold = true ∧
      t.dbgLevel = 0 ∧ t.sgr.counters = s.sgr.counters ∧ t.sgr.chal = none ∧
      (∀ i, i < 64 → t.reg PG.sgr (R.SGR_LOCK i) = BitVec.allOnes 64) ∧
      (s.enrollBytes = none → t.fld PG.sgr R.SGR_STS 16 4 = 2 ∧ t.lifecycle = 0) ∧
      (∀ e, s.enrollBytes = some e → (∀ r, s.recordBytes = some r → isMarker r = false) →
        match Config.pufSeed e with
        | none => t.fld PG.sgr R.SGR_STS 16 4 = 1 ∧ t.lifecycle = 0
        | some x => t.lifecycle = 1 ∧ t.sgr.seed = some x ∧
          (authentic = false → t.fld PG.sgr R.SGR_STS 16 4 = 7) ∧
          (authentic = true → s.sgr.counters.get 0 ≤ 65535 → s.sgr.counters.get 1 ≤ 65535 →
            match s.bootSelect 3 1 32704 [Config.firmwareKey 0, Config.firmwareKey 1] (s.sgr.counters.get 0) with
            | none => t.fld PG.sgr R.SGR_STS 8 3 = 0 ∧ t.fld PG.sgr R.SGR_STS 16 4 = 3
            | some im => t.fld PG.sgr R.SGR_STS 8 3 = 1 ∧ t.fld PG.sgr R.SGR_STS 16 4 = 0 ∧ t.fld PG.sgr R.SGR_SVN 0 16 = im.svn ∧
              t.sgr.fwHash = sha512 im.body ∧ t.fld PG.sgr R.SGR_MEAS_CNT 0 32 = 1)))) ∧
  (∀ s : State,
    let here := s.pwr.phase = .active ∧ s.alive PG.sgr = true ∧ s.fld PG.sgr R.SGR_STS 8 3 = 1 ∧ s.fld PG.sgr R.SGR_STS 16 4 = 0
    (¬ here → exec .bootStage1 s = .next s) ∧
    (here → s.recordBytes = none → ∃ t, exec .bootStage1 s = .next t ∧ t.fld PG.sgr R.SGR_STS 16 4 = 4 ∧
      Counted s t PG.sgr R.SGR_MEAS_CNT 0 32 1 ∧ OnlyRegs s t) ∧
    (∀ r, here → s.recordBytes = some r → isMarker r = false → r.all (· == 0xFF) = false → ∃ t, exec .bootStage1 s = .next t ∧
      if recOk s.idh r = true ∧ s.sgr.counters.get 2 ≤ recSeq r then
        t.lifecycle = 2 ∧ t.sgr.record = some r ∧
        match s.bootSelect 4 2 (16 * 2 ^ 20) [recOwner r] (s.sgr.counters.get 1) with
        | none => t.fld PG.sgr R.SGR_STS 8 3 = 1 ∧ t.fld PG.sgr R.SGR_STS 16 4 = 6
        | some im =>
          let u := ((s.setFld PG.sgr R.SGR_STS 0 3 2).extendM (sha512 r) 2).sgrUpd fun x => { x with record := some r }
          let rd := (u.writeBytes none im.load im.payload).readBytes im.load im.payload.length
          if s.hbmOffline = false ∧ s.inHbm im.load im.payload.length = true ∧ rd.1.bad = false ∧ rd.1.bytes = im.payload then
            t.fld PG.sgr R.SGR_STS 8 3 = 2 ∧ t.host.hold = false ∧ t.host.start.get 0 = im.entry ∧ t.mem = rd.2.mem
          else t.fld PG.sgr R.SGR_STS 8 3 = 1 ∧ t.fld PG.sgr R.SGR_STS 16 4 = 8
      else t.fld PG.sgr R.SGR_STS 16 4 = 5 ∧ Counted s t PG.sgr R.SGR_MEAS_CNT 0 32 1 ∧ OnlyRegs s t)) ∧
  (∀ s : State,
    (s.sgr.erase = none → exec .returnEraseDone s = .next s) ∧
    (∀ item, s.sgr.erase = some item → ∃ t, exec .returnEraseDone s = .next t ∧ t.lifecycle = 3 ∧ t.dbgLevel = 2 ∧
      t.bit PG.sgr R.SGR_STS 7 = false ∧ t.bit PG.sgr R.PG_IRQ_RAW 3 = true ∧ t.sgr.erase = none ∧ t.sgr.chal = none ∧ t.sgr.record = none ∧
      t.host.hold = true ∧ (∀ a, a < s.part.hbmBytes → t.mem.byte? a = some 0) ∧ (∀ i, item = some i → t.item? i = none)) ∧
    (s.sgr.chal = none → exec .challengeExpire s = .next s) ∧
    (∀ c, s.sgr.chal = some c →
      ((s.dtc - c.at_).toNat < 60000000000 → exec .challengeExpire s = .next s) ∧
      (60000000000 ≤ (s.dtc - c.at_).toNat → s.sgr.erase = none →
        exec .challengeExpire s = .next { s with sgr := { s.sgr with chal := none } })))

/-- A command by SGR_CMD on the page taking writes: while BUSY it is logged; with no item left it is refused; with a bad argument range it ends with FAIL_INVALID, with poison in it FAIL_POISON; else it ends with the status that its OP gives, its output written if it fits, and nothing changed but FAIL_INVALID if it does not; a RESPOND that opens RETURN goes on as an erase.
By the mailbox the commands of R541 answer with their status and output, others FAIL_INVALID; in WATCH ASLEEP, without power nothing; STATUS answers SGR_STS; ENROLL outside UNENROLLED is denied. EXTEND chains the digest and label and counts; SEAL clears every lock bit and sets SEALED; LOCKSET is denied once sealed without a session; QUOTE and GET_ID
are denied in UNENROLLED, DERIVE and RAISE_FLOOR outside OWNED, CLOSE without a session, RESPOND without a challenge; a CHALLENGE is kept until answered. No command lowers a floor counter, and every denial counts with RAW bit 0. -/
def Obligations.SaggarCommands : Prop :=
  (∀ (via : SgrVia) (c : Instr) (op : Nat) (s : State),
    (c, op) ∈ [(Instr.getId via, 1), (.quote via, 2), (.extend via, 3), (.seal via, 4), (.lockset via, 5), (.derive via, 6),
      (.challenge via, 7), (.respond via, 8), (.close via, 9), (.setOwner via, 10), (.raiseFloor via, 11)] →
    (∀ ini cq, via = .host ini cq → Writable s PG.sgr →
      let w := Wr.full ini R.SGR_CMD (wOfNat (op + cq.val <<< 8))
      let a := (s.reg PG.sgr R.SGR_ARG).toNat
      let n := s.fld PG.sgr R.SGR_ARG_LEN 0 16
      let o := (s.reg PG.sgr R.SGR_OUT).toNat
      let takes := op ≠ 1 ∧ op ≠ 4 ∧ op ≠ 9
      let j := s.openItem PG.sgr cq.val 0 false
      let r := if takes then j.2.readBytes a n else ({ bytes := [], bad := false }, j.2)
      let go := s.bit PG.sgr R.SGR_STS 7 = false ∧ s.itemFree .ordinary = true
      let badArg := takes ∧ (a % 64 ≠ 0 ∨ s.inHbm a n = false)
      (s.bit PG.sgr R.SGR_STS 7 = true → exec c s = .next (s.logWr PG.sgr w .busy)) ∧
      (s.bit PG.sgr R.SGR_STS 7 = false → s.itemFree .ordinary = false → exec c s = .next (s.ledgerFull PG.sgr w)) ∧
      (go → badArg → ∃ t, exec c s = .next t ∧ StartedAndEnded s t PG.sgr cq.val .failInvalid ∧ t.regs = s.regs ∧ t.sgr = s.sgr) ∧
      (go → ¬ badArg → r.2.ldg = j.2.ldg →
        (r.1.bad = true → ∃ t, exec c s = .next t ∧ StartedAndEnded s t PG.sgr cq.val .failPoison ∧ t.sgr = s.sgr) ∧
        (r.1.bad = false →
          match r.2.cmdRun op r.1.bytes with
          | (none, _) => ∃ t, exec c s = .next t ∧ Opened s t PG.sgr cq.val j.1 ∧ t.sgr.erase = some (some j.1) ∧
            t.bit PG.sgr R.SGR_STS 7 = true
          | (some x, u) =>
          let fits := x.out.length ≤ s.fld PG.sgr R.SGR_OUT_LEN 0 16 ∧ o % 64 = 0 ∧ s.inHbm o x.out.length = true
          (x.out = [] → ∃ t, exec c s = .next t ∧ StartedAndEnded s t PG.sgr cq.val x.status ∧ t.regs = u.regs ∧ t.sgr = u.sgr ∧
            t.mem = u.mem) ∧
          (x.out ≠ [] → fits → ∃ t st, exec c s = .next t ∧ StartedAndEnded s t PG.sgr cq.val st ∧
            (st = x.status ∨ st = x.status.worse .failPoison) ∧ t.sgr = u.sgr ∧ t.mem = (u.writeBytes (some j.1) o x.out).mem) ∧
          (x.out ≠ [] → ¬ fits → ∃ t, exec c s = .next t ∧ StartedAndEnded s t PG.sgr cq.val .failInvalid ∧ t.regs = r.2.regs ∧
            t.sgr = s.sgr ∧ t.mem = r.2.mem)))) ∧
    (∀ arg, via = .tap arg →
      (s.pwr.phase = .slumber ∨ s.pwr.phase = .dormant → ∃ t, exec c s = .next t ∧ t.reply = .none ∧ t.regs = s.regs ∧ t.sgr = s.sgr) ∧
      (s.pwr.phase = .watch → s.stopped PG.sgr = true → ∃ t, exec c s = .next t ∧ t.reply = .asleep ∧ t.regs = s.regs) ∧
      (s.pwr.phase = .active → s.stopped PG.sgr = false → s.bit PG.sgr R.SGR_STS 7 = true → ∃ t, exec c s = .next t ∧ t.reply = .busy) ∧
      (s.pwr.phase = .active → s.stopped PG.sgr = false → s.bit PG.sgr R.SGR_STS 7 = false →
        let s1 : State := { s with host := { s.host with tapIdle := false } }
        (op ∉ [1, 7, 8, 9, 10] → ∃ t, exec c s = .next t ∧ t.reply = .tap Status.failInvalid.code [] ∧ t.sgr = s.sgr ∧ t.regs = s.regs) ∧
        (op ∈ [1, 7, 8, 9, 10] → s.lifecycle ≠ 0 → ∀ x u, s1.cmdRun op arg = (some x, u) → ∃ t, exec c s = .next t ∧
          t.reply = .tap x.status.code x.out ∧ t.sgr = u.sgr ∧ t.regs = u.regs)))) ∧
  (∀ s : State, s.pwr.phase = .active → s.stopped PG.sgr = false → s.bit PG.sgr R.SGR_STS 7 = false →
    (∃ t, exec .status s = .next t ∧ t.reply = .tap 0 (leBytes 8 (s.reg PG.sgr R.SGR_STS).toNat) ∧ t.regs = s.regs) ∧
    (s.lifecycle ≠ 0 → ∃ t, exec .enroll s = .next t ∧ t.reply = .tap Status.failDenied.code [] ∧ Counted s t PG.sgr R.SGR_CNT 0 16 1) ∧
    (s.lifecycle = 0 → ∃ t out, exec .enroll s = .next t ∧ t.reply = .tap 0 out ∧ t.regs = s.regs)) ∧
  (∀ (op : Nat) (arg : List Byte) (u : State),
    let q := u.cmdRun op arg
    let denied := q.1 = some { status := .failDenied } ∧ Counted u q.2 PG.sgr R.SGR_CNT 0 16 1 ∧ q.2.bit PG.sgr R.PG_IRQ_RAW 0 = true
    (∀ k, u.sgr.counters.get k ≤ q.2.sgr.counters.get k) ∧
    (op = 3 → arg.length = 72 → 2 ^ 63 ≤ leNat (arg.drop 64) → q.1 = some { status := .ok } ∧ q.2.chainM = sha512 (u.chainM ++ arg) ∧
      Counted u q.2 PG.sgr R.SGR_MEAS_CNT 0 32 1) ∧
    (op = 4 → q.1 = some { status := .ok } ∧ q.2.bit PG.sgr R.SGR_STS 6 = true ∧ ∀ i, i < 64 → q.2.reg PG.sgr (R.SGR_LOCK i) = 0) ∧
    (op = 5 → u.bit PG.sgr R.SGR_STS 6 = true → u.dbgLevel = 0 → denied ∧ ∀ i, i < 64 → q.2.reg PG.sgr (R.SGR_LOCK i) = u.reg PG.sgr (R.SGR_LOCK i)) ∧
    (op = 5 → u.bit PG.sgr R.SGR_STS 6 = false → arg.length = 512 → q.1 = some { status := .ok } ∧
      ∀ i, i < 64 → q.2.reg PG.sgr (R.SGR_LOCK i) = wOfNat (leNat ((arg.drop (8 * i)).take 8))) ∧
    (op = 2 → u.lifecycle ≠ 0 → 1 ≤ arg.length → arg.length ≤ 64 → (∃ out, q.1 = some { status := .ok, out }) ∧
      Counted u q.2 PG.sgr R.SGR_CNT 16 16 1) ∧
    (op = 6 → u.lifecycle = 2 → arg.length = 32 → (∃ out, q.1 = some { status := .ok, out }) ∧ q.2 = u) ∧
    (op = 7 → u.lifecycle = 2 → u.sgr.refuse = none → leNat (arg.take 1) % 4 = 1 ∨ leNat (arg.take 1) % 4 = 2 →
      ∃ b, q.1 = some { status := .ok, out := b } ∧ q.2.sgr.chal = some { block := b, level := leNat (arg.take 1) % 4, at_ := u.dtc }) ∧
    (op = 9 → u.dbgLevel ≠ 0 → q.1 = some { status := .ok } ∧ q.2.dbgLevel = 0 ∧ q.2.bit PG.sgr R.PG_IRQ_RAW 2 = true) ∧
    ((op = 1 ∨ op = 2) → u.lifecycle = 0 → denied) ∧ ((op = 6 ∨ op = 11) → u.lifecycle ≠ 2 → denied) ∧
    (op = 9 → u.dbgLevel = 0 → denied) ∧ (op = 8 → u.sgr.chal = none → denied))

/-- HART_START on the page taking writes starts every named hart but hart 0 that does not run, at its HOST_BOOT, and logs the write where it names hart 0 or a running one. MACHINE_TIMER_INTERRUPT notes whether mtime has reached the hart's compare. PLIC_CLAIM answers a pending, enabled source of the highest priority above 0 and claims it,
or 0; PLIC_COMPLETE of an enabled source ends its claim. PCIE_LINK_CHANGE sets LINK_UP, or clears it with SPEED and WIDTH, with RAW bit 0 at a change. An inbound request with the link down is dropped; past a BAR it is unsupported and counted; else it is the access to its address, whose bus error ends a read with Completer Abort,
counted; a poisoned write is only logged; a doorbell of the root port pends. CFG_TIMEOUT after 50 ms answers all ones, counted. Without a session the debug module answers nothing. -/
def Obligations.HartsInterruptsAndPcie : Prop :=
  (∀ (ini : Initiator) (v : Word) (s : State), Writable s PG.host →
    let refused := bitAt v 0 = true ∨ ∃ h : Fin 8, h.val ≠ 0 ∧ bitAt v h = true ∧ s.bit PG.host R.HOST_HART_STS h = true
    ∃ t, exec (.hartStart ini v) s = .next t ∧
      (∀ h : Fin 8, t.bit PG.host R.HOST_HART_STS h = (s.bit PG.host R.HOST_HART_STS h || (h.val != 0 && bitAt v h))) ∧
      (∀ h : Fin 8, h.val ≠ 0 → bitAt v h = true → s.bit PG.host R.HOST_HART_STS h = false →
        t.host.start.get h = s.reg PG.host (R.HOST_BOOT h)) ∧
      (refused → t.fld PG.host R.PG_ERR_LOG0 16 8 = 1 ∧ Counted s t PG.host R.PG_ERR_LOG0 32 16 1) ∧
      (¬ refused → PageKept s t PG.host [R.HOST_HART_STS]) ∧ t = { s with regs := t.regs, host := t.host }) ∧
  (∀ (h : Fin 8) (ctx : Fin 16) (n : Nat) (s : State),
    (s.alive PG.host = false → exec (.machineTimerInterrupt h) s = .next s) ∧
    (s.alive PG.host = true → exec (.machineTimerInterrupt h) s =
      .next { s with host := { s.host with mtip := s.host.mtip.set h (s.timerDue h) } }) ∧
    (s.isOff PG.host = true → exec (.plicClaim ctx) s = .next s ∧ exec (.plicComplete ctx n) s = .next s) ∧
    (s.isOff PG.host = false → ∃ t b, exec (.plicClaim ctx) s = .next t ∧ t.reply = .data (wOfNat b) ∧ b < 1024 ∧
      (b ≠ 0 → s.srcPends b = true ∧ s.srcOn ctx b = true ∧ 0 < s.srcPrio b ∧ t.host.claimed.contains b = true) ∧
      (b = 0 → t = { s with reply := .data 0 }) ∧
      (∀ m, 1 ≤ m → m < 1024 → s.srcPends m = true → s.srcOn ctx m = true → s.srcPrio m ≤ (if b = 0 then 0 else s.srcPrio b)) ∧
      t = { s with reply := t.reply, host := { s.host with claimed := t.host.claimed } }) ∧
    (s.isOff PG.host = false → s.srcOn ctx n = false → exec (.plicComplete ctx n) s = .next s) ∧
    (s.isOff PG.host = false → s.srcOn ctx n = true → exec (.plicComplete ctx n) s =
      .next { s with host := { s.host with claimed := NSet.del s.host.claimed n } })) ∧
  (∀ s : State,
    (∀ up, s.bit PG.pcie R.PCIE_STS 1 = up → exec (.pcieLinkChange up) s = .next s) ∧
    (s.bit PG.pcie R.PCIE_STS 1 = true → ∃ t, exec (.pcieLinkChange false) s = .next t ∧ t.fld PG.pcie R.PCIE_STS 1 9 = 0 ∧
      t.bit PG.pcie R.PCIE_STS 0 = s.bit PG.pcie R.PCIE_STS 0 ∧ t.bit PG.pcie R.PG_IRQ_RAW 0 = true ∧ OnlyRegs s t ∧
      PageKept s t PG.pcie [R.PCIE_STS, R.PG_IRQ_RAW]) ∧
    (s.bit PG.pcie R.PCIE_STS 1 = false → (s.alive PG.pcie = false ∨ s.stopped PG.pcie = true) →
      exec (.pcieLinkChange true) s = .next s) ∧
    (s.bit PG.pcie R.PCIE_STS 1 = false → s.alive PG.pcie = true → s.stopped PG.pcie = false → ∃ t,
      exec (.pcieLinkChange true) s = .next t ∧ t.bit PG.pcie R.PCIE_STS 1 = true ∧ 1 ≤ t.fld PG.pcie R.PCIE_STS 2 3 ∧
      t.fld PG.pcie R.PCIE_STS 2 3 ≤ 5 ∧ t.bit PG.pcie R.PG_IRQ_RAW 0 = true) ∧
    (s.host.cfg = none → exec .cfgTimeout s = .next s) ∧
    (∀ x, s.host.cfg = some x → s.dtc.toNat < x + 50000000 → exec .cfgTimeout s = .next s) ∧
    (∀ x, s.host.cfg = some x → x + 50000000 ≤ s.dtc.toNat → ∃ t, exec .cfgTimeout s = .next t ∧
      t.reply = .data (BitVec.allOnes 64) ∧ Counted s t PG.pcie R.PCIE_ERR 48 16 1 ∧ t.host = { s.host with cfg := none } ∧
      PageKept s t PG.pcie [R.PCIE_ERR, R.PG_IRQ_RAW])) ∧
  (∀ (bar : Fin 4) (off : Nat) (acc : Access) (bad : Bool) (s : State),
    let c := Instr.pcieInboundRequest bar off acc bad
    let s0 : State := { s with reply := .none }
    let up := s.bit PG.pcie R.PCIE_STS 1 = true
    let rc := s.bit PG.pcie R.PCIE_STS 0 = true
    let bell := rc ∧ accReads acc = false ∧ wOfNat off = s.reg PG.pcie R.PCIE_MSI_ADDR ∧ bad = false
    let addr := if rc then (if off + accSize acc ≤ s.part.hbmBytes then some off else none) else s.barAddr bar off (accSize acc)
    (¬ up → exec c s = .next s0) ∧
    (up → bell → leNat ((accBytes acc).take 4) < 32 →
      exec c s = .next (s0.setBit PG.pcie R.PCIE_MSI_PEND (leNat ((accBytes acc).take 4)) true)) ∧
    (up → ¬ bell → addr = none → ∃ t, exec c s = .next t ∧ t.reply = .unsupported ∧ Counted s t PG.pcie R.PCIE_ERR 16 16 1 ∧
      PageKept s t PG.pcie [R.PCIE_ERR, R.PG_IRQ_RAW]) ∧
    (∀ a, up → ¬ bell → addr = some a → bad = true → accReads acc = false → ∃ t, exec c s = .next t ∧ t.reply = .none ∧
      t.fld PG.pcie R.PG_ERR_LOG1 0 40 = a % 2 ^ 40 ∧ PageKept s t PG.pcie [R.PG_ERR_LOG1, R.PG_ERR_LOG3]) ∧
    (∀ a, up → ¬ bell → addr = some a → (bad = false ∨ accReads acc = true) →
      let q := s0.physAccess .pcie a acc {}
      ((q.reply = .busError ∨ ∃ l, q.reply = .errorData l) → ∃ t, exec c s = .next t ∧ t.reply = (if accReads acc then .abort else .none) ∧
        Counted q t PG.pcie R.PCIE_ERR 0 16 1 ∧ t.mem = q.mem) ∧
      (q.reply = .poisoned → ∃ t, exec c s = .next t ∧ t.reply = .poisoned ∧ Counted q t PG.pcie R.PCIE_ERR 32 16 1 ∧ t.mem = q.mem) ∧
      (q.reply ≠ .busError → (∀ l, q.reply ≠ .errorData l) → q.reply ≠ .poisoned → exec c s = .next (q.withQueueOf s)))) ∧
  (∀ (h : Fin 8) (op : HartOp) (s : State),
    exec .tapReset s = .next { s with host := { s.host with tapIdle := true } } ∧
    (s.dbgLevel = 0 → exec (.debugModuleAccess h op) s = .next { s with host := { s.host with tapIdle := false }, reply := .none }) ∧
    (s.dbgLevel ≠ 0 → s.isOff PG.host = false → s.pwr.phase ≠ .watch → s.bit PG.host R.HOST_HART_STS h = true → ∃ t,
      exec (.debugModuleAccess h op) s = .next t ∧ t.host.tapIdle = false ∧
      (op = .halt → t.host.halted.get h = true) ∧ (op = .resume → t.host.halted.get h = false) ∧
      (op = .access → ∃ x, t.reply = .data x) ∧ t.regs = s.regs ∧ t.mem = s.mem))

/-- XSPI_GO on the page taking writes: while BUSY it is logged; a denied opcode or range only sets DENIED; else BUSY sets and the command is under way. XSPI_DONE ends it: DONE, RAW bit 0, and the bytes a read returned stand in the data buffer. XSPI_POLL_TIMEOUT after XSPI_TO ms sets TIMEOUT too. A management write is NACKed with the host domain
off, a data byte into the inbound mailbox is stored and the last one sets IN_FULL; a read answers the outbound mailbox's byte, the last one clears OUT_VALID, and the index moves on. UART_DATA writes push one byte or are dropped and counted at 64, reads pop one or answer 0; a received byte joins the FIFO or is an overrun, counted; a byte
sent leaves it; enabling with DIV 0 is refused. A GPIO edge sets the pin's level, and its pending bit with RAW bit 0 where its configuration selects it. -/
def Obligations.FlashManagementUartGpio : Prop :=
  (∀ (ini : Initiator) (s : State), Writable s PG.xspi →
    let cmd := s.reg PG.xspi R.XSPI_CMD
    let adr := if bitAt cmd 16 then some (s.fld PG.xspi R.XSPI_ADDR 0 32) else none
    let refused := s.xspiRefused (bf cmd 0 16) adr (min 256 (bf cmd 22 9))
    let busy := s.bit PG.xspi R.XSPI_STS 0
    (busy = true → exec (.xspiGo ini) s = .next (s.logWr PG.xspi (.full ini R.XSPI_GO 0) .busy)) ∧
    (busy = false → refused = true → exec (.xspiGo ini) s = .next (s.setBit PG.xspi R.XSPI_STS 2 true)) ∧
    (busy = false → refused = false → ∃ t d, exec (.xspiGo ini) s = .next t ∧ t.bit PG.xspi R.XSPI_STS 0 = true ∧
      t.host = { s.host with xcmd := some (bf cmd 0 16, adr, d), poll := if bitAt cmd 32 then some s.dtc else none } ∧
      (bitAt cmd 31 = false → d = []) ∧ PageKept s t PG.xspi [R.XSPI_STS])) ∧
  (∀ (l : List Byte) (s : State),
    let cmd := s.reg PG.xspi R.XSPI_CMD
    (s.bit PG.xspi R.XSPI_STS 0 = false → exec (.xspiDone l) s = .next s ∧ exec .xspiPollTimeout s = .next s) ∧
    (s.bit PG.xspi R.XSPI_STS 0 = true → ∃ t, exec (.xspiDone l) s = .next t ∧ t.bit PG.xspi R.XSPI_STS 0 = false ∧
      t.bit PG.xspi R.XSPI_STS 1 = true ∧ t.bit PG.xspi R.PG_IRQ_RAW 0 = true ∧ t.host.poll = none ∧
      (bitAt cmd 31 = false → ∀ i, i < l.length → i < min 256 (bf cmd 22 9) →
        t.fld PG.xspi (R.XSPI_DATA (i / 8)) (8 * (i % 8)) 8 = (l.getD i 0).toNat)) ∧
    (s.host.poll = none → exec .xspiPollTimeout s = .next s) ∧
    (∀ x, s.host.poll = some x → (s.dtc - x).toNat < s.fld PG.xspi R.XSPI_TO 0 16 * 1000000 → exec .xspiPollTimeout s = .next s) ∧
    (∀ x, s.host.poll = some x → s.bit PG.xspi R.XSPI_STS 0 = true → s.fld PG.xspi R.XSPI_TO 0 16 * 1000000 ≤ (s.dtc - x).toNat → ∃ t,
      exec .xspiPollTimeout s = .next t ∧ t.bit PG.xspi R.XSPI_STS 3 = true ∧ t.bit PG.xspi R.XSPI_STS 0 = false ∧
      t.bit PG.xspi R.XSPI_STS 1 = true ∧ t.host.poll = none)) ∧
  (∀ (i b : Byte) (n : Nat) (a : BitVec 7) (s : State),
    (s.hostOff = true → ∃ t, exec (.mgmtWrite [i, b]) s = .next t ∧ t.reply = .nack) ∧
    (s.hostOff = false → s.mgmtUp = false → (∃ t, exec (.mgmtWrite [i, b]) s = .next t ∧ t.reply = .nack) ∧
      exec (.mgmtRead n) s = .next { s with reply := .nack } ∧ exec (.mgmtDynamicAddress a) s = .next s) ∧
    (s.hostOff = false → s.mgmtUp = true → s.pwr.phase = .active →
      exec (.mgmtWrite [i]) s = .next { s with host := { s.host with index := i.toNat }, reply := .none } ∧
      (0x10 ≤ i.toNat → i.toNat < 0x50 → s.bit PG.i2c R.I2C_STS 0 = false → ∃ t, exec (.mgmtWrite [i, b]) s = .next t ∧ t.reply = .none ∧
        t.fld PG.i2c (R.I2C_IN ((i.toNat - 0x10) / 8)) (8 * ((i.toNat - 0x10) % 8)) 8 = b.toNat ∧ t.host.index = i.toNat + 1 ∧
        t.bit PG.i2c R.I2C_STS 0 = (i.toNat == 0x4F)) ∧
      (i.toNat < 0x10 ∨ 0x50 ≤ i.toNat ∨ s.bit PG.i2c R.I2C_STS 0 = true → ∃ t, exec (.mgmtWrite [i, b]) s = .next t ∧ t.reply = .nack ∧
        t.regs = s.regs)) ∧
    (s.mgmtUp = true → exec (.mgmtDynamicAddress a) s = .next (s.setFld PG.i2c R.I2C_STS 2 7 a.toNat)) ∧
    (s.mgmtUp = true → 0x50 ≤ s.host.index → s.host.index < 0x90 → ∃ t, exec (.mgmtRead 1) s = .next t ∧
      t.reply = .bytes [BitVec.ofNat 8 (s.fld PG.i2c (R.I2C_OUT ((s.host.index - 0x50) / 8)) (8 * ((s.host.index - 0x50) % 8)) 8)] ∧
      t.host = { s.host with index := s.host.index + 1 } ∧ (s.host.index = 0x8F → t.bit PG.i2c R.I2C_STS 1 = false) ∧
      (s.host.index ≠ 0x8F → t.regs = s.regs))) ∧
  (∀ (ini : Initiator) (v : Word) (b : Byte) (pe fe : Bool) (s : State),
    let on := s.running PG.uart = true ∧ s.bit PG.uart R.UART_CTL 0 = true
    let new := s.wouldBe PG.uart (.full ini R.UART_CTL v)
    let zero := bitAt new 0 = true ∧ s.bit PG.uart R.UART_CTL 0 = false ∧ bf new 16 16 = 0
    (Writable s PG.uart →
      (s.host.txf.length < 64 → exec (.uartDataWrite ini v) s =
        .next { s with host := { s.host with txf := s.host.txf ++ [v.setWidth 8] } }) ∧
      (64 ≤ s.host.txf.length → ∃ t, exec (.uartDataWrite ini v) s = .next t ∧ Counted s t PG.uart R.UART_CNT 0 16 1 ∧ OnlyRegs s t ∧
        PageKept s t PG.uart [R.UART_CNT]) ∧
      (zero → ∃ t, exec (.uartEnable ini v) s = .next t ∧ t.bit PG.uart R.UART_CTL 0 = false ∧ t.bit PG.uart R.UART_STS 19 = true ∧
        OnlyRegs s t ∧ PageKept s t PG.uart [R.UART_CTL, R.UART_STS]) ∧
      (¬ zero → exec (.uartEnable ini v) s = .next (s.setReg PG.uart R.UART_CTL new))) ∧
    (s.isOff PG.uart = true → exec (.uartDataRead ini) s = .next (s.busErr ini)) ∧
    (s.isOff PG.uart = false → s.stopped PG.uart = false →
      (s.host.rxf = [] → exec (.uartDataRead ini) s = .next { s with reply := .data 0 }) ∧
      (∀ x r, s.host.rxf = x :: r → exec (.uartDataRead ini) s =
        .next { s with host := { s.host with rxf := r }, reply := .data (wOfNat x.toNat) })) ∧
    (¬ on → exec (.uartByteRx b pe fe) s = .next s ∧ exec .uartByteTx s = .next s) ∧
    (on → s.host.rxf.length < 64 → ∃ t, exec (.uartByteRx b pe fe) s = .next t ∧ t.host = { s.host with rxf := s.host.rxf ++ [b] } ∧
      t.bit PG.uart R.PG_IRQ_RAW 0 = true ∧ (fe = true → t.bit PG.uart R.UART_STS 17 = true ∧ t.bit PG.uart R.PG_IRQ_RAW 2 = true) ∧
      (pe = true → s.fld PG.uart R.UART_CTL 1 2 ≠ 0 → t.bit PG.uart R.UART_STS 16 = true ∧ t.bit PG.uart R.PG_IRQ_RAW 2 = true) ∧
      PageKept s t PG.uart [R.UART_STS, R.PG_IRQ_RAW]) ∧
    (on → 64 ≤ s.host.rxf.length → ∃ t, exec (.uartByteRx b pe fe) s = .next t ∧ t.host = s.host ∧
      Counted s t PG.uart R.UART_CNT 16 16 1 ∧ t.bit PG.uart R.UART_STS 18 = true ∧ t.bit PG.uart R.PG_IRQ_RAW 2 = true) ∧
    (s.host.txf = [] → exec .uartByteTx s = .next s) ∧
    (∀ x r, on → s.host.txf = x :: r → ∃ t, exec .uartByteTx s = .next t ∧ t.host = { s.host with txf := r, txd := some x } ∧
      (r = [] → t.bit PG.uart R.PG_IRQ_RAW 1 = true) ∧ PageKept s t PG.uart [R.PG_IRQ_RAW])) ∧
  (∀ (n : Fin 32) (level : Bool) (s : State),
    let sel := s.fld PG.gpio R.GPIO_IRQ_CFG (2 * n) 2
    let hit := s.host.pins.getLsbD n ≠ level ∧ s.alive PG.gpio = true ∧ s.bit PG.gpio R.GPIO_OE n = false ∧ (sel = 3 ∨ (sel = 1 ∧ level = true) ∨ (sel = 2 ∧ level = false))
    ∃ t, exec (.gpioEdge n level) s = .next t ∧ t.host.pins.getLsbD n = level ∧
      (∀ m : Fin 32, m ≠ n → t.host.pins.getLsbD m = s.host.pins.getLsbD m) ∧
      (hit → t.bit PG.gpio R.GPIO_IRQ_PEND n = true ∧ t.bit PG.gpio R.PG_IRQ_RAW 0 = true ∧
        PageKept s t PG.gpio [R.GPIO_IRQ_PEND, R.PG_IRQ_RAW]) ∧
      (¬ hit → t = { s with host := t.host }))

/-- R575: PG_ID of every page shows SIZE_CODE 0x0010, VERSION 0x0001, the lowest page index of the block's kind as TYPE and the page's index minus
that as INSTANCE; of a kiln page TYPE is 0x0040 to 0x0043 and INSTANCE the kiln; so LAT of kiln 1, page 0x045, reads 0x0041_0001_0001_0010. -/
def Obligations.PageIdentity : Prop :=
  ∀ s : State,
    (∀ r, r ∈ [(0x000, 0x000), (0x001, 0x001), (0x002, 0x002), (0x003, 0x003), (0x008, 0x00F), (0x010, 0x017), (0x018, 0x01F), (0x020, 0x020),
        (0x021, 0x021), (0x022, 0x022), (0x024, 0x024), (0x028, 0x02F), (0x030, 0x030), (0x058, 0x05F), (0x060, 0x060), (0x061, 0x061),
        (0x068, 0x06F), (0x070, 0x070), (0x071, 0x072), (0x078, 0x087), (0x088, 0x088), (0x089, 0x089), (0x090, 0x090), (0x091, 0x091),
        (0x092, 0x092), (0x093, 0x093), (0x094, 0x094), (0x095, 0x095), (0x096, 0x096)] →
      ∀ page, r.1 ≤ page → page ≤ r.2 →
        s.shown page R.PG_ID = wOfNat (0x0010 + 0x0001 <<< 16 + (page - r.1) <<< 32 + r.1 <<< 48)) ∧
    (∀ k j, k < 6 → j < 4 → s.shown (0x040 + 4 * k + j) R.PG_ID = wOfNat (0x0010 + 0x0001 <<< 16 + k <<< 32 + (0x040 + j) <<< 48)) ∧
    s.shown 0x045 R.PG_ID = 0x0041_0001_0001_0010

/-- R8: of a page that answers (no reset runs and no handshake has stopped it), an aligned 32-bit or 64-bit read of an unimplemented offset returns 0, and
such a write changes nothing, but for the debug system bus with no session open. A register write, a register read, a load and a store at an address of the slot area that lies in no page end with a bus
error, and a register access at an address outside the slot area and outside the PLIC window too. -/
def Obligations.UnimplementedOffsets : Prop :=
  (∀ (ini : Initiator) (page off size : Nat) (v : Word) (k : PageKind) (s : State), pageKind page = some k → page < 0x1000 → off < 0x10000 →
    lookupReg page (off / 8 * 8) = none → (size = 8 ∧ off % 8 = 0) ∨ (size = 4 ∧ off % 4 = 0) →
    s.resetting page = false → s.stopped page = false → s.busLocked ini = false →
    let a := 0x60_0000_0000 + page * 0x1_0000 + off
    exec (.rcRead ini a size) s = .next { s with reply := .data 0 } ∧
    exec (.registerWrite ini a size v) s = .next { s with reply := .none }) ∧
  (∀ (ini : Initiator) (a size : Nat) (v : Word) (s : State),
    (a < 0x60_0000_0000 ∨ 0x60_1000_0000 ≤ a ∨ pageKind ((a - 0x60_0000_0000) / 0x1_0000) = none) →
    (a < 0x61_0000_0000 ∨ 0x61_0400_0000 ≤ a) → 0 < size →
    exec (.rcRead ini a size) s = .next (s.busErr ini) ∧ exec (.registerWrite ini a size v) s = .next (s.busErr ini)) ∧
  (∀ (ini : Initiator) (a size : Nat) (v : Word) (up : Upset) (s : State), 0x60_0000_0000 ≤ a → a < 0x60_1000_0000 →
    pageKind ((a - 0x60_0000_0000) / 0x1_0000) = none →
    exec (.physicalAccess ini a (.load size) up) s = .next (s.busErr ini) ∧
    exec (.physicalAccess ini a (.store size v) up) s = .next (s.busErr ini))

/-- Of a MEM or I2C page taking writes, a REGISTER_WRITE of a 64-bit register or of one 32-bit half sets the RW bits it names, clears W1C bits and sets W1S bits where it writes 1, and leaves every
other bit and register. A register access of another size or alignment ends with a bus error and nothing else. RC_READ of a whole register of a page that answers replies what the register shows, the
throttle count and INBOX_STALL counted up to the read; off CHD and ADM its RC bits then read 0. PHYSICAL_ACCESS: a block's write of one whole HBM word that meets no upset stores its bytes, clean, and no other byte changes; a hart's access to HBM with the stack offline, and an
AMO outside HBM, end with a bus error; so does every access of the debug system bus while no session is open (log 234: the model's reading of R541). -/
def Obligations.RegisterAndMemoryAccess : Prop :=
  (∀ (ini : Initiator) (page off size : Nat) (v : Word) (s : State), 0x078 ≤ page ∧ page ≤ 0x087 ∨ page = PG.i2c → Writable s page → s.busLocked ini = false →
    0x100 ≤ off → off < 0x10000 → (size = 8 ∧ off % 8 = 0) ∨ (size = 4 ∧ off % 4 = 0) →
    let o := off / 8 * 8
    let a := 0x60_0000_0000 + page * 0x1_0000 + off
    let hit := fun i : Nat => size = 8 ∨ i / 32 = off % 8 / 4
    let given := fun i : Nat => bitAt v (if size = 8 then i else i % 32)
    ∀ d i j, lookupReg page o = some (d, i, j) → ∃ t, exec (.registerWrite ini a size v) s = .next t ∧ t = { s with regs := t.regs, reply := .none } ∧
      PageKept s t page [o] ∧ ∀ b, b < 64 → t.bit page o b =
        if d.w1s.testBit b ∧ hit b ∧ given b = true then true
        else if d.w1c.testBit b ∧ hit b ∧ given b = true then false
        else if d.rw.testBit b ∧ hit b then given b else s.bit page o b) ∧
  (∀ (ini : Initiator) (page off size : Nat) (v : Word) (s : State), page < 0x1000 → off < 0x10000 →
    ¬ ((size = 8 ∧ off % 8 = 0) ∨ (size = 4 ∧ off % 4 = 0)) →
    let a := 0x60_0000_0000 + page * 0x1_0000 + off
    exec (.registerWrite ini a size v) s = .next (s.busErr ini) ∧ exec (.rcRead ini a size) s = .next (s.busErr ini)) ∧
  (∀ (ini : Initiator) (page off : Nat) (k : PageKind) (s : State), pageKind page = some k → page < 0x1000 → off < 0x10000 → off % 8 = 0 →
    s.stopped page = false → s.busLocked ini = false →
    let u := s.readUpdate page off
    ∀ d i j, lookupReg page off = some (d, i, j) → ∃ t, exec (.rcRead ini (0x60_0000_0000 + page * 0x1_0000 + off) 8) s = .next t ∧
      t.reply = .data (u.shown page off) ∧
      (s.isOff page = false → k ≠ .chd → k ≠ .adm → t.reg page off = u.reg page off &&& ~~~ BitVec.ofNat 64 d.rc) ∧
      PageKept u t page [off] ∧ t.mem = u.mem ∧ (¬ (page = PG.mem 0 ∧ off = R.MEM_THR_CNT) → ¬ (k = .kln ∧ off = R.KLN_SWAP_CNT) → u = s)) ∧
  (∀ (a : Nat) (l : List Byte) (s : State), s.inHbm a 32 = true → a % 32 = 0 → l.length = 32 → s.hbmOffline = false → s.mem.wf = true →
    ∃ t, exec (.physicalAccess .block a (.writeBytes l) {}) s = .next t ∧ Sp.find t.mem.errs a = none ∧
      (∀ i, i < 32 → t.mem.byte? (a + i) = some (l.getD i 0)) ∧ (∀ x, x < a ∨ a + 32 ≤ x → t.mem.byte? x = s.mem.byte? x)) ∧
  (∀ (h : Fin 8) (a n : Nat) (v : Word) (up : Upset) (s : State),
    (s.inHbm a n = true → s.hbmOffline = true → s.pwr.phase ≠ .watch →
      exec (.physicalAccess (.hostCore h) a (.load n) up) s = .next (s.busErr (.hostCore h))) ∧
    (s.inHbm a n = false → exec (.physicalAccess (.hostCore h) a (.amo n v) up) s = .next { s with reply := .accessFault })) ∧
  (∀ (a size : Nat) (acc : Access) (v : Word) (up : Upset) (s : State), s.busLocked .debugBus = true →
    exec (.physicalAccess .debugBus a acc up) s = .next { s with reply := .busError } ∧
    exec (.registerWrite .debugBus a size v) s = .next { s with reply := .busError } ∧
    exec (.rcRead .debugBus a size) s = .next { s with reply := .busError })

/-- The five header commands: outside every page a bus error; on a page that is OFF nothing; on one in RESET, or stopped by a handshake that still runs, the write is only logged; on one stopped otherwise a bus error. On a page taking writes: PAGE_RESET of TOP and DTC, of PWC in an entry, of LDG with items is logged; a page without
reset actions of its own is then in RESET, its epoch one higher, causes and logs clear, its items ended, the replies to them noted as stale (R471), no other register changed. PAGE_RESET_COMPLETE ends a running reset with ENABLE as R569 says and QUIESCE 0. A fixed page ignores the rest; else PAGE_ENABLE sets ENABLE where the block's check passes, and clears QUIESCE, PAGE_DISABLE clears both, PAGE_QUIESCE sets
QUIESCE. PG_IRQ_SET sets causes of an unlocked page, and is logged with cause LOCKED else. -/
def Obligations.PageControl : Prop :=
  (∀ (ini : Initiator) (page : Nat) (v : Word) (s : State) (c : Instr) (w : Wr),
    (c, w) ∈ [(Instr.pageReset ini page, Wr.full ini R.PG_CTL 4), (.pageEnable ini page, Wr.full ini R.PG_CTL 1),
      (.pageDisable ini page, Wr.full ini R.PG_CTL 0), (.pageQuiesce ini page, Wr.full ini R.PG_CTL (wOfNat (2 + b2n (s.enabled page)))),
      (.pgIrqSet ini page v, Wr.full ini R.PG_IRQ_SET v)] →
    (pageKind page = none → exec c s = .next (s.busErr ini)) ∧
    (∀ k, pageKind page = some k →
      (s.isOff page = true → exec c s = .next s) ∧
      (s.isOff page = false → s.resetting page = true → exec c s = .next (s.logWr page w .inReset)) ∧
      (s.isOff page = false → s.resetting page = false → s.stopped page = true →
        exec c s = .next (if s.inHandshake then s.logWr page w .handshake else s.busErr ini)))) ∧
  (∀ (ini : Initiator) (page : Nat) (k : PageKind) (s : State), pageKind page = some k → Writable s page →
    let refused := kindNoReset k = true ∨ (k = .pwc ∧ (s.bit PG.pwc R.PWC_STS 3 = true ∨ s.bit PG.pwc R.PWC_STS 6 = true)) ∨
      (k = .ldg ∧ s.ldg.items ≠ [])
    let logs := [R.PG_IRQ_RAW, R.PG_ERR_LOG0, R.PG_ERR_LOG1, R.PG_ERR_LOG2, R.PG_ERR_LOG3]
    (refused → exec (.pageReset ini page) s = .next (s.logWr page (.full ini R.PG_CTL 4) .state)) ∧
    (¬ refused → exec (.pageReset ini page) s = .next (((if page = PG.res then s.loadCut else s).resetBegin page).withQueueOf s)) ∧
    (k ∈ [PageKind.kln, .shf, .pcie, .host, .xspi, .i2c, .uart, .gpio] → ∃ t, exec (.pageReset ini page) s = .next t ∧ t.resetting page = true ∧
      t.fld page R.PG_STS 16 16 = (s.fld page R.PG_STS 16 16 + 1) % 2 ^ 16 ∧ (∀ o, o ∈ logs → t.reg page o = 0) ∧
      (∀ i, i ∈ t.ldg.items → i.page = page → i.closed = true) ∧
      (∀ i, i ∈ s.ldg.items → i.page = page → s.awaits i = true → (page, i.epoch) ∈ t.ldg.orphans) ∧ PageKept s t page (R.PG_STS :: logs) ∧ t.mem = s.mem) ∧
    (kindFixed k = true → exec (.pageEnable ini page) s = .next s ∧ exec (.pageDisable ini page) s = .next s ∧
      exec (.pageQuiesce ini page) s = .next s) ∧
    (kindFixed k = false → k ≠ .res → s.enabled page = false →
      let q := s.enableCheck k page
      ∃ t, exec (.pageEnable ini page) s = .next t ∧ t.enabled page = q.1 ∧ t.quiesced page = false) ∧
    (kindFixed k = false → k ≠ .res → s.enabled page = true → ∃ t, exec (.pageEnable ini page) s = .next t ∧ t.enabled page = true ∧
      t.quiesced page = false ∧ OnlyRegs s t ∧ PageKept s t page [R.PG_CTL]) ∧
    (kindFixed k = false → k ≠ .adm → k ≠ .fct → ∃ t, exec (.pageDisable ini page) s = .next t ∧ t.enabled page = false ∧
      t.quiesced page = false ∧ OnlyRegs s t ∧ PageKept s t page [R.PG_CTL]) ∧
    (kindFixed k = false → k ≠ .adm → k ≠ .fct → ∃ t, exec (.pageQuiesce ini page) s = .next t ∧ t.enabled page = s.enabled page ∧
      t.quiesced page = true ∧ OnlyRegs s t ∧ PageKept s t page [R.PG_CTL]) ∧
    (k = .adm ∨ k = .fct → (∃ t, exec (.pageDisable ini page) s = .next t ∧ t.enabled page = false ∧ t.quiesced page = false) ∧
      ∃ t, exec (.pageQuiesce ini page) s = .next t ∧ t.enabled page = s.enabled page ∧ t.quiesced page = true)) ∧
  (∀ (ini : Initiator) (s : State), Writable s PG.res → ∃ t, exec (.pageEnable ini PG.res) s = .next t ∧
    (s.res.disc = [] → s.loc.deltas = [] → t.enabled PG.res = true ∧ t.quiesced PG.res = false)) ∧
  (∀ (page : Nat) (s : State), ((s.isOff page = true ∨ s.resetting page = false ∨ pageKind page = none) →
      exec (.pageResetComplete page) s = .next s) ∧
    (∀ k, pageKind page = some k → s.isOff page = false → s.resetting page = true → k ≠ .res → ∃ t,
      exec (.pageResetComplete page) s = .next t ∧ t.resetting page = false ∧ t.enabled page = kindEnable k ∧ t.quiesced page = false ∧
      t = { s with regs := t.regs, inReset := t.inReset } ∧ PageKept s t page [R.PG_CTL])) ∧
  (∀ (ini : Initiator) (page : Nat) (v : Word) (k : PageKind) (s : State), pageKind page = some k → Writable s page →
    (s.pageUnlocked page = true → exec (.pgIrqSet ini page v) s = .next (s.orReg page R.PG_IRQ_RAW (v &&& wOfNat (2 ^ kindIrqBits k - 1)))) ∧
    (s.pageUnlocked page = false → exec (.pgIrqSet ini page v) s = .next (s.logWr page (.full ini R.PG_IRQ_SET v) .locked)))

/-- For every command and state: a step of a state whose queue begins with the command is exec of the command on the state with the queue's rest. With an
empty queue, which is the model's choice (log entry 1), the device time counter advances by one nanosecond and nothing else changes; while the AON domain carries
it, in SLUMBER and DORMANT and until the exit from them has ended (R46), it stands between the cycles of the 32.768 kHz clock and moves at each by 30,517 or
30,518 ns, 30,517.578125 in the mean. -/
def Obligations.StepRunsTheFrontCommand : Prop :=
  (∀ (c : Instr) (r : List Instr) (s : State), s.pending = c :: r → step s = exec c { s with pending := r }) ∧
  (∀ s : State, s.pending = [] → s.dtcCarried = false → step s = .next { s with dtc := s.dtc + 1 }) ∧
  (∀ s : State, s.pending = [] → s.dtcCarried = true → ∃ t, step s = .next t ∧ t = { s with dtc := t.dtc, pwr := t.pwr } ∧
    (s.pwr.aonPhase + 32768 < 1000000000 → t.dtc = s.dtc ∧ t.pwr.aonPhase = s.pwr.aonPhase + 32768) ∧
    (1000000000 ≤ s.pwr.aonPhase + 32768 → s.pwr.aonFrac < 64 → t.pwr.aonPhase = s.pwr.aonPhase + 32768 - 1000000000 ∧
      ∃ n, t.dtc = s.dtc + wOfNat n ∧ 64 * n + t.pwr.aonFrac = 1953125 + s.pwr.aonFrac))

/-- From every state a step answers a next state, whatever command is at the front: none stops the block. It takes exactly the front command out of the queue and puts none in, so commands take effect
first in, first out. The part keeps its identity: its order code, PG_ID and PG_CAP of every page, and every register of page 0x000 that identifies it (TOP_DEVID, TOP_SERIAL, the Geometry Table and the page map) read after the step as before it. -/
def Obligations.StepsCompleteInOrderAndKeepIdentity : Prop :=
  ∀ s : State, ∃ t, step s = .next t ∧ t.pending = s.pending.tail ∧ t.part = s.part ∧
    (∀ page, t.shown page R.PG_ID = s.shown page R.PG_ID ∧ t.shown page R.PG_CAP = s.shown page R.PG_CAP) ∧
    (∀ off, 0x100 ≤ off → t.shown PG.top off = s.shown PG.top off)

/-- Right after reset: nothing waits, the DTC is 0, every page that the device powers is off, the straps are not sampled, memory is in its canonical form, and registers of every domain read as their tables say: ENABLE by R569, identities by R575, the page map by R576, and the reset values of PWC, MEM, WTH, SGR, HOST, UART, LDG and a time base. -/
def Obligations.ResetState : Prop :=
  let s := State.reset
  s.pending = [] ∧ s.dtc = 0 ∧ s.off = poweredPages ∧ s.pwr.phase = .porst ∧ s.mem.wf = true ∧ s.mem.cells = [] ∧ s.ldg.items = [] ∧
  s.enabled PG.top = true ∧ s.enabled PG.pwc = true ∧ s.enabled (PG.sp 3) = true ∧ s.enabled (PG.ieq 7) = false ∧ s.enabled PG.loc = false ∧
  s.enabled (PG.lat 5) = false ∧ s.enabled (PG.spk 7) = false ∧ s.enabled PG.res = true ∧ s.enabled (PG.ptb 0) = true ∧ s.enabled PG.gpio = true ∧
  s.shown 0x021 R.PG_ID = 0x0021_0000_0001_0010 ∧
  s.shown PG.top (R.TOP_PAGEMAP 0) = 0x0001_FF17_FFFF_FF0F ∧ s.shown PG.top (R.TOP_PAGEMAP 1) = 0xFF07_FF03_FFFF_FFFF ∧
  s.shown PG.top (R.TOP_PAGEMAP 2) = 0x0000_0000_007F_03FF ∧ s.shown PG.top (R.TOP_PAGEMAP 63) = 0 ∧
  s.shown PG.top R.TOP_DEVID = 0x0000_0000_1800_4806 ∧
  s.reg PG.pwc R.PWC_DEFER_MAX = 1000 ∧ s.reg PG.pwc R.PWC_DVFS = 2 ∧ s.reg PG.pwc R.PWC_WAKE_EN = 1 ∧
  s.reg (PG.mem 0) R.MEM_THR = 0x035D ∧ s.reg PG.wth R.WTH_CTL = 0x0000_0020_0064_0000 ∧ s.reg PG.wth R.WTH_PTB_TOL = 0x0001_0000 ∧
  s.reg PG.sgr (R.SGR_LOCK 63) = BitVec.allOnes 64 ∧ s.reg PG.host (R.HOST_MTIMECMP 7) = 0x7FFF_FFFF_FFFF_FFFF ∧
  s.reg PG.uart R.UART_CTL = 0x001B_0000
end

