-- ==== Sys2Proof/Laws/Exec.lean ====
section
/-!
SUPPORT. Laws/Exec.lean: exec on each command is the command's meaning.
-/

namespace Sys2Proof.Machine

theorem exec_registerWrite {s : State} : ∀ ini addr size v, exec (.registerWrite ini addr size v) s = execRegisterWrite ini addr size v s := by intros; rfl
theorem exec_rcRead {s : State} : ∀ ini addr size, exec (.rcRead ini addr size) s = execRcRead ini addr size s := by intros; rfl
theorem exec_physicalAccess {s : State} : ∀ ini addr acc up, exec (.physicalAccess ini addr acc up) s = execPhysicalAccess ini addr acc up s := by intros; rfl
theorem exec_pageReset {s : State} : ∀ ini page, exec (.pageReset ini page) s = execPageReset ini page s := by intros; rfl
theorem exec_pageResetComplete {s : State} : ∀ page, exec (.pageResetComplete page) s = execPageResetComplete page s := by intros; rfl
theorem exec_pageEnable {s : State} : ∀ ini page, exec (.pageEnable ini page) s = execPageEnable ini page s := by intros; rfl
theorem exec_pageDisable {s : State} : ∀ ini page, exec (.pageDisable ini page) s = execPageDisable ini page s := by intros; rfl
theorem exec_pageQuiesce {s : State} : ∀ ini page, exec (.pageQuiesce ini page) s = execPageQuiesce ini page s := by intros; rfl
theorem exec_pgIrqSet {s : State} : ∀ ini page v, exec (.pgIrqSet ini page v) s = execPgIrqSet ini page v s := by intros; rfl
theorem exec_powerOnReset {s : State} : exec .powerOnReset s = execPowerOnReset s := by rfl
theorem exec_strapSample {s : State} : ∀ straps, exec (.strapSample straps) s = execStrapSample straps s := by intros; rfl
theorem exec_encoderEdge {s : State} : ∀ e a b, exec (.encoderEdge e a b) s = execEncoderEdge e a b s := by intros; rfl
theorem exec_zEdge {s : State} : ∀ z, exec (.zEdge z) s = execZEdge z s := by intros; rfl
theorem exec_mainsZeroCross {s : State} : ∀ m, exec (.mainsZeroCross m) s = execMainsZeroCross m s := by intros; rfl
theorem exec_ptbRun {s : State} : ∀ ini p v, exec (.ptbRun ini p v) s = execPtbRun ini p v s := by intros; rfl
theorem exec_ptbStop {s : State} : ∀ ini p v, exec (.ptbStop ini p v) s = execPtbStop ini p v s := by intros; rfl
theorem exec_ptbSrcDefaults {s : State} : ∀ ini p v, exec (.ptbSrcDefaults ini p v) s = execPtbSrcDefaults ini p v s := by intros; rfl
theorem exec_snap {s : State} : ∀ ini p, exec (.snap ini p) s = execSnap ini p s := by intros; rfl
theorem exec_forceStep {s : State} : ∀ ini p, exec (.forceStep ini p) s = execForceStep ini p s := by intros; rfl
theorem exec_acceptSlew {s : State} : ∀ ini p, exec (.acceptSlew ini p) s = execAcceptSlew ini p s := by intros; rfl
theorem exec_armHome {s : State} : ∀ ini p, exec (.armHome ini p) s = execArmHome ini p s := by intros; rfl
theorem exec_clearServo {s : State} : ∀ ini p, exec (.clearServo ini p) s = execClearServo ini p s := by intros; rfl
theorem exec_offsetSubmit {s : State} : ∀ ini p v, exec (.offsetSubmit ini p v) s = execOffsetSubmit ini p v s := by intros; rfl
theorem exec_holdoverTimeout {s : State} : ∀ p, exec (.holdoverTimeout p) s = execHoldoverTimeout p s := by intros; rfl
theorem exec_slewDone {s : State} : ∀ p, exec (.slewDone p) s = execSlewDone p s := by intros; rfl
theorem exec_standstill {s : State} : ∀ p, exec (.standstill p) s = execStandstill p s := by intros; rfl
theorem exec_histSample {s : State} : ∀ p, exec (.histSample p) s = execHistSample p s := by intros; rfl
theorem exec_scheduledItemDue {s : State} : ∀ item, exec (.scheduledItemDue item) s = execScheduledItemDue item s := by intros; rfl
theorem exec_tmapEnable {s : State} : ∀ ini n v, exec (.tmapEnable ini n v) s = execTmapEnable ini n v s := by intros; rfl
theorem exec_tmapIntervalEnd {s : State} : ∀ n, exec (.tmapIntervalEnd n) s = execTmapIntervalEnd n s := by intros; rfl
theorem exec_netModeChange {s : State} : ∀ ini q v, exec (.netModeChange ini q v) s = execNetModeChange ini q v s := by intros; rfl
theorem exec_netPtpDisable {s : State} : ∀ ini q v, exec (.netPtpDisable ini q v) s = execNetPtpDisable ini q v s := by intros; rfl
theorem exec_netLinkChange {s : State} : ∀ q up, exec (.netLinkChange q up) s = execNetLinkChange q up s := by intros; rfl
theorem exec_netFrameRx {s : State} : ∀ q frame fcsOk, exec (.netFrameRx q frame fcsOk) s = execNetFrameRx q frame fcsOk s := by intros; rfl
theorem exec_netTxTail {s : State} : ∀ ini q ring v, exec (.netTxTail ini q ring v) s = execNetTxTail ini q ring v s := by intros; rfl
theorem exec_netFrameTx {s : State} : ∀ q, exec (.netFrameTx q) s = execNetFrameTx q s := by intros; rfl
theorem exec_netTxtsPop {s : State} : ∀ ini q, exec (.netTxtsPop ini q) s = execNetTxtsPop ini q s := by intros; rfl
theorem exec_ppsOutEnable {s : State} : ∀ ini v, exec (.ppsOutEnable ini v) s = execPpsOutEnable ini v s := by intros; rfl
theorem exec_ppsOutPulseEnd {s : State} : exec .ppsOutPulseEnd s = execPpsOutPulseEnd s := by rfl
theorem exec_ppsInEdge {s : State} : exec .ppsInEdge s = execPpsInEdge s := by rfl
theorem exec_streamEnable {s : State} : ∀ ini q st v, exec (.streamEnable ini q st v) s = execStreamEnable ini q st v s := by intros; rfl
theorem exec_streamDatagramSend {s : State} : ∀ q st, exec (.streamDatagramSend q st) s = execStreamDatagramSend q st s := by intros; rfl
theorem exec_streamFlushTimeout {s : State} : ∀ q st, exec (.streamFlushTimeout q st) s = execStreamFlushTimeout q st s := by intros; rfl
theorem exec_csi2PacketRx {s : State} : ∀ p header payload uc, exec (.csi2PacketRx p header payload uc) s = execCsi2PacketRx p header payload uc s := by intros; rfl
theorem exec_packetCrcResult {s : State} : ∀ p ok, exec (.packetCrcResult p ok) s = execPacketCrcResult p ok s := by intros; rfl
theorem exec_packetTruncated {s : State} : ∀ p, exec (.packetTruncated p) s = execPacketTruncated p s := by intros; rfl
theorem exec_spEnable {s : State} : ∀ ini p v, exec (.spEnable ini p v) s = execSpEnable ini p v s := by intros; rfl
theorem exec_spDisable {s : State} : ∀ ini p v, exec (.spDisable ini p v) s = execSpDisable ini p v s := by intros; rfl
theorem exec_cciTransfer {s : State} : ∀ ini p v, exec (.cciTransfer ini p v) s = execCciTransfer ini p v s := by intros; rfl
theorem exec_cciDone {s : State} : ∀ p r bytes, exec (.cciDone p r bytes) s = execCciDone p r bytes s := by intros; rfl
theorem exec_ieqTailTimeout {s : State} : ∀ p, exec (.ieqTailTimeout p) s = execIeqTailTimeout p s := by intros; rfl
theorem exec_ieqEntryRead {s : State} : ∀ p parity uc, exec (.ieqEntryRead p parity uc) s = execIeqEntryRead p parity uc s := by intros; rfl
theorem exec_dropPkt {s : State} : ∀ ini p, exec (.dropPkt ini p) s = execDropPkt ini p s := by intros; rfl
theorem exec_ieqPop {s : State} : ∀ ini p parity, exec (.ieqPop ini p parity) s = execIeqPop ini p parity s := by intros; rfl
theorem exec_ieqRawDmaGo {s : State} : ∀ ini p v, exec (.ieqRawDmaGo ini p v) s = execIeqRawDmaGo ini p v s := by intros; rfl
theorem exec_rawDmaIdleTimeout {s : State} : ∀ p, exec (.rawDmaIdleTimeout p) s = execRawDmaIdleTimeout p s := by intros; rfl
theorem exec_rawDmaDone {s : State} : ∀ p, exec (.rawDmaDone p) s = execRawDmaDone p s := by intros; rfl
theorem exec_sieveEvent {s : State} : ∀ p up, exec (.sieveEvent p up) s = execSieveEvent p up s := by intros; rfl
theorem exec_hotMaskLoad {s : State} : ∀ ini p v, exec (.hotMaskLoad ini p v) s = execHotMaskLoad ini p v s := by intros; rfl
theorem exec_hotMaskLoadDone {s : State} : ∀ p, exec (.hotMaskLoadDone p) s = execHotMaskLoadDone p s := by intros; rfl
theorem exec_admWindowReload {s : State} : exec .admWindowReload s = execAdmWindowReload s := by rfl
theorem exec_admPortEnable {s : State} : ∀ ini p v, exec (.admPortEnable ini p v) s = execAdmPortEnable ini p v s := by intros; rfl
theorem exec_admHeadDecision {s : State} : ∀ p, exec (.admHeadDecision p) s = execAdmHeadDecision p s := by intros; rfl
theorem exec_ingressSpoolDrain {s : State} : exec .ingressSpoolDrain s = execIngressSpoolDrain s := by rfl
theorem exec_ruleEnable {s : State} : ∀ ini r v, exec (.ruleEnable ini r v) s = execRuleEnable ini r v s := by intros; rfl
theorem exec_ruleDisable {s : State} : ∀ ini r v, exec (.ruleDisable ini r v) s = execRuleDisable ini r v s := by intros; rfl
theorem exec_ruleInput {s : State} : ∀ cyc, exec (.ruleInput cyc) s = execRuleInput cyc s := by intros; rfl
theorem exec_pulseEnd {s : State} : ∀ o, exec (.pulseEnd o) s = execPulseEnd o s := by intros; rfl
theorem exec_rfxCrcResult {s : State} : ∀ p, exec (.rfxCrcResult p) s = execRfxCrcResult p s := by intros; rfl
theorem exec_tcalSwGo {s : State} : ∀ ini, exec (.tcalSwGo ini) s = execTcalSwGo ini s := by intros; rfl
theorem exec_tcalFlush {s : State} : ∀ ini v, exec (.tcalFlush ini v) s = execTcalFlush ini v s := by intros; rfl
theorem exec_coreHeartbeat {s : State} : exec .coreHeartbeat s = execCoreHeartbeat s := by rfl
theorem exec_deadmanFire {s : State} : exec .deadmanFire s = execDeadmanFire s := by rfl
theorem exec_rearm {s : State} : ∀ ini, exec (.rearm ini) s = execRearm ini s := by intros; rfl
theorem exec_selftest {s : State} : ∀ ini, exec (.selftest ini) s = execSelftest ini s := by intros; rfl
theorem exec_selftestDone {s : State} : ∀ fail, exec (.selftestDone fail) s = execSelftestDone fail s := by intros; rfl
theorem exec_voterSignatureCheck {s : State} : ∀ minority, exec (.voterSignatureCheck minority) s = execVoterSignatureCheck minority s := by intros; rfl
theorem exec_laneResyncDone {s : State} : exec .laneResyncDone s = execLaneResyncDone s := by rfl
theorem exec_eccWalk {s : State} : ∀ word uncorr, exec (.eccWalk word uncorr) s = execEccWalk word uncorr s := by intros; rfl
theorem exec_outputFault {s : State} : ∀ o, exec (.outputFault o) s = execOutputFault o s := by intros; rfl
theorem exec_reflexRecordDrain {s : State} : exec .reflexRecordDrain s = execReflexRecordDrain s := by rfl
theorem exec_sfsFillDone {s : State} : ∀ p, exec (.sfsFillDone p) s = execSfsFillDone p s := by intros; rfl
theorem exec_sfsFreeDone {s : State} : ∀ p, exec (.sfsFreeDone p) s = execSfsFreeDone p s := by intros; rfl
theorem exec_epochSweepStart {s : State} : ∀ p, exec (.epochSweepStart p) s = execEpochSweepStart p s := by intros; rfl
theorem exec_epochVisit {s : State} : ∀ p up, exec (.epochVisit p up) s = execEpochVisit p up s := by intros; rfl
theorem exec_chordTest {s : State} : ∀ p up, exec (.chordTest p up) s = execChordTest p up s := by intros; rfl
theorem exec_locusRecord {s : State} : ∀ cache, exec (.locusRecord cache) s = execLocusRecord cache s := by intros; rfl
theorem exec_ageingSweepVisit {s : State} : exec .ageingSweepVisit s = execAgeingSweepVisit s := by rfl
theorem exec_ageingSweepEnd {s : State} : exec .ageingSweepEnd s = execAgeingSweepEnd s := by rfl
theorem exec_objectBinding {s : State} : ∀ p, exec (.objectBinding p) s = execObjectBinding p s := by intros; rfl
theorem exec_locClear {s : State} : ∀ ini, exec (.locClear ini) s = execLocClear ini s := by intros; rfl
theorem exec_locClearDone {s : State} : exec .locClearDone s = execLocClearDone s := by rfl
theorem exec_locFlush {s : State} : ∀ ini, exec (.locFlush ini) s = execLocFlush ini s := by intros; rfl
theorem exec_latticeStep {s : State} : ∀ k, exec (.latticeStep k) s = execLatticeStep k s := by intros; rfl
theorem exec_journalFullWait {s : State} : ∀ k, exec (.journalFullWait k) s = execJournalFullWait k s := by intros; rfl
theorem exec_leakSweepVisit {s : State} : ∀ k, exec (.leakSweepVisit k) s = execLeakSweepVisit k s := by intros; rfl
theorem exec_courseSwap {s : State} : ∀ k, exec (.courseSwap k) s = execCourseSwap k s := by intros; rfl
theorem exec_courseSwapDone {s : State} : ∀ k, exec (.courseSwapDone k) s = execCourseSwapDone k s := by intros; rfl
theorem exec_routerPacket {s : State} : ∀ r, exec (.routerPacket r) s = execRouterPacket r s := by intros; rfl
theorem exec_routerStall {s : State} : ∀ r port, exec (.routerStall r port) s = execRouterStall r port s := by intros; rfl
theorem exec_kilnPacketIn {s : State} : ∀ k, exec (.kilnPacketIn k) s = execKilnPacketIn k s := by intros; rfl
theorem exec_floorUpdate {s : State} : exec .floorUpdate s = execFloorUpdate s := by rfl
theorem exec_countWindowClose {s : State} : ∀ k, exec (.countWindowClose k) s = execCountWindowClose k s := by intros; rfl
theorem exec_whlEnable {s : State} : ∀ ini v, exec (.whlEnable ini v) s = execWhlEnable ini v s := by intros; rfl
theorem exec_whlDisable {s : State} : ∀ ini v, exec (.whlDisable ini v) s = execWhlDisable ini v s := by intros; rfl
theorem exec_toCone {s : State} : ∀ ini, exec (.toCone ini) s = execToCone ini s := by intros; rfl
theorem exec_toWheel {s : State} : ∀ ini, exec (.toWheel ini) s = execToWheel ini s := by intros; rfl
theorem exec_coneBarrier {s : State} : exec .coneBarrier s = execConeBarrier s := by rfl
theorem exec_drainComplete {s : State} : exec .drainComplete s = execDrainComplete s := by rfl
theorem exec_rtWrite {s : State} : ∀ ini r, exec (.rtWrite ini r) s = execRtWrite ini r s := by intros; rfl
theorem exec_rtRead {s : State} : ∀ ini r, exec (.rtRead ini r) s = execRtRead ini r s := by intros; rfl
theorem exec_rtLoad {s : State} : ∀ ini r v, exec (.rtLoad ini r v) s = execRtLoad ini r v s := by intros; rfl
theorem exec_rtLoadDone {s : State} : ∀ r, exec (.rtLoadDone r) s = execRtLoadDone r s := by intros; rfl
theorem exec_egressRelease {s : State} : exec .egressRelease s = execEgressRelease s := by rfl
theorem exec_fctTailWrite {s : State} : ∀ ini k v, exec (.fctTailWrite ini k v) s = execFctTailWrite ini k v s := by intros; rfl
theorem exec_descriptorStart {s : State} : ∀ k, exec (.descriptorStart k) s = execDescriptorStart k s := by intros; rfl
theorem exec_descriptorDone {s : State} : ∀ k, exec (.descriptorDone k) s = execDescriptorDone k s := by intros; rfl
theorem exec_fctResume {s : State} : ∀ ini k, exec (.fctResume ini k) s = execFctResume ini k s := by intros; rfl
theorem exec_incEventApply {s : State} : ∀ k c, exec (.incEventApply k c) s = execIncEventApply k c s := by intros; rfl
theorem exec_rebaseStart {s : State} : ∀ k c, exec (.rebaseStart k c) s = execRebaseStart k c s := by intros; rfl
theorem exec_rebaseRowStep {s : State} : ∀ k c, exec (.rebaseRowStep k c) s = execRebaseRowStep k c s := by intros; rfl
theorem exec_rebaseDone {s : State} : ∀ k c, exec (.rebaseDone k c) s = execRebaseDone k c s := by intros; rfl
theorem exec_incRebase {s : State} : ∀ ini k c, exec (.incRebase ini k c) s = execIncRebase ini k c s := by intros; rfl
theorem exec_incClear {s : State} : ∀ ini k c v, exec (.incClear ini k c v) s = execIncClear ini k c v s := by intros; rfl
theorem exec_incClearDone {s : State} : ∀ k c, exec (.incClearDone k c) s = execIncClearDone k c s := by intros; rfl
theorem exec_incEnable {s : State} : ∀ ini k c v, exec (.incEnable ini k c v) s = execIncEnable ini k c v s := by intros; rfl
theorem exec_readout {s : State} : ∀ k c, exec (.readout k c) s = execReadout k c s := by intros; rfl
theorem exec_readoutDone {s : State} : ∀ k c, exec (.readoutDone k c) s = execReadoutDone k c s := by intros; rfl
theorem exec_detectionPass {s : State} : ∀ k c, exec (.detectionPass k c) s = execDetectionPass k c s := by intros; rfl
theorem exec_detectionPassDone {s : State} : ∀ k c, exec (.detectionPassDone k c) s = execDetectionPassDone k c s := by intros; rfl
theorem exec_rchBinClose {s : State} : exec .rchBinClose s = execRchBinClose s := by rfl
theorem exec_rateRecordTimeout {s : State} : ∀ ch, exec (.rateRecordTimeout ch) s = execRateRecordTimeout ch s := by intros; rfl
theorem exec_rchRun {s : State} : ∀ ini v, exec (.rchRun ini v) s = execRchRun ini v s := by intros; rfl
theorem exec_rchStop {s : State} : ∀ ini v, exec (.rchStop ini v) s = execRchStop ini v s := by intros; rfl
theorem exec_rchMapLoad {s : State} : ∀ ini v, exec (.rchMapLoad ini v) s = execRchMapLoad ini v s := by intros; rfl
theorem exec_rchMapLoadDone {s : State} : exec .rchMapLoadDone s = execRchMapLoadDone s := by rfl
theorem exec_modelLoad {s : State} : ∀ ini v, exec (.modelLoad ini v) s = execModelLoad ini v s := by intros; rfl
theorem exec_modelPatch {s : State} : ∀ ini v, exec (.modelPatch ini v) s = execModelPatch ini v s := by intros; rfl
theorem exec_modelLoadDone {s : State} : exec .modelLoadDone s = execModelLoadDone s := by rfl
theorem exec_completionPost {s : State} : exec .completionPost s = execCompletionPost s := by rfl
theorem exec_ledgerTimeout {s : State} : ∀ item, exec (.ledgerTimeout item) s = execLedgerTimeout item s := by intros; rfl
theorem exec_ldgCtlWrite {s : State} : ∀ ini v, exec (.ldgCtlWrite ini v) s = execLdgCtlWrite ini v s := by intros; rfl
theorem exec_cqEnable {s : State} : ∀ ini q v, exec (.cqEnable ini q v) s = execCqEnable ini q v s := by intros; rfl
theorem exec_winModeEnable {s : State} : ∀ ini p v, exec (.winModeEnable ini p v) s = execWinModeEnable ini p v s := by intros; rfl
theorem exec_ringEnable {s : State} : ∀ ini k v, exec (.ringEnable ini k v) s = execRingEnable ini k v s := by intros; rfl
theorem exec_windowClose {s : State} : ∀ p, exec (.windowClose p) s = execWindowClose p s := by intros; rfl
theorem exec_windowCloseByTime {s : State} : ∀ p, exec (.windowCloseByTime p) s = execWindowCloseByTime p s := by intros; rfl
theorem exec_windowChainStepDone {s : State} : ∀ p, exec (.windowChainStepDone p) s = execWindowChainStepDone p s := by intros; rfl
theorem exec_batchFlushTimeout {s : State} : ∀ p kind, exec (.batchFlushTimeout p kind) s = execBatchFlushTimeout p kind s := by intros; rfl
theorem exec_hbmRecal {s : State} : ∀ c, exec (.hbmRecal c) s = execHbmRecal c s := by intros; rfl
theorem exec_mergeFlush {s : State} : ∀ pc, exec (.mergeFlush pc) s = execMergeFlush pc s := by intros; rfl
theorem exec_bucketLeak {s : State} : ∀ b, exec (.bucketLeak b) s = execBucketLeak b s := by intros; rfl
theorem exec_bucketEnable {s : State} : ∀ ini b v, exec (.bucketEnable ini b v) s = execBucketEnable ini b v s := by intros; rfl
theorem exec_scrub {s : State} : ∀ ini v, exec (.scrub ini v) s = execScrub ini v s := by intros; rfl
theorem exec_fill {s : State} : ∀ ini v, exec (.fill ini v) s = execFill ini v s := by intros; rfl
theorem exec_scbDone {s : State} : exec .scbDone s = execScbDone s := by rfl
theorem exec_hbmTempRead {s : State} : ∀ temp, exec (.hbmTempRead temp) s = execHbmTempRead temp s := by intros; rfl
theorem exec_throttleUpdate {s : State} : exec .throttleUpdate s = execThrottleUpdate s := by rfl
theorem exec_wthEnable {s : State} : ∀ ini v, exec (.wthEnable ini v) s = execWthEnable ini v s := by intros; rfl
theorem exec_wthDisable {s : State} : ∀ ini v, exec (.wthDisable ini v) s = execWthDisable ini v s := by intros; rfl
theorem exec_yield {s : State} : ∀ ini, exec (.yield ini) s = execYield ini s := by intros; rfl
theorem exec_heartbeatSend {s : State} : exec .heartbeatSend s = execHeartbeatSend s := by rfl
theorem exec_timeSend {s : State} : ∀ p, exec (.timeSend p) s = execTimeSend p s := by intros; rfl
theorem exec_heartbeat {s : State} : ∀ frame crcOk, exec (.heartbeat frame crcOk) s = execHeartbeat frame crcOk s := by intros; rfl
theorem exec_time {s : State} : ∀ frame crcOk, exec (.time frame crcOk) s = execTime frame crcOk s := by intros; rfl
theorem exec_locus {s : State} : ∀ frame crcOk, exec (.locus frame crcOk) s = execLocus frame crcOk s := by intros; rfl
theorem exec_ledger {s : State} : ∀ frame crcOk, exec (.ledger frame crcOk) s = execLedger frame crcOk s := by intros; rfl
theorem exec_arb {s : State} : ∀ frame crcOk, exec (.arb frame crcOk) s = execArb frame crcOk s := by intros; rfl
theorem exec_nak {s : State} : ∀ frame crcOk, exec (.nak frame crcOk) s = execNak frame crcOk s := by intros; rfl
theorem exec_woethLinkDown {s : State} : ∀ lane, exec (.woethLinkDown lane) s = execWoethLinkDown lane s := by intros; rfl
theorem exec_woethLinkUp {s : State} : exec .woethLinkUp s = execWoethLinkUp s := by rfl
theorem exec_peerLost {s : State} : exec .peerLost s = execPeerLost s := by rfl
theorem exec_aliveInEdge {s : State} : exec .aliveInEdge s = execAliveInEdge s := by rfl
theorem exec_claimWindowEnd {s : State} : exec .claimWindowEnd s = execClaimWindowEnd s := by rfl
theorem exec_backoffEnd {s : State} : exec .backoffEnd s = execBackoffEnd s := by rfl
theorem exec_aliasExpire {s : State} : exec .aliasExpire s = execAliasExpire s := by rfl
theorem exec_cmpEntryTimeout {s : State} : exec .cmpEntryTimeout s = execCmpEntryTimeout s := by rfl
theorem exec_enterWatch {s : State} : ∀ ini, exec (.enterWatch ini) s = execEnterWatch ini s := by intros; rfl
theorem exec_enterSlumber {s : State} : ∀ ini, exec (.enterSlumber ini) s = execEnterSlumber ini s := by intros; rfl
theorem exec_enterDormant {s : State} : ∀ ini, exec (.enterDormant ini) s = execEnterDormant ini s := by intros; rfl
theorem exec_wake {s : State} : ∀ ini, exec (.wake ini) s = execWake ini s := by intros; rfl
theorem exec_pageAnswer {s : State} : ∀ coresReady, exec (.pageAnswer coresReady) s = execPageAnswer coresReady s := by intros; rfl
theorem exec_deferTimeout {s : State} : exec .deferTimeout s = execDeferTimeout s := by rfl
theorem exec_rollbackDone {s : State} : exec .rollbackDone s = execRollbackDone s := by rfl
theorem exec_entryStepDone {s : State} : exec .entryStepDone s = execEntryStepDone s := by rfl
theorem exec_wakePin {s : State} : exec .wakePin s = execWakePin s := by rfl
theorem exec_alarmWake {s : State} : ∀ p, exec (.alarmWake p) s = execAlarmWake p s := by intros; rfl
theorem exec_mgmtWake {s : State} : exec .mgmtWake s = execMgmtWake s := by rfl
theorem exec_mgmtStatusRead {s : State} : exec .mgmtStatusRead s = execMgmtStatusRead s := by rfl
theorem exec_core0HbmWake {s : State} : exec .core0HbmWake s = execCore0HbmWake s := by rfl
theorem exec_exitStepDone {s : State} : ∀ tr, exec (.exitStepDone tr) s = execExitStepDone tr s := by intros; rfl
theorem exec_regulatorTimeout {s : State} : ∀ pgLow, exec (.regulatorTimeout pgLow) s = execRegulatorTimeout pgLow s := by intros; rfl
theorem exec_regulatorRetry {s : State} : exec .regulatorRetry s = execRegulatorRetry s := by rfl
theorem exec_oscillatorTimeout {s : State} : ∀ refMhz, exec (.oscillatorTimeout refMhz) s = execOscillatorTimeout refMhz s := by intros; rfl
theorem exec_memoryTimeout {s : State} : ∀ failed, exec (.memoryTimeout failed) s = execMemoryTimeout failed s := by intros; rfl
theorem exec_logicTimeout {s : State} : exec .logicTimeout s = execLogicTimeout s := by rfl
theorem exec_dvfsRequest {s : State} : ∀ ini v, exec (.dvfsRequest ini v) s = execDvfsRequest ini v s := by intros; rfl
theorem exec_dvfsRaiseWait {s : State} : exec .dvfsRaiseWait s = execDvfsRaiseWait s := by rfl
theorem exec_railFault {s : State} : ∀ out, exec (.railFault out) s = execRailFault out s := by intros; rfl
theorem exec_thermtrip {s : State} : exec .thermtrip s = execThermtrip s := by rfl
theorem exec_bootStage0 {s : State} : ∀ authentic, exec (.bootStage0 authentic) s = execBootStage0 authentic s := by intros; rfl
theorem exec_bootStage1 {s : State} : exec .bootStage1 s = execBootStage1 s := by rfl
theorem exec_status {s : State} : exec .status s = execStatus s := by rfl
theorem exec_enroll {s : State} : exec .enroll s = execEnroll s := by rfl
theorem exec_getId {s : State} : ∀ via, exec (.getId via) s = execGetId via s := by intros; rfl
theorem exec_quote {s : State} : ∀ via, exec (.quote via) s = execQuote via s := by intros; rfl
theorem exec_extend {s : State} : ∀ via, exec (.extend via) s = execExtend via s := by intros; rfl
theorem exec_seal {s : State} : ∀ via, exec (.seal via) s = execSeal via s := by intros; rfl
theorem exec_lockset {s : State} : ∀ via, exec (.lockset via) s = execLockset via s := by intros; rfl
theorem exec_derive {s : State} : ∀ via, exec (.derive via) s = execDerive via s := by intros; rfl
theorem exec_challenge {s : State} : ∀ via, exec (.challenge via) s = execChallenge via s := by intros; rfl
theorem exec_respond {s : State} : ∀ via, exec (.respond via) s = execRespond via s := by intros; rfl
theorem exec_returnEraseDone {s : State} : exec .returnEraseDone s = execReturnEraseDone s := by rfl
theorem exec_close {s : State} : ∀ via, exec (.close via) s = execClose via s := by intros; rfl
theorem exec_setOwner {s : State} : ∀ via, exec (.setOwner via) s = execSetOwner via s := by intros; rfl
theorem exec_raiseFloor {s : State} : ∀ via, exec (.raiseFloor via) s = execRaiseFloor via s := by intros; rfl
theorem exec_challengeExpire {s : State} : exec .challengeExpire s = execChallengeExpire s := by rfl
theorem exec_hartStart {s : State} : ∀ ini v, exec (.hartStart ini v) s = execHartStart ini v s := by intros; rfl
theorem exec_machineTimerInterrupt {s : State} : ∀ h, exec (.machineTimerInterrupt h) s = execMachineTimerInterrupt h s := by intros; rfl
theorem exec_plicClaim {s : State} : ∀ ctx, exec (.plicClaim ctx) s = execPlicClaim ctx s := by intros; rfl
theorem exec_plicComplete {s : State} : ∀ ctx src, exec (.plicComplete ctx src) s = execPlicComplete ctx src s := by intros; rfl
theorem exec_pcieLinkChange {s : State} : ∀ up, exec (.pcieLinkChange up) s = execPcieLinkChange up s := by intros; rfl
theorem exec_pcieInboundRequest {s : State} : ∀ bar off acc poisoned, exec (.pcieInboundRequest bar off acc poisoned) s = execPcieInboundRequest bar off acc poisoned s := by intros; rfl
theorem exec_cfgTimeout {s : State} : exec .cfgTimeout s = execCfgTimeout s := by rfl
theorem exec_xspiGo {s : State} : ∀ ini, exec (.xspiGo ini) s = execXspiGo ini s := by intros; rfl
theorem exec_xspiDone {s : State} : ∀ bytes, exec (.xspiDone bytes) s = execXspiDone bytes s := by intros; rfl
theorem exec_xspiPollTimeout {s : State} : exec .xspiPollTimeout s = execXspiPollTimeout s := by rfl
theorem exec_mgmtWrite {s : State} : ∀ bytes, exec (.mgmtWrite bytes) s = execMgmtWrite bytes s := by intros; rfl
theorem exec_mgmtRead {s : State} : ∀ n, exec (.mgmtRead n) s = execMgmtRead n s := by intros; rfl
theorem exec_uartDataWrite {s : State} : ∀ ini v, exec (.uartDataWrite ini v) s = execUartDataWrite ini v s := by intros; rfl
theorem exec_uartDataRead {s : State} : ∀ ini, exec (.uartDataRead ini) s = execUartDataRead ini s := by intros; rfl
theorem exec_uartByteRx {s : State} : ∀ b parityErr frameErr, exec (.uartByteRx b parityErr frameErr) s = execUartByteRx b parityErr frameErr s := by intros; rfl
theorem exec_uartEnable {s : State} : ∀ ini v, exec (.uartEnable ini v) s = execUartEnable ini v s := by intros; rfl
theorem exec_gpioEdge {s : State} : ∀ pin level, exec (.gpioEdge pin level) s = execGpioEdge pin level s := by intros; rfl
theorem exec_tapReset {s : State} : exec .tapReset s = execTapReset s := by rfl
theorem exec_phyLockChange {s : State} : ∀ p locked, exec (.phyLockChange p locked) s = execPhyLockChange p locked s := by intros; rfl
theorem exec_rxActiveTimeout {s : State} : ∀ p, exec (.rxActiveTimeout p) s = execRxActiveTimeout p s := by intros; rfl
theorem exec_uartByteTx {s : State} : exec .uartByteTx s = execUartByteTx s := by rfl
theorem exec_pllLockLoss {s : State} : ∀ pll, exec (.pllLockLoss pll) s = execPllLockLoss pll s := by intros; rfl
theorem exec_debugModuleAccess {s : State} : ∀ hart op, exec (.debugModuleAccess hart op) s = execDebugModuleAccess hart op s := by intros; rfl
theorem exec_mgmtDynamicAddress {s : State} : ∀ addr, exec (.mgmtDynamicAddress addr) s = execMgmtDynamicAddress addr s := by intros; rfl

end Sys2Proof.Machine
end

