-- ==== Sys2Proof/Laws/Sparse.lean ====
section
/-!
SUPPORT. Laws/Sparse.lean: sparse data by number: what is read after a write, and that writes keep the canonical form.
-/

namespace Sys2Proof.Machine

@[simp] theorem Sp.find_insert_self {α : Type} (m : List (Nat × α)) (k : Nat) (v : α) :
    Sp.find (Sp.insert m k v) k = some v := by
  induction m with
  | nil => simp [Sp.insert, Sp.find]
  | cons p m ih =>
    obtain ⟨j, u⟩ := p
    simp only [Sp.insert]
    split
    · simp [Sp.find]
    · split
      · simp [Sp.find]
      · simp [Sp.find, *]

theorem Sp.find_insert_ne {α : Type} (m : List (Nat × α)) {k j : Nat} (v : α) (h : j ≠ k) :
    Sp.find (Sp.insert m k v) j = Sp.find m j := by
  induction m with
  | nil => simp [Sp.insert, Sp.find, Ne.symm h]
  | cons p m ih =>
    obtain ⟨i, u⟩ := p
    simp only [Sp.insert]
    split
    · simp [Sp.find, Ne.symm h]
    · split
      · rename_i hi; subst hi; simp [Sp.find, Ne.symm h]
      · simp [Sp.find, ih]

@[simp] theorem Sp.find_erase_self {α : Type} (m : List (Nat × α)) (k : Nat) : Sp.find (Sp.erase m k) k = none := by
  induction m with
  | nil => rfl
  | cons p m ih =>
    obtain ⟨j, u⟩ := p
    by_cases h : j = k
    · simpa [Sp.erase, h] using ih
    · simp only [Sp.erase] at ih
      simp [Sp.erase, Sp.find, h, ih]

theorem Sp.find_erase_ne {α : Type} (m : List (Nat × α)) {k j : Nat} (h : j ≠ k) :
    Sp.find (Sp.erase m k) j = Sp.find m j := by
  induction m with
  | nil => rfl
  | cons p m ih =>
    obtain ⟨i, u⟩ := p
    simp only [Sp.erase] at ih
    by_cases hi : i = k
    · subst hi; simp [Sp.erase, Sp.find, Ne.symm h, ih]
    · simp [Sp.erase, Sp.find, hi, ih]

@[simp] theorem Sp.get_set_self {α : Type} [DecidableEq α] (d : α) (m : List (Nat × α)) (k : Nat) (v : α) :
    Sp.get d (Sp.set d m k v) k = v := by
  unfold Sp.set
  split
  · simp [Sp.get, *]
  · simp [Sp.get]

/-- A write leaves every other place as it was, whatever each place reads when unlisted. -/
theorem Sp.get_set_ne {α : Type} [DecidableEq α] (d e : α) (m : List (Nat × α)) {k j : Nat} (v : α) (h : j ≠ k) :
    Sp.get e (Sp.set d m k v) j = Sp.get e m j := by
  unfold Sp.set
  split
  · simp [Sp.get, Sp.find_erase_ne m h]
  · simp [Sp.get, Sp.find_insert_ne m v h]

/-! ### The canonical form -/

theorem Sp.mem_insert {α : Type} {m : List (Nat × α)} {k : Nat} {v : α} {p : Nat × α} (h : p ∈ Sp.insert m k v) :
    p = (k, v) ∨ p ∈ m := by
  induction m with
  | nil => simpa [Sp.insert] using h
  | cons q m ih =>
    obtain ⟨j, u⟩ := q
    simp only [Sp.insert] at h
    split at h
    · simpa using h
    · split at h
      · simp only [List.mem_cons] at h ⊢; tauto
      · simp only [List.mem_cons] at h ⊢
        rcases h with h | h
        · tauto
        · rcases ih h with h | h <;> tauto

/-- Keys strictly rising. -/
def Sp.rising {α : Type} (m : List (Nat × α)) : Prop := (m.map Prod.fst).Pairwise (· < ·)

theorem Sp.rising_insert {α : Type} {m : List (Nat × α)} (h : Sp.rising m) (k : Nat) (v : α) :
    Sp.rising (Sp.insert m k v) := by
  induction m with
  | nil => simp [Sp.insert, Sp.rising]
  | cons q m ih =>
    obtain ⟨j, u⟩ := q
    simp only [Sp.rising, List.map_cons, List.pairwise_cons] at h ih
    simp only [Sp.insert]
    split
    · rename_i hk
      simp only [Sp.rising, List.map_cons, List.pairwise_cons, List.mem_cons, forall_eq_or_imp]
      exact ⟨⟨hk, fun a ha => Nat.lt_trans hk (h.1 a ha)⟩, h⟩
    · split
      · rename_i hj; subst hj
        simpa [Sp.rising] using h
      · rename_i h1 h2
        simp only [Sp.rising, List.map_cons, List.pairwise_cons]
        refine ⟨?_, ih h.2⟩
        intro a ha
        obtain ⟨p, hp, rfl⟩ := List.mem_map.mp ha
        rcases Sp.mem_insert hp with rfl | hp
        · simp only; omega
        · exact h.1 _ (List.mem_map_of_mem hp)

theorem Sp.rising_filter {α : Type} {m : List (Nat × α)} (h : Sp.rising m) (f : Nat × α → Bool) :
    Sp.rising (m.filter f) := by
  unfold Sp.rising at *
  exact List.Pairwise.sublist (List.Sublist.map _ List.filter_sublist) h

theorem Sp.rising_erase {α : Type} {m : List (Nat × α)} (h : Sp.rising m) (k : Nat) : Sp.rising (Sp.erase m k) :=
  Sp.rising_filter h _

/-- A write under a key's own default keeps the canonical form. -/
theorem Sp.wf_set {α : Type} [DecidableEq α] (d : Nat → α) {m : List (Nat × α)} (h : Sp.wf d m = true) (k : Nat) (v : α) :
    Sp.wf d (Sp.set (d k) m k v) = true := by
  simp only [Sp.wf, Bool.and_eq_true, decide_eq_true_eq, List.all_eq_true] at h ⊢
  unfold Sp.set
  split
  · exact ⟨Sp.rising_erase h.1 k, fun p hp => h.2 p (List.mem_filter.mp hp).1⟩
  · refine ⟨Sp.rising_insert h.1 k v, fun p hp => ?_⟩
    rcases Sp.mem_insert hp with rfl | hp
    · assumption
    · exact h.2 p hp

/-! ### Ranges -/

/-- The canonical form of a set of ranges, with a lower bound for the first. -/
def Iv.okFrom : Nat → List (Nat × Nat) → Prop
  | _, [] => True
  | lo, (b, f) :: r => lo ≤ b ∧ b < f ∧ Iv.okFrom (f + 1) r

theorem Iv.okFrom_mono {lo hi : Nat} {l : List (Nat × Nat)} (h : Iv.okFrom hi l) (hl : lo ≤ hi) : Iv.okFrom lo l := by
  cases l with
  | nil => trivial
  | cons p r => exact ⟨by have := h.1; omega, h.2⟩

theorem Iv.wf_iff (l : List (Nat × Nat)) : Iv.wf l = true ↔ Iv.okFrom 0 l := by
  have key : ∀ (r : List (Nat × Nat)) (b f : Nat), Iv.wf ((b, f) :: r) = true ↔ b < f ∧ Iv.okFrom (f + 1) r := by
    intro r
    induction r with
    | nil => intro b f; simp [Iv.wf, Iv.okFrom]
    | cons q r ih =>
      obtain ⟨c, g⟩ := q
      intro b f
      simp only [Iv.wf, Bool.and_eq_true, decide_eq_true_eq, ih, Iv.okFrom]
      exact ⟨fun h => ⟨h.1.1, h.1.2, h.2⟩, fun h => ⟨⟨h.1, h.2.1⟩, h.2.2⟩⟩
  cases l with
  | nil => simp [Iv.wf, Iv.okFrom]
  | cons p r => obtain ⟨b, f⟩ := p; simp [key, Iv.okFrom]

theorem Iv.has_cons (b f : Nat) (r : List (Nat × Nat)) (x : Nat) :
    Iv.has ((b, f) :: r) x = true ↔ (b ≤ x ∧ x < f) ∨ Iv.has r x = true := by
  simp [Iv.has]

theorem Iv.has_from {lo : Nat} {l : List (Nat × Nat)} (h : Iv.okFrom lo l) {x : Nat} (hx : Iv.has l x = true) : lo ≤ x := by
  induction l generalizing lo with
  | nil => simp [Iv.has] at hx
  | cons p r ih =>
    obtain ⟨b, f⟩ := p
    rcases (Iv.has_cons b f r x).mp hx with h1 | h1
    · have := h.1; omega
    · have := ih h.2.2 h1; have := h.1; have := h.2.1; omega

theorem Iv.okFrom_add {l : List (Nat × Nat)} {lo a e : Nat} (h : Iv.okFrom lo l) (hlo : lo ≤ a) (hae : a < e) :
    Iv.okFrom lo (Iv.add l a e) := by
  induction l generalizing lo a e with
  | nil => exact ⟨hlo, hae, trivial⟩
  | cons p r ih =>
    obtain ⟨b, f⟩ := p
    simp only [Iv.add]
    split
    · exact ⟨h.1, h.2.1, ih h.2.2 (by omega) hae⟩
    · split
      · exact ⟨hlo, hae, by omega, h.2.1, h.2.2⟩
      · have h1 := h.1
        exact ih (Iv.okFrom_mono h.2.2 (by have := h.2.1; omega)) (by omega) (by omega)

theorem Iv.has_add {l : List (Nat × Nat)} {lo a e : Nat} (h : Iv.okFrom lo l) (hae : a < e) (x : Nat) :
    Iv.has (Iv.add l a e) x = true ↔ (a ≤ x ∧ x < e) ∨ Iv.has l x = true := by
  induction l generalizing lo a e with
  | nil => simp [Iv.add, Iv.has]
  | cons p r ih =>
    obtain ⟨b, f⟩ := p
    have hb := h.2.1
    simp only [Iv.add]
    split
    · rw [Iv.has_cons, Iv.has_cons, ih h.2.2 hae]; tauto
    · split
      · rw [Iv.has_cons]
      · rw [ih h.2.2 (by omega), Iv.has_cons]
        by_cases hh : Iv.has r x = true
        · simp [hh]
        · simp only [hh, or_false, Bool.false_eq_true]; omega

theorem Iv.okFrom_del {l : List (Nat × Nat)} {lo a e : Nat} (h : Iv.okFrom lo l) (hae : a < e) :
    Iv.okFrom lo (Iv.del l a e) := by
  induction l generalizing lo with
  | nil => trivial
  | cons p r ih =>
    obtain ⟨b, f⟩ := p
    have h1 := h.1
    have h2 := h.2.1
    simp only [Iv.del]
    split
    · exact ⟨h1, h2, ih h.2.2⟩
    · split
      · exact h
      · have hd : Iv.okFrom (f + 1) (Iv.del r a e) := ih h.2.2
        split <;> split
        · exact ⟨h1, by omega, by omega, by omega, h.2.2⟩
        · exact ⟨h1, by omega, Iv.okFrom_mono hd (by omega)⟩
        · exact ⟨by omega, by omega, h.2.2⟩
        · exact Iv.okFrom_mono hd (by omega)

theorem Iv.has_del {l : List (Nat × Nat)} {lo a e : Nat} (h : Iv.okFrom lo l) (hae : a < e) (x : Nat) :
    Iv.has (Iv.del l a e) x = true ↔ Iv.has l x = true ∧ ¬ (a ≤ x ∧ x < e) := by
  induction l generalizing lo with
  | nil => simp [Iv.del, Iv.has]
  | cons p r ih =>
    obtain ⟨b, f⟩ := p
    have h2 := h.2.1
    have hr : Iv.has r x = true → f + 1 ≤ x := Iv.has_from h.2.2
    simp only [Iv.del]
    split
    · rw [Iv.has_cons, Iv.has_cons, ih h.2.2]
      constructor
      · rintro (hx | hx)
        · exact ⟨.inl hx, by omega⟩
        · exact ⟨.inr hx.1, hx.2⟩
      · rintro ⟨hx | hx, hn⟩
        · exact .inl hx
        · exact .inr ⟨hx, hn⟩
    · split
      · rw [Iv.has_cons]
        constructor
        · rintro (hx | hx)
          · exact ⟨.inl hx, by omega⟩
          · have := hr hx; exact ⟨.inr hx, by omega⟩
        · exact fun hx => hx.1
      · have hi := ih h.2.2
        split <;> split <;> simp only [List.cons_append, List.nil_append, Iv.has_cons, hi]
        all_goals
          by_cases hh : Iv.has r x = true
          · have := hr hh
            simp only [hh, true_and, or_true, true_iff]
            try omega
          · simp only [hh, false_and, or_false, Bool.false_eq_true, false_iff]
            try omega

end Sys2Proof.Machine
end

