-- ==== Sys2Proof/Laws/State.lean ====
section
/-!
SUPPORT. Laws/State.lean: what each update of the state leaves as it was, one lemma per field and update.
-/

namespace Sys2Proof.Machine

@[simp] theorem State.setReg_part (s : State) (p o : Nat) (v : Word) : (s.setReg p o v).part = s.part := by rfl
@[simp] theorem State.setReg_dtc (s : State) (p o : Nat) (v : Word) : (s.setReg p o v).dtc = s.dtc := by rfl
@[simp] theorem State.setReg_free (s : State) (p o : Nat) (v : Word) : (s.setReg p o v).free = s.free := by rfl
@[simp] theorem State.setReg_reply (s : State) (p o : Nat) (v : Word) : (s.setReg p o v).reply = s.reply := by rfl
@[simp] theorem State.setReg_off (s : State) (p o : Nat) (v : Word) : (s.setReg p o v).off = s.off := by rfl
@[simp] theorem State.setReg_inReset (s : State) (p o : Nat) (v : Word) : (s.setReg p o v).inReset = s.inReset := by rfl
@[simp] theorem State.setReg_unlocked (s : State) (p o : Nat) (v : Word) : (s.setReg p o v).unlocked = s.unlocked := by rfl
@[simp] theorem State.setReg_sched (s : State) (p o : Nat) (v : Word) : (s.setReg p o v).sched = s.sched := by rfl
@[simp] theorem State.setReg_mem (s : State) (p o : Nat) (v : Word) : (s.setReg p o v).mem = s.mem := by rfl
@[simp] theorem State.setReg_ldg (s : State) (p o : Nat) (v : Word) : (s.setReg p o v).ldg = s.ldg := by rfl
@[simp] theorem State.setReg_ptb (s : State) (p o : Nat) (v : Word) : (s.setReg p o v).ptb = s.ptb := by rfl
@[simp] theorem State.setReg_enc (s : State) (p o : Nat) (v : Word) : (s.setReg p o v).enc = s.enc := by rfl
@[simp] theorem State.setReg_tmap (s : State) (p o : Nat) (v : Word) : (s.setReg p o v).tmap = s.tmap := by rfl
@[simp] theorem State.setReg_res (s : State) (p o : Nat) (v : Word) : (s.setReg p o v).res = s.res := by rfl
@[simp] theorem State.setReg_net (s : State) (p o : Nat) (v : Word) : (s.setReg p o v).net = s.net := by rfl
@[simp] theorem State.setReg_pps (s : State) (p o : Nat) (v : Word) : (s.setReg p o v).pps = s.pps := by rfl
@[simp] theorem State.setReg_sp (s : State) (p o : Nat) (v : Word) : (s.setReg p o v).sp = s.sp := by rfl
@[simp] theorem State.setReg_ieq (s : State) (p o : Nat) (v : Word) : (s.setReg p o v).ieq = s.ieq := by rfl
@[simp] theorem State.setReg_rfx (s : State) (p o : Nat) (v : Word) : (s.setReg p o v).rfx = s.rfx := by rfl
@[simp] theorem State.setReg_sfs (s : State) (p o : Nat) (v : Word) : (s.setReg p o v).sfs = s.sfs := by rfl
@[simp] theorem State.setReg_chd (s : State) (p o : Nat) (v : Word) : (s.setReg p o v).chd = s.chd := by rfl
@[simp] theorem State.setReg_loc (s : State) (p o : Nat) (v : Word) : (s.setReg p o v).loc = s.loc := by rfl
@[simp] theorem State.setReg_rch (s : State) (p o : Nat) (v : Word) : (s.setReg p o v).rch = s.rch := by rfl
@[simp] theorem State.setReg_adm (s : State) (p o : Nat) (v : Word) : (s.setReg p o v).adm = s.adm := by rfl
@[simp] theorem State.setReg_lat (s : State) (p o : Nat) (v : Word) : (s.setReg p o v).lat = s.lat := by rfl
@[simp] theorem State.setReg_spk (s : State) (p o : Nat) (v : Word) : (s.setReg p o v).spk = s.spk := by rfl
@[simp] theorem State.setReg_coreClk (s : State) (p o : Nat) (v : Word) : (s.setReg p o v).coreClk = s.coreClk := by rfl
@[simp] theorem State.setReg_fct (s : State) (p o : Nat) (v : Word) : (s.setReg p o v).fct = s.fct := by rfl
@[simp] theorem State.setReg_inc (s : State) (p o : Nat) (v : Word) : (s.setReg p o v).inc = s.inc := by rfl
@[simp] theorem State.setReg_host (s : State) (p o : Nat) (v : Word) : (s.setReg p o v).host = s.host := by rfl
@[simp] theorem State.setReg_twin (s : State) (p o : Nat) (v : Word) : (s.setReg p o v).twin = s.twin := by rfl
@[simp] theorem State.setReg_pwr (s : State) (p o : Nat) (v : Word) : (s.setReg p o v).pwr = s.pwr := by rfl
@[simp] theorem State.setReg_sgr (s : State) (p o : Nat) (v : Word) : (s.setReg p o v).sgr = s.sgr := by rfl
@[simp] theorem State.setReg_pending (s : State) (p o : Nat) (v : Word) : (s.setReg p o v).pending = s.pending := by rfl

@[simp] theorem State.setFld_part (s : State) (p o lo n v : Nat) : (s.setFld p o lo n v).part = s.part := by rfl
@[simp] theorem State.setFld_dtc (s : State) (p o lo n v : Nat) : (s.setFld p o lo n v).dtc = s.dtc := by rfl
@[simp] theorem State.setFld_free (s : State) (p o lo n v : Nat) : (s.setFld p o lo n v).free = s.free := by rfl
@[simp] theorem State.setFld_reply (s : State) (p o lo n v : Nat) : (s.setFld p o lo n v).reply = s.reply := by rfl
@[simp] theorem State.setFld_off (s : State) (p o lo n v : Nat) : (s.setFld p o lo n v).off = s.off := by rfl
@[simp] theorem State.setFld_inReset (s : State) (p o lo n v : Nat) : (s.setFld p o lo n v).inReset = s.inReset := by rfl
@[simp] theorem State.setFld_unlocked (s : State) (p o lo n v : Nat) : (s.setFld p o lo n v).unlocked = s.unlocked := by rfl
@[simp] theorem State.setFld_sched (s : State) (p o lo n v : Nat) : (s.setFld p o lo n v).sched = s.sched := by rfl
@[simp] theorem State.setFld_mem (s : State) (p o lo n v : Nat) : (s.setFld p o lo n v).mem = s.mem := by rfl
@[simp] theorem State.setFld_ldg (s : State) (p o lo n v : Nat) : (s.setFld p o lo n v).ldg = s.ldg := by rfl
@[simp] theorem State.setFld_ptb (s : State) (p o lo n v : Nat) : (s.setFld p o lo n v).ptb = s.ptb := by rfl
@[simp] theorem State.setFld_enc (s : State) (p o lo n v : Nat) : (s.setFld p o lo n v).enc = s.enc := by rfl
@[simp] theorem State.setFld_tmap (s : State) (p o lo n v : Nat) : (s.setFld p o lo n v).tmap = s.tmap := by rfl
@[simp] theorem State.setFld_res (s : State) (p o lo n v : Nat) : (s.setFld p o lo n v).res = s.res := by rfl
@[simp] theorem State.setFld_net (s : State) (p o lo n v : Nat) : (s.setFld p o lo n v).net = s.net := by rfl
@[simp] theorem State.setFld_pps (s : State) (p o lo n v : Nat) : (s.setFld p o lo n v).pps = s.pps := by rfl
@[simp] theorem State.setFld_sp (s : State) (p o lo n v : Nat) : (s.setFld p o lo n v).sp = s.sp := by rfl
@[simp] theorem State.setFld_ieq (s : State) (p o lo n v : Nat) : (s.setFld p o lo n v).ieq = s.ieq := by rfl
@[simp] theorem State.setFld_rfx (s : State) (p o lo n v : Nat) : (s.setFld p o lo n v).rfx = s.rfx := by rfl
@[simp] theorem State.setFld_sfs (s : State) (p o lo n v : Nat) : (s.setFld p o lo n v).sfs = s.sfs := by rfl
@[simp] theorem State.setFld_chd (s : State) (p o lo n v : Nat) : (s.setFld p o lo n v).chd = s.chd := by rfl
@[simp] theorem State.setFld_loc (s : State) (p o lo n v : Nat) : (s.setFld p o lo n v).loc = s.loc := by rfl
@[simp] theorem State.setFld_rch (s : State) (p o lo n v : Nat) : (s.setFld p o lo n v).rch = s.rch := by rfl
@[simp] theorem State.setFld_adm (s : State) (p o lo n v : Nat) : (s.setFld p o lo n v).adm = s.adm := by rfl
@[simp] theorem State.setFld_lat (s : State) (p o lo n v : Nat) : (s.setFld p o lo n v).lat = s.lat := by rfl
@[simp] theorem State.setFld_spk (s : State) (p o lo n v : Nat) : (s.setFld p o lo n v).spk = s.spk := by rfl
@[simp] theorem State.setFld_coreClk (s : State) (p o lo n v : Nat) : (s.setFld p o lo n v).coreClk = s.coreClk := by rfl
@[simp] theorem State.setFld_fct (s : State) (p o lo n v : Nat) : (s.setFld p o lo n v).fct = s.fct := by rfl
@[simp] theorem State.setFld_inc (s : State) (p o lo n v : Nat) : (s.setFld p o lo n v).inc = s.inc := by rfl
@[simp] theorem State.setFld_host (s : State) (p o lo n v : Nat) : (s.setFld p o lo n v).host = s.host := by rfl
@[simp] theorem State.setFld_twin (s : State) (p o lo n v : Nat) : (s.setFld p o lo n v).twin = s.twin := by rfl
@[simp] theorem State.setFld_pwr (s : State) (p o lo n v : Nat) : (s.setFld p o lo n v).pwr = s.pwr := by rfl
@[simp] theorem State.setFld_sgr (s : State) (p o lo n v : Nat) : (s.setFld p o lo n v).sgr = s.sgr := by rfl
@[simp] theorem State.setFld_pending (s : State) (p o lo n v : Nat) : (s.setFld p o lo n v).pending = s.pending := by rfl

@[simp] theorem State.setBit_part (s : State) (p o i : Nat) (b : Bool) : (s.setBit p o i b).part = s.part := by rfl
@[simp] theorem State.setBit_dtc (s : State) (p o i : Nat) (b : Bool) : (s.setBit p o i b).dtc = s.dtc := by rfl
@[simp] theorem State.setBit_free (s : State) (p o i : Nat) (b : Bool) : (s.setBit p o i b).free = s.free := by rfl
@[simp] theorem State.setBit_reply (s : State) (p o i : Nat) (b : Bool) : (s.setBit p o i b).reply = s.reply := by rfl
@[simp] theorem State.setBit_off (s : State) (p o i : Nat) (b : Bool) : (s.setBit p o i b).off = s.off := by rfl
@[simp] theorem State.setBit_inReset (s : State) (p o i : Nat) (b : Bool) : (s.setBit p o i b).inReset = s.inReset := by rfl
@[simp] theorem State.setBit_unlocked (s : State) (p o i : Nat) (b : Bool) : (s.setBit p o i b).unlocked = s.unlocked := by rfl
@[simp] theorem State.setBit_sched (s : State) (p o i : Nat) (b : Bool) : (s.setBit p o i b).sched = s.sched := by rfl
@[simp] theorem State.setBit_mem (s : State) (p o i : Nat) (b : Bool) : (s.setBit p o i b).mem = s.mem := by rfl
@[simp] theorem State.setBit_ldg (s : State) (p o i : Nat) (b : Bool) : (s.setBit p o i b).ldg = s.ldg := by rfl
@[simp] theorem State.setBit_ptb (s : State) (p o i : Nat) (b : Bool) : (s.setBit p o i b).ptb = s.ptb := by rfl
@[simp] theorem State.setBit_enc (s : State) (p o i : Nat) (b : Bool) : (s.setBit p o i b).enc = s.enc := by rfl
@[simp] theorem State.setBit_tmap (s : State) (p o i : Nat) (b : Bool) : (s.setBit p o i b).tmap = s.tmap := by rfl
@[simp] theorem State.setBit_res (s : State) (p o i : Nat) (b : Bool) : (s.setBit p o i b).res = s.res := by rfl
@[simp] theorem State.setBit_net (s : State) (p o i : Nat) (b : Bool) : (s.setBit p o i b).net = s.net := by rfl
@[simp] theorem State.setBit_pps (s : State) (p o i : Nat) (b : Bool) : (s.setBit p o i b).pps = s.pps := by rfl
@[simp] theorem State.setBit_sp (s : State) (p o i : Nat) (b : Bool) : (s.setBit p o i b).sp = s.sp := by rfl
@[simp] theorem State.setBit_ieq (s : State) (p o i : Nat) (b : Bool) : (s.setBit p o i b).ieq = s.ieq := by rfl
@[simp] theorem State.setBit_rfx (s : State) (p o i : Nat) (b : Bool) : (s.setBit p o i b).rfx = s.rfx := by rfl
@[simp] theorem State.setBit_sfs (s : State) (p o i : Nat) (b : Bool) : (s.setBit p o i b).sfs = s.sfs := by rfl
@[simp] theorem State.setBit_chd (s : State) (p o i : Nat) (b : Bool) : (s.setBit p o i b).chd = s.chd := by rfl
@[simp] theorem State.setBit_loc (s : State) (p o i : Nat) (b : Bool) : (s.setBit p o i b).loc = s.loc := by rfl
@[simp] theorem State.setBit_rch (s : State) (p o i : Nat) (b : Bool) : (s.setBit p o i b).rch = s.rch := by rfl
@[simp] theorem State.setBit_adm (s : State) (p o i : Nat) (b : Bool) : (s.setBit p o i b).adm = s.adm := by rfl
@[simp] theorem State.setBit_lat (s : State) (p o i : Nat) (b : Bool) : (s.setBit p o i b).lat = s.lat := by rfl
@[simp] theorem State.setBit_spk (s : State) (p o i : Nat) (b : Bool) : (s.setBit p o i b).spk = s.spk := by rfl
@[simp] theorem State.setBit_coreClk (s : State) (p o i : Nat) (b : Bool) : (s.setBit p o i b).coreClk = s.coreClk := by rfl
@[simp] theorem State.setBit_fct (s : State) (p o i : Nat) (b : Bool) : (s.setBit p o i b).fct = s.fct := by rfl
@[simp] theorem State.setBit_inc (s : State) (p o i : Nat) (b : Bool) : (s.setBit p o i b).inc = s.inc := by rfl
@[simp] theorem State.setBit_host (s : State) (p o i : Nat) (b : Bool) : (s.setBit p o i b).host = s.host := by rfl
@[simp] theorem State.setBit_twin (s : State) (p o i : Nat) (b : Bool) : (s.setBit p o i b).twin = s.twin := by rfl
@[simp] theorem State.setBit_pwr (s : State) (p o i : Nat) (b : Bool) : (s.setBit p o i b).pwr = s.pwr := by rfl
@[simp] theorem State.setBit_sgr (s : State) (p o i : Nat) (b : Bool) : (s.setBit p o i b).sgr = s.sgr := by rfl
@[simp] theorem State.setBit_pending (s : State) (p o i : Nat) (b : Bool) : (s.setBit p o i b).pending = s.pending := by rfl

@[simp] theorem State.orReg_part (s : State) (p o : Nat) (v : Word) : (s.orReg p o v).part = s.part := by rfl
@[simp] theorem State.orReg_dtc (s : State) (p o : Nat) (v : Word) : (s.orReg p o v).dtc = s.dtc := by rfl
@[simp] theorem State.orReg_free (s : State) (p o : Nat) (v : Word) : (s.orReg p o v).free = s.free := by rfl
@[simp] theorem State.orReg_reply (s : State) (p o : Nat) (v : Word) : (s.orReg p o v).reply = s.reply := by rfl
@[simp] theorem State.orReg_off (s : State) (p o : Nat) (v : Word) : (s.orReg p o v).off = s.off := by rfl
@[simp] theorem State.orReg_inReset (s : State) (p o : Nat) (v : Word) : (s.orReg p o v).inReset = s.inReset := by rfl
@[simp] theorem State.orReg_unlocked (s : State) (p o : Nat) (v : Word) : (s.orReg p o v).unlocked = s.unlocked := by rfl
@[simp] theorem State.orReg_sched (s : State) (p o : Nat) (v : Word) : (s.orReg p o v).sched = s.sched := by rfl
@[simp] theorem State.orReg_mem (s : State) (p o : Nat) (v : Word) : (s.orReg p o v).mem = s.mem := by rfl
@[simp] theorem State.orReg_ldg (s : State) (p o : Nat) (v : Word) : (s.orReg p o v).ldg = s.ldg := by rfl
@[simp] theorem State.orReg_ptb (s : State) (p o : Nat) (v : Word) : (s.orReg p o v).ptb = s.ptb := by rfl
@[simp] theorem State.orReg_enc (s : State) (p o : Nat) (v : Word) : (s.orReg p o v).enc = s.enc := by rfl
@[simp] theorem State.orReg_tmap (s : State) (p o : Nat) (v : Word) : (s.orReg p o v).tmap = s.tmap := by rfl
@[simp] theorem State.orReg_res (s : State) (p o : Nat) (v : Word) : (s.orReg p o v).res = s.res := by rfl
@[simp] theorem State.orReg_net (s : State) (p o : Nat) (v : Word) : (s.orReg p o v).net = s.net := by rfl
@[simp] theorem State.orReg_pps (s : State) (p o : Nat) (v : Word) : (s.orReg p o v).pps = s.pps := by rfl
@[simp] theorem State.orReg_sp (s : State) (p o : Nat) (v : Word) : (s.orReg p o v).sp = s.sp := by rfl
@[simp] theorem State.orReg_ieq (s : State) (p o : Nat) (v : Word) : (s.orReg p o v).ieq = s.ieq := by rfl
@[simp] theorem State.orReg_rfx (s : State) (p o : Nat) (v : Word) : (s.orReg p o v).rfx = s.rfx := by rfl
@[simp] theorem State.orReg_sfs (s : State) (p o : Nat) (v : Word) : (s.orReg p o v).sfs = s.sfs := by rfl
@[simp] theorem State.orReg_chd (s : State) (p o : Nat) (v : Word) : (s.orReg p o v).chd = s.chd := by rfl
@[simp] theorem State.orReg_loc (s : State) (p o : Nat) (v : Word) : (s.orReg p o v).loc = s.loc := by rfl
@[simp] theorem State.orReg_rch (s : State) (p o : Nat) (v : Word) : (s.orReg p o v).rch = s.rch := by rfl
@[simp] theorem State.orReg_adm (s : State) (p o : Nat) (v : Word) : (s.orReg p o v).adm = s.adm := by rfl
@[simp] theorem State.orReg_lat (s : State) (p o : Nat) (v : Word) : (s.orReg p o v).lat = s.lat := by rfl
@[simp] theorem State.orReg_spk (s : State) (p o : Nat) (v : Word) : (s.orReg p o v).spk = s.spk := by rfl
@[simp] theorem State.orReg_coreClk (s : State) (p o : Nat) (v : Word) : (s.orReg p o v).coreClk = s.coreClk := by rfl
@[simp] theorem State.orReg_fct (s : State) (p o : Nat) (v : Word) : (s.orReg p o v).fct = s.fct := by rfl
@[simp] theorem State.orReg_inc (s : State) (p o : Nat) (v : Word) : (s.orReg p o v).inc = s.inc := by rfl
@[simp] theorem State.orReg_host (s : State) (p o : Nat) (v : Word) : (s.orReg p o v).host = s.host := by rfl
@[simp] theorem State.orReg_twin (s : State) (p o : Nat) (v : Word) : (s.orReg p o v).twin = s.twin := by rfl
@[simp] theorem State.orReg_pwr (s : State) (p o : Nat) (v : Word) : (s.orReg p o v).pwr = s.pwr := by rfl
@[simp] theorem State.orReg_sgr (s : State) (p o : Nat) (v : Word) : (s.orReg p o v).sgr = s.sgr := by rfl
@[simp] theorem State.orReg_pending (s : State) (p o : Nat) (v : Word) : (s.orReg p o v).pending = s.pending := by rfl

@[simp] theorem State.addCnt_part (s : State) (p o lo n k : Nat) : (s.addCnt p o lo n k).part = s.part := by rfl
@[simp] theorem State.addCnt_dtc (s : State) (p o lo n k : Nat) : (s.addCnt p o lo n k).dtc = s.dtc := by rfl
@[simp] theorem State.addCnt_free (s : State) (p o lo n k : Nat) : (s.addCnt p o lo n k).free = s.free := by rfl
@[simp] theorem State.addCnt_reply (s : State) (p o lo n k : Nat) : (s.addCnt p o lo n k).reply = s.reply := by rfl
@[simp] theorem State.addCnt_off (s : State) (p o lo n k : Nat) : (s.addCnt p o lo n k).off = s.off := by rfl
@[simp] theorem State.addCnt_inReset (s : State) (p o lo n k : Nat) : (s.addCnt p o lo n k).inReset = s.inReset := by rfl
@[simp] theorem State.addCnt_unlocked (s : State) (p o lo n k : Nat) : (s.addCnt p o lo n k).unlocked = s.unlocked := by rfl
@[simp] theorem State.addCnt_sched (s : State) (p o lo n k : Nat) : (s.addCnt p o lo n k).sched = s.sched := by rfl
@[simp] theorem State.addCnt_mem (s : State) (p o lo n k : Nat) : (s.addCnt p o lo n k).mem = s.mem := by rfl
@[simp] theorem State.addCnt_ldg (s : State) (p o lo n k : Nat) : (s.addCnt p o lo n k).ldg = s.ldg := by rfl
@[simp] theorem State.addCnt_ptb (s : State) (p o lo n k : Nat) : (s.addCnt p o lo n k).ptb = s.ptb := by rfl
@[simp] theorem State.addCnt_enc (s : State) (p o lo n k : Nat) : (s.addCnt p o lo n k).enc = s.enc := by rfl
@[simp] theorem State.addCnt_tmap (s : State) (p o lo n k : Nat) : (s.addCnt p o lo n k).tmap = s.tmap := by rfl
@[simp] theorem State.addCnt_res (s : State) (p o lo n k : Nat) : (s.addCnt p o lo n k).res = s.res := by rfl
@[simp] theorem State.addCnt_net (s : State) (p o lo n k : Nat) : (s.addCnt p o lo n k).net = s.net := by rfl
@[simp] theorem State.addCnt_pps (s : State) (p o lo n k : Nat) : (s.addCnt p o lo n k).pps = s.pps := by rfl
@[simp] theorem State.addCnt_sp (s : State) (p o lo n k : Nat) : (s.addCnt p o lo n k).sp = s.sp := by rfl
@[simp] theorem State.addCnt_ieq (s : State) (p o lo n k : Nat) : (s.addCnt p o lo n k).ieq = s.ieq := by rfl
@[simp] theorem State.addCnt_rfx (s : State) (p o lo n k : Nat) : (s.addCnt p o lo n k).rfx = s.rfx := by rfl
@[simp] theorem State.addCnt_sfs (s : State) (p o lo n k : Nat) : (s.addCnt p o lo n k).sfs = s.sfs := by rfl
@[simp] theorem State.addCnt_chd (s : State) (p o lo n k : Nat) : (s.addCnt p o lo n k).chd = s.chd := by rfl
@[simp] theorem State.addCnt_loc (s : State) (p o lo n k : Nat) : (s.addCnt p o lo n k).loc = s.loc := by rfl
@[simp] theorem State.addCnt_rch (s : State) (p o lo n k : Nat) : (s.addCnt p o lo n k).rch = s.rch := by rfl
@[simp] theorem State.addCnt_adm (s : State) (p o lo n k : Nat) : (s.addCnt p o lo n k).adm = s.adm := by rfl
@[simp] theorem State.addCnt_lat (s : State) (p o lo n k : Nat) : (s.addCnt p o lo n k).lat = s.lat := by rfl
@[simp] theorem State.addCnt_spk (s : State) (p o lo n k : Nat) : (s.addCnt p o lo n k).spk = s.spk := by rfl
@[simp] theorem State.addCnt_coreClk (s : State) (p o lo n k : Nat) : (s.addCnt p o lo n k).coreClk = s.coreClk := by rfl
@[simp] theorem State.addCnt_fct (s : State) (p o lo n k : Nat) : (s.addCnt p o lo n k).fct = s.fct := by rfl
@[simp] theorem State.addCnt_inc (s : State) (p o lo n k : Nat) : (s.addCnt p o lo n k).inc = s.inc := by rfl
@[simp] theorem State.addCnt_host (s : State) (p o lo n k : Nat) : (s.addCnt p o lo n k).host = s.host := by rfl
@[simp] theorem State.addCnt_twin (s : State) (p o lo n k : Nat) : (s.addCnt p o lo n k).twin = s.twin := by rfl
@[simp] theorem State.addCnt_pwr (s : State) (p o lo n k : Nat) : (s.addCnt p o lo n k).pwr = s.pwr := by rfl
@[simp] theorem State.addCnt_sgr (s : State) (p o lo n k : Nat) : (s.addCnt p o lo n k).sgr = s.sgr := by rfl
@[simp] theorem State.addCnt_pending (s : State) (p o lo n k : Nat) : (s.addCnt p o lo n k).pending = s.pending := by rfl

@[simp] theorem State.bump_part (s : State) (p o lo n : Nat) : (s.bump p o lo n).part = s.part := by rfl
@[simp] theorem State.bump_dtc (s : State) (p o lo n : Nat) : (s.bump p o lo n).dtc = s.dtc := by rfl
@[simp] theorem State.bump_free (s : State) (p o lo n : Nat) : (s.bump p o lo n).free = s.free := by rfl
@[simp] theorem State.bump_reply (s : State) (p o lo n : Nat) : (s.bump p o lo n).reply = s.reply := by rfl
@[simp] theorem State.bump_off (s : State) (p o lo n : Nat) : (s.bump p o lo n).off = s.off := by rfl
@[simp] theorem State.bump_inReset (s : State) (p o lo n : Nat) : (s.bump p o lo n).inReset = s.inReset := by rfl
@[simp] theorem State.bump_unlocked (s : State) (p o lo n : Nat) : (s.bump p o lo n).unlocked = s.unlocked := by rfl
@[simp] theorem State.bump_sched (s : State) (p o lo n : Nat) : (s.bump p o lo n).sched = s.sched := by rfl
@[simp] theorem State.bump_mem (s : State) (p o lo n : Nat) : (s.bump p o lo n).mem = s.mem := by rfl
@[simp] theorem State.bump_ldg (s : State) (p o lo n : Nat) : (s.bump p o lo n).ldg = s.ldg := by rfl
@[simp] theorem State.bump_ptb (s : State) (p o lo n : Nat) : (s.bump p o lo n).ptb = s.ptb := by rfl
@[simp] theorem State.bump_enc (s : State) (p o lo n : Nat) : (s.bump p o lo n).enc = s.enc := by rfl
@[simp] theorem State.bump_tmap (s : State) (p o lo n : Nat) : (s.bump p o lo n).tmap = s.tmap := by rfl
@[simp] theorem State.bump_res (s : State) (p o lo n : Nat) : (s.bump p o lo n).res = s.res := by rfl
@[simp] theorem State.bump_net (s : State) (p o lo n : Nat) : (s.bump p o lo n).net = s.net := by rfl
@[simp] theorem State.bump_pps (s : State) (p o lo n : Nat) : (s.bump p o lo n).pps = s.pps := by rfl
@[simp] theorem State.bump_sp (s : State) (p o lo n : Nat) : (s.bump p o lo n).sp = s.sp := by rfl
@[simp] theorem State.bump_ieq (s : State) (p o lo n : Nat) : (s.bump p o lo n).ieq = s.ieq := by rfl
@[simp] theorem State.bump_rfx (s : State) (p o lo n : Nat) : (s.bump p o lo n).rfx = s.rfx := by rfl
@[simp] theorem State.bump_sfs (s : State) (p o lo n : Nat) : (s.bump p o lo n).sfs = s.sfs := by rfl
@[simp] theorem State.bump_chd (s : State) (p o lo n : Nat) : (s.bump p o lo n).chd = s.chd := by rfl
@[simp] theorem State.bump_loc (s : State) (p o lo n : Nat) : (s.bump p o lo n).loc = s.loc := by rfl
@[simp] theorem State.bump_rch (s : State) (p o lo n : Nat) : (s.bump p o lo n).rch = s.rch := by rfl
@[simp] theorem State.bump_adm (s : State) (p o lo n : Nat) : (s.bump p o lo n).adm = s.adm := by rfl
@[simp] theorem State.bump_lat (s : State) (p o lo n : Nat) : (s.bump p o lo n).lat = s.lat := by rfl
@[simp] theorem State.bump_spk (s : State) (p o lo n : Nat) : (s.bump p o lo n).spk = s.spk := by rfl
@[simp] theorem State.bump_coreClk (s : State) (p o lo n : Nat) : (s.bump p o lo n).coreClk = s.coreClk := by rfl
@[simp] theorem State.bump_fct (s : State) (p o lo n : Nat) : (s.bump p o lo n).fct = s.fct := by rfl
@[simp] theorem State.bump_inc (s : State) (p o lo n : Nat) : (s.bump p o lo n).inc = s.inc := by rfl
@[simp] theorem State.bump_host (s : State) (p o lo n : Nat) : (s.bump p o lo n).host = s.host := by rfl
@[simp] theorem State.bump_twin (s : State) (p o lo n : Nat) : (s.bump p o lo n).twin = s.twin := by rfl
@[simp] theorem State.bump_pwr (s : State) (p o lo n : Nat) : (s.bump p o lo n).pwr = s.pwr := by rfl
@[simp] theorem State.bump_sgr (s : State) (p o lo n : Nat) : (s.bump p o lo n).sgr = s.sgr := by rfl
@[simp] theorem State.bump_pending (s : State) (p o lo n : Nat) : (s.bump p o lo n).pending = s.pending := by rfl

@[simp] theorem State.irq_part (s : State) (p b : Nat) : (s.irq p b).part = s.part := by rfl
@[simp] theorem State.irq_dtc (s : State) (p b : Nat) : (s.irq p b).dtc = s.dtc := by rfl
@[simp] theorem State.irq_free (s : State) (p b : Nat) : (s.irq p b).free = s.free := by rfl
@[simp] theorem State.irq_reply (s : State) (p b : Nat) : (s.irq p b).reply = s.reply := by rfl
@[simp] theorem State.irq_off (s : State) (p b : Nat) : (s.irq p b).off = s.off := by rfl
@[simp] theorem State.irq_inReset (s : State) (p b : Nat) : (s.irq p b).inReset = s.inReset := by rfl
@[simp] theorem State.irq_unlocked (s : State) (p b : Nat) : (s.irq p b).unlocked = s.unlocked := by rfl
@[simp] theorem State.irq_sched (s : State) (p b : Nat) : (s.irq p b).sched = s.sched := by rfl
@[simp] theorem State.irq_mem (s : State) (p b : Nat) : (s.irq p b).mem = s.mem := by rfl
@[simp] theorem State.irq_ldg (s : State) (p b : Nat) : (s.irq p b).ldg = s.ldg := by rfl
@[simp] theorem State.irq_ptb (s : State) (p b : Nat) : (s.irq p b).ptb = s.ptb := by rfl
@[simp] theorem State.irq_enc (s : State) (p b : Nat) : (s.irq p b).enc = s.enc := by rfl
@[simp] theorem State.irq_tmap (s : State) (p b : Nat) : (s.irq p b).tmap = s.tmap := by rfl
@[simp] theorem State.irq_res (s : State) (p b : Nat) : (s.irq p b).res = s.res := by rfl
@[simp] theorem State.irq_net (s : State) (p b : Nat) : (s.irq p b).net = s.net := by rfl
@[simp] theorem State.irq_pps (s : State) (p b : Nat) : (s.irq p b).pps = s.pps := by rfl
@[simp] theorem State.irq_sp (s : State) (p b : Nat) : (s.irq p b).sp = s.sp := by rfl
@[simp] theorem State.irq_ieq (s : State) (p b : Nat) : (s.irq p b).ieq = s.ieq := by rfl
@[simp] theorem State.irq_rfx (s : State) (p b : Nat) : (s.irq p b).rfx = s.rfx := by rfl
@[simp] theorem State.irq_sfs (s : State) (p b : Nat) : (s.irq p b).sfs = s.sfs := by rfl
@[simp] theorem State.irq_chd (s : State) (p b : Nat) : (s.irq p b).chd = s.chd := by rfl
@[simp] theorem State.irq_loc (s : State) (p b : Nat) : (s.irq p b).loc = s.loc := by rfl
@[simp] theorem State.irq_rch (s : State) (p b : Nat) : (s.irq p b).rch = s.rch := by rfl
@[simp] theorem State.irq_adm (s : State) (p b : Nat) : (s.irq p b).adm = s.adm := by rfl
@[simp] theorem State.irq_lat (s : State) (p b : Nat) : (s.irq p b).lat = s.lat := by rfl
@[simp] theorem State.irq_spk (s : State) (p b : Nat) : (s.irq p b).spk = s.spk := by rfl
@[simp] theorem State.irq_coreClk (s : State) (p b : Nat) : (s.irq p b).coreClk = s.coreClk := by rfl
@[simp] theorem State.irq_fct (s : State) (p b : Nat) : (s.irq p b).fct = s.fct := by rfl
@[simp] theorem State.irq_inc (s : State) (p b : Nat) : (s.irq p b).inc = s.inc := by rfl
@[simp] theorem State.irq_host (s : State) (p b : Nat) : (s.irq p b).host = s.host := by rfl
@[simp] theorem State.irq_twin (s : State) (p b : Nat) : (s.irq p b).twin = s.twin := by rfl
@[simp] theorem State.irq_pwr (s : State) (p b : Nat) : (s.irq p b).pwr = s.pwr := by rfl
@[simp] theorem State.irq_sgr (s : State) (p b : Nat) : (s.irq p b).sgr = s.sgr := by rfl
@[simp] theorem State.irq_pending (s : State) (p b : Nat) : (s.irq p b).pending = s.pending := by rfl

@[simp] theorem State.withQueueOf_dtc (s : State) (u : State) : (s.withQueueOf u).dtc = s.dtc := by rfl
@[simp] theorem State.withQueueOf_free (s : State) (u : State) : (s.withQueueOf u).free = s.free := by rfl
@[simp] theorem State.withQueueOf_regs (s : State) (u : State) : (s.withQueueOf u).regs = s.regs := by rfl
@[simp] theorem State.withQueueOf_reply (s : State) (u : State) : (s.withQueueOf u).reply = s.reply := by rfl
@[simp] theorem State.withQueueOf_off (s : State) (u : State) : (s.withQueueOf u).off = s.off := by rfl
@[simp] theorem State.withQueueOf_inReset (s : State) (u : State) : (s.withQueueOf u).inReset = s.inReset := by rfl
@[simp] theorem State.withQueueOf_unlocked (s : State) (u : State) : (s.withQueueOf u).unlocked = s.unlocked := by rfl
@[simp] theorem State.withQueueOf_sched (s : State) (u : State) : (s.withQueueOf u).sched = s.sched := by rfl
@[simp] theorem State.withQueueOf_mem (s : State) (u : State) : (s.withQueueOf u).mem = s.mem := by rfl
@[simp] theorem State.withQueueOf_ldg (s : State) (u : State) : (s.withQueueOf u).ldg = s.ldg := by rfl
@[simp] theorem State.withQueueOf_ptb (s : State) (u : State) : (s.withQueueOf u).ptb = s.ptb := by rfl
@[simp] theorem State.withQueueOf_enc (s : State) (u : State) : (s.withQueueOf u).enc = s.enc := by rfl
@[simp] theorem State.withQueueOf_tmap (s : State) (u : State) : (s.withQueueOf u).tmap = s.tmap := by rfl
@[simp] theorem State.withQueueOf_res (s : State) (u : State) : (s.withQueueOf u).res = s.res := by rfl
@[simp] theorem State.withQueueOf_net (s : State) (u : State) : (s.withQueueOf u).net = s.net := by rfl
@[simp] theorem State.withQueueOf_pps (s : State) (u : State) : (s.withQueueOf u).pps = s.pps := by rfl
@[simp] theorem State.withQueueOf_sp (s : State) (u : State) : (s.withQueueOf u).sp = s.sp := by rfl
@[simp] theorem State.withQueueOf_ieq (s : State) (u : State) : (s.withQueueOf u).ieq = s.ieq := by rfl
@[simp] theorem State.withQueueOf_rfx (s : State) (u : State) : (s.withQueueOf u).rfx = s.rfx := by rfl
@[simp] theorem State.withQueueOf_sfs (s : State) (u : State) : (s.withQueueOf u).sfs = s.sfs := by rfl
@[simp] theorem State.withQueueOf_chd (s : State) (u : State) : (s.withQueueOf u).chd = s.chd := by rfl
@[simp] theorem State.withQueueOf_loc (s : State) (u : State) : (s.withQueueOf u).loc = s.loc := by rfl
@[simp] theorem State.withQueueOf_rch (s : State) (u : State) : (s.withQueueOf u).rch = s.rch := by rfl
@[simp] theorem State.withQueueOf_adm (s : State) (u : State) : (s.withQueueOf u).adm = s.adm := by rfl
@[simp] theorem State.withQueueOf_lat (s : State) (u : State) : (s.withQueueOf u).lat = s.lat := by rfl
@[simp] theorem State.withQueueOf_spk (s : State) (u : State) : (s.withQueueOf u).spk = s.spk := by rfl
@[simp] theorem State.withQueueOf_coreClk (s : State) (u : State) : (s.withQueueOf u).coreClk = s.coreClk := by rfl
@[simp] theorem State.withQueueOf_fct (s : State) (u : State) : (s.withQueueOf u).fct = s.fct := by rfl
@[simp] theorem State.withQueueOf_inc (s : State) (u : State) : (s.withQueueOf u).inc = s.inc := by rfl
@[simp] theorem State.withQueueOf_host (s : State) (u : State) : (s.withQueueOf u).host = s.host := by rfl
@[simp] theorem State.withQueueOf_twin (s : State) (u : State) : (s.withQueueOf u).twin = s.twin := by rfl
@[simp] theorem State.withQueueOf_pwr (s : State) (u : State) : (s.withQueueOf u).pwr = s.pwr := by rfl
@[simp] theorem State.withQueueOf_sgr (s : State) (u : State) : (s.withQueueOf u).sgr = s.sgr := by rfl

@[simp] theorem State.busErr_part (s : State) (ini : Initiator) : (s.busErr ini).part = s.part := by rfl
@[simp] theorem State.busErr_dtc (s : State) (ini : Initiator) : (s.busErr ini).dtc = s.dtc := by rfl
@[simp] theorem State.busErr_free (s : State) (ini : Initiator) : (s.busErr ini).free = s.free := by rfl
@[simp] theorem State.busErr_regs (s : State) (ini : Initiator) : (s.busErr ini).regs = s.regs := by rfl
@[simp] theorem State.busErr_off (s : State) (ini : Initiator) : (s.busErr ini).off = s.off := by rfl
@[simp] theorem State.busErr_inReset (s : State) (ini : Initiator) : (s.busErr ini).inReset = s.inReset := by rfl
@[simp] theorem State.busErr_unlocked (s : State) (ini : Initiator) : (s.busErr ini).unlocked = s.unlocked := by rfl
@[simp] theorem State.busErr_sched (s : State) (ini : Initiator) : (s.busErr ini).sched = s.sched := by rfl
@[simp] theorem State.busErr_mem (s : State) (ini : Initiator) : (s.busErr ini).mem = s.mem := by rfl
@[simp] theorem State.busErr_ldg (s : State) (ini : Initiator) : (s.busErr ini).ldg = s.ldg := by rfl
@[simp] theorem State.busErr_ptb (s : State) (ini : Initiator) : (s.busErr ini).ptb = s.ptb := by rfl
@[simp] theorem State.busErr_enc (s : State) (ini : Initiator) : (s.busErr ini).enc = s.enc := by rfl
@[simp] theorem State.busErr_tmap (s : State) (ini : Initiator) : (s.busErr ini).tmap = s.tmap := by rfl
@[simp] theorem State.busErr_res (s : State) (ini : Initiator) : (s.busErr ini).res = s.res := by rfl
@[simp] theorem State.busErr_net (s : State) (ini : Initiator) : (s.busErr ini).net = s.net := by rfl
@[simp] theorem State.busErr_pps (s : State) (ini : Initiator) : (s.busErr ini).pps = s.pps := by rfl
@[simp] theorem State.busErr_sp (s : State) (ini : Initiator) : (s.busErr ini).sp = s.sp := by rfl
@[simp] theorem State.busErr_ieq (s : State) (ini : Initiator) : (s.busErr ini).ieq = s.ieq := by rfl
@[simp] theorem State.busErr_rfx (s : State) (ini : Initiator) : (s.busErr ini).rfx = s.rfx := by rfl
@[simp] theorem State.busErr_sfs (s : State) (ini : Initiator) : (s.busErr ini).sfs = s.sfs := by rfl
@[simp] theorem State.busErr_chd (s : State) (ini : Initiator) : (s.busErr ini).chd = s.chd := by rfl
@[simp] theorem State.busErr_loc (s : State) (ini : Initiator) : (s.busErr ini).loc = s.loc := by rfl
@[simp] theorem State.busErr_rch (s : State) (ini : Initiator) : (s.busErr ini).rch = s.rch := by rfl
@[simp] theorem State.busErr_adm (s : State) (ini : Initiator) : (s.busErr ini).adm = s.adm := by rfl
@[simp] theorem State.busErr_lat (s : State) (ini : Initiator) : (s.busErr ini).lat = s.lat := by rfl
@[simp] theorem State.busErr_spk (s : State) (ini : Initiator) : (s.busErr ini).spk = s.spk := by rfl
@[simp] theorem State.busErr_coreClk (s : State) (ini : Initiator) : (s.busErr ini).coreClk = s.coreClk := by rfl
@[simp] theorem State.busErr_fct (s : State) (ini : Initiator) : (s.busErr ini).fct = s.fct := by rfl
@[simp] theorem State.busErr_inc (s : State) (ini : Initiator) : (s.busErr ini).inc = s.inc := by rfl
@[simp] theorem State.busErr_host (s : State) (ini : Initiator) : (s.busErr ini).host = s.host := by rfl
@[simp] theorem State.busErr_twin (s : State) (ini : Initiator) : (s.busErr ini).twin = s.twin := by rfl
@[simp] theorem State.busErr_pwr (s : State) (ini : Initiator) : (s.busErr ini).pwr = s.pwr := by rfl
@[simp] theorem State.busErr_sgr (s : State) (ini : Initiator) : (s.busErr ini).sgr = s.sgr := by rfl
@[simp] theorem State.busErr_pending (s : State) (ini : Initiator) : (s.busErr ini).pending = s.pending := by rfl

@[simp] theorem State.schedAdd_part (s : State) (i : ItemId) (b : Fin 8) (x y : Word) : (s.schedAdd i b x y).part = s.part := by rfl
@[simp] theorem State.schedAdd_dtc (s : State) (i : ItemId) (b : Fin 8) (x y : Word) : (s.schedAdd i b x y).dtc = s.dtc := by rfl
@[simp] theorem State.schedAdd_free (s : State) (i : ItemId) (b : Fin 8) (x y : Word) : (s.schedAdd i b x y).free = s.free := by rfl
@[simp] theorem State.schedAdd_regs (s : State) (i : ItemId) (b : Fin 8) (x y : Word) : (s.schedAdd i b x y).regs = s.regs := by rfl
@[simp] theorem State.schedAdd_reply (s : State) (i : ItemId) (b : Fin 8) (x y : Word) : (s.schedAdd i b x y).reply = s.reply := by rfl
@[simp] theorem State.schedAdd_off (s : State) (i : ItemId) (b : Fin 8) (x y : Word) : (s.schedAdd i b x y).off = s.off := by rfl
@[simp] theorem State.schedAdd_inReset (s : State) (i : ItemId) (b : Fin 8) (x y : Word) : (s.schedAdd i b x y).inReset = s.inReset := by rfl
@[simp] theorem State.schedAdd_unlocked (s : State) (i : ItemId) (b : Fin 8) (x y : Word) : (s.schedAdd i b x y).unlocked = s.unlocked := by rfl
@[simp] theorem State.schedAdd_mem (s : State) (i : ItemId) (b : Fin 8) (x y : Word) : (s.schedAdd i b x y).mem = s.mem := by rfl
@[simp] theorem State.schedAdd_ldg (s : State) (i : ItemId) (b : Fin 8) (x y : Word) : (s.schedAdd i b x y).ldg = s.ldg := by rfl
@[simp] theorem State.schedAdd_ptb (s : State) (i : ItemId) (b : Fin 8) (x y : Word) : (s.schedAdd i b x y).ptb = s.ptb := by rfl
@[simp] theorem State.schedAdd_enc (s : State) (i : ItemId) (b : Fin 8) (x y : Word) : (s.schedAdd i b x y).enc = s.enc := by rfl
@[simp] theorem State.schedAdd_tmap (s : State) (i : ItemId) (b : Fin 8) (x y : Word) : (s.schedAdd i b x y).tmap = s.tmap := by rfl
@[simp] theorem State.schedAdd_res (s : State) (i : ItemId) (b : Fin 8) (x y : Word) : (s.schedAdd i b x y).res = s.res := by rfl
@[simp] theorem State.schedAdd_net (s : State) (i : ItemId) (b : Fin 8) (x y : Word) : (s.schedAdd i b x y).net = s.net := by rfl
@[simp] theorem State.schedAdd_pps (s : State) (i : ItemId) (b : Fin 8) (x y : Word) : (s.schedAdd i b x y).pps = s.pps := by rfl
@[simp] theorem State.schedAdd_sp (s : State) (i : ItemId) (b : Fin 8) (x y : Word) : (s.schedAdd i b x y).sp = s.sp := by rfl
@[simp] theorem State.schedAdd_ieq (s : State) (i : ItemId) (b : Fin 8) (x y : Word) : (s.schedAdd i b x y).ieq = s.ieq := by rfl
@[simp] theorem State.schedAdd_rfx (s : State) (i : ItemId) (b : Fin 8) (x y : Word) : (s.schedAdd i b x y).rfx = s.rfx := by rfl
@[simp] theorem State.schedAdd_sfs (s : State) (i : ItemId) (b : Fin 8) (x y : Word) : (s.schedAdd i b x y).sfs = s.sfs := by rfl
@[simp] theorem State.schedAdd_chd (s : State) (i : ItemId) (b : Fin 8) (x y : Word) : (s.schedAdd i b x y).chd = s.chd := by rfl
@[simp] theorem State.schedAdd_loc (s : State) (i : ItemId) (b : Fin 8) (x y : Word) : (s.schedAdd i b x y).loc = s.loc := by rfl
@[simp] theorem State.schedAdd_rch (s : State) (i : ItemId) (b : Fin 8) (x y : Word) : (s.schedAdd i b x y).rch = s.rch := by rfl
@[simp] theorem State.schedAdd_adm (s : State) (i : ItemId) (b : Fin 8) (x y : Word) : (s.schedAdd i b x y).adm = s.adm := by rfl
@[simp] theorem State.schedAdd_lat (s : State) (i : ItemId) (b : Fin 8) (x y : Word) : (s.schedAdd i b x y).lat = s.lat := by rfl
@[simp] theorem State.schedAdd_spk (s : State) (i : ItemId) (b : Fin 8) (x y : Word) : (s.schedAdd i b x y).spk = s.spk := by rfl
@[simp] theorem State.schedAdd_coreClk (s : State) (i : ItemId) (b : Fin 8) (x y : Word) : (s.schedAdd i b x y).coreClk = s.coreClk := by rfl
@[simp] theorem State.schedAdd_fct (s : State) (i : ItemId) (b : Fin 8) (x y : Word) : (s.schedAdd i b x y).fct = s.fct := by rfl
@[simp] theorem State.schedAdd_inc (s : State) (i : ItemId) (b : Fin 8) (x y : Word) : (s.schedAdd i b x y).inc = s.inc := by rfl
@[simp] theorem State.schedAdd_host (s : State) (i : ItemId) (b : Fin 8) (x y : Word) : (s.schedAdd i b x y).host = s.host := by rfl
@[simp] theorem State.schedAdd_twin (s : State) (i : ItemId) (b : Fin 8) (x y : Word) : (s.schedAdd i b x y).twin = s.twin := by rfl
@[simp] theorem State.schedAdd_pwr (s : State) (i : ItemId) (b : Fin 8) (x y : Word) : (s.schedAdd i b x y).pwr = s.pwr := by rfl
@[simp] theorem State.schedAdd_sgr (s : State) (i : ItemId) (b : Fin 8) (x y : Word) : (s.schedAdd i b x y).sgr = s.sgr := by rfl
@[simp] theorem State.schedAdd_pending (s : State) (i : ItemId) (b : Fin 8) (x y : Word) : (s.schedAdd i b x y).pending = s.pending := by rfl

@[simp] theorem State.schedDel_part (s : State) (i : ItemId) : (s.schedDel i).part = s.part := by rfl
@[simp] theorem State.schedDel_dtc (s : State) (i : ItemId) : (s.schedDel i).dtc = s.dtc := by rfl
@[simp] theorem State.schedDel_free (s : State) (i : ItemId) : (s.schedDel i).free = s.free := by rfl
@[simp] theorem State.schedDel_regs (s : State) (i : ItemId) : (s.schedDel i).regs = s.regs := by rfl
@[simp] theorem State.schedDel_reply (s : State) (i : ItemId) : (s.schedDel i).reply = s.reply := by rfl
@[simp] theorem State.schedDel_off (s : State) (i : ItemId) : (s.schedDel i).off = s.off := by rfl
@[simp] theorem State.schedDel_inReset (s : State) (i : ItemId) : (s.schedDel i).inReset = s.inReset := by rfl
@[simp] theorem State.schedDel_unlocked (s : State) (i : ItemId) : (s.schedDel i).unlocked = s.unlocked := by rfl
@[simp] theorem State.schedDel_mem (s : State) (i : ItemId) : (s.schedDel i).mem = s.mem := by rfl
@[simp] theorem State.schedDel_ldg (s : State) (i : ItemId) : (s.schedDel i).ldg = s.ldg := by rfl
@[simp] theorem State.schedDel_ptb (s : State) (i : ItemId) : (s.schedDel i).ptb = s.ptb := by rfl
@[simp] theorem State.schedDel_enc (s : State) (i : ItemId) : (s.schedDel i).enc = s.enc := by rfl
@[simp] theorem State.schedDel_tmap (s : State) (i : ItemId) : (s.schedDel i).tmap = s.tmap := by rfl
@[simp] theorem State.schedDel_res (s : State) (i : ItemId) : (s.schedDel i).res = s.res := by rfl
@[simp] theorem State.schedDel_net (s : State) (i : ItemId) : (s.schedDel i).net = s.net := by rfl
@[simp] theorem State.schedDel_pps (s : State) (i : ItemId) : (s.schedDel i).pps = s.pps := by rfl
@[simp] theorem State.schedDel_sp (s : State) (i : ItemId) : (s.schedDel i).sp = s.sp := by rfl
@[simp] theorem State.schedDel_ieq (s : State) (i : ItemId) : (s.schedDel i).ieq = s.ieq := by rfl
@[simp] theorem State.schedDel_rfx (s : State) (i : ItemId) : (s.schedDel i).rfx = s.rfx := by rfl
@[simp] theorem State.schedDel_sfs (s : State) (i : ItemId) : (s.schedDel i).sfs = s.sfs := by rfl
@[simp] theorem State.schedDel_chd (s : State) (i : ItemId) : (s.schedDel i).chd = s.chd := by rfl
@[simp] theorem State.schedDel_loc (s : State) (i : ItemId) : (s.schedDel i).loc = s.loc := by rfl
@[simp] theorem State.schedDel_rch (s : State) (i : ItemId) : (s.schedDel i).rch = s.rch := by rfl
@[simp] theorem State.schedDel_adm (s : State) (i : ItemId) : (s.schedDel i).adm = s.adm := by rfl
@[simp] theorem State.schedDel_lat (s : State) (i : ItemId) : (s.schedDel i).lat = s.lat := by rfl
@[simp] theorem State.schedDel_spk (s : State) (i : ItemId) : (s.schedDel i).spk = s.spk := by rfl
@[simp] theorem State.schedDel_coreClk (s : State) (i : ItemId) : (s.schedDel i).coreClk = s.coreClk := by rfl
@[simp] theorem State.schedDel_fct (s : State) (i : ItemId) : (s.schedDel i).fct = s.fct := by rfl
@[simp] theorem State.schedDel_inc (s : State) (i : ItemId) : (s.schedDel i).inc = s.inc := by rfl
@[simp] theorem State.schedDel_host (s : State) (i : ItemId) : (s.schedDel i).host = s.host := by rfl
@[simp] theorem State.schedDel_twin (s : State) (i : ItemId) : (s.schedDel i).twin = s.twin := by rfl
@[simp] theorem State.schedDel_pwr (s : State) (i : ItemId) : (s.schedDel i).pwr = s.pwr := by rfl
@[simp] theorem State.schedDel_sgr (s : State) (i : ItemId) : (s.schedDel i).sgr = s.sgr := by rfl
@[simp] theorem State.schedDel_pending (s : State) (i : ItemId) : (s.schedDel i).pending = s.pending := by rfl

@[simp] theorem State.schedMap_part (s : State) (f : Sched → Sched) : (s.schedMap f).part = s.part := by rfl
@[simp] theorem State.schedMap_dtc (s : State) (f : Sched → Sched) : (s.schedMap f).dtc = s.dtc := by rfl
@[simp] theorem State.schedMap_free (s : State) (f : Sched → Sched) : (s.schedMap f).free = s.free := by rfl
@[simp] theorem State.schedMap_regs (s : State) (f : Sched → Sched) : (s.schedMap f).regs = s.regs := by rfl
@[simp] theorem State.schedMap_reply (s : State) (f : Sched → Sched) : (s.schedMap f).reply = s.reply := by rfl
@[simp] theorem State.schedMap_off (s : State) (f : Sched → Sched) : (s.schedMap f).off = s.off := by rfl
@[simp] theorem State.schedMap_inReset (s : State) (f : Sched → Sched) : (s.schedMap f).inReset = s.inReset := by rfl
@[simp] theorem State.schedMap_unlocked (s : State) (f : Sched → Sched) : (s.schedMap f).unlocked = s.unlocked := by rfl
@[simp] theorem State.schedMap_mem (s : State) (f : Sched → Sched) : (s.schedMap f).mem = s.mem := by rfl
@[simp] theorem State.schedMap_ldg (s : State) (f : Sched → Sched) : (s.schedMap f).ldg = s.ldg := by rfl
@[simp] theorem State.schedMap_ptb (s : State) (f : Sched → Sched) : (s.schedMap f).ptb = s.ptb := by rfl
@[simp] theorem State.schedMap_enc (s : State) (f : Sched → Sched) : (s.schedMap f).enc = s.enc := by rfl
@[simp] theorem State.schedMap_tmap (s : State) (f : Sched → Sched) : (s.schedMap f).tmap = s.tmap := by rfl
@[simp] theorem State.schedMap_res (s : State) (f : Sched → Sched) : (s.schedMap f).res = s.res := by rfl
@[simp] theorem State.schedMap_net (s : State) (f : Sched → Sched) : (s.schedMap f).net = s.net := by rfl
@[simp] theorem State.schedMap_pps (s : State) (f : Sched → Sched) : (s.schedMap f).pps = s.pps := by rfl
@[simp] theorem State.schedMap_sp (s : State) (f : Sched → Sched) : (s.schedMap f).sp = s.sp := by rfl
@[simp] theorem State.schedMap_ieq (s : State) (f : Sched → Sched) : (s.schedMap f).ieq = s.ieq := by rfl
@[simp] theorem State.schedMap_rfx (s : State) (f : Sched → Sched) : (s.schedMap f).rfx = s.rfx := by rfl
@[simp] theorem State.schedMap_sfs (s : State) (f : Sched → Sched) : (s.schedMap f).sfs = s.sfs := by rfl
@[simp] theorem State.schedMap_chd (s : State) (f : Sched → Sched) : (s.schedMap f).chd = s.chd := by rfl
@[simp] theorem State.schedMap_loc (s : State) (f : Sched → Sched) : (s.schedMap f).loc = s.loc := by rfl
@[simp] theorem State.schedMap_rch (s : State) (f : Sched → Sched) : (s.schedMap f).rch = s.rch := by rfl
@[simp] theorem State.schedMap_adm (s : State) (f : Sched → Sched) : (s.schedMap f).adm = s.adm := by rfl
@[simp] theorem State.schedMap_lat (s : State) (f : Sched → Sched) : (s.schedMap f).lat = s.lat := by rfl
@[simp] theorem State.schedMap_spk (s : State) (f : Sched → Sched) : (s.schedMap f).spk = s.spk := by rfl
@[simp] theorem State.schedMap_coreClk (s : State) (f : Sched → Sched) : (s.schedMap f).coreClk = s.coreClk := by rfl
@[simp] theorem State.schedMap_fct (s : State) (f : Sched → Sched) : (s.schedMap f).fct = s.fct := by rfl
@[simp] theorem State.schedMap_inc (s : State) (f : Sched → Sched) : (s.schedMap f).inc = s.inc := by rfl
@[simp] theorem State.schedMap_host (s : State) (f : Sched → Sched) : (s.schedMap f).host = s.host := by rfl
@[simp] theorem State.schedMap_twin (s : State) (f : Sched → Sched) : (s.schedMap f).twin = s.twin := by rfl
@[simp] theorem State.schedMap_pwr (s : State) (f : Sched → Sched) : (s.schedMap f).pwr = s.pwr := by rfl
@[simp] theorem State.schedMap_sgr (s : State) (f : Sched → Sched) : (s.schedMap f).sgr = s.sgr := by rfl
@[simp] theorem State.schedMap_pending (s : State) (f : Sched → Sched) : (s.schedMap f).pending = s.pending := by rfl

@[simp] theorem State.admUpd_part (s : State) (f : AdmState → AdmState) : (s.admUpd f).part = s.part := by rfl
@[simp] theorem State.admUpd_dtc (s : State) (f : AdmState → AdmState) : (s.admUpd f).dtc = s.dtc := by rfl
@[simp] theorem State.admUpd_free (s : State) (f : AdmState → AdmState) : (s.admUpd f).free = s.free := by rfl
@[simp] theorem State.admUpd_regs (s : State) (f : AdmState → AdmState) : (s.admUpd f).regs = s.regs := by rfl
@[simp] theorem State.admUpd_reply (s : State) (f : AdmState → AdmState) : (s.admUpd f).reply = s.reply := by rfl
@[simp] theorem State.admUpd_off (s : State) (f : AdmState → AdmState) : (s.admUpd f).off = s.off := by rfl
@[simp] theorem State.admUpd_inReset (s : State) (f : AdmState → AdmState) : (s.admUpd f).inReset = s.inReset := by rfl
@[simp] theorem State.admUpd_unlocked (s : State) (f : AdmState → AdmState) : (s.admUpd f).unlocked = s.unlocked := by rfl
@[simp] theorem State.admUpd_sched (s : State) (f : AdmState → AdmState) : (s.admUpd f).sched = s.sched := by rfl
@[simp] theorem State.admUpd_mem (s : State) (f : AdmState → AdmState) : (s.admUpd f).mem = s.mem := by rfl
@[simp] theorem State.admUpd_ldg (s : State) (f : AdmState → AdmState) : (s.admUpd f).ldg = s.ldg := by rfl
@[simp] theorem State.admUpd_ptb (s : State) (f : AdmState → AdmState) : (s.admUpd f).ptb = s.ptb := by rfl
@[simp] theorem State.admUpd_enc (s : State) (f : AdmState → AdmState) : (s.admUpd f).enc = s.enc := by rfl
@[simp] theorem State.admUpd_tmap (s : State) (f : AdmState → AdmState) : (s.admUpd f).tmap = s.tmap := by rfl
@[simp] theorem State.admUpd_res (s : State) (f : AdmState → AdmState) : (s.admUpd f).res = s.res := by rfl
@[simp] theorem State.admUpd_net (s : State) (f : AdmState → AdmState) : (s.admUpd f).net = s.net := by rfl
@[simp] theorem State.admUpd_pps (s : State) (f : AdmState → AdmState) : (s.admUpd f).pps = s.pps := by rfl
@[simp] theorem State.admUpd_sp (s : State) (f : AdmState → AdmState) : (s.admUpd f).sp = s.sp := by rfl
@[simp] theorem State.admUpd_ieq (s : State) (f : AdmState → AdmState) : (s.admUpd f).ieq = s.ieq := by rfl
@[simp] theorem State.admUpd_rfx (s : State) (f : AdmState → AdmState) : (s.admUpd f).rfx = s.rfx := by rfl
@[simp] theorem State.admUpd_sfs (s : State) (f : AdmState → AdmState) : (s.admUpd f).sfs = s.sfs := by rfl
@[simp] theorem State.admUpd_chd (s : State) (f : AdmState → AdmState) : (s.admUpd f).chd = s.chd := by rfl
@[simp] theorem State.admUpd_loc (s : State) (f : AdmState → AdmState) : (s.admUpd f).loc = s.loc := by rfl
@[simp] theorem State.admUpd_rch (s : State) (f : AdmState → AdmState) : (s.admUpd f).rch = s.rch := by rfl
@[simp] theorem State.admUpd_lat (s : State) (f : AdmState → AdmState) : (s.admUpd f).lat = s.lat := by rfl
@[simp] theorem State.admUpd_spk (s : State) (f : AdmState → AdmState) : (s.admUpd f).spk = s.spk := by rfl
@[simp] theorem State.admUpd_coreClk (s : State) (f : AdmState → AdmState) : (s.admUpd f).coreClk = s.coreClk := by rfl
@[simp] theorem State.admUpd_fct (s : State) (f : AdmState → AdmState) : (s.admUpd f).fct = s.fct := by rfl
@[simp] theorem State.admUpd_inc (s : State) (f : AdmState → AdmState) : (s.admUpd f).inc = s.inc := by rfl
@[simp] theorem State.admUpd_host (s : State) (f : AdmState → AdmState) : (s.admUpd f).host = s.host := by rfl
@[simp] theorem State.admUpd_twin (s : State) (f : AdmState → AdmState) : (s.admUpd f).twin = s.twin := by rfl
@[simp] theorem State.admUpd_pwr (s : State) (f : AdmState → AdmState) : (s.admUpd f).pwr = s.pwr := by rfl
@[simp] theorem State.admUpd_sgr (s : State) (f : AdmState → AdmState) : (s.admUpd f).sgr = s.sgr := by rfl
@[simp] theorem State.admUpd_pending (s : State) (f : AdmState → AdmState) : (s.admUpd f).pending = s.pending := by rfl

@[simp] theorem State.locUpd_part (s : State) (f : LocState → LocState) : (s.locUpd f).part = s.part := by rfl
@[simp] theorem State.locUpd_dtc (s : State) (f : LocState → LocState) : (s.locUpd f).dtc = s.dtc := by rfl
@[simp] theorem State.locUpd_free (s : State) (f : LocState → LocState) : (s.locUpd f).free = s.free := by rfl
@[simp] theorem State.locUpd_regs (s : State) (f : LocState → LocState) : (s.locUpd f).regs = s.regs := by rfl
@[simp] theorem State.locUpd_reply (s : State) (f : LocState → LocState) : (s.locUpd f).reply = s.reply := by rfl
@[simp] theorem State.locUpd_off (s : State) (f : LocState → LocState) : (s.locUpd f).off = s.off := by rfl
@[simp] theorem State.locUpd_inReset (s : State) (f : LocState → LocState) : (s.locUpd f).inReset = s.inReset := by rfl
@[simp] theorem State.locUpd_unlocked (s : State) (f : LocState → LocState) : (s.locUpd f).unlocked = s.unlocked := by rfl
@[simp] theorem State.locUpd_sched (s : State) (f : LocState → LocState) : (s.locUpd f).sched = s.sched := by rfl
@[simp] theorem State.locUpd_mem (s : State) (f : LocState → LocState) : (s.locUpd f).mem = s.mem := by rfl
@[simp] theorem State.locUpd_ldg (s : State) (f : LocState → LocState) : (s.locUpd f).ldg = s.ldg := by rfl
@[simp] theorem State.locUpd_ptb (s : State) (f : LocState → LocState) : (s.locUpd f).ptb = s.ptb := by rfl
@[simp] theorem State.locUpd_enc (s : State) (f : LocState → LocState) : (s.locUpd f).enc = s.enc := by rfl
@[simp] theorem State.locUpd_tmap (s : State) (f : LocState → LocState) : (s.locUpd f).tmap = s.tmap := by rfl
@[simp] theorem State.locUpd_res (s : State) (f : LocState → LocState) : (s.locUpd f).res = s.res := by rfl
@[simp] theorem State.locUpd_net (s : State) (f : LocState → LocState) : (s.locUpd f).net = s.net := by rfl
@[simp] theorem State.locUpd_pps (s : State) (f : LocState → LocState) : (s.locUpd f).pps = s.pps := by rfl
@[simp] theorem State.locUpd_sp (s : State) (f : LocState → LocState) : (s.locUpd f).sp = s.sp := by rfl
@[simp] theorem State.locUpd_ieq (s : State) (f : LocState → LocState) : (s.locUpd f).ieq = s.ieq := by rfl
@[simp] theorem State.locUpd_rfx (s : State) (f : LocState → LocState) : (s.locUpd f).rfx = s.rfx := by rfl
@[simp] theorem State.locUpd_sfs (s : State) (f : LocState → LocState) : (s.locUpd f).sfs = s.sfs := by rfl
@[simp] theorem State.locUpd_chd (s : State) (f : LocState → LocState) : (s.locUpd f).chd = s.chd := by rfl
@[simp] theorem State.locUpd_rch (s : State) (f : LocState → LocState) : (s.locUpd f).rch = s.rch := by rfl
@[simp] theorem State.locUpd_adm (s : State) (f : LocState → LocState) : (s.locUpd f).adm = s.adm := by rfl
@[simp] theorem State.locUpd_lat (s : State) (f : LocState → LocState) : (s.locUpd f).lat = s.lat := by rfl
@[simp] theorem State.locUpd_spk (s : State) (f : LocState → LocState) : (s.locUpd f).spk = s.spk := by rfl
@[simp] theorem State.locUpd_coreClk (s : State) (f : LocState → LocState) : (s.locUpd f).coreClk = s.coreClk := by rfl
@[simp] theorem State.locUpd_fct (s : State) (f : LocState → LocState) : (s.locUpd f).fct = s.fct := by rfl
@[simp] theorem State.locUpd_inc (s : State) (f : LocState → LocState) : (s.locUpd f).inc = s.inc := by rfl
@[simp] theorem State.locUpd_host (s : State) (f : LocState → LocState) : (s.locUpd f).host = s.host := by rfl
@[simp] theorem State.locUpd_twin (s : State) (f : LocState → LocState) : (s.locUpd f).twin = s.twin := by rfl
@[simp] theorem State.locUpd_pwr (s : State) (f : LocState → LocState) : (s.locUpd f).pwr = s.pwr := by rfl
@[simp] theorem State.locUpd_sgr (s : State) (f : LocState → LocState) : (s.locUpd f).sgr = s.sgr := by rfl
@[simp] theorem State.locUpd_pending (s : State) (f : LocState → LocState) : (s.locUpd f).pending = s.pending := by rfl

@[simp] theorem State.hostUpd_part (s : State) (f : HostState → HostState) : (s.hostUpd f).part = s.part := by rfl
@[simp] theorem State.hostUpd_dtc (s : State) (f : HostState → HostState) : (s.hostUpd f).dtc = s.dtc := by rfl
@[simp] theorem State.hostUpd_free (s : State) (f : HostState → HostState) : (s.hostUpd f).free = s.free := by rfl
@[simp] theorem State.hostUpd_regs (s : State) (f : HostState → HostState) : (s.hostUpd f).regs = s.regs := by rfl
@[simp] theorem State.hostUpd_reply (s : State) (f : HostState → HostState) : (s.hostUpd f).reply = s.reply := by rfl
@[simp] theorem State.hostUpd_off (s : State) (f : HostState → HostState) : (s.hostUpd f).off = s.off := by rfl
@[simp] theorem State.hostUpd_inReset (s : State) (f : HostState → HostState) : (s.hostUpd f).inReset = s.inReset := by rfl
@[simp] theorem State.hostUpd_unlocked (s : State) (f : HostState → HostState) : (s.hostUpd f).unlocked = s.unlocked := by rfl
@[simp] theorem State.hostUpd_sched (s : State) (f : HostState → HostState) : (s.hostUpd f).sched = s.sched := by rfl
@[simp] theorem State.hostUpd_mem (s : State) (f : HostState → HostState) : (s.hostUpd f).mem = s.mem := by rfl
@[simp] theorem State.hostUpd_ldg (s : State) (f : HostState → HostState) : (s.hostUpd f).ldg = s.ldg := by rfl
@[simp] theorem State.hostUpd_ptb (s : State) (f : HostState → HostState) : (s.hostUpd f).ptb = s.ptb := by rfl
@[simp] theorem State.hostUpd_enc (s : State) (f : HostState → HostState) : (s.hostUpd f).enc = s.enc := by rfl
@[simp] theorem State.hostUpd_tmap (s : State) (f : HostState → HostState) : (s.hostUpd f).tmap = s.tmap := by rfl
@[simp] theorem State.hostUpd_res (s : State) (f : HostState → HostState) : (s.hostUpd f).res = s.res := by rfl
@[simp] theorem State.hostUpd_net (s : State) (f : HostState → HostState) : (s.hostUpd f).net = s.net := by rfl
@[simp] theorem State.hostUpd_pps (s : State) (f : HostState → HostState) : (s.hostUpd f).pps = s.pps := by rfl
@[simp] theorem State.hostUpd_sp (s : State) (f : HostState → HostState) : (s.hostUpd f).sp = s.sp := by rfl
@[simp] theorem State.hostUpd_ieq (s : State) (f : HostState → HostState) : (s.hostUpd f).ieq = s.ieq := by rfl
@[simp] theorem State.hostUpd_rfx (s : State) (f : HostState → HostState) : (s.hostUpd f).rfx = s.rfx := by rfl
@[simp] theorem State.hostUpd_sfs (s : State) (f : HostState → HostState) : (s.hostUpd f).sfs = s.sfs := by rfl
@[simp] theorem State.hostUpd_chd (s : State) (f : HostState → HostState) : (s.hostUpd f).chd = s.chd := by rfl
@[simp] theorem State.hostUpd_loc (s : State) (f : HostState → HostState) : (s.hostUpd f).loc = s.loc := by rfl
@[simp] theorem State.hostUpd_rch (s : State) (f : HostState → HostState) : (s.hostUpd f).rch = s.rch := by rfl
@[simp] theorem State.hostUpd_adm (s : State) (f : HostState → HostState) : (s.hostUpd f).adm = s.adm := by rfl
@[simp] theorem State.hostUpd_lat (s : State) (f : HostState → HostState) : (s.hostUpd f).lat = s.lat := by rfl
@[simp] theorem State.hostUpd_spk (s : State) (f : HostState → HostState) : (s.hostUpd f).spk = s.spk := by rfl
@[simp] theorem State.hostUpd_coreClk (s : State) (f : HostState → HostState) : (s.hostUpd f).coreClk = s.coreClk := by rfl
@[simp] theorem State.hostUpd_fct (s : State) (f : HostState → HostState) : (s.hostUpd f).fct = s.fct := by rfl
@[simp] theorem State.hostUpd_inc (s : State) (f : HostState → HostState) : (s.hostUpd f).inc = s.inc := by rfl
@[simp] theorem State.hostUpd_twin (s : State) (f : HostState → HostState) : (s.hostUpd f).twin = s.twin := by rfl
@[simp] theorem State.hostUpd_pwr (s : State) (f : HostState → HostState) : (s.hostUpd f).pwr = s.pwr := by rfl
@[simp] theorem State.hostUpd_sgr (s : State) (f : HostState → HostState) : (s.hostUpd f).sgr = s.sgr := by rfl
@[simp] theorem State.hostUpd_pending (s : State) (f : HostState → HostState) : (s.hostUpd f).pending = s.pending := by rfl

@[simp] theorem State.twinUpd_part (s : State) (f : TwinState → TwinState) : (s.twinUpd f).part = s.part := by rfl
@[simp] theorem State.twinUpd_dtc (s : State) (f : TwinState → TwinState) : (s.twinUpd f).dtc = s.dtc := by rfl
@[simp] theorem State.twinUpd_free (s : State) (f : TwinState → TwinState) : (s.twinUpd f).free = s.free := by rfl
@[simp] theorem State.twinUpd_regs (s : State) (f : TwinState → TwinState) : (s.twinUpd f).regs = s.regs := by rfl
@[simp] theorem State.twinUpd_reply (s : State) (f : TwinState → TwinState) : (s.twinUpd f).reply = s.reply := by rfl
@[simp] theorem State.twinUpd_off (s : State) (f : TwinState → TwinState) : (s.twinUpd f).off = s.off := by rfl
@[simp] theorem State.twinUpd_inReset (s : State) (f : TwinState → TwinState) : (s.twinUpd f).inReset = s.inReset := by rfl
@[simp] theorem State.twinUpd_unlocked (s : State) (f : TwinState → TwinState) : (s.twinUpd f).unlocked = s.unlocked := by rfl
@[simp] theorem State.twinUpd_sched (s : State) (f : TwinState → TwinState) : (s.twinUpd f).sched = s.sched := by rfl
@[simp] theorem State.twinUpd_mem (s : State) (f : TwinState → TwinState) : (s.twinUpd f).mem = s.mem := by rfl
@[simp] theorem State.twinUpd_ldg (s : State) (f : TwinState → TwinState) : (s.twinUpd f).ldg = s.ldg := by rfl
@[simp] theorem State.twinUpd_ptb (s : State) (f : TwinState → TwinState) : (s.twinUpd f).ptb = s.ptb := by rfl
@[simp] theorem State.twinUpd_enc (s : State) (f : TwinState → TwinState) : (s.twinUpd f).enc = s.enc := by rfl
@[simp] theorem State.twinUpd_tmap (s : State) (f : TwinState → TwinState) : (s.twinUpd f).tmap = s.tmap := by rfl
@[simp] theorem State.twinUpd_res (s : State) (f : TwinState → TwinState) : (s.twinUpd f).res = s.res := by rfl
@[simp] theorem State.twinUpd_net (s : State) (f : TwinState → TwinState) : (s.twinUpd f).net = s.net := by rfl
@[simp] theorem State.twinUpd_pps (s : State) (f : TwinState → TwinState) : (s.twinUpd f).pps = s.pps := by rfl
@[simp] theorem State.twinUpd_sp (s : State) (f : TwinState → TwinState) : (s.twinUpd f).sp = s.sp := by rfl
@[simp] theorem State.twinUpd_ieq (s : State) (f : TwinState → TwinState) : (s.twinUpd f).ieq = s.ieq := by rfl
@[simp] theorem State.twinUpd_rfx (s : State) (f : TwinState → TwinState) : (s.twinUpd f).rfx = s.rfx := by rfl
@[simp] theorem State.twinUpd_sfs (s : State) (f : TwinState → TwinState) : (s.twinUpd f).sfs = s.sfs := by rfl
@[simp] theorem State.twinUpd_chd (s : State) (f : TwinState → TwinState) : (s.twinUpd f).chd = s.chd := by rfl
@[simp] theorem State.twinUpd_loc (s : State) (f : TwinState → TwinState) : (s.twinUpd f).loc = s.loc := by rfl
@[simp] theorem State.twinUpd_rch (s : State) (f : TwinState → TwinState) : (s.twinUpd f).rch = s.rch := by rfl
@[simp] theorem State.twinUpd_adm (s : State) (f : TwinState → TwinState) : (s.twinUpd f).adm = s.adm := by rfl
@[simp] theorem State.twinUpd_lat (s : State) (f : TwinState → TwinState) : (s.twinUpd f).lat = s.lat := by rfl
@[simp] theorem State.twinUpd_spk (s : State) (f : TwinState → TwinState) : (s.twinUpd f).spk = s.spk := by rfl
@[simp] theorem State.twinUpd_coreClk (s : State) (f : TwinState → TwinState) : (s.twinUpd f).coreClk = s.coreClk := by rfl
@[simp] theorem State.twinUpd_fct (s : State) (f : TwinState → TwinState) : (s.twinUpd f).fct = s.fct := by rfl
@[simp] theorem State.twinUpd_inc (s : State) (f : TwinState → TwinState) : (s.twinUpd f).inc = s.inc := by rfl
@[simp] theorem State.twinUpd_host (s : State) (f : TwinState → TwinState) : (s.twinUpd f).host = s.host := by rfl
@[simp] theorem State.twinUpd_pwr (s : State) (f : TwinState → TwinState) : (s.twinUpd f).pwr = s.pwr := by rfl
@[simp] theorem State.twinUpd_sgr (s : State) (f : TwinState → TwinState) : (s.twinUpd f).sgr = s.sgr := by rfl
@[simp] theorem State.twinUpd_pending (s : State) (f : TwinState → TwinState) : (s.twinUpd f).pending = s.pending := by rfl

@[simp] theorem State.memUpd_part (s : State) (f : MemState → MemState) : (s.memUpd f).part = s.part := by rfl
@[simp] theorem State.memUpd_dtc (s : State) (f : MemState → MemState) : (s.memUpd f).dtc = s.dtc := by rfl
@[simp] theorem State.memUpd_free (s : State) (f : MemState → MemState) : (s.memUpd f).free = s.free := by rfl
@[simp] theorem State.memUpd_regs (s : State) (f : MemState → MemState) : (s.memUpd f).regs = s.regs := by rfl
@[simp] theorem State.memUpd_reply (s : State) (f : MemState → MemState) : (s.memUpd f).reply = s.reply := by rfl
@[simp] theorem State.memUpd_off (s : State) (f : MemState → MemState) : (s.memUpd f).off = s.off := by rfl
@[simp] theorem State.memUpd_inReset (s : State) (f : MemState → MemState) : (s.memUpd f).inReset = s.inReset := by rfl
@[simp] theorem State.memUpd_unlocked (s : State) (f : MemState → MemState) : (s.memUpd f).unlocked = s.unlocked := by rfl
@[simp] theorem State.memUpd_sched (s : State) (f : MemState → MemState) : (s.memUpd f).sched = s.sched := by rfl
@[simp] theorem State.memUpd_ldg (s : State) (f : MemState → MemState) : (s.memUpd f).ldg = s.ldg := by rfl
@[simp] theorem State.memUpd_ptb (s : State) (f : MemState → MemState) : (s.memUpd f).ptb = s.ptb := by rfl
@[simp] theorem State.memUpd_enc (s : State) (f : MemState → MemState) : (s.memUpd f).enc = s.enc := by rfl
@[simp] theorem State.memUpd_tmap (s : State) (f : MemState → MemState) : (s.memUpd f).tmap = s.tmap := by rfl
@[simp] theorem State.memUpd_res (s : State) (f : MemState → MemState) : (s.memUpd f).res = s.res := by rfl
@[simp] theorem State.memUpd_net (s : State) (f : MemState → MemState) : (s.memUpd f).net = s.net := by rfl
@[simp] theorem State.memUpd_pps (s : State) (f : MemState → MemState) : (s.memUpd f).pps = s.pps := by rfl
@[simp] theorem State.memUpd_sp (s : State) (f : MemState → MemState) : (s.memUpd f).sp = s.sp := by rfl
@[simp] theorem State.memUpd_ieq (s : State) (f : MemState → MemState) : (s.memUpd f).ieq = s.ieq := by rfl
@[simp] theorem State.memUpd_rfx (s : State) (f : MemState → MemState) : (s.memUpd f).rfx = s.rfx := by rfl
@[simp] theorem State.memUpd_sfs (s : State) (f : MemState → MemState) : (s.memUpd f).sfs = s.sfs := by rfl
@[simp] theorem State.memUpd_chd (s : State) (f : MemState → MemState) : (s.memUpd f).chd = s.chd := by rfl
@[simp] theorem State.memUpd_loc (s : State) (f : MemState → MemState) : (s.memUpd f).loc = s.loc := by rfl
@[simp] theorem State.memUpd_rch (s : State) (f : MemState → MemState) : (s.memUpd f).rch = s.rch := by rfl
@[simp] theorem State.memUpd_adm (s : State) (f : MemState → MemState) : (s.memUpd f).adm = s.adm := by rfl
@[simp] theorem State.memUpd_lat (s : State) (f : MemState → MemState) : (s.memUpd f).lat = s.lat := by rfl
@[simp] theorem State.memUpd_spk (s : State) (f : MemState → MemState) : (s.memUpd f).spk = s.spk := by rfl
@[simp] theorem State.memUpd_coreClk (s : State) (f : MemState → MemState) : (s.memUpd f).coreClk = s.coreClk := by rfl
@[simp] theorem State.memUpd_fct (s : State) (f : MemState → MemState) : (s.memUpd f).fct = s.fct := by rfl
@[simp] theorem State.memUpd_inc (s : State) (f : MemState → MemState) : (s.memUpd f).inc = s.inc := by rfl
@[simp] theorem State.memUpd_host (s : State) (f : MemState → MemState) : (s.memUpd f).host = s.host := by rfl
@[simp] theorem State.memUpd_twin (s : State) (f : MemState → MemState) : (s.memUpd f).twin = s.twin := by rfl
@[simp] theorem State.memUpd_pwr (s : State) (f : MemState → MemState) : (s.memUpd f).pwr = s.pwr := by rfl
@[simp] theorem State.memUpd_sgr (s : State) (f : MemState → MemState) : (s.memUpd f).sgr = s.sgr := by rfl
@[simp] theorem State.memUpd_pending (s : State) (f : MemState → MemState) : (s.memUpd f).pending = s.pending := by rfl

@[simp] theorem State.pwrUpd_part (s : State) (f : PwrState → PwrState) : (s.pwrUpd f).part = s.part := by rfl
@[simp] theorem State.pwrUpd_dtc (s : State) (f : PwrState → PwrState) : (s.pwrUpd f).dtc = s.dtc := by rfl
@[simp] theorem State.pwrUpd_free (s : State) (f : PwrState → PwrState) : (s.pwrUpd f).free = s.free := by rfl
@[simp] theorem State.pwrUpd_regs (s : State) (f : PwrState → PwrState) : (s.pwrUpd f).regs = s.regs := by rfl
@[simp] theorem State.pwrUpd_reply (s : State) (f : PwrState → PwrState) : (s.pwrUpd f).reply = s.reply := by rfl
@[simp] theorem State.pwrUpd_off (s : State) (f : PwrState → PwrState) : (s.pwrUpd f).off = s.off := by rfl
@[simp] theorem State.pwrUpd_inReset (s : State) (f : PwrState → PwrState) : (s.pwrUpd f).inReset = s.inReset := by rfl
@[simp] theorem State.pwrUpd_unlocked (s : State) (f : PwrState → PwrState) : (s.pwrUpd f).unlocked = s.unlocked := by rfl
@[simp] theorem State.pwrUpd_sched (s : State) (f : PwrState → PwrState) : (s.pwrUpd f).sched = s.sched := by rfl
@[simp] theorem State.pwrUpd_mem (s : State) (f : PwrState → PwrState) : (s.pwrUpd f).mem = s.mem := by rfl
@[simp] theorem State.pwrUpd_ldg (s : State) (f : PwrState → PwrState) : (s.pwrUpd f).ldg = s.ldg := by rfl
@[simp] theorem State.pwrUpd_ptb (s : State) (f : PwrState → PwrState) : (s.pwrUpd f).ptb = s.ptb := by rfl
@[simp] theorem State.pwrUpd_enc (s : State) (f : PwrState → PwrState) : (s.pwrUpd f).enc = s.enc := by rfl
@[simp] theorem State.pwrUpd_tmap (s : State) (f : PwrState → PwrState) : (s.pwrUpd f).tmap = s.tmap := by rfl
@[simp] theorem State.pwrUpd_res (s : State) (f : PwrState → PwrState) : (s.pwrUpd f).res = s.res := by rfl
@[simp] theorem State.pwrUpd_net (s : State) (f : PwrState → PwrState) : (s.pwrUpd f).net = s.net := by rfl
@[simp] theorem State.pwrUpd_pps (s : State) (f : PwrState → PwrState) : (s.pwrUpd f).pps = s.pps := by rfl
@[simp] theorem State.pwrUpd_sp (s : State) (f : PwrState → PwrState) : (s.pwrUpd f).sp = s.sp := by rfl
@[simp] theorem State.pwrUpd_ieq (s : State) (f : PwrState → PwrState) : (s.pwrUpd f).ieq = s.ieq := by rfl
@[simp] theorem State.pwrUpd_rfx (s : State) (f : PwrState → PwrState) : (s.pwrUpd f).rfx = s.rfx := by rfl
@[simp] theorem State.pwrUpd_sfs (s : State) (f : PwrState → PwrState) : (s.pwrUpd f).sfs = s.sfs := by rfl
@[simp] theorem State.pwrUpd_chd (s : State) (f : PwrState → PwrState) : (s.pwrUpd f).chd = s.chd := by rfl
@[simp] theorem State.pwrUpd_loc (s : State) (f : PwrState → PwrState) : (s.pwrUpd f).loc = s.loc := by rfl
@[simp] theorem State.pwrUpd_rch (s : State) (f : PwrState → PwrState) : (s.pwrUpd f).rch = s.rch := by rfl
@[simp] theorem State.pwrUpd_adm (s : State) (f : PwrState → PwrState) : (s.pwrUpd f).adm = s.adm := by rfl
@[simp] theorem State.pwrUpd_lat (s : State) (f : PwrState → PwrState) : (s.pwrUpd f).lat = s.lat := by rfl
@[simp] theorem State.pwrUpd_spk (s : State) (f : PwrState → PwrState) : (s.pwrUpd f).spk = s.spk := by rfl
@[simp] theorem State.pwrUpd_coreClk (s : State) (f : PwrState → PwrState) : (s.pwrUpd f).coreClk = s.coreClk := by rfl
@[simp] theorem State.pwrUpd_fct (s : State) (f : PwrState → PwrState) : (s.pwrUpd f).fct = s.fct := by rfl
@[simp] theorem State.pwrUpd_inc (s : State) (f : PwrState → PwrState) : (s.pwrUpd f).inc = s.inc := by rfl
@[simp] theorem State.pwrUpd_host (s : State) (f : PwrState → PwrState) : (s.pwrUpd f).host = s.host := by rfl
@[simp] theorem State.pwrUpd_twin (s : State) (f : PwrState → PwrState) : (s.pwrUpd f).twin = s.twin := by rfl
@[simp] theorem State.pwrUpd_sgr (s : State) (f : PwrState → PwrState) : (s.pwrUpd f).sgr = s.sgr := by rfl
@[simp] theorem State.pwrUpd_pending (s : State) (f : PwrState → PwrState) : (s.pwrUpd f).pending = s.pending := by rfl

@[simp] theorem State.rchUpd_part (s : State) (f : RchState → RchState) : (s.rchUpd f).part = s.part := by rfl
@[simp] theorem State.rchUpd_dtc (s : State) (f : RchState → RchState) : (s.rchUpd f).dtc = s.dtc := by rfl
@[simp] theorem State.rchUpd_free (s : State) (f : RchState → RchState) : (s.rchUpd f).free = s.free := by rfl
@[simp] theorem State.rchUpd_regs (s : State) (f : RchState → RchState) : (s.rchUpd f).regs = s.regs := by rfl
@[simp] theorem State.rchUpd_reply (s : State) (f : RchState → RchState) : (s.rchUpd f).reply = s.reply := by rfl
@[simp] theorem State.rchUpd_off (s : State) (f : RchState → RchState) : (s.rchUpd f).off = s.off := by rfl
@[simp] theorem State.rchUpd_inReset (s : State) (f : RchState → RchState) : (s.rchUpd f).inReset = s.inReset := by rfl
@[simp] theorem State.rchUpd_unlocked (s : State) (f : RchState → RchState) : (s.rchUpd f).unlocked = s.unlocked := by rfl
@[simp] theorem State.rchUpd_sched (s : State) (f : RchState → RchState) : (s.rchUpd f).sched = s.sched := by rfl
@[simp] theorem State.rchUpd_mem (s : State) (f : RchState → RchState) : (s.rchUpd f).mem = s.mem := by rfl
@[simp] theorem State.rchUpd_ldg (s : State) (f : RchState → RchState) : (s.rchUpd f).ldg = s.ldg := by rfl
@[simp] theorem State.rchUpd_ptb (s : State) (f : RchState → RchState) : (s.rchUpd f).ptb = s.ptb := by rfl
@[simp] theorem State.rchUpd_enc (s : State) (f : RchState → RchState) : (s.rchUpd f).enc = s.enc := by rfl
@[simp] theorem State.rchUpd_tmap (s : State) (f : RchState → RchState) : (s.rchUpd f).tmap = s.tmap := by rfl
@[simp] theorem State.rchUpd_res (s : State) (f : RchState → RchState) : (s.rchUpd f).res = s.res := by rfl
@[simp] theorem State.rchUpd_net (s : State) (f : RchState → RchState) : (s.rchUpd f).net = s.net := by rfl
@[simp] theorem State.rchUpd_pps (s : State) (f : RchState → RchState) : (s.rchUpd f).pps = s.pps := by rfl
@[simp] theorem State.rchUpd_sp (s : State) (f : RchState → RchState) : (s.rchUpd f).sp = s.sp := by rfl
@[simp] theorem State.rchUpd_ieq (s : State) (f : RchState → RchState) : (s.rchUpd f).ieq = s.ieq := by rfl
@[simp] theorem State.rchUpd_rfx (s : State) (f : RchState → RchState) : (s.rchUpd f).rfx = s.rfx := by rfl
@[simp] theorem State.rchUpd_sfs (s : State) (f : RchState → RchState) : (s.rchUpd f).sfs = s.sfs := by rfl
@[simp] theorem State.rchUpd_chd (s : State) (f : RchState → RchState) : (s.rchUpd f).chd = s.chd := by rfl
@[simp] theorem State.rchUpd_loc (s : State) (f : RchState → RchState) : (s.rchUpd f).loc = s.loc := by rfl
@[simp] theorem State.rchUpd_adm (s : State) (f : RchState → RchState) : (s.rchUpd f).adm = s.adm := by rfl
@[simp] theorem State.rchUpd_lat (s : State) (f : RchState → RchState) : (s.rchUpd f).lat = s.lat := by rfl
@[simp] theorem State.rchUpd_spk (s : State) (f : RchState → RchState) : (s.rchUpd f).spk = s.spk := by rfl
@[simp] theorem State.rchUpd_coreClk (s : State) (f : RchState → RchState) : (s.rchUpd f).coreClk = s.coreClk := by rfl
@[simp] theorem State.rchUpd_fct (s : State) (f : RchState → RchState) : (s.rchUpd f).fct = s.fct := by rfl
@[simp] theorem State.rchUpd_inc (s : State) (f : RchState → RchState) : (s.rchUpd f).inc = s.inc := by rfl
@[simp] theorem State.rchUpd_host (s : State) (f : RchState → RchState) : (s.rchUpd f).host = s.host := by rfl
@[simp] theorem State.rchUpd_twin (s : State) (f : RchState → RchState) : (s.rchUpd f).twin = s.twin := by rfl
@[simp] theorem State.rchUpd_pwr (s : State) (f : RchState → RchState) : (s.rchUpd f).pwr = s.pwr := by rfl
@[simp] theorem State.rchUpd_sgr (s : State) (f : RchState → RchState) : (s.rchUpd f).sgr = s.sgr := by rfl
@[simp] theorem State.rchUpd_pending (s : State) (f : RchState → RchState) : (s.rchUpd f).pending = s.pending := by rfl

@[simp] theorem State.rfxUpd_part (s : State) (f : RfxState → RfxState) : (s.rfxUpd f).part = s.part := by rfl
@[simp] theorem State.rfxUpd_dtc (s : State) (f : RfxState → RfxState) : (s.rfxUpd f).dtc = s.dtc := by rfl
@[simp] theorem State.rfxUpd_free (s : State) (f : RfxState → RfxState) : (s.rfxUpd f).free = s.free := by rfl
@[simp] theorem State.rfxUpd_regs (s : State) (f : RfxState → RfxState) : (s.rfxUpd f).regs = s.regs := by rfl
@[simp] theorem State.rfxUpd_reply (s : State) (f : RfxState → RfxState) : (s.rfxUpd f).reply = s.reply := by rfl
@[simp] theorem State.rfxUpd_off (s : State) (f : RfxState → RfxState) : (s.rfxUpd f).off = s.off := by rfl
@[simp] theorem State.rfxUpd_inReset (s : State) (f : RfxState → RfxState) : (s.rfxUpd f).inReset = s.inReset := by rfl
@[simp] theorem State.rfxUpd_unlocked (s : State) (f : RfxState → RfxState) : (s.rfxUpd f).unlocked = s.unlocked := by rfl
@[simp] theorem State.rfxUpd_sched (s : State) (f : RfxState → RfxState) : (s.rfxUpd f).sched = s.sched := by rfl
@[simp] theorem State.rfxUpd_mem (s : State) (f : RfxState → RfxState) : (s.rfxUpd f).mem = s.mem := by rfl
@[simp] theorem State.rfxUpd_ldg (s : State) (f : RfxState → RfxState) : (s.rfxUpd f).ldg = s.ldg := by rfl
@[simp] theorem State.rfxUpd_ptb (s : State) (f : RfxState → RfxState) : (s.rfxUpd f).ptb = s.ptb := by rfl
@[simp] theorem State.rfxUpd_enc (s : State) (f : RfxState → RfxState) : (s.rfxUpd f).enc = s.enc := by rfl
@[simp] theorem State.rfxUpd_tmap (s : State) (f : RfxState → RfxState) : (s.rfxUpd f).tmap = s.tmap := by rfl
@[simp] theorem State.rfxUpd_res (s : State) (f : RfxState → RfxState) : (s.rfxUpd f).res = s.res := by rfl
@[simp] theorem State.rfxUpd_net (s : State) (f : RfxState → RfxState) : (s.rfxUpd f).net = s.net := by rfl
@[simp] theorem State.rfxUpd_pps (s : State) (f : RfxState → RfxState) : (s.rfxUpd f).pps = s.pps := by rfl
@[simp] theorem State.rfxUpd_sp (s : State) (f : RfxState → RfxState) : (s.rfxUpd f).sp = s.sp := by rfl
@[simp] theorem State.rfxUpd_ieq (s : State) (f : RfxState → RfxState) : (s.rfxUpd f).ieq = s.ieq := by rfl
@[simp] theorem State.rfxUpd_sfs (s : State) (f : RfxState → RfxState) : (s.rfxUpd f).sfs = s.sfs := by rfl
@[simp] theorem State.rfxUpd_chd (s : State) (f : RfxState → RfxState) : (s.rfxUpd f).chd = s.chd := by rfl
@[simp] theorem State.rfxUpd_loc (s : State) (f : RfxState → RfxState) : (s.rfxUpd f).loc = s.loc := by rfl
@[simp] theorem State.rfxUpd_rch (s : State) (f : RfxState → RfxState) : (s.rfxUpd f).rch = s.rch := by rfl
@[simp] theorem State.rfxUpd_adm (s : State) (f : RfxState → RfxState) : (s.rfxUpd f).adm = s.adm := by rfl
@[simp] theorem State.rfxUpd_lat (s : State) (f : RfxState → RfxState) : (s.rfxUpd f).lat = s.lat := by rfl
@[simp] theorem State.rfxUpd_spk (s : State) (f : RfxState → RfxState) : (s.rfxUpd f).spk = s.spk := by rfl
@[simp] theorem State.rfxUpd_coreClk (s : State) (f : RfxState → RfxState) : (s.rfxUpd f).coreClk = s.coreClk := by rfl
@[simp] theorem State.rfxUpd_fct (s : State) (f : RfxState → RfxState) : (s.rfxUpd f).fct = s.fct := by rfl
@[simp] theorem State.rfxUpd_inc (s : State) (f : RfxState → RfxState) : (s.rfxUpd f).inc = s.inc := by rfl
@[simp] theorem State.rfxUpd_host (s : State) (f : RfxState → RfxState) : (s.rfxUpd f).host = s.host := by rfl
@[simp] theorem State.rfxUpd_twin (s : State) (f : RfxState → RfxState) : (s.rfxUpd f).twin = s.twin := by rfl
@[simp] theorem State.rfxUpd_pwr (s : State) (f : RfxState → RfxState) : (s.rfxUpd f).pwr = s.pwr := by rfl
@[simp] theorem State.rfxUpd_sgr (s : State) (f : RfxState → RfxState) : (s.rfxUpd f).sgr = s.sgr := by rfl
@[simp] theorem State.rfxUpd_pending (s : State) (f : RfxState → RfxState) : (s.rfxUpd f).pending = s.pending := by rfl

@[simp] theorem State.sgrUpd_part (s : State) (f : SgrState → SgrState) : (s.sgrUpd f).part = s.part := by rfl
@[simp] theorem State.sgrUpd_dtc (s : State) (f : SgrState → SgrState) : (s.sgrUpd f).dtc = s.dtc := by rfl
@[simp] theorem State.sgrUpd_free (s : State) (f : SgrState → SgrState) : (s.sgrUpd f).free = s.free := by rfl
@[simp] theorem State.sgrUpd_regs (s : State) (f : SgrState → SgrState) : (s.sgrUpd f).regs = s.regs := by rfl
@[simp] theorem State.sgrUpd_reply (s : State) (f : SgrState → SgrState) : (s.sgrUpd f).reply = s.reply := by rfl
@[simp] theorem State.sgrUpd_off (s : State) (f : SgrState → SgrState) : (s.sgrUpd f).off = s.off := by rfl
@[simp] theorem State.sgrUpd_inReset (s : State) (f : SgrState → SgrState) : (s.sgrUpd f).inReset = s.inReset := by rfl
@[simp] theorem State.sgrUpd_unlocked (s : State) (f : SgrState → SgrState) : (s.sgrUpd f).unlocked = s.unlocked := by rfl
@[simp] theorem State.sgrUpd_sched (s : State) (f : SgrState → SgrState) : (s.sgrUpd f).sched = s.sched := by rfl
@[simp] theorem State.sgrUpd_mem (s : State) (f : SgrState → SgrState) : (s.sgrUpd f).mem = s.mem := by rfl
@[simp] theorem State.sgrUpd_ldg (s : State) (f : SgrState → SgrState) : (s.sgrUpd f).ldg = s.ldg := by rfl
@[simp] theorem State.sgrUpd_ptb (s : State) (f : SgrState → SgrState) : (s.sgrUpd f).ptb = s.ptb := by rfl
@[simp] theorem State.sgrUpd_enc (s : State) (f : SgrState → SgrState) : (s.sgrUpd f).enc = s.enc := by rfl
@[simp] theorem State.sgrUpd_tmap (s : State) (f : SgrState → SgrState) : (s.sgrUpd f).tmap = s.tmap := by rfl
@[simp] theorem State.sgrUpd_res (s : State) (f : SgrState → SgrState) : (s.sgrUpd f).res = s.res := by rfl
@[simp] theorem State.sgrUpd_net (s : State) (f : SgrState → SgrState) : (s.sgrUpd f).net = s.net := by rfl
@[simp] theorem State.sgrUpd_pps (s : State) (f : SgrState → SgrState) : (s.sgrUpd f).pps = s.pps := by rfl
@[simp] theorem State.sgrUpd_sp (s : State) (f : SgrState → SgrState) : (s.sgrUpd f).sp = s.sp := by rfl
@[simp] theorem State.sgrUpd_ieq (s : State) (f : SgrState → SgrState) : (s.sgrUpd f).ieq = s.ieq := by rfl
@[simp] theorem State.sgrUpd_rfx (s : State) (f : SgrState → SgrState) : (s.sgrUpd f).rfx = s.rfx := by rfl
@[simp] theorem State.sgrUpd_sfs (s : State) (f : SgrState → SgrState) : (s.sgrUpd f).sfs = s.sfs := by rfl
@[simp] theorem State.sgrUpd_chd (s : State) (f : SgrState → SgrState) : (s.sgrUpd f).chd = s.chd := by rfl
@[simp] theorem State.sgrUpd_loc (s : State) (f : SgrState → SgrState) : (s.sgrUpd f).loc = s.loc := by rfl
@[simp] theorem State.sgrUpd_rch (s : State) (f : SgrState → SgrState) : (s.sgrUpd f).rch = s.rch := by rfl
@[simp] theorem State.sgrUpd_adm (s : State) (f : SgrState → SgrState) : (s.sgrUpd f).adm = s.adm := by rfl
@[simp] theorem State.sgrUpd_lat (s : State) (f : SgrState → SgrState) : (s.sgrUpd f).lat = s.lat := by rfl
@[simp] theorem State.sgrUpd_spk (s : State) (f : SgrState → SgrState) : (s.sgrUpd f).spk = s.spk := by rfl
@[simp] theorem State.sgrUpd_coreClk (s : State) (f : SgrState → SgrState) : (s.sgrUpd f).coreClk = s.coreClk := by rfl
@[simp] theorem State.sgrUpd_fct (s : State) (f : SgrState → SgrState) : (s.sgrUpd f).fct = s.fct := by rfl
@[simp] theorem State.sgrUpd_inc (s : State) (f : SgrState → SgrState) : (s.sgrUpd f).inc = s.inc := by rfl
@[simp] theorem State.sgrUpd_host (s : State) (f : SgrState → SgrState) : (s.sgrUpd f).host = s.host := by rfl
@[simp] theorem State.sgrUpd_twin (s : State) (f : SgrState → SgrState) : (s.sgrUpd f).twin = s.twin := by rfl
@[simp] theorem State.sgrUpd_pwr (s : State) (f : SgrState → SgrState) : (s.sgrUpd f).pwr = s.pwr := by rfl
@[simp] theorem State.sgrUpd_pending (s : State) (f : SgrState → SgrState) : (s.sgrUpd f).pending = s.pending := by rfl

@[simp] theorem State.spkUpd_part (s : State) (f : SpkState → SpkState) : (s.spkUpd f).part = s.part := by rfl
@[simp] theorem State.spkUpd_dtc (s : State) (f : SpkState → SpkState) : (s.spkUpd f).dtc = s.dtc := by rfl
@[simp] theorem State.spkUpd_free (s : State) (f : SpkState → SpkState) : (s.spkUpd f).free = s.free := by rfl
@[simp] theorem State.spkUpd_regs (s : State) (f : SpkState → SpkState) : (s.spkUpd f).regs = s.regs := by rfl
@[simp] theorem State.spkUpd_reply (s : State) (f : SpkState → SpkState) : (s.spkUpd f).reply = s.reply := by rfl
@[simp] theorem State.spkUpd_off (s : State) (f : SpkState → SpkState) : (s.spkUpd f).off = s.off := by rfl
@[simp] theorem State.spkUpd_inReset (s : State) (f : SpkState → SpkState) : (s.spkUpd f).inReset = s.inReset := by rfl
@[simp] theorem State.spkUpd_unlocked (s : State) (f : SpkState → SpkState) : (s.spkUpd f).unlocked = s.unlocked := by rfl
@[simp] theorem State.spkUpd_sched (s : State) (f : SpkState → SpkState) : (s.spkUpd f).sched = s.sched := by rfl
@[simp] theorem State.spkUpd_mem (s : State) (f : SpkState → SpkState) : (s.spkUpd f).mem = s.mem := by rfl
@[simp] theorem State.spkUpd_ldg (s : State) (f : SpkState → SpkState) : (s.spkUpd f).ldg = s.ldg := by rfl
@[simp] theorem State.spkUpd_ptb (s : State) (f : SpkState → SpkState) : (s.spkUpd f).ptb = s.ptb := by rfl
@[simp] theorem State.spkUpd_enc (s : State) (f : SpkState → SpkState) : (s.spkUpd f).enc = s.enc := by rfl
@[simp] theorem State.spkUpd_tmap (s : State) (f : SpkState → SpkState) : (s.spkUpd f).tmap = s.tmap := by rfl
@[simp] theorem State.spkUpd_res (s : State) (f : SpkState → SpkState) : (s.spkUpd f).res = s.res := by rfl
@[simp] theorem State.spkUpd_net (s : State) (f : SpkState → SpkState) : (s.spkUpd f).net = s.net := by rfl
@[simp] theorem State.spkUpd_pps (s : State) (f : SpkState → SpkState) : (s.spkUpd f).pps = s.pps := by rfl
@[simp] theorem State.spkUpd_sp (s : State) (f : SpkState → SpkState) : (s.spkUpd f).sp = s.sp := by rfl
@[simp] theorem State.spkUpd_ieq (s : State) (f : SpkState → SpkState) : (s.spkUpd f).ieq = s.ieq := by rfl
@[simp] theorem State.spkUpd_rfx (s : State) (f : SpkState → SpkState) : (s.spkUpd f).rfx = s.rfx := by rfl
@[simp] theorem State.spkUpd_sfs (s : State) (f : SpkState → SpkState) : (s.spkUpd f).sfs = s.sfs := by rfl
@[simp] theorem State.spkUpd_chd (s : State) (f : SpkState → SpkState) : (s.spkUpd f).chd = s.chd := by rfl
@[simp] theorem State.spkUpd_loc (s : State) (f : SpkState → SpkState) : (s.spkUpd f).loc = s.loc := by rfl
@[simp] theorem State.spkUpd_rch (s : State) (f : SpkState → SpkState) : (s.spkUpd f).rch = s.rch := by rfl
@[simp] theorem State.spkUpd_adm (s : State) (f : SpkState → SpkState) : (s.spkUpd f).adm = s.adm := by rfl
@[simp] theorem State.spkUpd_lat (s : State) (f : SpkState → SpkState) : (s.spkUpd f).lat = s.lat := by rfl
@[simp] theorem State.spkUpd_coreClk (s : State) (f : SpkState → SpkState) : (s.spkUpd f).coreClk = s.coreClk := by rfl
@[simp] theorem State.spkUpd_fct (s : State) (f : SpkState → SpkState) : (s.spkUpd f).fct = s.fct := by rfl
@[simp] theorem State.spkUpd_inc (s : State) (f : SpkState → SpkState) : (s.spkUpd f).inc = s.inc := by rfl
@[simp] theorem State.spkUpd_host (s : State) (f : SpkState → SpkState) : (s.spkUpd f).host = s.host := by rfl
@[simp] theorem State.spkUpd_twin (s : State) (f : SpkState → SpkState) : (s.spkUpd f).twin = s.twin := by rfl
@[simp] theorem State.spkUpd_pwr (s : State) (f : SpkState → SpkState) : (s.spkUpd f).pwr = s.pwr := by rfl
@[simp] theorem State.spkUpd_sgr (s : State) (f : SpkState → SpkState) : (s.spkUpd f).sgr = s.sgr := by rfl
@[simp] theorem State.spkUpd_pending (s : State) (f : SpkState → SpkState) : (s.spkUpd f).pending = s.pending := by rfl

@[simp] theorem State.sfsUpd_part (s : State) (f : SfsState → SfsState) : (s.sfsUpd f).part = s.part := by rfl
@[simp] theorem State.sfsUpd_dtc (s : State) (f : SfsState → SfsState) : (s.sfsUpd f).dtc = s.dtc := by rfl
@[simp] theorem State.sfsUpd_free (s : State) (f : SfsState → SfsState) : (s.sfsUpd f).free = s.free := by rfl
@[simp] theorem State.sfsUpd_regs (s : State) (f : SfsState → SfsState) : (s.sfsUpd f).regs = s.regs := by rfl
@[simp] theorem State.sfsUpd_reply (s : State) (f : SfsState → SfsState) : (s.sfsUpd f).reply = s.reply := by rfl
@[simp] theorem State.sfsUpd_off (s : State) (f : SfsState → SfsState) : (s.sfsUpd f).off = s.off := by rfl
@[simp] theorem State.sfsUpd_inReset (s : State) (f : SfsState → SfsState) : (s.sfsUpd f).inReset = s.inReset := by rfl
@[simp] theorem State.sfsUpd_unlocked (s : State) (f : SfsState → SfsState) : (s.sfsUpd f).unlocked = s.unlocked := by rfl
@[simp] theorem State.sfsUpd_sched (s : State) (f : SfsState → SfsState) : (s.sfsUpd f).sched = s.sched := by rfl
@[simp] theorem State.sfsUpd_mem (s : State) (f : SfsState → SfsState) : (s.sfsUpd f).mem = s.mem := by rfl
@[simp] theorem State.sfsUpd_ldg (s : State) (f : SfsState → SfsState) : (s.sfsUpd f).ldg = s.ldg := by rfl
@[simp] theorem State.sfsUpd_ptb (s : State) (f : SfsState → SfsState) : (s.sfsUpd f).ptb = s.ptb := by rfl
@[simp] theorem State.sfsUpd_enc (s : State) (f : SfsState → SfsState) : (s.sfsUpd f).enc = s.enc := by rfl
@[simp] theorem State.sfsUpd_tmap (s : State) (f : SfsState → SfsState) : (s.sfsUpd f).tmap = s.tmap := by rfl
@[simp] theorem State.sfsUpd_res (s : State) (f : SfsState → SfsState) : (s.sfsUpd f).res = s.res := by rfl
@[simp] theorem State.sfsUpd_net (s : State) (f : SfsState → SfsState) : (s.sfsUpd f).net = s.net := by rfl
@[simp] theorem State.sfsUpd_pps (s : State) (f : SfsState → SfsState) : (s.sfsUpd f).pps = s.pps := by rfl
@[simp] theorem State.sfsUpd_sp (s : State) (f : SfsState → SfsState) : (s.sfsUpd f).sp = s.sp := by rfl
@[simp] theorem State.sfsUpd_ieq (s : State) (f : SfsState → SfsState) : (s.sfsUpd f).ieq = s.ieq := by rfl
@[simp] theorem State.sfsUpd_rfx (s : State) (f : SfsState → SfsState) : (s.sfsUpd f).rfx = s.rfx := by rfl
@[simp] theorem State.sfsUpd_chd (s : State) (f : SfsState → SfsState) : (s.sfsUpd f).chd = s.chd := by rfl
@[simp] theorem State.sfsUpd_loc (s : State) (f : SfsState → SfsState) : (s.sfsUpd f).loc = s.loc := by rfl
@[simp] theorem State.sfsUpd_rch (s : State) (f : SfsState → SfsState) : (s.sfsUpd f).rch = s.rch := by rfl
@[simp] theorem State.sfsUpd_adm (s : State) (f : SfsState → SfsState) : (s.sfsUpd f).adm = s.adm := by rfl
@[simp] theorem State.sfsUpd_lat (s : State) (f : SfsState → SfsState) : (s.sfsUpd f).lat = s.lat := by rfl
@[simp] theorem State.sfsUpd_spk (s : State) (f : SfsState → SfsState) : (s.sfsUpd f).spk = s.spk := by rfl
@[simp] theorem State.sfsUpd_coreClk (s : State) (f : SfsState → SfsState) : (s.sfsUpd f).coreClk = s.coreClk := by rfl
@[simp] theorem State.sfsUpd_fct (s : State) (f : SfsState → SfsState) : (s.sfsUpd f).fct = s.fct := by rfl
@[simp] theorem State.sfsUpd_inc (s : State) (f : SfsState → SfsState) : (s.sfsUpd f).inc = s.inc := by rfl
@[simp] theorem State.sfsUpd_host (s : State) (f : SfsState → SfsState) : (s.sfsUpd f).host = s.host := by rfl
@[simp] theorem State.sfsUpd_twin (s : State) (f : SfsState → SfsState) : (s.sfsUpd f).twin = s.twin := by rfl
@[simp] theorem State.sfsUpd_pwr (s : State) (f : SfsState → SfsState) : (s.sfsUpd f).pwr = s.pwr := by rfl
@[simp] theorem State.sfsUpd_sgr (s : State) (f : SfsState → SfsState) : (s.sfsUpd f).sgr = s.sgr := by rfl
@[simp] theorem State.sfsUpd_pending (s : State) (f : SfsState → SfsState) : (s.sfsUpd f).pending = s.pending := by rfl

@[simp] theorem State.chdUpd_part (s : State) (i : Fin 8) (f : ChdState → ChdState) : (s.chdUpd i f).part = s.part := by rfl
@[simp] theorem State.chdUpd_dtc (s : State) (i : Fin 8) (f : ChdState → ChdState) : (s.chdUpd i f).dtc = s.dtc := by rfl
@[simp] theorem State.chdUpd_free (s : State) (i : Fin 8) (f : ChdState → ChdState) : (s.chdUpd i f).free = s.free := by rfl
@[simp] theorem State.chdUpd_regs (s : State) (i : Fin 8) (f : ChdState → ChdState) : (s.chdUpd i f).regs = s.regs := by rfl
@[simp] theorem State.chdUpd_reply (s : State) (i : Fin 8) (f : ChdState → ChdState) : (s.chdUpd i f).reply = s.reply := by rfl
@[simp] theorem State.chdUpd_off (s : State) (i : Fin 8) (f : ChdState → ChdState) : (s.chdUpd i f).off = s.off := by rfl
@[simp] theorem State.chdUpd_inReset (s : State) (i : Fin 8) (f : ChdState → ChdState) : (s.chdUpd i f).inReset = s.inReset := by rfl
@[simp] theorem State.chdUpd_unlocked (s : State) (i : Fin 8) (f : ChdState → ChdState) : (s.chdUpd i f).unlocked = s.unlocked := by rfl
@[simp] theorem State.chdUpd_sched (s : State) (i : Fin 8) (f : ChdState → ChdState) : (s.chdUpd i f).sched = s.sched := by rfl
@[simp] theorem State.chdUpd_mem (s : State) (i : Fin 8) (f : ChdState → ChdState) : (s.chdUpd i f).mem = s.mem := by rfl
@[simp] theorem State.chdUpd_ldg (s : State) (i : Fin 8) (f : ChdState → ChdState) : (s.chdUpd i f).ldg = s.ldg := by rfl
@[simp] theorem State.chdUpd_ptb (s : State) (i : Fin 8) (f : ChdState → ChdState) : (s.chdUpd i f).ptb = s.ptb := by rfl
@[simp] theorem State.chdUpd_enc (s : State) (i : Fin 8) (f : ChdState → ChdState) : (s.chdUpd i f).enc = s.enc := by rfl
@[simp] theorem State.chdUpd_tmap (s : State) (i : Fin 8) (f : ChdState → ChdState) : (s.chdUpd i f).tmap = s.tmap := by rfl
@[simp] theorem State.chdUpd_res (s : State) (i : Fin 8) (f : ChdState → ChdState) : (s.chdUpd i f).res = s.res := by rfl
@[simp] theorem State.chdUpd_net (s : State) (i : Fin 8) (f : ChdState → ChdState) : (s.chdUpd i f).net = s.net := by rfl
@[simp] theorem State.chdUpd_pps (s : State) (i : Fin 8) (f : ChdState → ChdState) : (s.chdUpd i f).pps = s.pps := by rfl
@[simp] theorem State.chdUpd_sp (s : State) (i : Fin 8) (f : ChdState → ChdState) : (s.chdUpd i f).sp = s.sp := by rfl
@[simp] theorem State.chdUpd_ieq (s : State) (i : Fin 8) (f : ChdState → ChdState) : (s.chdUpd i f).ieq = s.ieq := by rfl
@[simp] theorem State.chdUpd_rfx (s : State) (i : Fin 8) (f : ChdState → ChdState) : (s.chdUpd i f).rfx = s.rfx := by rfl
@[simp] theorem State.chdUpd_sfs (s : State) (i : Fin 8) (f : ChdState → ChdState) : (s.chdUpd i f).sfs = s.sfs := by rfl
@[simp] theorem State.chdUpd_loc (s : State) (i : Fin 8) (f : ChdState → ChdState) : (s.chdUpd i f).loc = s.loc := by rfl
@[simp] theorem State.chdUpd_rch (s : State) (i : Fin 8) (f : ChdState → ChdState) : (s.chdUpd i f).rch = s.rch := by rfl
@[simp] theorem State.chdUpd_adm (s : State) (i : Fin 8) (f : ChdState → ChdState) : (s.chdUpd i f).adm = s.adm := by rfl
@[simp] theorem State.chdUpd_lat (s : State) (i : Fin 8) (f : ChdState → ChdState) : (s.chdUpd i f).lat = s.lat := by rfl
@[simp] theorem State.chdUpd_spk (s : State) (i : Fin 8) (f : ChdState → ChdState) : (s.chdUpd i f).spk = s.spk := by rfl
@[simp] theorem State.chdUpd_coreClk (s : State) (i : Fin 8) (f : ChdState → ChdState) : (s.chdUpd i f).coreClk = s.coreClk := by rfl
@[simp] theorem State.chdUpd_fct (s : State) (i : Fin 8) (f : ChdState → ChdState) : (s.chdUpd i f).fct = s.fct := by rfl
@[simp] theorem State.chdUpd_inc (s : State) (i : Fin 8) (f : ChdState → ChdState) : (s.chdUpd i f).inc = s.inc := by rfl
@[simp] theorem State.chdUpd_host (s : State) (i : Fin 8) (f : ChdState → ChdState) : (s.chdUpd i f).host = s.host := by rfl
@[simp] theorem State.chdUpd_twin (s : State) (i : Fin 8) (f : ChdState → ChdState) : (s.chdUpd i f).twin = s.twin := by rfl
@[simp] theorem State.chdUpd_pwr (s : State) (i : Fin 8) (f : ChdState → ChdState) : (s.chdUpd i f).pwr = s.pwr := by rfl
@[simp] theorem State.chdUpd_sgr (s : State) (i : Fin 8) (f : ChdState → ChdState) : (s.chdUpd i f).sgr = s.sgr := by rfl
@[simp] theorem State.chdUpd_pending (s : State) (i : Fin 8) (f : ChdState → ChdState) : (s.chdUpd i f).pending = s.pending := by rfl

@[simp] theorem State.fctUpd_part (s : State) (i : Fin 6) (f : FctState → FctState) : (s.fctUpd i f).part = s.part := by rfl
@[simp] theorem State.fctUpd_dtc (s : State) (i : Fin 6) (f : FctState → FctState) : (s.fctUpd i f).dtc = s.dtc := by rfl
@[simp] theorem State.fctUpd_free (s : State) (i : Fin 6) (f : FctState → FctState) : (s.fctUpd i f).free = s.free := by rfl
@[simp] theorem State.fctUpd_regs (s : State) (i : Fin 6) (f : FctState → FctState) : (s.fctUpd i f).regs = s.regs := by rfl
@[simp] theorem State.fctUpd_reply (s : State) (i : Fin 6) (f : FctState → FctState) : (s.fctUpd i f).reply = s.reply := by rfl
@[simp] theorem State.fctUpd_off (s : State) (i : Fin 6) (f : FctState → FctState) : (s.fctUpd i f).off = s.off := by rfl
@[simp] theorem State.fctUpd_inReset (s : State) (i : Fin 6) (f : FctState → FctState) : (s.fctUpd i f).inReset = s.inReset := by rfl
@[simp] theorem State.fctUpd_unlocked (s : State) (i : Fin 6) (f : FctState → FctState) : (s.fctUpd i f).unlocked = s.unlocked := by rfl
@[simp] theorem State.fctUpd_sched (s : State) (i : Fin 6) (f : FctState → FctState) : (s.fctUpd i f).sched = s.sched := by rfl
@[simp] theorem State.fctUpd_mem (s : State) (i : Fin 6) (f : FctState → FctState) : (s.fctUpd i f).mem = s.mem := by rfl
@[simp] theorem State.fctUpd_ldg (s : State) (i : Fin 6) (f : FctState → FctState) : (s.fctUpd i f).ldg = s.ldg := by rfl
@[simp] theorem State.fctUpd_ptb (s : State) (i : Fin 6) (f : FctState → FctState) : (s.fctUpd i f).ptb = s.ptb := by rfl
@[simp] theorem State.fctUpd_enc (s : State) (i : Fin 6) (f : FctState → FctState) : (s.fctUpd i f).enc = s.enc := by rfl
@[simp] theorem State.fctUpd_tmap (s : State) (i : Fin 6) (f : FctState → FctState) : (s.fctUpd i f).tmap = s.tmap := by rfl
@[simp] theorem State.fctUpd_res (s : State) (i : Fin 6) (f : FctState → FctState) : (s.fctUpd i f).res = s.res := by rfl
@[simp] theorem State.fctUpd_net (s : State) (i : Fin 6) (f : FctState → FctState) : (s.fctUpd i f).net = s.net := by rfl
@[simp] theorem State.fctUpd_pps (s : State) (i : Fin 6) (f : FctState → FctState) : (s.fctUpd i f).pps = s.pps := by rfl
@[simp] theorem State.fctUpd_sp (s : State) (i : Fin 6) (f : FctState → FctState) : (s.fctUpd i f).sp = s.sp := by rfl
@[simp] theorem State.fctUpd_ieq (s : State) (i : Fin 6) (f : FctState → FctState) : (s.fctUpd i f).ieq = s.ieq := by rfl
@[simp] theorem State.fctUpd_rfx (s : State) (i : Fin 6) (f : FctState → FctState) : (s.fctUpd i f).rfx = s.rfx := by rfl
@[simp] theorem State.fctUpd_sfs (s : State) (i : Fin 6) (f : FctState → FctState) : (s.fctUpd i f).sfs = s.sfs := by rfl
@[simp] theorem State.fctUpd_chd (s : State) (i : Fin 6) (f : FctState → FctState) : (s.fctUpd i f).chd = s.chd := by rfl
@[simp] theorem State.fctUpd_loc (s : State) (i : Fin 6) (f : FctState → FctState) : (s.fctUpd i f).loc = s.loc := by rfl
@[simp] theorem State.fctUpd_rch (s : State) (i : Fin 6) (f : FctState → FctState) : (s.fctUpd i f).rch = s.rch := by rfl
@[simp] theorem State.fctUpd_adm (s : State) (i : Fin 6) (f : FctState → FctState) : (s.fctUpd i f).adm = s.adm := by rfl
@[simp] theorem State.fctUpd_lat (s : State) (i : Fin 6) (f : FctState → FctState) : (s.fctUpd i f).lat = s.lat := by rfl
@[simp] theorem State.fctUpd_spk (s : State) (i : Fin 6) (f : FctState → FctState) : (s.fctUpd i f).spk = s.spk := by rfl
@[simp] theorem State.fctUpd_coreClk (s : State) (i : Fin 6) (f : FctState → FctState) : (s.fctUpd i f).coreClk = s.coreClk := by rfl
@[simp] theorem State.fctUpd_inc (s : State) (i : Fin 6) (f : FctState → FctState) : (s.fctUpd i f).inc = s.inc := by rfl
@[simp] theorem State.fctUpd_host (s : State) (i : Fin 6) (f : FctState → FctState) : (s.fctUpd i f).host = s.host := by rfl
@[simp] theorem State.fctUpd_twin (s : State) (i : Fin 6) (f : FctState → FctState) : (s.fctUpd i f).twin = s.twin := by rfl
@[simp] theorem State.fctUpd_pwr (s : State) (i : Fin 6) (f : FctState → FctState) : (s.fctUpd i f).pwr = s.pwr := by rfl
@[simp] theorem State.fctUpd_sgr (s : State) (i : Fin 6) (f : FctState → FctState) : (s.fctUpd i f).sgr = s.sgr := by rfl
@[simp] theorem State.fctUpd_pending (s : State) (i : Fin 6) (f : FctState → FctState) : (s.fctUpd i f).pending = s.pending := by rfl

@[simp] theorem State.latUpd_part (s : State) (i : Fin 6) (f : LatState → LatState) : (s.latUpd i f).part = s.part := by rfl
@[simp] theorem State.latUpd_dtc (s : State) (i : Fin 6) (f : LatState → LatState) : (s.latUpd i f).dtc = s.dtc := by rfl
@[simp] theorem State.latUpd_free (s : State) (i : Fin 6) (f : LatState → LatState) : (s.latUpd i f).free = s.free := by rfl
@[simp] theorem State.latUpd_regs (s : State) (i : Fin 6) (f : LatState → LatState) : (s.latUpd i f).regs = s.regs := by rfl
@[simp] theorem State.latUpd_reply (s : State) (i : Fin 6) (f : LatState → LatState) : (s.latUpd i f).reply = s.reply := by rfl
@[simp] theorem State.latUpd_off (s : State) (i : Fin 6) (f : LatState → LatState) : (s.latUpd i f).off = s.off := by rfl
@[simp] theorem State.latUpd_inReset (s : State) (i : Fin 6) (f : LatState → LatState) : (s.latUpd i f).inReset = s.inReset := by rfl
@[simp] theorem State.latUpd_unlocked (s : State) (i : Fin 6) (f : LatState → LatState) : (s.latUpd i f).unlocked = s.unlocked := by rfl
@[simp] theorem State.latUpd_sched (s : State) (i : Fin 6) (f : LatState → LatState) : (s.latUpd i f).sched = s.sched := by rfl
@[simp] theorem State.latUpd_mem (s : State) (i : Fin 6) (f : LatState → LatState) : (s.latUpd i f).mem = s.mem := by rfl
@[simp] theorem State.latUpd_ldg (s : State) (i : Fin 6) (f : LatState → LatState) : (s.latUpd i f).ldg = s.ldg := by rfl
@[simp] theorem State.latUpd_ptb (s : State) (i : Fin 6) (f : LatState → LatState) : (s.latUpd i f).ptb = s.ptb := by rfl
@[simp] theorem State.latUpd_enc (s : State) (i : Fin 6) (f : LatState → LatState) : (s.latUpd i f).enc = s.enc := by rfl
@[simp] theorem State.latUpd_tmap (s : State) (i : Fin 6) (f : LatState → LatState) : (s.latUpd i f).tmap = s.tmap := by rfl
@[simp] theorem State.latUpd_res (s : State) (i : Fin 6) (f : LatState → LatState) : (s.latUpd i f).res = s.res := by rfl
@[simp] theorem State.latUpd_net (s : State) (i : Fin 6) (f : LatState → LatState) : (s.latUpd i f).net = s.net := by rfl
@[simp] theorem State.latUpd_pps (s : State) (i : Fin 6) (f : LatState → LatState) : (s.latUpd i f).pps = s.pps := by rfl
@[simp] theorem State.latUpd_sp (s : State) (i : Fin 6) (f : LatState → LatState) : (s.latUpd i f).sp = s.sp := by rfl
@[simp] theorem State.latUpd_ieq (s : State) (i : Fin 6) (f : LatState → LatState) : (s.latUpd i f).ieq = s.ieq := by rfl
@[simp] theorem State.latUpd_rfx (s : State) (i : Fin 6) (f : LatState → LatState) : (s.latUpd i f).rfx = s.rfx := by rfl
@[simp] theorem State.latUpd_sfs (s : State) (i : Fin 6) (f : LatState → LatState) : (s.latUpd i f).sfs = s.sfs := by rfl
@[simp] theorem State.latUpd_chd (s : State) (i : Fin 6) (f : LatState → LatState) : (s.latUpd i f).chd = s.chd := by rfl
@[simp] theorem State.latUpd_loc (s : State) (i : Fin 6) (f : LatState → LatState) : (s.latUpd i f).loc = s.loc := by rfl
@[simp] theorem State.latUpd_rch (s : State) (i : Fin 6) (f : LatState → LatState) : (s.latUpd i f).rch = s.rch := by rfl
@[simp] theorem State.latUpd_adm (s : State) (i : Fin 6) (f : LatState → LatState) : (s.latUpd i f).adm = s.adm := by rfl
@[simp] theorem State.latUpd_spk (s : State) (i : Fin 6) (f : LatState → LatState) : (s.latUpd i f).spk = s.spk := by rfl
@[simp] theorem State.latUpd_coreClk (s : State) (i : Fin 6) (f : LatState → LatState) : (s.latUpd i f).coreClk = s.coreClk := by rfl
@[simp] theorem State.latUpd_fct (s : State) (i : Fin 6) (f : LatState → LatState) : (s.latUpd i f).fct = s.fct := by rfl
@[simp] theorem State.latUpd_inc (s : State) (i : Fin 6) (f : LatState → LatState) : (s.latUpd i f).inc = s.inc := by rfl
@[simp] theorem State.latUpd_host (s : State) (i : Fin 6) (f : LatState → LatState) : (s.latUpd i f).host = s.host := by rfl
@[simp] theorem State.latUpd_twin (s : State) (i : Fin 6) (f : LatState → LatState) : (s.latUpd i f).twin = s.twin := by rfl
@[simp] theorem State.latUpd_pwr (s : State) (i : Fin 6) (f : LatState → LatState) : (s.latUpd i f).pwr = s.pwr := by rfl
@[simp] theorem State.latUpd_sgr (s : State) (i : Fin 6) (f : LatState → LatState) : (s.latUpd i f).sgr = s.sgr := by rfl
@[simp] theorem State.latUpd_pending (s : State) (i : Fin 6) (f : LatState → LatState) : (s.latUpd i f).pending = s.pending := by rfl

@[simp] theorem State.netUpd_part (s : State) (i : Fin 2) (f : NetState → NetState) : (s.netUpd i f).part = s.part := by rfl
@[simp] theorem State.netUpd_dtc (s : State) (i : Fin 2) (f : NetState → NetState) : (s.netUpd i f).dtc = s.dtc := by rfl
@[simp] theorem State.netUpd_free (s : State) (i : Fin 2) (f : NetState → NetState) : (s.netUpd i f).free = s.free := by rfl
@[simp] theorem State.netUpd_regs (s : State) (i : Fin 2) (f : NetState → NetState) : (s.netUpd i f).regs = s.regs := by rfl
@[simp] theorem State.netUpd_reply (s : State) (i : Fin 2) (f : NetState → NetState) : (s.netUpd i f).reply = s.reply := by rfl
@[simp] theorem State.netUpd_off (s : State) (i : Fin 2) (f : NetState → NetState) : (s.netUpd i f).off = s.off := by rfl
@[simp] theorem State.netUpd_inReset (s : State) (i : Fin 2) (f : NetState → NetState) : (s.netUpd i f).inReset = s.inReset := by rfl
@[simp] theorem State.netUpd_unlocked (s : State) (i : Fin 2) (f : NetState → NetState) : (s.netUpd i f).unlocked = s.unlocked := by rfl
@[simp] theorem State.netUpd_sched (s : State) (i : Fin 2) (f : NetState → NetState) : (s.netUpd i f).sched = s.sched := by rfl
@[simp] theorem State.netUpd_mem (s : State) (i : Fin 2) (f : NetState → NetState) : (s.netUpd i f).mem = s.mem := by rfl
@[simp] theorem State.netUpd_ldg (s : State) (i : Fin 2) (f : NetState → NetState) : (s.netUpd i f).ldg = s.ldg := by rfl
@[simp] theorem State.netUpd_ptb (s : State) (i : Fin 2) (f : NetState → NetState) : (s.netUpd i f).ptb = s.ptb := by rfl
@[simp] theorem State.netUpd_enc (s : State) (i : Fin 2) (f : NetState → NetState) : (s.netUpd i f).enc = s.enc := by rfl
@[simp] theorem State.netUpd_tmap (s : State) (i : Fin 2) (f : NetState → NetState) : (s.netUpd i f).tmap = s.tmap := by rfl
@[simp] theorem State.netUpd_res (s : State) (i : Fin 2) (f : NetState → NetState) : (s.netUpd i f).res = s.res := by rfl
@[simp] theorem State.netUpd_pps (s : State) (i : Fin 2) (f : NetState → NetState) : (s.netUpd i f).pps = s.pps := by rfl
@[simp] theorem State.netUpd_sp (s : State) (i : Fin 2) (f : NetState → NetState) : (s.netUpd i f).sp = s.sp := by rfl
@[simp] theorem State.netUpd_ieq (s : State) (i : Fin 2) (f : NetState → NetState) : (s.netUpd i f).ieq = s.ieq := by rfl
@[simp] theorem State.netUpd_rfx (s : State) (i : Fin 2) (f : NetState → NetState) : (s.netUpd i f).rfx = s.rfx := by rfl
@[simp] theorem State.netUpd_sfs (s : State) (i : Fin 2) (f : NetState → NetState) : (s.netUpd i f).sfs = s.sfs := by rfl
@[simp] theorem State.netUpd_chd (s : State) (i : Fin 2) (f : NetState → NetState) : (s.netUpd i f).chd = s.chd := by rfl
@[simp] theorem State.netUpd_loc (s : State) (i : Fin 2) (f : NetState → NetState) : (s.netUpd i f).loc = s.loc := by rfl
@[simp] theorem State.netUpd_rch (s : State) (i : Fin 2) (f : NetState → NetState) : (s.netUpd i f).rch = s.rch := by rfl
@[simp] theorem State.netUpd_adm (s : State) (i : Fin 2) (f : NetState → NetState) : (s.netUpd i f).adm = s.adm := by rfl
@[simp] theorem State.netUpd_lat (s : State) (i : Fin 2) (f : NetState → NetState) : (s.netUpd i f).lat = s.lat := by rfl
@[simp] theorem State.netUpd_spk (s : State) (i : Fin 2) (f : NetState → NetState) : (s.netUpd i f).spk = s.spk := by rfl
@[simp] theorem State.netUpd_coreClk (s : State) (i : Fin 2) (f : NetState → NetState) : (s.netUpd i f).coreClk = s.coreClk := by rfl
@[simp] theorem State.netUpd_fct (s : State) (i : Fin 2) (f : NetState → NetState) : (s.netUpd i f).fct = s.fct := by rfl
@[simp] theorem State.netUpd_inc (s : State) (i : Fin 2) (f : NetState → NetState) : (s.netUpd i f).inc = s.inc := by rfl
@[simp] theorem State.netUpd_host (s : State) (i : Fin 2) (f : NetState → NetState) : (s.netUpd i f).host = s.host := by rfl
@[simp] theorem State.netUpd_twin (s : State) (i : Fin 2) (f : NetState → NetState) : (s.netUpd i f).twin = s.twin := by rfl
@[simp] theorem State.netUpd_pwr (s : State) (i : Fin 2) (f : NetState → NetState) : (s.netUpd i f).pwr = s.pwr := by rfl
@[simp] theorem State.netUpd_sgr (s : State) (i : Fin 2) (f : NetState → NetState) : (s.netUpd i f).sgr = s.sgr := by rfl
@[simp] theorem State.netUpd_pending (s : State) (i : Fin 2) (f : NetState → NetState) : (s.netUpd i f).pending = s.pending := by rfl

@[simp] theorem State.ptbUpd_part (s : State) (i : Fin 8) (f : PtbState → PtbState) : (s.ptbUpd i f).part = s.part := by rfl
@[simp] theorem State.ptbUpd_dtc (s : State) (i : Fin 8) (f : PtbState → PtbState) : (s.ptbUpd i f).dtc = s.dtc := by rfl
@[simp] theorem State.ptbUpd_free (s : State) (i : Fin 8) (f : PtbState → PtbState) : (s.ptbUpd i f).free = s.free := by rfl
@[simp] theorem State.ptbUpd_regs (s : State) (i : Fin 8) (f : PtbState → PtbState) : (s.ptbUpd i f).regs = s.regs := by rfl
@[simp] theorem State.ptbUpd_reply (s : State) (i : Fin 8) (f : PtbState → PtbState) : (s.ptbUpd i f).reply = s.reply := by rfl
@[simp] theorem State.ptbUpd_off (s : State) (i : Fin 8) (f : PtbState → PtbState) : (s.ptbUpd i f).off = s.off := by rfl
@[simp] theorem State.ptbUpd_inReset (s : State) (i : Fin 8) (f : PtbState → PtbState) : (s.ptbUpd i f).inReset = s.inReset := by rfl
@[simp] theorem State.ptbUpd_unlocked (s : State) (i : Fin 8) (f : PtbState → PtbState) : (s.ptbUpd i f).unlocked = s.unlocked := by rfl
@[simp] theorem State.ptbUpd_sched (s : State) (i : Fin 8) (f : PtbState → PtbState) : (s.ptbUpd i f).sched = s.sched := by rfl
@[simp] theorem State.ptbUpd_mem (s : State) (i : Fin 8) (f : PtbState → PtbState) : (s.ptbUpd i f).mem = s.mem := by rfl
@[simp] theorem State.ptbUpd_ldg (s : State) (i : Fin 8) (f : PtbState → PtbState) : (s.ptbUpd i f).ldg = s.ldg := by rfl
@[simp] theorem State.ptbUpd_enc (s : State) (i : Fin 8) (f : PtbState → PtbState) : (s.ptbUpd i f).enc = s.enc := by rfl
@[simp] theorem State.ptbUpd_tmap (s : State) (i : Fin 8) (f : PtbState → PtbState) : (s.ptbUpd i f).tmap = s.tmap := by rfl
@[simp] theorem State.ptbUpd_res (s : State) (i : Fin 8) (f : PtbState → PtbState) : (s.ptbUpd i f).res = s.res := by rfl
@[simp] theorem State.ptbUpd_net (s : State) (i : Fin 8) (f : PtbState → PtbState) : (s.ptbUpd i f).net = s.net := by rfl
@[simp] theorem State.ptbUpd_pps (s : State) (i : Fin 8) (f : PtbState → PtbState) : (s.ptbUpd i f).pps = s.pps := by rfl
@[simp] theorem State.ptbUpd_sp (s : State) (i : Fin 8) (f : PtbState → PtbState) : (s.ptbUpd i f).sp = s.sp := by rfl
@[simp] theorem State.ptbUpd_ieq (s : State) (i : Fin 8) (f : PtbState → PtbState) : (s.ptbUpd i f).ieq = s.ieq := by rfl
@[simp] theorem State.ptbUpd_rfx (s : State) (i : Fin 8) (f : PtbState → PtbState) : (s.ptbUpd i f).rfx = s.rfx := by rfl
@[simp] theorem State.ptbUpd_sfs (s : State) (i : Fin 8) (f : PtbState → PtbState) : (s.ptbUpd i f).sfs = s.sfs := by rfl
@[simp] theorem State.ptbUpd_chd (s : State) (i : Fin 8) (f : PtbState → PtbState) : (s.ptbUpd i f).chd = s.chd := by rfl
@[simp] theorem State.ptbUpd_loc (s : State) (i : Fin 8) (f : PtbState → PtbState) : (s.ptbUpd i f).loc = s.loc := by rfl
@[simp] theorem State.ptbUpd_rch (s : State) (i : Fin 8) (f : PtbState → PtbState) : (s.ptbUpd i f).rch = s.rch := by rfl
@[simp] theorem State.ptbUpd_adm (s : State) (i : Fin 8) (f : PtbState → PtbState) : (s.ptbUpd i f).adm = s.adm := by rfl
@[simp] theorem State.ptbUpd_lat (s : State) (i : Fin 8) (f : PtbState → PtbState) : (s.ptbUpd i f).lat = s.lat := by rfl
@[simp] theorem State.ptbUpd_spk (s : State) (i : Fin 8) (f : PtbState → PtbState) : (s.ptbUpd i f).spk = s.spk := by rfl
@[simp] theorem State.ptbUpd_coreClk (s : State) (i : Fin 8) (f : PtbState → PtbState) : (s.ptbUpd i f).coreClk = s.coreClk := by rfl
@[simp] theorem State.ptbUpd_fct (s : State) (i : Fin 8) (f : PtbState → PtbState) : (s.ptbUpd i f).fct = s.fct := by rfl
@[simp] theorem State.ptbUpd_inc (s : State) (i : Fin 8) (f : PtbState → PtbState) : (s.ptbUpd i f).inc = s.inc := by rfl
@[simp] theorem State.ptbUpd_host (s : State) (i : Fin 8) (f : PtbState → PtbState) : (s.ptbUpd i f).host = s.host := by rfl
@[simp] theorem State.ptbUpd_twin (s : State) (i : Fin 8) (f : PtbState → PtbState) : (s.ptbUpd i f).twin = s.twin := by rfl
@[simp] theorem State.ptbUpd_pwr (s : State) (i : Fin 8) (f : PtbState → PtbState) : (s.ptbUpd i f).pwr = s.pwr := by rfl
@[simp] theorem State.ptbUpd_sgr (s : State) (i : Fin 8) (f : PtbState → PtbState) : (s.ptbUpd i f).sgr = s.sgr := by rfl
@[simp] theorem State.ptbUpd_pending (s : State) (i : Fin 8) (f : PtbState → PtbState) : (s.ptbUpd i f).pending = s.pending := by rfl

@[simp] theorem State.spUpd_part (s : State) (i : Fin 8) (f : SpState → SpState) : (s.spUpd i f).part = s.part := by rfl
@[simp] theorem State.spUpd_dtc (s : State) (i : Fin 8) (f : SpState → SpState) : (s.spUpd i f).dtc = s.dtc := by rfl
@[simp] theorem State.spUpd_free (s : State) (i : Fin 8) (f : SpState → SpState) : (s.spUpd i f).free = s.free := by rfl
@[simp] theorem State.spUpd_regs (s : State) (i : Fin 8) (f : SpState → SpState) : (s.spUpd i f).regs = s.regs := by rfl
@[simp] theorem State.spUpd_reply (s : State) (i : Fin 8) (f : SpState → SpState) : (s.spUpd i f).reply = s.reply := by rfl
@[simp] theorem State.spUpd_off (s : State) (i : Fin 8) (f : SpState → SpState) : (s.spUpd i f).off = s.off := by rfl
@[simp] theorem State.spUpd_inReset (s : State) (i : Fin 8) (f : SpState → SpState) : (s.spUpd i f).inReset = s.inReset := by rfl
@[simp] theorem State.spUpd_unlocked (s : State) (i : Fin 8) (f : SpState → SpState) : (s.spUpd i f).unlocked = s.unlocked := by rfl
@[simp] theorem State.spUpd_sched (s : State) (i : Fin 8) (f : SpState → SpState) : (s.spUpd i f).sched = s.sched := by rfl
@[simp] theorem State.spUpd_mem (s : State) (i : Fin 8) (f : SpState → SpState) : (s.spUpd i f).mem = s.mem := by rfl
@[simp] theorem State.spUpd_ldg (s : State) (i : Fin 8) (f : SpState → SpState) : (s.spUpd i f).ldg = s.ldg := by rfl
@[simp] theorem State.spUpd_ptb (s : State) (i : Fin 8) (f : SpState → SpState) : (s.spUpd i f).ptb = s.ptb := by rfl
@[simp] theorem State.spUpd_enc (s : State) (i : Fin 8) (f : SpState → SpState) : (s.spUpd i f).enc = s.enc := by rfl
@[simp] theorem State.spUpd_tmap (s : State) (i : Fin 8) (f : SpState → SpState) : (s.spUpd i f).tmap = s.tmap := by rfl
@[simp] theorem State.spUpd_res (s : State) (i : Fin 8) (f : SpState → SpState) : (s.spUpd i f).res = s.res := by rfl
@[simp] theorem State.spUpd_net (s : State) (i : Fin 8) (f : SpState → SpState) : (s.spUpd i f).net = s.net := by rfl
@[simp] theorem State.spUpd_pps (s : State) (i : Fin 8) (f : SpState → SpState) : (s.spUpd i f).pps = s.pps := by rfl
@[simp] theorem State.spUpd_ieq (s : State) (i : Fin 8) (f : SpState → SpState) : (s.spUpd i f).ieq = s.ieq := by rfl
@[simp] theorem State.spUpd_rfx (s : State) (i : Fin 8) (f : SpState → SpState) : (s.spUpd i f).rfx = s.rfx := by rfl
@[simp] theorem State.spUpd_sfs (s : State) (i : Fin 8) (f : SpState → SpState) : (s.spUpd i f).sfs = s.sfs := by rfl
@[simp] theorem State.spUpd_chd (s : State) (i : Fin 8) (f : SpState → SpState) : (s.spUpd i f).chd = s.chd := by rfl
@[simp] theorem State.spUpd_loc (s : State) (i : Fin 8) (f : SpState → SpState) : (s.spUpd i f).loc = s.loc := by rfl
@[simp] theorem State.spUpd_rch (s : State) (i : Fin 8) (f : SpState → SpState) : (s.spUpd i f).rch = s.rch := by rfl
@[simp] theorem State.spUpd_adm (s : State) (i : Fin 8) (f : SpState → SpState) : (s.spUpd i f).adm = s.adm := by rfl
@[simp] theorem State.spUpd_lat (s : State) (i : Fin 8) (f : SpState → SpState) : (s.spUpd i f).lat = s.lat := by rfl
@[simp] theorem State.spUpd_spk (s : State) (i : Fin 8) (f : SpState → SpState) : (s.spUpd i f).spk = s.spk := by rfl
@[simp] theorem State.spUpd_coreClk (s : State) (i : Fin 8) (f : SpState → SpState) : (s.spUpd i f).coreClk = s.coreClk := by rfl
@[simp] theorem State.spUpd_fct (s : State) (i : Fin 8) (f : SpState → SpState) : (s.spUpd i f).fct = s.fct := by rfl
@[simp] theorem State.spUpd_inc (s : State) (i : Fin 8) (f : SpState → SpState) : (s.spUpd i f).inc = s.inc := by rfl
@[simp] theorem State.spUpd_host (s : State) (i : Fin 8) (f : SpState → SpState) : (s.spUpd i f).host = s.host := by rfl
@[simp] theorem State.spUpd_twin (s : State) (i : Fin 8) (f : SpState → SpState) : (s.spUpd i f).twin = s.twin := by rfl
@[simp] theorem State.spUpd_pwr (s : State) (i : Fin 8) (f : SpState → SpState) : (s.spUpd i f).pwr = s.pwr := by rfl
@[simp] theorem State.spUpd_sgr (s : State) (i : Fin 8) (f : SpState → SpState) : (s.spUpd i f).sgr = s.sgr := by rfl
@[simp] theorem State.spUpd_pending (s : State) (i : Fin 8) (f : SpState → SpState) : (s.spUpd i f).pending = s.pending := by rfl

@[simp] theorem State.ieqUpd_part (s : State) (i : Fin 8) (f : IeqState → IeqState) : (s.ieqUpd i f).part = s.part := by rfl
@[simp] theorem State.ieqUpd_dtc (s : State) (i : Fin 8) (f : IeqState → IeqState) : (s.ieqUpd i f).dtc = s.dtc := by rfl
@[simp] theorem State.ieqUpd_free (s : State) (i : Fin 8) (f : IeqState → IeqState) : (s.ieqUpd i f).free = s.free := by rfl
@[simp] theorem State.ieqUpd_regs (s : State) (i : Fin 8) (f : IeqState → IeqState) : (s.ieqUpd i f).regs = s.regs := by rfl
@[simp] theorem State.ieqUpd_reply (s : State) (i : Fin 8) (f : IeqState → IeqState) : (s.ieqUpd i f).reply = s.reply := by rfl
@[simp] theorem State.ieqUpd_off (s : State) (i : Fin 8) (f : IeqState → IeqState) : (s.ieqUpd i f).off = s.off := by rfl
@[simp] theorem State.ieqUpd_inReset (s : State) (i : Fin 8) (f : IeqState → IeqState) : (s.ieqUpd i f).inReset = s.inReset := by rfl
@[simp] theorem State.ieqUpd_unlocked (s : State) (i : Fin 8) (f : IeqState → IeqState) : (s.ieqUpd i f).unlocked = s.unlocked := by rfl
@[simp] theorem State.ieqUpd_sched (s : State) (i : Fin 8) (f : IeqState → IeqState) : (s.ieqUpd i f).sched = s.sched := by rfl
@[simp] theorem State.ieqUpd_mem (s : State) (i : Fin 8) (f : IeqState → IeqState) : (s.ieqUpd i f).mem = s.mem := by rfl
@[simp] theorem State.ieqUpd_ldg (s : State) (i : Fin 8) (f : IeqState → IeqState) : (s.ieqUpd i f).ldg = s.ldg := by rfl
@[simp] theorem State.ieqUpd_ptb (s : State) (i : Fin 8) (f : IeqState → IeqState) : (s.ieqUpd i f).ptb = s.ptb := by rfl
@[simp] theorem State.ieqUpd_enc (s : State) (i : Fin 8) (f : IeqState → IeqState) : (s.ieqUpd i f).enc = s.enc := by rfl
@[simp] theorem State.ieqUpd_tmap (s : State) (i : Fin 8) (f : IeqState → IeqState) : (s.ieqUpd i f).tmap = s.tmap := by rfl
@[simp] theorem State.ieqUpd_res (s : State) (i : Fin 8) (f : IeqState → IeqState) : (s.ieqUpd i f).res = s.res := by rfl
@[simp] theorem State.ieqUpd_net (s : State) (i : Fin 8) (f : IeqState → IeqState) : (s.ieqUpd i f).net = s.net := by rfl
@[simp] theorem State.ieqUpd_pps (s : State) (i : Fin 8) (f : IeqState → IeqState) : (s.ieqUpd i f).pps = s.pps := by rfl
@[simp] theorem State.ieqUpd_sp (s : State) (i : Fin 8) (f : IeqState → IeqState) : (s.ieqUpd i f).sp = s.sp := by rfl
@[simp] theorem State.ieqUpd_rfx (s : State) (i : Fin 8) (f : IeqState → IeqState) : (s.ieqUpd i f).rfx = s.rfx := by rfl
@[simp] theorem State.ieqUpd_sfs (s : State) (i : Fin 8) (f : IeqState → IeqState) : (s.ieqUpd i f).sfs = s.sfs := by rfl
@[simp] theorem State.ieqUpd_chd (s : State) (i : Fin 8) (f : IeqState → IeqState) : (s.ieqUpd i f).chd = s.chd := by rfl
@[simp] theorem State.ieqUpd_loc (s : State) (i : Fin 8) (f : IeqState → IeqState) : (s.ieqUpd i f).loc = s.loc := by rfl
@[simp] theorem State.ieqUpd_rch (s : State) (i : Fin 8) (f : IeqState → IeqState) : (s.ieqUpd i f).rch = s.rch := by rfl
@[simp] theorem State.ieqUpd_adm (s : State) (i : Fin 8) (f : IeqState → IeqState) : (s.ieqUpd i f).adm = s.adm := by rfl
@[simp] theorem State.ieqUpd_lat (s : State) (i : Fin 8) (f : IeqState → IeqState) : (s.ieqUpd i f).lat = s.lat := by rfl
@[simp] theorem State.ieqUpd_spk (s : State) (i : Fin 8) (f : IeqState → IeqState) : (s.ieqUpd i f).spk = s.spk := by rfl
@[simp] theorem State.ieqUpd_coreClk (s : State) (i : Fin 8) (f : IeqState → IeqState) : (s.ieqUpd i f).coreClk = s.coreClk := by rfl
@[simp] theorem State.ieqUpd_fct (s : State) (i : Fin 8) (f : IeqState → IeqState) : (s.ieqUpd i f).fct = s.fct := by rfl
@[simp] theorem State.ieqUpd_inc (s : State) (i : Fin 8) (f : IeqState → IeqState) : (s.ieqUpd i f).inc = s.inc := by rfl
@[simp] theorem State.ieqUpd_host (s : State) (i : Fin 8) (f : IeqState → IeqState) : (s.ieqUpd i f).host = s.host := by rfl
@[simp] theorem State.ieqUpd_twin (s : State) (i : Fin 8) (f : IeqState → IeqState) : (s.ieqUpd i f).twin = s.twin := by rfl
@[simp] theorem State.ieqUpd_pwr (s : State) (i : Fin 8) (f : IeqState → IeqState) : (s.ieqUpd i f).pwr = s.pwr := by rfl
@[simp] theorem State.ieqUpd_sgr (s : State) (i : Fin 8) (f : IeqState → IeqState) : (s.ieqUpd i f).sgr = s.sgr := by rfl
@[simp] theorem State.ieqUpd_pending (s : State) (i : Fin 8) (f : IeqState → IeqState) : (s.ieqUpd i f).pending = s.pending := by rfl

@[simp] theorem State.incUpd_part (s : State) (k : Fin 6) (c : Fin 2) (f : IncState → IncState) : (s.incUpd k c f).part = s.part := by rfl
@[simp] theorem State.incUpd_dtc (s : State) (k : Fin 6) (c : Fin 2) (f : IncState → IncState) : (s.incUpd k c f).dtc = s.dtc := by rfl
@[simp] theorem State.incUpd_free (s : State) (k : Fin 6) (c : Fin 2) (f : IncState → IncState) : (s.incUpd k c f).free = s.free := by rfl
@[simp] theorem State.incUpd_regs (s : State) (k : Fin 6) (c : Fin 2) (f : IncState → IncState) : (s.incUpd k c f).regs = s.regs := by rfl
@[simp] theorem State.incUpd_reply (s : State) (k : Fin 6) (c : Fin 2) (f : IncState → IncState) : (s.incUpd k c f).reply = s.reply := by rfl
@[simp] theorem State.incUpd_off (s : State) (k : Fin 6) (c : Fin 2) (f : IncState → IncState) : (s.incUpd k c f).off = s.off := by rfl
@[simp] theorem State.incUpd_inReset (s : State) (k : Fin 6) (c : Fin 2) (f : IncState → IncState) : (s.incUpd k c f).inReset = s.inReset := by rfl
@[simp] theorem State.incUpd_unlocked (s : State) (k : Fin 6) (c : Fin 2) (f : IncState → IncState) : (s.incUpd k c f).unlocked = s.unlocked := by rfl
@[simp] theorem State.incUpd_sched (s : State) (k : Fin 6) (c : Fin 2) (f : IncState → IncState) : (s.incUpd k c f).sched = s.sched := by rfl
@[simp] theorem State.incUpd_mem (s : State) (k : Fin 6) (c : Fin 2) (f : IncState → IncState) : (s.incUpd k c f).mem = s.mem := by rfl
@[simp] theorem State.incUpd_ldg (s : State) (k : Fin 6) (c : Fin 2) (f : IncState → IncState) : (s.incUpd k c f).ldg = s.ldg := by rfl
@[simp] theorem State.incUpd_ptb (s : State) (k : Fin 6) (c : Fin 2) (f : IncState → IncState) : (s.incUpd k c f).ptb = s.ptb := by rfl
@[simp] theorem State.incUpd_enc (s : State) (k : Fin 6) (c : Fin 2) (f : IncState → IncState) : (s.incUpd k c f).enc = s.enc := by rfl
@[simp] theorem State.incUpd_tmap (s : State) (k : Fin 6) (c : Fin 2) (f : IncState → IncState) : (s.incUpd k c f).tmap = s.tmap := by rfl
@[simp] theorem State.incUpd_res (s : State) (k : Fin 6) (c : Fin 2) (f : IncState → IncState) : (s.incUpd k c f).res = s.res := by rfl
@[simp] theorem State.incUpd_net (s : State) (k : Fin 6) (c : Fin 2) (f : IncState → IncState) : (s.incUpd k c f).net = s.net := by rfl
@[simp] theorem State.incUpd_pps (s : State) (k : Fin 6) (c : Fin 2) (f : IncState → IncState) : (s.incUpd k c f).pps = s.pps := by rfl
@[simp] theorem State.incUpd_sp (s : State) (k : Fin 6) (c : Fin 2) (f : IncState → IncState) : (s.incUpd k c f).sp = s.sp := by rfl
@[simp] theorem State.incUpd_ieq (s : State) (k : Fin 6) (c : Fin 2) (f : IncState → IncState) : (s.incUpd k c f).ieq = s.ieq := by rfl
@[simp] theorem State.incUpd_rfx (s : State) (k : Fin 6) (c : Fin 2) (f : IncState → IncState) : (s.incUpd k c f).rfx = s.rfx := by rfl
@[simp] theorem State.incUpd_sfs (s : State) (k : Fin 6) (c : Fin 2) (f : IncState → IncState) : (s.incUpd k c f).sfs = s.sfs := by rfl
@[simp] theorem State.incUpd_chd (s : State) (k : Fin 6) (c : Fin 2) (f : IncState → IncState) : (s.incUpd k c f).chd = s.chd := by rfl
@[simp] theorem State.incUpd_loc (s : State) (k : Fin 6) (c : Fin 2) (f : IncState → IncState) : (s.incUpd k c f).loc = s.loc := by rfl
@[simp] theorem State.incUpd_rch (s : State) (k : Fin 6) (c : Fin 2) (f : IncState → IncState) : (s.incUpd k c f).rch = s.rch := by rfl
@[simp] theorem State.incUpd_adm (s : State) (k : Fin 6) (c : Fin 2) (f : IncState → IncState) : (s.incUpd k c f).adm = s.adm := by rfl
@[simp] theorem State.incUpd_lat (s : State) (k : Fin 6) (c : Fin 2) (f : IncState → IncState) : (s.incUpd k c f).lat = s.lat := by rfl
@[simp] theorem State.incUpd_spk (s : State) (k : Fin 6) (c : Fin 2) (f : IncState → IncState) : (s.incUpd k c f).spk = s.spk := by rfl
@[simp] theorem State.incUpd_coreClk (s : State) (k : Fin 6) (c : Fin 2) (f : IncState → IncState) : (s.incUpd k c f).coreClk = s.coreClk := by rfl
@[simp] theorem State.incUpd_fct (s : State) (k : Fin 6) (c : Fin 2) (f : IncState → IncState) : (s.incUpd k c f).fct = s.fct := by rfl
@[simp] theorem State.incUpd_host (s : State) (k : Fin 6) (c : Fin 2) (f : IncState → IncState) : (s.incUpd k c f).host = s.host := by rfl
@[simp] theorem State.incUpd_twin (s : State) (k : Fin 6) (c : Fin 2) (f : IncState → IncState) : (s.incUpd k c f).twin = s.twin := by rfl
@[simp] theorem State.incUpd_pwr (s : State) (k : Fin 6) (c : Fin 2) (f : IncState → IncState) : (s.incUpd k c f).pwr = s.pwr := by rfl
@[simp] theorem State.incUpd_sgr (s : State) (k : Fin 6) (c : Fin 2) (f : IncState → IncState) : (s.incUpd k c f).sgr = s.sgr := by rfl
@[simp] theorem State.incUpd_pending (s : State) (k : Fin 6) (c : Fin 2) (f : IncState → IncState) : (s.incUpd k c f).pending = s.pending := by rfl

@[simp] theorem State.withQueueOf_part (s u : State) : (s.withQueueOf u).part = u.part := by rfl
@[simp] theorem State.withQueueOf_pending (s u : State) : (s.withQueueOf u).pending = u.pending := by rfl

end Sys2Proof.Machine
end

