-- ==== Sys2Proof/Laws/Mem.lean ====
section
/-!
SUPPORT. Laws/Mem.lean: every memory operation keeps the canonical form of the memory, and what a byte reads after a write.
-/

namespace Sys2Proof.Machine

/-- The canonical form of the memory, clause by clause. -/
theorem MemState.wf_iff (m : MemState) : m.wf = true ↔
    Sp.rising m.cells ∧ (∀ c ∈ m.cells, c.2 ≠ 0 ∧ Iv.has m.zeros c.1 = false) ∧ Iv.okFrom 0 m.zeros ∧ Sp.rising m.errs := by
  simp only [MemState.wf, Bool.and_eq_true, decide_eq_true_eq, List.all_eq_true, Bool.not_eq_true', Iv.wf_iff, Sp.rising]
  tauto

theorem MemState.wf_put {m : MemState} (h : m.wf = true) (a : Nat) (b : Byte) : (m.put a b).wf = true := by
  rw [MemState.wf_iff] at h ⊢
  obtain ⟨h1, h2, h3, h4⟩ := h
  unfold MemState.put
  split
  · refine ⟨Sp.rising_erase h1 a, fun c hc => ?_, Iv.okFrom_add h3 (by omega) (by omega), h4⟩
    obtain ⟨hc, hn⟩ := List.mem_filter.mp hc
    refine ⟨(h2 c hc).1, ?_⟩
    have hz := (h2 c hc).2
    rw [← Bool.not_eq_true, Iv.has_add h3 (by omega)]
    rw [← Bool.not_eq_true] at hz
    simp only [bne_iff_ne, ne_eq] at hn
    rintro (hx | hx)
    · omega
    · exact hz hx
  · rename_i hb
    refine ⟨Sp.rising_insert h1 a b, fun c hc => ?_, Iv.okFrom_del h3 (by omega), h4⟩
    rw [← Bool.not_eq_true, Iv.has_del h3 (by omega)]
    rcases Sp.mem_insert hc with rfl | hc
    · exact ⟨hb, fun hx => hx.2 ⟨Nat.le_refl _, Nat.lt_succ_self _⟩⟩
    · have := h2 c hc
      exact ⟨this.1, fun hx => by simp [this.2] at hx⟩

theorem MemState.wf_puts {m : MemState} (h : m.wf = true) (a : Nat) (l : List Byte) : (m.puts a l).wf = true := by
  induction l generalizing m a with
  | nil => exact h
  | cons b r ih => exact ih (MemState.wf_put h a b) (a + 1)

theorem MemState.wf_errs {m : MemState} (h : m.wf = true) {e : List (Nat × WordErr)} (he : Sp.rising e) :
    ({ m with errs := e } : MemState).wf = true := by
  rw [MemState.wf_iff] at h ⊢
  exact ⟨h.1, h.2.1, h.2.2.1, he⟩

theorem MemState.wf_zero {m : MemState} (h : m.wf = true) (a e : Nat) : (m.zero a e).wf = true := by
  unfold MemState.zero
  split
  · rename_i hae
    rw [MemState.wf_iff] at h ⊢
    obtain ⟨h1, h2, h3, h4⟩ := h
    refine ⟨Sp.rising_filter h1 _, fun c hc => ?_, Iv.okFrom_add h3 (by omega) hae, Sp.rising_filter h4 _⟩
    obtain ⟨hc, hn⟩ := List.mem_filter.mp hc
    refine ⟨(h2 c hc).1, ?_⟩
    have hz := (h2 c hc).2
    rw [← Bool.not_eq_true, Iv.has_add h3 hae]
    rw [← Bool.not_eq_true] at hz
    simp only [Bool.or_eq_true, decide_eq_true_eq] at hn
    rintro (hx | hx)
    · omega
    · exact hz hx
  · exact h

/-! ### The operations over the state -/

/-- The memory of the state is in its canonical form. -/
abbrev State.memWf (s : State) : Prop := s.mem.wf = true

theorem State.memWf_of {s t : State} (h : s.memWf) (e : t.mem = s.mem) : t.memWf := by
  unfold State.memWf; rw [e]; exact h

theorem State.memWf_storeWord {s : State} (h : s.memWf) (a : Nat) (l : List Byte) (e : Option WordErr) :
    (s.storeWord a l e).memWf := by
  have hp := MemState.wf_puts h a l
  refine MemState.wf_errs hp ?_
  have := ((MemState.wf_iff _).mp hp).2.2.2
  cases e with
  | none => exact Sp.rising_erase this a
  | some x => exact Sp.rising_insert this a x

theorem State.memWf_bucketLeaks {s : State} (h : s.memWf) (b : Fin 39) (ms n : Nat) : (s.bucketLeaks b ms n).memWf :=
  State.memWf_of
    (s := s.memUpd fun m => { m with bktAt := m.bktAt.set b (m.bktAt.get b + wOfNat (n * (ms * 1000000))) }) h (by
      simp [State.bucketLeaks])

theorem State.memWf_bucketAdd {s : State} (h : s.memWf) (b : Fin 39) : (s.bucketAdd b).memWf := by
  unfold State.bucketAdd
  dsimp only
  split
  · exact h
  · have := State.memWf_bucketLeaks h b (s.fld PG.mras (R.BKT_CFG b) 16 16) (s.bucketDue b (s.fld PG.mras (R.BKT_CFG b) 16 16))
    split <;> exact State.memWf_of this (by simp)

theorem State.memWf_hbmErr {s : State} (h : s.memWf) (a : Nat) (e : WordErr) (w : Bool) : (s.hbmErr a e w).memWf := by
  unfold State.hbmErr
  cases e <;> dsimp only
  · exact State.memWf_bucketAdd (State.memWf_of h (by simp)) _
  · exact State.memWf_of h (by split <;> simp)
  · exact State.memWf_of h (by split <;> simp)

@[simp] theorem State.logInfo1_mem (s : State) (p i : Nat) : (s.logInfo1 p i).mem = s.mem := by simp [State.logInfo1]

theorem State.memWf_shelfErr {s : State} (h : s.memWf) (k a : Nat) (e : WordErr) (w : Bool) : (s.shelfErr k a e w).memWf := by
  unfold State.shelfErr
  cases e <;> dsimp only
  · exact State.memWf_bucketAdd h _
  · exact State.memWf_of h (by split <;> simp)
  · exact State.memWf_of h (by split <;> simp)

theorem State.memWf_wordErr {s : State} (h : s.memWf) (sh : Option Nat) (a : Nat) (e : WordErr) (w : Bool) :
    (s.wordErr sh a e w).memWf := by
  unfold State.wordErr
  cases sh
  · exact State.memWf_hbmErr h _ _ _
  · exact State.memWf_shelfErr h _ _ _ _

@[simp] theorem State.poisonItems_mem (s : State) (l : List Nat) : (s.poisonItems l).mem = s.mem := rfl

theorem State.memWf_partialWrite {s : State} (h : s.memWf) (sh : Option Nat) (a : Nat) (new : List (Nat × Byte))
    (items : List Nat) : (s.partialWrite sh a new items).memWf := by
  have hf : s.takeFree.2.memWf := h
  unfold State.partialWrite
  generalize s.takeFree = t at hf
  obtain ⟨i, t⟩ := t
  dsimp only at hf ⊢
  split
  · exact State.memWf_storeWord hf _ _ _
  · exact State.memWf_storeWord (State.memWf_wordErr hf _ _ _ _) _ _ _
  · rename_i e _ _
    have := State.memWf_storeWord (State.memWf_wordErr hf sh a e true) a
      (overlay (t.wordBytes a (wordSize sh) i) new) (some .poison)
    exact State.memWf_of this (State.poisonItems_mem _ _)

theorem State.memWf_flushEntry {s : State} (h : s.memWf) (e : MergeEntry) : (s.flushEntry e).memWf := by
  unfold State.flushEntry
  dsimp only
  split
  · exact h
  split
  · exact State.memWf_of (State.memWf_storeWord h _ _ _) (State.bump_mem _ _ _ _ _)
  · exact State.memWf_of (State.memWf_partialWrite h _ _ _ _) (State.bump_mem _ _ _ _ _)

theorem State.memWf_setMerge {s : State} (h : s.memWf) (pc : Fin 32) (l : List MergeEntry) : (s.setMerge pc l).memWf := h

theorem State.memWf_flushWord {s : State} (h : s.memWf) (a : Nat) : (s.flushWord a).memWf := by
  unfold State.flushWord
  dsimp only
  split
  · exact h
  · exact State.memWf_flushEntry (State.memWf_setMerge h _ _) _

theorem State.memWf_gather {s : State} (h : s.memWf) (a : Nat) (new : List (Nat × Byte)) (item : Option Nat) :
    (s.gather a new item).memWf := by
  unfold State.gather
  dsimp only
  split
  · split
    · exact State.memWf_flushEntry (State.memWf_setMerge h _ _) _
    · exact State.memWf_setMerge h _ _
  · split
    · split
      · exact State.memWf_flushEntry (State.memWf_setMerge h _ _) _
      · exact State.memWf_setMerge h _ _
    · exact State.memWf_setMerge h _ _

theorem State.memWf_writeWordPart {s : State} (h : s.memWf) (sh item : Option Nat) (a : Nat) (p : List (Nat × Byte)) :
    (s.writeWordPart sh item a p).memWf := by
  unfold State.writeWordPart
  split
  · split
    · exact h
    · split
      · exact State.memWf_storeWord (State.memWf_flushWord h a) _ _ _
      · exact State.memWf_gather h _ _ _
  · split
    · exact State.memWf_storeWord h _ _ _
    · exact State.memWf_partialWrite h _ _ _ _

/-- What holds of the first state and is kept by each step of a fold holds of the last. -/
theorem foldl_keeps {α σ : Type} (P : σ → Prop) (f : σ → α → σ) (hf : ∀ s a, P s → P (f s a)) (l : List α) (s : σ) (h : P s) :
    P (l.foldl f s) := by
  induction l generalizing s with
  | nil => exact h
  | cons a r ih => exact ih _ (hf s a h)

theorem State.memWf_writeBytes {s : State} (h : s.memWf) (item : Option Nat) (a : Nat) (l : List Byte) :
    (s.writeBytes item a l).memWf := by
  unfold State.writeBytes
  dsimp only
  split
  · exact h
  · exact foldl_keeps State.memWf _ (fun s p hs => State.memWf_writeWordPart hs _ _ _ _) _ _ h

theorem State.memWf_writeNat {s : State} (h : s.memWf) (item : Option Nat) (a n v : Nat) :
    (s.writeNat item a n v).memWf := State.memWf_writeBytes h _ _ _

theorem State.memWf_readWord {s : State} (h : s.memWf) (sh : Option Nat) (a : Nat) : (s.readWord sh a).2.memWf := by
  have body : ∀ (t u : State) (k : Option WordErr) (l : List Byte) (g : WordErr → State), t.memWf → (∀ e, (g e).memWf) →
      u = (match k with
        | none => t
        | some .correctable => if (g .correctable).wordWritten a then (g .correctable).storeWord a l none else g .correctable
        | some e => g e) → u.memWf := by
    intro t u k l g ht hg hu
    subst hu
    split
    · exact ht
    · split
      · exact State.memWf_storeWord (hg _) _ _ _
      · exact hg _
    · exact hg _
  unfold State.readWord
  dsimp only
  split
  · split
    · exact h
    · have hf : (s.flushWord a).takeFree.2.memWf := State.memWf_flushWord h a
      exact body (s.flushWord a).takeFree.2 _ _ _ (fun e => (s.flushWord a).takeFree.2.hbmErr a e false)
        hf (fun e => State.memWf_hbmErr hf _ _ _) rfl
  · rename_i kk
    have hf : s.takeFree.2.memWf := h
    exact body s.takeFree.2 _ _ _ (fun e => s.takeFree.2.shelfErr kk a e false) hf
      (fun e => State.memWf_shelfErr hf _ _ _ _) rfl

theorem State.memWf_readWords {s : State} (h : s.memWf) (sh : Option Nat) (a n : Nat) : (s.readWords sh a n).2.memWf := by
  induction n generalizing s a with
  | zero => exact h
  | succ n ih => exact ih (State.memWf_readWord h sh a) _

theorem State.memWf_readBytes {s : State} (h : s.memWf) (a n : Nat) : (s.readBytes a n).2.memWf := by
  unfold State.readBytes
  dsimp only
  split
  · exact h
  · exact State.memWf_readWords h _ _ _

theorem State.memWf_readNat {s : State} (h : s.memWf) (a n : Nat) : (s.readNat a n).2.2.memWf := State.memWf_readBytes h a n

theorem State.memWf_poisonWord {s : State} (h : s.memWf) (w ws : Nat) :
    (if s.wordWritten w then { s with mem := { s.mem with errs := Sp.insert s.mem.errs w .poison } }
      else s.takeFree.2.storeWord w (s.takeFree.2.wordBytes w ws s.takeFree.1) (some .poison)).memWf := by
  split
  · exact MemState.wf_errs h (Sp.rising_insert ((MemState.wf_iff _).mp h).2.2.2 _ _)
  · exact State.memWf_storeWord (s := s.takeFree.2) h _ _ _

theorem State.memWf_poisonRange {s : State} (h : s.memWf) (a n : Nat) : (s.poisonRange a n).memWf := by
  unfold State.poisonRange
  dsimp only
  split
  · exact h
  refine foldl_keeps State.memWf _ (fun s j hs => ?_) _ _ h
  refine State.memWf_poisonWord ?_ _ _
  split
  · exact State.memWf_flushWord hs _
  · exact hs

theorem State.memWf_writePoisoned {s : State} (h : s.memWf) (item : Option Nat) (a : Nat) (l : List Byte) (b : Bool) :
    (s.writePoisoned item a l b).memWf := by
  unfold State.writePoisoned
  dsimp only
  split
  · exact State.memWf_poisonRange (State.memWf_writeBytes h _ _ _) _ _
  · exact State.memWf_writeBytes h _ _ _

theorem State.memWf_zeroRange {s : State} (h : s.memWf) (a e : Nat) : (s.zeroRange a e).memWf := by
  unfold State.zeroRange
  split
  · exact h
  refine MemState.wf_zero ?_ a e
  refine foldl_keeps State.memWf _ (fun s pc hs => ?_) _ _ h
  exact foldl_keeps State.memWf _ (fun s m hs => State.memWf_flushWord hs _) _ _ hs

theorem State.memWf_forgetRange {s : State} (h : s.memWf) (a e : Nat) (hae : a < e) : (s.forgetRange a e).memWf := by
  have hz := State.memWf_zeroRange h a e
  unfold State.forgetRange
  obtain ⟨h1, h2, h3, h4⟩ := (MemState.wf_iff _).mp hz
  refine (MemState.wf_iff _).mpr ⟨Sp.rising_filter h1 _, fun c hc => ?_, Iv.okFrom_del h3 hae, Sp.rising_filter h4 _⟩
  obtain ⟨hc, -⟩ := List.mem_filter.mp hc
  refine ⟨(h2 c hc).1, ?_⟩
  rw [← Bool.not_eq_true, Iv.has_del h3 hae]
  simp [(h2 c hc).2]

theorem State.reset_memWf : State.reset.memWf := by decide

/-! ### Read after write -/

theorem Iv.has_eq {l m : List (Nat × Nat)} {x y : Nat} (h : Iv.has l x = true ↔ Iv.has m y = true) : Iv.has l x = Iv.has m y := by
  cases h1 : Iv.has l x <;> cases h2 : Iv.has m y <;> simp_all

/-- A byte reads as it was written. -/
theorem MemState.byte?_put_self {m : MemState} (h : m.wf = true) (a : Nat) (b : Byte) : (m.put a b).byte? a = some b := by
  have h3 := ((MemState.wf_iff m).mp h).2.2.1
  unfold MemState.put MemState.byte?
  by_cases hb : b = 0
  · rw [if_pos hb]
    have : Iv.has (Iv.add m.zeros a (a + 1)) a = true := (Iv.has_add h3 (by omega) a).mpr (.inl (by omega))
    simp [this, hb]
  · rw [if_neg hb]; simp

/-- A write leaves every other byte as it was. -/
theorem MemState.byte?_put_ne {m : MemState} (h : m.wf = true) {a x : Nat} (b : Byte) (hx : x ≠ a) :
    (m.put a b).byte? x = m.byte? x := by
  have h3 := ((MemState.wf_iff m).mp h).2.2.1
  unfold MemState.put MemState.byte?
  by_cases hb : b = 0
  · rw [if_pos hb, Sp.find_erase_ne _ hx]
    have : Iv.has (Iv.add m.zeros a (a + 1)) x = Iv.has m.zeros x :=
      Iv.has_eq ((Iv.has_add h3 (by omega) x).trans ⟨fun h => h.resolve_left (by omega), .inr⟩)
    simp only [this]
  · rw [if_neg hb, Sp.find_insert_ne _ _ hx]
    have : Iv.has (Iv.del m.zeros a (a + 1)) x = Iv.has m.zeros x :=
      Iv.has_eq ((Iv.has_del h3 (by omega) x).trans ⟨fun h => h.1, fun h => ⟨h, by omega⟩⟩)
    simp only [this]

/-! ### Reading what is there (R459) -/

/-- A word of HBM that was written, is clean and waits for no flush reads as its bytes, and a free value is used up. -/
theorem State.readWord_clean {s : State} {a : Nat} (ho : s.hbmOffline = false) (hm : s.mem.merge.get (pcFin a) = [])
    (he : Sp.find s.mem.errs a = none) (hb : ∀ j, j < 32 → (s.mem.byte? (a + j)).isSome = true) :
    s.readWord none a =
      ({ bytes := (List.range 32).map fun j => (s.mem.byte? (a + j)).getD 0, bad := false }, { s with free := s.free + 1 }) := by
  have h0 : s.flushWord a = s := by simp [State.flushWord, hm]
  have hw : ({ s with free := s.free + 1 } : State).wordKind a s.free = none := by
    have : (s.mem.byte? a).isSome = true := hb 0 (by omega)
    simp [State.wordKind, State.wordWritten, this, he]
  have hbs : ({ s with free := s.free + 1 } : State).wordBytes a 32 s.free = (List.range 32).map fun j => (s.mem.byte? (a + j)).getD 0 := by
    apply List.map_congr_left
    intro j hj
    have := hb j (List.mem_range.mp hj)
    obtain ⟨b, hx⟩ := Option.isSome_iff_exists.mp this
    simp [hx]
  simp only [State.readWord, ho, Bool.false_eq_true, if_false, h0, State.takeFree, hw, wordSize, hbs, isBad]

/-- Words of HBM that were written, are clean and wait for no flush read as their bytes. -/
theorem State.readWords_clean {s : State} (ho : s.hbmOffline = false) (hm : s.mem.merge = Vector.replicate 32 []) (he : s.mem.errs = [])
    (n : Nat) : ∀ a : Nat, (∀ j, j < 32 * n → (s.mem.byte? (a + j)).isSome = true) →
    s.readWords none a n =
      ({ bytes := (List.range (32 * n)).map fun j => (s.mem.byte? (a + j)).getD 0, bad := false }, { s with free := s.free + n }) := by
  induction n generalizing s with
  | zero => intro a _; rfl
  | succ n ih =>
    intro a hb
    have h1 := State.readWord_clean (s := s) (a := a) ho (by rw [hm]; simp [Vector.get]) (by rw [he]; rfl) (fun j hj => hb j (by omega))
    have h2 := ih (s := { s with free := s.free + 1 }) ho hm he (a + 32) (fun j hj => by
      have := hb (32 + j) (by omega)
      rwa [← Nat.add_assoc] at this)
    simp only [State.readWords, h1, wordSize, h2]
    refine Prod.ext ?_ ?_
    · have : 32 * (n + 1) = 32 + 32 * n := by omega
      simp only [this, List.range_add, List.map_append, List.map_map, ReadRes.mk.injEq, Bool.or_self, and_true]
      congr 1
      apply List.map_congr_left
      intro j _
      simp [Nat.add_assoc]
    · simp [Nat.add_assoc, Nat.add_comm 1 n]

end Sys2Proof.Machine
end

