-- ==== Sys2Proof/Laws/Regs.lean ====
section
/-!
SUPPORT. Laws/Regs.lean: what a register, a field and a bit read after a write (R6, R10), and how counters behave (R13).
-/

namespace Sys2Proof.Machine

@[simp] theorem State.reg_setReg_self (s : State) (p o : Nat) (v : Word) : (s.setReg p o v).reg p o = v := by
  simp [State.reg, State.setReg]

/-- A write leaves every other register as it was. -/
theorem State.reg_setReg_ne (s : State) {p o q r : Nat} (v : Word) (h : rkey q r ≠ rkey p o) :
    (s.setReg p o v).reg q r = s.reg q r := by
  simp only [State.reg, State.setReg]
  exact Sp.get_set_ne _ _ _ _ h

/-- Registers of different offsets, or of different pages, are different registers. -/
theorem rkey_ne {p o q r : Nat} (ho : o < 0x10000) (hr : r < 0x10000) (h : q ≠ p ∨ r ≠ o) : rkey q r ≠ rkey p o := by
  unfold rkey; omega

/-- A register depends on the register list only. -/
theorem State.reg_congr {s t : State} (h : t.regs = s.regs) (p o : Nat) : t.reg p o = s.reg p o := by
  simp only [State.reg, h]

/-! ### Fields -/

theorem bf_eq (w : Word) (lo n : Nat) : bf w lo n = w.toNat / 2 ^ lo % 2 ^ n := by
  simp [bf, Nat.shiftRight_eq_div_pow]

theorem bf_testBit (w : Word) (lo n i : Nat) : (bf w lo n).testBit i = (decide (i < n) && w.getLsbD (lo + i)) := by
  simp [bf, Nat.testBit_mod_two_pow, Nat.testBit_shiftRight, BitVec.getLsbD]

theorem putFld_getLsbD (w : Word) (lo n v i : Nat) :
    (putFld w lo n v).getLsbD i = (decide (i < 64) && (if lo ≤ i ∧ i < lo + n then v.testBit (i - lo) else w.getLsbD i)) := by
  by_cases h64 : i < 64
  · have h1 : ((2 ^ n - 1) <<< lo).testBit i = (decide (lo ≤ i) && decide (i < lo + n)) := by
      rw [Nat.testBit_shiftLeft, Nat.testBit_two_pow_sub_one]
      by_cases hlo : lo ≤ i
      · simp only [hlo, decide_true, Bool.true_and, decide_eq_decide]; omega
      · simp [hlo]
    have h2 : ((v % 2 ^ n) <<< lo).testBit i = (decide (lo ≤ i) && (decide (i < lo + n) && v.testBit (i - lo))) := by
      rw [Nat.testBit_shiftLeft, Nat.testBit_mod_two_pow]
      by_cases hlo : lo ≤ i
      · have : decide (i - lo < n) = decide (i < lo + n) := by rw [decide_eq_decide]; omega
        simp [hlo, this]
      · simp [hlo]
    simp only [putFld, BitVec.getLsbD_or, BitVec.getLsbD_and, BitVec.getLsbD_not, BitVec.getLsbD_ofNat, h1, h2, h64,
      decide_true, Bool.true_and]
    by_cases ha : lo ≤ i <;> by_cases hb : i < lo + n <;> simp [ha, hb]
  · simp [h64, BitVec.getLsbD_of_ge (putFld w lo n v) i (by omega)]

/-- A field reads as it was written. -/
@[simp] theorem bf_putFld_self (w : Word) (lo n v : Nat) (h : lo + n ≤ 64) : bf (putFld w lo n v) lo n = v % 2 ^ n := by
  apply Nat.eq_of_testBit_eq
  intro i
  rw [bf_testBit, putFld_getLsbD, Nat.testBit_mod_two_pow]
  by_cases hi : i < n
  · have : lo + i < 64 := by omega
    simp [hi, this]
  · simp [hi]

/-- A write of a field leaves every field apart from it as it was. -/
theorem bf_putFld_other (w : Word) (lo n v lo' n' : Nat) (h : lo' + n' ≤ lo ∨ lo + n ≤ lo') :
    bf (putFld w lo n v) lo' n' = bf w lo' n' := by
  apply Nat.eq_of_testBit_eq
  intro i
  rw [bf_testBit, bf_testBit, putFld_getLsbD]
  by_cases hi : i < n'
  · have h1 : ¬ (lo ≤ lo' + i ∧ lo' + i < lo + n) := by omega
    by_cases h64 : lo' + i < 64
    · simp [hi, h1, h64]
    · simp [h64, BitVec.getLsbD_of_ge w (lo' + i) (by omega)]
  · simp [hi]

theorem bf_lt (w : Word) (lo n : Nat) : bf w lo n < 2 ^ n := Nat.mod_lt _ (Nat.two_pow_pos n)

/-- A bit reads as it was written. -/
@[simp] theorem bitAt_putBit_self (w : Word) (i : Nat) (b : Bool) (h : i < 64) : bitAt (putBit w i b) i = b := by
  unfold bitAt putBit
  rw [putFld_getLsbD]
  cases b <;> simp [h]

/-- A write of a bit leaves the others as they were. -/
theorem bitAt_putBit_ne (w : Word) (i j : Nat) (b : Bool) (h : j ≠ i) : bitAt (putBit w i b) j = bitAt w j := by
  unfold bitAt putBit
  rw [putFld_getLsbD]
  have h1 : ¬ (i ≤ j ∧ j < i + 1) := by omega
  by_cases h64 : j < 64
  · rw [if_neg h1]; simp [h64]
  · simp [h64, BitVec.getLsbD_of_ge w j (by omega)]

theorem bitAt_putFld_other (w : Word) (lo n v i : Nat) (h : i < lo ∨ lo + n ≤ i) : bitAt (putFld w lo n v) i = bitAt w i := by
  unfold bitAt
  rw [putFld_getLsbD]
  have h1 : ¬ (lo ≤ i ∧ i < lo + n) := by omega
  by_cases h64 : i < 64
  · simp [h1, h64]
  · simp [h64, BitVec.getLsbD_of_ge w i (by omega)]

theorem bf_putBit_other (w : Word) (i : Nat) (b : Bool) (lo n : Nat) (h : lo + n ≤ i ∨ i + 1 ≤ lo) :
    bf (putBit w i b) lo n = bf w lo n := bf_putFld_other w i 1 _ lo n h

/-! ### Fields and bits of registers -/

@[simp] theorem State.fld_setFld_self (s : State) (p o lo n v : Nat) (h : lo + n ≤ 64) :
    (s.setFld p o lo n v).fld p o lo n = v % 2 ^ n := by
  simp [State.fld, State.setFld, h]

@[simp] theorem State.bit_setBit_self (s : State) (p o i : Nat) (b : Bool) (h : i < 64) : (s.setBit p o i b).bit p o i = b := by
  simp [State.bit, State.setBit, h]

theorem State.bit_setReg_ne (s : State) {p o q r : Nat} (i : Nat) (v : Word) (h : rkey q r ≠ rkey p o) :
    (s.setReg p o v).bit q r i = s.bit q r i := by
  simp only [State.bit, State.reg_setReg_ne s v h]

theorem State.fld_setReg_ne (s : State) {p o q r : Nat} (lo n : Nat) (v : Word) (h : rkey q r ≠ rkey p o) :
    (s.setReg p o v).fld q r lo n = s.fld q r lo n := by
  simp only [State.fld, State.reg_setReg_ne s v h]

/-- R13: a counter counts and saturates at all ones. -/
theorem State.fld_addCnt_self (s : State) (p o lo n k : Nat) (h : lo + n ≤ 64) :
    (s.addCnt p o lo n k).fld p o lo n = min (2 ^ n - 1) (s.fld p o lo n + k) := by
  unfold State.addCnt
  rw [State.fld_setFld_self _ _ _ _ _ _ h, Nat.mod_eq_of_lt]
  have := Nat.two_pow_pos n
  omega

/-- R13: a counter never falls. -/
theorem State.addCnt_le (s : State) (p o lo n k : Nat) (h : lo + n ≤ 64) :
    s.fld p o lo n ≤ (s.addCnt p o lo n k).fld p o lo n := by
  rw [State.fld_addCnt_self _ _ _ _ _ _ h]
  have := bf_lt (s.reg p o) lo n
  simp only [State.fld]
  omega

/-- R573: a cause that is raised reads 1. -/
@[simp] theorem State.irq_bit (s : State) (p b : Nat) (h : b < 64) : (s.irq p b).bit p R.PG_IRQ_RAW b = true := by
  simp [State.irq, h]

/-! ### Vectors -/

@[simp] theorem vupd_get_self {α : Type} {n : Nat} (v : Vector α n) (i : Fin n) (f : α → α) : (vupd v i f).get i = f (v.get i) := by
  simp [vupd, Vector.get_eq_getElem]

theorem vupd_get_ne {α : Type} {n : Nat} (v : Vector α n) {i j : Fin n} (f : α → α) (h : j ≠ i) :
    (vupd v i f).get j = v.get j := by
  have h : i.val ≠ j.val := fun e => h (Fin.ext e.symm)
  simp [vupd, Vector.get_eq_getElem, h]

/-! ### What a command answers -/

theorem State.ends_eq (s t : State) : s.ends t = .next (t.withQueueOf s) := rfl

theorem State.withQueueOf_eq {s t : State} (hp : t.part = s.part) (hq : t.pending = s.pending) : t.withQueueOf s = t := by
  unfold State.withQueueOf; rw [← hp, ← hq]

/-- An effect that keeps the queue and the order code is the answer itself. -/
theorem State.ends_of {s t : State} (hp : t.part = s.part) (hq : t.pending = s.pending) : s.ends t = .next t := by
  rw [State.ends_eq, State.withQueueOf_eq hp hq]

@[simp] theorem State.withQueueOf_self (s : State) : s.withQueueOf s = s := rfl

@[simp] theorem State.ends_self (s : State) : s.ends s = .next s := rfl

@[simp] theorem State.reg_withQueueOf (t s : State) (p o : Nat) : (t.withQueueOf s).reg p o = t.reg p o := by rfl

@[simp] theorem State.fld_withQueueOf (t s : State) (p o lo n : Nat) : (t.withQueueOf s).fld p o lo n = t.fld p o lo n := by rfl

@[simp] theorem State.bit_withQueueOf (t s : State) (p o i : Nat) : (t.withQueueOf s).bit p o i = t.bit p o i := by rfl

end Sys2Proof.Machine
end

