-- ==== Sys2Proof/Laws/Ops.lean ====
section
/-!
SUPPORT. Laws/Ops.lean: one lemma per shared operation: the write gate of a page, a 64-bit write, a reply to a page, what only changes
registers.
-/

namespace Sys2Proof.Machine

/-- R472, R503, R509, R572: a page that takes writes runs the block's action. -/
theorem State.gate_writable {s : State} {page : Nat} (h : Writable s page) (w : Wr) (act : State → State) :
    s.gate page w act = act s := by
  obtain ⟨h1, h2, h3⟩ := h
  simp [State.gate, h1, h2, h3]

/-- R572: a page that is OFF ignores a write without a trace. -/
theorem State.gate_off {s : State} {page : Nat} (h : s.isOff page = true) (w : Wr) (act : State → State) :
    s.gate page w act = s := by
  simp [State.gate, h]

/-- R472: a page in RESET records a write with cause IN_RESET. -/
theorem State.gate_resetting {s : State} {page : Nat} (h : s.isOff page = false) (h2 : s.resetting page = true) (w : Wr)
    (act : State → State) : s.gate page w act = s.logWr page w .inReset := by
  simp [State.gate, h, h2]

/-- R509: a page that has answered ACK records a write with cause HANDSHAKE while the entry or its rollback runs. -/
theorem State.gate_handshake {s : State} {page : Nat} (h : s.isOff page = false) (h2 : s.resetting page = false)
    (h3 : s.stopped page = true) (h4 : s.inHandshake = true) (w : Wr) (act : State → State) :
    s.gate page w act = s.logWr page w .handshake := by
  simp [State.gate, h, h2, h3, h4]

/-- R503: outside an entry a write to a stopped page ends with a bus error. -/
theorem State.gate_shut {s : State} {page : Nat} (h : s.isOff page = false) (h2 : s.resetting page = false)
    (h3 : s.stopped page = true) (h4 : s.inHandshake = false) (w : Wr) (act : State → State) :
    s.gate page w act = s.busErr w.ini := by
  simp [State.gate, h, h2, h3, h4]

@[simp] theorem Wr.full_reg (ini : Initiator) (off : Nat) (v : Word) : (Wr.full ini off v).reg = off / 8 * 8 := rfl

@[simp] theorem Wr.full_val (ini : Initiator) (off : Nat) (v : Word) : (Wr.full ini off v).val = v := by
  show v &&& BitVec.allOnes 64 = v
  exact BitVec.and_allOnes

@[simp] theorem Wr.full_off (ini : Initiator) (off : Nat) (v : Word) : (Wr.full ini off v).off = off := rfl

@[simp] theorem Wr.full_ini (ini : Initiator) (off : Nat) (v : Word) : (Wr.full ini off v).ini = ini := rfl

@[simp] theorem Wr.full_m (ini : Initiator) (off : Nat) (v : Word) : (Wr.full ini off v).m = BitVec.allOnes 64 := rfl

/-! ### Replies to a page (R471, R474) -/

@[simp] theorem State.replied_true (s : State) (page : Nat) (t : State) : s.replied page true t = s.decided t := rfl

@[simp] theorem State.replied_false (s : State) (page : Nat) (t : State) : s.replied page false t = s.staleReply page := rfl

/-- R471: with no reply on its way to the page, one that comes changes nothing. -/
theorem State.staleReply_none {s : State} {page : Nat} (h : s.ldg.orphans.find? (fun o => o.1 == page) = none) :
    s.staleReply page = s := by
  simp [State.staleReply, h]

/-- R471: a stale reply leaves the list and is counted in PG_ERR_LOG1. -/
theorem State.staleReply_some {s : State} {page : Nat} {o : Nat × Nat} (h : s.ldg.orphans.find? (fun o => o.1 == page) = some o) :
    s.staleReply page =
      ({ s with ldg := { s.ldg with orphans := s.ldg.orphans.erase o } } : State).addCnt page R.PG_ERR_LOG1 48 16 1 := by
  simp [State.staleReply, h]

/-! ### What only changes registers -/

theorem onlyRegs_refl (s : State) : OnlyRegs s s := rfl

theorem onlyRegs_setReg {s t : State} (h : OnlyRegs s t) (p o : Nat) (v : Word) : OnlyRegs s (t.setReg p o v) := by
  unfold OnlyRegs at h ⊢
  rw [h]; rfl

theorem pageKept_refl (s : State) (page : Nat) (l : List Nat) : PageKept s s page l := fun _ _ _ _ => rfl

theorem pageKept_of_regs {s t u : State} {page : Nat} {l : List Nat} (h : PageKept s t page l) (e : u.regs = t.regs) :
    PageKept s u page l := fun q o ho hq => (State.reg_congr e q o).trans (h q o ho hq)

theorem pageKept_setReg {s t : State} {page : Nat} {l : List Nat} (h : PageKept s t page l) {o : Nat} (ho : o < 0x10000)
    (hl : o ∈ l) (v : Word) : PageKept s (t.setReg page o v) page l := by
  intro q r hr hq
  rw [State.reg_setReg_ne _ _ (rkey_ne ho hr ?_)]
  · exact h q r hr hq
  · rcases hq with hq | hq
    · exact .inl hq
    · exact .inr fun e => hq (e ▸ hl)

theorem regsKept_refl (s : State) (l : List (Nat × Nat)) : RegsKept s s l := fun _ _ _ _ => rfl

theorem regsKept_of_regs {s t u : State} {l : List (Nat × Nat)} (h : RegsKept s t l) (e : u.regs = t.regs) :
    RegsKept s u l := fun q o ho hq => (State.reg_congr e q o).trans (h q o ho hq)

theorem regsKept_setReg {s t : State} {l : List (Nat × Nat)} (h : RegsKept s t l) {p o : Nat} (ho : o < 0x10000)
    (hl : (p, o) ∈ l) (v : Word) : RegsKept s (t.setReg p o v) l := by
  intro q r hr hq
  rw [State.reg_setReg_ne _ _ (rkey_ne ho hr ?_)]
  · exact h q r hr hq
  · by_cases hp : q = p
    · exact .inr fun e => hq (by rw [hp, e]; exact hl)
    · exact .inl hp

end Sys2Proof.Machine
end

