-- ==== Sys2Proof/WellFormed.lean ====
section
/-!
DEFINITION. WellFormed.lean: the operands a command can carry. Types bound most of them (a port, a kiln, a queue); the checks
here are those that the types leave. exec is total: it answers on every command, well formed or not.
-/

namespace Sys2Proof

open Sys2Proof.Machine

/-- R35: a physical address of 40 bits. -/
def addrOk (a : Nat) : Bool := decide (a < 2 ^ 40)

/-- An access size in bytes (R6 says which of them a register accepts). -/
def sizeOk (n : Nat) : Bool := n == 1 || n == 2 || n == 4 || n == 8

/-- R6, R549: an access moves at least one byte; a load or a store moves 1, 2, 4 or 8, an AMO 4 or 8. -/
def accessOk : Access → Bool
  | .load n => sizeOk n
  | .store n _ => sizeOk n
  | .readBytes n => decide (0 < n)
  | .writeBytes bs => !bs.isEmpty
  | .amo n _ => n == 4 || n == 8

/-- R569: a slot that holds a page. -/
def pageOk (page : Nat) : Bool := (pageKind page).isSome

/-- R115: a short packet carries no payload, a long packet at most WC bytes; bytes without a
header go on with the packet being received (R139). -/
def packetOk (h : Option CsiHeader) (payload : List Byte) : Bool :=
  match h with
  | none => true
  | some h => if h.dt.toNat < 0x10 then payload.isEmpty else decide (payload.length ≤ h.wc.toNat)

/-- R82: an item that belongs to a calendar entry names one of its 4,096 slots (R192). -/
def itemOk : ItemId → Bool
  | .calendar n => decide (n < 4096)
  | _ => true

/-- R134, R181: the front words of one RFX cycle: one to eight of each port that gives any. -/
def sourceOk : RuleSource → Bool
  | .front l => !l.isEmpty && l.all (fun x => decide (1 ≤ x.2 ∧ x.2 ≤ 8)) && decide ((l.map Prod.fst).Nodup)
  | .trip _ => true

/-- Whether the operands of a command lie in the ranges that the spec gives them. -/
def Instr.wf : Instr → Bool
  | .registerWrite _ a n _ => addrOk a && sizeOk n
  | .rcRead _ a n => addrOk a && sizeOk n
  | .physicalAccess _ a acc _ => addrOk a && accessOk acc
  | .pageReset _ page => pageOk page
  | .pageResetComplete page => pageOk page
  | .pageEnable _ page => pageOk page
  | .pageDisable _ page => pageOk page
  | .pageQuiesce _ page => pageOk page
  | .pgIrqSet _ page _ => pageOk page
  | .scheduledItemDue i => itemOk i
  | .csi2PacketRx _ h payload _ => packetOk h payload
  | .cciDone _ _ bytes => decide (bytes.length ≤ 32)
  | .ruleInput cyc => sourceOk cyc.src
  | .eccWalk word uncorr => word.isSome || !uncorr
  | .routerStall _ port => decide (port < 5)
  | .regulatorTimeout pgLow => pgLow != 0
  | .memoryTimeout failed => !failed.isEmpty
  | .pcieInboundRequest _ _ acc _ => accessOk acc
  | .mgmtRead n => decide (0 < n)
  | _ => true

end Sys2Proof
end

