-- ==== Sys2Proof/Tests/Slice0.lean ====
section
/-!
SUPPORT. Tests/Slice0.lean: the smoke test of WellFormed, the spec's worked values, and for each statement a state and operands
that meet its hypotheses (`meets_<statement>`). Expected values are the spec's, or worked out by hand from its rules.
-/

namespace Sys2Proof.Tests

open Sys2Proof Sys2Proof.Machine

/-- An active part with every page powered. -/
def on : State := { State.reset with off := [], pwr := { State.reset.pwr with phase := .active } }

/-- `s` with registers set, as (page, offset, value). -/
def put (s : State) (l : List (Nat × Nat × Word)) : State := l.foldl (fun s r => s.setReg r.1 r.2.1 r.2.2) s

/-- What the command leaves passes the check. -/
def gives (c : Instr) (s : State) (p : State → Bool) : Bool :=
  match exec c s with
  | .next t => p t
  | _ => false

/-- The sender of the tests. -/
def core : Initiator := .hostCore 0

/-- What a register would hold after a 64-bit write (R6 to R12). -/
def would (s : State) (page off : Nat) (v : Word) : Word := s.wouldBe page (.full core off v)

/-- `s` with the first `n` bytes of HBM written with zeros, and the bytes of a value at an address of them. -/
def stored (s : State) (n a len v : Nat) : State :=
  { s with mem := { s.mem with
    cells := (leBytes len v).zipIdx.filterMap fun b => if b.1 = 0 then none else some (a + b.2, b.1), zeros := [(0, n)] } }

/-! ### Position time bases (chapter 2) -/

/-- Base 0 of a source, running or not. -/
def base (ctl sts : Word) : State := put on [(PG.ptb 0, R.PTB_CTL, ctl), (PG.ptb 0, R.PTB_STS, sts)]

theorem meets_SnapAndForceStep :
    Writable on (PG.ptb 0) ∧ on.reg (PG.ptb 0) R.PTB_STEP = 0 ∧
    (let s := put on [(PG.ptb 0, R.PTB_STEP, 5)]
     Writable s (PG.ptb 0) ∧ s.reg (PG.ptb 0) R.PTB_STEP ≠ 0) ∧
    (on.ptb.get 0).snapAt ≠ some on.dtc ∧ ((on.ptbUpd 0 fun b => { b with snapAt := some 0 }).ptb.get 0).snapAt = some on.dtc ∧
    Writable (on.ptbUpd 0 fun b => { b with snapAt := some 0 }) (PG.ptb 0) := by
  unfold Writable; decide

theorem meets_SlewHomeAndServoCommands :
    Writable on (PG.ptb 0) ∧ (on.ptb.get 0).snapAt ≠ some on.dtc ∧ on.reg (PG.ptb 0) R.PTB_REFUSED_OFS = 0 ∧
    (let s := put on [(PG.ptb 0, R.PTB_REFUSED_OFS, 5)]
     Writable s (PG.ptb 0) ∧ (s.ptb.get 0).snapAt ≠ some s.dtc ∧ s.reg (PG.ptb 0) R.PTB_REFUSED_OFS ≠ 0) := by
  unfold Writable; decide

/-- Start, stop, an ignored change of SRC, and every source a stopped base can change to. -/
theorem meets_PtbControlRunStopAndSource :
    (let c := would (base 0 0) (PG.ptb 0) R.PTB_CTL 0x100
     Writable (base 0 0) (PG.ptb 0) ∧ ((base 0 0).ptb.get 0).snapAt ≠ some (base 0 0).dtc ∧ bitAt ((base 0 0).reg (PG.ptb 0) R.PTB_CTL) 8 = false ∧ bitAt c 8 = true ∧ bf c 0 3 = 0 ∧
       ((base 0 0).setReg (PG.ptb 0) R.PTB_CTL c).ptbRunFails 0 = []) ∧
    (let s := base 0x100 2
     Writable s (PG.ptb 0) ∧ bitAt (s.reg (PG.ptb 0) R.PTB_CTL) 8 = true ∧
       bitAt (would s (PG.ptb 0) R.PTB_CTL 0) 8 = false ∧ (0x100 ^^^ would s (PG.ptb 0) R.PTB_CTL 0) &&& ptbCtlFrozen = 0 ∧
       (0x100 ^^^ would s (PG.ptb 0) R.PTB_CTL 0x101) &&& ptbCtlFrozen ≠ 0) ∧
    (∀ n : Fin 5, let old : Word := if n = 0 then 1 else 0
      let c := would (base old 0) (PG.ptb 0) R.PTB_CTL (wOfNat n)
      bitAt old 8 = false ∧ bitAt c 8 = false ∧ bf old 0 3 ≠ bf c 0 3 ∧ bf c 0 3 = n.val) := by
  unfold Writable; decide

/-- Base 0 on ENC input 0, ENC_FILT 0, at an instant, with the input's levels and the instants they were first sampled. -/
def encoder (now : Word) (x : EncInput) : State :=
  { (base 0x501 1).ptbUpd 0 fun b => { b with encFilt := 0 } with dtc := now, enc := on.enc.set 0 x }

/-- One level or two pass the filter at ENC_FILT + 1 ns, and none one nanosecond sooner; Z rises and falls, homing or not. -/
theorem meets_EncoderAndZEdges :
    (∀ n : Fin 2, let s := encoder (6 + wOfNat n) { a := true, aAt := some 6 }
     let x := s.enc.get 0
     let b := s.ptb.get 0
     s.encBase 0 0 = true ∧ (∀ q : Fin 8, q ≠ 0 → s.encBase 0 q = false) ∧ FreshCycle s 0 ∧ b.encFilt = 0 ∧
       x.z = b.lz ∧ x.b = b.lb ∧ x.a ≠ b.la ∧ x.aAt = some 6 ∧ (n = 1 → b.encFilt + 1 ≤ (s.dtc - 6).toNat) ∧
       (n = 0 → (s.dtc - 6).toNat < b.encFilt + 1)) ∧
    (let s := encoder 7 { b := true, bAt := some 6 }
     (s.enc.get 0).b ≠ (s.ptb.get 0).lb ∧ (s.enc.get 0).bAt = some 6 ∧ (s.enc.get 0).a = (s.ptb.get 0).la) ∧
    (let s := encoder 7 { a := true, b := true, aAt := some 6, bAt := some 6 }
     s.encBase 0 0 = true ∧ FreshCycle s 0 ∧ (s.enc.get 0).a ≠ (s.ptb.get 0).la ∧ (s.enc.get 0).b ≠ (s.ptb.get 0).lb) ∧
    (let s := encoder 7 { z := true, zAt := some 6 }
     (s.enc.get 0).z ≠ (s.ptb.get 0).lz ∧ (s.enc.get 0).z = true ∧ s.bit (PG.ptb 0) R.PTB_CTL 10 = true ∧ (s.ptb.get 0).homeArmed = false ∧
       (s.ptbUpd 0 fun b => { b with homeArmed := true }).encBase 0 0 = true) ∧
    (let s := (encoder 7 { zAt := some 6 }).ptbUpd 0 fun b => { b with lz := true }
     (s.enc.get 0).z ≠ (s.ptb.get 0).lz ∧ (s.enc.get 0).z = false ∧ (s.enc.get 0).a = (s.ptb.get 0).la ∧ FreshCycle s 0) := by
  unfold FreshCycle; decide

theorem meets_TimeDrivenBaseEvents :
    (let s := base 0x103 1
     s.isOff (PG.ptb 0) = false ∧ s.ptbRunning 0 = true ∧ s.ptbSrc 0 = 3 ∧ s.fld (PG.ptb 0) R.PTB_CTL 4 3 = 0 ∧
       (s.ptb.get 0).mainsLast = none ∧ (s.ptb.get 0).snapAt ≠ some s.dtc ∧ ∀ q, q ≠ 0 → s.ptbRunning q = false) ∧
    (let s := put (base 0x104 2) [(PG.ptb 0, R.PTB_SERVO_CTL, 0x0001_0008_0000_0064)]
     { s with dtc := 1000000 }.holdoverDue 0 = true ∧ { s with dtc := 999999 }.holdoverDue 0 = false) ∧
    (let s := { put (base 0x104 2) [(PG.ptb 0, R.PTB_NOMINAL, 0x3B9A_CA00_0000), (PG.ptb 0, R.PTB_SLEW_MAX, 500000)] with dtc := 1000000000 }
     let s := s.ptbUpd 0 fun b => { b with slewN := 10 ^ 18 }
     (s.ptb.get 0).slewN ≠ 0 ∧ (s.settled 0).slewN = 0) ∧
    (let s := (base 0x101 1).ptbUpd 0 fun b => { b with hasEdge := true, edges := [0] }
     { s with dtc := 200000000 }.standstillDue 0 = true) ∧
    (base 0x100 2).histDue 0 = true ∧ ((base 0x100 2).ptbUpd 0 fun b => { b with hist := [(0, 0)] }).histDue 0 = false := by
  decide

/-- The two sides of JUMP_MAX (R68) among them. -/
theorem meets_OffsetSubmission :
    (Writable on (PG.ptb 0) ∧ FreshCycle on 0 ∧ ¬ (on.ptbSrc 0 = 4 ∧ on.ptbRunning 0 = true)) ∧
    (let s := (base 0x104 1).ptbUpd 0 fun b => { b with discAt := 5 }
     Writable s (PG.ptb 0) ∧ FreshCycle s 0 ∧ s.ptbSrc 0 = 4 ∧ s.ptbRunning 0 = true ∧ s.ofsStale 0 (s.reg (PG.ptb 0) R.PTB_OFS_DTC) = true) ∧
    (let s := base 0x104 1
     s.ofsStale 0 (s.reg (PG.ptb 0) R.PTB_OFS_DTC) = false ∧ s.ptbSt 0 = 1 ∧ (s.ptb.get 0).accepted = false) ∧
    (let s := put (base 0x104 2) [(PG.ptb 0, R.PTB_JUMP_MAX, 100)]
     Writable s (PG.ptb 0) ∧ FreshCycle s 0 ∧ s.ptbSrc 0 = 4 ∧ s.ptbRunning 0 = true ∧ s.ofsStale 0 (s.reg (PG.ptb 0) R.PTB_OFS_DTC) = false ∧
       ¬ (s.ptbSt 0 = 1 ∧ (s.ptb.get 0).accepted = false) ∧ (s.ptb.get 0).slewN = 0 ∧
       (s.reg (PG.ptb 0) R.PTB_JUMP_MAX).toNat < (101 : Word).toInt.natAbs ∧
       (100 : Word).toInt.natAbs ≤ (s.reg (PG.ptb 0) R.PTB_JUMP_MAX).toNat) := by
  unfold Writable FreshCycle; decide

theorem meets_StampMapEnableAndInterval :
    (Writable on PG.dtc ∧ on.bit PG.dtc (R.TMAP_CTL 7) 0 = false ∧
      (let c := would on PG.dtc (R.TMAP_CTL 7) 3
       bitAt c 0 = true ∧ bitAt c 1 = true ∧ bf c 32 8 = 0) ∧
      (let c := would on PG.dtc (R.TMAP_CTL 7) 0x1_0000_0003
       bitAt c 0 = true ∧ bf c 32 8 ≠ 0)) ∧
    on.isOff PG.dtc = false ∧ on.tmapDue 7 = false ∧
    (let s := { put on [(PG.dtc, R.TMAP_CTL 7, 0x1_0000_0003)] with
        tmap := on.tmap.set 7 { rmin := some 5 }, dtc := 100000000 }
     (s.tmap.get 7).rmin = some 5 ∧ s.tmapDue 7 = true) := by
  unfold Writable; decide

theorem meets_ScheduledItemFallsDue :
    on.dueItem .recovery = none ∧
    (let item := fun id => ({ id, base := 0, target := 0, behind := false, byStep := true } : Sched)
     let s := { put on [(PG.net 0, R.NET_PPS_CTL, 0x0000_0000_0000_6401), (PG.net 0, R.NET_PPS_PERIOD, 10)] with
        sched := [item (.alarm 7), item .recovery, item .pps] }
     (s.dueItem (.alarm 7)).isSome = true ∧ s.isOff (PG.ptb 7) = false ∧ s.alarmWakes 7 = false ∧
     (s.dueItem .recovery).isSome = true ∧ (s.dueItem .pps).isSome = true ∧ s.isOff (PG.net 0) = false ∧
     s.bit (PG.net 0) R.NET_PPS_CTL 0 = true ∧
     before (s.pos s.ppsBase) (s.reg (PG.net 0) R.NET_PPS_NEXT + s.reg (PG.net 0) R.NET_PPS_PERIOD) = true) := by
  decide

/-! ### Ethernet, stamps and streams (chapter 3) -/

/-- A received frame of 64 bytes with its FCS: to a group address, EtherType 0x88B5. -/
def frame64 : List Byte := 0x01 :: List.replicate 11 0 ++ [0x88, 0xB5] ++ List.replicate 46 0

/-- The reserved modes, the five permitted, TS_EN 1 to 0, and the pulse-per-second pins. -/
theorem meets_EthernetModeLinkAndPps :
    Writable on (PG.net 0) ∧
    (let c := would on (PG.net 0) R.NET_CTL 3
     bf c 0 2 = 3) ∧
    (let c := would on (PG.net 0) R.NET_CTL 0xD
     bf c 2 2 = 3) ∧
    (let c := would on (PG.net 0) R.NET_CTL 0x9
     bf c 0 2 = 1 ∧ bf c 2 2 = 2) ∧
    (∀ m ∈ [(1, 0), (1, 1), (2, 0), (2, 1), (2, 2)], let c := would on (PG.net 0) R.NET_CTL (wOfNat (m.1 + m.2 <<< 2))
     ¬ (bf c 0 2 = 3 ∨ bf c 2 2 = 3 ∨ (bf c 0 2 = 1 ∧ bf c 2 2 = 2)) ∧ bf (on.reg (PG.net 0) R.NET_CTL) 0 4 ≠ bf c 0 4) ∧
    (let s := put on [(PG.net 0, R.NET_CTL, 0x12)]
     let c := would s (PG.net 0) R.NET_CTL 0x02
     bf (s.reg (PG.net 0) R.NET_CTL) 0 4 = bf c 0 4 ∧ bitAt (s.reg (PG.net 0) R.NET_CTL) 4 = true ∧ bitAt c 4 = false ∧
       s.fld (PG.net 0) R.NET_CTL 0 2 ≠ 0 ∧ Writable s (PG.net 0)) ∧
    (Writable on (PG.net 0) ∧ on.bit (PG.net 0) R.NET_PPS_CTL 0 = false ∧
      bitAt (would on (PG.net 0) R.NET_PPS_CTL 1) 0 = true ∧ bf (would on (PG.net 0) R.NET_PPS_CTL 1) 8 24 = 0) ∧
    (let s := put on [(PG.net 0, R.NET_PPS_PERIOD, 1)]
     let c := would s (PG.net 0) R.NET_PPS_CTL 0x101
     s.bit (PG.net 0) R.NET_PPS_CTL 0 = false ∧ bitAt c 0 = true ∧ bf c 8 24 ≠ 0 ∧ s.reg (PG.net 0) R.NET_PPS_PERIOD ≠ 0) ∧
    (let s := { on with pps := { out := true, until_ := 5 } }
     s.pps.out = true ∧ atOrAfter { s with dtc := 5 }.dtc s.pps.until_ = true ∧ atOrAfter { s with dtc := 4 }.dtc s.pps.until_ = false) ∧
    on.isOff (PG.net 0) = false ∧ on.bit (PG.net 0) R.NET_PPS_CTL 1 = false ∧
    (let s := { put on [(PG.net 0, R.NET_PPS_CTL, 2)] with dtc := 1004, pps := { inLast := some 0 } }
     s.bit (PG.net 0) R.NET_PPS_CTL 1 = true ∧ s.pps.inLast = some 0 ∧ 1000 ≤ (s.dtc - 4 - 0).toNat) := by
  unfold Writable; decide +kernel

/-- A frame too short by one byte, the shortest that is delivered, and a ring with one frame to send. -/
theorem meets_FramesAndHostRings :
    (let s := put on [(PG.net 1, R.NET_STS, 1), (PG.net 1, R.NET_RING_SIZE 3, 8), (PG.net 1, R.NET_RING_TAIL 3, 1)]
     Writable s (PG.net 1) ∧ s.netLink 1 = true ∧ (frame64.drop 1).length + 4 < 64 ∧ frame64.length + 4 = 64 ∧
       frame64.length + 4 ≤ s.maxFrame 1 ∧ (etherAt frame64).isSome = true ∧ s.bit (PG.net 1) R.NET_CTL 8 = false ∧
       ptpClass frame64 = .other ∧ frameBe frame64 0 1 % 2 = 1 ∧ s.fld (PG.net 1) (R.NET_RING_SIZE 3) 0 13 ≠ 0 ∧
       s.ringPending 1 3 ≠ 0 ∧ s.fld (PG.net 1) (R.NET_RING_SIZE 2) 0 13 = 0) ∧
    (let s := put on [(PG.net 1, R.NET_STS, 1), (PG.net 1, R.NET_RING_SIZE 0, 8), (PG.net 1, R.NET_RING_TAIL 0, 1),
       (PG.net 1, R.NET_RING_BASE 0, 0x1000)]
     let s := (s.writeBytes none 0x1000 (leBytes 32 (0x2000 + 64 <<< 64))).writeBytes none 0x2000 (List.replicate 64 7)
     let d := s.readNat (s.ringEntry 1 0 0 16) 16
     let r := d.2.2.readBytes (nfld d.1 0 64) (nfld d.1 64 14)
     s.netLink 1 = true ∧ before s.dtc (s.net.get 1).pauseTo = false ∧ s.bit PG.rfx R.RFX_STS 4 = false ∧
       s.fld (PG.net 1) (R.NET_RING_SIZE 0) 0 13 ≠ 0 ∧ s.ringPending 1 0 ≠ 0 ∧ d.2.1 = false ∧ r.1.bad = false ∧
       nfld d.1 78 3 = 0 ∧ r.1.bytes = List.replicate 64 7) := by
  unfold Writable; decide +kernel

/-- A context with good parameters, for a ring with a whole datagram to send (MTU 576, IPv4: 516 bytes). -/
def stream : State :=
  put on [(PG.net 0, R.NET_STS, 1), (PG.net 0, R.STR_DMAC 15, 1), (PG.net 0, R.STR_PORTS 15, 0x0000_0001_0001_0000),
    (PG.net 0, R.STR_DIP_LO 15, 1), (PG.res, R.RING_CTL 31, 0xF5), (PG.res, R.RING_HEAD 31, 516), (PG.res, R.RING_SIZE 31, 16)]

theorem meets_StreamContexts :
    (Writable on (PG.net 0) ∧ on.bit (PG.net 0) (R.STR_CTL 15) 0 = false ∧
      (let c := would on (PG.net 0) (R.STR_CTL 15) 0x0001_0240_0000_0001
       bitAt c 0 = true ∧ on.streamBad 0 15 c = true ∧ stream.streamBad 0 15 (would stream (PG.net 0) (R.STR_CTL 15) c) = false)) ∧
    (let s := put on [(PG.net 0, R.STR_CTL 15, 0x0001_0240_0000_0001)]
     s.bit (PG.net 0) (R.STR_CTL 15) 0 = true ∧ s.streamRing 0 15 = none) ∧
    (let s := put stream [(PG.net 0, R.STR_CTL 15, 0x0001_0240_0000_0001)]
     s.bit (PG.net 0) (R.STR_CTL 15) 0 = true ∧ s.streamRing 0 15 = some 31 ∧ s.streamSpace 0 15 = 516 ∧
       s.streamTake 31 (s.streamSpace 0 15) false = some 516 ∧ s.role = 0 ∧ s.netLink 0 = true ∧
       ((s.net.get 0).sendq.map fun d => d.payload.length + 100).sum + 516 + 100 ≤ 65536) ∧
    (let s := put stream [(PG.net 0, R.STR_CTL 15, 0x0001_0240_0000_0001), (PG.res, R.RING_HEAD 31, 8)]
     let s := { s with dtc := 1000, res := { s.res with marks := s.res.marks.set 31 [{ pos := 0, len := 8, lastOfWindow := false, dtc := 0, port := none, win := 0 }] } }
     s.flushDue 0 15 = true ∧ s.streamTake 31 (s.streamSpace 0 15) true = some 8) := by
  unfold Writable; decide +kernel

/-! ### Sensor ports and ingress queues (chapter 4) -/

/-- Port 7 enabled, its receiver active, data type 0x30 taken, with the receiver's state and the queue given. -/
def port (sp : SpState) (ieq : IeqState) : State :=
  { put on [(PG.sp 7, R.SP_CTL, 0x1049), (PG.sp 7, R.SP_STS, 1)] with sp := on.sp.set 7 sp, ieq := on.ieq.set 7 ieq }

/-- A packet of four payload bytes of which `n` have come. -/
def packet (n : Nat) : RxPacket := { seq := 0, dt := 0x30, wc := 4, rcvd := n, map := {}, dec := {}, groupIet := 0, cut := false, drop := false }

theorem meets_PacketsOpenAndEnd :
    (let s := port {} {}
     s.spEn 7 = true ∧ (s.sp.get 7).rx = none ∧ s.bit (PG.sp 7) R.SP_RLY_CTL 0 = false ∧ s.bit (PG.sp 7) R.SP_STS 0 = true ∧
       (15 : BitVec 4).toNat ≠ s.fld (PG.sp 7) R.SP_CTL 8 4 ∧ (0 : BitVec 4).toNat = s.fld (PG.sp 7) R.SP_CTL 8 4 ∧
       0x30 ≤ (0x30 : BitVec 6).toNat ∧ (0x30 : BitVec 6).toNat < 0x38 ∧ s.bit (PG.sp 7) R.SP_CTL 12 = true) ∧
    ((port { rx := some (packet 4) } {}).sp.get 7).rx = some (packet 4) ∧ (packet 4).rcvd = (packet 4).wc ∧
    (packet 3).rcvd < (packet 3).wc := by
  decide

theorem meets_PhyAndCameraControl :
    (let s := { put on [(PG.sp 7, R.SP_STS, 1)] with dtc := 1000000 }
     s.bit (PG.sp 7) R.SP_STS 0 = true ∧ 1000000 ≤ (s.dtc - (s.sp.get 7).burstAt).toNat ∧
       ({ s with dtc := 999999 }.dtc - (s.sp.get 7).burstAt).toNat < 1000000) ∧
    (Writable on (PG.sp 7) ∧ on.bit (PG.sp 7) R.SP_CCI_STS 0 = false ∧ on.bit (PG.sp 7) R.SP_CCI_CTL 0 = false) ∧
    (put on [(PG.sp 7, R.SP_CCI_STS, 1)]).bit (PG.sp 7) R.SP_CCI_STS 0 = true ∧
    (let s := put on [(PG.sp 7, R.SP_CCI_CTL, 1)]
     s.bit (PG.sp 7) R.SP_CCI_STS 0 = false ∧ s.bit (PG.sp 7) R.SP_CCI_CTL 0 = true ∧ bf (0 : Word) 8 6 = 0 ∧ bf (0 : Word) 16 6 = 0 ∧
       bf (0x2000 : Word) 8 6 ≠ 0 ∧ bf (0x20_0000 : Word) 16 6 ≠ 0) ∧
    (let c : CciXfer := { addr := 0, ccc := false, sent := [], rlen := 32 }
     ((port { cci := some c } {}).sp.get 7).cci = some c) ∧ ((port {} {}).sp.get 7).cci = none := by
  unfold Writable; decide

/-- A Frame Start marker's entry (R137). -/
def marker : IeqEntry :=
  { bytes := 0 :: 0 :: List.replicate 30 0, valid := 32, sop := true, eop := true, crcBad := false, trunc := false, mark := true,
    frag := false, timeout := false, dt := 0, group := 0, iet := 0, map := {} }

/-- A raw read of `n` entries of which `m` have moved. -/
def raw (n m : Nat) : RawDma := { item := 5, addr := 0, len := n, moved := m, zeroAt := 0 }

theorem meets_IngressQueueEntries :
    on.tailDue 7 = false ∧ on.rawWants 7 = false ∧ (on.ieq.get 7).q = [] ∧
    (((port {} { dma := some (raw 4 3) }).ieq.get 7).dma = some (raw 4 3) ∧ (raw 4 3).moved < (raw 4 3).len ∧
      ((port {} { dma := some (raw 4 3) }).ieq.get 7).q = [] ∧
      ((port {} { dma := some (raw 4 3), q := [marker] }).ieq.get 7).q = [marker] ∧
      (port {} { dma := some (raw 4 4) }).rawWants 7 = false) ∧
    (let o : OpenEntry := { bytes := [1, 2, 3], sop := true, frag := false, group := 0, iet := 0, since := 0, limit := 1000 }
     let s := { port { rx := some (packet 3) } { opened := some o } with dtc := 1000 }
     (s.ieq.get 7).opened = some o ∧ (s.sp.get 7).rx = some (packet 3) ∧ s.tailDue 7 = true ∧ (s.ieq.get 7).dma = none) ∧
    (on.queueMayRead 7 && on.queueHeadReady 7) = false ∧
    (let s := put (port {} { q := [marker] }) [(PG.sp 7, R.SP_CTL, 0x1049), (PG.ieq 7, R.PG_CTL, 1), (PG.sv 7, R.PG_CTL, 1)]
     (s.queueMayRead 7 && s.queueHeadReady 7) = true ∧ (s.ieq.get 7).q = [marker] ∧ marker.mark = true ∧ marker.parity = 0 ∧
       (s.sp.get 7).qd.resync = false ∧ leNat (marker.bytes.take 1) ≠ 0x80 ∧ s.bit (PG.sp 7) R.SP_CTL 6 = true) ∧
    Writable on (PG.ieq 7) ∧ (on.sp.get 7).qd.current = false ∧
    (let s := port { qd := { current := true } } { q := [marker] }
     (s.sp.get 7).qd.current = true ∧ s.ieqRaw 7 = false ∧ Writable s (PG.ieq 7)) ∧
    (let s := put (port {} { q := [marker] }) [(PG.ieq 7, R.IEQ_CTL, 1)]
     s.ieqRaw 7 = true ∧ (s.ieq.get 7).dma = none ∧ (s.ieq.get 7).q = [marker] ∧ Writable s (PG.ieq 7)) ∧
    (let s := put on [(PG.ieq 7, R.IEQ_CTL, 1)]
     s.ieqRaw 7 = true ∧ (s.ieq.get 7).dma = none ∧ (s.ieq.get 7).q = []) ∧
    ((port {} { dma := some (raw 4 3) }).ieq.get 7).dma.isSome = true := by
  unfold Writable; decide

/-- One item in flight, of a page. -/
def item (page : Nat) : Item := { idx := 5, page, cq := 0, load := false, tag := 0, opened := 0, epoch := 0, poisoned := false, closed := false }

/-- `s` with that item in flight. -/
def busy (s : State) (page : Nat) : State := { s with ldg := { s.ldg with items := [item page] } }

/-- No item is left for an ordinary job (R431). -/
def full (s : State) : State := put s [(PG.ldg, R.LDG_RESERVE, 0x3FFF)]

theorem running_busy (s : State) (page : Nat) : Running (busy s page) 5 := ⟨item page, by simp [State.item?, busy, item], rfl⟩

theorem no_item_full : (full { on with ldg := { on.ldg with items := [item 0] } }).itemFree .ordinary = false := by decide

/-! ### Sieves and admission (chapter 5) -/

/-- Port 7 with event words waiting for its Sieve. -/
def sieve (ctl : Word) (ws : List Word) : State :=
  { put on [(PG.sv 7, R.SV_CTL, ctl)] with sp := on.sp.set 7 { toSieve := ws }, adm := { on.adm with hot := [7 * 2 ^ 24] } }

theorem meets_SieveTakesOneWord :
    (let s := sieve 1 [0]
     s.alive (PG.sv 7) = true ∧ s.stopped (PG.sv 7) = false ∧ s.alive PG.sfs = true ∧ s.surfInit 7 = false ∧
       (s.sp.get 7).toSieve = [0] ∧ evKind (0 : Word) = 0 ∧ s.bit (PG.sv 7) R.SV_CTL 0 = true ∧ NSet.has s.adm.hot (hotKey 7 0 0) = true) ∧
    (on.sp.get 7).toSieve = [] ∧
    (let s := sieve 0 [0]
     s.fld (PG.sv 7) R.SV_CTL 0 4 = 0 ∧ s.classOf 7 (s.tileIx 7 0 0) ≠ 3 ∧ s.admBypass 7 = false ∧
       (s.adm.hold.get 7).length < holdSize) ∧
    evKind (0x0400_0000_0000_0000 : Word) = 1 ∧ evKind (0x0800_0000_0000_0000 : Word) = 2 := by
  decide

theorem meets_RawQueueReadAndHotMaskLoad :
    Writable on (PG.ieq 7) ∧ (on.ieq.get 7).dma = none ∧ on.itemFree .ordinary = true ∧ bf (0 : Word) 0 16 = 0 ∧ bf (1 : Word) 0 16 ≠ 0 ∧
    on.ieqRaw 7 = false ∧
    (let s := put on [(PG.ieq 7, R.IEQ_CTL, 1), (PG.ieq 7, R.IEQ_RAW_DMA_ADDR, 32)]
     s.ieqRaw 7 = true ∧ (s.reg (PG.ieq 7) R.IEQ_RAW_DMA_ADDR).toNat % 64 ≠ 0) ∧
    (let s := put on [(PG.ieq 7, R.IEQ_CTL, 1), (PG.ieq 7, R.IEQ_RAW_DMA_ADDR, 64)]
     s.ieqRaw 7 = true ∧ (s.reg (PG.ieq 7) R.IEQ_RAW_DMA_ADDR).toNat % 64 = 0 ∧ (s.ieq.get 7).q = []) ∧
    Writable (full { on with ldg := { on.ldg with items := [item 0] } }) (PG.ieq 7) ∧
    ((port {} { dma := some (raw 4 4) }).ieq.get 7).dma = some (raw 4 4) ∧
    Running (busy (port {} { dma := some (raw 4 4) }) (PG.ieq 7)) (raw 4 4).item ∧ (raw 4 4).moved = (raw 4 4).len ∧
    (raw 4 3).moved < (raw 4 3).len ∧ 100000 ≤ ((100000 : Word) - (raw 4 3).zeroAt).toNat ∧ (on.ieq.get 7).q = [] ∧
    ((port {} { dma := some (raw 4 3) }).ieq.get 7).dma.isSome = true ∧
    ((on.ldg.orphans.any fun o => o.1 == PG.ieq 7) = false ∧
      ({ on with ldg := { on.ldg with orphans := [(PG.ieq 7, 0)] } }.ldg.orphans.any fun o => o.1 == PG.ieq 7) = true) := by
  refine ⟨by unfold Writable; decide, by decide, by decide, by decide, by decide, by decide, by decide, by decide,
    by unfold Writable; decide, by decide, running_busy _ _, by decide, by decide, by decide, by decide, by decide, by decide⟩

/-- The mask load of the same statement, running and able to run. -/
theorem meets_RawQueueReadAndHotMaskLoad_mask :
    (Writable on (PG.sv 7) ∧ on.adm.load.get 7 = none ∧ on.itemFree .ordinary = true ∧ on.spEn 7 = false) ∧
    (let s := { on with adm := { on.adm with load := on.adm.load.set 7 (some (5, 0)) } }
     (s.adm.load.get 7).isSome = true ∧ s.spEn 7 = false) ∧
    (let s := put on [(PG.sp 7, R.SP_CTL, 1), (PG.sp 7, R.SP_GEOM, 0x0800_0800)]
     let a := (s.reg (PG.sv 7) R.SV_TBL_ADDR).toNat
     s.spEn 7 = true ∧ ¬ (a % 64 ≠ 0 ∨ s.inHbm a (s.maskBytes 7) = false ∨ s.spEn 7 = false ∨ s.geomW 7 = 0 ∨ s.geomH 7 = 0)) ∧
    (let s := busy { on with adm := { on.adm with load := on.adm.load.set 7 (some (5, 0)) } } (PG.sv 7)
     s.adm.load.get 7 = some (5, 0) ∧ s.spEn 7 = false ∧ (s.setReg (PG.sp 7) R.SP_CTL 1).spEn 7 = true) := by
  unfold Writable; decide

/-- An event of a class at the head of port 7's hold queue. -/
def head (c : Word) : HoldEv := { word := c <<< 60, ext := 0, entered := 0, late := false }

theorem meets_AdmissionBudgetsAndDecisions :
    (on.admNow ≤ on.adm.win ∧ on.adm.win < { on with dtc := 50000 }.admNow ∧ { on with dtc := 49999 }.admNow ≤ on.adm.win) ∧
    (Writable on PG.adm ∧ on.admEn 7 = false ∧ bitAt (1 : Word) 0 = true ∧ on.admChecks 7 = [] ∧
      (put on [(PG.adm, R.ADM_P_DEFER_MAX 7, 0)]).admChecks 7 ≠ [] ∧ (put on [(PG.adm, R.ADM_P_TDELIVER 7, 199)]).admChecks 7 ≠ []) ∧
    (let s := { put on [(PG.adm, R.PG_CTL, 1), (PG.adm, R.ADM_P_CTL 7, 1), (PG.adm, R.ADM_P_GUARD 7, 1), (PG.adm, R.ADM_P_COST0 7, 3)] with
        adm := { on.adm with hold := on.adm.hold.set 7 [head 0], rem0 := on.adm.rem0.set 7 { chd := 3 } } }
     s.admRuns = true ∧ s.alive (PG.sv 7) = true ∧ s.admNow ≤ s.adm.win ∧ s.adm.hold.get 7 = [head 0] ∧ evKind (head 0).word = 0 ∧
       evClass (head 0).word = 0 ∧ s.admEn 7 = true ∧ (s.admCost 7 0).le (s.adm.rem0.get 7) = true ∧ s.adm.hold.get 6 = [] ∧
       s.admEn 6 = false ∧ evClass (head 2).word = 2 ∧
       ((s.admCost 7 2).map2 (· + ·) (s.admGuard 7)).le (s.adm.rem.get 7) = false) := by
  unfold Writable; decide

/-- Two lanes of D-PHY at 1,000 Mb/s, data type 0x30, 16 by 16 pixels, a tick of 1 µs. -/
def sensor : State :=
  put on [(PG.sp 7, R.SP_PHY_CTL, 1000), (PG.sp 7, R.SP_GEOM, 0x10_0010), (PG.sfs, R.SFS_P_CFG 7, 1)]

theorem meets_SensorPortEnable :
    (Writable on (PG.sp 7) ∧ on.spEn 7 = false ∧
      (let c := would on (PG.sp 7) R.SP_CTL 1
       bitAt c 0 = true ∧ ((on.setReg (PG.sp 7) R.SP_CTL (putBit c 0 false)).spChecks 7).1 ≠ [])) ∧
    (let c := would sensor (PG.sp 7) R.SP_CTL 0x1009
     let s0 := sensor.setReg (PG.sp 7) R.SP_CTL (putBit c 0 false)
     Writable sensor (PG.sp 7) ∧ bitAt c 0 = true ∧ (s0.spChecks 7).1 = [] ∧ (s0.surfAlloc 7).1 = true) ∧
    (let s := put sensor [(PG.sp 7, R.SP_CTL, 0x1009)]
     s.spEn 7 = true ∧ bitAt (would s (PG.sp 7) R.SP_CTL 0) 0 = false ∧ bitAt (would s (PG.sp 7) R.SP_CTL 0x1011) 0 = true ∧
       would s (PG.sp 7) R.SP_CTL 0x1011 ≠ s.reg (PG.sp 7) R.SP_CTL) := by
  unfold Writable; decide +kernel

/-! ### Reflex path, calendar and dead-man (chapter 6) -/

/-- RULE_CTL of a rule on pixel events of port 0, unconstrained region, THRESH 1, WINDOW 100, enabled. -/
def ruleCtl : Word := 0x0000_0000_6401_0401

/-- Rule 255 enabled with that word, its action a 10 ns pulse on output 31, which is driven; `w` waits at port 0's front. -/
def rule (ctl : Word) (f : List FrontItem) : State :=
  { put on [(PG.rfx, R.PG_CTL, 1), (PG.rfx, R.RULE_CTL 255, ctl), (PG.rfx, R.RULE_ACT 255, 0x1_003E), (PG.rfx, R.RFX_OUT_CFG 31, 1)] with
    sp := on.sp.set 0 { front := f } }

theorem meets_ReflexRuleEnableAndDisable :
    (Writable on PG.rfx ∧ bitAt (on.reg PG.rfx (R.RULE_CTL 255)) 0 = false) ∧
    (let s := put on [(PG.rfx, R.RULE_ACT 255, 0x1_003E)]
     let c := would s PG.rfx (R.RULE_CTL 255) ruleCtl
     bitAt c 0 = true ∧ s.ruleChecks 255 c = [] ∧ s.ruleChecks 255 (would s PG.rfx (R.RULE_CTL 255) 0x0000_0000_6400_0401) ≠ [] ∧
       s.ruleChecks 255 (would s PG.rfx (R.RULE_CTL 255) 0x0000_0000_6341_0401) ≠ []) ∧
    (let s := rule ruleCtl []
     bitAt (s.reg PG.rfx (R.RULE_CTL 255)) 0 = true ∧ bitAt (would s PG.rfx (R.RULE_CTL 255) ruleCtl) 0 = true ∧
       bitAt (would s PG.rfx (R.RULE_CTL 255) 0) 0 = false) := by
  unfold Writable; decide +kernel

/-- A word that does not qualify (an auxiliary event), one at and one below the threshold, a checked rule, and a trip. -/
theorem meets_RuleInputCountsAndFires :
    (let s := rule ruleCtl [.ev 0 9]
     s.running PG.rfx = true ∧ (∀ q : Nat, q < 256 → q ≠ 255 → s.bit PG.rfx (R.RULE_CTL q) 0 = false) ∧
       s.bit PG.rfx (R.RULE_STS 255) 1 = false ∧ bf (s.reg PG.rfx (R.RULE_CTL 255)) 48 16 = 0 ∧
       bitAt (s.reg PG.rfx (R.RULE_ACT 255)) 0 = false ∧ (s.sp.get 0).front = [.ev 0 9] ∧ bf (s.reg PG.rfx (R.RULE_CTL 255)) 4 3 = 0 ∧
       bf (s.reg PG.rfx (R.RULE_CTL 255)) 2 2 < 2 ∧ s.qualifies 255 0x0400_0000_0000_0000 = false ∧ s.qualifies 255 0 = true ∧
       bitAt (s.reg PG.rfx (R.RULE_CTL 255)) 1 = false ∧ (s.ruleRt 255).ring = [] ∧ bf (s.reg PG.rfx (R.RULE_CTL 255)) 16 7 ≤ 0 + 1 ∧
       s.outDark 31 = false ∧ s.inPulse 31 = false ∧ outOf (bf (s.reg PG.rfx (R.RULE_ACT 255)) 1 5) = 31) ∧
    (let s := rule 0x0000_0000_6402_0401 [.ev 0 9]
     s.qualifies 255 0 = true ∧ (s.ruleRt 255).ring.length + 1 < bf (s.reg PG.rfx (R.RULE_CTL 255)) 16 7) ∧
    (let s := rule 0x0000_0000_6401_0403 [.ev 0 9]
     s.qualifies 255 0 = true ∧ bitAt (s.reg PG.rfx (R.RULE_CTL 255)) 1 = true) ∧
    (let s := rule 0x0000_0000_6401_0409 []
     let s := { s with rfx := { s.rfx with trips := [0] } }
     (0 : Fin 16) ∈ s.rfx.trips ∧ s.tripOpen 0 = false ∧ (s.setReg PG.rch R.RCH_CTL 1).tripOpen 0 = true ∧
       bf (s.reg PG.rfx (R.RULE_CTL 255)) 2 2 = 2 ∧ bf (s.reg PG.rfx (R.RULE_ACT 255)) 40 8 = 0 ∧ s.gateOpen 255 = true) := by
  decide +kernel

/-- An entry of the calendar, unchecked, of packet 9 of port 0. -/
def entry (slot : Nat) : CalEntry := { slot, sw := false, rule := 255, pkt := some (0, 9), unchk := true, out := 31, width := 1, skip := false }

theorem meets_PulseEndAndPacketResult :
    on.isOff PG.rfx = false ∧
    (let s := { on with rfx := { on.rfx with pulse := on.rfx.pulse.set 31 (some 5) } }
     s.inPulse 31 = true ∧ s.rfx.pulse.get 31 = some 5 ∧ { s with dtc := 5 }.inPulse 31 = false) ∧
    (on.sp.get 0).front = [] ∧
    (let s := rule 0 [.crc 9 true false]
     (s.sp.get 0).front = [.crc 9 true false] ∧ ∀ k, k < 256 → (s.ruleRt k).shadow = none) ∧
    (let s := rule ruleCtl [.crc 9 false true]
     let s := { s with rfx := { s.rfx with cal := [entry 0, entry 1], rules := [(255, { ring := [0], counted := true })] } }
     (s.sp.get 0).front = [.crc 9 false true] ∧ s.rfx.cal.Pairwise (fun a b => a.slot ≠ b.slot) ∧ (s.ruleRt 255).counted = true ∧
       s.bit PG.rfx (R.RULE_CTL 255) 1 = false ∧ s.fld PG.rfx (R.RULE_CTL 255) 4 3 = 0 ∧
       (∀ e, e ∈ s.rfx.cal → s.dueItem (.calendar e.slot) = none) ∧ s.running PG.rfx = true ∧
       (s.setReg PG.rfx R.PG_CTL 3).running PG.rfx = false) := by
  decide +kernel

/-- An insert of 10 ns for output 31 of base 0 whose target the base has reached, or has not. -/
def insert (w : Word) (x : Word) (run : Word) : State :=
  put on [(PG.tcal, R.PG_CTL, 1), (PG.tcal, R.TCAL_SW_CTL, w), (PG.tcal, R.TCAL_SW_POS, x), (PG.ptb 0, R.PTB_STS, run),
    (PG.rfx, R.RFX_OUT_CFG 31, 1)]

theorem meets_CalendarInsertAndFlush :
    (Writable on PG.tcal ∧ (put on [(PG.tcal, R.PG_CTL, 0)]).calTakes = false) ∧
    (let s := insert 0x1F 0 2
     s.calTakes = true ∧ bf (s.reg PG.tcal R.TCAL_SW_CTL) 16 24 = 0) ∧
    (let s := insert 0x1_001F 5 2
     Writable s PG.tcal ∧ s.calTakes = true ∧ bf (s.reg PG.tcal R.TCAL_SW_CTL) 16 24 ≠ 0 ∧
       ¬ (s.ptbRunning 0 = true ∧ atOrAfter (s.pos 0) (s.reg PG.tcal R.TCAL_SW_POS) = true) ∧ s.rfx.cal.length < 4096) ∧
    (let s := insert 0x1_001F 0 2
     s.ptbRunning 0 = true ∧ atOrAfter (s.pos 0) (s.reg PG.tcal R.TCAL_SW_POS) = true ∧ s.outDark 31 = false ∧ s.inPulse 31 = false) ∧
    (let s := { insert 0x1_001F 5 2 with rfx := { on.rfx with cal := [entry 0, entry 1] } }
     Writable s PG.tcal ∧ s.rfx.cal.Pairwise (fun a b => a.slot ≠ b.slot) ∧
       (∀ e, e ∈ s.rfx.cal → s.dueItem (.calendar e.slot) = none)) := by
  unfold Writable; decide

/-- A full calendar, which refuses an insert. -/
theorem meets_CalendarInsertAndFlush_full :
    4096 ≤ { insert 0x1_001F 5 2 with rfx := { on.rfx with cal := List.replicate 4096 (entry 0) } }.rfx.cal.length := by
  show 4096 ≤ (List.replicate 4096 (entry 0)).length
  rw [List.length_replicate]

/-- The dead-man's 1.5 µs (R31), on both sides. -/
theorem meets_HeartbeatDeadmanAndRearm :
    (on.isOff PG.res = false ∧ on.twin.demote = false ∧ { on with twin := { on.twin with demote := true } }.twin.demote = true) ∧
    on.pwr.phase = .active ∧ ({ on with dtc := 1499 }.dtc - on.rfx.hbAt).toNat < 1500 ∧
    1500 ≤ ({ on with dtc := 1500 }.dtc - on.rfx.hbAt).toNat ∧ on.deadman = false ∧ on.role ≠ 3 ∧
    (put on [(PG.wth, R.WTH_STS, 3)]).role = 3 ∧ Writable on PG.rfx ∧
    (let s := put on [(PG.rfx, R.RFX_STS, 0x10)]
     s.deadman = true ∧ s.rfx.hbBack = false ∧ { s with rfx := { s.rfx with hbBack := true } }.rfx.hbBack = true) := by
  unfold Writable; decide

theorem meets_ReflexIntegrityCommands :
    (Writable on PG.rfx ∧ on.bit PG.rfx R.RFX_STS 8 = false ∧ (put on [(PG.rfx, R.RFX_STS, 0x100)]).bit PG.rfx R.RFX_STS 8 = true) ∧
    on.isOff PG.rfx = false ∧ on.lanesOut = 0 ∧
    (let recent := fun n => (List.replicate n (1 : Word)).filter fun t => decide (((1000000000 : Word) - t).toNat < 1000000000)
     (recent 1).length < 2 ∧ 2 ≤ (recent 2).length) ∧
    popCount 3 (put on [(PG.rfx, R.RFX_STS, 1)]).lanesOut = 1 ∧
    { on with rfx := { on.rfx with resync := some 2 } }.rfx.resync = some 2 ∧ on.rfx.eccBad = [] ∧
    (∀ q : Fin 3, q ≠ 0 → on.laneOut q = false) ∧ (put on [(PG.rfx, R.RFX_STS, 2)]).laneOut 1 = true ∧ on.outDark 31 = true ∧
    (put on [(PG.rfx, R.RFX_OUT_CFG 31, 1)]).outDark 31 = false ∧
    (let r : ReflexRec := { kind := 6, cause := 7 }
     let s := { put on [(PG.res, R.RING_CTL 0, 1), (PG.res, R.RING_SIZE 0, 12)] with rfx := { on.rfx with recs := [r] } }
     let k := routeOf (s.reg PG.res R.RES_ROUTE_DEV) .reflex
     s.alive PG.res = true ∧ s.stopped PG.res = false ∧ s.deadman = false ∧ s.rfx.recs = [r] ∧
       on.bit PG.res (R.RING_CTL k) 0 = false ∧ s.bit PG.res (R.RING_CTL k) 0 = true ∧
       s.ringUsed k + 48 ≤ 2 ^ s.fld PG.res (R.RING_SIZE k) 0 5) ∧
    on.rfx.recs = [] := by
  unfold Writable; decide

/-! ### Surface store and Chord units (chapter 7) -/

/-- Port 7 with a region of 256 words at offset 256, enabled, a pass at word `pos`. -/
def region (pos : Word) : State :=
  put on [(PG.sfs, R.SFS_P_ALLOC 7, 0x8000_0100_0000_0100), (PG.sfs, R.SFS_P_CFG 7, 1), (PG.sfs, R.SFS_P_PASS 7, pos), (PG.sp 7, R.SP_CTL, 1)]

theorem meets_SurfaceRegionsAndEpochPass :
    on.surfInit 7 = false ∧ (put (region 0) [(PG.sfs, R.SFS_STS, 0x8000)]).surfInit 7 = true ∧
    on.sfs.freeing.find? (fun f => f.port == 7) = none ∧
    (let f : Freeing := { port := 7, base := 256, size := 256 }
     let s := { put (region 0) [(PG.sp 7, R.SP_CTL, 0)] with sfs := { on.sfs with freeing := [f] } }
     s.sfs.freeing.find? (fun f => f.port == 7) = some f ∧ bf (s.reg PG.sfs (R.SFS_P_ALLOC 7)) 0 23 = f.base ∧ s.spEn 7 = false) ∧
    (let s := { region 0 with dtc := 65536000 }
     s.passRuns 7 = true ∧ s.sfs.sweptAt.get 7 < s.surfNow 7 / 65536 ∧
       ({ s with dtc := 65535999 } : State).surfNow 7 / 65536 ≤ s.sfs.sweptAt.get 7) ∧
    on.sfs.sweep.get 7 = false ∧
    (∀ pos : Fin 2, let s := { region (if pos = 0 then 0 else 255) with
        dtc := 70000000, sfs := { on.sfs with sweep := on.sfs.sweep.set 7 true, words := [(256, 0x20)] } }
     let o := bf (s.reg PG.sfs (R.SFS_P_ALLOC 7)) 0 23 + s.fld PG.sfs (R.SFS_P_PASS 7) 0 23
     s.passRuns 7 = true ∧ s.sfs.sweep.get 7 = true ∧ Sp.get 0 s.sfs.bad o = 0 ∧
       (pos = 0 → surfLive (s.surfWord o) = true ∧ surfFresh (s.surfWord o) (s.surfNow 7) = false) ∧
       (pos = 1 → s.surfWord o = 0)) := by
  decide +kernel

theorem meets_ChordTestTakesOldestEvent :
    (on.chd.get 7).out = [] ∧ on.bit (PG.chd 7) R.CHD_CTL 6 = false ∧ (on.chd.get 7).q = [] ∧
    { on with inReset := [PG.sfs] }.alive PG.sfs = false ∧
    (let e : ChdEvent := { word := 0, ext := 0, admitted := 0 }
     let s := { put (region 0) [(PG.chd 7, R.PG_CTL, 1), (PG.chd 7, R.CHD_CTL, 0x20)] with chd := on.chd.set 7 { q := [e] } }
     (s.chd.get 7).q = [e] ∧ (s.chd.get 7).out = [] ∧ s.bit (PG.chd 7) R.CHD_CTL 6 = false ∧ s.running (PG.chd 7) = true ∧ s.alive PG.sfs = true ∧
       s.alive PG.loc = true ∧ (s.loc.inputs.get 7).length < 128 ∧ s.bit (PG.chd 7) R.CHD_CTL 5 = true ∧
       s.bit (PG.chd 7) R.CHD_CTL 7 = false) := by
  decide +kernel

/-! ### Tracker (chapter 8) -/

/-- A confirmed track of port 0 in the cell of pixel (8, 8), updated at tick 0. -/
def track : Track :=
  { id := 1, port := 0, cx := on.cellOf 8, cy := on.cellOf 8, st := 2, cls := 0, pol := false, x := 128, y := 128, vx := 0, vy := 0,
    tLast := 0, tFirst := 0, hits := 9, quality := 9, obj := 0xFFFF, posLast := 0, arcDir := 0, res := 0 }

/-- Its first candidate slot. -/
def slot : Nat := (cellSlots 0 (on.cellOf 8) (on.cellOf 8)).1

/-- The tracker running, its table of zeros but for that track, and a record of pixel (8, 8) at its port-0 input. -/
def tracker : State :=
  let s := stored (put on [(PG.loc, R.PG_CTL, 1), (PG.loc, R.LOC_OBJ_BASE, 0x1000_0000),
    (PG.loc, R.LOC_CTL, on.reg PG.loc R.LOC_CTL &&& 0xFFFF_FFFF_FFFF_FFFE)]) 0x1040_0000 (64 * slot) 64 track.toSlot
  { s with loc := { s.loc with inputs := s.loc.inputs.set 0 [{ body := 8 <<< 32 + 8 <<< 43, admitted := 0, excess := false }] } }

/-- The same with an empty table. -/
def emptyTracker : State := { tracker with mem := { tracker.mem with cells := [] } }

theorem meets_TrackerRecordsAndSweep_records :
    on.running PG.loc = false ∧ on.loc.cacheErr = none ∧ on.loc.counted = [] ∧ on.locNext = none ∧
    (let s := tracker
     let l : LocRec := { body := 8 <<< 32 + 8 <<< 43, admitted := 0, excess := false }
     let r := CRec.ofBody l.body
     let s1 := { s with loc := { s.loc with cacheErr := none, counted := [], inputs := s.loc.inputs.set 0 [], turn := baseOf 1 } }
     let q := s1.lookPos (baseOf (s.fld PG.loc R.LOC_CTL 8 3)) r.iet
     let s2 := (q.2.2.recMatches r).2
     let m : Match := { slot, t := track, err := 0 }
     let u := trackUpdate m.t r m.err q.1.toNat (s2.fld PG.loc R.LOC_AGE 48 16) (s2.fld PG.loc R.LOC_MATCH 48 8) (s2.fld PG.loc R.LOC_CTL 12 3)
     s.running PG.loc = true ∧ s.locNext = some 0 ∧ s.loc.inputs.get 0 = [l] ∧ (s.chd.get 0).out = [] ∧
       ({ s with dtc := 3000 }.dtc - l.admitted).toNat ≤ 3000 ∧ (q.2.2.recMatches r).1 = [m] ∧ r.corner = false ∧
       s2.bit PG.loc R.LOC_CTL 0 = false ∧ s2.bit PG.loc R.LOC_CTL 2 = false ∧ 0 ≤ sdiff 32 r.iet m.t.tLast ∧
       ¬ (m.t.st = 1 ∧ u.st = 2) ∧ s2.cellOf (u.x / 16).toNat = u.cx ∧ s2.cellOf (u.y / 16).toNat = u.cy) ∧
    (let s := emptyTracker
     let r := CRec.ofBody (8 <<< 32 + 8 <<< 43)
     s.locNext = some 0 ∧ ((s.lookPos 0 r.iet).2.2.recMatches r).1 = []) := by
  decide +kernel

/-- The sweep at a free slot, at one of a track one tick past its limit, and at the table's end. -/
theorem meets_TrackerRecordsAndSweep_sweep :
    on.sweepRuns = false ∧
    (let s := { tracker with loc := { tracker.loc with sweepPos := 5 } }
     let q := State.ctxLook { s with loc := { s.loc with sweepPos := 6, counted := [] } } 5 (s.slotAddr 5)
     s.sweepRuns = true ∧ s.loc.sweepPos < locusSlots ∧ s.loc.sweepPos ∉ s.loc.poisoned ∧ s.loc.flushLeft = 0 ∧ q.2.1 = false ∧
       (Track.ofSlot q.1).st = 0) ∧
    (let s := { put tracker [(PG.loc, R.LOC_AGE, 1)] with dtc := 1000063, loc := { tracker.loc with sweepPos := slot } }
     let q := State.ctxLook { s with loc := { s.loc with sweepPos := slot + 1, counted := [] } } slot (s.slotAddr slot)
     s.sweepRuns = true ∧ s.loc.sweepPos < locusSlots ∧ s.loc.sweepPos ∉ s.loc.poisoned ∧ s.loc.flushLeft = 0 ∧ q.2.1 = false ∧
       Track.ofSlot q.1 = track ∧ track.st ≠ 0 ∧
       ((q.2.2.fld PG.loc R.LOC_AGE 0 16 * 16000 : Nat) : Int) < sdiff 32 q.2.2.iet track.tLast) ∧
    ({ on with loc := { on.loc with sweepPos := locusSlots - 1 } } : State).loc.sweepPos < locusSlots ∧
    (let s : State := { on with loc := { on.loc with sweepPos := locusSlots } }
     locusSlots ≤ s.loc.sweepPos ∧ s.goneObjects = []) := by
  decide +kernel

/-- A chain that waits for the binding of step 4 (R440). -/
def chain (step entry : Nat) : Chain :=
  { id := 0, item := some 5, win := { k := 0, start := 0, stop := 0, openDtc := 0 }, ctl := 0, rd := 0, jobs := [], step, entry, sub := 0, waits := [],
    shed := false, poison := false, fail := none, objects := none, lost := false }

theorem meets_TrackerRecordsAndSweep_binding :
    on.res.chains.get 7 = [] ∧
    (let s := { tracker with res := { on.res with chains := on.res.chains.set 7 [chain 4 2] } }
     s.res.chains.get 7 = [chain 4 2] ∧ (chain 4 2).step = 4 ∧ (chain 4 2).entry = 2 ∧ (chain 4 2).item = some 5 ∧ s.running PG.loc = true ∧ s.alive PG.res = true ∧
       s.stopped PG.res = false) := by
  decide +kernel

theorem meets_TrackerClearAndFlush :
    (Writable on PG.loc ∧ on.loc.clearing = none ∧ on.itemFree .ordinary = true ∧ tracker.enabled PG.loc = true ∧
      (put on [(PG.loc, R.LOC_TBL_BASE, 32)]).locBasesBad = true) ∧
    (let s := put on [(PG.loc, R.LOC_OBJ_BASE, 0x1000_0000)]
     Writable s PG.loc ∧ s.loc.clearing = none ∧ s.enabled PG.loc = false ∧ s.locBasesBad = false) ∧
    (let s := emptyTracker
     s.usedSlots s.locTbl locusSlots = [] ∧ s.usedSlots s.locObj locusObjects = [] ∧ s.loc.counted = []) ∧
    (let s := tracker
     let q := State.ctxLook { s with loc := { s.loc with counted := [] } } slot (s.slotAddr slot)
     let u := Track.ofSlot q.1
     let e := q.2.2.retire true slot u 4 0 false
     s.usedSlots s.locTbl locusSlots = [slot] ∧ q.2.1 = false ∧ u = track ∧ u.st ≠ 0 ∧
       e.usedSlots e.locObj locusObjects = []) ∧
    (let c : LocClear := { item := 5, tbl := 0, obj := 0x1000_0000 }
     let s := { busy on PG.loc with loc := { on.loc with clearing := some c } }
     s.loc.clearing = some c ∧ s.mem.wf = true ∧ s.hbmOffline = false ∧ ∀ pc : Fin 32, s.mem.merge.get pc = []) := by
  unfold Writable; decide +kernel

/-! ### Lattices (chapter 9) -/

/-- A leaky neuron with threshold 100 and reset potential 0. -/
def lif : Sys2Proof.Machine.PSet := PSet.ofWords 0 100 0 0xFFFF 0 0

theorem meets_NeuronVisitLaw :
    (15 < 16 ∧ low 24 ((0 : Int) - nfld 0 56 24) ≤ nfld 0 40 8) ∧
    (lif.model = 0 ∧ Nat.testBit 0 80 = false ∧ lif.carry = false ∧ nfld 0 40 8 < low 24 ((1 : Int) - nfld 0 56 24) ∧ lif.refract < 256 ∧
      (-(2 ^ 23) ≤ lif.vReset ∧ lif.vReset < 2 ^ 23)) := by
  decide

/-- Kiln 5 with one neuron, a shelf of zeros but for its record, in WHEEL mode. -/
def kiln (rd : Nat) : State :=
  let s := put on [(PG.lat 5, R.PG_CTL, 1), (PG.lat 5, R.LAT_CTL, 1), (PG.kln 5, R.KLN_CTL, 1), (PG.spk 7, R.MODE_STS, 2),
    (PG.spk 6, R.ING_STEP, 16), (PG.shf 5, R.SHF_ANNX, 1)]
  { s with
    dtc := 1000000000
    mem := { s.mem with
      zeros := [(shelfBase 5, shelfBase 5 + shelfBytes)]
      cells := (leBytes 48 rd).zipIdx.filterMap fun b => if b.1 = 0 then none else some (shelfBase 5 + b.2, b.1) } }

theorem meets_KilnStepsAndCourses_step :
    on.running (PG.lat 5) = false ∧
    (let s := kiln 0
     let l := s.lat.get 5
     s.mayStart 5 = true ∧ l.run = none ∧ s.inboxLevel 5 l.resident = 0 ∧ l.cancels = [] ∧ l.ahead = [] ∧ s.mode ≠ 1 ∧ l.buf = [] ∧ l.next.get l.resident = 0 ∧
       sdiff 24 0 (l.floor.get l.resident) ≤ 0 ∧ s.fld (PG.lat 5) R.LAT_CTL 0 19 = 1 ∧ s.scheduled 5 0 0 = false) ∧
    ((kiln (1 <<< 81)).mayStart 5 = true ∧ (kiln (1 <<< 81)).scheduled 5 0 0 = true) ∧
    ((on.lat.get 5).run = none ∧ ((kiln 0).fld (PG.lat 5) R.LAT_CTL 0 19 = 1) ∧
      ∀ i : Fin 2, (((kiln 0).latUpd 5 fun l => { l with run := some { slot := i.val, counted := false } }).lat.get 5).run =
        some { slot := i.val, counted := false }) := by
  decide +kernel

/-- In Cone mode, a packet of the step still on its way. -/
theorem meets_KilnStepsAndCourses_cone :
    let s := put (kiln 0) [(PG.spk 7, R.MODE_STS, 1), (PG.spk 7, R.CONE_CTL, 100)]
    let p : Packet := { key := 0, step := 0, value := 0, epoch := 0, cancel := false, src := 5 }
    let s := { s with spk := { s.spk with routers := s.spk.routers.set 0 { inq := (Vector.replicate 5 []).set 1 [p] } } }
    s.mode = 1 ∧ s.mayStart 5 = true ∧ (s.lat.get 5).run = none ∧ (s.lat.get 5).ahead = [] ∧ s.scheduled 5 0 0 = false ∧
      (s.lat.get 5).next.get 0 = 0 ∧ s.coneReady 5 0 = false ∧ (s.lat.get 5).buf.length < 4096 := by
  decide +kernel

/-- The leak sweep at a neuron one step short of 2^20 steps old, and at one that old. -/
theorem meets_KilnStepsAndCourses_leak :
    on.fld (PG.lat 5) R.LAT_CTL 0 19 = 0 ∧
    (∀ d : Fin 2, let s := (put (kiln 0) [(PG.lat 5, R.PS_CTL 0, 0x8000_0000)]).latUpd 5 fun l =>
        { l with floor := l.floor.set 0 (2 ^ 20 + d.val) }
     let l := s.lat.get 5
     let f := step24 (l.floor.get l.resident) (-1)
     let q := (s.latUpd 5 fun x => { x with sweep := 0 }).neuronRead 5 0
     s.fld (PG.lat 5) R.LAT_CTL 0 19 ≠ 0 ∧ s.alive (PG.lat 5) = true ∧ s.enabled (PG.lat 5) = true ∧ l.swap = none ∧
       q.1 = some (0, 0) ∧ (q.2.pset 5 0).valid = true ∧ (d = 0 → sdiff 24 f (nfld 0 56 24) < 2 ^ 20) ∧ (d = 1 → 2 ^ 20 ≤ sdiff 24 f (nfld 0 56 24))) := by
  decide +kernel

theorem meets_KilnStepsAndCourses_swap :
    on.maySwap 5 = false ∧ (put (kiln 0) [(PG.kln 5, R.KLN_CTL, 2)]).maySwap 5 = true ∧ (on.lat.get 5).swap = none ∧
    (let s := (kiln 0).latUpd 5 fun l => { l with swap := some (1, 0) }
     (s.lat.get 5).swap = some (1, 0) ∧ s.inboxLevel 5 1 = 0 ∧ (s.lat.get 5).cancels = []) := by
  decide +kernel

/-! ### Spike fabric (chapter 10) -/

/-- A packet of key 0 and one of its copies at kiln 5's port. -/
def spike : Packet := { key := 0, step := 0, value := 0, epoch := 0, cancel := false, src := 5 }
def arrived : LocalOut := { pkt := spike, ptr := 0, at_ := 0 }

/-- Router 0 with that packet at its input from the east, with a route table. -/
def router (rt : List (Nat × Nat)) : State :=
  let x : RouterState := { inq := (Vector.replicate 5 []).set 1 [spike], routes := rt }
  { put on [(PG.spk 0, R.PG_CTL, 1)] with spk := { on.spk with routers := on.spk.routers.set 0 x } }

theorem meets_PacketsThroughTheFabric_routers :
    (put on [(PG.spk 0, R.PG_CTL, 0)]).running (PG.spk 0) = false ∧
    (let s := router []
     s.running (PG.spk 0) = true ∧ routerKiln 0 = some 0 ∧ (s.lat.get 0).out = [] ∧
       (∀ j : Fin 5, j ≠ 1 → (s.spk.routers.get 0).inq.get j = []) ∧ (s.spk.routers.get 0).inq.get 1 = [spike] ∧
       s.inputReady 0 1 = true ∧ s.route 0 1 spike = .drop 0) ∧
    (let s := router [(0, 1 <<< 69 + 1 <<< 67)]
     s.inputReady 0 1 = true ∧ s.route 0 1 spike = .copies [3] 0 false ∧ (3 : Fin 5) ≠ 0 ∧ routerNext 0 3 = some (3, 4) ∧
       s.alive (PG.spk 3) = true ∧ spike.cancel = false) ∧
    (let s := router []
     let s := { s with spk := { s.spk with routers := s.spk.routers.set 0 { out := some arrived } } }
     s.alive (PG.spk 0) = true ∧ ({ s with dtc := 100000 } : State).stalled 0 0 = true ∧ ({ s with dtc := 99999 } : State).stalled 0 0 = false) := by
  decide +kernel

theorem meets_PacketsThroughTheFabric_bridges :
    (on.spk.routers.get 5).out = none ∧
    (∀ n : Fin 2, let s := put (kiln 0) [(PG.kln 5, R.KLN_PTR_COUNT, wOfNat n)]
     let m := { s.mem with cells := [(7, 0x80)], zeros := [(0, 32)] }
     let s := { s with mem := m, spk := { s.spk with routers := s.spk.routers.set 5 { out := some arrived } } }
     (s.spk.routers.get 5).out = some arrived ∧ s.running (PG.lat 5) = true ∧ arrived.held = none ∧
       (n = 0 → s.fld (PG.kln 5) R.KLN_PTR_COUNT 0 24 ≤ arrived.ptr) ∧
       (n = 1 → (s.rowPointer 5 0).1 = some (0, (s.lat.get 5).resident) ∧ (s.lat.get 5).swap = none ∧ s.inboxLevel 5 (s.lat.get 5).resident = 0 ∧
         spike.retimed = false ∧ (s.lat.get 5).buf.length < 4096 ∧ 0 < sdiff 24 (nearStep ((s.lat.get 5).next.get 0) 0) (s.lastBegun 5))) ∧
    on.spk.spool = [] ∧ ({ on with spk := { on.spk with spool := [spike] } } : State).alive (PG.spk 6) = true ∧
    ((on.spk.routers.get 6).inq.get 0).length < 64 ∧
    (let h : HeldSpike := { pkt := spike, step := 0xFFFFFF }
     let s := { put on [(PG.spk 7, R.PG_CTL, 1), (PG.spk 7, R.EGR_RING_SIZE, 1)] with spk := { on.spk with hold := [h] } }
     s.running (PG.spk 7) = true ∧ firstHeld (s.spk.hold.filter fun h => decide (sdiff 24 h.step s.floorMin < 0)) = some h ∧
       (s.fld (PG.spk 7) R.EGR_RING_HEAD 0 32 + 2 ^ 32 - s.fld (PG.spk 7) R.EGR_RING_TAIL 0 32) % 2 ^ 32 < s.fld (PG.spk 7) R.EGR_RING_SIZE 0 21 ∧
       spike.miss = none) := by
  decide +kernel

/-- A full input buffer holds the packet at the port. -/
theorem meets_PacketsThroughTheFabric_full :
    let s := put (kiln 0) [(PG.kln 5, R.KLN_PTR_COUNT, 1)]
    let m := { s.mem with cells := [(7, 0x80)], zeros := [(0, 32)] }
    let s := { s with mem := m, spk := { s.spk with routers := s.spk.routers.set 5 { out := some arrived } } }
    let s := s.latUpd 5 fun l => { l with buf := List.replicate 4096 { pkt := spike, step := 0, row := 0 } }
    (s.spk.routers.get 5).out = some arrived ∧ s.running (PG.lat 5) = true ∧
      (s.rowPointer 5 0).1 = some (0, (s.lat.get 5).resident) ∧ (s.lat.get 5).swap = none ∧
      s.inboxLevel 5 (s.lat.get 5).resident = 0 ∧ spike.cancel = false ∧ 4096 ≤ (s.lat.get 5).buf.length ∧
      0 < sdiff 24 (nearStep ((s.lat.get 5).next.get (s.lat.get 5).resident) spike.step) (s.lastBegun 5) := by
  decide +kernel

/-- Loads of 0, 1, 16,384 and 16,385 entries among them. -/
theorem meets_RouteTables :
    (Writable on (PG.spk 7) ∧ (put on [(PG.spk 7, R.PG_CTL, 1)]).enabled (PG.spk 7) = true) ∧
    (let s := put on [(PG.spk 7, R.PG_CTL, 0)]
     Writable s (PG.spk 7) ∧ s.enabled (PG.spk 7) = false ∧ (s.spk.routers.get 7).load = none ∧ s.itemFree .ordinary = true ∧
       bf (0 : Word) 0 15 = 0 ∧ 16384 < bf (16385 : Word) 0 15 ∧
       ¬ (16384 < bf (16384 : Word) 0 15 ∨ s.hbmAligned (s.reg (PG.spk 7) R.RT_LOAD_ADDR).toNat (16 * 16384) 64 = false)) ∧
    (let s := put on [(PG.spk 7, R.RT_LOAD_ADDR, 32)]
     s.hbmAligned (s.reg (PG.spk 7) R.RT_LOAD_ADDR).toNat (16 * 1) 64 = false) ∧
    (let s := { busy on (PG.spk 7) with spk := { on.spk with routers := on.spk.routers.set 7 { load := some (5, 0, 1) } } }
     (s.spk.routers.get 7).load = some (5, 0, 1)) ∧
    (on.spk.routers.get 7).load = none := by
  unfold Writable; decide +kernel

/-- Page 0x06F in a mode, steps of 16 ticks, Cone steps of 100 µs, kiln 5's one course at a floor, count windows of 100 steps. -/
def wheel (mode : Word) (floor : Nat) : State :=
  (put (kiln 0) [(PG.spk 7, R.MODE_STS, mode), (PG.spk 7, R.CONE_CTL, 100), (PG.spk 7, R.CW_CTL, 0x0001_0000_0000_0064),
    (PG.kln 5, R.KLN_CW_MAP, 0x1000_0000_0000), (PG.lat 5, R.LAT_SLIP_LIMIT, 1)]).latUpd 5 fun l => { l with floor := l.floor.set 0 floor }

theorem meets_FloorModesAndCountWindows_modes :
    (on.mode = 0 ∧ (put on [(PG.spk 6, R.ING_STEP, 0)]).whlFails (would on (PG.spk 7) R.WHL_CTL 1) ≠ [] ∧
      (put on [(PG.spk 7, R.CONE_CTL, 99)]).whlFails (would on (PG.spk 7) R.WHL_CTL 1) ≠ [] ∧ Writable on (PG.spk 7) ∧ on.bit (PG.spk 7) R.WHL_CTL 0 = false ∧
      bitAt (would on (PG.spk 7) R.WHL_CTL 1) 0 = true) ∧
    (let s := wheel 0 0
     Writable s (PG.spk 7) ∧ s.mode = 0 ∧ s.whlFails (would s (PG.spk 7) R.WHL_CTL 1) = []) ∧
    (let s := wheel 2 0
     s.alive (PG.spk 7) = true ∧ s.mode = 2 ∧ s.ingLen ≠ 0 ∧ (5, 0) ∈ s.allCourses ∧ (5, 1) ∉ s.allCourses) ∧
    (let s := put (wheel 2 0) [(PG.spk 7, R.WHL_CTL, 1)]
     s.bit (PG.spk 7) R.WHL_CTL 0 = true ∧ bitAt (would s (PG.spk 7) R.WHL_CTL 0) 0 = false) := by
  unfold Writable; decide +kernel

/-- Barriers with the course one step short of the boundary, and at it. -/
theorem meets_FloorModesAndCountWindows_barriers :
    (let s := wheel 1 99
     s.mode = 1 ∧ s.committed (step24 s.spk.cone s.coneLen) = false) ∧
    (let s := wheel 1 100
     s.mode = 1 ∧ s.alive (PG.spk 7) = true ∧ s.committed (step24 s.spk.cone s.coneLen) = true ∧ s.spk.first = false ∧
       ({ s with spk := { s.spk with toWheel := true } } : State).spk.toWheel = true) ∧
    (∀ n : Fin 2, let s := wheel 3 (99 + n.val)
     let s := { s with spk := { s.spk with drainTo := some 100 } }
     s.mode = 3 ∧ s.alive (PG.spk 7) = true ∧ s.spk.drainTo = some 100 ∧ s.committed 100 = (n == 1)) ∧
    on.cwOn 5 = false ∧
    (let s := wheel 2 100
     s.cwOn 5 = true ∧ s.enabled (PG.lat 5) = true ∧ 0 ≤ sdiff 24 (s.kilnFloor 5) (s.cwFirst ((s.lat.get 5).cw + 1))) := by
  decide +kernel

/-! ### Facets (chapter 11) -/

/-- The 256 bytes of a descriptor: an E4M3 pooling of one element by one, from 0x10000 to 0x20000. -/
def pooling : Nat :=
  0x2021 + (1 + 1 <<< 16 + 1 <<< 32) <<< 64 + 1 <<< 256 + 0x10000 <<< 320 + (64 + 64 <<< 32) <<< 384 + 0x20000 <<< 448
    + (64 + 64 <<< 32) <<< 512 + 0x1111 <<< 960

/-- The facet of kiln 5 with a ring of two entries, and that descriptor (or zeros) in the first of them; one item waits. -/
def facet (d : Nat) : State :=
  let s := put on [(PG.fct 5, R.PG_CTL, 1), (PG.fct 5, R.FCT_Q_SIZE, 8)]
  { busy (stored s 0x30000 0 256 d) (PG.fct 5) with fct := on.fct.set 5 { items := [5] } }

theorem meets_FacetDescriptors_submit :
    (let s := facet 0
     let tail := fun v : Word => bf (would s (PG.fct 5) R.FCT_Q_TAIL v) 0 32
     Writable s (PG.fct 5) ∧ s.fctSize 5 = 8 ∧ tail 8 = 8 ∧ tail 9 = 9 ∧ s.fld (PG.fct 5) R.FCT_Q_TAIL 0 32 = 0 ∧
       s.fld (PG.fct 5) R.FCT_Q_HEAD 0 32 = 0 ∧ s.ldg.items.length + 8 + s.reserve ≤ ledgerItems) ∧
    (let s := full (facet 0)
     ledgerItems < s.ldg.items.length + 1 + s.reserve) := by
  unfold Writable; decide +kernel

theorem meets_FacetDescriptors_run :
    (on.fct.get 5).items = [] ∧ (on.fct.get 5).run = none ∧
    (∀ n : Fin 2, let s := facet (if n = 0 then 0 else pooling)
     let r := s.readBytes (s.descAddr 5 0) 256
     let d : Desc := { w := (List.range 32).map fun i => leNat ((r.1.bytes.drop (8 * i)).take 8) }
     let s1 := ((r.2.fctUpd 5 fun y => { y with items := [] }).setFld (PG.fct 5) R.FCT_Q_HEAD 0 32 1).itemNames 5 (d.w.getD 0 0)
     s.running (PG.fct 5) = true ∧ (s.fct.get 5).run = none ∧ s.bit (PG.fct 5) R.FCT_STS 1 = false ∧ (s.fct.get 5).items = [5] ∧
       r.1.bad = false ∧ (n = 0 → s1.descWhy 5 d = 3) ∧ (n = 1 → s1.descWhy 5 d = 0 ∧ d.empty = false)) ∧
    (let run : FctRun := { item := 5, tag := 0, index := 0, status := .ok, start := 0, outs := [] }
     let s := { facet 0 with fct := on.fct.set 5 { run := some run } }
     (s.fct.get 5).run = some run ∧ s.alive (PG.fct 5) = true ∧ run.status.isFail = false ∧
       ({ run with status := .failInvalid } : FctRun).status.isFail = true) := by
  decide +kernel

/-! ### Stack contexts (chapter 12) -/

/-- Context 1 of kiln 5 for the 16 by 16 pixels of port 7, its input map and tags in the shelf, which holds zeros. -/
def context (ctl : Word) (x : IncState) : State :=
  let s := put on [(PG.fct 5, R.PG_CTL, 1), (PG.fct 5, R.INC_CTL 1, ctl), (PG.fct 5, R.INC_HALF 1, 65536), (PG.fct 5, R.INC_STS 1, 1),
    (PG.fct 5, R.INC_IN_ADDR 1, wOfNat (shelfBase 5)), (PG.fct 5, R.INC_IN_TAG 1, wOfNat (shelfBase 5 + 0x4000)),
    (PG.fct 5, R.INC_RO_CTL 1, 0x10), (PG.fct 5, R.INC_RO_ADDR 1, 0x10000), (PG.fct 5, R.INC_RO_PITCH 1, 0x4000_0000_0400),
    (PG.fct 5, R.LAY_GEOM 1 0, 0x0111_1111), (PG.shf 5, R.SHF_MAPS, 0x8_0000_0000), (PG.sp 7, R.SP_CTL, 1),
    (PG.sp 7, R.SP_GEOM, 0x10_0010)]
  let s := { busy s (PG.fct 5) with mem := { s.mem with zeros := [(shelfBase 5, shelfBase 5 + shelfBytes)] } }
  s.incUpd 5 1 fun _ => { x with geom := (16, 16) }

theorem meets_IncrementalEventsAndRebase :
    on.incRuns 5 1 = false ∧
    (let s := context 0x1_000F { q := [0] }
     let x := s.ictx 5 1
     let s1 := s.incUpd 5 1 fun y => { y with q := [] }
     let q := s1.lookPos (s.incBase 5 1) 0
     let s2 := q.2.2.incCount 5 1 R.INC_CNT0 0 32 1
     let e := q.2.2.incE 5 1 q.1
     let m := q.2.2.inMap 5 1 0
     s.incRuns 5 1 = true ∧ s.incOwes 5 1 = false ∧ s.incMode 5 1 ≠ 2 ∧ x.q = [0] ∧ q.2.2.incLayers 5 1 = 0 ∧
       (e / 65536).toNat / q.2.2.incRenorm 5 1 = 0 ∧ (s2.posRead 5 1 m (m.ix 0 0)).1 = some [0, 0]) ∧
    (let s := context 0x1_000F { rebReq := true }
     s.incRuns 5 1 = true ∧ (s.ictx 5 1).reb = none ∧ (s.ictx 5 1).rebReq = true ∧ Writable s (PG.fct 5) ∧ s.incEn 5 1 = true) ∧
    (∀ row ∈ [14, 15], let r : Rebase := { layer := 0, row, start := 0, seen := [] }
     let s := context 0x1_001F { reb := some r }
     (s.ictx 5 1).reb = some r ∧ s.incRuns 5 1 = true ∧ (s.ictx 5 1).q = [] ∧ (s.ictx 5 1).ro = none ∧
       ((s.incLays 5 1)[r.layer]?).any (fun l => decide (l.hOut = 16)) = true ∧
       (s.incUpd 5 1 fun y => { y with q := [0], needReb := true }).incOwes 5 1 = true) ∧
    (let r : Rebase := { layer := 1, row := 0, start := 0, seen := [] }
     let s := context 0x1_001F { reb := some r }
     (s.ictx 5 1).reb = some r ∧ s.incRuns 5 1 = true ∧ min 4 (s.incLayers 5 1) ≤ r.layer) ∧
    (Writable on (PG.fct 5) ∧ on.incEn 5 1 = false) := by
  unfold Writable; decide +kernel

theorem meets_IncrementalClearReadoutDetection_clear :
    (Writable on (PG.fct 5) ∧ bitAt (1 : Word) 0 = true ∧ bitAt (1 : Word) 1 = false ∧ (on.ictx 5 1).clear = none ∧
      on.itemFree .ordinary = true ∧ on.spEn (on.incPort 5 1) = false) ∧
    (let s := context 0x1_000E {}
     s.incEn 5 1 = false ∧ ¬ (s.incEn 5 1 = true ∨ s.spEn (s.incPort 5 1) = false ∨ s.incAddrBad 5 1 = true) ∧ s.itemFree .ordinary = true) ∧
    ((context 0 { clear := some 5 }).ictx 5 1).clear = some 5 ∧
    (let s := context 0x1_000E {}
     let new := would s (PG.fct 5) (R.INC_CTL 1) 0x1_000F
     bitAt (s.reg (PG.fct 5) (R.INC_CTL 1)) 0 = false ∧ bitAt new 0 = true ∧ bf (s.reg (PG.fct 5) (R.INC_CTL 1)) 4 6 = bf new 4 6 ∧
       (s.setReg (PG.fct 5) (R.INC_CTL 1) (putBit new 0 false)).incWhy 5 1 = 0) ∧
    (let s := context 0x1_000E {}
     let new := would s (PG.fct 5) (R.INC_CTL 1) 0x1_001F
     bitAt new 0 = true ∧ bf (s.reg (PG.fct 5) (R.INC_CTL 1)) 4 6 ≠ bf new 4 6 ∧
       ((s.setReg (PG.fct 5) (R.INC_CTL 1) (putBit new 0 false)).setBit (PG.fct 5) (R.INC_STS 1) 0 false).incWhy 5 1 ≠ 0) ∧
    (let s := context 0x1_000F {}
     bitAt (s.reg (PG.fct 5) (R.INC_CTL 1)) 0 = true ∧ would s (PG.fct 5) (R.INC_CTL 1) 0x1_010F ≠ s.reg (PG.fct 5) (R.INC_CTL 1) ∧
       bitAt (would s (PG.fct 5) (R.INC_CTL 1) 0x1_000E) 0 = false ∧ (s.ictx 5 1).q = []) := by
  unfold Writable; decide +kernel

theorem meets_IncrementalClearReadoutDetection_runs :
    (on.ictx 5 1).ro = none ∧ (on.ictx 5 1).det = none ∧
    (let r : RoRun := { item := 5, chain := 0, win := 0, place := 0 }
     let s := context 0x1_000F { ro := some r, det := some { item := 5, chain := 0 } }
     (s.ictx 5 1).ro = some r ∧ r.status = none ∧ s.running (PG.fct 5) = true ∧ s.incEn 5 1 = true ∧ s.incF 5 1 R.INC_RO_CTL 0 4 ≤ 4 ∧
       (s.ictx 5 1).det = some { item := 5, chain := 0 } ∧ (context 0x1_000E { ro := some r }).incEn 5 1 = false) ∧
    (let s := context 0x1_000F { ro := some { item := 5, chain := 0, win := 0, place := 0, status := some .ok }, det := some { item := 5, chain := 0, status := some .ok } }
     ((s.ictx 5 1).ro.bind fun r => r.status) = some .ok ∧ ((s.ictx 5 1).det.bind fun r => r.status) = some .ok ∧
       (s.item? 5).map (fun i => i.poisoned) = some false) := by
  decide +kernel

/-! ### The rate chain (chapter 13) -/

/-- The chapter's example: profile 2, channel 100, and minimum-phase channel 15 with one section that only passes on. -/
def rate (lag : Word) : State :=
  put on [(PG.rch, R.PRF_CIC 2, 0xC_0019), (PG.rch, R.PRF_FIR 2, 0x4_8400_23C0), (PG.rch, R.PRF_DET 2, 0x03E8_012A_0206_0190),
    (PG.rch, R.PRF_SPAN 2, 0x1_0000_0000_0000), (PG.rch, R.RCH_CH 100, 0x67_2064), (PG.rch, R.MP_CTL 15, 0x1A_1865),
    (PG.rch, R.MP_DET 15, 0x03E8_010A_0206_0190), (PG.rch, R.MP_TRIP 15, 0x7D0_0000_0FA0), (PG.rch, R.MP_SETTLE 15, 1000),
    (PG.rch, R.MP_EDGE 15, 2000), (PG.rch, R.RCH_LAG, lag)]

/-- The rate chain running at a DTC. -/
def rating (dtc : Word) : State := { put on [(PG.rch, R.RCH_CTL, 1), (PG.rch, R.RCH_LAG, 1)] with dtc }

theorem meets_RateChainRunAndBins_bins :
    (rating 1999).binDue = false ∧ (rating 2000).binDue = true ∧
    (Sp.get ({} : LpState) on.rch.lp 2047).out.gather = none ∧
    (let s := fun dtc : Word => { on with dtc, rch := { on.rch with lp := [(2047, { out := { gather := some (7, 5, []) } })] } }
     (Sp.get ({} : LpState) (s 0).rch.lp 2047).out.gather = some (7, 5, []) ∧ ((s 1000004).dtc - 5).toNat < 1000000 ∧
       1000000 ≤ ((s 1000005).dtc - 5).toNat) := by
  decide

theorem meets_RateChainRunAndBins_run :
    (∀ lag : Fin 2, let s := rate (if lag = 0 then 0 else 1001)
     let s1 := s.setReg PG.rch R.RCH_CTL (would s PG.rch R.RCH_CTL 1)
     let x := s.fld PG.rch R.RCH_LAG 0 10
     Writable s PG.rch ∧ s.rchRun = false ∧ s1.rchRun = true ∧ (x = 0 ∨ 1000 < x)) ∧
    (let s := rate 1000
     let s1 := s.setReg PG.rch R.RCH_CTL (would s PG.rch R.RCH_CTL 1)
     Writable s PG.rch ∧ s.rchRun = false ∧ s1.rchRun = true ∧ s.fld PG.rch R.RCH_LAG 0 10 = 1000 ∧ s1.lpEnabled = [100] ∧
       s1.fld PG.rch (R.RCH_CH 100) 12 4 = 2 ∧ s1.profileFails 2 = [] ∧ s1.bit PG.rch (R.MP_CTL 15) 11 = true ∧
       (∀ m : Fin 16, s1.bit PG.rch (R.MP_CTL m) 11 = true → s1.mpFails m = []) ∧ s1.rchLoad.1 ≤ 12800 * s1.rchLoad.2) ∧
    (let s := rating 0
     let s1 := s.setReg PG.rch R.RCH_CTL (would s PG.rch R.RCH_CTL 0)
     Writable s PG.rch ∧ s.rchRun = true ∧ s1.rchRun = false) := by
  unfold Writable; decide +kernel

theorem meets_RateChainRunAndBins_map :
    (let s := { busy on PG.rch with rch := { on.rch with load := some (7, 5, 0x1000) } }
     s.rch.load.isSome = true ∧ s.rch.load = some (7, 5, 0x1000) ∧ (s.item? 5).map (fun i => i.poisoned) = some false) ∧
    (on.rch.load = none ∧ on.itemFree .ordinary = true ∧ on.spEn 7 = false ∧ baseOf (bf (7 : Word) 0 3) = 7) ∧
    (let s := put on [(PG.sp 7, R.SP_CTL, 1), (PG.sp 7, R.SP_GEOM, 0x10_0010), (PG.rch, R.RCH_MAP_ADDR, 64)]
     s.rch.load = none ∧ s.itemFree .ordinary = true ∧ s.spEn 7 = true ∧ 64 % 64 = 0 ∧ s.inHbm 64 (2 * s.tileCount 7) = true) ∧
    (full (busy on 0)).rch.load = none ∧ (full (busy on 0)).itemFree .ordinary = false := by
  decide

/-! ### Models, jobs and results (chapter 14) -/

/-- A completion for queue 63 that waits. -/
def done (q : Nat) : Completion := { item := 5, page := PG.scb, cq := q, status := .ok, tag := 0, detail := 0, stalled := false, zero := false, decided := none }

/-- It waits with queue `on_` enabled for 16 entries. -/
def posting (on_ q : Nat) : State :=
  let s := put on [(PG.ldg, R.CQ_CTL on_, 1), (PG.ldg, R.CQ_SIZE on_, 16)]
  { s with ldg := { s.ldg with waiting := [done q] } }

/-- The queue that a completion names, and queue 0 for one that names a disabled queue. -/
theorem meets_LedgerAndQueues_post :
    on.ldg.waiting = [] ∧
    ∀ x ∈ [(63, 63), (0, 63)], let s := posting x.1 x.2
      s.alive PG.ldg = true ∧ s.stopped PG.ldg = false ∧ s.ldg.waiting = [done x.2] ∧ s.cqFor (done x.2) = some x.1 ∧
        s.cqRoom x.1 = true := by
  decide

theorem meets_LedgerAndQueues_timeout :
    (let s := fun (en : Word) (dtc : Word) => { put (busy on PG.scb) [(PG.ldg, R.LDG_CTL, 0x10000 + en)] with dtc }
     let found := fun s : State => s.ldg.items.find? fun i => i.idx % ledgerItems == 5 && !i.closed
     found (s 0 0) = some (item PG.scb) ∧ (s 0 0).bit PG.ldg R.LDG_CTL 0 = false ∧
       ((s 1 999999).dtc - (item PG.scb).opened).toNat < 1000000 ∧
       found (s 1 1000000) = some (item PG.scb) ∧ (s 1 1000000).alive PG.ldg = true ∧ (s 1 1000000).stopped PG.ldg = false ∧
       (item PG.scb).load = false ∧ (s 1 1000000).bit PG.ldg R.LDG_CTL 0 = true ∧ (s 1 0).fld PG.ldg R.LDG_CTL 16 16 = 1 ∧
       1000000 ≤ ((s 1 1000000).dtc - (item PG.scb).opened).toNat) := by
  decide

theorem meets_LedgerAndQueues_enable :
    Writable on PG.ldg ∧
    (let new := would on PG.ldg R.LDG_CTL 1
     bitAt new 0 = true ∧ bf new 16 16 = 0) ∧
    bitAt (would on PG.ldg R.LDG_CTL 0) 0 = false ∧ bf (would on PG.ldg R.LDG_CTL 0x10001) 16 16 ≠ 0 ∧
    (on.cqOn 63 = false ∧ bitAt (would on PG.ldg (R.CQ_CTL 63) 1) 0 = true ∧ on.cqGood 63 = false) ∧
    (let s := put on [(PG.ldg, R.CQ_SIZE 63, 65536)]
     Writable s PG.ldg ∧ s.cqOn 63 = false ∧ s.cqGood 63 = true) := by
  unfold Writable; decide

/-- Port 7 with a position window of mode 2 or a register for it. -/
def windowed (ctl : Word) (l : List Win) : State :=
  let s := put on [(PG.res, R.WIN_CTL 7, ctl), (PG.res, R.WIN_SPAN 7, 1), (PG.adm, R.ADM_P_TDELIVER 7, 200)]
  { s with res := { s.res with wins := s.res.wins.set 7 l } }

/-- Window 3 of a port. -/
def window (due : Bool) (first : Option Word) : Win := { k := 3, start := 0, stop := 1, openDtc := 0, due, first }

theorem meets_WindowsChainsAndBatches_enable :
    Writable on PG.res ∧
    (let s := put (windowed 1 []) [(PG.sp 7, R.SP_CTL, 1)]
     Writable s PG.res ∧ s.winMode 7 ≠ 0 ∧ s.bit (PG.sp 7) R.SP_CTL 0 = true) ∧
    (let new := would on PG.res (R.WIN_CTL 7) 3
     on.winMode 7 = 0 ∧ bf new 0 2 ≠ 0 ∧ on.winBad 7 new = true) ∧
    (let s := windowed 0 []
     let new := would s PG.res (R.WIN_CTL 7) 0xC7_0000_0002
     Writable s PG.res ∧ s.winMode 7 = 0 ∧ bf new 0 2 ≠ 0 ∧ s.winBad 7 new = false) ∧
    (let s := on
     s.bit PG.res (R.RING_CTL 31) 0 = false ∧ bitAt (would s PG.res (R.RING_CTL 31) 1) 0 = true ∧
       ¬ (16 ≤ s.fld PG.res (R.RING_SIZE 31) 0 5)) ∧
    (let s := put on [(PG.res, R.RING_SIZE 31, 30), (PG.res, R.RING_BASE 31, 0x1000)]
     Writable s PG.res ∧ s.bit PG.res (R.RING_CTL 31) 0 = false ∧ s.fld PG.res (R.RING_SIZE 31) 0 5 = 30 ∧
       s.inHbm 0x1000 (2 ^ 30) = true) := by
  unfold Writable; decide +kernel

theorem meets_WindowsChainsAndBatches_close :
    on.wins 7 = [] ∧ on.res.chains.get 7 = [] ∧
    (let w := window true none
     let s := windowed 2 [w]
     s.wins 7 = [w] ∧ s.winMode 7 = 2 ∧ w.due = true ∧ s.running PG.res = true ∧ s.fld PG.res R.PG_PWR 0 2 = 0 ∧ s.winHeld 7 = false ∧
       s.winDrains 7 (w.drainAt.getD s.dtc) = false ∧ s.itemFree .chain = true ∧ s.bit PG.res R.MDL_STS 3 = false) ∧
    (let w := window false (some 0)
     let s := { windowed 0xC7_0000_0002 [w] with dtc := 1000 }
     (s.wins 7).getLast? = some w ∧ w.first = some 0 ∧ w.due = false ∧ s.winMode 7 = 2 ∧ s.alive PG.res = true ∧
       before s.dtc (0 + wOfNat (s.tDeliver 7) - wOfNat (s.fld PG.res (R.WIN_CTL 7) 32 17 * 1000)) = false ∧
       s.bit PG.res R.MDL_STS 3 = false) ∧
    (let s := { busy on PG.res with res := { on.res with chains := on.res.chains.set 7 [chain 6 0] } }
     s.res.chains.get 7 = [chain 6 0] ∧ (chain 6 0).item = some 5 ∧ (chain 6 0).step = 6 ∧ s.alive PG.res = true ∧ s.stopped PG.res = false) ∧
    (on.batch 7 (batchKindOf 2)).entries = [] ∧
    (∀ k : Fin 3, let s := fun dtc : Word => { on.setBatch 7 (batchKindOf k) { entries := [List.replicate 8 0], first := 5 } with dtc }
     let b := fun dtc => (s dtc).batch 7 (batchKindOf k)
     (s 100005).running PG.res = true ∧ (b 100005).entries ≠ [] ∧ 100000 ≤ ((s 100005).dtc - (b 0).first).toNat ∧
       ((s 100004).dtc - (b 0).first).toNat < 100000) := by
  decide +kernel

/-- Every item of the ledger in flight: a due window closes, and its chain waits without an item. -/
theorem meets_WindowsChainsAndBatches_full :
    (let w := window true none
     let s := windowed 2 [w]
     let s := { s with ldg := { s.ldg with items := List.replicate 16384 (item 0) } }
     let c := { chain 1 0 with item := none }
     let t := { s with res := { s.res with chains := s.res.chains.set 7 [c] } }
     s.itemFree .chain = false ∧ s.wins 7 = [w] ∧ s.res.chains.get 7 = [] ∧ t.res.chains.get 7 = [c] ∧ c.item = none ∧
       t.itemFree .chain = false) := by
  simp only [State.itemFree, List.length_replicate]; decide +kernel

theorem meets_ModelLoad_start :
    Writable on PG.res ∧ (put on [(PG.res, R.MDL_STS, 2)]).bit PG.res R.MDL_STS 1 = true ∧
    on.bit PG.res R.MDL_STS 1 = false ∧ on.bit PG.res R.MDL_STS 3 = false ∧ on.itemFree .load = true ∧ on.fld PG.res R.MDL_LEN 0 40 = 0 ∧
    (let s := put on [(PG.res, R.MDL_LEN, 640)]
     s.bit PG.res R.MDL_STS 1 = false ∧ s.bit PG.res R.MDL_STS 3 = false ∧ s.itemFree .load = true ∧ s.fld PG.res R.MDL_LEN 0 40 ≠ 0) ∧
    on.res.mdl.item = none := by
  unfold Writable; decide

/-- Every item of the ledger in flight: no load starts. -/
theorem meets_ModelLoad_full : ({ on with ldg := { on.ldg with items := List.replicate 16384 (item 0) } } : State).itemFree .load = false := by
  simp only [State.itemFree, List.length_replicate]; decide

/-- A load of 640 bytes from 0x1000 that runs as item 5, of what HBM holds there. -/
def loading (a v : Nat) : State :=
  let s := stored (busy (put on [(PG.res, R.MDL_STS, 2)]) PG.res) 0x2000 0x1000 640 v
  { s with res := { s.res with mdl := { item := some 5, addr := a, len := 640 } },
           sgr := { s.sgr with record := some (List.replicate 48 0 ++ ptBytes g521 ++ List.replicate 587 0) } }

theorem meets_ModelLoad_fails :
    (let s := loading (2 ^ 40 - 640) 0
     s.res.mdl.item = some 5 ∧ s.bit PG.res R.MDL_STS 1 = true ∧ s.alive PG.res = true ∧
       (s.item? 5).map (fun i => i.poisoned) = some false ∧ s.inHbm s.res.mdl.addr s.res.mdl.len = false) ∧
    (let s := loading 0x1000 0
     let q := s.readBytes 0x1000 640
     s.inHbm s.res.mdl.addr s.res.mdl.len = true ∧ q.1.bad = false ∧ q.2.ldg = s.ldg ∧ s.imgFormat q.1.bytes false = false ∧
       q.2.imgFormat q.1.bytes false = false) := by
  decide +kernel

/-- A header with no section and its signature block: the key hash, r and s, by the key 1 of P-521 (FIPS 186-5: with the secret 1 too,
r is the base point's x and s is the hash plus r, modulo the order). -/
def image : Nat :=
  0x5452_4C4D + 1 <<< 32 + 640 <<< 64 + 0x1234 <<< 128 + 384 <<< 224
    + 0xEDE18845DDBC88F98985EDD0F861E923C743140AC73801E5D6F5F546AB3352D44A38D62C8F55EA5C48FD54E278DD3B8934106FACE5253FA1BF2938437E52B0C9C60066BDE5C2317E7EF99B426A85C1B34833DEA8FFA227C11DFE2859E7EF775E4BA1BA3D4D6B60AF28F821B53F053981649C42B4952366CB3E9ECDE90404B7068E85C60080865E0012FC5AEEEFAAC21C66222FD4375BF6747F73BABAF48CE9C06A67B927 <<< 3072

/-- The load of that image. -/
def loadingImage : State := loading 0x1000 image

/-- Where `stored` put a byte. -/
theorem find_stored (a : Nat) (l : List Byte) : ∀ k j : Nat,
    Sp.find ((l.zipIdx k).filterMap fun b => if b.1 = 0 then none else some (a + b.2, b.1)) (a + k + j)
      = if l.getD j 0 = 0 then none else some (l.getD j 0) := by
  induction l with
  | nil => intro k j; simp [Sp.find]
  | cons x r ih =>
    intro k j
    rw [List.zipIdx_cons, List.filterMap_cons]
    cases j with
    | zero =>
      by_cases hx : x = 0
      · have hlt : ∀ (m : List (Nat × Byte)), (∀ e ∈ m, a + k < e.1) → Sp.find m (a + k) = none := by
          intro m hm
          induction m with
          | nil => rfl
          | cons e m ihm =>
            obtain ⟨e1, e2⟩ := e
            have h1 := hm (e1, e2) (by simp)
            simp only [Sp.find]
            rw [if_neg (by simp only at h1; omega)]
            exact ihm fun y hy => hm y (by simp [hy])
        simp only [hx, if_true, List.getD_cons_zero, Nat.add_zero]
        apply hlt
        intro e he
        obtain ⟨b, hb, hbe⟩ := List.mem_filterMap.mp he
        have hk := List.le_snd_of_mem_zipIdx hb
        split at hbe
        · cases hbe
        · cases hbe
          simp only
          omega
      · rw [if_neg hx]
        simp only [List.getD_cons_zero, Nat.add_zero, if_neg hx, Sp.find, if_true]
    | succ j =>
      have h := ih (k + 1) j
      have e1 : a + (k + 1) + j = a + k + (j + 1) := by omega
      rw [e1] at h
      by_cases hx : x = 0
      · simpa [hx] using h
      · simp only [hx, if_false, Sp.find, List.getD_cons_succ]
        rw [if_neg (by omega)]
        exact h

/-- What reading the image gives: its bytes, clean. -/
theorem meets_ModelLoad_read :
    loadingImage.readBytes 0x1000 640 = ({ bytes := leBytes 640 image, bad := false }, { loadingImage with free := loadingImage.free + 20 }) := by
  have hb : ∀ j, j < 32 * 20 → loadingImage.mem.byte? (0x1000 + j) = some ((leBytes 640 image).getD j 0) := by
    intro j hj
    have h := find_stored 0x1000 (leBytes 640 image) 0 j
    have hz : Iv.has loadingImage.mem.zeros (0x1000 + j) = true := by
      show Iv.has [(0, 0x2000)] (0x1000 + j) = true
      simp [Iv.has]; omega
    have hc : Sp.find loadingImage.mem.cells (0x1000 + j) = if (leBytes 640 image).getD j 0 = 0 then none else some ((leBytes 640 image).getD j 0) := h
    unfold MemState.byte?
    rw [hc, hz]
    split <;> simp_all
  have hl : (leBytes 640 image).length = 640 := by decide +kernel
  have hw := State.readWords_clean (s := loadingImage) (by decide +kernel) rfl rfl 20 0x1000 (fun j hj => by rw [hb j hj]; rfl)
  have hm : ((List.range (32 * 20)).map fun j => (loadingImage.mem.byte? (0x1000 + j)).getD 0) = leBytes 640 image := by
    apply List.ext_getElem
    · simp [hl]
    · intro j h1 h2
      simp only [List.length_map, List.length_range] at h1
      simp only [List.getElem_map, List.getElem_range]
      rw [hb j h1]
      simp [List.getD_eq_getElem?_getD, List.getElem?_eq_getElem h2]
  have hs : shelfOf 0x1000 640 = none := by decide
  have hh : loadingImage.inHbm 0x1000 640 = true := by decide +kernel
  simp only [State.readBytes, hs, hh, wordSize]
  rw [show (0x1000 / 32 * 32 : Nat) = 0x1000 from rfl,
    show (if (640 : Nat) = 0 then 0 else (0x1000 + 640 - 1) / 32 - 0x1000 / 32 + 1) = 20 from rfl, hw, hm]
  simp [List.take_of_length_le (Nat.le_of_eq hl)]

/-- The image passes every check (the reading changed the free counter alone). -/
theorem meets_ModelLoad_ok :
    let q := loadingImage.readBytes 0x1000 640
    let im := q.1.bytes
    loadingImage.res.mdl.item = some 5 ∧ loadingImage.bit PG.res R.MDL_STS 1 = true ∧ loadingImage.alive PG.res = true ∧
      (loadingImage.item? 5).map (fun i => i.poisoned) = some false ∧ loadingImage.inHbm 0x1000 640 = true ∧ q.1.bad = false ∧ q.2.ldg = loadingImage.ldg ∧ loadingImage.res.mdl.patch = false ∧
      q.2.imgFormat im false = true ∧ targetsOk im (imgSects im) = true ∧ imgSects im = [] := by
  rw [meets_ModelLoad_read]
  decide +kernel

theorem meets_ModelLoad_signed : (loadingImage.readBytes 0x1000 640).2.imgSigned (loadingImage.readBytes 0x1000 640).1.bytes = true := by
  rw [meets_ModelLoad_read]
  decide +kernel

theorem meets_ModelLoad_checks :
    let q := loadingImage.readBytes 0x1000 640
    let im := q.1.bytes
    (q.2.extendM (sha512 (im.take (im.length - 256))) 4).loadChecks im (imgSects im) = none := by
  rw [meets_ModelLoad_read]
  decide +kernel

/-! ### Memory upkeep, scrub and fill (chapter 15) -/

/-- Pseudo-channel 0 gathers `n` bytes for word 0 since DTC 5. -/
def gathering (n : Nat) (dtc : Word) : State :=
  let e : MergeEntry := { word := 0, bytes := (List.range n).map fun i => (i, 1), first := 5, items := [] }
  { on with dtc, mem := { on.mem with merge := on.mem.merge.set 0 [e] } }

theorem meets_MemoryUpkeep_merge :
    let old := fun s : State => (s.mem.merge.get 0).filter fun e => decide (128 ≤ (s.dtc - e.first).toNat)
    old (gathering 32 132) = [] ∧
    (∀ n ∈ [31, 32], (old (gathering n 133)).map (fun e => e.bytes.length) = [n] ∧ (gathering n 133).hbmOffline = false) ∧
    (let s := put (gathering 31 133) [(PG.mem 0, R.MEM_STS, 2)]
     (old s).length = 1 ∧ s.hbmOffline = true) := by
  decide

/-- Bucket 38 with a threshold of 1, an interval of 1 ms and a level of 2. -/
def bucket (en dtc : Word) : State :=
  { put on [(PG.mras, R.BKT_CFG 38, 0x1_0001 + en <<< 32), (PG.mras, R.BKT_STS 38, 2)] with dtc }

theorem meets_MemoryUpkeep_buckets :
    (let on_ := fun s : State => s.alive PG.mras = true ∧ s.bit PG.mras (R.BKT_CFG 38) 32 = true ∧ s.fld PG.mras (R.BKT_CFG 38) 16 16 ≠ 0 ∧
       s.fld PG.mras (R.BKT_CFG 38) 16 16 * 1000000 ≤ (s.dtc - s.mem.bktAt.get 38).toNat
     ¬ on_ (bucket 0 1000000) ∧ ¬ on_ (bucket 1 999999) ∧ on_ (bucket 1 1000000)) ∧
    Writable on PG.mras ∧ Writable (bucket 1 0) PG.mras ∧ (bucket 1 0).bit PG.mras (R.BKT_CFG 38) 32 = true ∧
    bitAt (would (bucket 1 0) PG.mras (R.BKT_CFG 38) 0x1_0001_0001) 32 = true ∧ bitAt (would (bucket 1 0) PG.mras (R.BKT_CFG 38) 0) 32 = false ∧
    on.bit PG.mras (R.BKT_CFG 38) 32 = false ∧
    (let new := would on PG.mras (R.BKT_CFG 38)
     (bitAt (new 0x1_0001_0000) 32 = true ∧ bf (new 0x1_0001_0000) 0 16 = 0 ∧ bf (new 0x1_0001_0000) 16 16 ≠ 0) ∧
       bf (new 0x1_0000_0001) 16 16 = 0 ∧ bitAt (new 0x1_0001_0001) 32 = true ∧ bf (new 0x1_0001_0001) 0 16 ≠ 0 ∧
       bf (new 0x1_0001_0001) 16 16 ≠ 0 ∧ bitAt (new 0) 32 = false) := by
  unfold Writable; decide

/-- A stack temperature at 1 ms. -/
def hot (x : Word) : State := { put on [(PG.mem 0, R.MEM_TEMP, x)] with dtc := 1000000 }

/-- At reset MEM_THR tells 93 °C with a hysteresis of 3. -/
theorem meets_MemoryUpkeep_temperature :
    State.reset.alive (PG.mem 0) = false ∧ on.alive (PG.mem 0) = true ∧ (99 : BitVec 8).toInt < 100 ∧ 100 ≤ (100 : BitVec 8).toInt ∧
    1000000 ≤ ((hot 0).dtc - (hot 0).mem.thrAt).toNat ∧ (on.dtc - on.mem.thrAt).toNat < 1000000 ∧
    (let temp := fun x : Word => sgn 8 ((hot x).fld (PG.mem 0) R.MEM_TEMP 0 8)
     ((on.thrOn : Int) ≤ temp 93 ∧ (on.thrOn : Int) - on.thrHyst < temp 92 ∧ temp 92 < on.thrOn ∧
       (on.thrOn : Int) - on.thrHyst < temp 91 ∧ temp 90 ≤ (on.thrOn : Int) - on.thrHyst)) := by
  decide

/-- An operation over 64 bytes from an address that runs as item 5. -/
def scrubbing (a : Word) (fill : Bool) : State :=
  let s := busy (put on [(PG.scb, R.PG_CTL, 1), (PG.scb, R.SCB_ADDR, a), (PG.scb, R.SCB_LEN, 64), (PG.scb, R.SCB_STS, 1)]) PG.scb
  { s with mem := { s.mem with scbItem := some 5, scbFill := fill } }

theorem meets_ScrubAndFillStart :
    Writable on PG.scb ∧ on.bit PG.scb R.SCB_STS 0 = false ∧ on.itemFree .ordinary = true ∧ on.fld PG.scb R.SCB_LEN 0 40 = 0 ∧
    (scrubbing 0 true).bit PG.scb R.SCB_STS 0 = true ∧ Writable (scrubbing 0 true) PG.scb ∧
    (let s := full (busy on 0)
     Writable s PG.scb ∧ s.bit PG.scb R.SCB_STS 0 = false ∧ s.itemFree .ordinary = false) ∧
    (∀ n ∈ [(31, 1), (32, 0)], let s := put on [(PG.scb, R.SCB_LEN, n.1)]
     Writable s PG.scb ∧ s.bit PG.scb R.SCB_STS 0 = false ∧ s.itemFree .ordinary = true ∧ s.fld PG.scb R.SCB_LEN 0 40 ≠ 0 ∧
       s.scbWhy (s.fld PG.scb R.SCB_ADDR 0 40) (s.fld PG.scb R.SCB_LEN 0 40) = n.2) := by
  unfold Writable; decide

/-- A page that waits for no reply, with a stale one on its way and without; one that does not run; an operation in each memory. -/
theorem meets_ScrubAndFillDone :
    on.mem.scbItem = none ∧ (on.ldg.orphans.any fun o => o.1 == PG.scb) = false ∧
    (let s := { on with ldg := { on.ldg with orphans := [(PG.ldg, 0), (PG.scb, 1)] } }
     s.mem.scbItem = none ∧ (s.ldg.orphans.any fun o => o.1 == PG.scb) = true) ∧
    (let s := { scrubbing 0 true with off := [PG.scb] }
     s.mem.scbItem ≠ none ∧ s.running PG.scb = false) ∧
    (∀ x ∈ [(0, ScbMem.hbm), (0x50_0000_0000, .surface), (wOfNat (shelfBase 5), .shelf 5)], ∀ fill ∈ [true, false],
      let s := scrubbing x.1 fill
      s.mem.scbItem = some 5 ∧ (s.item? 5).map (fun i => i.poisoned) = some false ∧ s.running PG.scb = true ∧ s.mem.scbFill = fill ∧
        s.scbMem (s.fld PG.scb R.SCB_ADDR 0 40) = some x.2 ∧ s.fld PG.scb R.SCB_ADDR 0 40 % 4 = 0) := by
  decide

/-! ### Twins (chapter 16) -/

/-- A twin in a role, its link up and a heartbeat of a role received at DTC 10000, at a DTC. -/
def twin (role hb dtc : Word) : State :=
  { put on [(PG.wth, R.WTH_CTL, 0x20_0064_0001), (PG.wth, R.WTH_STS, 0xC + role)] with
    dtc, twin := { on.twin with hbAt := some 10000, peerRole := hb.toNat, queue := [] } }

theorem meets_TwinRoles_enable :
    Writable on PG.wth ∧ Writable (twin 3 1 0) PG.wth ∧ (twin 3 1 0).bit PG.wth R.WTH_CTL 0 = true ∧ on.bit PG.wth R.WTH_CTL 0 = false ∧
    bitAt (would (twin 3 1 0) PG.wth R.WTH_CTL 1) 0 = true ∧ bitAt (would (twin 3 1 0) PG.wth R.WTH_CTL 0) 0 = false ∧
    (let new := would on PG.wth R.WTH_CTL
     bitAt (new 1) 0 = true ∧ bf (new 1) 16 16 = 0 ∧ bf (new 0x10001) 16 16 ≠ 0 ∧ bf (new 0x10001) 32 16 = 0 ∧
       bf (new 0x1_0001_0001) 16 16 ≠ 0 ∧ bf (new 0x1_0001_0001) 32 16 ≠ 0 ∧ bitAt (new 0) 0 = false) := by
  unfold Writable; decide

/-- A heartbeat 1 ns younger than 4 µs and one of 4 µs. -/
theorem meets_TwinRoles_yield :
    (let s := twin 3 1 13999
     Writable s PG.wth ∧ s.role = 3 ∧ s.twin.hbAt = some 10000 ∧ (s.dtc - 10000).toNat < 4000 ∧ s.twin.peerRole = 1) ∧
    ¬ ((twin 3 1 14000).dtc - 10000).toNat < 4000 ∧ (twin 3 0 13999).twin.peerRole ≠ 1 ∧ (twin 1 1 13999).role ≠ 3 ∧
    (let s := { put on [(PG.wth, R.WTH_STS, 3)] with dtc := 13999, twin := { on.twin with hbAt := some 10000, peerRole := 1 } }
     s.role = 3 ∧ (s.dtc - 10000).toNat < 4000 ∧ s.twin.peerRole = 1 ∧ s.linkUp = false) := by
  unfold Writable; decide

theorem meets_TwinRoles_peer :
    (twin 2 1 0).role = 2 ∧ (twin 1 1 0).role ≠ 2 ∧
    (let lost := fun s : State => s.bit PG.wth R.WTH_STS 3 = true ∧ s.peerSilent = true
     let claims := fun s : State => s.role = 1 ∧ s.peerSilent = true ∧ s.aliveStatic = true ∧ s.backoffOver = true
     (¬ lost (twin 1 1 13999) ∧ ¬ claims (twin 1 1 13999)) ∧ (lost (twin 3 1 14000) ∧ ¬ claims (twin 3 1 14000)) ∧ claims (twin 1 1 14000)) ∧
    (let claim := fun dtc : Word => twin 2 3 dtc
     (claim 499).role = 2 ∧ (claim 499).twinSel = false ∧ ((claim 499).dtc - (claim 499).twin.claimAt).toNat < 500 ∧
       500 ≤ ((claim 500).dtc - (claim 500).twin.claimAt).toNat ∧ (claim 500).twin.peerRole = 3 ∧ (twin 2 1 500).twin.peerRole ≠ 3 ∧
       (put (claim 0) [(PG.pwc, R.PWC_STRAP, 1)]).twinSel = true) ∧
    (let back := fun (role dtc : Word) => { twin role 1 dtc with twin := { (twin role 1 0).twin with backoff := some 20000 } }
     (back 1 19999).backoffOver = false ∧ (back 1 20000).backoffOver = true ∧
       ((back 1 20000).role = 1 ∧ (back 1 20000).peerSilent = true ∧ (back 1 20000).aliveStatic = true) ∧ (back 3 20000).role ≠ 1) := by
  decide

/-- A frame of a type with its payload words, SEQ 1 and ACK 0. -/
def frame (ty seq : Nat) (ws : List Nat) : List Byte := twinFrame ty seq 0 ws

theorem meets_WoethFramesReceived_order :
    on.linkUp = false ∧ (twin 1 1 0).linkUp = true ∧ twinParse [] = none ∧
    (twinParse (frame 6 1 [1])).map (fun r => r.type) = some 6 ∧
    (∀ x ∈ [(3, 4), (4, 2), (5, 3)],
      let s := { twin 1 1 0 with twin := { on.twin with resync := false } }
      let r := (twinParse (frame x.1 2 (List.replicate x.2 0))).map fun r => (r.type, r.seq)
      s.linkUp = true ∧ s.twin.queue = [] ∧ s.twin.resync = false ∧ r = some (x.1, 2) ∧ 2 ≠ (s.twin.rseq + 1) % 2 ^ 16) ∧
    sdiff 16 65535 (twin 1 1 0).twin.rseq ≤ 0 := by
  decide

/-- A heartbeat that each role may meet, a TIME frame of another state, and sequenced frames in order. -/
theorem meets_WoethFramesReceived :
    (∀ x ∈ [(1, [0, 0, 0, 0, 0, 0, 0, 0]), (1, [0, 1, 0, 0, 0, 0, 0, 0]), (1, [0, 2, 0, 0, 0, 0, 0, 0]), (1, [0, 3, 0, 0, 0, 0, 0, 0]),
      (2, [8, 0, 0]), (3, [0, 0, 0, 0]), (4, [7 <<< 32, 0]), (5, [0, 0, 0]), (5, [1, 0, 0]), (6, [1])],
      (twinParse (frame x.1 1 x.2)).map (fun r => (r.type, r.seq, r.words)) = some (x.1, 1, x.2)) ∧
    (let s := twin 1 1 0
     s.linkUp = true ∧ s.twin.queue = [] ∧ s.twin.resync = true ∧ s.role = 1 ∧ s.twinSel = false ∧ s.aliveStatic = true ∧
       s.backoffOver = true ∧ s.ptbSt 0 ≠ bf (8 : Word) 3 2) ∧
    (twin 2 1 0).role = 2 ∧ (put (twin 3 1 0) [(PG.pwc, R.PWC_STRAP, 1)]).role = 3 ∧
    (put (twin 3 1 0) [(PG.pwc, R.PWC_STRAP, 1)]).twinSel = true ∧ (twin 0 1 0).role = 0 := by
  decide

theorem meets_WoethLinkAndSends :
    on.bit PG.wth R.WTH_STS 2 = false ∧ (twin 1 1 0).bit PG.wth R.WTH_STS 2 = true ∧ on.alive PG.wth = true ∧
    State.reset.alive PG.wth = false ∧ on.linkUp = false ∧ (twin 1 1 0).linkUp = true ∧ on.twin.queue = [] ∧
    on.ptbRunning 7 = false ∧
    (let s := put (twin 1 1 0) [(PG.ptb 7, R.PTB_STS, 2)]
     s.ptbRunning 7 = true ∧ s.linkUp = true) ∧
    (let e : WinSum := { port := 0, win := 0, admitted := 0, objects := 0, corners := 0 }
     let s := { on with dtc := 5, twin := { on.twin with cmp := [(e, 5), (e, 6)] } }
     s.twin.cmp.map (fun e => atOrAfter s.dtc e.2) = [true, false]) := by
  decide

/-! ### Power states (chapter 17) -/

/-- A device whose power controller stands at a place. -/
def power (p : PwrState) : State := { on with pwr := p }

/-- Every switched page off. -/
def dark (p : PwrState) : State := { State.reset with pwr := p }

theorem meets_PowerEntry_requests :
    Writable on PG.pwc ∧ Writable (dark { phase := .slumber }) PG.pwc ∧ (dark { phase := .slumber }).hostOff = true ∧ on.hostOff = false ∧
    (∀ target ∈ [1, 2, 3], ∀ ini ∈ [Initiator.hostCore 0, .pcie, .saggar], on.refWhy target ini = 0) ∧
    (∀ target ∈ [1, 2, 3], (put on [(PG.pwc, R.PWC_DEFER_MAX, 0)]).refWhy target core = 2) ∧
    (put on [(PG.pwc, R.PWC_WAKE_EN, 0)]).refWhy 2 core = 3 ∧ (put on [(PG.pwc, R.PWC_WAKE_EN, 0)]).refWhy 3 core = 3 ∧
    (let s := power { phase := .watch }
     Writable s PG.pwc ∧ s.hostOff = false ∧ s.refWhy 2 core = 0 ∧ s.refWhy 1 core = 1 ∧ s.refWhy 3 (.hostCore 7) = 1 ∧
       (s.pwr.phase = .watch ∧ core = .hostCore 0)) := by
  unfold Writable; decide

/-- An entry to SLUMBER whose request is at a page. -/
def asking (l : List (Nat × Nat)) (force : Word) (regs : List (Nat × Nat × Word)) : State :=
  { put (power { phase := .entering, target := 2, step := 1, todo := l }) ((PG.pwc, R.PWC_CTL, force) :: regs) with dtc := 1000000 }

/-- A page that answers ACK, a twin that answers NACK, a busy page that answers DEFER, and one that has deferred for 1 ms. -/
theorem meets_PowerEntry_answers :
    on.pwr.phase ≠ .entering ∧
    (let s := asking [(PG.gpio, 10)] 0 []
     s.pwr.phase = .entering ∧ s.pwr.todo = [(PG.gpio, 10)] ∧ s.answer PG.gpio false = .ack ∧ s.fld PG.gpio R.PG_PWR 2 2 ≠ 3) ∧
    (let s := asking [(PG.wth, 1)] 0 [(PG.wth, R.WTH_CTL, 1)]
     s.answer PG.wth true = .nack 3) ∧
    (let s := { asking [(PG.gpio, 10)] 0 [] with inReset := [PG.gpio] }
     s.answer PG.gpio false = .defer) := by
  decide

/-- A page that has deferred for 1 ms, with FORCE and without, and for 1 ns less. -/
theorem meets_PowerEntry_defers :
    (asking [(PG.gpio, 10)] 0 []).bit PG.pwc R.PWC_CTL 0 = false ∧ (asking [(PG.gpio, 10)] 1 []).bit PG.pwc R.PWC_CTL 0 = true ∧
    (let s := asking [(PG.gpio, 10)] 0 [(PG.gpio, R.PG_PWR, 0xC)]
     s.fld PG.gpio R.PG_PWR 2 2 = 3 ∧ s.deferUs = 1000) ∧
    on.fld PG.pwc R.PWC_DEFER_MAX 0 20 = 1000 ∧
    { asking [(PG.gpio, 10)] 0 [(PG.gpio, R.PG_PWR, 0xC)] with dtc := 999999 }.deferUs = 999 := by
  decide

/-- The steps of an entry, with a wake event and without. -/
theorem meets_PowerEntry_steps :
    on.pwr.phase ≠ .rollback ∧ (power { phase := .rollback }).pwr.phase = .rollback ∧
    (∀ n ∈ [1, 2, 3, 4], ∀ w ∈ [[], [WakeCause.pin]], let s := power { phase := .entering, step := n, target := 1, wake := w }
     s.pwr.phase = .entering ∧ s.pwr.step = n ∧ s.pwr.todo = [] ∧ s.pwr.wake = w ∧ s.pwr.target = 1 ∧ s.res.disc = [] ∧ s.loc.deltas = []) ∧
    (asking [(PG.gpio, 10)] 0 []).pwr.todo ≠ [] ∧
    (∀ k ∈ [2, 3], (power { phase := .entering, step := 4, target := k }).pwr.target = k) := by
  decide

/-- Every source enabled and not, the phases, an alarm due at its instant and one that is not. -/
theorem meets_PowerWakeAndExit_wakes :
    (put on [(PG.pwc, R.PWC_WAKE_EN, 0)]).bit PG.pwc R.PWC_WAKE_EN 0 = false ∧ on.bit PG.pwc R.PWC_WAKE_EN 0 = true ∧
    on.bit PG.pwc R.PWC_WAKE_EN 2 = false ∧
    (∀ ph ∈ [PwrPhase.watch, .slumber, .dormant, .rollback, .active, .entering],
      let s := put (power { phase := ph, alarms := [(7, 5)] }) [(PG.pwc, R.PWC_WAKE_EN, 7), (PG.ptb 7, R.PTB_ALARM_CTL, 2)]
      s.pwr.phase = ph ∧ s.bit PG.pwc R.PWC_WAKE_EN 0 = true ∧ s.bit PG.pwc R.PWC_WAKE_EN 2 = true ∧
        ((s.pwr.alarms.find? fun a => a.1 == 7 && atOrAfter { s with dtc := 5 }.dtc a.2) = some (7, 5)) ∧
        ((s.pwr.alarms.find? fun a => a.1 == 7 && atOrAfter { s with dtc := 4 }.dtc a.2) = none) ∧ s.alarmWakes 7 = true) ∧
    (power { alarms := [(7, 0)] }).alarmWakes 7 = false ∧ ¬ (on.pwr.phase = .entering ∧ on.pwr.target = 1) ∧
    (dark { phase := .slumber }).hostOff = true ∧ on.hostOff = false := by
  decide

theorem meets_PowerWakeAndExit_steps :
    on.pwr.phase ≠ .exiting ∧
    (∀ n ∈ [1, 2, 3, 4], ∀ k ∈ [0, 1], ∀ tries ∈ [0, 2], ∀ failed ∈ [true, false],
      let s := dark { phase := .exiting, step := n, target := k, attempts := tries, failed }
      s.pwr.phase = .exiting ∧ s.pwr.retry = false ∧ s.pwr.step = n ∧ s.pwr.target = k ∧ s.off = poweredPages ∧
        s.pwr.attempts = tries ∧ s.pwr.failed = failed) ∧
    (let s := { power { phase := .exiting, step := 1, retry := true } with dtc := 20000000 }
     s.pwr.phase = .exiting ∧ s.pwr.retry = true ∧ 20000000 ≤ (s.dtc - s.pwr.reqAt).toNat ∧
       ({ s with dtc := 19999999 }.dtc - s.pwr.reqAt).toNat < 20000000) := by
  decide

theorem meets_ClockRailsAndReset_points :
    Writable on PG.pwc ∧ on.hostOff = false ∧ on.pwr.phase ≠ .watch ∧
    (let pt := fun v : Word => bf (would on PG.pwc R.PWC_DVFS v) 0 2
     let bad := fun s : State => fun p : Nat => 2 < p ∨ (s.bit PG.res R.MDL_STS 0 = true ∧ p < s.res.mdl.minClk)
     let now := on.fld PG.pwc R.PWC_STS 13 2
     pt 3 = 3 ∧ bad on 3 ∧ bad { put on [(PG.res, R.MDL_STS, 1)] with res := { on.res with mdl := { minClk := 2 } } } (pt 1) ∧
       ¬ bad on (pt 2) ∧ now < pt 2 ∧ ¬ bad on (pt 0) ∧ pt 0 ≤ now) ∧
    on.pwr.raise = none ∧
    (let s := { power { phase := .active, raise := some (2, 5) } with dtc := 100005 }
     s.pwr.raise = some (2, 5) ∧ 100000 ≤ (s.dtc - 5).toNat ∧ ({ s with dtc := 100004 }.dtc - 5).toNat < 100000) := by
  unfold Writable; decide

theorem meets_ClockRailsAndReset_faults :
    (let idle := fun s : State => s.pwr.phase = .porst ∨ s.pwr.phase = .tripped
     let none_ := fun s : State => idle s ∨ (s.pwr.phase = .exiting ∧ s.pwr.step = 1) ∨ s.pwr.pwrEn.getLsbD 6 = false
     idle State.reset ∧ idle (power { phase := .tripped }) ∧ none_ on ∧ none_ (power { phase := .exiting, step := 1, pwrEn := 0x7F }) ∧
       (let s := power { phase := .active, pwrEn := 0x7F }
        ¬ none_ s ∧ s.pwr.phase ≠ .entering ∧ s.isOff PG.ldg = false ∧ ¬ idle s)) ∧
    on.dbgLevel = 0 ∧ State.reset.pwr.phase = .porst ∧ on.pwr.phase ≠ .porst := by
  decide

/-! ### Saggar (chapter 18) -/

/-- A flash with a directory of `n` entries: the ENROLL region at 0x2000 and the RECORD object at 0x1000, which begins with a word. -/
def flash (s : State) (n rec_ : Nat) : State :=
  let dir := 0x5247_4453 + n <<< 32 + (1 + 0x2000 <<< 64 + 64 <<< 128) <<< 512 + (2 + 0x1000 <<< 64 + 768 <<< 128) <<< 768
  { s with mem := { s.mem with flash :=
      (leBytes 128 dir).zipIdx.map (fun b => (b.2, b.1)) ++ (leBytes 4 rec_).zipIdx.map fun b => (0x1000 + b.2, b.1) } }

/-- Step X4 of a cold exit. -/
def cold : State := power { phase := .exiting, step := 4 }

/-- Stage 0 has passed. -/
def staged : State := put on [(PG.sgr, R.SGR_STS, 0x101)]

theorem meets_SaggarBootAndReturn_boot :
    on.pwr.phase ≠ .exiting ∧
    (∀ n ∈ [0, 1, 2], let s := flash cold n 0x4F57_4E52
     s.pwr.phase = .exiting ∧ s.pwr.step = 4 ∧ s.coldPending = true ∧ s.enrollBytes.isSome = decide (1 ≤ n) ∧
       s.recordBytes.map isMarker = (if n = 2 then some false else none) ∧ s.sgr.counters.get 0 ≤ 65535 ∧ s.sgr.counters.get 1 ≤ 65535) ∧
    ¬ on.fld PG.sgr R.SGR_STS 8 3 = 1 ∧
    (∀ n ∈ [1, 2], let s := flash staged n 0x4F57_4E52
     s.pwr.phase = .active ∧ s.alive PG.sgr = true ∧ s.fld PG.sgr R.SGR_STS 8 3 = 1 ∧ s.fld PG.sgr R.SGR_STS 16 4 = 0 ∧
       s.recordBytes.isSome = decide (n = 2) ∧ s.recordBytes.map isMarker = (if n = 2 then some false else none) ∧
       s.recordBytes.map (fun r => r.all (· == 0xFF)) = (if n = 2 then some false else none)) := by
  decide +kernel

/-- A challenge of a level. -/
def challenge (level : Nat) : Challenge := { block := [], level, at_ := 5 }

/-- Saggar's state given, its page's registers too, at a DTC. -/
def saggar (sts dtc : Word) (x : SgrState) : State := { put on [(PG.sgr, R.SGR_STS, sts)] with dtc, sgr := x }

theorem meets_SaggarBootAndReturn_return :
    on.sgr.erase = none ∧ on.sgr.chal = none ∧
    (let s := saggar 0x82 0 { erase := some none, chal := some (challenge 2) }
     s.sgr.erase = some none) ∧
    (let s := { busy on PG.sgr with sgr := { erase := some (some 5), chal := some (challenge 2) } }
     s.sgr.erase = some (some 5) ∧ (s.item? 5).isSome = true) ∧
    (let s := fun dtc => saggar 2 dtc { chal := some (challenge 1) }
     (s 0).sgr.chal = some (challenge 1) ∧ ((s 60000000004).dtc - (challenge 1).at_).toNat < 60000000000 ∧
       60000000000 ≤ ((s 60000000005).dtc - (challenge 1).at_).toNat ∧ (s 60000000005).sgr.erase = none) := by
  decide

/-- DERIVE over 32 bytes of HBM at `a`, its output of 64 bytes to 0x1000, room for `len`; an uncorrectable word at `bad`. -/
def derive (a len : Word) (bad : List (Nat × WordErr)) : State :=
  let s := put on [(PG.sgr, R.SGR_STS, 2), (PG.sgr, R.SGR_ARG, a), (PG.sgr, R.SGR_ARG_LEN, 32), (PG.sgr, R.SGR_OUT, 0x1000),
    (PG.sgr, R.SGR_OUT_LEN, len)]
  { s with mem := { s.mem with zeros := [(0, 0x2000)], errs := bad } }

theorem meets_SaggarCommands_host :
    Writable (derive 0x40 64 []) PG.sgr ∧ (derive 0x40 64 []).bit PG.sgr R.SGR_STS 7 = false ∧
    (derive 0x40 64 []).itemFree .ordinary = true ∧ Writable (saggar 0x82 0 {}) PG.sgr ∧ (saggar 0x82 0 {}).bit PG.sgr R.SGR_STS 7 = true ∧
    Writable (full (busy on 0)) PG.sgr ∧ (full (busy on 0)).bit PG.sgr R.SGR_STS 7 = false ∧ (full (busy on 0)).itemFree .ordinary = false ∧
    ((derive 0x41 64 []).reg PG.sgr R.SGR_ARG).toNat % 64 ≠ 0 ∧
    (derive 0x40 64 []).inHbm ((derive 0x40 64 []).reg PG.sgr R.SGR_ARG).toNat 32 = true ∧
    (derive 0x40 64 []).fld PG.sgr R.SGR_OUT_LEN 0 16 = 64 ∧ (derive 0x40 63 []).fld PG.sgr R.SGR_OUT_LEN 0 16 = 63 := by
  unfold Writable; decide

/-- The argument read leaves the ledger alone, is poisoned with a bad word, and DERIVE then has an output of 64 bytes. -/
theorem meets_SaggarCommands_argument :
    (let j := (derive 0x40 64 []).openItem PG.sgr 63 0 false
     (j.2.readBytes 0x40 32).2.ldg = j.2.ldg) ∧
    (let j := (derive 0x40 64 [(0x40, .poison)]).openItem PG.sgr 63 0 false
     (j.2.readBytes 0x40 32).2.ldg = j.2.ldg) :=
  ⟨rfl, rfl⟩

theorem meets_SaggarCommands_runs :
    (((derive 0x40 64 []).openItem PG.sgr 63 0 false).2.readBytes 0x40 32).1 = { bytes := List.replicate 32 0, bad := false } ∧
    (((derive 0x40 64 [(0x40, .poison)]).openItem PG.sgr 63 0 false).2.readBytes 0x40 32).1.bad = true ∧
    ((derive 0x40 64 []).cmdRun 6 (List.replicate 32 0)).1.map (fun x => x.out.length) = some 64 ∧
    ((derive 0x40 64 []).cmdRun 4 []).1 = some { status := .ok } := by
  decide +kernel

theorem meets_SaggarCommands_mailbox :
    (∀ p ∈ [PwrPhase.slumber, .dormant], (power { phase := p }).pwr.phase = p) ∧
    (let s := put (power { phase := .watch }) [(PG.sgr, R.PG_PWR, 2)]
     s.pwr.phase = .watch ∧ s.stopped PG.sgr = true) ∧
    (let s := saggar 2 0 {}
     s.pwr.phase = .active ∧ s.stopped PG.sgr = false ∧ s.bit PG.sgr R.SGR_STS 7 = false) ∧
    (let s := saggar 0x82 0 {}
     s.pwr.phase = .active ∧ s.stopped PG.sgr = false ∧ s.bit PG.sgr R.SGR_STS 7 = true) ∧
    (saggar 0 0 {}).lifecycle = 0 ∧ (saggar 2 0 {}).lifecycle = 2 ∧ ((saggar 0x22 0 {}).cmdRun 9 []).1 = some { status := .ok } ∧
    ((saggar 2 0 {}).cmdRun 10 []).1 = some { status := .failInvalid } := by
  decide

theorem meets_SaggarCommands_ops :
    2 ^ 63 ≤ leNat ((List.replicate 71 (0 : Byte) ++ [0x80]).drop 64) ∧ (List.replicate 71 (0 : Byte) ++ [0x80]).length = 72 ∧
    (let s := saggar 0x42 0 {}
     s.bit PG.sgr R.SGR_STS 6 = true ∧ s.dbgLevel = 0 ∧ s.lifecycle = 2 ∧ s.sgr.refuse = none ∧ s.sgr.chal = none) ∧
    (let s := saggar 0x12 0 {}
     s.bit PG.sgr R.SGR_STS 6 = false ∧ s.dbgLevel ≠ 0) ∧
    (∀ l ∈ [1, 2], leNat (leBytes 1 l) % 4 = l) ∧ (saggar 0 0 {}).lifecycle = 0 ∧ (saggar 3 0 {}).lifecycle ≠ 2 := by
  decide

/-! ### The host complex (chapter 19) -/

/-- The link up, with the roles' registers given, and HBM bytes of zeros with words in error. -/
def linked (regs : List (Nat × Nat × Word)) (bad : List (Nat × WordErr)) : State :=
  let s := put on ((PG.pcie, R.PCIE_STS, 2) :: regs)
  { s with mem := { s.mem with zeros := [(0, 0x2000)], errs := bad } }

theorem meets_HartsInterruptsAndPcie_harts :
    Writable on PG.host ∧
    (let s := put on [(PG.host, R.HOST_HART_STS, 1)]
     Writable s PG.host ∧ bitAt (0x80 : Word) 0 = false ∧ s.bit PG.host R.HOST_HART_STS 7 = false ∧ bitAt (0x80 : Word) 7 = true ∧
       bitAt (1 : Word) 0 = true) ∧
    (put on [(PG.host, R.HOST_HART_STS, 0x80)]).bit PG.host R.HOST_HART_STS 7 = true ∧ State.reset.alive PG.host = false ∧
    on.alive PG.host = true ∧ State.reset.isOff PG.host = true ∧ on.isOff PG.host = false := by
  unfold Writable; decide

/-- Pin 31 of the GPIO pending, its source 351 enabled in context 15 with priority 7, and not. -/
theorem meets_HartsInterruptsAndPcie_plic :
    (let s := { put on [(PG.gpio, R.GPIO_IRQ_PEND, 0x8000_0000)] with
        host := { on.host with prio := [(351, 7)], enab := [(15 * 32 + 10, 0x8000_0000)] } }
     s.srcPends 351 = true ∧ s.srcOn 15 351 = true ∧ s.srcPrio 351 = 7 ∧ s.isOff PG.host = false) ∧
    on.srcOn 15 351 = false ∧ on.srcPends 351 = false := by
  decide

theorem meets_HartsInterruptsAndPcie_link :
    on.bit PG.pcie R.PCIE_STS 1 = false ∧ (linked [] []).bit PG.pcie R.PCIE_STS 1 = true ∧ on.alive PG.pcie = true ∧
    on.stopped PG.pcie = false ∧ State.reset.alive PG.pcie = false ∧ on.host.cfg = none ∧
    (let s := fun dtc : Word => { on with dtc, host := { on.host with cfg := some 5 } }
     (s 0).host.cfg = some 5 ∧ (s 50000004).dtc.toNat < 5 + 50000000 ∧ 5 + 50000000 ≤ (s 50000005).dtc.toNat) := by
  decide

/-- An endpoint with the link up, and a root port whose message address is 0x1000. -/
theorem meets_HartsInterruptsAndPcie_inbound :
    (let s := linked [] []
     s.bit PG.pcie R.PCIE_STS 0 = false ∧ s.barAddr 3 0 8 = none ∧ s.barAddr 1 0 8 = some 0 ∧ accReads (.load 8) = true ∧
       accReads (.store 8 5) = false) ∧
    (let s := put (linked [] []) [(PG.pcie, R.PCIE_STS, 3), (PG.pcie, R.PCIE_MSI_ADDR, 0x1000)]
     s.bit PG.pcie R.PCIE_STS 0 = true ∧ wOfNat 0x1000 = s.reg PG.pcie R.PCIE_MSI_ADDR ∧ leNat ((accBytes (.store 4 31)).take 4) < 32) ∧
    (let reply := fun (s : State) (a : Nat) (acc : Access) => (({ s with reply := .none } : State).physAccess .pcie a acc {}).reply
     reply (linked [] []) (pagesBase + 0x100_0000) (.load 8) = .busError ∧ reply (linked [] [(0, .poison)]) 0 (.load 8) = .poisoned ∧
       reply (linked [] []) 0 (.store 8 5) = .none) ∧
    (let s := { put (linked [] []) [(PG.sfs, R.PG_CTL, 0)] with sfs := { on.sfs with bad := [(0, 1)] }, reply := .none }
     (s.physAccess .pcie 0x50_0000_0000 (.load 4) {}).reply = .errorData [0, 0, 0, 0]) := by
  decide +kernel

theorem meets_HartsInterruptsAndPcie_debug :
    on.dbgLevel = 0 ∧
    (let s := put on [(PG.sgr, R.SGR_STS, 0x12), (PG.host, R.HOST_HART_STS, 0x80)]
     s.dbgLevel ≠ 0 ∧ s.isOff PG.host = false ∧ s.pwr.phase ≠ .watch ∧ s.bit PG.host R.HOST_HART_STS 7 = true) := by
  decide

/-- The flash engine idle, with a denied opcode, busy, and polling with a time of 1 ms. -/
theorem meets_FlashManagementUartGpio_flash :
    Writable on PG.xspi ∧ on.bit PG.xspi R.XSPI_STS 0 = false ∧ on.xspiRefused 0 none 0 = false ∧ on.host.poll = none ∧
    ({ on with host := { on.host with denied := [0] } } : State).xspiRefused 0 none 0 = true ∧
    (let s := fun dtc : Word => { put on [(PG.xspi, R.XSPI_STS, 1), (PG.xspi, R.XSPI_TO, 1)] with dtc, host := { on.host with poll := some 5 } }
     Writable (s 0) PG.xspi ∧ (s 0).bit PG.xspi R.XSPI_STS 0 = true ∧ (s 0).host.poll = some 5 ∧ (s 0).fld PG.xspi R.XSPI_TO 0 16 = 1 ∧
       ((s 1000004).dtc - 5).toNat < 1000000 ∧ 1000000 ≤ ((s 1000005).dtc - 5).toNat) := by
  unfold Writable; decide

theorem meets_FlashManagementUartGpio_management :
    State.reset.hostOff = true ∧ on.hostOff = false ∧ on.mgmtUp = true ∧ on.pwr.phase = .active ∧
    (put on [(PG.i2c, R.PG_CTL, 0)]).mgmtUp = false ∧ (put on [(PG.i2c, R.PG_CTL, 0)]).hostOff = false ∧
    on.bit PG.i2c R.I2C_STS 0 = false ∧ (put on [(PG.i2c, R.I2C_STS, 1)]).bit PG.i2c R.I2C_STS 0 = true ∧
    (∀ n ∈ [0x50, 0x8F], let s := { on with host := { on.host with index := n } }
     s.mgmtUp = true ∧ 0x50 ≤ s.host.index ∧ s.host.index < 0x90) := by
  decide

/-- The UART's page with lengths of its FIFOs. -/
def uart (ctl : Word) (tx rx : Nat) : State :=
  let s := put on [(PG.uart, R.UART_CTL, ctl)]
  { s with host := { s.host with txf := List.replicate tx 0x55, rxf := List.replicate rx 0x55 } }

theorem meets_FlashManagementUartGpio_uart :
    Writable (uart 0x1B_0003 63 63) PG.uart ∧ (uart 0x1B_0003 63 63).host.txf.length = 63 ∧ (uart 0x1B_0003 64 64).host.txf.length = 64 ∧
    (uart 0x1B_0003 64 64).host.rxf.length = 64 ∧ on.host.txf = [] ∧ on.host.rxf = [] ∧ State.reset.isOff PG.uart = true ∧
    on.stopped PG.uart = false ∧ (uart 0x1B_0003 1 1).host.txf = [0x55] ∧ (uart 0x1B_0003 1 1).host.rxf = [0x55] ∧
    (let s := uart 0x1B_0003 63 63
     s.running PG.uart = true ∧ s.bit PG.uart R.UART_CTL 0 = true ∧ s.fld PG.uart R.UART_CTL 1 2 ≠ 0) ∧
    on.bit PG.uart R.UART_CTL 0 = false ∧ bitAt (would on PG.uart R.UART_CTL 1) 0 = true ∧ bf (would on PG.uart R.UART_CTL 1) 16 16 = 0 ∧
    bf (would on PG.uart R.UART_CTL 0x1_0001) 16 16 ≠ 0 := by
  unfold Writable; decide

/-- Each configuration of pin 31 at each change of its level. -/
theorem meets_FlashManagementUartGpio_gpio :
    ∀ sel : Fin 4, let s := put on [(PG.gpio, R.GPIO_IRQ_CFG, wOfNat (sel.val <<< 62))]
      s.fld PG.gpio R.GPIO_IRQ_CFG 62 2 = sel.val ∧ s.host.pins.getLsbD 31 = false ∧ s.alive PG.gpio = true ∧ s.bit PG.gpio R.GPIO_OE 31 = false ∧
        ({ s with host := { s.host with pins := 0x8000_0000 } } : State).host.pins.getLsbD 31 = true := by
  decide

/-! ### Pages and buses (chapters 0, 1 and 20) -/

/-- Offset 0xFFFC of page 0x096, and addresses in no page: below the slots, in a hole of them, past the slots and past the PLIC. -/
theorem meets_UnimplementedOffsets :
    (pageKind 0x096).isSome = true ∧ lookupReg 0x096 (0xFFFC / 8 * 8) = none ∧ 0xFFFC % 4 = 0 ∧ lookupReg 0x096 0xFFF8 = none ∧ 0xFFF8 % 8 = 0 ∧
    on.resetting 0x096 = false ∧ on.stopped 0x096 = false ∧ on.busLocked .pcie = false ∧ pageKind 0x004 = none ∧ pageKind 0xFFF = none ∧
    (∀ a ∈ [0x5F_FFFF_FFF8, 0x60_1000_0000, 0x60_FFFF_FFF8, 0x61_0400_0000],
      (a < 0x60_0000_0000 ∨ 0x60_1000_0000 ≤ a) ∧ (a < 0x61_0000_0000 ∨ 0x61_0400_0000 ≤ a)) := by
  decide

theorem meets_RegisterAndMemoryAccess_registers :
    Writable on 0x078 ∧ Writable on 0x087 ∧ Writable on PG.i2c ∧ (lookupReg 0x087 R.MEM_PC1_CNT).isSome = true ∧
    (∀ off ∈ [R.MEM_THR, R.MEM_THR + 4], (lookupReg 0x078 (off / 8 * 8)).isSome = true ∧ 0x100 ≤ off ∧ off % 4 = 0) ∧ R.MEM_THR % 8 = 0 ∧
    ¬ ((1 = 8 ∧ 5 % 8 = 0) ∨ (1 = 4 ∧ 5 % 4 = 0)) ∧ ¬ ((8 = 8 ∧ 0x104 % 8 = 0) ∨ (8 = 4 ∧ 0x104 % 4 = 0)) ∧
    (pageKind PG.pcie).isSome = true ∧ (lookupReg PG.pcie R.PCIE_ERR).isSome = true ∧ R.PCIE_ERR % 8 = 0 ∧ on.stopped PG.pcie = false ∧
    on.isOff PG.pcie = false ∧
    (∀ k ∈ [(PG.mem 0, R.MEM_THR_CNT), (PG.kln 5, R.KLN_SWAP_CNT)], (pageKind k.1).isSome = true ∧ (lookupReg k.1 k.2).isSome = true ∧
      on.stopped k.1 = false) := by
  unfold Writable; decide

theorem meets_RegisterAndMemoryAccess_memory :
    on.inHbm (on.part.hbmBytes - 32) 32 = true ∧ (on.part.hbmBytes - 32) % 32 = 0 ∧ on.hbmOffline = false ∧ on.mem.wf = true ∧
    (let s := put on [(PG.mem 0, R.MEM_STS, 2)]
     s.inHbm 0 8 = true ∧ s.hbmOffline = true ∧ s.pwr.phase ≠ .watch) ∧
    on.inHbm (on.part.hbmBytes - 7) 8 = false ∧ on.busLocked .debugBus = true ∧ on.busLocked .pcie = false ∧
    (put on [(PG.sgr, R.SGR_STS, 0x10)]).busLocked .debugBus = false := by
  decide

/-- A page that is off, in reset, stopped in a handshake and stopped in WATCH. -/
theorem meets_PageControl_gate :
    pageKind 0x004 = none ∧ (pageKind PG.uart).isSome = true ∧ State.reset.isOff PG.uart = true ∧
    (let s := { on with inReset := [PG.uart] }
     s.isOff PG.uart = false ∧ s.resetting PG.uart = true) ∧
    (∀ ph ∈ [PwrPhase.entering, .watch], let s := put (power { phase := ph }) [(PG.uart, R.PG_PWR, 2)]
     s.isOff PG.uart = false ∧ s.resetting PG.uart = false ∧ s.stopped PG.uart = true ∧ s.inHandshake = decide (ph = .entering)) := by
  decide

/-- Of each class of page one that takes writes. -/
theorem meets_PageControl_commands :
    (∀ k ∈ [(PG.top, PageKind.top), (PG.pwc, .pwc), (PG.ldg, .ldg), (PG.uart, .uart), (PG.loc, .loc), (PG.adm, .adm), (PG.fct 5, .fct),
        (PG.res, .res)], pageKind k.1 = some k.2 ∧ on.isOff k.1 = false ∧ on.resetting k.1 = false ∧ on.stopped k.1 = false) ∧
    kindNoReset .top = true ∧ kindNoReset .uart = false ∧ (put on [(PG.pwc, R.PWC_STS, 8)]).bit PG.pwc R.PWC_STS 3 = true ∧
    (busy on 0).ldg.items ≠ [] ∧ kindFixed .top = true ∧ kindFixed .loc = false ∧ kindFixed .adm = false ∧ kindFixed .fct = false ∧
    on.enabled PG.loc = false ∧ on.enabled PG.uart = true ∧ kindFixed .uart = false ∧ on.res.disc = [] ∧ on.loc.deltas = [] ∧
    (busy on PG.xspi).ldg.items = [item PG.xspi] ∧ (item PG.xspi).page = PG.xspi ∧
    (busy on PG.xspi).awaits (item PG.xspi) = true := by
  decide

theorem meets_PageControl_rest :
    on.resetting PG.uart = false ∧ ({ on with inReset := [PG.uart] } : State).resetting PG.uart = true ∧
    on.pageUnlocked PG.uart = true ∧ (put on [(PG.sgr, R.SGR_LOCK 2, 0)]).pageUnlocked PG.uart = false := by
  decide

/-! ### The block -/

theorem meets_StepRunsTheFrontCommand :
    ({ on with pending := [.status, .thermtrip] } : State).pending = [.status, .thermtrip] ∧ on.pending = [] ∧
    on.dtcCarried = false ∧
    (let s := fun (n f : Nat) => power { phase := .slumber, aonPhase := n, aonFrac := f }
     (s 0 0).pending = [] ∧ (s 0 0).dtcCarried = true ∧ (s 999967231 0).pwr.aonPhase + 32768 < 1000000000 ∧
       1000000000 ≤ (s 999967232 63).pwr.aonPhase + 32768 ∧ (s 999967232 63).pwr.aonFrac < 64) := by
  decide

/-- The ends of a kind's pages, of the kilns and of their pages. -/
theorem meets_PageIdentity : 0x008 ≤ 0x00F ∧ 0x00F ≤ 0x00F ∧ (5 : Nat) < 6 ∧ (3 : Nat) < 4 ∧ (pageKind (0x040 + 4 * 5 + 3)).isSome = true := by
  decide

/-! ### The spec's worked values -/

/-- Chapter 4: the example's Chaha-16 packet on SP2, its first byte at IET 0x03B7_43D0, before the CRC. -/
theorem test_chahaPacket :
    let s := { put on [(PG.sp 2, R.SP_GEOM, 0x03C0_0500), (PG.sp 2, R.SP_PHY_CTL, 4500), (PG.sp 2, R.SP_CTL, 0x1051), (PG.sp 2, R.SP_STS, 1),
      (PG.dtc, R.TMAP_CTL 2, 0x10_0040_1803), (PG.dtc, R.TMAP_OFS 2, 1000000)] with dtc := 3896381000 }
    gives (.csi2PacketRx 2 (some { vc := 0, dt := 0x30, wc := 14, check := .good })
      [0x15, 0x04, 0x80, 0x05, 0x3A, 0x06, 0x97, 0x21, 0x2C, 0xC3, 0x84, 0x13, 0x05, 0x40] none) s
      (fun t => ((t.sp.get 2).front.filterMap fun f => match f with | .ev w _ => some w | _ => none)
        == [0x414C_BB2C_03B7_4390, 0x410C_BB84_03B7_4390, 0x410C_BB86_03B7_4390]) = true := by
  decide +kernel

/-- Chapter 3: an offset of −1,600 ns is more than PTB_JUMP_MAX: refused, kept, with bit 8. -/
theorem test_offsetRefused :
    let s := { put on [(PG.ptb 3, R.PTB_CTL, 0x104), (PG.ptb 3, R.PTB_STS, 2), (PG.ptb 3, R.PTB_JUMP_MAX, 0x03E8_0000),
      (PG.ptb 3, R.PTB_OFS_DTC, 811402337905)] with dtc := 811402400000 }
    gives (.offsetSubmit core 3 0xFFFF_FFFF_F9C0_0000) s (fun t => t.reg (PG.ptb 3) R.PTB_REFUSED_OFS == 0xFFFF_FFFF_F9C0_0000 &&
      t.bit (PG.ptb 3) R.PG_IRQ_RAW 8) = true := by
  decide +kernel

/-- Chapter 6: rule 17 of the example passes the enable's checks. -/
theorem test_rule17 :
    let s := put on [(PG.rfx, R.RULE_ACT 17, 0x3_0D40_000B), (PG.rfx, R.RULE_OFS 17, 0x5DC0_0000), (PG.rfx, R.RULE_ZONE 17 0, 0x0190_04FF_0190_0000),
      (PG.rfx, R.RULE_ZONE 17 1, 0x019F_0000_019F_04FF)]
    gives (.ruleEnable core 17 0x03E8_0007_D004_2021) s (fun t => t.bit PG.rfx (R.RULE_CTL 17) 0) = true := by
  decide +kernel

/-- Chapter 7: the corner's window: dx and −dy from 0 to 4, each at age 10 per row; the record. -/
theorem test_cornerRecord :
    let win : List WinPix := (List.range 81).map fun i =>
      let dx : Int := (i % 9 : Nat) - 4
      let dy : Int := (i / 9 : Nat) - 4
      { dx, dy, w := if 0 ≤ dx ∧ dy ≤ 0 then some (0x8000, -10 * dy) else none }
    let a := arcTest 0xCF 0xA0_0804_0603 40 win true
    let f := planeFit (fitSupport 40 true true win) 6 32 4
    a = { corner := true, run3 := 5, run4 := 6, dir := 224 } ∧
      cornerRecord 0x014C_BB2C_03B7_4390 a f false = 0x0024_C5E0_1900_0000_314C_BB2C_03B7_4390 := by
  decide +kernel

/-- Chapter 8: the two slots of cell (101, 50) of port 2. -/
theorem test_cellSlots : cellSlots 2 101 50 = (3973604, 3973937) := by decide +kernel

/-- Chapter 9: the ALIF neuron with CARRY at step 1,003: firing, overdrive, word 0; and the decay factor. -/
theorem test_alifVisit :
    let s := put on [(PG.lat 1, R.PS_CTL 7, 0x80FF_004D), (PG.lat 1, R.PS_THR 7, 0x1000), (PG.lat 1, R.PS_LEAK 7, 0xFD71_F333),
      (PG.lat 1, R.PS_ADAPT 7, 0x400), (PG.lat 1, R.PS_KEY 7, 0x10_0000)]
    let rd := slotPut (1000 <<< 56 + 512 <<< 24 + 2048) 0 11 124440
    let v := visit (s.pset 1 7) rd.1 rd.2 1003
    alphaPow 62259 3 = 56189 ∧ alphaPow 64881 3 = 63591 ∧ v.fired = true ∧ v.overdrive = true ∧ nfld v.rd 0 24 = 0x11F1 ∧
      nfld v.rd 24 16 = 0x5F1 ∧ nfld v.rd 56 8 = 0xEB := by
  decide +kernel

/-- Chapter 12: the weight 2^8.36. -/
theorem test_incWeight : weightG 8 23592 = 329 := by decide +kernel

/-- Chapter 13: the delay of profile 2 in units of 0.5 µs. -/
theorem test_groupDelay : (rate 1).shown PG.rch (R.PRF_GD 2) = 5571 := by decide +kernel

/-- Chapter 14: the WINDOW header and the completion of the example. -/
theorem test_windowHeader :
    leNat (recHeader .window 14 (some 2) 1234 30864) = 0x7890_04D2_0002_000E_0001 ∧
      cplWords { item := 0x123, page := PG.res, cq := 6, status := .ok, tag := 30864, detail := 30864, stalled := false, zero := false, decided := none } true false
        (3896679200 % 2 ^ 32) = 0xE842_9B20_0000_7890_7890_0010_6100_0123 := by
  decide

/-- Chapter 15: the pseudo-channels of two words, and what a poisoned word leaves in the scrub's registers and its page. -/
theorem test_scrubPoison :
    let a := 0x02_4001_2A20
    let s := put { scrubbing (wOfNat a) false with mem :=
      { on.mem with zeros := [(a, a + 64)], errs := [(a, .uncorrectable)], scbItem := some 5 } } [(PG.scb, R.SCB_LEN, 32)]
    pcOf 0x02_4000_1040 = 16 ∧ pcOf a = 10 ∧
      gives .scbDone s (fun t => t.reg PG.scb R.SCB_FIRST == 0x8000_0002_4001_2A20 &&
        t.reg 0x07D R.MEM_PC0_ERR == 0x0000_0002_4001_2A20) = true := by
  decide +kernel

/-- Chapter 16: the takeover of the standby with TWIN_SEL high. -/
theorem test_takeover :
    let s := { put on [(PG.wth, R.WTH_CTL, 0x20_0064_0001), (PG.wth, R.WTH_STS, 0x422), (PG.pwc, R.PWC_STRAP, 1)] with
      dtc := 1000, twin := { on.twin with peerRole := 3 } }
    gives .claimWindowEnd s (fun t => t.reg PG.wth R.WTH_STS == 0x523) = true := by
  decide +kernel

/-- Chapter 17: TCAL refuses with CALENDAR at step 12; PTB2's alarm wakes from SLUMBER. -/
theorem test_powerLogs :
    let e : CalEntry := { slot := 0, sw := false, rule := 17, pkt := none, unchk := false, out := 5, width := 1, skip := false }
    let s := { power { phase := .entering, target := 2, step := 1, todo := [(PG.tcal, 12)] } with
      dtc := 7210000000000, rfx := { on.rfx with cal := [e] } }
    let d := put (dark { phase := .slumber, alarms := [(2, 0)] }) [(PG.pwc, R.PWC_WAKE_EN, 3), (PG.ptb 2, R.PTB_ALARM_CTL, 2)]
    gives (.pageAnswer true) s (fun t => t.reg PG.pwc R.PWC_ENTRY_LOG == 0xB57D_2400_0C22_0022) = true ∧
      gives (.alarmWake 2) d (fun t => t.reg PG.pwc R.PWC_WAKE_CAUSE == 0x2202) = true := by
  decide +kernel

/-- Chapter 18: the session that SGR's REQ ends at step 8. -/
theorem test_sessionEndLog :
    let s := { put (power { phase := .entering, target := 2, step := 1, todo := [(PG.scb, 8), (PG.sgr, 8)] })
      [(PG.sgr, R.SGR_STS, 0x100_0352)] with dtc := 7200000000000 }
    gives (.pageAnswer true) s (fun t => t.reg PG.sgr R.SGR_DBG_LOG == 0x6171_4000_0000_0005 && t.reg PG.sgr R.SGR_STS == 0x100_0342) = true := by
  decide +kernel

/-- FIPS 180-4: the first and last bytes of the SHA-512 of "abc". -/
theorem test_sha512 :
    let h := sha512 [0x61, 0x62, 0x63]
    h.take 4 = [0xDD, 0xAF, 0x35, 0xA1] ∧ h.drop 60 = [0xA5, 0x4C, 0xA4, 0x9F] := by
  decide +kernel

/-- Chapter 20: LAT of kiln 1, and the write to PG_IRQ_SET of the locked page 0x021. -/
theorem test_lockedIrqSet :
    let s := put on [(PG.sgr, R.SGR_LOCK 0, 0)]
    gives (.rcRead core 0x60_0045_0000 8) on (·.reply == .data 0x0041_0001_0001_0010) = true ∧
      gives (.pgIrqSet core 0x021 8) s (fun t => t.reg 0x021 R.PG_ERR_LOG0 == 0x0000_0001_0003_0038) = true := by
  decide +kernel

/-! ### WellFormed: an ill-formed command for each check, which the check refuses -/

theorem test_wfRefusesAccesses :
    Instr.wf (.registerWrite core (2 ^ 40) 8 0) = false ∧ Instr.wf (.registerWrite core 0 3 0) = false ∧
    Instr.wf (.rcRead core (2 ^ 40) 8) = false ∧ Instr.wf (.rcRead core 0 0) = false ∧
    Instr.wf (.physicalAccess core (2 ^ 40) (.load 8) {}) = false ∧ Instr.wf (.physicalAccess core 0 (.load 3) {}) = false ∧
    Instr.wf (.physicalAccess core 0 (.store 16 0) {}) = false ∧ Instr.wf (.physicalAccess .block 0 (.readBytes 0) {}) = false ∧
    Instr.wf (.physicalAccess .block 0 (.writeBytes []) {}) = false ∧ Instr.wf (.physicalAccess core 0 (.amo 2 0) {}) = false ∧
    Instr.wf (.pcieInboundRequest 0 0 (.load 0) false) = false := by
  decide

theorem test_wfRefusesPages :
    Instr.wf (.pageReset core 0x004) = false ∧ Instr.wf (.pageResetComplete 0x004) = false ∧ Instr.wf (.pageEnable core 0x0FF) = false ∧
    Instr.wf (.pageDisable core 0x0FF) = false ∧ Instr.wf (.pageQuiesce core 0x0FF) = false ∧ Instr.wf (.pgIrqSet core 0x0FF 1) = false := by
  decide

theorem test_wfRefusesRest :
    Instr.wf (.scheduledItemDue (.calendar 4096)) = false ∧ Instr.wf (.csi2PacketRx 0 (some { vc := 0, dt := 1, wc := 0, check := .good }) [0] none) = false ∧
    Instr.wf (.csi2PacketRx 0 (some { vc := 0, dt := 0x30, wc := 1, check := .good }) [0, 0] none) = false ∧
    Instr.wf (.cciDone 0 .done (List.replicate 33 0)) = false ∧ Instr.wf (.ruleInput ⟨.front [], none⟩) = false ∧
    Instr.wf (.ruleInput ⟨.front [(0, 0)], none⟩) = false ∧ Instr.wf (.ruleInput ⟨.front [(0, 9)], none⟩) = false ∧
    Instr.wf (.ruleInput ⟨.front [(0, 1), (0, 1)], none⟩) = false ∧ Instr.wf (.eccWalk none true) = false ∧ Instr.wf (.routerStall 0 5) = false ∧
    Instr.wf (.regulatorTimeout 0) = false ∧ Instr.wf (.memoryTimeout []) = false ∧ Instr.wf (.mgmtRead 0) = false := by
  decide

/-- And well-formed ones at the ends of the ranges. -/
theorem test_wfAccepts :
    Instr.wf (.registerWrite core (2 ^ 40 - 1) 8 0) = true ∧ Instr.wf (.pageReset core 0x096) = true ∧
    Instr.wf (.scheduledItemDue (.calendar 4095)) = true ∧ Instr.wf (.ruleInput ⟨.front [(0, 8), (7, 1)], none⟩) = true ∧ Instr.wf (.routerStall 0 4) = true ∧
    Instr.wf (.cciDone 0 .done (List.replicate 32 0)) = true ∧ Instr.wf (.csi2PacketRx 0 none [0] none) = true ∧ Instr.wf (.physicalAccess core 0 (.amo 4 0) {}) = true := by
  decide

/-- The table gives no row any bits: no word spells a command. -/
theorem test_decodeNothing : decodeTableWord 16 0 = none := rfl

end Sys2Proof.Tests
end

section
/-!
PROOFS. The block: every step answers, takes the front command, and keeps the part's identity (R1, R40, R575, R576).
-/

namespace Sys2Proof.Machine

/-- Every meaning answers by `State.ends`: an effect that has got back the queue and the order code of the state it began from.
UART_DATA_READ is the one that chooses between two such answers. -/
theorem exec_answers (c : Instr) (s : State) : ∃ u : State, exec c s = .next (u.withQueueOf s) := by
  cases c
  case uartDataRead ini =>
    rw [exec_uartDataRead]
    unfold execUartDataRead
    split <;> exact ⟨_, rfl⟩
  all_goals exact ⟨_, rfl⟩

theorem exec_keeps_queue_and_part (c : Instr) (s : State) :
    ∃ t, exec c s = .next t ∧ t.pending = s.pending ∧ t.part = s.part := by
  obtain ⟨u, hu⟩ := exec_answers c s
  exact ⟨_, hu, u.withQueueOf_pending s, u.withQueueOf_part s⟩

@[simp] theorem State.idle_pending (s : State) : s.idle.pending = s.pending := by
  unfold State.idle
  split
  · rfl
  · split <;> rfl

@[simp] theorem State.idle_part (s : State) : s.idle.part = s.part := by
  unfold State.idle
  split
  · rfl
  · split <;> rfl

theorem step_takes_front_keeps_part (s : State) :
    ∃ t, step s = .next t ∧ t.pending = s.pending.tail ∧ t.part = s.part := by
  unfold step
  split
  case h_1 hq => exact ⟨s.idle, rfl, by simp [hq], s.idle_part⟩
  case h_2 c r hq =>
    obtain ⟨t, ht, hp, hpart⟩ := exec_keeps_queue_and_part c { s with pending := r }
    exact ⟨t, ht, by simp [hp, hq], hpart⟩

/-- R570, R575: PG_ID and PG_CAP show their reset value, the page's constant, whatever the state holds. -/
theorem State.shown_identity (s : State) {page off : Nat} (h : off = R.PG_ID ∨ off = R.PG_CAP) :
    s.shown page off = if (lookupReg page off).isSome then regReset page off else 0 := by
  have hlow : off < 0x100 := by rcases h with rfl | rfl <;> decide
  unfold State.shown
  split
  case h_1 hk => simp [lookupReg, hk]
  case h_2 k hk =>
    split
    case h_1 hl => simp [hl]
    case h_2 hl => simp [hl, hlow, State.hdrShown, h]

/-- R40, R41, R576: beyond its header page 0x000 shows what the order code and the single part determine. -/
theorem State.shown_top (s : State) {off : Nat} (h : 0x100 ≤ off) :
    s.shown PG.top off = if (lookupReg PG.top off).isSome then s.topShown off else 0 := by
  have hk : pageKind PG.top = some .top := rfl
  simp only [State.shown, hk]
  split
  case h_1 hl => simp [hl]
  case h_2 hl => simp [hl, Nat.not_lt.mpr h]

theorem State.topShown_of_part {s t : State} (h : t.part = s.part) (off : Nat) : t.topShown off = s.topShown off := by
  simp only [State.topShown, h]

/-- Settles O59: the queue and the order code come back at the end of every meaning, and the identity registers show nothing else
of the state than the order code. -/
theorem stepsCompleteInOrderAndKeepIdentity : Obligations.StepsCompleteInOrderAndKeepIdentity := by
  intro s
  obtain ⟨t, hstep, hqueue, hpart⟩ := step_takes_front_keeps_part s
  refine ⟨t, hstep, hqueue, hpart, fun page => ⟨?_, ?_⟩, fun off hoff => ?_⟩
  · rw [t.shown_identity (.inl rfl), s.shown_identity (.inl rfl)]
  · rw [t.shown_identity (.inr rfl), s.shown_identity (.inr rfl)]
  · rw [t.shown_top hoff, s.shown_top hoff, State.topShown_of_part hpart]

end Sys2Proof.Machine
end

section
/-!
PROOFS. Register accesses (R6, R8, R35): where an address lies, which accesses have a size and an alignment, what an unimplemented
offset answers, and where an access ends with a bus error.
-/

namespace Sys2Proof.Machine

/-! ### Addresses and sizes -/

/-- R35: the address of an offset of a slot names the slot and the offset. -/
theorem pageAt_slot {page off : Nat} (hp : page < 0x1000) (ho : off < 0x10000) :
    pageAt (0x60_0000_0000 + page * 0x1_0000 + off) = some (page, off) := by
  unfold pageAt pagesBase
  rw [if_pos (by omega), show 0x60_0000_0000 + page * 0x1_0000 + off - 0x60_0000_0000 = page * 0x1_0000 + off by omega]
  congr 2 <;> omega

theorem pageAt_of_slotArea {a : Nat} (h : 0x60_0000_0000 ≤ a ∧ a < 0x60_1000_0000) :
    pageAt a = some ((a - 0x60_0000_0000) / 0x1_0000, (a - 0x60_0000_0000) % 0x1_0000) := by
  unfold pageAt pagesBase
  rw [if_pos h]

theorem pageAt_outside {a : Nat} (h : a < 0x60_0000_0000 ∨ 0x60_1000_0000 ≤ a) : pageAt a = none := by
  unfold pageAt pagesBase
  rw [if_neg (by omega)]

theorem plicAt_outside {a n : Nat} (hn : 0 < n) (h : a < 0x61_0000_0000 ∨ 0x61_0400_0000 ≤ a) : plicAt a n = false := by
  unfold plicAt
  rw [decide_eq_false_iff_not]
  omega

/-- R6: an access to a register has a size and an alignment that the bus takes: 64 bits, or one 32-bit half. -/
def regSized (off size : Nat) : Prop := (size = 8 ∧ off % 8 = 0) ∨ (size = 4 ∧ off % 4 = 0)

/-- R6: the mask of the register's bits that a sized access reaches. -/
def sizedMask (off size : Nat) : Word :=
  if size = 8 then BitVec.allOnes 64 else if off % 8 = 0 then 0xFFFF_FFFF else 0xFFFF_FFFF_0000_0000

/-- R6: the value of a sized write, moved to its place in the register. -/
def sizedVal (off size : Nat) (v : Word) : Word :=
  if size = 8 then v else if off % 8 = 0 then v &&& 0xFFFF_FFFF else v <<< 32

theorem Wr.mk?_sized {off size : Nat} (h : regSized off size) (ini : Initiator) (v : Word) :
    Wr.mk? ini off size v = some { ini, off, v := sizedVal off size v, m := sizedMask off size } := by
  unfold Wr.mk? sizedVal sizedMask
  rcases h with ⟨rfl, h8⟩ | ⟨rfl, h4⟩
  · simp [h8, Wr.full]
  · rcases (by omega : off % 8 = 0 ∨ off % 8 = 4) with h | h <;> simp [h]

theorem Wr.mk?_unsized {off size : Nat} (h : ¬ regSized off size) (ini : Initiator) (v : Word) : Wr.mk? ini off size v = none := by
  unfold regSized at h
  unfold Wr.mk?
  rw [if_neg (by omega), if_neg (by omega), if_neg (by omega)]

/-! ### Bus errors -/

@[simp] theorem State.busErr_setReply (s : State) (ini : Initiator) (r : Reply) :
    ({ s with reply := r } : State).busErr ini = s.busErr ini := rfl

@[simp] theorem State.ends_busErr (s : State) (ini : Initiator) : s.ends (s.busErr ini) = .next (s.busErr ini) := rfl

theorem State.loadReg_busErr {s : State} {page off size : Nat} (h : pageKind page = none ∨ ¬ regSized off size) (ini : Initiator) :
    s.loadReg ini page off size = s.busErr ini := by
  have hr : s.readReg page off size = none := by
    unfold State.readReg
    rcases h with h | h
    · simp [h]
    · rw [Wr.mk?_unsized h]
      split <;> simp_all
  unfold State.loadReg
  rw [hr]
  split <;> rfl

theorem State.writeReg_busErr {s : State} {page off size : Nat} (h : pageKind page = none ∨ ¬ regSized off size) (ini : Initiator)
    (v : Word) : s.writeReg ini page off size v = s.busErr ini := by
  unfold State.writeReg State.regWrite
  rcases h with h | h
  · simp [h]
  · rw [Wr.mk?_unsized h]
    split <;> simp_all

/-! ### The commands that access a register -/

theorem exec_rcRead_at {a page off : Nat} (h : pageAt a = some (page, off)) {ini : Initiator} {s : State} (hl : s.busLocked ini = false)
    (size : Nat) :
    exec (.rcRead ini a size) s = .next ((s.loadReg ini page off size).withQueueOf s) := by
  simp [exec_rcRead, execRcRead, hl, h, State.ends_eq]

theorem exec_registerWrite_at {a page off : Nat} (h : pageAt a = some (page, off)) {ini : Initiator} {s : State}
    (hl : s.busLocked ini = false) (size : Nat) (v : Word) :
    exec (.registerWrite ini a size v) s =
      .next ((({ s with reply := .none } : State).writeReg ini page off size v).withQueueOf s) := by
  have hl' : ({ s with reply := .none } : State).busLocked ini = false := hl
  simp only [exec_registerWrite, execRegisterWrite, hl', h]
  rfl

/-- R6, R8: a register access ends with a bus error where its address lies in a slot whose page does not take it, or in no slot
and not in the PLIC window either. -/
theorem exec_register_busErr {a size : Nat}
    (hpage : ∀ page off, pageAt a = some (page, off) → pageKind page = none ∨ ¬ regSized off size)
    (hplic : pageAt a = none → plicAt a size = false) (ini : Initiator) (v : Word) (s : State) :
    exec (.rcRead ini a size) s = .next (s.busErr ini) ∧ exec (.registerWrite ini a size v) s = .next (s.busErr ini) := by
  simp only [exec_rcRead, exec_registerWrite, execRcRead, execRegisterWrite]
  cases ha : pageAt a with
  | none =>
    simp only [hplic ha, Bool.false_eq_true, if_false, ite_self]
    exact ⟨rfl, rfl⟩
  | some x =>
    simp only [State.loadReg_busErr (hpage x.1 x.2 ha), State.writeReg_busErr (hpage x.1 x.2 ha), ite_self]
    exact ⟨rfl, rfl⟩

/-! ### Unimplemented offsets (R8) -/

theorem lookupReg_header {page off : Nat} {k : PageKind} (hk : pageKind page = some k) (h : off < 0x100) :
    lookupReg page off = findReg regsHDR off := by
  simp [lookupReg, hk, h]

theorem lookupReg_block {page off : Nat} {k : PageKind} (hk : pageKind page = some k) (h : 0x100 ≤ off) :
    lookupReg page off = findReg (kindRegs k) off := by
  simp [lookupReg, hk, Nat.not_lt.mpr h]

/-- The two counters that count up to a read are implemented. -/
theorem State.readUpdate_unimplemented {page off : Nat} (h : lookupReg page off = none) (s : State) : s.readUpdate page off = s := by
  unfold State.readUpdate
  split
  case isTrue hthr =>
    obtain ⟨rfl, rfl⟩ := hthr
    exact absurd h (by decide)
  case isFalse =>
    split
    case isTrue hkln =>
      obtain ⟨hk, rfl⟩ := hkln
      rw [lookupReg_block hk (by decide)] at h
      exact absurd h (by decide)
    case isFalse => rfl

theorem State.shown_unimplemented {page off : Nat} (h : lookupReg page off = none) (s : State) : s.shown page off = 0 := by
  unfold State.shown
  rw [h]
  split <;> rfl

theorem State.readEffect_unimplemented {page off : Nat} (h : lookupReg page off = none) (m : Word) (s : State) :
    s.readEffect page off m = s := by
  unfold State.readEffect
  rw [h]
  split <;> simp_all

theorem State.loadReg_unimplemented {s : State} {page off size : Nat} {k : PageKind} (hk : pageKind page = some k)
    (hsize : regSized off size) (hnone : lookupReg page (off / 8 * 8) = none) (hstop : s.stopped page = false) (ini : Initiator) :
    s.loadReg ini page off size = { s with reply := .data 0 } := by
  have hread : s.readReg page off size = some (0, s) := by
    simp [State.readReg, hk, Wr.mk?_sized hsize, Wr.reg, State.readUpdate_unimplemented hnone, State.shown_unimplemented hnone,
      State.readEffect_unimplemented hnone]
  simp [State.loadReg, State.pageShut, hstop, hread]

/-- The header registers whose writes have a rule are implemented in every page. -/
theorem State.hdrWrite_unimplemented {page : Nat} {k : PageKind} (hk : pageKind page = some k) {w : Wr}
    (hnone : lookupReg page w.reg = none) (s : State) : s.hdrWrite k page w = s := by
  have hne : ∀ o, o < 0x100 → findReg regsHDR o ≠ none → w.reg ≠ o := by
    rintro o ho hs rfl
    exact hs ((lookupReg_header hk ho).symm.trans hnone)
  unfold State.hdrWrite
  simp [hne R.PG_CTL (by decide) (by decide), hne R.PG_IRQ_RAW (by decide) (by decide), hne R.PG_IRQ_EN (by decide) (by decide),
    hne R.PG_IRQ_SET (by decide) (by decide)]

theorem State.blockWrite_unimplemented {page : Nat} {w : Wr} (h : lookupReg page w.reg = none) (k : PageKind) (s : State) :
    s.blockWrite k page w = s := by
  simp [State.blockWrite, h]

theorem State.writeReg_unimplemented {s : State} {page off size : Nat} {k : PageKind} (hk : pageKind page = some k)
    (hsize : regSized off size) (hnone : lookupReg page (off / 8 * 8) = none) (hreset : s.resetting page = false)
    (hstop : s.stopped page = false) (ini : Initiator) (v : Word) : s.writeReg ini page off size v = s := by
  obtain ⟨w, hw, hreg⟩ : ∃ w, Wr.mk? ini off size v = some w ∧ w.reg = off / 8 * 8 := ⟨_, Wr.mk?_sized hsize ini v, rfl⟩
  rw [← hreg] at hnone
  have hctl : w.reg ≠ R.PG_CTL := by
    intro h
    rw [h, lookupReg_header hk (by decide)] at hnone
    exact absurd hnone (by decide)
  cases hoff : s.isOff page with
  | true => simp [State.writeReg, State.regWrite, hk, hw, State.gate_off hoff]
  | false =>
    have htakes : Writable s page := ⟨hoff, hreset, hstop⟩
    simp [State.writeReg, State.regWrite, hk, hw, State.gate_writable htakes, hctl, State.hdrWrite_unimplemented hk hnone,
      State.blockWrite_unimplemented hnone]

/-! ### Loads and stores in the slot area (R35) -/

theorem shelfOf_slotArea {a : Nat} (h : 0x60_0000_0000 ≤ a) (n : Nat) : shelfOf a n = none := by
  unfold shelfOf shelfBase
  rw [if_neg (by omega)]
  dsimp only
  rw [if_neg (by omega)]

theorem State.inHbm_slotArea {a : Nat} (h : 0x60_0000_0000 ≤ a) (n : Nat) (s : State) : s.inHbm a n = false := by
  unfold State.inHbm Part.hbmBytes
  rw [decide_eq_false_iff_not]
  split <;> omega

/-- R35: a load or a store at an address of the slot area is an access to its page. -/
theorem State.physAccess_slotArea {s : State} {ini : Initiator} {a : Nat} (h : 0x60_0000_0000 ≤ a ∧ a < 0x60_1000_0000)
    (hl : s.busLocked ini = false) (acc : Access) (hacc : ∀ n v, acc ≠ .amo n v) (up : Upset) :
    s.physAccess ini a acc up = ({ s with reply := .none } : State).pageAccess ini ((a - 0x60_0000_0000) / 0x1_0000)
      ((a - 0x60_0000_0000) % 0x1_0000) acc := by
  have hl' : ({ s with reply := .none } : State).busLocked ini = false := hl
  unfold State.physAccess
  simp only [hl', State.inHbm_slotArea h.1, Bool.false_eq_true, if_false, shelfOf_slotArea h.1, pageAt_of_slotArea h]
  cases acc
  case amo n v => exact absurd rfl (hacc n v)
  all_goals rw [if_neg (by omega), if_neg (by omega)]

theorem exec_physicalAccess_noPage {a : Nat} (h : 0x60_0000_0000 ≤ a ∧ a < 0x60_1000_0000)
    (hnone : pageKind ((a - 0x60_0000_0000) / 0x1_0000) = none) {acc : Access} (hacc : ∀ n v, acc ≠ .amo n v) (ini : Initiator)
    (up : Upset) (s : State) : exec (.physicalAccess ini a acc up) s = .next (s.busErr ini) := by
  rw [exec_physicalAccess]
  unfold execPhysicalAccess
  cases hl : s.busLocked ini with
  | true =>
    have hl' : ({ s with reply := .none } : State).busLocked ini = true := hl
    simp [State.physAccess, hl']
  | false =>
    rw [State.physAccess_slotArea h hl acc hacc]
    cases acc <;> simp [State.pageAccess, State.loadReg_busErr (.inl hnone), State.writeReg_busErr (.inl hnone)]

/-- Settles O55: an offset without a register reads 0 and takes no write in each of the two halves of a page; an address without
a page has no rule but the bus error. -/
theorem unimplementedOffsets : Obligations.UnimplementedOffsets := by
  refine ⟨?_, ?_, ?_⟩
  · intro ini page off size v k s hk hpage hoff hnone hsize hreset hstop hl a
    have ha : pageAt a = some (page, off) := pageAt_slot hpage hoff
    constructor
    · rw [exec_rcRead_at ha hl, State.loadReg_unimplemented hk hsize hnone hstop]
      rfl
    · rw [exec_registerWrite_at ha hl, State.writeReg_unimplemented hk hsize hnone (s := { s with reply := .none }) hreset hstop]
      rfl
  · intro ini a size v s ha hplic hsize
    refine exec_register_busErr (fun page off hat => .inl ?_) (fun _ => plicAt_outside hsize hplic) ini v s
    rcases Classical.em (0x60_0000_0000 ≤ a ∧ a < 0x60_1000_0000) with hin | hout
    · rw [pageAt_of_slotArea hin] at hat
      cases hat
      exact (ha.resolve_left (by omega)).resolve_left (by omega)
    · rw [pageAt_outside (by omega)] at hat
      cases hat
  · intro ini a size v up s hlo hhi hnone
    exact ⟨exec_physicalAccess_noPage ⟨hlo, hhi⟩ hnone (by simp) ini up s,
      exec_physicalAccess_noPage ⟨hlo, hhi⟩ hnone (by simp) ini up s⟩

end Sys2Proof.Machine
end

section
/-!
PROOFS. Register contents (R6, R10, R11): what a write leaves in each bit of a register that has no rule of its own, and what a
read of a whole register replies and clears.
-/

namespace Sys2Proof.Machine

/-! ### The bits that a write reaches (R6) -/

theorem low_half_getLsbD (i : Nat) : (0xFFFF_FFFF : Word).getLsbD i = decide (i < 32) := by
  show (BitVec.ofNat 64 (2 ^ 32 - 1)).getLsbD i = _
  rw [BitVec.getLsbD_ofNat, Nat.testBit_two_pow_sub_one]
  by_cases h : i < 32
  · simp [h, show i < 64 by omega]
  · simp [h]

theorem high_half_getLsbD {i : Nat} (h : i < 64) : (0xFFFF_FFFF_0000_0000 : Word).getLsbD i = decide (32 ≤ i) := by
  rw [show (0xFFFF_FFFF_0000_0000 : Word) = BitVec.allOnes 64 <<< 32 by decide, BitVec.getLsbD_shiftLeft, BitVec.getLsbD_allOnes]
  by_cases h32 : i < 32
  · simp [h32]
  · simp [h, h32, show i - 32 < 64 by omega, Nat.not_lt.mp h32]

theorem sizedMask_getLsbD {off size i : Nat} (h : regSized off size) (hi : i < 64) :
    (sizedMask off size).getLsbD i = decide (size = 8 ∨ i / 32 = off % 8 / 4) := by
  unfold sizedMask
  rcases h with ⟨rfl, -⟩ | ⟨rfl, h4⟩
  · rw [if_pos rfl, BitVec.getLsbD_allOnes]
    simp [hi]
  · rcases (by omega : off % 8 = 0 ∨ off % 8 = 4) with h8 | h8
    · rw [if_neg (by decide), if_pos h8, low_half_getLsbD, decide_eq_decide]
      omega
    · rw [if_neg (by decide), if_neg (by omega), high_half_getLsbD hi, decide_eq_decide]
      omega

/-- Where a sized write reaches, the bit of the register that it gives. -/
theorem sizedVal_getLsbD {off size i : Nat} (h : regSized off size) (hi : i < 64) (v : Word) :
    (sizedVal off size v &&& sizedMask off size).getLsbD i =
      (decide (size = 8 ∨ i / 32 = off % 8 / 4) && bitAt v (if size = 8 then i else i % 32)) := by
  rw [BitVec.getLsbD_and, sizedMask_getLsbD h hi, Bool.and_comm]
  by_cases hit : size = 8 ∨ i / 32 = off % 8 / 4
  · simp only [hit, decide_true, Bool.true_and]
    unfold sizedVal bitAt
    rcases h with ⟨rfl, -⟩ | ⟨rfl, h4⟩
    · simp
    · replace hit := hit.resolve_left (by decide)
      rcases (by omega : off % 8 = 0 ∨ off % 8 = 4) with h8 | h8
      · have hlow : i < 32 := by omega
        rw [if_neg (by decide), if_pos h8, BitVec.getLsbD_and, low_half_getLsbD]
        simp [hlow, Nat.mod_eq_of_lt hlow]
      · have hhigh : 32 ≤ i := by omega
        rw [if_neg (by decide), if_neg (by omega), BitVec.getLsbD_shiftLeft]
        simp [hi, Nat.not_lt.mpr hhigh, show i % 32 = i - 32 by omega]
  · simp [hit]

/-- R10: a bit after a write: W1S sets over W1C clears over RW stores. -/
theorem applyWr_getLsbD (d : RegDef) (old : Word) (w : Wr) {i : Nat} (hi : i < 64) :
    (applyWr d old w).getLsbD i =
      if d.w1s.testBit i ∧ w.val.getLsbD i = true then true
      else if d.w1c.testBit i ∧ w.val.getLsbD i = true then false
      else if d.rw.testBit i ∧ w.m.getLsbD i = true then w.val.getLsbD i else old.getLsbD i := by
  simp only [applyWr, BitVec.getLsbD_or, BitVec.getLsbD_and, BitVec.getLsbD_not, BitVec.getLsbD_ofNat, hi, decide_true,
    Bool.true_and]
  split
  case isTrue hset => simp [hset]
  case isFalse hset =>
    have hset' : (d.w1s.testBit i && w.val.getLsbD i) = false := by simpa using hset
    split
    case isTrue hclear =>
      rw [hset']
      simp [hclear]
    case isFalse hclear =>
      have hclear' : (d.w1c.testBit i && w.val.getLsbD i) = false := by simpa using hclear
      rw [hset', hclear']
      split
      case isTrue hstore => simp [hstore]
      case isFalse hstore =>
        have hstore' : (d.rw.testBit i && w.m.getLsbD i) = false := by simpa using hstore
        simp [hstore']

/-! ### Pages whose registers have no rule of their own -/

theorem findReg_mem {l : List RegDef} {off : Nat} {d : RegDef} {i j : Nat} (h : findReg l off = some (d, i, j)) : d ∈ l := by
  induction l with
  | nil => cases h
  | cons e l ih =>
    rw [findReg] at h
    split at h
    · cases h
      exact List.mem_cons_self
    · exact List.mem_cons_of_mem _ (ih h)

/-- The kinds of the MEM pages and of the I2C page. -/
def PageKind.plain (k : PageKind) : Prop := k = .mem0 ∨ k = .mem ∨ k = .i2c

theorem pageKind_plain {page : Nat} (h : 0x078 ≤ page ∧ page ≤ 0x087 ∨ page = PG.i2c) :
    ∃ k, pageKind page = some k ∧ k.plain := by
  have hmem : ∀ c : Fin 16, pageKind (PG.mem c) = some (if c = 0 then .mem0 else .mem) := by decide
  rcases h with h | rfl
  · have hc := hmem ⟨page - 0x078, by omega⟩
    rw [show PG.mem (page - 0x078) = page by unfold PG.mem; omega] at hc
    refine ⟨_, hc, ?_⟩
    unfold PageKind.plain
    split <;> simp
  · exact ⟨.i2c, rfl, .inr (.inr rfl)⟩

theorem PageKind.plain_wo {k : PageKind} (hk : k.plain) : ∀ d ∈ kindRegs k, d.wo = 0 := by
  rcases hk with rfl | rfl | rfl <;> decide

theorem State.blockWrite_plain {k : PageKind} (hk : k.plain) (s : State) (page : Nat) (w : Wr)
    (h : (lookupReg page w.reg).all (fun r => w.misses r.1) = false) : s.blockWrite k page w = s.plainWrite page w := by
  unfold State.blockWrite
  rcases hk with rfl | rfl | rfl <;> simp [h]

/-- R6, R10: a sized write of a register of a MEM or I2C page stores by the access types, and nothing else changes. -/
theorem State.writeReg_plain {s : State} {page off size i j : Nat} {d : RegDef} {k : PageKind} (hk : pageKind page = some k)
    (hplain : k.plain) (hw : Writable s page) (hoff : 0x100 ≤ off) (hsize : regSized off size)
    (hreg : lookupReg page (off / 8 * 8) = some (d, i, j)) (ini : Initiator) (v : Word) :
    s.writeReg ini page off size v = s.setReg page (off / 8 * 8) (applyWr d (s.reg page (off / 8 * 8))
      { ini, off, v := sizedVal off size v, m := sizedMask off size }) := by
  have hhigh : 0x100 ≤ off / 8 * 8 := by omega
  have hwo : d.wo = 0 := by
    rw [lookupReg_block hk hhigh] at hreg
    exact PageKind.plain_wo hplain d (findReg_mem hreg)
  simp only [State.writeReg, State.regWrite, hk, Wr.mk?_sized hsize, State.gate_writable hw]
  rw [if_neg (by show ¬ off / 8 * 8 < 0x100; omega), State.blockWrite_plain hplain]
  · simp only [State.plainWrite, Wr.reg, hreg]
  · simp [Wr.reg, hreg, Wr.misses, hwo]

/-! ### Reads of a whole register (R10, R11) -/

/-- `s` with the bits of `c` of a register cleared. -/
def State.cleared (s : State) (page off : Nat) (c : Word) : State :=
  if c = 0 then s else s.setReg page off (s.reg page off &&& ~~~c)

@[simp] theorem State.reg_cleared (s : State) (page off : Nat) (c : Word) :
    (s.cleared page off c).reg page off = s.reg page off &&& ~~~c := by
  unfold State.cleared
  split
  case isTrue hc =>
    subst hc
    exact (BitVec.and_allOnes (x := s.reg page off)).symm
  case isFalse => rw [State.reg_setReg_self]

@[simp] theorem State.cleared_mem (s : State) (page off : Nat) (c : Word) : (s.cleared page off c).mem = s.mem := by
  unfold State.cleared
  split <;> simp

theorem pageKept_cleared (s : State) (page : Nat) {off : Nat} (h : off < 0x10000) (c : Word) :
    PageKept s (s.cleared page off c) page [off] := by
  unfold State.cleared
  split
  · exact pageKept_refl _ _ _
  · exact pageKept_setReg (pageKept_refl _ _ _) h List.mem_cons_self _

/-- R11: what a read changes besides the self-clearing bits: a maximum since the last read, in CHD and ADM, or nothing that a
register or the memory holds. -/
theorem State.readEffect_cases {s : State} {page off i j : Nat} {k : PageKind} {d : RegDef} (hk : pageKind page = some k)
    (hreg : lookupReg page off = some (d, i, j)) (hoff : s.isOff page = false) (m : Word) :
    let cl := s.cleared page off (clearedBy d k off m)
    ((k = .chd ∨ k = .adm) ∧ ∃ lo n v, s.readEffect page off m = cl.setFld page off lo n v) ∨
      ((s.readEffect page off m).regs = cl.regs ∧ (s.readEffect page off m).mem = cl.mem) := by
  intro cl
  have hcl : (if clearedBy d k off m = 0 then s else s.setReg page off (s.reg page off &&& ~~~clearedBy d k off m)) = cl := rfl
  simp only [State.readEffect, hk, hreg, hoff, Bool.false_eq_true, if_false, hcl]
  split
  case isTrue h => exact .inl ⟨.inl h.1, _, _, _, rfl⟩
  case isFalse =>
    split
    case isTrue h => exact .inl ⟨.inr h.1, _, _, _, rfl⟩
    case isFalse =>
      refine .inr ?_
      split
      case isTrue =>
        unfold State.uartPop
        split <;> exact ⟨rfl, rfl⟩
      case isFalse => split <;> exact ⟨rfl, rfl⟩

theorem State.readEffect_off {s : State} {page : Nat} (h : s.isOff page = true) (off : Nat) (m : Word) :
    s.readEffect page off m = s := by
  unfold State.readEffect
  split
  · simp [h]
  · rfl

theorem clearedBy_whole (d : RegDef) (k : PageKind) (off : Nat) : clearedBy d k off (BitVec.allOnes 64) = BitVec.ofNat 64 d.rc := by
  have hor : ∀ x : Word, BitVec.allOnes 64 ||| x = BitVec.allOnes 64 := fun x => by rw [BitVec.or_comm, BitVec.or_allOnes]
  have hlow : bf (BitVec.allOnes 64) 0 32 ≠ 0 := by decide
  simp only [clearedBy, if_neg hlow, hor, ite_self, BitVec.and_allOnes]

theorem State.readEffect_whole {s : State} {page off i j : Nat} {k : PageKind} {d : RegDef} (hk : pageKind page = some k)
    (hreg : lookupReg page off = some (d, i, j)) (hrange : off < 0x10000) :
    let t := s.readEffect page off (BitVec.allOnes 64)
    (s.isOff page = false → k ≠ .chd → k ≠ .adm → t.reg page off = s.reg page off &&& ~~~BitVec.ofNat 64 d.rc) ∧
      PageKept s t page [off] ∧ t.mem = s.mem := by
  intro t
  cases hoff : s.isOff page with
  | true =>
    have ht : t = s := State.readEffect_off hoff _ _
    rw [ht]
    exact ⟨fun h => absurd h (by simp), pageKept_refl _ _ _, rfl⟩
  | false =>
    have hkept := pageKept_cleared s page hrange (clearedBy d k off (BitVec.allOnes 64))
    rcases State.readEffect_cases hk hreg hoff (BitVec.allOnes 64) with ⟨hkind, lo, n, v, ht⟩ | ⟨hregs, hmem⟩
    · rw [show t = _ from ht]
      refine ⟨fun _ hchd hadm => absurd hkind (by simp [hchd, hadm]), pageKept_setReg hkept hrange List.mem_cons_self _, by simp⟩
    · refine ⟨fun _ _ _ => ?_, pageKept_of_regs hkept hregs, by rw [hmem, State.cleared_mem]⟩
      rw [State.reg_congr hregs, State.reg_cleared, clearedBy_whole]

/-! ### Counters that count up to a read (R288, R466) -/

@[simp] theorem State.thrCount_off (s : State) : s.thrCount.off = s.off := by
  unfold State.thrCount
  dsimp only
  split <;> simp

@[simp] theorem State.stallCount_off (s : State) (k : Fin 6) : (s.stallCount k).off = s.off := by
  unfold State.stallCount
  dsimp only
  split
  · simp [State.rtrUpd]
  · rfl

theorem State.readUpdate_isOff (s : State) (page off q : Nat) : (s.readUpdate page off).isOff q = s.isOff q := by
  unfold State.readUpdate State.isOff
  split
  · simp
  · split <;> simp

theorem State.readUpdate_of_plain {page off : Nat} {k : PageKind} (hk : pageKind page = some k)
    (hthr : ¬ (page = PG.mem 0 ∧ off = R.MEM_THR_CNT)) (hkln : ¬ (k = .kln ∧ off = R.KLN_SWAP_CNT)) (s : State) :
    s.readUpdate page off = s := by
  unfold State.readUpdate
  rw [if_neg hthr, if_neg (by simpa [hk] using hkln)]

theorem State.loadReg_whole {s : State} {page off : Nat} {k : PageKind} (hk : pageKind page = some k) (h8 : off % 8 = 0)
    (hstop : s.stopped page = false) (ini : Initiator) :
    s.loadReg ini page off 8 = { (s.readUpdate page off).readEffect page off (BitVec.allOnes 64) with
      reply := .data ((s.readUpdate page off).shown page off) } := by
  have hreg : off / 8 * 8 = off := by omega
  have hread : s.readReg page off 8 = some ((s.readUpdate page off).shown page off,
      (s.readUpdate page off).readEffect page off (BitVec.allOnes 64)) := by
    simp [State.readReg, hk, Wr.mk?, h8, hreg, BitVec.and_allOnes, -BitVec.reduceAllOnes]
  simp [State.loadReg, State.pageShut, hstop, hread]

end Sys2Proof.Machine
end

section
/-!
PROOFS. Register and memory accesses (R6, R10, R11, R454 to R459, R541, R549): a block's write of one HBM word, and which accesses
the bus refuses.
-/

namespace Sys2Proof.Machine

/-! ### Bytes after a write (R458) -/

/-- Bytes stored from `a` on leave every byte apart from them. -/
theorem MemState.byte?_puts_outside {m : MemState} (h : m.wf = true) {a x : Nat} {l : List Byte}
    (hx : x < a ∨ a + l.length ≤ x) : (m.puts a l).byte? x = m.byte? x := by
  induction l generalizing m a with
  | nil => rfl
  | cons b r ih =>
    rw [List.length_cons] at hx
    rw [MemState.puts, ih (MemState.wf_put h a b) (by omega), MemState.byte?_put_ne h b (by omega)]

/-- Bytes stored from `a` on read as they were stored. -/
theorem MemState.byte?_puts_inside {m : MemState} (h : m.wf = true) {a i : Nat} {l : List Byte} (hi : i < l.length) :
    (m.puts a l).byte? (a + i) = some (l.getD i 0) := by
  induction l generalizing m a i with
  | nil => exact absurd hi (Nat.not_lt_zero i)
  | cons b r ih =>
    rw [MemState.puts]
    cases i with
    | zero => rw [MemState.byte?_puts_outside (MemState.wf_put h a b) (by omega)]; exact MemState.byte?_put_self h a b
    | succ i =>
      rw [show a + (i + 1) = a + 1 + i by omega, ih (MemState.wf_put h a b) (by simpa using hi)]
      rfl

theorem State.byte?_storeWord_outside {s : State} (h : s.memWf) {a x : Nat} {l : List Byte} (hx : x < a ∨ a + l.length ≤ x)
    (e : Option WordErr) : (s.storeWord a l e).mem.byte? x = s.mem.byte? x :=
  MemState.byte?_puts_outside h hx

theorem State.byte?_storeWord_inside {s : State} (h : s.memWf) {a i : Nat} {l : List Byte} (hi : i < l.length)
    (e : Option WordErr) : (s.storeWord a l e).mem.byte? (a + i) = some (l.getD i 0) :=
  MemState.byte?_puts_inside h hi

theorem State.find_errs_storeWord_clean (s : State) (a : Nat) (l : List Byte) :
    Sp.find (s.storeWord a l none).mem.errs a = none :=
  Sp.find_erase_self _ _

/-! ### What an error's count and log leave of the stored bytes (R459, R461) -/

theorem State.byte?_bucketLeaks (s : State) (b : Fin 39) (ms n x : Nat) : (s.bucketLeaks b ms n).mem.byte? x = s.mem.byte? x := by
  unfold State.bucketLeaks
  rw [State.setFld_mem]
  rfl

theorem State.byte?_bucketAdd (s : State) (b : Fin 39) (x : Nat) : (s.bucketAdd b).mem.byte? x = s.mem.byte? x := by
  unfold State.bucketAdd
  split
  · rfl
  · dsimp only
    split <;> simp [State.byte?_bucketLeaks]

theorem State.byte?_hbmErr (s : State) (a : Nat) (e : WordErr) (wr : Bool) (x : Nat) :
    (s.hbmErr a e wr).mem.byte? x = s.mem.byte? x := by
  unfold State.hbmErr
  cases e with
  | correctable => simp [State.byte?_bucketAdd]
  | uncorrectable => cases wr <;> simp
  | poison => cases wr <;> simp

/-! ### The flush of a word's gathered writes (R458) -/

@[simp] theorem overlay_length (old : List Byte) (new : List (Nat × Byte)) : (overlay old new).length = old.length := by
  simp [overlay]

@[simp] theorem State.wordBytes_length (s : State) (a n i : Nat) : (s.wordBytes a n i).length = n := by
  simp [State.wordBytes]

/-- R459: a partial write of an HBM word stores that word only. -/
theorem State.byte?_partialWrite_outside {s : State} (h : s.memWf) {a x : Nat} (hx : x < a ∨ a + 32 ≤ x)
    (new : List (Nat × Byte)) (items : List Nat) : (s.partialWrite none a new items).mem.byte? x = s.mem.byte? x := by
  have hfree : s.takeFree.2.memWf := h
  have herr : ∀ e, (s.takeFree.2.hbmErr a e true).memWf := fun e => State.memWf_hbmErr hfree a e true
  have hlen : x < a ∨ a + (overlay (s.takeFree.2.wordBytes a 32 s.takeFree.1) new).length ≤ x := by simpa using hx
  unfold State.partialWrite
  dsimp only [wordSize, State.wordErr]
  split
  · exact State.byte?_storeWord_outside hfree hlen none
  · rw [State.byte?_storeWord_outside (herr _) hlen none, State.byte?_hbmErr]
    rfl
  · rw [State.poisonItems_mem, State.byte?_storeWord_outside (herr _) hlen (some .poison), State.byte?_hbmErr]
    rfl

theorem State.byte?_flushEntry_outside {s : State} (h : s.memWf) {e : MergeEntry} {x : Nat} (hx : x < e.word ∨ e.word + 32 ≤ x) :
    (s.flushEntry e).mem.byte? x = s.mem.byte? x := by
  unfold State.flushEntry
  dsimp only
  split
  · rfl
  · split
    case isTrue hfull =>
      rw [State.bump_mem]
      exact State.byte?_storeWord_outside h (by simpa [hfull] using hx) none
    case isFalse =>
      rw [State.bump_mem]
      exact State.byte?_partialWrite_outside h hx _ _

theorem State.byte?_flushWord_outside {s : State} (h : s.memWf) {a x : Nat} (hx : x < a ∨ a + 32 ≤ x) :
    (s.flushWord a).mem.byte? x = s.mem.byte? x := by
  unfold State.flushWord
  dsimp only
  split
  · rfl
  · rename_i e he
    have hword : e.word = a := by simpa using List.find?_some he
    exact State.byte?_flushEntry_outside (State.memWf_setMerge h _ _) (by rwa [hword])

/-! ### A block's write of one HBM word -/

theorem shelfOf_below {a : Nat} (h : a < shelfBase 0) (n : Nat) : shelfOf a n = none := by
  unfold shelfOf
  rw [if_pos h]

theorem State.below_shelf_of_inHbm {s : State} {a n : Nat} (h : s.inHbm a n = true) : a < shelfBase 0 := by
  have hle : a + n ≤ s.part.hbmBytes := by simpa [State.inHbm] using h
  have hcap : s.part.hbmBytes ≤ 25769803776 := by cases s.part <;> decide
  unfold shelfBase
  omega

/-- The bytes of one aligned word are one part. -/
theorem writeParts_word {a : Nat} (ha : a % 32 = 0) {l : List Byte} (hl : l.length = 32) :
    writeParts 32 a 33 l = [(a, l.mapIdx fun j b => (j, b))] := by
  have hne : l ≠ [] := by
    rintro rfl
    cases hl
  have hrest : ∀ c fuel, writeParts 32 c fuel [] = [] := by
    intro c fuel
    cases fuel <;> rfl
  obtain ⟨b, r, rfl⟩ := List.exists_cons_of_ne_nil hne
  rw [writeParts, ha, List.take_of_length_le (by omega), List.drop_eq_nil_of_le (by omega), hrest]
  · simp
  · exact hne

theorem State.writeBytes_word {s : State} {a : Nat} {l : List Byte} (hin : s.inHbm a 32 = true) (ha : a % 32 = 0)
    (hl : l.length = 32) (hon : s.hbmOffline = false) (item : Option Nat) :
    s.writeBytes item a l = (s.flushWord a).storeWord a l none := by
  have hsnd : (l.mapIdx fun j b => (j, b)).map Prod.snd = l := by simp [List.mapIdx_eq_zipIdx_map, Function.comp_def]
  simp [State.writeBytes, shelfOf_below (State.below_shelf_of_inHbm hin), hl, hin, wordSize, writeParts_word ha hl,
    State.writeWordPart, hon, hsnd]

theorem exec_blockWrite_word {s : State} {a : Nat} {l : List Byte} (hin : s.inHbm a 32 = true) (ha : a % 32 = 0)
    (hl : l.length = 32) (hon : s.hbmOffline = false) :
    exec (.physicalAccess .block a (.writeBytes l) {}) s =
      .next (((({ s with reply := .none } : State).flushWord a).storeWord a l none).withQueueOf s) := by
  have hin' : ({ s with reply := .none } : State).inHbm a 32 = true := hin
  have hon' : ({ s with reply := .none } : State).hbmOffline = false := hon
  have hopen : ({ s with reply := .none } : State).busLocked .block = false := rfl
  rw [exec_physicalAccess]
  unfold execPhysicalAccess State.physAccess
  simp only [accSize, hl, hopen, hin']
  simp [State.hbmWake, State.hbmAccess, accWide, isHart, State.upsetWord, State.busRetry, State.storeHbm,
    State.writeBytes_word hin' ha hl hon', State.ends_eq]

/-! ### Accesses that end with a bus error (R454, R541, R549) -/

theorem exec_hartLoad_offline {s : State} {a n : Nat} (hin : s.inHbm a n = true) (hoff : s.hbmOffline = true)
    (hphase : s.pwr.phase ≠ .watch) (h : Fin 8) (up : Upset) :
    exec (.physicalAccess (.hostCore h) a (.load n) up) s = .next (s.busErr (.hostCore h)) := by
  have hin' : ({ s with reply := .none } : State).inHbm a n = true := hin
  have hoff' : ({ s with reply := .none } : State).hbmOffline = true := hoff
  have hopen : ({ s with reply := .none } : State).busLocked (.hostCore h) = false := rfl
  rw [exec_physicalAccess]
  unfold execPhysicalAccess State.physAccess
  simp only [accSize, hopen, hin']
  simp [State.hbmWake, hphase, State.hbmAccess, hoff', isHart]

theorem exec_hartAmo_outside {s : State} {a n : Nat} (hout : s.inHbm a n = false) (h : Fin 8) (v : Word) (up : Upset) :
    exec (.physicalAccess (.hostCore h) a (.amo n v) up) s = .next (s.busErr (.hostCore h)) := by
  have hout' : ({ s with reply := .none } : State).inHbm a n = false := hout
  have hopen : ({ s with reply := .none } : State).busLocked (.hostCore h) = false := rfl
  rw [exec_physicalAccess]
  unfold execPhysicalAccess State.physAccess
  simp only [accSize, hopen, hout']
  simp

theorem exec_locked {s : State} {ini : Initiator} (h : s.busLocked ini = true) (a size : Nat) (acc : Access) (v : Word) (up : Upset) :
    exec (.physicalAccess ini a acc up) s = .next (s.busErr ini) ∧ exec (.registerWrite ini a size v) s = .next (s.busErr ini) ∧
      exec (.rcRead ini a size) s = .next (s.busErr ini) := by
  have h' : ({ s with reply := .none } : State).busLocked ini = true := h
  refine ⟨?_, ?_, ?_⟩
  · simp [exec_physicalAccess, execPhysicalAccess, State.physAccess, h']
  · simp only [exec_registerWrite, execRegisterWrite, h', if_true]
    rfl
  · simp [exec_rcRead, execRcRead, h]

/-! ### The accesses of a register -/

/-- R6, R10: REGISTER_WRITE of a register of a MEM or I2C page. -/
theorem exec_registerWrite_plain {s : State} {page off size i j : Nat} {d : RegDef} {k : PageKind} (hk : pageKind page = some k)
    (hplain : k.plain) (hpage : page < 0x1000) (hw : Writable s page) {ini : Initiator} (hl : s.busLocked ini = false)
    (hlow : 0x100 ≤ off) (hoff : off < 0x10000) (hsize : regSized off size)
    (hreg : lookupReg page (off / 8 * 8) = some (d, i, j)) (v : Word) :
    exec (.registerWrite ini (0x60_0000_0000 + page * 0x1_0000 + off) size v) s =
      .next (({ s with reply := .none } : State).setReg page (off / 8 * 8) (applyWr d (s.reg page (off / 8 * 8))
        { ini, off, v := sizedVal off size v, m := sizedMask off size })) := by
  rw [exec_registerWrite_at (pageAt_slot hpage hoff) hl,
    State.writeReg_plain (s := { s with reply := .none }) hk hplain hw hlow hsize hreg]
  rfl

/-- R6, R10, R11: RC_READ of a whole register of a page that answers. -/
theorem exec_rcRead_whole {s : State} {page off : Nat} {k : PageKind} (hk : pageKind page = some k) (hpage : page < 0x1000)
    (hoff : off < 0x10000) (h8 : off % 8 = 0) (hstop : s.stopped page = false) {ini : Initiator} (hl : s.busLocked ini = false) :
    exec (.rcRead ini (0x60_0000_0000 + page * 0x1_0000 + off) 8) s =
      .next (({ (s.readUpdate page off).readEffect page off (BitVec.allOnes 64) with
        reply := .data ((s.readUpdate page off).shown page off) } : State).withQueueOf s) := by
  rw [exec_rcRead_at (pageAt_slot hpage hoff) hl, State.loadReg_whole hk h8 hstop]

/-- Settles O56: a register access by what its page's write and read do to the register, a memory access by the two stores of the
word that it may make, and the rest by the bus error. -/
theorem registerAndMemoryAccess : Obligations.RegisterAndMemoryAccess := by
  refine ⟨?_, ?_, ?_, ?_, ?_, ?_⟩
  · intro ini page off size v s hpage hw hl hlow hoff hsize o a hit given d i j hreg
    obtain ⟨k, hk, hplain⟩ := pageKind_plain hpage
    have hslot : page < 0x1000 := by
      unfold PG.i2c at hpage
      omega
    refine ⟨_, exec_registerWrite_plain hk hplain hslot hw hl hlow hoff hsize hreg v, rfl, ?_, fun b hb => ?_⟩
    · exact pageKept_setReg (t := { s with reply := .none }) (pageKept_refl s page [o]) (by omega) List.mem_cons_self _
    · rw [State.bit, State.reg_setReg_self, bitAt, applyWr_getLsbD d _ _ hb]
      simp only [Wr.val, sizedVal_getLsbD hsize hb, sizedMask_getLsbD hsize hb, Bool.and_eq_true, decide_eq_true_eq]
      refine if_congr Iff.rfl rfl (if_congr Iff.rfl rfl (ite_congr rfl (fun hstore => ?_) fun _ => rfl))
      rw [decide_eq_true hstore.2, Bool.true_and]
  · intro ini page off size v s hpage hoff hsize a
    refine (exec_register_busErr (fun p o ha => .inr ?_) (fun ha => ?_) ini v s).symm
    · rw [pageAt_slot hpage hoff] at ha
      cases ha
      exact hsize
    · rw [pageAt_slot hpage hoff] at ha
      cases ha
  · intro ini page off k s hk hpage hoff h8 hstop hl u d i j hreg
    obtain ⟨hclear, hkept, hmem⟩ := State.readEffect_whole (s := u) hk hreg hoff
    refine ⟨_, exec_rcRead_whole hk hpage hoff h8 hstop hl, rfl, fun hon => ?_, hkept, hmem,
      fun hthr hkln => State.readUpdate_of_plain hk hthr hkln s⟩
    exact hclear (by rw [State.readUpdate_isOff]; exact hon)
  · intro a l s hin ha hl hon hwf
    have hflush : (({ s with reply := .none } : State).flushWord a).memWf := 
      State.memWf_flushWord (s := { s with reply := .none }) hwf a
    refine ⟨_, exec_blockWrite_word hin ha hl hon, State.find_errs_storeWord_clean _ a l, fun i hi => ?_, fun x hx => ?_⟩
    · exact State.byte?_storeWord_inside hflush (by omega) none
    · exact (State.byte?_storeWord_outside hflush (by rwa [hl]) none).trans
        (State.byte?_flushWord_outside (s := { s with reply := .none }) hwf hx)
  · intro h a n v up s
    exact ⟨fun hin hoff hphase => exec_hartLoad_offline hin hoff hphase h up, fun hout => exec_hartAmo_outside hout h v up⟩
  · intro a size acc v up s hl
    exact exec_locked hl a size acc v up

end Sys2Proof.Machine
end

section
/-!
PROOFS. Clock points, rail faults, the thermal trip, power-on reset and straps (R34, R526, R580, R584, R592).
-/

namespace Sys2Proof.Machine

/-! ### A register write beside the power controller's state -/

@[simp] theorem State.reg_pwrUpd (s : State) (f : PwrState → PwrState) (p o : Nat) : (s.pwrUpd f).reg p o = s.reg p o := rfl

@[simp] theorem State.fld_pwrUpd (s : State) (f : PwrState → PwrState) (p o lo n : Nat) :
    (s.pwrUpd f).fld p o lo n = s.fld p o lo n := rfl

@[simp] theorem State.bit_pwrUpd (s : State) (f : PwrState → PwrState) (p o i : Nat) : (s.pwrUpd f).bit p o i = s.bit p o i := rfl

theorem pageKept_pwrUpd {s t : State} {page : Nat} {l : List Nat} (h : PageKept s t page l) (f : PwrState → PwrState) :
    PageKept s (t.pwrUpd f) page l := h

/-- What is read beside the registers stands where only registers change. -/
theorem onlyRegs_read {α : Type} {s t : State} (h : OnlyRegs s t) (f : State → α) (hf : ∀ u r, f { u with regs := r } = f u) :
    f t = f s := by
  rw [h]
  exact hf s t.regs

/-! ### CORE_CLK points (R34, R580) -/

/-- R34: no loaded model runs at the point, or the point does not exist. -/
def State.pointRefused (s : State) (pt : Nat) : Prop := 2 < pt ∨ (s.bit PG.res R.MDL_STS 0 = true ∧ pt < s.res.mdl.minClk)

/-- R580: PWC_STS shows the point, and CORE_CLK runs at `clk` MHz. -/
def State.atPoint (s : State) (pt clk : Nat) : State := { s.setFld PG.pwc R.PWC_STS 13 2 pt with coreClk := clk }

theorem State.fld_atPoint (s : State) {pt : Nat} (h : pt < 4) (clk : Nat) :
    (s.atPoint pt clk).fld PG.pwc R.PWC_STS 13 2 = pt := by
  have hfld : (s.atPoint pt clk).fld PG.pwc R.PWC_STS 13 2 = pt % 2 ^ 2 := State.fld_setFld_self s _ _ _ _ _ (by decide)
  exact hfld.trans (Nat.mod_eq_of_lt h)

theorem State.reg_atPoint_ne (s : State) {q r : Nat} (h : rkey q r ≠ rkey PG.pwc R.PWC_STS) (pt clk : Nat) :
    (s.atPoint pt clk).reg q r = s.reg q r :=
  State.reg_setReg_ne s _ h

theorem pageKept_atPoint {s t : State} {l : List Nat} (h : PageKept s t PG.pwc l) (hl : R.PWC_STS ∈ l) (pt clk : Nat) :
    PageKept s (t.atPoint pt clk) PG.pwc l :=
  pageKept_of_regs (pageKept_setReg h (by decide) hl _) rfl

theorem State.dvfs_refused {s : State} {w : Wr} {pt : Nat} (hpt : bf (s.wouldBe PG.pwc w) 0 2 = pt) (h : s.pointRefused pt) :
    s.dvfs w = (s.setBit PG.pwc R.PWC_STS 12 true).irq PG.pwc 4 := by
  unfold State.dvfs
  rw [hpt]
  exact if_pos (by simpa [State.pointRefused] using h)

/-- R580: a point above the present one is asked of CORE_VID, and CORE_CLK waits. -/
theorem State.dvfs_raises {s : State} {w : Wr} {pt : Nat} (hpt : bf (s.wouldBe PG.pwc w) 0 2 = pt) (h : ¬ s.pointRefused pt)
    (hup : s.fld PG.pwc R.PWC_STS 13 2 < pt) (hphase : s.pwr.phase ≠ .watch) :
    s.dvfs w = (s.setReg PG.pwc R.PWC_DVFS (wOfNat pt)).pwrUpd fun x => { x with vid := pt, raise := some (pt, s.dtc) } := by
  have hnow : (s.setReg PG.pwc R.PWC_DVFS (wOfNat pt)).fld PG.pwc R.PWC_STS 13 2 < pt := by
    rwa [State.fld_setReg_ne _ _ _ _ (by decide)]
  unfold State.dvfs
  rw [hpt]
  exact (if_neg (by simpa [State.pointRefused] using h)).trans (if_pos ⟨hnow, hphase⟩)

theorem State.dvfs_lowers {s : State} {w : Wr} {pt : Nat} (hpt : bf (s.wouldBe PG.pwc w) 0 2 = pt) (h : ¬ s.pointRefused pt)
    (hdown : pt ≤ s.fld PG.pwc R.PWC_STS 13 2) (hphase : s.pwr.phase ≠ .watch) :
    s.dvfs w = ((s.setReg PG.pwc R.PWC_DVFS (wOfNat pt)).atPoint pt (clkOf pt)).pwrUpd fun x =>
      { x with vid := pt, raise := none } := by
  have hnow : ¬ (s.setReg PG.pwc R.PWC_DVFS (wOfNat pt)).fld PG.pwc R.PWC_STS 13 2 < pt := by
    rw [State.fld_setReg_ne _ _ _ _ (by decide)]
    exact Nat.not_lt.mpr hdown
  unfold State.dvfs
  rw [hpt]
  refine (if_neg (by simpa [State.pointRefused] using h)).trans ((if_neg fun hup => hnow hup.1).trans ?_)
  simp only [State.setReg_pwr, hphase, if_false]
  rfl

/-- R34: the write of PWC_DVFS, with the host domain on and page 0x001 taking writes. -/
theorem exec_dvfsRequest_writable {s : State} (hw : Writable s PG.pwc) (hhost : s.hostOff = false) (ini : Initiator) (v : Word) :
    exec (.dvfsRequest ini v) s = s.ends (s.dvfs (.full ini R.PWC_DVFS v)) := by
  have hreg : (Wr.full ini R.PWC_DVFS v).reg = R.PWC_DVFS := Wr.full_reg ini _ v
  have hcmd : R.PWC_DVFS ≠ R.PWC_CMD := by decide
  simp only [exec_dvfsRequest, execDvfsRequest, State.pwcWr, hhost, State.wrTo, State.gate_writable hw, State.pwcWrite, hreg,
    hcmd, Bool.false_eq_true, if_false, if_true]

theorem State.dvfsRaise_none {s : State} (h : s.pwr.raise = none) : s.dvfsRaise = s := by
  simp only [State.dvfsRaise, h]

theorem State.dvfsRaise_early {s : State} {pt : Nat} {x : Word} (h : s.pwr.raise = some (pt, x))
    (hwait : (s.dtc - x).toNat < 100000) : s.dvfsRaise = s := by
  simp only [State.dvfsRaise, h, hwait, if_true]

theorem State.dvfsRaise_due {s : State} {pt : Nat} {x : Word} (h : s.pwr.raise = some (pt, x))
    (hwait : 100000 ≤ (s.dtc - x).toNat) :
    s.dvfsRaise = (s.atPoint pt (if s.pwr.phase = .active then clkOf pt else s.coreClk)).pwrUpd fun y => { y with raise := none } := by
  simp only [State.dvfsRaise, h, Nat.not_lt.mpr hwait, if_false]
  rfl

/-! ### Loss of power (R584, R592) -/

/-- R584, R592: what is left when every rail drops; `held` tells whether the retention SRAM holds a set. -/
def State.railsLost (s : State) (held : Bool) : State :=
  if s.isOff PG.ldg then (s.memDown true).regsDown held true else s.domainsDown false true

theorem State.railsLost_off {s : State} (h : s.isOff PG.ldg = false) (held : Bool) : (s.railsLost held).off = poweredPages := by
  rw [State.railsLost, if_neg (by simp [h])]
  rfl

/-- R526, R584: a rail that may be low at this time: none is up before the straps, after a trip and in step X1, nor an output
that is off. -/
def State.railIdle (s : State) (n : Fin 7) : Prop :=
  (s.pwr.phase = .porst ∨ s.pwr.phase = .tripped) ∨ (s.pwr.phase = .exiting ∧ s.pwr.step = 1) ∨ s.pwr.pwrEn.getLsbD n = false

/-- R527: PWC_WAKE_FAIL after a rail fault of the output: FAIL, the code 3, the output in PG_LOW, and the memory's bit as it was. -/
def railFailWord (old : Word) (n : Fin 7) : Word := wOfNat (bf old 3 1 <<< 3 + 1 + 1 <<< 1 + (1 <<< n.val) <<< 4)

theorem railFailWord_bits (old : Word) (n : Fin 7) :
    bitAt (railFailWord old n) 0 = true ∧ bitAt (railFailWord old n) (4 + n.val) = true := by
  have hbit : bf old 3 1 = 0 ∨ bf old 3 1 = 1 := by
    have := bf_lt old 3 1
    omega
  unfold railFailWord
  rcases hbit with h | h <;> rw [h] <;> revert n <;> decide

/-- R527, R584: the failed rail stands in PWC_WAKE_FAIL, and PWC_STS shows no state and no entry. -/
def State.railFailed (s : State) (n : Fin 7) : State :=
  (s.setReg PG.pwc R.PWC_WAKE_FAIL (railFailWord (s.reg PG.pwc R.PWC_WAKE_FAIL) n)).setFld PG.pwc R.PWC_STS 0 7 0

theorem State.railFailed_shows (s : State) (n : Fin 7) :
    (s.railFailed n).bit PG.pwc R.PWC_WAKE_FAIL 0 = true ∧ (s.railFailed n).bit PG.pwc R.PWC_WAKE_FAIL (4 + n.val) = true ∧
      (s.railFailed n).fld PG.pwc R.PWC_STS 0 7 = 0 := by
  have hword : (s.railFailed n).reg PG.pwc R.PWC_WAKE_FAIL = railFailWord (s.reg PG.pwc R.PWC_WAKE_FAIL) n :=
    (State.reg_setReg_ne _ _ (by decide)).trans (State.reg_setReg_self _ _ _ _)
  obtain ⟨hfail, hlow⟩ := railFailWord_bits (s.reg PG.pwc R.PWC_WAKE_FAIL) n
  refine ⟨?_, ?_, State.fld_setFld_self _ _ _ _ _ _ (by decide)⟩
  · rw [State.bit, hword, hfail]
  · rw [State.bit, hword, hlow]

theorem State.railFault_idle {s : State} {n : Fin 7} (h : s.railIdle n) : s.railFault n = s := by
  refine if_pos ?_
  unfold State.railIdle at h
  rw [Bool.not_eq_true']
  tauto

/-- R584: outside an entry a rail fault leaves the device in DORMANT with every rail off. -/
theorem State.railFault_drops {s : State} {n : Fin 7} (h : ¬ s.railIdle n) (hentry : s.pwr.phase ≠ .entering) :
    ∃ held, s.railFault n = ((s.railsLost held).railFailed n).pwrUpd fun x => { x with
        phase := .dormant, target := 3, step := 0, todo := [], acked := [], held := [], pwrEn := 0, refclk := false, failed := true
        retry := false, wake := [], saved := held } := by
  refine ⟨s.isOff PG.ldg && s.pwr.saved, ?_⟩
  unfold State.railIdle at h
  unfold State.railFault
  rw [if_neg (by rw [Bool.not_eq_true']; tauto)]
  simp only [hentry, if_false, List.isEmpty_nil, if_true]
  rfl

theorem State.thermTrip_idle {s : State} (h : s.pwr.phase = .porst ∨ s.pwr.phase = .tripped) : s.thermTrip = s :=
  if_pos h.symm

theorem State.thermTrip_trips {s : State} (h : ¬ (s.pwr.phase = .porst ∨ s.pwr.phase = .tripped)) :
    s.thermTrip = ((s.railsLost false).setFld PG.pwc R.PWC_STS 0 7 0).pwrUpd fun x => { x with
      phase := .tripped, step := 0, todo := [], acked := [], held := [], pwrEn := 0, refclk := false, wake := [], saved := false
      retry := false } :=
  if_neg fun hi => h hi.symm

/-! ### Power-on reset and straps (R526) -/

/-- R526: what outlasts a power-on reset of `s`, in a device that is otherwise reset. -/
def State.porstLeaves (s : State) : State :=
  { State.reset with
    part := s.part, free := s.free, pending := s.pending, mem := { flash := s.mem.flash, flashLog := s.mem.flashLog }
    sgr := { counters := s.sgr.counters }, host := { pins := s.host.pins }, enc := s.enc.map fun x => { a := x.a, b := x.b, z := x.z } }

theorem State.powerOn_level0 {s : State} (h : s.dbgLevel = 0) : s.powerOn = s.porstLeaves := if_pos h

/-- R542: the end of the open debug session is recorded. -/
theorem State.powerOn_session {s : State} (h : s.dbgLevel ≠ 0) :
    s.powerOn = s.porstLeaves.setReg PG.sgr R.SGR_DBG_LOG (wOfNat (s.dbgLevel + 3 <<< 2 + s.dtcLow <<< 32)) := if_neg h

/-- R526: beyond what outlasts it, a power-on reset leaves no register but SGR_DBG_LOG other than reset. -/
theorem State.powerOn_resets (s : State) :
    OnlyRegs s.porstLeaves s.powerOn ∧ PageKept s.porstLeaves s.powerOn PG.sgr [R.SGR_DBG_LOG] := by
  by_cases h : s.dbgLevel = 0
  · rw [State.powerOn_level0 h]
    exact ⟨onlyRegs_refl _, pageKept_refl _ _ _⟩
  · rw [State.powerOn_session h]
    exact ⟨onlyRegs_setReg (onlyRegs_refl _) _ _ _, pageKept_setReg (pageKept_refl _ _ _) (by decide) List.mem_cons_self _⟩

theorem exec_powerOnReset_eq (s : State) : exec .powerOnReset s = .next s.powerOn := by
  rw [exec_powerOnReset]
  obtain ⟨honly, -⟩ := s.powerOn_resets
  exact State.ends_of (onlyRegs_read honly State.part fun _ _ => rfl) (onlyRegs_read honly State.pending fun _ _ => rfl)

theorem State.strapSample_late {s : State} (h : s.pwr.phase ≠ .porst) (x : BitVec 4) : s.strapSample x = s := if_pos h

/-- R526: the straps are stored, and the exit as from DORMANT starts with no wake event. -/
theorem State.strapSample_starts {s : State} (h : s.pwr.phase = .porst) (x : BitVec 4) :
    s.strapSample x =
      ((s.setReg PG.pwc R.PWC_STRAP (wOfNat x.toNat)).setReg PG.pwc R.PWC_WAKE_CAUSE 0).pwrUpd fun y => { y with
        phase := .exiting, target := 0, step := 1, wake := [], replayed := false, startAt := s.dtc, attempts := 0, retry := false } :=
  if_neg (not_not.mpr h)

/-! ### The commands -/

theorem exec_dvfsRequest_refused {s : State} (hw : Writable s PG.pwc) (hhost : s.hostOff = false) {ini : Initiator} {v : Word}
    {pt : Nat} (hpt : bf (s.wouldBe PG.pwc (.full ini R.PWC_DVFS v)) 0 2 = pt) (h : s.pointRefused pt) :
    ∃ t, exec (.dvfsRequest ini v) s = .next t ∧ t.bit PG.pwc R.PWC_STS 12 = true ∧ t.bit PG.pwc R.PG_IRQ_RAW 4 = true ∧
      OnlyRegs s t ∧ PageKept s t PG.pwc [R.PWC_STS, R.PG_IRQ_RAW] := by
  rw [exec_dvfsRequest_writable hw hhost, State.dvfs_refused hpt h]
  have hsts : PageKept s (s.setBit PG.pwc R.PWC_STS 12 true) PG.pwc [R.PWC_STS, R.PG_IRQ_RAW] :=
    pageKept_setReg (pageKept_refl _ _ _) (by decide) (by simp) _
  refine ⟨_, State.ends_of rfl rfl, ?_, State.irq_bit _ _ _ (by decide), rfl, pageKept_setReg hsts (by decide) (by simp) _⟩
  exact (State.bit_setReg_ne _ _ _ (by decide)).trans (State.bit_setBit_self _ _ _ _ _ (by decide))

theorem exec_dvfsRequest_raises {s : State} (hw : Writable s PG.pwc) (hhost : s.hostOff = false) {ini : Initiator} {v : Word}
    {pt : Nat} (hpt : bf (s.wouldBe PG.pwc (.full ini R.PWC_DVFS v)) 0 2 = pt) (h : ¬ s.pointRefused pt)
    (hup : s.fld PG.pwc R.PWC_STS 13 2 < pt) (hphase : s.pwr.phase ≠ .watch) :
    ∃ t, exec (.dvfsRequest ini v) s = .next t ∧ t.reg PG.pwc R.PWC_DVFS = wOfNat pt ∧
      t.pwr = { s.pwr with vid := pt, raise := some (pt, s.dtc) } ∧ t.coreClk = s.coreClk ∧ PageKept s t PG.pwc [R.PWC_DVFS] := by
  rw [exec_dvfsRequest_writable hw hhost, State.dvfs_raises hpt h hup hphase]
  exact ⟨_, State.ends_of rfl rfl, State.reg_setReg_self _ _ _ _, rfl, rfl,
    pageKept_pwrUpd (pageKept_setReg (pageKept_refl _ _ _) (by decide) List.mem_cons_self _) _⟩

theorem exec_dvfsRequest_lowers {s : State} (hw : Writable s PG.pwc) (hhost : s.hostOff = false) {ini : Initiator} {v : Word}
    {pt : Nat} (hpt : bf (s.wouldBe PG.pwc (.full ini R.PWC_DVFS v)) 0 2 = pt) (h : ¬ s.pointRefused pt)
    (hdown : pt ≤ s.fld PG.pwc R.PWC_STS 13 2) (hphase : s.pwr.phase ≠ .watch) :
    ∃ t, exec (.dvfsRequest ini v) s = .next t ∧ t.reg PG.pwc R.PWC_DVFS = wOfNat pt ∧ t.fld PG.pwc R.PWC_STS 13 2 = pt ∧
      t.coreClk = clkOf pt ∧ t.pwr = { s.pwr with vid := pt, raise := none } ∧ PageKept s t PG.pwc [R.PWC_DVFS, R.PWC_STS] := by
  have hpt4 : pt < 4 := hpt ▸ bf_lt _ 0 2
  have hdvfs : PageKept s (s.setReg PG.pwc R.PWC_DVFS (wOfNat pt)) PG.pwc [R.PWC_DVFS, R.PWC_STS] :=
    pageKept_setReg (pageKept_refl _ _ _) (by decide) (by simp) _
  rw [exec_dvfsRequest_writable hw hhost, State.dvfs_lowers hpt h hdown hphase]
  refine ⟨_, State.ends_of rfl rfl, ?_, ?_, rfl, rfl, pageKept_pwrUpd (pageKept_atPoint hdvfs (by simp) _ _) _⟩
  · rw [State.reg_pwrUpd, State.reg_atPoint_ne _ (by decide), State.reg_setReg_self]
  · rw [State.fld_pwrUpd, State.fld_atPoint _ hpt4]

theorem exec_dvfsRaiseWait_due {s : State} {pt : Nat} {x : Word} (h : s.pwr.raise = some (pt, x)) (hpt : pt < 4)
    (hwait : 100000 ≤ (s.dtc - x).toNat) :
    ∃ t, exec .dvfsRaiseWait s = .next t ∧ t.fld PG.pwc R.PWC_STS 13 2 = pt ∧ t.pwr = { s.pwr with raise := none } ∧
      t.coreClk = (if s.pwr.phase = .active then clkOf pt else s.coreClk) ∧ PageKept s t PG.pwc [R.PWC_STS] := by
  rw [exec_dvfsRaiseWait, execDvfsRaiseWait, State.dvfsRaise_due h hwait]
  refine ⟨_, State.ends_of rfl rfl, ?_, rfl, rfl, pageKept_pwrUpd (pageKept_atPoint (pageKept_refl _ _ _) List.mem_cons_self _ _) _⟩
  rw [State.fld_pwrUpd, State.fld_atPoint _ hpt]

/-- R584: with the ledger's domain on, a rail fault takes down every domain. -/
theorem exec_railFault_drops {s : State} {n : Fin 7} (h : ¬ s.railIdle n) (hentry : s.pwr.phase ≠ .entering)
    (hldg : s.isOff PG.ldg = false) :
    ∃ t, exec (.railFault n) s = .next t ∧ t.pwr.phase = .dormant ∧ t.pwr.pwrEn = 0 ∧ t.pwr.failed = true ∧ t.off = poweredPages ∧
      t.bit PG.pwc R.PWC_WAKE_FAIL 0 = true ∧ t.bit PG.pwc R.PWC_WAKE_FAIL (4 + n.val) = true ∧
      t.fld PG.pwc R.PWC_STS 0 7 = 0 := by
  obtain ⟨held, hdrops⟩ := State.railFault_drops h hentry
  obtain ⟨hfail, hlow, hsts⟩ := (s.railsLost held).railFailed_shows n
  rw [exec_railFault, execRailFault, hdrops, State.ends_eq]
  exact ⟨_, rfl, rfl, rfl, rfl, State.railsLost_off hldg held, hfail, hlow, hsts⟩

theorem exec_thermtrip_trips {s : State} (h : ¬ (s.pwr.phase = .porst ∨ s.pwr.phase = .tripped)) :
    ∃ t, exec .thermtrip s = .next t ∧ t.pwr.phase = .tripped ∧ t.thermTripN = true ∧ t.pwr.pwrEn = 0 ∧ t.pwr.refclk = false ∧
      (s.isOff PG.ldg = false → t.off = poweredPages) := by
  rw [exec_thermtrip, execThermtrip, State.thermTrip_trips h, State.ends_eq]
  exact ⟨_, rfl, rfl, rfl, rfl, rfl, fun hldg => State.railsLost_off hldg false⟩

theorem exec_powerOnReset_resets (s : State) :
    ∃ t, exec .powerOnReset s = .next t ∧ t.pwr = State.reset.pwr ∧ t.dtc = 0 ∧ t.off = poweredPages ∧ t.ldg = State.reset.ldg ∧
      ∀ q off, off < 0x10000 → (q ≠ PG.sgr ∨ off ≠ R.SGR_DBG_LOG) → t.reg q off = regReset q off := by
  obtain ⟨honly, hkept⟩ := s.powerOn_resets
  refine ⟨_, exec_powerOnReset_eq s, onlyRegs_read honly State.pwr fun _ _ => rfl, onlyRegs_read honly State.dtc fun _ _ => rfl,
    onlyRegs_read honly State.off fun _ _ => rfl, onlyRegs_read honly State.ldg fun _ _ => rfl,
    fun q off hoff hq => hkept q off hoff (hq.imp_right fun hne => ?_)⟩
  simpa using hne

theorem exec_strapSample_starts {s : State} (h : s.pwr.phase = .porst) (x : BitVec 4) :
    ∃ t, exec (.strapSample x) s = .next t ∧ t.reg PG.pwc R.PWC_STRAP = wOfNat x.toNat ∧ t.pwr.phase = .exiting ∧
      t.pwr.target = 0 ∧ t.pwr.step = 1 ∧ t = { s with regs := t.regs, pwr := t.pwr } ∧
      PageKept s t PG.pwc [R.PWC_STRAP, R.PWC_WAKE_CAUSE] := by
  have hstrap : PageKept s (s.setReg PG.pwc R.PWC_STRAP (wOfNat x.toNat)) PG.pwc [R.PWC_STRAP, R.PWC_WAKE_CAUSE] :=
    pageKept_setReg (pageKept_refl _ _ _) (by decide) (by simp) _
  rw [exec_strapSample, execStrapSample, State.strapSample_starts h]
  refine ⟨_, State.ends_of rfl rfl, ?_, rfl, rfl, rfl, rfl, pageKept_pwrUpd (pageKept_setReg hstrap (by decide) (by simp) _) _⟩
  rw [State.reg_pwrUpd, State.reg_setReg_ne _ _ (by decide), State.reg_setReg_self]

/-- Settles O49: each command by its cases, which the phase of the power controller, the point asked for and the time of a raise
tell apart. -/
theorem clockRailsAndReset : Obligations.ClockRailsAndReset := by
  refine ⟨fun ini v s hw hhost => ⟨exec_dvfsRequest_refused hw hhost rfl, exec_dvfsRequest_raises hw hhost rfl,
      exec_dvfsRequest_lowers hw hhost rfl⟩,
    fun s => ⟨fun h => ?_, fun pt x h hwait => ?_, fun pt x => exec_dvfsRaiseWait_due⟩,
    fun n s => ⟨fun h => ?_, exec_railFault_drops, fun h => ?_, exec_thermtrip_trips⟩,
    fun x s => ⟨fun h => ?_, exec_powerOnReset_resets s, fun h => ?_, fun h => exec_strapSample_starts h x⟩⟩
  · rw [exec_dvfsRaiseWait, execDvfsRaiseWait, State.dvfsRaise_none h, State.ends_self]
  · rw [exec_dvfsRaiseWait, execDvfsRaiseWait, State.dvfsRaise_early h hwait, State.ends_self]
  · rw [exec_railFault, execRailFault, State.railFault_idle h, State.ends_self]
  · rw [exec_thermtrip, execThermtrip, State.thermTrip_idle h, State.ends_self]
  · rw [exec_powerOnReset_eq, State.powerOn_level0 h]
    rfl
  · rw [exec_strapSample, execStrapSample, State.strapSample_late h, State.ends_self]

end Sys2Proof.Machine
end

section
/-!
PROOFS. Time bases (R46 to R72): what a command on a base changes and leaves, the position of a base re-anchored or moved, and the
cycle of a SNAP.
-/

namespace Sys2Proof.Machine

/-! ### Registers of one page -/

theorem State.reg_setReg_off (s : State) {page o r : Nat} (v : Word) (h : r ≠ o) : (s.setReg page o v).reg page r = s.reg page r :=
  State.reg_setReg_ne s v (by unfold rkey; omega)

theorem State.reg_setBit_off (s : State) {page o i r : Nat} {b : Bool} (h : r ≠ o) :
    (s.setBit page o i b).reg page r = s.reg page r :=
  State.reg_setReg_off s _ h

theorem State.reg_setFld_off (s : State) {page o lo n v r : Nat} (h : r ≠ o) : (s.setFld page o lo n v).reg page r = s.reg page r :=
  State.reg_setReg_off s _ h

/-- A field of a register after a write of another field, or of a bit outside it. -/
theorem State.fld_setFld_other (s : State) {page o lo n v lo' n' : Nat} (h : lo' + n' ≤ lo ∨ lo + n ≤ lo') :
    (s.setFld page o lo n v).fld page o lo' n' = s.fld page o lo' n' := by
  rw [State.fld, State.setFld, State.reg_setReg_self, bf_putFld_other _ _ _ _ _ _ h, State.fld]

theorem State.fld_setBit_other (s : State) {page o i lo n : Nat} {b : Bool} (h : lo + n ≤ i ∨ i + 1 ≤ lo) :
    (s.setBit page o i b).fld page o lo n = s.fld page o lo n :=
  State.fld_setFld_other s h

theorem State.bit_setBit_ne (s : State) {page o i j : Nat} {b : Bool} (h : j ≠ i) :
    (s.setBit page o i b).bit page o j = s.bit page o j := by
  rw [State.bit, State.setBit, State.reg_setReg_self, bitAt_putBit_ne _ _ _ _ h, State.bit]

theorem State.bit_setFld_other (s : State) {page o lo n v i : Nat} (h : i < lo ∨ lo + n ≤ i) :
    (s.setFld page o lo n v).bit page o i = s.bit page o i := by
  rw [State.bit, State.setFld, State.reg_setReg_self, bitAt_putFld_other _ _ _ _ _ h, State.bit]

/-! ### What a change of one base leaves -/

@[simp] theorem State.reg_ptbUpd (s : State) (p : Fin 8) (f : PtbState → PtbState) (q o : Nat) :
    (s.ptbUpd p f).reg q o = s.reg q o := rfl

@[simp] theorem State.fld_ptbUpd (s : State) (p : Fin 8) (f : PtbState → PtbState) (q o lo n : Nat) :
    (s.ptbUpd p f).fld q o lo n = s.fld q o lo n := rfl

@[simp] theorem State.bit_ptbUpd (s : State) (p : Fin 8) (f : PtbState → PtbState) (q o i : Nat) :
    (s.ptbUpd p f).bit q o i = s.bit q o i := rfl

@[simp] theorem State.ptbUpd_get (s : State) (p : Fin 8) (f : PtbState → PtbState) :
    (s.ptbUpd p f).ptb.get p = f (s.ptb.get p) := vupd_get_self _ _ _

/-- Of base `p` alone something changes: its record, and of the registers none but the listed ones of its page. -/
structure OnlyBase (s t : State) (p : Fin 8) (l : List Nat) : Prop where
  rest : t = { s with regs := t.regs, ptb := t.ptb }
  others : ∀ q, q ≠ p → t.ptb.get q = s.ptb.get q
  kept : PageKept s t (PG.ptb p) l

section
variable {s t : State} {p : Fin 8} {l : List Nat}

theorem onlyBase_refl (s : State) (p : Fin 8) (l : List Nat) : OnlyBase s s p l := ⟨rfl, fun _ _ => rfl, pageKept_refl _ _ _⟩

theorem onlyBase_setReg (h : OnlyBase s t p l) {o : Nat} (ho : o < 0x10000) (hl : o ∈ l) (v : Word) :
    OnlyBase s (t.setReg (PG.ptb p) o v) p l where
  rest := by rw [h.rest]; rfl
  others := h.others
  kept := pageKept_setReg h.kept ho hl v

theorem onlyBase_ptbUpd (h : OnlyBase s t p l) (f : PtbState → PtbState) : OnlyBase s (t.ptbUpd p f) p l where
  rest := by rw [h.rest]; rfl
  others q hq := (vupd_get_ne _ f hq).trans (h.others q hq)
  kept := h.kept

theorem onlyBase_ite {u : State} (h : OnlyBase s t p l) (k : OnlyBase s u p l) (c : Prop) [Decidable c] :
    OnlyBase s (if c then t else u) p l := by
  split <;> assumption

theorem onlyBase_ptbFlag (h : OnlyBase s t p l) (hsts : R.PTB_STS ∈ l) (hraw : R.PG_IRQ_RAW ∈ l) (b : Nat) :
    OnlyBase s (t.ptbFlag p b) p l :=
  onlyBase_setReg (onlyBase_setReg h (by decide) hsts _) (by decide) hraw _

/-- R52, R72: a change of STATE writes the state, and may raise a cause. -/
theorem onlyBase_ptbSetState (h : OnlyBase s t p l) (hsts : R.PTB_STS ∈ l) (hraw : R.PG_IRQ_RAW ∈ l) (st : Nat) :
    OnlyBase s (t.ptbSetState p st) p l := by
  have hst : OnlyBase s (t.setFld (PG.ptb p) R.PTB_STS 0 2 st) p l := onlyBase_setReg h (by decide) hsts _
  have hirq : ∀ {u : State}, OnlyBase s u p l → ∀ b, OnlyBase s (u.irq (PG.ptb p) b) p l :=
    fun h b => onlyBase_setReg h (by decide) hraw _
  exact onlyBase_ite (hirq (onlyBase_ite (hirq hst 0) hst _) 1) (onlyBase_ite (hirq hst 0) hst _) _

theorem OnlyBase.trans {u : State} (h : OnlyBase s t p l) (k : OnlyBase t u p l) : OnlyBase s u p l where
  rest := by rw [k.rest, h.rest]
  others q hq := (k.others q hq).trans (h.others q hq)
  kept q o ho hq := (k.kept q o ho hq).trans (h.kept q o ho hq)

theorem OnlyBase.dtc (h : OnlyBase s t p l) : t.dtc = s.dtc := by rw [h.rest]

theorem OnlyBase.reg (h : OnlyBase s t p l) {o : Nat} (ho : o < 0x10000) (hl : o ∉ l) : t.reg (PG.ptb p) o = s.reg (PG.ptb p) o :=
  h.kept _ o ho (.inr hl)

/-- What it leaves of the state is the answer itself. -/
theorem OnlyBase.ends (h : OnlyBase s t p l) : s.ends t = .next t :=
  State.ends_of (by rw [h.rest]) (by rw [h.rest])

end

/-! ### What the position of a base depends on -/

/-- The time, the state, the source and the rates of base `p` are the same: its record alone decides about its position. -/
structure SameRates (s t : State) (p : Fin 8) : Prop where
  dtc : t.dtc = s.dtc
  st : t.ptbSt p = s.ptbSt p
  src : t.ptbSrc p = s.ptbSrc p
  scale : t.ptbScale p = s.ptbScale p
  nominal : t.ptbNominal p = s.ptbNominal p
  slewMax : t.ptbSlewMax p = s.ptbSlewMax p

/-- Registers that give the source and the rates of a base. -/
def ptbRateRegs : List Nat := [R.PTB_CTL, R.PTB_SCALE, R.PTB_NOMINAL, R.PTB_SLEW_MAX]

section
variable {s t u : State} {p : Fin 8}

theorem sameRates_of_regs (hdtc : t.dtc = s.dtc) (hst : t.ptbSt p = s.ptbSt p)
    (hregs : ∀ o ∈ ptbRateRegs, t.reg (PG.ptb p) o = s.reg (PG.ptb p) o) : SameRates s t p where
  dtc := hdtc
  st := hst
  src := by rw [State.ptbSrc, State.fld, hregs R.PTB_CTL (by decide)]; rfl
  scale := by rw [State.ptbScale, State.fld, hregs R.PTB_SCALE (by decide)]; rfl
  nominal := by rw [State.ptbNominal, hregs R.PTB_NOMINAL (by decide)]; rfl
  slewMax := by rw [State.ptbSlewMax, State.fld, hregs R.PTB_SLEW_MAX (by decide)]; rfl

theorem OnlyBase.sameRates {l : List Nat} (h : OnlyBase s t p l) (hst : t.ptbSt p = s.ptbSt p)
    (hl : ∀ o ∈ ptbRateRegs, o < 0x10000 ∧ o ∉ l) : SameRates s t p :=
  sameRates_of_regs h.dtc hst fun o ho => h.reg (hl o ho).1 (hl o ho).2

theorem OnlyBase.ptbSt {l : List Nat} (h : OnlyBase s t p l) (hl : R.PTB_STS ∉ l) : t.ptbSt p = s.ptbSt p := by
  rw [State.ptbSt, State.fld, h.reg (by decide) hl]
  rfl

theorem SameRates.refl (s : State) (p : Fin 8) : SameRates s s p := ⟨rfl, rfl, rfl, rfl, rfl, rfl⟩

theorem SameRates.symm (h : SameRates s t p) : SameRates t s p :=
  ⟨h.dtc.symm, h.st.symm, h.src.symm, h.scale.symm, h.nominal.symm, h.slewMax.symm⟩

theorem SameRates.trans (h : SameRates s t p) (k : SameRates t u p) : SameRates s u p where
  dtc := k.dtc.trans h.dtc
  st := k.st.trans h.st
  src := k.src.trans h.src
  scale := k.scale.trans h.scale
  nominal := k.nominal.trans h.nominal
  slewMax := k.slewMax.trans h.slewMax

theorem SameRates.running (h : SameRates s t p) : t.ptbRunning p = s.ptbRunning p := by
  rw [State.ptbRunning, h.st, State.ptbRunning]

theorem SameRates.enc (h : SameRates s t p) : t.ptbEnc p = s.ptbEnc p := by rw [State.ptbEnc, h.src, State.ptbEnc]

end

/-- The fields of a base's record on which its position and velocity depend. -/
def PtbState.motion (b : PtbState) : PtbState :=
  { pos := b.pos, frac := b.frac, at_ := b.at_, cnt := b.cnt, edges := b.edges, up := b.up, extrapOn := b.extrapOn
    velEdges := b.velEdges, loop := b.loop, slewN := b.slewN }

theorem PtbState.encPos_motion (b : PtbState) : b.motion.encPos = b.encPos := rfl

theorem PtbState.advance_motion (b : PtbState) (nominal : Int) (slewMax n : Nat) :
    b.motion.advance nominal slewMax n = (b.advance nominal slewMax n).motion := by
  unfold PtbState.advance
  dsimp only
  rw [apply_ite PtbState.motion, apply_ite PtbState.motion]
  rfl

section
variable {s t : State} {p : Fin 8}

theorem ptbTau_congr (hdtc : t.dtc = s.dtc) (h : (t.ptb.get p).motion = (s.ptb.get p).motion) : t.ptbTau p = s.ptbTau p := by
  have hedges : (t.ptb.get p).edges = (s.ptb.get p).edges := (congrArg PtbState.edges h :)
  rw [State.ptbTau, State.ptbTau, hedges, hdtc]

theorem advance_congr (hr : SameRates s t p) (h : (t.ptb.get p).motion = (s.ptb.get p).motion) (n : Nat) :
    ((t.ptb.get p).advance (t.ptbNominal p) (t.ptbSlewMax p) n).motion =
      ((s.ptb.get p).advance (s.ptbNominal p) (s.ptbSlewMax p) n).motion := by
  rw [← PtbState.advance_motion, ← PtbState.advance_motion, h, hr.nominal, hr.slewMax]

theorem ptbElapsed_congr (hdtc : t.dtc = s.dtc) (h : (t.ptb.get p).motion = (s.ptb.get p).motion) :
    t.ptbElapsed p = s.ptbElapsed p := by
  have hat : (t.ptb.get p).at_ = (s.ptb.get p).at_ := (congrArg PtbState.at_ h :)
  rw [State.ptbElapsed, State.ptbElapsed, hat, hdtc]

theorem posAgo_congr (hr : SameRates s t p) (h : (t.ptb.get p).motion = (s.ptb.get p).motion) (n : Nat) :
    t.posAgo p n = s.posAgo p n := by
  have hpos : (t.ptb.get p).pos = (s.ptb.get p).pos := (congrArg PtbState.pos h :)
  have henc : (t.ptb.get p).encPos = (s.ptb.get p).encPos := by
    rw [← PtbState.encPos_motion, h, PtbState.encPos_motion]
  have hadv := fun k => congrArg PtbState.pos (advance_congr hr h k)
  simp only [PtbState.motion] at hadv
  simp only [State.posAgo, hr.running, hr.enc, hr.src, hr.scale, ptbTau_congr hr.dtc h, ptbElapsed_congr hr.dtc h, hpos, henc, hadv]

theorem State.posAgo_zero (s : State) (p : Fin 8) : s.posAgo p 0 = s.pos p := by
  simp only [State.posAgo, State.pos, Nat.sub_zero]

theorem pos_congr (hr : SameRates s t p) (h : (t.ptb.get p).motion = (s.ptb.get p).motion) : t.pos p = s.pos p := by
  rw [← State.posAgo_zero, posAgo_congr hr h, State.posAgo_zero]

theorem sameRates_ptbUpd (s : State) (p : Fin 8) (f : PtbState → PtbState) : SameRates s (s.ptbUpd p f) p :=
  ⟨rfl, rfl, rfl, rfl, rfl, rfl⟩

theorem pos_ptbUpd {f : PtbState → PtbState} (h : (f (s.ptb.get p)).motion = (s.ptb.get p).motion) :
    (s.ptbUpd p f).pos p = s.pos p :=
  pos_congr (sameRates_ptbUpd s p f) (by rw [State.ptbUpd_get, h])

theorem trim_congr (hr : SameRates s t p) (h : (t.ptb.get p).motion = (s.ptb.get p).motion) : t.trim p = s.trim p := by
  have hslew := congrArg PtbState.slewN (advance_congr hr h (s.ptbElapsed p))
  have hloop := congrArg PtbState.loop (advance_congr hr h (s.ptbElapsed p))
  simp only [PtbState.motion] at hslew hloop
  rw [hr.nominal, hr.slewMax] at hslew hloop
  simp only [State.trim, ptbElapsed_congr hr.dtc h, hr.nominal, hr.slewMax, hslew, hloop]

theorem vel_congr (hr : SameRates s t p) (h : (t.ptb.get p).motion = (s.ptb.get p).motion) : t.vel p = s.vel p := by
  have hup : (t.ptb.get p).up = (s.ptb.get p).up := (congrArg PtbState.up h :)
  have hwin : (t.ptb.get p).window = (s.ptb.get p).window := (congrArg PtbState.window h :)
  have hstill : (t.ptb.get p).standstillAt = (s.ptb.get p).standstillAt := (congrArg PtbState.standstillAt h :)
  simp only [State.vel, hr.running, hr.enc, hr.src, hr.scale, ptbTau_congr hr.dtc h, hup, hwin, hstill, hr.nominal, trim_congr hr h]

end

/-! ### A base re-anchored at the present instant (R67, R70) -/

theorem rateDen_pos : 0 < rateDen := by decide

theorem PtbState.moved_frac_lt (b : PtbState) (num : Int) : (b.moved num).frac < rateDen := by
  have hpos : (0 : Int) < rateDen := by exact_mod_cast rateDen_pos
  have hlt := Int.emod_lt_of_pos ((b.frac : Int) + num) hpos
  have hnn := Int.emod_nonneg ((b.frac : Int) + num) hpos.ne'
  simp only [PtbState.moved]
  omega

theorem PtbState.moved_zero_pos {b : PtbState} (h : b.frac < rateDen) : (b.moved 0).pos = b.pos := by
  have hdiv : ((b.frac : Int) + 0) / rateDen = 0 := Int.ediv_eq_zero_of_lt (by omega) (by exact_mod_cast h)
  simp only [PtbState.moved, hdiv]
  exact BitVec.add_zero _

/-- An advance moves the anchor and works off slew; over no time it moves nothing, since a slew that is outstanding takes at
least one nanosecond. -/
theorem PtbState.advance_moved (b : PtbState) (nominal : Int) (slewMax n : Nat) :
    ∃ num k, b.advance nominal slewMax n = { b.moved num with slewN := k } ∧ (n = 0 → num = 0) := by
  unfold PtbState.advance
  by_cases hslew : b.slewN = 0
  · exact ⟨_, b.slewN, if_pos hslew, by rintro rfl; simp⟩
  · dsimp only
    rw [if_neg hslew]
    generalize huse : nominal.natAbs * slewMax = use
    generalize hwait : (if use = 0 then n + 1 else (b.slewN.natAbs + use - 1) / use) = wait
    have hpos : n = 0 → n < wait := by
      rintro rfl
      rw [← hwait]
      split
      · exact Nat.one_pos
      · exact Nat.div_pos (by have := Int.natAbs_pos.mpr hslew; omega) (by omega)
    split
    · exact ⟨_, _, rfl, by rintro rfl; simp⟩
    case isFalse hdone => exact ⟨_, 0, rfl, fun hn => absurd (hpos hn) hdone⟩

theorem PtbState.advance_frac_lt (b : PtbState) (nominal : Int) (slewMax n : Nat) :
    (b.advance nominal slewMax n).frac < rateDen := by
  obtain ⟨num, k, h, -⟩ := b.advance_moved nominal slewMax n
  rw [h]
  exact PtbState.moved_frac_lt _ _

theorem PtbState.advance_zero_pos {b : PtbState} (h : b.frac < rateDen) (nominal : Int) (slewMax : Nat) :
    (b.advance nominal slewMax 0).pos = b.pos := by
  obtain ⟨num, k, hadv, hnum⟩ := b.advance_moved nominal slewMax 0
  rw [hadv, hnum rfl]
  exact PtbState.moved_zero_pos h

/-- Re-anchoring changes the anchor and what is left of the slew, and nothing else of the record. -/
theorem State.settled_eq (s : State) (p : Fin 8) :
    ∃ x f k, s.settled p = { s.ptb.get p with pos := x, frac := f, slewN := k, at_ := s.dtc } := by
  unfold State.settled
  dsimp only
  split
  · exact ⟨_, _, _, rfl⟩
  · obtain ⟨num, k, h, -⟩ := (s.ptb.get p).advance_moved (s.ptbNominal p) (s.ptbSlewMax p) (s.ptbElapsed p)
    exact ⟨_, _, k, by rw [h]; rfl⟩

/-- A field that re-anchoring leaves. -/
theorem State.settled_field {α : Type} (g : PtbState → α) (hg : ∀ b x f k d, g { b with pos := x, frac := f, slewN := k, at_ := d } = g b)
    (s : State) (p : Fin 8) : g (s.settled p) = g (s.ptb.get p) := by
  obtain ⟨x, f, k, h⟩ := s.settled_eq p
  rw [h, hg]

@[simp] theorem State.settled_at (s : State) (p : Fin 8) : (s.settled p).at_ = s.dtc := by
  obtain ⟨x, f, k, h⟩ := s.settled_eq p
  rw [h]

@[simp] theorem State.settled_loop (s : State) (p : Fin 8) : (s.settled p).loop = (s.ptb.get p).loop :=
  State.settled_field PtbState.loop (fun _ _ _ _ _ => rfl) s p
@[simp] theorem State.settled_integ (s : State) (p : Fin 8) : (s.settled p).integ = (s.ptb.get p).integ :=
  State.settled_field PtbState.integ (fun _ _ _ _ _ => rfl) s p
@[simp] theorem State.settled_snapAt (s : State) (p : Fin 8) : (s.settled p).snapAt = (s.ptb.get p).snapAt :=
  State.settled_field PtbState.snapAt (fun _ _ _ _ _ => rfl) s p
@[simp] theorem State.settled_stepped (s : State) (p : Fin 8) : (s.settled p).stepped = (s.ptb.get p).stepped :=
  State.settled_field PtbState.stepped (fun _ _ _ _ _ => rfl) s p
@[simp] theorem State.settled_homeArmed (s : State) (p : Fin 8) : (s.settled p).homeArmed = (s.ptb.get p).homeArmed :=
  State.settled_field PtbState.homeArmed (fun _ _ _ _ _ => rfl) s p

/-- With no slew outstanding none arises. -/
theorem State.settled_slewN_zero {s : State} {p : Fin 8} (h : (s.ptb.get p).slewN = 0) : (s.settled p).slewN = 0 := by
  unfold State.settled
  dsimp only
  split
  · exact h
  · unfold PtbState.advance
    rw [if_pos h]
    exact h

theorem State.ptbSettle_of_slew {s : State} {p : Fin 8} (h : (s.ptb.get p).slewN ≠ 0 ∧ (s.settled p).slewN = 0) :
    s.ptbSettle p = (s.ptbUpd p fun _ => s.settled p).setBit (PG.ptb p) R.PTB_STS 4 false := if_pos h

theorem State.ptbSettle_of_rest {s : State} {p : Fin 8} (h : ¬ ((s.ptb.get p).slewN ≠ 0 ∧ (s.settled p).slewN = 0)) :
    s.ptbSettle p = s.ptbUpd p fun _ => s.settled p := if_neg h

section
variable {s t : State} {p : Fin 8} {l : List Nat}

theorem onlyBase_ptbSettle (h : OnlyBase s t p l) (hl : R.PTB_STS ∈ l) : OnlyBase s (t.ptbSettle p) p l := by
  by_cases hdone : (t.ptb.get p).slewN ≠ 0 ∧ (t.settled p).slewN = 0
  · rw [State.ptbSettle_of_slew hdone]
    exact onlyBase_setReg (onlyBase_ptbUpd h _) (by decide) hl _
  · rw [State.ptbSettle_of_rest hdone]
    exact onlyBase_ptbUpd h _

@[simp] theorem State.ptbSettle_get (s : State) (p : Fin 8) : (s.ptbSettle p).ptb.get p = s.settled p := by
  unfold State.ptbSettle
  dsimp only
  split <;> simp

@[simp] theorem State.ptbSt_ptbSettle (s : State) (p : Fin 8) : (s.ptbSettle p).ptbSt p = s.ptbSt p := by
  unfold State.ptbSettle
  dsimp only
  split
  · exact State.fld_setBit_other _ (by decide)
  · rfl

theorem sameRates_ptbSettle (s : State) (p : Fin 8) : SameRates s (s.ptbSettle p) p :=
  (onlyBase_ptbSettle (l := [R.PTB_STS]) (onlyBase_refl s p _) (by decide)).sameRates (s.ptbSt_ptbSettle p) (by decide)

/-- A base re-anchored and then moved by `d` stands `d` further, whatever slew is left to it. -/
theorem pos_of_settled_moved (hr : SameRates s t p) (d : Word) (x : Int)
    (h : (t.ptb.get p).motion = PtbState.motion { s.settled p with pos := (s.settled p).pos + d, slewN := x }) :
    t.pos p = s.pos p + d := by
  have hpos : (t.ptb.get p).pos = (s.settled p).pos + d := (congrArg PtbState.pos h :)
  cases hrun : s.ptbRunning p with
  | false =>
    have hstill : (s.settled p).pos = (s.ptb.get p).pos := by simp [State.settled, hrun]
    simp [State.pos, hr.running, hrun, hpos, hstill]
  | true =>
    cases henc : s.ptbEnc p with
    | true =>
      have hanchor : s.settled p = { s.ptb.get p with at_ := s.dtc } := by simp [State.settled, henc]
      have htau : t.ptbTau p = s.ptbTau p := by
        have hedges : (t.ptb.get p).edges = (s.settled p).edges := (congrArg PtbState.edges h :)
        rw [State.ptbTau, State.ptbTau, hedges, hanchor, hr.dtc]
      have hshift : ∀ a n k, (t.ptb.get p).encPos a n k = (s.ptb.get p).encPos a n k + d := by
        intro a n k
        rw [← PtbState.encPos_motion, h, PtbState.encPos_motion, hanchor]
        exact add_right_comm _ d _
      simp only [State.pos, hr.running, hr.enc, hrun, henc, hr.src, hr.scale, htau, hshift, Bool.not_true, Bool.false_eq_true,
        if_false, if_true]
    | false =>
      have hadv : s.settled p = { (s.ptb.get p).advance (s.ptbNominal p) (s.ptbSlewMax p) (s.ptbElapsed p) with at_ := s.dtc } := by
        simp [State.settled, hrun, henc]
      have hnow : t.ptbElapsed p = 0 := by
        have hat : (t.ptb.get p).at_ = (s.settled p).at_ := (congrArg PtbState.at_ h :)
        rw [State.ptbElapsed, hat, State.settled_at, hr.dtc, BitVec.sub_self]
        rfl
      have hfrac : (t.ptb.get p).frac < rateDen := by
        have hf : (t.ptb.get p).frac = (s.settled p).frac := (congrArg PtbState.frac h :)
        rw [hf, hadv]
        exact PtbState.advance_frac_lt _ _ _ _
      simp only [State.pos, hr.running, hr.enc, hrun, henc, hnow, PtbState.advance_zero_pos hfrac, hpos, hadv, Bool.not_true,
        Bool.false_eq_true, if_false]

end

/-! ### The cycle of a command (R50, R56) -/

/-- The time and the base's record of its last SNAP are as they were. -/
def KeepsSnap (s t : State) (p : Fin 8) : Prop := t.dtc = s.dtc ∧ (t.ptb.get p).snapAt = (s.ptb.get p).snapAt

theorem keepsSnap_ptbUpd {s t : State} {p : Fin 8} (h : KeepsSnap s t p) {f : PtbState → PtbState}
    (hf : (f (t.ptb.get p)).snapAt = (t.ptb.get p).snapAt) : KeepsSnap s (t.ptbUpd p f) p :=
  ⟨h.1, by rw [State.ptbUpd_get, hf, h.2]⟩

theorem keepsSnap_ptbSettle (s : State) (p : Fin 8) : KeepsSnap s (s.ptbSettle p) p :=
  ⟨(sameRates_ptbSettle s p).dtc, by rw [State.ptbSettle_get, State.settled_snapAt]⟩

theorem KeepsSnap.trans {s t u : State} {p : Fin 8} (h : KeepsSnap s t p) (k : KeepsSnap t u p) : KeepsSnap s u p :=
  ⟨k.1.trans h.1, k.2.trans h.2⟩

/-- The registers that a SNAP writes. -/
def snapRegs : List Nat := [R.PTB_SNAP_POS, R.PTB_SNAP_VEL, R.PTB_SNAP_DTC]

theorem onlyBase_ptbSnap {s t : State} {p : Fin 8} (h : OnlyBase s t p snapRegs) : OnlyBase s (t.ptbSnap p) p snapRegs := by
  have hin : R.PTB_SNAP_POS ∈ snapRegs ∧ R.PTB_SNAP_VEL ∈ snapRegs ∧ R.PTB_SNAP_DTC ∈ snapRegs := by decide
  exact onlyBase_setReg (onlyBase_setReg (onlyBase_setReg (onlyBase_ptbUpd h _) (by decide) hin.1 _) (by decide) hin.2.2 _)
    (by decide) hin.2.1 _

@[simp] theorem State.ptbSnap_get (s : State) (p : Fin 8) :
    (s.ptbSnap p).ptb.get p = { s.ptb.get p with snapAt := some s.dtc } := by
  simp [State.ptbSnap]

/-- R56: the three values are of one instant, and their latching moves nothing. -/
theorem State.ptbSnap_shows (s : State) (p : Fin 8) : SnapShows (s.ptbSnap p) p := by
  have hbase := onlyBase_ptbSnap (onlyBase_refl s p _)
  have hrates : SameRates s (s.ptbSnap p) p := hbase.sameRates (hbase.ptbSt (by decide)) (by decide)
  have hmotion : ((s.ptbSnap p).ptb.get p).motion = (s.ptb.get p).motion := by rw [State.ptbSnap_get]; rfl
  have hmarked : ((s.ptbUpd p fun b => { b with snapAt := some s.dtc }).ptb.get p).motion = (s.ptb.get p).motion := by
    rw [State.ptbUpd_get]; rfl
  have hsame := sameRates_ptbUpd s p fun b => { b with snapAt := some s.dtc }
  unfold SnapShows
  rw [pos_congr hrates hmotion, vel_congr hrates hmotion, hbase.dtc, ← pos_congr hsame hmarked, ← vel_congr hsame hmarked]
  unfold State.ptbSnap
  refine ⟨?_, State.reg_setReg_self _ _ _ _, ?_⟩
  · rw [State.reg_setReg_off _ _ (by decide), State.reg_setReg_off _ _ (by decide), State.reg_setReg_self]
  · rw [State.reg_setReg_off _ _ (by decide), State.reg_setReg_self]
    rfl

section
variable {s : State} {p : Fin 8} {act : State → State}

/-- R56: what a command's cycle adds to its action is the SNAP that lies in the same cycle. -/
theorem onlyBase_ptbCycle (s : State) (p : Fin 8) (act : State → State) : OnlyBase (act s) (s.ptbCycle p act) p snapRegs := by
  unfold State.ptbCycle
  dsimp only
  split
  · exact onlyBase_ptbSnap (onlyBase_refl _ _ _)
  · exact onlyBase_refl _ _ _

theorem State.ptbCycle_get (s : State) (p : Fin 8) (act : State → State) :
    ∃ x, (s.ptbCycle p act).ptb.get p = { (act s).ptb.get p with snapAt := x } := by
  unfold State.ptbCycle
  dsimp only
  split
  · exact ⟨_, State.ptbSnap_get _ _⟩
  · exact ⟨_, rfl⟩

theorem sameRates_ptbCycle (s : State) (p : Fin 8) (act : State → State) : SameRates (act s) (s.ptbCycle p act) p :=
  (onlyBase_ptbCycle s p act).sameRates ((onlyBase_ptbCycle s p act).ptbSt (by decide)) (by decide)

theorem State.pos_ptbCycle (s : State) (p : Fin 8) (act : State → State) : (s.ptbCycle p act).pos p = (act s).pos p := by
  obtain ⟨x, hx⟩ := s.ptbCycle_get p act
  exact pos_congr (sameRates_ptbCycle s p act) (by rw [hx]; rfl)

/-- With no SNAP in the cycle the action is all there is. -/
theorem State.ptbCycle_fresh (hs : (s.ptb.get p).snapAt ≠ some s.dtc) (hk : KeepsSnap s (act s) p) : s.ptbCycle p act = act s :=
  if_neg (by rw [hk.1, hk.2]; exact hs)

theorem State.ptbCycle_shows (hs : (s.ptb.get p).snapAt = some s.dtc) (hk : KeepsSnap s (act s) p) :
    SnapShows (s.ptbCycle p act) p := by
  have h : s.ptbCycle p act = (act s).ptbSnap p := if_pos (by rw [hk.1, hk.2]; exact hs)
  rw [h]
  exact State.ptbSnap_shows _ _

end

/-! ### Writes of a base's page (R50, R55, R66) -/

section
variable {s : State} {p : Fin 8}

theorem ptbWriteRule_ctl {w : Wr} (h : w.reg = R.PTB_CTL) : s.ptbWriteRule p w = s.ptbCtlWrite p w := if_pos h

theorem ptbWriteRule_cmd {w : Wr} (h : w.reg = R.PTB_CMD) : s.ptbWriteRule p w = s.ptbCommand p (bf w.val 0 4) := by
  unfold State.ptbWriteRule
  rw [h]
  exact (if_neg (by decide)).trans (if_pos rfl)

theorem ptbWriteRule_ofs {w : Wr} (h : w.reg = R.PTB_OFS_IN) : s.ptbWriteRule p w = s.ptbSubmit p w.val := by
  unfold State.ptbWriteRule
  rw [h]
  exact (if_neg (by decide)).trans ((if_neg (by decide)).trans (if_pos rfl))

theorem ptbWr_cmd (hw : Writable s (PG.ptb p)) (ini : Initiator) (v : Word) :
    s.ptbWr ini p R.PTB_CMD v = s.ptbCycle p fun s => s.ptbCommand p (bf v 0 4) := by
  simp only [State.ptbWr, State.gate_writable hw, State.ptbWrite, ptbWriteRule_cmd (Wr.full_reg ini R.PTB_CMD v), Wr.full_val]

theorem ptbWr_ctl (hw : Writable s (PG.ptb p)) (ini : Initiator) (v : Word) :
    s.ptbWr ini p R.PTB_CTL v = s.ptbCycle p fun s => s.ptbCtlWrite p (.full ini R.PTB_CTL v) := by
  simp only [State.ptbWr, State.gate_writable hw, State.ptbWrite, ptbWriteRule_ctl (Wr.full_reg ini R.PTB_CTL v)]

theorem ptbWr_ofs (hw : Writable s (PG.ptb p)) (ini : Initiator) (v : Word) :
    s.ptbWr ini p R.PTB_OFS_IN v = s.ptbCycle p fun s => s.ptbSubmit p v := by
  simp only [State.ptbWr, State.gate_writable hw, State.ptbWrite, ptbWriteRule_ofs (Wr.full_reg ini R.PTB_OFS_IN v), Wr.full_val]

end

@[simp] theorem State.pos_withQueueOf (t s : State) (p : Fin 8) : (t.withQueueOf s).pos p = t.pos p := rfl

@[simp] theorem State.vel_withQueueOf (t s : State) (p : Fin 8) : (t.withQueueOf s).vel p = t.vel p := rfl

@[simp] theorem State.ptbSt_withQueueOf (t s : State) (p : Fin 8) : (t.withQueueOf s).ptbSt p = t.ptbSt p := rfl

end Sys2Proof.Machine
end

section
/-!
PROOFS. Discontinuity records (R73, R444) beside the time bases: the results unit writes them to memory and to registers of its own
and of the memory's pages, and no base changes.
-/

namespace Sys2Proof.Machine

/-- All on which the time bases depend stands as it was: the time, their records, their inputs, their power and their registers. -/
structure TimeKept (s t : State) : Prop where
  dtc : t.dtc = s.dtc
  ptb : t.ptb = s.ptb
  enc : t.enc = s.enc
  off : t.off = s.off
  regs : ∀ p : Fin 8, ∀ o, o < 0x10000 → t.reg (PG.ptb p) o = s.reg (PG.ptb p) o

/-- The pages that belong to no time base. -/
def besidePtb (page : Nat) : Prop := page < PG.ptb 0 ∨ PG.ptb 7 < page

theorem besidePtb_ne {page : Nat} (h : besidePtb page) (p : Fin 8) : PG.ptb p ≠ page := by
  have := p.isLt
  unfold besidePtb PG.ptb at h
  unfold PG.ptb
  omega

theorem timeKept_refl (s : State) : TimeKept s s := ⟨rfl, rfl, rfl, rfl, fun _ _ _ => rfl⟩

section
variable {s t u : State}

theorem TimeKept.trans (h : TimeKept s t) (k : TimeKept t u) : TimeKept s u where
  dtc := k.dtc.trans h.dtc
  ptb := k.ptb.trans h.ptb
  enc := k.enc.trans h.enc
  off := k.off.trans h.off
  regs p o ho := (k.regs p o ho).trans (h.regs p o ho)

theorem timeKept_mem (h : TimeKept s t) (m : MemState) : TimeKept s { t with mem := m } := ⟨h.dtc, h.ptb, h.enc, h.off, h.regs⟩
theorem timeKept_ldg (h : TimeKept s t) (m : LedgerState) : TimeKept s { t with ldg := m } := ⟨h.dtc, h.ptb, h.enc, h.off, h.regs⟩
theorem timeKept_res (h : TimeKept s t) (m : ResState) : TimeKept s { t with res := m } := ⟨h.dtc, h.ptb, h.enc, h.off, h.regs⟩
theorem timeKept_rch (h : TimeKept s t) (m : RchState) : TimeKept s { t with rch := m } := ⟨h.dtc, h.ptb, h.enc, h.off, h.regs⟩
theorem timeKept_sched (h : TimeKept s t) (l : List Sched) : TimeKept s { t with sched := l } := ⟨h.dtc, h.ptb, h.enc, h.off, h.regs⟩

theorem timeKept_ite (h : TimeKept s t) (k : TimeKept s u) (c : Prop) [Decidable c] : TimeKept s (if c then t else u) := by
  split <;> assumption

theorem timeKept_setReg (h : TimeKept s t) {page o : Nat} (hp : besidePtb page) (ho : o < 0x10000) (v : Word) :
    TimeKept s (t.setReg page o v) :=
  h.trans ⟨rfl, rfl, rfl, rfl, fun _ _ hr => State.reg_setReg_ne _ _ (rkey_ne ho hr (.inl (besidePtb_ne hp _)))⟩

/-! ### Memory -/

theorem besidePtb_mras : besidePtb PG.mras := by unfold besidePtb; decide

theorem besidePtb_res : besidePtb PG.res := by unfold besidePtb; decide

theorem besidePtb_mem (c : Nat) : besidePtb (PG.mem c) := by
  right
  show 0x068 + 7 < 0x078 + c
  omega

theorem besidePtb_shf {k : Nat} (h : k < 6) : besidePtb (PG.shf k) := by
  left
  show 0x043 + 4 * k < 0x068 + 0
  omega

theorem BKT_STS_lt (b : Fin 39) : R.BKT_STS b < 0x10000 := by
  have := b.isLt
  unfold R.BKT_STS
  omega

theorem timeKept_bucketLeaks (h : TimeKept s t) (b : Fin 39) (ms n : Nat) : TimeKept s (t.bucketLeaks b ms n) :=
  timeKept_setReg (timeKept_mem h _) besidePtb_mras (BKT_STS_lt b) _

theorem timeKept_bucketAdd (h : TimeKept s t) (b : Fin 39) : TimeKept s (t.bucketAdd b) := by
  have hsts : ∀ {u : State}, TimeKept s u → ∀ v, TimeKept s (u.setReg PG.mras (R.BKT_STS b) v) :=
    fun h v => timeKept_setReg h besidePtb_mras (BKT_STS_lt b) v
  unfold State.bucketAdd
  dsimp only
  split
  · exact h
  · have hleak := timeKept_bucketLeaks h b (t.fld PG.mras (R.BKT_CFG b) 16 16) (t.bucketDue b (t.fld PG.mras (R.BKT_CFG b) 16 16))
    split
    · exact timeKept_setReg (timeKept_setReg (hsts (hsts (hsts hleak _) _) _) besidePtb_mras (by decide) _) besidePtb_mras (by decide) _
    · exact hsts hleak _

/-- R459: the cause of an error, and that of a write that met it. -/
theorem timeKept_errIrq (h : TimeKept s t) {page : Nat} (hp : besidePtb page) (i : Nat) (wr : Bool) :
    TimeKept s (if wr then (t.irq page i).irq page 2 else t.irq page i) := by
  have hi : TimeKept s (t.irq page i) := timeKept_setReg h hp (by decide) _
  split
  · exact timeKept_setReg hi hp (by decide) _
  · exact hi

theorem timeKept_hbmErr (h : TimeKept s t) (a : Nat) (e : WordErr) (wr : Bool) : TimeKept s (t.hbmErr a e wr) := by
  have hp := besidePtb_mem (pcOf a / 2)
  have hcnt : (if pcOf a % 2 = 0 then R.MEM_PC0_CNT else R.MEM_PC1_CNT) < 0x10000 := by split <;> decide
  have hlog : (if pcOf a % 2 = 0 then R.MEM_PC0_ERR else R.MEM_PC1_ERR) < 0x10000 := by split <;> decide
  unfold State.hbmErr
  cases e with
  | correctable => exact timeKept_bucketAdd (timeKept_setReg h hp hcnt _) _
  | uncorrectable => exact timeKept_errIrq (timeKept_setReg (timeKept_setReg h hp hcnt _) hp hlog _) hp 0 wr
  | poison => exact timeKept_errIrq (timeKept_setReg (timeKept_setReg h hp hcnt _) hp hlog _) hp 1 wr

theorem timeKept_shelfErr (h : TimeKept s t) {k : Nat} (hk : k < 6) (a : Nat) (e : WordErr) (wr : Bool) :
    TimeKept s (t.shelfErr k a e wr) := by
  have hp := besidePtb_shf hk
  have hlog : TimeKept s (t.logInfo1 (PG.shf k) a) :=
    timeKept_setReg (timeKept_setReg (timeKept_setReg h hp (by decide) _) hp (by decide) _) hp (by decide) _
  unfold State.shelfErr
  cases e with
  | correctable => exact timeKept_bucketAdd h _
  | uncorrectable => exact timeKept_errIrq hlog hp 0 wr
  | poison => exact timeKept_errIrq hlog hp 1 wr

theorem timeKept_wordErr (h : TimeKept s t) {sh : Option Nat} (hsh : ∀ k, sh = some k → k < 6) (a : Nat) (e : WordErr) (wr : Bool) :
    TimeKept s (t.wordErr sh a e wr) := by
  cases sh with
  | none => exact timeKept_hbmErr h a e wr
  | some k => exact timeKept_shelfErr h (hsh k rfl) a e wr

theorem timeKept_storeWord (h : TimeKept s t) (a : Nat) (l : List Byte) (e : Option WordErr) : TimeKept s (t.storeWord a l e) :=
  timeKept_mem h _

theorem timeKept_partialWrite (h : TimeKept s t) {sh : Option Nat} (hsh : ∀ k, sh = some k → k < 6) (a : Nat)
    (new : List (Nat × Byte)) (items : List Nat) : TimeKept s (t.partialWrite sh a new items) := by
  have htake : TimeKept s t.takeFree.2 := ⟨h.dtc, h.ptb, h.enc, h.off, h.regs⟩
  unfold State.partialWrite
  generalize t.takeFree = x at htake
  obtain ⟨i, t⟩ := x
  dsimp only at htake ⊢
  split
  · exact timeKept_storeWord htake _ _ _
  · exact timeKept_storeWord (timeKept_wordErr htake hsh _ _ _) _ _ _
  · exact timeKept_ldg (timeKept_storeWord (timeKept_wordErr htake hsh _ _ _) _ _ _) _

theorem timeKept_flushEntry (h : TimeKept s t) (e : MergeEntry) : TimeKept s (t.flushEntry e) := by
  have hp := besidePtb_mem (pcOf e.word / 2)
  unfold State.flushEntry
  dsimp only
  split
  · exact h
  · split
    · exact timeKept_setReg (timeKept_storeWord h _ _ _) hp (by decide) _
    · exact timeKept_setReg (timeKept_partialWrite h (by simp) _ _ _) hp (by decide) _

theorem timeKept_setMerge (h : TimeKept s t) (pc : Fin 32) (l : List MergeEntry) : TimeKept s (t.setMerge pc l) :=
  timeKept_mem h _

theorem timeKept_flushWord (h : TimeKept s t) (a : Nat) : TimeKept s (t.flushWord a) := by
  unfold State.flushWord
  dsimp only
  split
  · exact h
  · exact timeKept_flushEntry (timeKept_setMerge h _ _) _

theorem timeKept_gather (h : TimeKept s t) (a : Nat) (new : List (Nat × Byte)) (item : Option Nat) :
    TimeKept s (t.gather a new item) := by
  unfold State.gather
  dsimp only
  split
  · split
    · exact timeKept_flushEntry (timeKept_setMerge h _ _) _
    · exact timeKept_setMerge h _ _
  · split
    · split
      · exact timeKept_flushEntry (timeKept_setMerge h _ _) _
      · exact timeKept_setMerge h _ _
    · exact timeKept_setMerge h _ _

theorem timeKept_writeWordPart (h : TimeKept s t) {sh : Option Nat} (hsh : ∀ k, sh = some k → k < 6) (item : Option Nat) (a : Nat)
    (part : List (Nat × Byte)) : TimeKept s (t.writeWordPart sh item a part) := by
  unfold State.writeWordPart
  split
  · split
    · exact h
    · split
      · exact timeKept_storeWord (timeKept_flushWord h a) _ _ _
      · exact timeKept_gather h _ _ _
  · split
    · exact timeKept_storeWord h _ _ _
    · exact timeKept_partialWrite h hsh _ _ _

/-- R35: a range of a shelf lies in one of the six. -/
theorem shelfOf_lt {a n k : Nat} (h : shelfOf a n = some k) : k < 6 := by
  unfold shelfOf at h
  dsimp only at h
  split at h
  · cases h
  · split at h
    case isTrue hk =>
      cases h
      exact hk.1
    case isFalse => cases h

theorem timeKept_writeBytes (h : TimeKept s t) (item : Option Nat) (a : Nat) (l : List Byte) : TimeKept s (t.writeBytes item a l) := by
  unfold State.writeBytes
  dsimp only
  split
  · exact h
  · exact foldl_keeps (TimeKept s) _ (fun u p hu => timeKept_writeWordPart hu (fun k hk => shelfOf_lt hk) _ _ _) _ _ h

/-! ### Results (R443, R448) -/

theorem timeKept_ringPut (h : TimeKept s t) (base size pos : Nat) (bs : List Byte) : TimeKept s (t.ringPut base size pos bs) := by
  unfold State.ringPut
  dsimp only
  split
  · exact timeKept_writeBytes h _ _ _
  · exact timeKept_writeBytes (timeKept_writeBytes h _ _ _) _ _ _

theorem RING_HEAD_lt (k : Fin 32) : R.RING_HEAD k < 0x10000 := by
  have := k.isLt
  unfold R.RING_HEAD
  omega

theorem RING_CNT_lt (k : Fin 32) : R.RING_CNT k < 0x10000 := by
  have := k.isLt
  unfold R.RING_CNT
  omega

theorem timeKept_snd_ite {x y : Bool × State} (c : Prop) [Decidable c] (h : TimeKept s x.2) (k : TimeKept s y.2) :
    TimeKept s (if c then x else y).2 := by
  split <;> assumption

theorem timeKept_writeRecord (h : TimeKept s t) (ty : RecType) (port : Option (Fin 8)) (win : Nat) (body : List Byte) :
    TimeKept s (t.writeRecord ty port win body).2 := by
  have hraw : R.PG_IRQ_RAW < 0x10000 := by decide
  have hcnt0 : R.RES_CNT0 < 0x10000 := by decide
  have hres : ∀ {u : State}, TimeKept s u → ∀ {o}, o < 0x10000 → ∀ v, TimeKept s (u.setReg PG.res o v) :=
    fun h _ ho v => timeKept_setReg h besidePtb_res ho v
  unfold State.writeRecord
  dsimp only
  refine timeKept_snd_ite _ h (timeKept_snd_ite _ (hres h hcnt0 _) (timeKept_snd_ite _ ?_ ?_))
  · refine timeKept_ite (timeKept_res (timeKept_ite (hres ?_ hraw _) ?_ _) _) (timeKept_ite (hres ?_ hraw _) ?_ _) _
    all_goals
      exact hres (hres (hres (timeKept_ringPut (timeKept_res h _) _ _ _ _) (RING_HEAD_lt _) _) (RING_CNT_lt _) _) hcnt0 _
  · exact hres (hres (timeKept_res h _) (RING_CNT_lt _) _) hraw _

theorem timeKept_setWins (h : TimeKept s t) (p : Fin 8) (l : List Win) : TimeKept s (t.setWins p l) := timeKept_res h _

theorem timeKept_discDeliver (h : TimeKept s t) (d : DiscRec) : TimeKept s (t.discDeliver d) := by
  refine foldl_keeps (TimeKept s) _ (fun u p hu => ?_) _ _ h
  split
  · exact timeKept_writeRecord (timeKept_setWins hu _ _) _ _ _ _
  · exact hu

/-- R73: a discontinuity record changes no time base. -/
theorem timeKept_discRecord (h : TimeKept s t) (d : DiscRec) : TimeKept s (t.discRecord d) := by
  unfold State.discRecord
  dsimp only
  split
  · exact foldl_keeps (TimeKept s) _ (fun u e hu => timeKept_discDeliver hu e) _ _ ⟨h.dtc, h.ptb, h.enc, h.off, h.regs⟩
  · exact ⟨h.dtc, h.ptb, h.enc, h.off, h.regs⟩

end

end Sys2Proof.Machine
end

section
/-!
PROOFS. The commands of PTB_CMD (R50, R56, R62, R67, R69, R70).
-/

namespace Sys2Proof.Machine

/-! ### A step of the position (R69) -/

theorem TimeKept.sameRates {s t : State} (h : TimeKept s t) (p : Fin 8) : SameRates s t p := by
  have hreg : ∀ o, o < 0x10000 → t.reg (PG.ptb p) o = s.reg (PG.ptb p) o := h.regs p
  refine sameRates_of_regs h.dtc ?_ fun o ho => hreg o ?_
  · rw [State.ptbSt, State.fld, hreg _ (by decide)]
    rfl
  · revert o
    decide

/-- Base `p` re-anchored and moved by `d` at once. -/
def State.ptbMoved (s : State) (p : Fin 8) (d : Word) : State :=
  (s.ptbSettle p).ptbUpd p fun b => { b with pos := b.pos + d, discAt := s.dtc }

section
variable {s t : State} {p : Fin 8}

/-- R69: beside the move of its base a step changes no time base. -/
theorem timeKept_ptbStep (s : State) (p : Fin 8) (d : Word) (cause : DiscCause) :
    TimeKept (s.ptbMoved p d) (s.ptbStep p d cause) := by
  have hmoved : (s.ptbSettle p).ptbUpd p (fun b => { b with pos := b.pos + d, discAt := (s.ptbSettle p).dtc }) = s.ptbMoved p d := by
    rw [(sameRates_ptbSettle s p).dtc]
    rfl
  unfold State.ptbStep
  dsimp only
  rw [hmoved]
  have hsched : TimeKept (s.ptbMoved p d) ((s.ptbMoved p d).schedStep p (s.pos p) (s.pos p + d) (stepCode cause)) :=
    timeKept_ite (timeKept_sched (timeKept_refl _) _) (timeKept_sched (timeKept_refl _) _) _
  exact timeKept_discRecord (timeKept_ite (timeKept_rch hsched _) hsched _) _

@[simp] theorem State.ptbMoved_get (s : State) (p : Fin 8) (d : Word) :
    (s.ptbMoved p d).ptb.get p = { s.settled p with pos := (s.settled p).pos + d, discAt := s.dtc } := by
  simp [State.ptbMoved]

theorem onlyBase_ptbMoved (s : State) (p : Fin 8) (d : Word) : OnlyBase s (s.ptbMoved p d) p [R.PTB_STS] :=
  onlyBase_ptbUpd (onlyBase_ptbSettle (onlyBase_refl s p _) (by decide)) _

@[simp] theorem State.ptbStep_get (s : State) (p : Fin 8) (d : Word) (cause : DiscCause) :
    (s.ptbStep p d cause).ptb.get p = { s.settled p with pos := (s.settled p).pos + d, discAt := s.dtc } := by
  rw [(timeKept_ptbStep s p d cause).ptb, State.ptbMoved_get]

theorem State.ptbStep_get_ne (s : State) (p : Fin 8) (d : Word) (cause : DiscCause) {q : Fin 8} (h : q ≠ p) :
    (s.ptbStep p d cause).ptb.get q = s.ptb.get q := by
  rw [(timeKept_ptbStep s p d cause).ptb, (onlyBase_ptbMoved s p d).others q h]

/-- A step leaves the registers of its base, the settled slew's bit in PTB_STS aside, and those of every other base. -/
theorem State.reg_ptbStep (s : State) (p : Fin 8) (d : Word) (cause : DiscCause) {q : Fin 8} {o : Nat} (ho : o < 0x10000)
    (h : q ≠ p ∨ o ≠ R.PTB_STS) : (s.ptbStep p d cause).reg (PG.ptb q) o = s.reg (PG.ptb q) o := by
  rw [(timeKept_ptbStep s p d cause).regs q o ho]
  refine (onlyBase_ptbMoved s p d).kept _ o ho (h.imp (fun hq e => hq (Fin.ext ?_)) (by simp))
  unfold PG.ptb at e
  omega

theorem sameRates_ptbStep (s : State) (p : Fin 8) (d : Word) (cause : DiscCause) : SameRates s (s.ptbStep p d cause) p := by
  have hmoved : SameRates s (s.ptbMoved p d) p := (onlyBase_ptbMoved s p d).sameRates (s.ptbSt_ptbSettle p) (by decide)
  exact hmoved.trans ((timeKept_ptbStep s p d cause).sameRates p)

theorem keepsSnap_ptbStep (s : State) (p : Fin 8) (d : Word) (cause : DiscCause) : KeepsSnap s (s.ptbStep p d cause) p :=
  ⟨(sameRates_ptbStep s p d cause).dtc, by rw [State.ptbStep_get]; exact State.settled_snapAt s p⟩

theorem State.pos_ptbStep (s : State) (p : Fin 8) (d : Word) (cause : DiscCause) : (s.ptbStep p d cause).pos p = s.pos p + d :=
  pos_of_settled_moved (sameRates_ptbStep s p d cause) d (s.settled p).slewN (by rw [State.ptbStep_get]; rfl)

/-! ### The commands on a page that takes writes -/

theorem exec_snap_writable (hw : Writable s (PG.ptb p)) (ini : Initiator) :
    exec (.snap ini p) s = s.ends (s.ptbCycle p fun s => s.ptbSnap p) := by
  rw [exec_snap, execSnap, ptbWr_cmd hw]
  rfl

theorem exec_forceStep_writable (hw : Writable s (PG.ptb p)) (ini : Initiator) :
    exec (.forceStep ini p) s = s.ends (s.ptbCycle p fun s => s.ptbForceStep p) := by
  rw [exec_forceStep, execForceStep, ptbWr_cmd hw]
  rfl

theorem exec_acceptSlew_writable (hw : Writable s (PG.ptb p)) (ini : Initiator) :
    exec (.acceptSlew ini p) s = s.ends (s.ptbCycle p fun s => s.ptbAcceptSlew p) := by
  rw [exec_acceptSlew, execAcceptSlew, ptbWr_cmd hw]
  rfl

theorem exec_armHome_writable (hw : Writable s (PG.ptb p)) (ini : Initiator) :
    exec (.armHome ini p) s = s.ends (s.ptbCycle p fun s => s.ptbArmHome p) := by
  rw [exec_armHome, execArmHome, ptbWr_cmd hw]
  rfl

theorem exec_clearServo_writable (hw : Writable s (PG.ptb p)) (ini : Initiator) :
    exec (.clearServo ini p) s = s.ends (s.ptbCycle p fun s => s.ptbClearServo p) := by
  rw [exec_clearServo, execClearServo, ptbWr_cmd hw]
  rfl

theorem exec_offsetSubmit_writable (hw : Writable s (PG.ptb p)) (ini : Initiator) (e : Word) :
    exec (.offsetSubmit ini p e) s = s.ends (s.ptbCycle p fun s => s.ptbSubmit p e) := by
  rw [exec_offsetSubmit, execOffsetSubmit, ptbWr_ofs hw]

/-! ### FORCE_STEP (R69) -/

theorem State.ptbForceStep_zero (h : s.reg (PG.ptb p) R.PTB_STEP = 0) : s.ptbForceStep p = s := if_pos h

/-- R69: a step by PTB_STEP, which leaves no slew. -/
theorem State.ptbForceStep_steps (h : s.reg (PG.ptb p) R.PTB_STEP ≠ 0) : ∃ c, s.ptbForceStep p =
    ((s.ptbStep p (s.reg (PG.ptb p) R.PTB_STEP) .forceStep).ptbUpd p fun b => { b with slewN := 0, stepped := some c }).setBit
      (PG.ptb p) R.PTB_STS 4 false := by
  unfold State.ptbForceStep
  exact ⟨_, if_neg h⟩

theorem keepsSnap_ptbForceStep (s : State) (p : Fin 8) : KeepsSnap s (s.ptbForceStep p) p := by
  by_cases h : s.reg (PG.ptb p) R.PTB_STEP = 0
  · rw [State.ptbForceStep_zero h]
    exact ⟨rfl, rfl⟩
  · obtain ⟨c, hc⟩ := State.ptbForceStep_steps h
    rw [hc]
    exact keepsSnap_ptbUpd (keepsSnap_ptbStep s p _ _) rfl

/-- R69: what a FORCE_STEP of another amount than 0 leaves. -/
theorem State.ptbForceStep_moves (h : s.reg (PG.ptb p) R.PTB_STEP ≠ 0) :
    SameRates s (s.ptbForceStep p) p ∧ (s.ptbForceStep p).bit (PG.ptb p) R.PTB_STS 4 = false ∧
      (∀ q, q ≠ p → (s.ptbForceStep p).ptb.get q = s.ptb.get q) ∧
      ∃ c, (s.ptbForceStep p).ptb.get p = { s.settled p with
        pos := (s.settled p).pos + s.reg (PG.ptb p) R.PTB_STEP, discAt := s.dtc, slewN := 0, stepped := some c } := by
  obtain ⟨c, hc⟩ := State.ptbForceStep_steps h
  have hstep := sameRates_ptbStep s p (s.reg (PG.ptb p) R.PTB_STEP) .forceStep
  rw [hc]
  refine ⟨hstep.trans (sameRates_of_regs rfl ?_ ?_), State.bit_setBit_self _ _ _ _ _ (by decide), fun q hq => ?_, c, ?_⟩
  · exact State.fld_setBit_other _ (by decide)
  · intro o ho
    exact State.reg_setReg_off _ _ (by revert o; decide)
  · exact (vupd_get_ne _ _ hq).trans (State.ptbStep_get_ne s p _ _ hq)
  · rw [State.setBit_ptb, State.ptbUpd_get, State.ptbStep_get]

/-! ### ACCEPT_SLEW, ARM_HOME, CLEAR_SERVO (R62, R67, R70) -/

theorem State.ptbAcceptSlew_zero (h : s.reg (PG.ptb p) R.PTB_REFUSED_OFS = 0) : s.ptbAcceptSlew p = s := if_pos h

/-- R70: the refused offset joins the slew that is outstanding. -/
theorem State.ptbAcceptSlew_adds (h : s.reg (PG.ptb p) R.PTB_REFUSED_OFS ≠ 0) :
    ∃ b, s.ptbAcceptSlew p = (((s.ptbSettle p).setReg (PG.ptb p) R.PTB_REFUSED_OFS 0).ptbUpd p fun b =>
        { b with slewN := b.slewN + (s.reg (PG.ptb p) R.PTB_REFUSED_OFS).toInt * 10 ^ 18 }).setBit (PG.ptb p) R.PTB_STS 4 b ∧
      b = decide ((s.settled p).slewN + (s.reg (PG.ptb p) R.PTB_REFUSED_OFS).toInt * 10 ^ 18 ≠ 0) := by
  unfold State.ptbAcceptSlew
  refine ⟨_, if_neg h, ?_⟩
  simp

theorem keepsSnap_ptbAcceptSlew (s : State) (p : Fin 8) : KeepsSnap s (s.ptbAcceptSlew p) p := by
  by_cases h : s.reg (PG.ptb p) R.PTB_REFUSED_OFS = 0
  · rw [State.ptbAcceptSlew_zero h]
    exact ⟨rfl, rfl⟩
  · obtain ⟨b, hb, -⟩ := State.ptbAcceptSlew_adds h
    rw [hb]
    exact keepsSnap_ptbUpd (t := (s.ptbSettle p).setReg (PG.ptb p) R.PTB_REFUSED_OFS 0) (keepsSnap_ptbSettle s p) rfl

theorem keepsSnap_ptbArmHome (s : State) (p : Fin 8) : KeepsSnap s (s.ptbArmHome p) p := keepsSnap_ptbUpd ⟨rfl, rfl⟩ rfl

theorem keepsSnap_ptbClearServo (s : State) (p : Fin 8) : KeepsSnap s (s.ptbClearServo p) p :=
  keepsSnap_ptbUpd (keepsSnap_ptbSettle s p) rfl

end

end Sys2Proof.Machine
end

section
/-!
PROOFS. Offsets and the servo (R66 to R72).
-/

namespace Sys2Proof.Machine

section
variable {s t : State} {p : Fin 8}

/-! ### Flags and counters of a base (R13, R52) -/

theorem State.reg_ptbFlag_off (s : State) (p : Fin 8) (b : Nat) {o : Nat} (hsts : o ≠ R.PTB_STS) (hraw : o ≠ R.PG_IRQ_RAW) :
    (s.ptbFlag p b).reg (PG.ptb p) o = s.reg (PG.ptb p) o :=
  (State.reg_setReg_off _ _ hraw).trans (State.reg_setReg_off _ _ hsts)

theorem State.bit_ptbFlag_sts (s : State) (p : Fin 8) {b : Nat} (h : b < 64) : (s.ptbFlag p b).bit (PG.ptb p) R.PTB_STS b = true := by
  have hraw : (s.ptbFlag p b).reg (PG.ptb p) R.PTB_STS = (s.setBit (PG.ptb p) R.PTB_STS b true).reg (PG.ptb p) R.PTB_STS :=
    State.reg_setReg_off _ _ (by decide)
  rw [State.bit, hraw]
  exact State.bit_setBit_self _ _ _ _ _ h

theorem State.bit_ptbFlag_raw (s : State) (p : Fin 8) {b : Nat} (h : b < 64) :
    (s.ptbFlag p b).bit (PG.ptb p) R.PG_IRQ_RAW b = true :=
  State.irq_bit _ _ _ h

theorem counted_bump {page off lo n : Nat} (h : t.reg page off = s.reg page off) (hn : lo + n ≤ 64) :
    Counted s (t.bump page off lo n) page off lo n 1 := by
  unfold Counted
  rw [State.bump, State.fld_addCnt_self _ _ _ _ _ _ hn, State.fld, h]
  rfl

theorem State.bit_bump_off (s : State) {page off lo n r i : Nat} (h : r ≠ off) :
    (s.bump page off lo n).bit page r i = s.bit page r i := by
  rw [State.bit, State.bump, State.addCnt, State.setFld, State.reg_setReg_off _ _ h]
  rfl

/-! ### The state machine of a servo (R72) -/

@[simp] theorem State.ptbSetState_ptb (s : State) (p : Fin 8) (st : Nat) : (s.ptbSetState p st).ptb = s.ptb := by
  unfold State.ptbSetState
  dsimp only
  split <;> split <;> rfl

@[simp] theorem State.ptbSetState_dtc (s : State) (p : Fin 8) (st : Nat) : (s.ptbSetState p st).dtc = s.dtc := by
  unfold State.ptbSetState
  dsimp only
  split <;> split <;> rfl

/-- R72: an accepted offset is counted, and beside its registers nothing else of the base changes. -/
theorem State.ptbAccepted_get (s : State) (p : Fin 8) (inTol : Bool) : ∃ i o, (s.ptbAccepted p inTol).ptb.get p =
    { s.ptb.get p with accepted := true, accAt := s.dtc, inTol := i, outTol := o } := by
  have hleft : ∃ i o, (if s.ptbSt p = 3 then (s.ptbSetState p 1).ptbUpd p fun b => { b with inTol := 0, outTol := 0 } else s).ptb.get p =
      { s.ptb.get p with inTol := i, outTol := o } := by
    split
    · exact ⟨0, 0, by simp⟩
    · exact ⟨_, _, rfl⟩
  have hdtc : (if s.ptbSt p = 3 then (s.ptbSetState p 1).ptbUpd p fun b => { b with inTol := 0, outTol := 0 } else s).dtc = s.dtc := by
    split
    · simp
    · rfl
  unfold State.ptbAccepted
  dsimp only
  generalize (if s.ptbSt p = 3 then _ else s) = u at hleft hdtc ⊢
  obtain ⟨i, o, hu⟩ := hleft
  rw [hdtc]
  generalize hv : u.ptbUpd p _ = v
  have hget : v.ptb.get p = { s.ptb.get p with
      accepted := true, accAt := s.dtc, inTol := if inTol then i + 1 else 0, outTol := if inTol then 0 else o + 1 } := by
    rw [← hv, State.ptbUpd_get, hu]
  split
  · exact ⟨_, _, by rw [State.ptbUpd_get, State.ptbSetState_ptb, hget]⟩
  · split
    · exact ⟨_, _, by rw [State.ptbUpd_get, State.ptbSetState_ptb, hget]⟩
    · exact ⟨_, _, hget⟩

theorem onlyBase_ptbAccepted {l : List Nat} (h : OnlyBase s t p l) (hsts : R.PTB_STS ∈ l) (hraw : R.PG_IRQ_RAW ∈ l) (inTol : Bool) :
    OnlyBase s (t.ptbAccepted p inTol) p l := by
  have hset : ∀ {u : State}, OnlyBase s u p l → ∀ st f, OnlyBase s ((u.ptbSetState p st).ptbUpd p f) p l :=
    fun h st f => onlyBase_ptbUpd (onlyBase_ptbSetState h hsts hraw st) f
  have hleft : ∀ f, OnlyBase s (if t.ptbSt p = 3 then (t.ptbSetState p 1).ptbUpd p f else t) p l :=
    fun f => onlyBase_ite (hset h _ _) h _
  exact onlyBase_ite (hset (onlyBase_ptbUpd (hleft _) _) _ _)
    (onlyBase_ite (hset (onlyBase_ptbUpd (hleft _) _) _ _) (onlyBase_ptbUpd (hleft _) _) _) _

/-! ### The loop (R67) -/

theorem openDiv_zero (tag q : Nat) : openDiv tag 0 q = 0 := by
  unfold openDiv
  split
  · rfl
  · simp

theorem clamp_eq {m : Int} (h : 0 ≤ m) (x : Int) : (if x < -m then -m else if m < x then m else x) = max (-m) (min m x) := by
  split
  · omega
  · split <;> omega

theorem State.cycleStep_ptbSettle (s : State) (p : Fin 8) : (s.ptbSettle p).cycleStep p = s.cycleStep p := by
  rw [State.cycleStep, State.ptbSettle_get, State.settled_stepped, (sameRates_ptbSettle s p).dtc, State.cycleStep]

/-- R67: with no slew outstanding and no FORCE_STEP in the cycle an offset is taken as it is. -/
theorem State.ofsSlew_settled (hstep : s.cycleStep p = none) (hslew : (s.ptb.get p).slewN = 0) : (s.ptbSettle p).ofsSlew p = 0 := by
  rw [State.ofsSlew, State.cycleStep_ptbSettle, hstep, State.ptbSettle_get]
  exact State.settled_slewN_zero hslew

theorem onlyBase_ptbLoop {l : List Nat} (h : OnlyBase s t p l) (hsts : R.PTB_STS ∈ l) (hraw : R.PG_IRQ_RAW ∈ l) (e : Int) :
    OnlyBase s (t.ptbLoop p e) p l :=
  onlyBase_ptbAccepted (onlyBase_setReg (onlyBase_ptbUpd (onlyBase_ptbSettle h hsts) _) (by decide) hsts _) hsts hraw _

/-- R67: the integrator after an offset `e` that is taken, with no slew outstanding: it does not move where the trim would go
beyond the largest slew. -/
def State.integAfter (s : State) (p : Fin 8) (e : Int) : Int :=
  let i := (s.ptb.get p).integ + sgn 32 (s.fld (PG.ptb p) R.PTB_KI 0 32) * e
  if (sgn 32 (s.fld (PG.ptb p) R.PTB_KP 0 32) * e + i).natAbs ≤ ((s.ptbSlewMax p * 2 ^ 32 : Int)).natAbs then i
  else (s.ptb.get p).integ

/-- R67: the loop trim after an offset that is taken. -/
def State.loopAfter (s : State) (p : Fin 8) (e : Int) : Int :=
  let m : Int := s.ptbSlewMax p * 2 ^ 32
  max (-m) (min m (sgn 32 (s.fld (PG.ptb p) R.PTB_KP 0 32) * e + s.integAfter p e))

theorem State.integAfter_ptbSettle (s : State) (p : Fin 8) (e : Int) : (s.ptbSettle p).integAfter p e = s.integAfter p e := by
  have hbase : OnlyBase s (s.ptbSettle p) p [R.PTB_STS] := onlyBase_ptbSettle (onlyBase_refl s p _) (by decide)
  simp only [State.integAfter, State.fld, hbase.reg (o := R.PTB_KP) (by decide) (by decide),
    hbase.reg (o := R.PTB_KI) (by decide) (by decide), (sameRates_ptbSettle s p).slewMax, State.ptbSettle_get, State.settled_integ]
  rfl

theorem State.loopAfter_ptbSettle (s : State) (p : Fin 8) (e : Int) : (s.ptbSettle p).loopAfter p e = s.loopAfter p e := by
  have hbase : OnlyBase s (s.ptbSettle p) p [R.PTB_STS] := onlyBase_ptbSettle (onlyBase_refl s p _) (by decide)
  simp only [State.loopAfter, State.integAfter_ptbSettle, State.fld, hbase.reg (o := R.PTB_KP) (by decide) (by decide),
    (sameRates_ptbSettle s p).slewMax]

theorem State.ptbLoop_get (h : (s.ptbSettle p).ofsSlew p = 0) (e : Int) : ∃ i o, (s.ptbLoop p e).ptb.get p =
    { s.settled p with integ := s.integAfter p e, loop := s.loopAfter p e, accepted := true, accAt := s.dtc, inTol := i, outTol := o } := by
  have hbase : OnlyBase s (s.ptbSettle p) p [R.PTB_STS] := onlyBase_ptbSettle (onlyBase_refl s p _) (by decide)
  have hkp : (s.ptbSettle p).fld (PG.ptb p) R.PTB_KP 0 32 = s.fld (PG.ptb p) R.PTB_KP 0 32 := by
    rw [State.fld, hbase.reg (by decide) (by decide), State.fld]
  have hki : (s.ptbSettle p).fld (PG.ptb p) R.PTB_KI 0 32 = s.fld (PG.ptb p) R.PTB_KI 0 32 := by
    rw [State.fld, hbase.reg (by decide) (by decide), State.fld]
  have hm : (0 : Int) ≤ s.ptbSlewMax p * 2 ^ 32 := mul_nonneg (Int.natCast_nonneg _) (pow_nonneg (by decide) 32)
  unfold State.ptbLoop
  dsimp only
  obtain ⟨i, o, hacc⟩ := State.ptbAccepted_get _ p _
  refine ⟨i, o, hacc.trans ?_⟩
  simp only [State.setBit_ptb, State.ptbUpd_get, State.ptbSettle_get, h, hkp, hki, (sameRates_ptbSettle s p).slewMax, true_and,
    State.settled_integ, State.setBit_dtc, State.ptbUpd_dtc, hbase.dtc, clamp_eq hm]
  rfl

/-! ### An offset (R66 to R68, R71) -/

theorem State.ptbSubmit_ignored {e : Word} (h : ¬ (s.ptbSrc p = 4 ∧ s.ptbRunning p = true)) : s.ptbSubmit p e = s.ptbFlag p 13 := if_neg h

theorem State.ptbSubmit_ptp {e : Word} (h : s.ptbSrc p = 4 ∧ s.ptbRunning p = true) :
    s.ptbSubmit p e = s.ptbOffset p e.toInt (s.reg (PG.ptb p) R.PTB_OFS_DTC) := if_pos h

theorem State.ptbOffset_stale {e : Int} {d : Word} (h : s.ofsStale p d = true) :
    s.ptbOffset p e d = (s.ptbFlag p 12).bump (PG.ptb p) R.PTB_CNT0 48 16 := if_pos h

/-- R68: a PTP base takes the first offset as a step. -/
theorem State.ptbOffset_first {e : Int} {d : Word} (h : s.ofsStale p d = false)
    (hfirst : s.ptbSrc p = 4 ∧ s.ptbSt p = 1 ∧ (s.ptb.get p).accepted = false) : s.ptbOffset p e d =
      (s.ptbStep p (wOfInt e) .align).ptbUpd p fun b => { b with accepted := true, accAt := s.dtc } := by
  obtain ⟨hsrc, hst, hacc⟩ := hfirst
  unfold State.ptbOffset
  dsimp only
  rw [if_neg (by simp [h]), if_pos ⟨hsrc, hst, by simp [hacc]⟩, (sameRates_ptbStep s p (wOfInt e) .align).dtc]

/-- R67: any other offset that is fresh loses the slew that is outstanding; a large remainder is refused. -/
theorem State.ptbOffset_later {e : Int} {d : Word} (h : s.ofsStale p d = false)
    (hlater : ¬ (s.ptbSrc p = 4 ∧ s.ptbSt p = 1 ∧ (s.ptb.get p).accepted = false)) :
    ∃ e', e' = e - openDiv 6 ((s.ptbSettle p).ofsSlew p) (10 ^ 18) ∧ s.ptbOffset p e d =
      if (s.reg (PG.ptb p) R.PTB_JUMP_MAX).toNat < e'.natAbs then
        (((s.ptbSettle p).setReg (PG.ptb p) R.PTB_REFUSED_OFS (wOfInt e')).ptbFlag p 8).bump (PG.ptb p) R.PTB_CNT0 32 16
      else (s.ptbSettle p).ptbLoop p e' := by
  have hbase : OnlyBase s (s.ptbSettle p) p [R.PTB_STS] := onlyBase_ptbSettle (onlyBase_refl s p _) (by decide)
  refine ⟨_, rfl, ?_⟩
  unfold State.ptbOffset
  dsimp only
  rw [if_neg (by simp [h]), if_neg (by simpa using hlater), hbase.reg (by decide) (by decide)]

theorem keepsSnap_ptbLoop (s : State) (p : Fin 8) (e : Int) : KeepsSnap s (s.ptbLoop p e) p := by
  refine ⟨(onlyBase_ptbLoop (l := [R.PTB_STS, R.PG_IRQ_RAW]) (onlyBase_refl s p _) (by decide) (by decide) e).dtc, ?_⟩
  unfold State.ptbLoop
  dsimp only
  obtain ⟨i, o, hacc⟩ := State.ptbAccepted_get _ p _
  refine (congrArg PtbState.snapAt hacc).trans ?_
  simp only [State.setBit_ptb, State.ptbUpd_get, State.ptbSettle_get, State.settled_snapAt]

theorem keepsSnap_ptbSubmit (s : State) (p : Fin 8) (e : Word) : KeepsSnap s (s.ptbSubmit p e) p := by
  by_cases hptp : s.ptbSrc p = 4 ∧ s.ptbRunning p = true
  · rw [State.ptbSubmit_ptp hptp]
    cases hstale : s.ofsStale p (s.reg (PG.ptb p) R.PTB_OFS_DTC) with
    | true =>
      rw [State.ptbOffset_stale hstale]
      exact ⟨rfl, rfl⟩
    | false =>
      by_cases hfirst : s.ptbSrc p = 4 ∧ s.ptbSt p = 1 ∧ (s.ptb.get p).accepted = false
      · rw [State.ptbOffset_first hstale hfirst]
        exact keepsSnap_ptbUpd (keepsSnap_ptbStep s p _ _) rfl
      · obtain ⟨e', -, he⟩ := State.ptbOffset_later (e := e.toInt) hstale hfirst
        rw [he]
        split
        · exact keepsSnap_ptbSettle s p
        · exact (keepsSnap_ptbSettle s p).trans (keepsSnap_ptbLoop _ _ _)
  · rw [State.ptbSubmit_ignored hptp]
    exact ⟨rfl, rfl⟩

end

end Sys2Proof.Machine
end

section
/-!
PROOFS. The statements about SNAP, FORCE_STEP, the commands of the slew and the servo, and submitted offsets.
-/

namespace Sys2Proof.Machine

section
variable {s : State} {p : Fin 8}

theorem exec_snap_latches (hw : Writable s (PG.ptb p)) (ini : Initiator) :
    ∃ t, exec (.snap ini p) s = .next t ∧
      t.reg (PG.ptb p) R.PTB_SNAP_POS = s.pos p ∧ t.reg (PG.ptb p) R.PTB_SNAP_VEL = wOfInt (s.vel p) ∧
      t.reg (PG.ptb p) R.PTB_SNAP_DTC = s.dtc ∧ t = { s with regs := t.regs, ptb := t.ptb } ∧
      t.ptb.get p = { s.ptb.get p with snapAt := some s.dtc } ∧ (∀ q, q ≠ p → t.ptb.get q = s.ptb.get q) ∧
      PageKept s t (PG.ptb p) snapRegs := by
  have hact := onlyBase_ptbSnap (onlyBase_refl s p _)
  have hbase := hact.trans (onlyBase_ptbCycle s p fun s => s.ptbSnap p)
  have hcycle : s.ptbCycle p (fun s => s.ptbSnap p) = (s.ptbSnap p).ptbSnap p := if_pos (by rw [State.ptbSnap_get, hact.dtc])
  have hget : ((s.ptbSnap p).ptbSnap p).ptb.get p = { s.ptb.get p with snapAt := some s.dtc } := by
    rw [State.ptbSnap_get, State.ptbSnap_get, hact.dtc]
  rw [hcycle] at hbase
  have hrates : SameRates s ((s.ptbSnap p).ptbSnap p) p := hbase.sameRates (hbase.ptbSt (by decide)) (by decide)
  have hmotion : (((s.ptbSnap p).ptbSnap p).ptb.get p).motion = (s.ptb.get p).motion := by rw [hget]; rfl
  obtain ⟨hpos, hvel, hdtc⟩ := (s.ptbSnap p).ptbSnap_shows p
  refine ⟨(s.ptbSnap p).ptbSnap p, ?_, ?_, ?_, hdtc.trans hbase.dtc, hbase.rest, hget, hbase.others, hbase.kept⟩
  · rw [exec_snap_writable hw, hcycle, hbase.ends]
  · rw [hpos, pos_congr hrates hmotion]
  · rw [hvel, vel_congr hrates hmotion]

theorem exec_forceStep_zero (hw : Writable s (PG.ptb p)) (h : s.reg (PG.ptb p) R.PTB_STEP = 0)
    (hs : (s.ptb.get p).snapAt ≠ some s.dtc) (ini : Initiator) : exec (.forceStep ini p) s = .next s := by
  rw [exec_forceStep_writable hw, State.ptbCycle_fresh hs (keepsSnap_ptbForceStep s p), State.ptbForceStep_zero h, State.ends_self]

theorem exec_forceStep_moves (hw : Writable s (PG.ptb p)) (h : s.reg (PG.ptb p) R.PTB_STEP ≠ 0) (ini : Initiator) :
    ∃ t, exec (.forceStep ini p) s = .next t ∧ t.pos p = s.pos p + s.reg (PG.ptb p) R.PTB_STEP ∧
      (t.ptb.get p).slewN = 0 ∧ t.bit (PG.ptb p) R.PTB_STS 4 = false ∧
      (t.ptb.get p).loop = (s.ptb.get p).loop ∧ (t.ptb.get p).integ = (s.ptb.get p).integ ∧
      (∀ q, q ≠ p → t.ptb.get q = s.ptb.get q) ∧ t.dtc = s.dtc := by
  obtain ⟨hrates, hsts, hothers, c, hget⟩ := State.ptbForceStep_moves h
  have hsnap := onlyBase_ptbCycle s p fun s => s.ptbForceStep p
  obtain ⟨x, hcycle⟩ := s.ptbCycle_get p fun s => s.ptbForceStep p
  rw [hget] at hcycle
  rw [exec_forceStep_writable hw, State.ends_eq]
  refine ⟨_, rfl, ?_, ?_, ?_, ?_, ?_, fun q hq => (hsnap.others q hq).trans (hothers q hq), hsnap.dtc.trans hrates.dtc⟩
  · rw [State.pos_withQueueOf, State.pos_ptbCycle]
    exact pos_of_settled_moved hrates _ 0 (by rw [hget]; rfl)
  · rw [State.withQueueOf_ptb, hcycle]
  · rw [State.bit_withQueueOf, State.bit, hsnap.reg (by decide) (by decide)]
    exact hsts
  · rw [State.withQueueOf_ptb, hcycle]
    exact State.settled_loop s p
  · rw [State.withQueueOf_ptb, hcycle]
    exact State.settled_integ s p

/-- R56: a SNAP of the same cycle latches what a command leaves. -/
theorem ends_ptbCycle_shows {act : State → State} (hs : (s.ptb.get p).snapAt = some s.dtc) (hk : KeepsSnap s (act s) p) :
    ∃ t, s.ends (s.ptbCycle p act) = .next t ∧ SnapShows t p :=
  ⟨_, rfl, State.ptbCycle_shows hs hk⟩

/-- Settles O1: a SNAP re-latches what its own cycle leaves, which is what it found; a step moves the re-anchored base. -/
theorem snapAndForceStep : Obligations.SnapAndForceStep := by
  intro ini p s hw
  refine ⟨exec_snap_latches hw ini, fun h hs => exec_forceStep_zero hw h hs ini, fun h => exec_forceStep_moves hw h ini,
    fun hs i e hi => ?_⟩
  simp only [List.mem_cons, List.not_mem_nil, or_false] at hi
  rcases hi with rfl | rfl | rfl | rfl | rfl
  · rw [exec_forceStep_writable hw]
    exact ends_ptbCycle_shows hs (keepsSnap_ptbForceStep s p)
  · rw [exec_acceptSlew_writable hw]
    exact ends_ptbCycle_shows hs (keepsSnap_ptbAcceptSlew s p)
  · rw [exec_armHome_writable hw]
    exact ends_ptbCycle_shows hs (keepsSnap_ptbArmHome s p)
  · rw [exec_clearServo_writable hw]
    exact ends_ptbCycle_shows hs (keepsSnap_ptbClearServo s p)
  · rw [exec_offsetSubmit_writable hw]
    exact ends_ptbCycle_shows hs (keepsSnap_ptbSubmit s p e)

/-! ### The slew, the homing and the servo -/

theorem exec_acceptSlew_zero (hw : Writable s (PG.ptb p)) (hs : (s.ptb.get p).snapAt ≠ some s.dtc)
    (h : s.reg (PG.ptb p) R.PTB_REFUSED_OFS = 0) (ini : Initiator) : exec (.acceptSlew ini p) s = .next s := by
  rw [exec_acceptSlew_writable hw, State.ptbCycle_fresh hs (keepsSnap_ptbAcceptSlew s p), State.ptbAcceptSlew_zero h, State.ends_self]

theorem exec_acceptSlew_adds (hw : Writable s (PG.ptb p)) (hs : (s.ptb.get p).snapAt ≠ some s.dtc)
    (h : s.reg (PG.ptb p) R.PTB_REFUSED_OFS ≠ 0) (ini : Initiator) :
    ∃ t, exec (.acceptSlew ini p) s = .next t ∧
      (t.ptb.get p).slewN = (s.settled p).slewN + (s.reg (PG.ptb p) R.PTB_REFUSED_OFS).toInt * 10 ^ 18 ∧
      t.reg (PG.ptb p) R.PTB_REFUSED_OFS = 0 ∧ t.bit (PG.ptb p) R.PTB_STS 4 = decide ((t.ptb.get p).slewN ≠ 0) ∧
      OnlyBase s t p [R.PTB_STS, R.PTB_REFUSED_OFS] := by
  obtain ⟨b, hacc, hb⟩ := State.ptbAcceptSlew_adds h
  have hslew : ((s.ptbAcceptSlew p).ptb.get p).slewN =
      (s.settled p).slewN + (s.reg (PG.ptb p) R.PTB_REFUSED_OFS).toInt * 10 ^ 18 := by
    rw [hacc, State.setBit_ptb, State.ptbUpd_get, State.setReg_ptb, State.ptbSettle_get]
  have hbase : OnlyBase s (s.ptbAcceptSlew p) p [R.PTB_STS, R.PTB_REFUSED_OFS] := by
    have hin : R.PTB_STS ∈ [R.PTB_STS, R.PTB_REFUSED_OFS] ∧ R.PTB_REFUSED_OFS ∈ [R.PTB_STS, R.PTB_REFUSED_OFS] := by decide
    rw [hacc]
    exact onlyBase_setReg (onlyBase_ptbUpd (onlyBase_setReg (onlyBase_ptbSettle (onlyBase_refl s p _) hin.1) (by decide) hin.2 _) _)
      (by decide) hin.1 _
  refine ⟨s.ptbAcceptSlew p, ?_, hslew, ?_, ?_, hbase⟩
  · rw [exec_acceptSlew_writable hw, State.ptbCycle_fresh hs (keepsSnap_ptbAcceptSlew s p), hbase.ends]
  · rw [hacc, State.reg_setBit_off _ (by decide), State.reg_ptbUpd, State.reg_setReg_self]
  · rw [hslew, ← hb, hacc]
    exact State.bit_setBit_self _ _ _ _ _ (by decide)

theorem exec_armHome_arms (hw : Writable s (PG.ptb p)) (hs : (s.ptb.get p).snapAt ≠ some s.dtc) (ini : Initiator) :
    ∃ t, exec (.armHome ini p) s = .next t ∧ t.ptb.get p = { s.ptb.get p with homeArmed := true } ∧
      t = { s with ptb := t.ptb } ∧ (∀ q, q ≠ p → t.ptb.get q = s.ptb.get q) := by
  refine ⟨s.ptbArmHome p, ?_, State.ptbUpd_get _ _ _, rfl, fun q hq => vupd_get_ne _ _ hq⟩
  rw [exec_armHome_writable hw, State.ptbCycle_fresh hs (keepsSnap_ptbArmHome s p)]
  exact State.ends_of rfl rfl

theorem exec_clearServo_clears (hw : Writable s (PG.ptb p)) (hs : (s.ptb.get p).snapAt ≠ some s.dtc) (ini : Initiator) :
    ∃ t, exec (.clearServo ini p) s = .next t ∧ (t.ptb.get p).integ = 0 ∧ (t.ptb.get p).loop = 0 ∧
      (t.ptb.get p).slewN = (s.settled p).slewN ∧ t.bit (PG.ptb p) R.PTB_STS 5 = false ∧ OnlyBase s t p [R.PTB_STS] := by
  have hget : (s.ptbClearServo p).ptb.get p = { s.settled p with integ := 0, loop := 0 } := by
    rw [State.ptbClearServo, State.setBit_ptb, State.ptbUpd_get, State.ptbSettle_get]
  have hbase : OnlyBase s (s.ptbClearServo p) p [R.PTB_STS] :=
    onlyBase_setReg (onlyBase_ptbUpd (onlyBase_ptbSettle (onlyBase_refl s p _) (by decide)) _) (by decide) (by decide) _
  refine ⟨s.ptbClearServo p, ?_, by rw [hget], by rw [hget], by rw [hget], State.bit_setBit_self _ _ _ _ _ (by decide), hbase⟩
  rw [exec_clearServo_writable hw, State.ptbCycle_fresh hs (keepsSnap_ptbClearServo s p), hbase.ends]

/-- Settles O2: each of the three commands acts on the re-anchored base. -/
theorem slewHomeAndServoCommands : Obligations.SlewHomeAndServoCommands := by
  intro ini p s hw hs
  refine ⟨fun h => exec_acceptSlew_zero hw hs h ini, fun h => ?_, exec_armHome_arms hw hs ini, ?_⟩
  · obtain ⟨t, hexec, hslew, hrefused, hbit, hbase⟩ := exec_acceptSlew_adds hw hs h ini
    exact ⟨t, hexec, hslew, hrefused, hbit, hbase.rest, hbase.others, hbase.kept⟩
  · obtain ⟨t, hexec, hinteg, hloop, hslew, hbit, hbase⟩ := exec_clearServo_clears hw hs ini
    exact ⟨t, hexec, hinteg, hloop, hslew, hbit, hbase.rest, hbase.others, hbase.kept⟩

/-! ### Submitted offsets -/

/-- With no SNAP in the cycle, an offset's own effect is the answer, but for the queue and the order code. -/
theorem exec_offsetSubmit_fresh (hw : Writable s (PG.ptb p)) (hs : FreshCycle s p) (ini : Initiator) (e : Word) :
    exec (.offsetSubmit ini p e) s = s.ends (s.ptbSubmit p e) := by
  rw [exec_offsetSubmit_writable hw, State.ptbCycle_fresh hs.1 (keepsSnap_ptbSubmit s p e)]

theorem exec_offsetSubmit_ignored (hw : Writable s (PG.ptb p)) (hs : FreshCycle s p) (ini : Initiator) (e : Word)
    (h : ¬ (s.ptbSrc p = 4 ∧ s.ptbRunning p = true)) :
    ∃ t, exec (.offsetSubmit ini p e) s = .next t ∧ t.bit (PG.ptb p) R.PTB_STS 13 = true ∧
      t.bit (PG.ptb p) R.PG_IRQ_RAW 13 = true ∧ OnlyRegs s t ∧ PageKept s t (PG.ptb p) [R.PTB_STS, R.PG_IRQ_RAW] := by
  have hbase : OnlyBase s (s.ptbFlag p 13) p [R.PTB_STS, R.PG_IRQ_RAW] :=
    onlyBase_ptbFlag (onlyBase_refl s p _) (by decide) (by decide) 13
  rw [exec_offsetSubmit_fresh hw hs, State.ptbSubmit_ignored h, hbase.ends]
  exact ⟨_, rfl, s.bit_ptbFlag_sts p (by decide), s.bit_ptbFlag_raw p (by decide), rfl, hbase.kept⟩

/-- R66: at a running PTP base the offset is judged by its measuring time. -/
theorem exec_offsetSubmit_ptp (hw : Writable s (PG.ptb p)) (hs : FreshCycle s p) (ini : Initiator) (e : Word)
    (hptp : s.ptbSrc p = 4 ∧ s.ptbRunning p = true) :
    exec (.offsetSubmit ini p e) s = s.ends (s.ptbOffset p e.toInt (s.reg (PG.ptb p) R.PTB_OFS_DTC)) := by
  rw [exec_offsetSubmit_fresh hw hs, State.ptbSubmit_ptp hptp]

theorem exec_offsetSubmit_stale (hw : Writable s (PG.ptb p)) (hs : FreshCycle s p) (ini : Initiator) (e : Word)
    (hptp : s.ptbSrc p = 4 ∧ s.ptbRunning p = true) (h : s.ofsStale p (s.reg (PG.ptb p) R.PTB_OFS_DTC) = true) :
    ∃ t, exec (.offsetSubmit ini p e) s = .next t ∧ t.bit (PG.ptb p) R.PTB_STS 12 = true ∧
      Counted s t (PG.ptb p) R.PTB_CNT0 48 16 1 ∧ OnlyRegs s t ∧
      PageKept s t (PG.ptb p) [R.PTB_STS, R.PG_IRQ_RAW, R.PTB_CNT0] := by
  have hbase : OnlyBase s ((s.ptbFlag p 12).bump (PG.ptb p) R.PTB_CNT0 48 16) p [R.PTB_STS, R.PG_IRQ_RAW, R.PTB_CNT0] :=
    onlyBase_setReg (onlyBase_ptbFlag (onlyBase_refl s p _) (by decide) (by decide) 12) (by decide) (by decide) _
  rw [exec_offsetSubmit_ptp hw hs ini e hptp, State.ptbOffset_stale h, hbase.ends]
  refine ⟨_, rfl, ?_, counted_bump (s.reg_ptbFlag_off p 12 (by decide) (by decide)) (by decide), rfl, hbase.kept⟩
  rw [State.bit_bump_off _ (by decide)]
  exact s.bit_ptbFlag_sts p (by decide)

theorem exec_offsetSubmit_first (hw : Writable s (PG.ptb p)) (hs : FreshCycle s p) (ini : Initiator) (e : Word)
    (hptp : s.ptbSrc p = 4 ∧ s.ptbRunning p = true) (h : s.ofsStale p (s.reg (PG.ptb p) R.PTB_OFS_DTC) = false)
    (hfirst : s.ptbSt p = 1 ∧ (s.ptb.get p).accepted = false) :
    ∃ t, exec (.offsetSubmit ini p e) s = .next t ∧ t.pos p = s.pos p + e ∧ (t.ptb.get p).accepted = true ∧
      (t.ptb.get p).accAt = s.dtc := by
  rw [exec_offsetSubmit_ptp hw hs ini e hptp, State.ptbOffset_first h ⟨hptp.1, hfirst⟩, State.ends_eq]
  refine ⟨_, rfl, ?_, by rw [State.withQueueOf_ptb, State.ptbUpd_get], by rw [State.withQueueOf_ptb, State.ptbUpd_get]⟩
  rw [State.pos_withQueueOf, pos_ptbUpd rfl, State.pos_ptbStep, wOfInt, BitVec.ofInt_toInt]

/-- R67: with no slew outstanding a later offset is taken as it is: it is refused, or enters the loop of the re-anchored base. -/
theorem exec_offsetSubmit_later (hw : Writable s (PG.ptb p)) (hs : FreshCycle s p) (ini : Initiator) (e : Word)
    (hptp : s.ptbSrc p = 4 ∧ s.ptbRunning p = true) (h : s.ofsStale p (s.reg (PG.ptb p) R.PTB_OFS_DTC) = false)
    (hlater : ¬ (s.ptbSt p = 1 ∧ (s.ptb.get p).accepted = false)) (hslew : (s.ptb.get p).slewN = 0) :
    exec (.offsetSubmit ini p e) s = s.ends (if (s.reg (PG.ptb p) R.PTB_JUMP_MAX).toNat < e.toInt.natAbs then
        (((s.ptbSettle p).setReg (PG.ptb p) R.PTB_REFUSED_OFS e).ptbFlag p 8).bump (PG.ptb p) R.PTB_CNT0 32 16
      else (s.ptbSettle p).ptbLoop p e.toInt) := by
  obtain ⟨e', he', hofs⟩ := State.ptbOffset_later (e := e.toInt) h fun hfirst => hlater hfirst.2
  have hwhole : e' = e.toInt := by rw [he', State.ofsSlew_settled hs.2 hslew, openDiv_zero, sub_zero]
  rw [exec_offsetSubmit_ptp hw hs ini e hptp, hofs, hwhole, wOfInt, BitVec.ofInt_toInt]

theorem exec_offsetSubmit_refused (hw : Writable s (PG.ptb p)) (hs : FreshCycle s p) (ini : Initiator) (e : Word)
    (hptp : s.ptbSrc p = 4 ∧ s.ptbRunning p = true) (h : s.ofsStale p (s.reg (PG.ptb p) R.PTB_OFS_DTC) = false)
    (hlater : ¬ (s.ptbSt p = 1 ∧ (s.ptb.get p).accepted = false)) (hslew : (s.ptb.get p).slewN = 0)
    (hjump : (s.reg (PG.ptb p) R.PTB_JUMP_MAX).toNat < e.toInt.natAbs) :
    ∃ t, exec (.offsetSubmit ini p e) s = .next t ∧ t.reg (PG.ptb p) R.PTB_REFUSED_OFS = e ∧
      t.bit (PG.ptb p) R.PTB_STS 8 = true ∧ Counted s t (PG.ptb p) R.PTB_CNT0 32 16 1 ∧
      (t.ptb.get p).loop = (s.ptb.get p).loop ∧ (t.ptb.get p).integ = (s.ptb.get p).integ ∧
      PageKept s t (PG.ptb p) [R.PTB_STS, R.PG_IRQ_RAW, R.PTB_CNT0, R.PTB_REFUSED_OFS] := by
  have hsettled : OnlyBase s (s.ptbSettle p) p [R.PTB_STS, R.PG_IRQ_RAW, R.PTB_CNT0, R.PTB_REFUSED_OFS] :=
    onlyBase_ptbSettle (onlyBase_refl s p _) (by decide)
  have hstored := onlyBase_setReg hsettled (o := R.PTB_REFUSED_OFS) (by decide) (by decide) e
  have hbase := onlyBase_setReg (onlyBase_ptbFlag hstored (by decide) (by decide) 8) (o := R.PTB_CNT0) (by decide) (by decide)
  have hcnt : (((s.ptbSettle p).setReg (PG.ptb p) R.PTB_REFUSED_OFS e).ptbFlag p 8).reg (PG.ptb p) R.PTB_CNT0 =
      s.reg (PG.ptb p) R.PTB_CNT0 := by
    have hkept : OnlyBase s (s.ptbSettle p) p [R.PTB_STS] := onlyBase_ptbSettle (onlyBase_refl s p _) (by decide)
    rw [State.reg_ptbFlag_off _ _ _ (by decide) (by decide), State.reg_setReg_off _ _ (by decide), hkept.reg (by decide) (by decide)]
  rw [exec_offsetSubmit_later hw hs ini e hptp h hlater hslew, if_pos hjump]
  refine ⟨_, (hbase _).ends, ?_, ?_, counted_bump hcnt (by decide), ?_, ?_, (hbase _).kept⟩
  · rw [State.reg_setReg_off _ _ (by decide), State.reg_ptbFlag_off _ _ _ (by decide) (by decide), State.reg_setReg_self]
  · exact (State.bit_bump_off _ (by decide)).trans (State.bit_ptbFlag_sts _ _ (by decide))
  · exact (congrArg PtbState.loop (s.ptbSettle_get p)).trans (s.settled_loop p)
  · exact (congrArg PtbState.integ (s.ptbSettle_get p)).trans (s.settled_integ p)

theorem exec_offsetSubmit_taken (hw : Writable s (PG.ptb p)) (hs : FreshCycle s p) (ini : Initiator) (e : Word)
    (hptp : s.ptbSrc p = 4 ∧ s.ptbRunning p = true) (h : s.ofsStale p (s.reg (PG.ptb p) R.PTB_OFS_DTC) = false)
    (hlater : ¬ (s.ptbSt p = 1 ∧ (s.ptb.get p).accepted = false)) (hslew : (s.ptb.get p).slewN = 0)
    (hjump : e.toInt.natAbs ≤ (s.reg (PG.ptb p) R.PTB_JUMP_MAX).toNat) :
    ∃ t, exec (.offsetSubmit ini p e) s = .next t ∧ (t.ptb.get p).integ = s.integAfter p e.toInt ∧
      (t.ptb.get p).loop = s.loopAfter p e.toInt ∧ (t.ptb.get p).accAt = s.dtc ∧ OnlyBase s t p [R.PTB_STS, R.PG_IRQ_RAW] := by
  have hsettled : OnlyBase s (s.ptbSettle p) p [R.PTB_STS, R.PG_IRQ_RAW] := onlyBase_ptbSettle (onlyBase_refl s p _) (by decide)
  have hbase := onlyBase_ptbLoop hsettled (by decide) (by decide) e.toInt
  have hnone : ((s.ptbSettle p).ptbSettle p).ofsSlew p = 0 :=
    State.ofsSlew_settled ((s.cycleStep_ptbSettle p).trans hs.2)
      ((congrArg PtbState.slewN (s.ptbSettle_get p)).trans (State.settled_slewN_zero hslew))
  obtain ⟨i, o, hget⟩ := State.ptbLoop_get hnone e.toInt
  rw [exec_offsetSubmit_later hw hs ini e hptp h hlater hslew, if_neg (by omega)]
  refine ⟨_, hbase.ends, ?_, ?_, ?_, hbase⟩
  · rw [hget, State.integAfter_ptbSettle]
  · rw [hget, State.loopAfter_ptbSettle]
  · rw [hget, hsettled.dtc]

/-- Settles O6: the base, the age of the offset and its size tell the cases apart. -/
theorem offsetSubmission : Obligations.OffsetSubmission := by
  intro ini p e s hw hs
  refine ⟨exec_offsetSubmit_ignored hw hs ini e, exec_offsetSubmit_stale hw hs ini e, exec_offsetSubmit_first hw hs ini e,
    fun hptp h hlater hslew => ⟨exec_offsetSubmit_refused hw hs ini e hptp h hlater hslew, fun hjump => ?_⟩⟩
  obtain ⟨t, hexec, hinteg, hloop, hacc, hbase⟩ := exec_offsetSubmit_taken hw hs ini e hptp h hlater hslew hjump
  exact ⟨t, hexec, hinteg, hloop, hacc, hbase.others, hbase.rest, hbase.kept⟩

end

end Sys2Proof.Machine
end

section
/-!
PROOFS. Writes of PTB_CTL (R53 to R55, R72): a run starts, a run stops, a change that is ignored, and the defaults of a source.
-/

namespace Sys2Proof.Machine

/-! ### Fields (R53, R55) -/

/-- The low bits of a field read as those of the value that was written. -/
theorem bf_putFld_low (w : Word) {lo n n' : Nat} (v : Nat) (h : lo + n ≤ 64) (hn : n' ≤ n) : bf (putFld w lo n v) lo n' = v % 2 ^ n' := by
  apply Nat.eq_of_testBit_eq
  intro i
  rw [bf_testBit, putFld_getLsbD, Nat.testBit_mod_two_pow]
  by_cases hi : i < n'
  · have h64 : lo + i < 64 := by omega
    have hin : lo + i < lo + n := by omega
    simp [hi, h64, hin]
  · simp [hi]

theorem State.fld_setFld_low (s : State) {page o lo n n' v : Nat} (h : lo + n ≤ 64) (hn : n' ≤ n) :
    (s.setFld page o lo n v).fld page o lo n' = v % 2 ^ n' := by
  rw [State.fld, State.setFld, State.reg_setReg_self, bf_putFld_low _ _ h hn]

/-- R53: a value that changes none of the frozen fields keeps SRC. -/
theorem bf_src_of_frozen {old new : Word} (h : (old ^^^ new) &&& ptbCtlFrozen = 0) : bf old 0 3 = bf new 0 3 := by
  have hmask : ∀ i < 3, ptbCtlFrozen.getLsbD i = true := by decide
  apply Nat.eq_of_testBit_eq
  intro i
  rw [bf_testBit, bf_testBit]
  by_cases hi : i < 3
  · have hbit := congrArg (fun w : Word => w.getLsbD (0 + i)) h
    simp only [BitVec.getLsbD_and, BitVec.getLsbD_xor, Nat.zero_add, hmask i hi, Bool.and_true] at hbit
    simp only [hi, decide_true, Bool.true_and, Nat.zero_add]
    simpa using hbit
  · simp [hi]

section
variable {s t : State} {p : Fin 8}

/-- R574: a log entry changes registers only. -/
theorem onlyRegs_logWr (s : State) (page : Nat) (w : Wr) (c : LogCause) : OnlyRegs s (s.logWr page w c) :=
  onlyRegs_setReg (onlyRegs_setReg (onlyRegs_refl s) _ _ _) _ _ _

/-! ### The branches of the write -/

theorem ptbCtlWrite_frozen {w : Wr} (hrun : bitAt (s.reg (PG.ptb p) R.PTB_CTL) 8 = true)
    (h : (s.reg (PG.ptb p) R.PTB_CTL ^^^ s.wouldBe (PG.ptb p) w) &&& ptbCtlFrozen ≠ 0) :
    s.ptbCtlWrite p w = s.logWr (PG.ptb p) w .state :=
  if_pos ⟨hrun, h⟩

theorem ptbCtlWrite_starts {w : Wr} (hold : bitAt (s.reg (PG.ptb p) R.PTB_CTL) 8 = false)
    (hnew : bitAt (s.wouldBe (PG.ptb p) w) 8 = true)
    (hsrc : bf (s.reg (PG.ptb p) R.PTB_CTL) 0 3 = bf (s.wouldBe (PG.ptb p) w) 0 3) :
    s.ptbCtlWrite p w = (s.setReg (PG.ptb p) R.PTB_CTL (s.wouldBe (PG.ptb p) w)).ptbStart p := by
  simp [State.ptbCtlWrite, hold, hnew, hsrc]

theorem ptbCtlWrite_halts {w : Wr} (hold : bitAt (s.reg (PG.ptb p) R.PTB_CTL) 8 = true)
    (hnew : bitAt (s.wouldBe (PG.ptb p) w) 8 = false)
    (h : (s.reg (PG.ptb p) R.PTB_CTL ^^^ s.wouldBe (PG.ptb p) w) &&& ptbCtlFrozen = 0) :
    s.ptbCtlWrite p w = (s.setReg (PG.ptb p) R.PTB_CTL (s.wouldBe (PG.ptb p) w)).ptbHalt p := by
  simp [State.ptbCtlWrite, hold, hnew, h, bf_src_of_frozen h]

theorem ptbCtlWrite_source {w : Wr} (hold : bitAt (s.reg (PG.ptb p) R.PTB_CTL) 8 = false)
    (hnew : bitAt (s.wouldBe (PG.ptb p) w) 8 = false)
    (hsrc : bf (s.reg (PG.ptb p) R.PTB_CTL) 0 3 ≠ bf (s.wouldBe (PG.ptb p) w) 0 3) :
    s.ptbCtlWrite p w = (s.setReg (PG.ptb p) R.PTB_CTL (s.wouldBe (PG.ptb p) w)).ptbLoadDefaults p := by
  simp [State.ptbCtlWrite, hold, hnew, hsrc]

/-! ### RUN from 0 to 1 (R55) -/

theorem PtbState.extra_noEdge {b : PtbState} (h : b.edges = []) (unit den tau : Nat) : b.extra unit den tau = 0 := by
  have hwin : b.window = (0, 0) := by simp [PtbState.window, h]
  unfold PtbState.extra
  split
  · rfl
  · simp [hwin]

theorem countsRaw_zero (angle : Bool) (scale : Nat) : countsRaw angle scale 0 = 0 := by
  unfold countsRaw
  split
  · rw [zero_mul, openDiv_zero]
  · rw [zero_mul]

/-- A base anchored now that has counted nothing stands at its anchor. -/
theorem pos_of_anchored (hat : (s.ptb.get p).at_ = s.dtc) (hfrac : (s.ptb.get p).frac = 0) (hcnt : (s.ptb.get p).cnt = 0)
    (hedges : (s.ptb.get p).edges = []) : s.pos p = (s.ptb.get p).pos := by
  have henc : ∀ angle scale tau, (s.ptb.get p).encPos angle scale tau = (s.ptb.get p).pos := by
    intro angle scale tau
    simp only [PtbState.encPos, PtbState.extra_noEdge hedges, hcnt, countsRaw_zero]
    simp [wOfInt]
  have hnow : s.ptbElapsed p = 0 := by
    rw [State.ptbElapsed, hat, BitVec.sub_self]
    rfl
  unfold State.pos
  dsimp only
  rw [henc, hnow, PtbState.advance_zero_pos (by rw [hfrac]; exact rateDen_pos), ite_self, ite_self]

/-- R72: the state that is entered. -/
theorem State.ptbSt_ptbSetState (s : State) (p : Fin 8) {st : Nat} (h : st < 4) : (s.ptbSetState p st).ptbSt p = st := by
  have hset : (s.setFld (PG.ptb p) R.PTB_STS 0 2 st).ptbSt p = st :=
    (State.fld_setFld_self _ _ _ _ _ _ (by decide)).trans (Nat.mod_eq_of_lt h)
  have hirq : ∀ (u : State) (b : Nat), (u.irq (PG.ptb p) b).ptbSt p = u.ptbSt p := fun u b =>
    State.fld_setReg_ne _ _ _ _ (rkey_ne (by decide) (by decide) (.inr (by decide)))
  unfold State.ptbSetState
  dsimp only
  split <;> split <;> simp only [hirq, hset]

/-- R55: what a run that passes its checks starts from: the base anchored at PTB_START, with integrator, trim, slew and history
clear, in ACQUIRE or, with no source, LOCKED. -/
theorem State.ptbStart_starts (h : s.ptbRunFails p = []) :
    (∃ la lb lz ext vel filt, (s.ptbStart p).ptb.get p =
      { pos := s.reg (PG.ptb p) R.PTB_START, at_ := s.dtc, la, lb, lz, extrapOn := ext, velEdges := vel, encFilt := filt
        accAt := s.dtc, discAt := s.dtc, homeArmed := (s.ptb.get p).homeArmed, snapAt := (s.ptb.get p).snapAt }) ∧
      (s.ptbStart p).dtc = s.dtc ∧ (s.ptbStart p).ptbSt p = if s.ptbSrc p = 0 then 2 else 1 := by
  unfold State.ptbStart
  rw [h]
  dsimp only
  generalize hstarted : s.ptbUpd p _ = a
  have hget : ∃ la lb lz ext vel filt, a.ptb.get p =
      { pos := s.reg (PG.ptb p) R.PTB_START, at_ := s.dtc, la, lb, lz, extrapOn := ext, velEdges := vel, encFilt := filt
        accAt := s.dtc, discAt := s.dtc, homeArmed := (s.ptb.get p).homeArmed, snapAt := (s.ptb.get p).snapAt } := by
    rw [← hstarted, State.ptbUpd_get]
    exact ⟨_, _, _, _, _, _, rfl⟩
  have hsame : a.dtc = s.dtc ∧ a.ptbSrc p = s.ptbSrc p := by
    rw [← hstarted]
    exact ⟨rfl, rfl⟩
  generalize hshown : (a.setFld (PG.ptb p) R.PTB_STS 0 6 1).setBit (PG.ptb p) R.PTB_STS 2 (a.ptbEnc p) = b
  have hst : b.ptbSt p = 1 := by
    rw [← hshown, State.ptbSt, State.fld_setBit_other _ (by decide), State.fld_setFld_low _ (by decide) (by decide)]
    rfl
  have hb : b.dtc = a.dtc ∧ b.ptb = a.ptb ∧ b.ptbSrc p = a.ptbSrc p := by
    rw [← hshown]
    exact ⟨rfl, rfl, by
      rw [State.ptbSrc, State.fld, State.reg_setBit_off _ (by decide), State.reg_setFld_off _ (by decide), State.ptbSrc, State.fld]⟩
  generalize hdisc : State.discRecord _ _ = v
  have hkept : TimeKept b v := by
    rw [← hdisc]
    exact timeKept_discRecord (timeKept_sched (timeKept_refl b) _) _
  have hrates := hkept.sameRates p
  have hsrc : v.ptbSrc p = s.ptbSrc p := by rw [hrates.src, hb.2.2, hsame.2]
  have hv : v.ptb.get p = a.ptb.get p := by rw [hkept.ptb, hb.2.1]
  rw [hsrc]
  split
  · rw [State.ptbSetState_ptb, State.ptbSetState_dtc, hv, hrates.dtc, hb.1]
    exact ⟨hget, hsame.1, State.ptbSt_ptbSetState _ _ (by decide)⟩
  · rw [hv, hrates.dtc, hb.1, hrates.st]
    exact ⟨hget, hsame.1, hst⟩

theorem exec_ptbRun_writable (hw : Writable s (PG.ptb p)) (ini : Initiator) (v : Word) :
    exec (.ptbRun ini p v) s = s.ends (s.ptbCycle p fun s => s.ptbCtlWrite p (.full ini R.PTB_CTL v)) := by
  rw [exec_ptbRun, execPtbRun, ptbWr_ctl hw]

theorem exec_ptbStop_writable (hw : Writable s (PG.ptb p)) (ini : Initiator) (v : Word) :
    exec (.ptbStop ini p v) s = s.ends (s.ptbCycle p fun s => s.ptbCtlWrite p (.full ini R.PTB_CTL v)) := by
  rw [exec_ptbStop, execPtbStop, ptbWr_ctl hw]

theorem exec_ptbSrcDefaults_writable (hw : Writable s (PG.ptb p)) (ini : Initiator) (v : Word) :
    exec (.ptbSrcDefaults ini p v) s = s.ends (s.ptbCycle p fun s => s.ptbCtlWrite p (.full ini R.PTB_CTL v)) := by
  rw [exec_ptbSrcDefaults, execPtbSrcDefaults, ptbWr_ctl hw]

/-- A write of PTB_CTL that starts a run leaves the base as the start does. -/
theorem exec_ptbRun_starts (hw : Writable s (PG.ptb p)) (hs : (s.ptb.get p).snapAt ≠ some s.dtc) (ini : Initiator) (v : Word) {c : Word}
    (hc : s.wouldBe (PG.ptb p) (.full ini R.PTB_CTL v) = c) (hold : bitAt (s.reg (PG.ptb p) R.PTB_CTL) 8 = false)
    (hnew : bitAt c 8 = true) (hsrc : bf (s.reg (PG.ptb p) R.PTB_CTL) 0 3 = bf c 0 3)
    (hfails : (s.setReg (PG.ptb p) R.PTB_CTL c).ptbRunFails p = []) :
    ∃ t, exec (.ptbRun ini p v) s = .next t ∧ t.pos p = s.reg (PG.ptb p) R.PTB_START ∧ (t.ptb.get p).integ = 0 ∧
      (t.ptb.get p).loop = 0 ∧ (t.ptb.get p).slewN = 0 ∧ (t.ptb.get p).hist = [] ∧
      t.ptbSt p = (if bf c 0 3 = 0 then 2 else 1) := by
  subst hc
  have hact := ptbCtlWrite_starts hold hnew hsrc
  obtain ⟨⟨la, lb, lz, ext, vel, filt, hget⟩, hdtc, hst⟩ := State.ptbStart_starts hfails
  generalize hu : (s.setReg (PG.ptb p) R.PTB_CTL (s.wouldBe (PG.ptb p) (.full ini R.PTB_CTL v))).ptbStart p = u at hact hget hdtc hst
  have hstart : (s.setReg (PG.ptb p) R.PTB_CTL (s.wouldBe (PG.ptb p) (.full ini R.PTB_CTL v))).reg (PG.ptb p) R.PTB_START =
      s.reg (PG.ptb p) R.PTB_START := State.reg_setReg_off _ _ (by decide)
  have hnewSrc : (s.setReg (PG.ptb p) R.PTB_CTL (s.wouldBe (PG.ptb p) (.full ini R.PTB_CTL v))).ptbSrc p =
      bf (s.wouldBe (PG.ptb p) (.full ini R.PTB_CTL v)) 0 3 := by
    rw [State.ptbSrc, State.fld, State.reg_setReg_self]
  have hk : KeepsSnap s (s.ptbCtlWrite p (.full ini R.PTB_CTL v)) p := by
    rw [hact]
    exact ⟨hdtc, by rw [hget]; rfl⟩
  have hpos : u.pos p = s.reg (PG.ptb p) R.PTB_START := by
    rw [pos_of_anchored (by rw [hget, hdtc]) (by rw [hget]) (by rw [hget]) (by rw [hget]), hget, hstart]
  rw [exec_ptbRun_writable hw, State.ptbCycle_fresh hs hk, hact, State.ends_eq]
  refine ⟨_, rfl, hpos, ?_, ?_, ?_, ?_, ?_⟩
  · rw [State.withQueueOf_ptb, hget]
  · rw [State.withQueueOf_ptb, hget]
  · rw [State.withQueueOf_ptb, hget]
  · rw [State.withQueueOf_ptb, hget]
  · rw [State.ptbSt_withQueueOf, hst, hnewSrc]

/-! ### RUN from 1 to 0 (R55) -/

theorem exec_ptbStop_halts (hw : Writable s (PG.ptb p)) (hs : (s.ptb.get p).snapAt ≠ some s.dtc) (ini : Initiator) (v : Word) {c : Word}
    (hc : s.wouldBe (PG.ptb p) (.full ini R.PTB_CTL v) = c) (hold : bitAt (s.reg (PG.ptb p) R.PTB_CTL) 8 = true)
    (hnew : bitAt c 8 = false) (hfrozen : (s.reg (PG.ptb p) R.PTB_CTL ^^^ c) &&& ptbCtlFrozen = 0) :
    ∃ t, exec (.ptbStop ini p v) s = .next t ∧ t.pos p = s.pos p ∧ t.vel p = 0 ∧ t.ptbSt p = 0 ∧
      (t.ptb.get p).hist = (s.ptb.get p).hist ∧ OnlyBase s t p [R.PTB_CTL, R.PTB_STS] := by
  subst hc
  have hact := ptbCtlWrite_halts hold hnew hfrozen
  generalize hu : s.setReg (PG.ptb p) R.PTB_CTL (s.wouldBe (PG.ptb p) (.full ini R.PTB_CTL v)) = u at hact
  have hctl : OnlyBase s u p [R.PTB_CTL, R.PTB_STS] := hu ▸ onlyBase_setReg (onlyBase_refl s p _) (by decide) (by decide) _
  have hsame : SameRates s u p := by
    have hbase : OnlyBase s u p [R.PTB_CTL] := hu ▸ onlyBase_setReg (onlyBase_refl s p _) (by decide) (by decide) _
    refine ⟨hbase.dtc, hbase.ptbSt (by decide), ?_, ?_, ?_, ?_⟩
    · rw [← hu, State.ptbSrc, State.fld, State.reg_setReg_self, ← bf_src_of_frozen hfrozen]
      rfl
    · rw [State.ptbScale, State.fld, hbase.reg (by decide) (by decide)]
      rfl
    · rw [State.ptbNominal, hbase.reg (by decide) (by decide)]
      rfl
    · rw [State.ptbSlewMax, State.fld, hbase.reg (by decide) (by decide)]
      rfl
  have hptb : u.ptb = s.ptb := by rw [← hu]; rfl
  have hpos : u.pos p = s.pos p := pos_congr hsame (by rw [hptb])
  have hbase : OnlyBase s (u.ptbHalt p) p [R.PTB_CTL, R.PTB_STS] :=
    onlyBase_setReg (onlyBase_ptbUpd hctl _) (by decide) (by decide) _
  have hget : (u.ptbHalt p).ptb.get p =
      { s.ptb.get p with pos := s.pos p, cnt := 0, frac := 0, at_ := s.dtc, edges := [], slewN := 0 } := by
    rw [State.ptbHalt, State.setFld_ptb, State.ptbUpd_get, hptb, hpos, hsame.dtc]
  have hst : (u.ptbHalt p).ptbSt p = 0 := by
    rw [State.ptbHalt, State.ptbSt, State.fld_setFld_low _ (by decide) (by decide)]
    rfl
  have hstopped : (u.ptbHalt p).ptbRunning p = false := by rw [State.ptbRunning, hst]; rfl
  have hk : KeepsSnap s (s.ptbCtlWrite p (.full ini R.PTB_CTL v)) p := by
    rw [hact]
    exact ⟨hbase.dtc, by rw [hget]⟩
  refine ⟨u.ptbHalt p, ?_, ?_, ?_, hst, by rw [hget], hbase⟩
  · rw [exec_ptbStop_writable hw, State.ptbCycle_fresh hs hk, hact, hbase.ends]
  · simp [State.pos, hstopped, hget]
  · simp [State.vel, hstopped]

theorem exec_ptbStop_frozen (hw : Writable s (PG.ptb p)) (hs : (s.ptb.get p).snapAt ≠ some s.dtc) (ini : Initiator) (v : Word)
    (hold : bitAt (s.reg (PG.ptb p) R.PTB_CTL) 8 = true)
    (h : (s.reg (PG.ptb p) R.PTB_CTL ^^^ s.wouldBe (PG.ptb p) (.full ini R.PTB_CTL v)) &&& ptbCtlFrozen ≠ 0) :
    exec (.ptbStop ini p v) s = .next (s.logWr (PG.ptb p) (.full ini R.PTB_CTL v) .state) := by
  have hact := ptbCtlWrite_frozen hold h
  have hlog := onlyRegs_logWr s (PG.ptb p) (.full ini R.PTB_CTL v) .state
  have hk : KeepsSnap s (s.ptbCtlWrite p (.full ini R.PTB_CTL v)) p := by
    rw [hact]
    exact ⟨onlyRegs_read hlog State.dtc fun _ _ => rfl, by rw [onlyRegs_read hlog State.ptb fun _ _ => rfl]⟩
  rw [exec_ptbStop_writable hw, State.ptbCycle_fresh hs hk, hact,
    State.ends_of (onlyRegs_read hlog State.part fun _ _ => rfl) (onlyRegs_read hlog State.pending fun _ _ => rfl)]

/-! ### The defaults of a source (R54) -/

/-- The registers that the defaults of a source are loaded into. -/
def srcRegs : List Nat := [R.PTB_JUMP_MAX, R.PTB_NOMINAL, R.PTB_KP, R.PTB_KI, R.PTB_SLEW_MAX, R.PTB_SERVO_CTL]

theorem State.ptbLoadDefaults_loads {jm nom kp ki sm tol cnt hold : Nat}
    (h : srcDefaults (s.ptbSrc p) = some (jm, nom, kp, ki, sm, tol, cnt, hold)) :
    (s.ptbLoadDefaults p).reg (PG.ptb p) R.PTB_JUMP_MAX = wOfNat jm ∧ (s.ptbLoadDefaults p).reg (PG.ptb p) R.PTB_NOMINAL = wOfNat nom ∧
      (s.ptbLoadDefaults p).reg (PG.ptb p) R.PTB_KP = wOfNat kp ∧ (s.ptbLoadDefaults p).reg (PG.ptb p) R.PTB_KI = wOfNat ki ∧
      (s.ptbLoadDefaults p).reg (PG.ptb p) R.PTB_SLEW_MAX = wOfNat sm ∧
      (s.ptbLoadDefaults p).reg (PG.ptb p) R.PTB_SERVO_CTL = wOfNat (tol + cnt <<< 32 + hold <<< 48) ∧
      OnlyRegs s (s.ptbLoadDefaults p) ∧ PageKept s (s.ptbLoadDefaults p) (PG.ptb p) srcRegs := by
  have hload : s.ptbLoadDefaults p = (((((s.setReg (PG.ptb p) R.PTB_JUMP_MAX (wOfNat jm)).setReg (PG.ptb p) R.PTB_NOMINAL
      (wOfNat nom)).setReg (PG.ptb p) R.PTB_KP (wOfNat kp)).setReg (PG.ptb p) R.PTB_KI (wOfNat ki)).setReg (PG.ptb p) R.PTB_SLEW_MAX
      (wOfNat sm)).setReg (PG.ptb p) R.PTB_SERVO_CTL (wOfNat (tol + cnt <<< 32 + hold <<< 48)) := by
    simp only [State.ptbLoadDefaults, h]
  generalize tol + cnt <<< 32 + hold <<< 48 = servo at hload ⊢
  rw [hload]
  refine ⟨?_, ?_, ?_, ?_, ?_, State.reg_setReg_self _ _ _ _, ?_, ?_⟩
  · simp (disch := decide) only [State.reg_setReg_off, State.reg_setReg_self]
  · simp (disch := decide) only [State.reg_setReg_off, State.reg_setReg_self]
  · simp (disch := decide) only [State.reg_setReg_off, State.reg_setReg_self]
  · simp (disch := decide) only [State.reg_setReg_off, State.reg_setReg_self]
  · simp (disch := decide) only [State.reg_setReg_off, State.reg_setReg_self]
  · exact onlyRegs_setReg (onlyRegs_setReg (onlyRegs_setReg (onlyRegs_setReg (onlyRegs_setReg (onlyRegs_setReg (onlyRegs_refl s)
      _ _ _) _ _ _) _ _ _) _ _ _) _ _ _) _ _ _
  · have hin : ∀ o ∈ srcRegs, o < 0x10000 := by decide
    have hset : ∀ {u : State}, PageKept s u (PG.ptb p) srcRegs → ∀ {o}, o ∈ srcRegs → ∀ v,
        PageKept s (u.setReg (PG.ptb p) o v) (PG.ptb p) srcRegs := fun hu _ ho v => pageKept_setReg hu (hin _ ho) ho v
    exact hset (hset (hset (hset (hset (hset (pageKept_refl _ _ _) (by decide) _) (by decide) _) (by decide) _) (by decide) _)
      (by decide) _) (by decide) _

/-- A change of SRC with RUN = 0 stores the value and loads the row of the new source. -/
theorem exec_ptbSrcDefaults_loads (hw : Writable s (PG.ptb p)) (hs : (s.ptb.get p).snapAt ≠ some s.dtc) (ini : Initiator) (v : Word)
    {c : Word} (hc : s.wouldBe (PG.ptb p) (.full ini R.PTB_CTL v) = c) (hold : bitAt (s.reg (PG.ptb p) R.PTB_CTL) 8 = false)
    (hnew : bitAt c 8 = false) (hsrc : bf (s.reg (PG.ptb p) R.PTB_CTL) 0 3 ≠ bf c 0 3) {jm nom kp ki sm tol cnt hd : Nat}
    (hrow : srcDefaults (bf c 0 3) = some (jm, nom, kp, ki, sm, tol, cnt, hd)) :
    ∃ t, exec (.ptbSrcDefaults ini p v) s = .next t ∧ t.reg (PG.ptb p) R.PTB_CTL = c ∧
      (t.reg (PG.ptb p) R.PTB_JUMP_MAX, t.reg (PG.ptb p) R.PTB_NOMINAL, t.reg (PG.ptb p) R.PTB_KP, t.reg (PG.ptb p) R.PTB_KI,
        t.reg (PG.ptb p) R.PTB_SLEW_MAX) = (wOfNat jm, wOfNat nom, wOfNat kp, wOfNat ki, wOfNat sm) ∧
      t.reg (PG.ptb p) R.PTB_SERVO_CTL = wOfNat (tol + cnt <<< 32 + hd <<< 48) ∧ OnlyRegs s t ∧
      PageKept s t (PG.ptb p) (R.PTB_CTL :: srcRegs) := by
  subst hc
  have hact := ptbCtlWrite_source hold hnew hsrc
  generalize hu : s.setReg (PG.ptb p) R.PTB_CTL (s.wouldBe (PG.ptb p) (.full ini R.PTB_CTL v)) = u at hact
  have hctl : u.reg (PG.ptb p) R.PTB_CTL = s.wouldBe (PG.ptb p) (.full ini R.PTB_CTL v) := by rw [← hu, State.reg_setReg_self]
  obtain ⟨hjm, hnom, hkp, hki, hsm, hservo, honly, hkept⟩ := State.ptbLoadDefaults_loads (s := u) (p := p) (by
    rw [State.ptbSrc, State.fld, hctl]
    exact hrow)
  have honly' : OnlyRegs s (u.ptbLoadDefaults p) := by
    unfold OnlyRegs at honly ⊢
    rw [honly, ← hu]
    rfl
  have hk : KeepsSnap s (s.ptbCtlWrite p (.full ini R.PTB_CTL v)) p := by
    rw [hact]
    exact ⟨onlyRegs_read honly' State.dtc fun _ _ => rfl, by rw [onlyRegs_read honly' State.ptb fun _ _ => rfl]⟩
  refine ⟨u.ptbLoadDefaults p, ?_, ?_, by rw [hjm, hnom, hkp, hki, hsm], hservo, honly', fun q o ho hq => ?_⟩
  · rw [exec_ptbSrcDefaults_writable hw, State.ptbCycle_fresh hs hk, hact,
      State.ends_of (onlyRegs_read honly' State.part fun _ _ => rfl) (onlyRegs_read honly' State.pending fun _ _ => rfl)]
  · rw [hkept _ _ (by decide) (.inr (by decide)), hctl]
  · rw [hkept q o ho (hq.imp_right fun h hin => h (List.mem_cons_of_mem _ hin)), ← hu]
    exact State.reg_setReg_ne _ _ (rkey_ne (by decide) ho (hq.imp_right fun h e => h (e ▸ List.mem_cons_self)))

/-- R54: every source of R49 has a row. -/
theorem srcDefaults_some {k : Nat} (h : k < 5) : ∃ jm nom kp ki sm tol cnt hd,
    srcDefaults k = some (jm, nom, kp, ki, sm, tol, cnt, hd) := by
  interval_cases k <;> exact ⟨_, _, _, _, _, _, _, _, rfl⟩

/-- Settles O3: the value that PTB_CTL would hold tells the branches of the write apart; the rows of R54 are read one by one. -/
theorem ptbControlRunStopAndSource : Obligations.PtbControlRunStopAndSource := by
  intro ini p v s hw hs
  dsimp only
  refine ⟨exec_ptbRun_starts hw hs ini v rfl, fun hold hnew hfrozen => ?_, exec_ptbStop_frozen hw hs ini v, fun hold hnew hsrc hlt => ?_⟩
  · obtain ⟨t, hexec, hpos, hvel, hst, hhist, hbase⟩ := exec_ptbStop_halts hw hs ini v rfl hold hnew hfrozen
    exact ⟨t, hexec, hpos, hvel, hst, hhist, hbase.others, hbase.rest, hbase.kept⟩
  · obtain ⟨jm, nom, kp, ki, sm, tol, cnt, hd, hrow⟩ := srcDefaults_some hlt
    obtain ⟨t, hexec, hctl, hregs, hservo, honly, hkept⟩ := exec_ptbSrcDefaults_loads hw hs ini v rfl hold hnew hsrc hrow
    refine ⟨t, hexec, hctl, ?_, ?_, honly, hkept⟩
    · rw [hregs]
      generalize bf _ 0 3 = k at hlt hrow ⊢
      interval_cases k <;> cases hrow <;> rfl
    · simp only [State.fld, hservo]
      generalize bf _ 0 3 = k at hlt hrow ⊢
      interval_cases k <;> cases hrow <;> rfl

end

end Sys2Proof.Machine
end

section
/-!
PROOFS. The queue and the idle nanosecond (R46), what time brings to a base (R59, R64, R70, R72, R80), the stamp maps (R75, R77), and
scheduled items that fall due (R82, R86, R103, R325).
-/

namespace Sys2Proof.Machine

/-! ### The queue and the time (R46) -/

theorem step_of_cons {s : State} {c : Instr} {r : List Instr} (h : s.pending = c :: r) : step s = exec c { s with pending := r } := by
  unfold step
  rw [h]

theorem step_of_nil {s : State} (h : s.pending = []) : step s = .next s.idle := by
  unfold step
  rw [h]

theorem State.idle_running {s : State} (h : s.dtcCarried = false) : s.idle = { s with dtc := s.dtc + 1 } := by
  unfold State.idle
  rw [h]
  rfl

/-- R46: between two cycles of the AON clock a carried DTC stands. -/
theorem State.idle_between {s : State} (h : s.dtcCarried = true) (hcycle : s.pwr.aonPhase + 32768 < 1000000000) :
    s.idle = { s with pwr := { s.pwr with aonPhase := s.pwr.aonPhase + 32768 } } := by
  unfold State.idle
  rw [h, if_neg (by decide), if_pos hcycle]

/-- R46: at a cycle of the AON clock a carried DTC moves by whole nanoseconds, and the fraction is carried on. -/
theorem State.idle_cycle {s : State} (h : s.dtcCarried = true) (hcycle : 1000000000 ≤ s.pwr.aonPhase + 32768) :
    s.idle = { s with
      dtc := s.dtc + wOfNat ((s.pwr.aonFrac + 1953125) / 64)
      pwr := { s.pwr with aonPhase := s.pwr.aonPhase + 32768 - 1000000000, aonFrac := (s.pwr.aonFrac + 1953125) % 64 } } := by
  unfold State.idle
  rw [h, if_neg (by decide), if_neg (Nat.not_lt.mpr hcycle)]

/-- Settles O58: the queue tells the cases of a step apart, the AON clock those of an idle nanosecond. -/
theorem stepRunsTheFrontCommand : Obligations.StepRunsTheFrontCommand := by
  refine ⟨fun c r s h => step_of_cons h, fun s h hrun => by rw [step_of_nil h, State.idle_running hrun], fun s h hcarried => ?_⟩
  refine ⟨s.idle, step_of_nil h, ?_⟩
  by_cases hcycle : s.pwr.aonPhase + 32768 < 1000000000
  · rw [State.idle_between hcarried hcycle]
    exact ⟨rfl, fun _ => ⟨rfl, rfl⟩, fun hge => absurd hcycle (Nat.not_lt.mpr hge)⟩
  · rw [State.idle_cycle hcarried (Nat.not_lt.mp hcycle)]
    refine ⟨rfl, fun hlt => absurd hlt hcycle, fun _ _ => ⟨rfl, _, rfl, ?_⟩⟩
    exact (Nat.div_add_mod _ 64).trans (Nat.add_comm _ _)

/-! ### What time brings to a base -/

section
variable {s : State} {p : Fin 8}

theorem State.ifOn_powered {page : Nat} (h : s.isOff page = false) (act : State → State) : s.ifOn page act = act s := by
  simp [State.ifOn, h]

theorem foldl_of_fixed {α σ : Type} {f : σ → α → σ} {a : σ} {l : List α} (h : ∀ q ∈ l, f a q = a) : l.foldl f a = a := by
  induction l with
  | nil => rfl
  | cons q l ih =>
    rw [List.foldl_cons, h q List.mem_cons_self]
    exact ih fun r hr => h r (List.mem_cons_of_mem _ hr)

/-- A fold over all indices in which one of them acts, and the others neither before nor after it. -/
theorem foldl_finRange_single {σ : Type} {n : Nat} {f : σ → Fin n → σ} {p : Fin n} {a b : σ} (hact : f a p = b)
    (hbefore : ∀ q, q ≠ p → f a q = a) (hafter : ∀ q, q ≠ p → f b q = b) : (List.finRange n).foldl f a = b := by
  obtain ⟨l, r, hlr⟩ := List.append_of_mem (List.mem_finRange p)
  have hnodup : p ∉ l ++ r := (List.nodup_middle.mp (hlr ▸ List.nodup_finRange n)).notMem
  have hl : ∀ q ∈ l, q ≠ p := fun q hq e => hnodup (List.mem_append_left _ (e ▸ hq))
  have hr : ∀ q ∈ r, q ≠ p := fun q hq e => hnodup (List.mem_append_right _ (e ▸ hq))
  rw [hlr, List.foldl_append, List.foldl_cons, foldl_of_fixed fun q hq => hbefore q (hl q hq), hact,
    foldl_of_fixed fun q hq => hafter q (hr q hq)]

/-- R64: the first edge only starts the period measurement. -/
theorem State.mainsEdge_first (h : (s.ptb.get p).mainsLast = none) :
    s.mainsEdge p = s.ptbUpd p fun b => { b with mainsLast := some s.dtc } := by
  simp only [State.mainsEdge, h]

theorem exec_mainsZeroCross_first (hoff : s.isOff (PG.ptb p) = false) (m : Fin 2) (hrun : s.ptbRunning p = true) (hsrc : s.ptbSrc p = 3)
    (hin : s.fld (PG.ptb p) R.PTB_CTL 4 3 = m.val) (hlast : (s.ptb.get p).mainsLast = none)
    (hs : (s.ptb.get p).snapAt ≠ some s.dtc) (halone : ∀ q, q ≠ p → s.ptbRunning q = false) :
    ∃ t, exec (.mainsZeroCross m) s = .next t ∧ t.ptb.get p = { s.ptb.get p with mainsLast := some s.dtc } ∧
      (∀ q, q ≠ p → t.ptb.get q = s.ptb.get q) ∧ t = { s with ptb := t.ptb } := by
  have hact := State.mainsEdge_first hlast
  have hk : KeepsSnap s (s.mainsEdge p) p := by
    rw [hact]
    exact keepsSnap_ptbUpd ⟨rfl, rfl⟩ rfl
  refine ⟨s.mainsEdge p, ?_, by rw [hact, State.ptbUpd_get], fun q hq => by rw [hact]; exact vupd_get_ne _ _ hq, by rw [hact]; rfl⟩
  rw [exec_mainsZeroCross, execMainsZeroCross, foldl_finRange_single (p := p) (b := s.mainsEdge p)]
  · rw [hact]
    exact State.ends_of rfl rfl
  · rw [if_pos ⟨by simp [hoff], hrun, hsrc, hin⟩, State.ptbCycle_fresh hs hk]
  · intro q hq
    exact if_neg (by simp [halone q hq])
  · intro q hq
    have hstill : (s.mainsEdge p).ptbRunning q = false := by
      rw [hact]
      exact halone q hq
    exact if_neg (by simp [hstill])

theorem exec_holdoverTimeout_due (hoff : s.isOff (PG.ptb p) = false) (h : s.holdoverDue p = true) :
    ∃ t, exec (.holdoverTimeout p) s = .next t ∧ t.ptbSt p = 3 ∧ t.bit (PG.ptb p) R.PG_IRQ_RAW 1 = true ∧ OnlyRegs s t ∧
      PageKept s t (PG.ptb p) [R.PTB_STS, R.PG_IRQ_RAW] := by
  have hbase : OnlyBase s (s.ptbSetState p 3) p [R.PTB_STS, R.PG_IRQ_RAW] :=
    onlyBase_ptbSetState (onlyBase_refl s p _) (by decide) (by decide) 3
  have hstate : s.ptbSt p ≠ 3 := by
    intro h3
    simp [State.holdoverDue, h3] at h
  have hheld : s.ptbSetState p 3 = (s.setFld (PG.ptb p) R.PTB_STS 0 2 3).irq (PG.ptb p) 1 := by
    simp [State.ptbSetState, hstate]
  refine ⟨s.ptbSetState p 3, ?_, s.ptbSt_ptbSetState p (by decide), ?_, ?_, hbase.kept⟩
  · rw [exec_holdoverTimeout, execHoldoverTimeout, State.ifOn_powered hoff, if_pos h, hbase.ends]
  · rw [hheld]
    exact State.irq_bit _ _ _ (by decide)
  · rw [hheld]
    exact onlyRegs_setReg (onlyRegs_setReg (onlyRegs_refl s) _ _ _) _ _ _

theorem exec_holdoverTimeout_early (hoff : s.isOff (PG.ptb p) = false) (h : s.holdoverDue p = false) :
    exec (.holdoverTimeout p) s = .next s := by
  rw [exec_holdoverTimeout, execHoldoverTimeout, State.ifOn_powered hoff, h]
  rfl

theorem exec_slewDone_ends (hoff : s.isOff (PG.ptb p) = false) (hslew : (s.ptb.get p).slewN ≠ 0) (hdone : (s.settled p).slewN = 0) :
    ∃ t, exec (.slewDone p) s = .next t ∧ (t.ptb.get p).slewN = 0 ∧ t.bit (PG.ptb p) R.PTB_STS 4 = false ∧
      (t.ptb.get p).loop = (s.settled p).loop ∧ OnlyBase s t p [R.PTB_STS] := by
  have hbase : OnlyBase s (s.ptbSettle p) p [R.PTB_STS] := onlyBase_ptbSettle (onlyBase_refl s p _) (by decide)
  refine ⟨s.ptbSettle p, ?_, by rw [State.ptbSettle_get, hdone], ?_, by rw [State.ptbSettle_get], hbase⟩
  · rw [exec_slewDone, execSlewDone, State.ifOn_powered hoff, hbase.ends]
  · rw [State.ptbSettle_of_slew ⟨hslew, hdone⟩]
    exact State.bit_setBit_self _ _ _ _ _ (by decide)

theorem exec_standstill_sets (hoff : s.isOff (PG.ptb p) = false) (h : s.standstillDue p = true) :
    ∃ t, exec (.standstill p) s = .next t ∧ t.bit (PG.ptb p) R.PTB_STS 2 = true ∧ OnlyRegs s t ∧
      PageKept s t (PG.ptb p) [R.PTB_STS] := by
  refine ⟨s.setBit (PG.ptb p) R.PTB_STS 2 true, ?_, State.bit_setBit_self _ _ _ _ _ (by decide), rfl,
    pageKept_setReg (pageKept_refl _ _ _) (by decide) (by decide) _⟩
  rw [exec_standstill, execStandstill, State.ifOn_powered hoff, if_pos h]
  exact State.ends_of rfl rfl

theorem exec_histSample_due (hoff : s.isOff (PG.ptb p) = false) (h : s.histDue p = true) :
    ∃ t, exec (.histSample p) s = .next t ∧ (t.ptb.get p).hist = (s.iet, s.pos p) :: (s.ptb.get p).hist.take 4095 ∧
      t = { s with ptb := t.ptb } ∧ (∀ q, q ≠ p → t.ptb.get q = s.ptb.get q) := by
  refine ⟨s.ptbUpd p fun b => { b with hist := (s.iet, s.pos p) :: b.hist.take 4095 }, ?_, by rw [State.ptbUpd_get], rfl,
    fun q hq => vupd_get_ne _ _ hq⟩
  rw [exec_histSample, execHistSample, State.ifOn_powered hoff, if_pos h]
  exact State.ends_of rfl rfl

theorem exec_histSample_early (hoff : s.isOff (PG.ptb p) = false) (h : s.histDue p = false) : exec (.histSample p) s = .next s := by
  rw [exec_histSample, execHistSample, State.ifOn_powered hoff, h]
  rfl

/-- Settles O5: each event by whether it is due. -/
theorem timeDrivenBaseEvents : Obligations.TimeDrivenBaseEvents := by
  intro p s hoff
  refine ⟨exec_mainsZeroCross_first hoff, exec_holdoverTimeout_due hoff, exec_holdoverTimeout_early hoff, fun hslew hdone => ?_,
    exec_standstill_sets hoff, exec_histSample_due hoff, exec_histSample_early hoff⟩
  obtain ⟨t, hexec, hzero, hbit, hloop, hbase⟩ := exec_slewDone_ends hoff hslew hdone
  exact ⟨t, hexec, hzero, hbit, hloop, hbase.rest, hbase.kept⟩

end

/-! ### Stamp maps (R75, R77) -/

section
variable {s : State} {n : Fin 8}

theorem TMAP_CTL_full_reg (n : Fin 8) (ini : Initiator) (v : Word) : (Wr.full ini (R.TMAP_CTL n) v).reg = R.TMAP_CTL n := by
  rw [Wr.full_reg]
  unfold R.TMAP_CTL
  omega

theorem State.dtcWrite_tmapCtl (s : State) (n : Fin 8) (ini : Initiator) (v : Word) :
    s.dtcWrite (.full ini (R.TMAP_CTL n) v) = s.tmapCtlWrite n (.full ini (R.TMAP_CTL n) v) := by
  have hn := n.isLt
  have hreg := TMAP_CTL_full_reg n ini v
  have hin : 0x1000 ≤ (Wr.full ini (R.TMAP_CTL n) v).reg ∧ (Wr.full ini (R.TMAP_CTL n) v).reg < 0x1200 ∧
      ((Wr.full ini (R.TMAP_CTL n) v).reg - 0x1000) % 0x40 = 0 := by
    rw [hreg]
    unfold R.TMAP_CTL
    omega
  unfold State.dtcWrite
  rw [dif_pos hin]
  congr 1
  apply Fin.ext
  show ((Wr.full ini (R.TMAP_CTL n) v).reg - 0x1000) / 0x40 = n
  rw [hreg]
  unfold R.TMAP_CTL
  omega

/-- The registers of a stamp map lie in the page, apart from each other and from DTC_STS. -/
theorem tmapRegs_apart (n : Fin 8) : R.TMAP_CTL n < 0x10000 ∧ R.TMAP_OFS n < 0x10000 ∧ R.TMAP_RATE n < 0x10000 ∧
    R.TMAP_RESID n < 0x10000 ∧ R.TMAP_CTL n ≠ R.DTC_STS ∧ R.TMAP_CTL n ≠ R.TMAP_RATE n ∧ R.TMAP_OFS n ≠ R.TMAP_RATE n ∧
    R.TMAP_OFS n ≠ R.TMAP_RESID n ∧ R.TMAP_RATE n ≠ R.TMAP_RESID n := by
  have := n.isLt
  unfold R.TMAP_CTL R.TMAP_OFS R.TMAP_RATE R.TMAP_RESID R.DTC_STS
  omega

theorem exec_tmapEnable_writable (hw : Writable s PG.dtc) (ini : Initiator) (n : Fin 8) (v : Word) :
    exec (.tmapEnable ini n v) s = s.ends (s.tmapCtlWrite n (.full ini (R.TMAP_CTL n) v)) := by
  rw [exec_tmapEnable, execTmapEnable, State.gate_writable hw, State.dtcWrite_tmapCtl]

theorem exec_tmapEnable_refused (hw : Writable s PG.dtc) (ini : Initiator) (n : Fin 8) (v : Word) {c : Word}
    (hc : s.wouldBe PG.dtc (.full ini (R.TMAP_CTL n) v) = c) (hold : s.bit PG.dtc (R.TMAP_CTL n) 0 = false) (hnew : bitAt c 0 = true)
    (hmode : bitAt c 1 = true) (hzero : bf c 32 8 = 0) :
    ∃ t, exec (.tmapEnable ini n v) s = .next t ∧ t.bit PG.dtc (R.TMAP_CTL n) 0 = false ∧ t.bit PG.dtc R.DTC_STS n = true ∧
      OnlyRegs s t ∧ PageKept s t PG.dtc [R.TMAP_CTL n, R.DTC_STS] := by
  subst hc
  obtain ⟨hctl, -, -, -, hne, -⟩ := tmapRegs_apart n
  have hact : s.tmapCtlWrite n (.full ini (R.TMAP_CTL n) v) = (s.setReg PG.dtc (R.TMAP_CTL n)
      (putBit (s.wouldBe PG.dtc (.full ini (R.TMAP_CTL n) v)) 0 false)).setBit PG.dtc R.DTC_STS n true := by
    have hold' : bitAt (s.reg PG.dtc (R.TMAP_CTL n)) 0 = false := hold
    simp [State.tmapCtlWrite, hold', hnew, hmode, hzero]
  generalize s.wouldBe PG.dtc (.full ini (R.TMAP_CTL n) v) = c at hact
  rw [exec_tmapEnable_writable hw, hact]
  refine ⟨_, State.ends_of rfl rfl, ?_, State.bit_setBit_self _ _ _ _ _ (by omega), rfl, ?_⟩
  · rw [State.bit, State.reg_setBit_off _ hne, State.reg_setReg_self, bitAt_putBit_self _ _ _ (by decide)]
  · exact pageKept_setReg (pageKept_setReg (pageKept_refl _ _ _) hctl (by simp) _) (by decide) (by simp) _

theorem exec_tmapEnable_starts (hw : Writable s PG.dtc) (ini : Initiator) (n : Fin 8) (v : Word) {c : Word}
    (hc : s.wouldBe PG.dtc (.full ini (R.TMAP_CTL n) v) = c) (hold : s.bit PG.dtc (R.TMAP_CTL n) 0 = false) (hnew : bitAt c 0 = true)
    (h : bitAt c 1 = false ∨ bf c 32 8 ≠ 0) :
    ∃ t, exec (.tmapEnable ini n v) s = .next t ∧ t.reg PG.dtc (R.TMAP_CTL n) = c ∧ t.reg PG.dtc (R.TMAP_RATE n) = 0 ∧
      t.tmap.get n = {} ∧ t = { s with regs := t.regs, tmap := t.tmap } ∧
      PageKept s t PG.dtc [R.TMAP_CTL n, R.TMAP_RATE n] := by
  subst hc
  obtain ⟨hctl, -, hrate, -, -, hne, -⟩ := tmapRegs_apart n
  have hact : s.tmapCtlWrite n (.full ini (R.TMAP_CTL n) v) =
      { (s.setReg PG.dtc (R.TMAP_CTL n) (s.wouldBe PG.dtc (.full ini (R.TMAP_CTL n) v))).setReg PG.dtc (R.TMAP_RATE n) 0 with
        tmap := s.tmap.set n {} } := by
    have hold' : bitAt (s.reg PG.dtc (R.TMAP_CTL n)) 0 = false := hold
    have hok : ¬ (bitAt (s.wouldBe PG.dtc (.full ini (R.TMAP_CTL n) v)) 1 = true ∧
        bf (s.wouldBe PG.dtc (.full ini (R.TMAP_CTL n) v)) 32 8 = 0) := by
      rintro ⟨h1, h0⟩
      rcases h with h | h
      · rw [h1] at h; cases h
      · exact h h0
    simp [State.tmapCtlWrite, hold', hnew, hok]
  generalize s.wouldBe PG.dtc (.full ini (R.TMAP_CTL n) v) = c at hact
  rw [exec_tmapEnable_writable hw, hact]
  refine ⟨_, State.ends_of rfl rfl, ?_, State.reg_setReg_self _ _ _ _, ?_, rfl, ?_⟩
  · exact (State.reg_setReg_off _ _ hne).trans (State.reg_setReg_self _ _ _ _)
  · simp [Vector.get_eq_getElem]
  · exact pageKept_of_regs (pageKept_setReg (pageKept_setReg (pageKept_refl _ _ _) hctl (by simp) _) hrate (by simp) _) rfl

theorem exec_tmapIntervalEnd_early (hoff : s.isOff PG.dtc = false) {n : Fin 8} (h : s.tmapDue n = false) :
    exec (.tmapIntervalEnd n) s = .next s := by
  rw [exec_tmapIntervalEnd, execTmapIntervalEnd, State.ifOn_powered hoff, h]
  rfl

theorem exec_tmapIntervalEnd_due (hoff : s.isOff PG.dtc = false) {n : Fin 8} {r : Int} (hr : (s.tmap.get n).rmin = some r)
    (h : s.tmapDue n = true) :
    let e := r - (s.fld PG.dtc (R.TMAP_CTL n) 16 16 : Int)
    let ticks := s.fld PG.dtc (R.TMAP_CTL n) 32 8 * 1024
    ∃ t, exec (.tmapIntervalEnd n) s = .next t ∧
      t.reg PG.dtc (R.TMAP_OFS n) = wOfInt ((s.reg PG.dtc (R.TMAP_OFS n)).toInt + roundEven (e * 2 ^ 24) 2) ∧
      t.reg PG.dtc (R.TMAP_RATE n) = wOfInt (max (-549755813) (min 549755813
        ((s.reg PG.dtc (R.TMAP_RATE n)).toInt + roundEven (e * 2 ^ 40) (8 * ticks)))) ∧
      t.reg PG.dtc (R.TMAP_RESID n) = wOfNat (low 32 r) ∧ (t.tmap.get n).rmin = none ∧
      t = { s with regs := t.regs, tmap := t.tmap } ∧
      PageKept s t PG.dtc [R.TMAP_OFS n, R.TMAP_RATE n, R.TMAP_RESID n] := by
  intro e ticks
  obtain ⟨-, hofs, hrate, hresid, -, -, hofsRate, hofsResid, hrateResid⟩ := tmapRegs_apart n
  have hact : s.tmapClose n =
      { ((s.setReg PG.dtc (R.TMAP_OFS n) (wOfInt ((s.reg PG.dtc (R.TMAP_OFS n)).toInt + roundEven (e * 2 ^ 24) 2))).setReg PG.dtc
          (R.TMAP_RATE n) (wOfInt (max (-tmapRateMax) (min tmapRateMax
            ((s.reg PG.dtc (R.TMAP_RATE n)).toInt + roundEven (e * 2 ^ 40) (8 * ticks)))))).setReg PG.dtc
          (R.TMAP_RESID n) (wOfNat (low 32 r)) with
        tmap := vupd s.tmap n fun t => { t with rmin := none } } := by
    simp only [State.tmapClose, hr, clamp_eq (show 0 ≤ tmapRateMax by decide)]
    rfl
  have hlimit : tmapRateMax = 549755813 := rfl
  rw [hlimit] at hact
  generalize wOfInt ((s.reg PG.dtc (R.TMAP_OFS n)).toInt + _) = x at hact ⊢
  generalize wOfInt (max _ _) = y at hact ⊢
  generalize wOfNat (low 32 r) = z at hact ⊢
  rw [exec_tmapIntervalEnd, execTmapIntervalEnd, State.ifOn_powered hoff, if_pos h, hact]
  refine ⟨_, State.ends_of rfl rfl, ?_, ?_, State.reg_setReg_self _ _ _ _, ?_, rfl, ?_⟩
  · exact (State.reg_setReg_off _ _ hofsResid).trans ((State.reg_setReg_off _ _ hofsRate).trans (State.reg_setReg_self _ _ _ _))
  · exact (State.reg_setReg_off _ _ hrateResid).trans (State.reg_setReg_self _ _ _ _)
  · simp
  · exact pageKept_of_regs (pageKept_setReg (pageKept_setReg (pageKept_setReg (pageKept_refl _ _ _) hofs (by simp) _) hrate
      (by simp) _) hresid (by simp) _) rfl

/-- Settles O7: the enable is judged by MODE and INTERVAL, the interval's end by whether it held an event. -/
theorem stampMapEnableAndInterval : Obligations.StampMapEnableAndInterval := by
  refine ⟨fun ini n v s hw => ?_, fun n s hoff => ⟨exec_tmapIntervalEnd_early hoff, fun r hr h => exec_tmapIntervalEnd_due hoff hr h⟩⟩
  exact fun hold hnew => ⟨exec_tmapEnable_refused hw ini n v rfl hold hnew, exec_tmapEnable_starts hw ini n v rfl hold hnew⟩

end

/-! ### Scheduled items that fall due (R82, R86, R103, R325) -/

section
variable {s : State}

theorem exec_scheduledItemDue_idle {id : ItemId} (h : s.dueItem id = none) : exec (.scheduledItemDue id) s = .next s := by
  rw [exec_scheduledItemDue, execScheduledItemDue, State.itemDue, h]
  rfl

theorem State.itemDue_alarm {p : Fin 8} (h : (s.dueItem (.alarm p)).isSome = true) :
    s.itemDue (.alarm p) = s.ifOn (PG.ptb p) fun s => s.alarmDue p := by
  obtain ⟨i, hi⟩ := Option.isSome_iff_exists.mp h
  simp only [State.itemDue, hi]

theorem State.itemDue_recovery (h : (s.dueItem .recovery).isSome = true) :
    s.itemDue .recovery = (s.schedDel .recovery).spkUpd fun x => { x with recDue := true } := by
  obtain ⟨i, hi⟩ := Option.isSome_iff_exists.mp h
  simp only [State.itemDue, hi]

theorem State.itemDue_pps (h : (s.dueItem .pps).isSome = true) : s.itemDue .pps = s.ifOn (PG.net 0) State.ppsDue := by
  obtain ⟨i, hi⟩ := Option.isSome_iff_exists.mp h
  simp only [State.itemDue, hi]

/-- An item that is deleted is not pending. -/
theorem State.schedGet_schedDel (s : State) (id : ItemId) : (s.schedDel id).schedGet id = none := by
  simp [State.schedGet, State.schedDel, List.find?_eq_none]

theorem exec_scheduledItemDue_alarm {p : Fin 8} (h : (s.dueItem (.alarm p)).isSome = true) (hoff : s.isOff (PG.ptb p) = false)
    (hwake : s.alarmWakes p = false) :
    ∃ t, exec (.scheduledItemDue (.alarm p)) s = .next t ∧ t.bit (PG.ptb p) R.PTB_STS 14 = true ∧
      t.bit (PG.ptb p) R.PG_IRQ_RAW 14 = true ∧ t.bit (PG.ptb p) R.PTB_ALARM_CTL 0 = false ∧
      t.schedGet (.alarm p) = none ∧ t = { s with regs := t.regs, sched := t.sched } ∧
      PageKept s t (PG.ptb p) [R.PTB_STS, R.PG_IRQ_RAW, R.PTB_ALARM_CTL] := by
  generalize hu : (s.ptbFlag p 14).setBit (PG.ptb p) R.PTB_ALARM_CTL 0 false = u
  have hbase : OnlyBase s u p [R.PTB_STS, R.PG_IRQ_RAW, R.PTB_ALARM_CTL] := by
    rw [← hu]
    exact onlyBase_setReg (onlyBase_ptbFlag (onlyBase_refl s p _) (by decide) (by decide) 14) (by decide) (by decide) _
  have hstill : (u.schedDel (.alarm p)).alarmWakes p = false := by
    have hpwc : u.reg PG.pwc R.PWC_WAKE_EN = s.reg PG.pwc R.PWC_WAKE_EN :=
      hbase.kept _ _ (by decide) (.inl (by unfold PG.pwc PG.ptb; omega))
    have hctl : u.bit (PG.ptb p) R.PTB_ALARM_CTL 1 = s.bit (PG.ptb p) R.PTB_ALARM_CTL 1 := by
      rw [← hu, State.bit_setBit_ne _ (by decide), State.bit, State.reg_ptbFlag_off _ _ _ (by decide) (by decide), State.bit]
    show (u.bit PG.pwc R.PWC_WAKE_EN 1 && u.bit (PG.ptb p) R.PTB_ALARM_CTL 1) = false
    rw [hctl, State.bit, hpwc]
    exact hwake
  have hact : s.alarmDue p = u.schedDel (.alarm p) := by
    simp only [State.alarmDue, hu, hstill, Bool.false_eq_true, if_false]
  rw [exec_scheduledItemDue, execScheduledItemDue, State.itemDue_alarm h, State.ifOn_powered hoff, hact]
  refine ⟨u.schedDel (.alarm p), State.ends_of (by rw [State.schedDel_part, hbase.rest]) (by rw [State.schedDel_pending, hbase.rest]),
    ?_, ?_, ?_, State.schedGet_schedDel _ _, ?_, pageKept_of_regs hbase.kept rfl⟩
  · show u.bit (PG.ptb p) R.PTB_STS 14 = true
    rw [← hu, State.bit, State.reg_setBit_off _ (by decide)]
    exact State.bit_ptbFlag_sts _ _ (by decide)
  · show u.bit (PG.ptb p) R.PG_IRQ_RAW 14 = true
    rw [← hu, State.bit, State.reg_setBit_off _ (by decide)]
    exact State.bit_ptbFlag_raw _ _ (by decide)
  · show u.bit (PG.ptb p) R.PTB_ALARM_CTL 0 = false
    rw [← hu]
    exact State.bit_setBit_self _ _ _ _ _ (by decide)
  · rw [← hu]
    rfl

theorem exec_scheduledItemDue_recovery (h : (s.dueItem .recovery).isSome = true) :
    ∃ t, exec (.scheduledItemDue .recovery) s = .next t ∧ t.schedGet .recovery = none ∧
      t.spk = { s.spk with recDue := true } ∧ t = { s with sched := t.sched, spk := t.spk } := by
  rw [exec_scheduledItemDue, execScheduledItemDue, State.itemDue_recovery h]
  exact ⟨_, State.ends_of rfl rfl, s.schedGet_schedDel _, rfl, rfl⟩

/-- R103: the registers once NET_PPS_NEXT has fallen due, with no period missed. -/
def State.ppsShown (s : State) : State :=
  ((s.setReg (PG.net 0) R.NET_PPS_NEXT (s.reg (PG.net 0) R.NET_PPS_NEXT + s.reg (PG.net 0) R.NET_PPS_PERIOD)).addCnt
    (PG.net 0) R.NET_PPS_CNT 0 16 0).irq (PG.net 0) 7

theorem State.reg_ppsShown_ctl (s : State) : s.ppsShown.reg (PG.net 0) R.NET_PPS_CTL = s.reg (PG.net 0) R.NET_PPS_CTL :=
  (State.reg_setBit_off _ (by decide)).trans ((State.reg_setFld_off _ (by decide)).trans (State.reg_setReg_off _ _ (by decide)))

theorem State.reg_ppsShown_next (s : State) : s.ppsShown.reg (PG.net 0) R.NET_PPS_NEXT =
    s.reg (PG.net 0) R.NET_PPS_NEXT + s.reg (PG.net 0) R.NET_PPS_PERIOD :=
  (State.reg_setBit_off _ (by decide)).trans ((State.reg_setFld_off _ (by decide)).trans (State.reg_setReg_self _ _ _ _))

/-- R103: while the position is before the target after next, one period is enough and the next pulse is armed. -/
theorem State.ppsDue_next (hen : s.bit (PG.net 0) R.NET_PPS_CTL 0 = true)
    (hbefore : before (s.pos s.ppsBase) (s.reg (PG.net 0) R.NET_PPS_NEXT + s.reg (PG.net 0) R.NET_PPS_PERIOD) = true) :
    ∃ base target x, s.ppsDue = ({ s.ppsShown with pps := { s.pps with
        out := true, until_ := s.dtc + wOfNat (s.fld (PG.net 0) R.NET_PPS_CTL 8 24) } } : State).schedAdd .pps base target x := by
  have hfld : s.ppsShown.fld (PG.net 0) R.NET_PPS_CTL 8 24 = s.fld (PG.net 0) R.NET_PPS_CTL 8 24 := by
    rw [State.fld, s.reg_ppsShown_ctl, State.fld]
  have hstill : ∀ x, ({ s.ppsShown with pps := x } : State).bit (PG.net 0) R.NET_PPS_CTL 0 = true := by
    intro x
    show bitAt (s.ppsShown.reg (PG.net 0) R.NET_PPS_CTL) 0 = true
    rw [s.reg_ppsShown_ctl]
    exact hen
  have hdue : s.ppsDue = ({ s.ppsShown with pps := { s.pps with
      out := true, until_ := s.dtc + wOfNat (s.ppsShown.fld (PG.net 0) R.NET_PPS_CTL 8 24) } } : State).ppsArm := by
    unfold State.ppsDue
    dsimp only
    rw [if_pos (Or.inl hbefore), Nat.zero_mul, wOfNat, BitVec.add_zero]
    rfl
  rw [hfld] at hdue
  exact ⟨_, _, _, hdue.trans (if_pos (hstill _))⟩

theorem exec_scheduledItemDue_pps (h : (s.dueItem .pps).isSome = true) (hoff : s.isOff (PG.net 0) = false)
    (hen : s.bit (PG.net 0) R.NET_PPS_CTL 0 = true)
    (hbefore : before (s.pos s.ppsBase) (s.reg (PG.net 0) R.NET_PPS_NEXT + s.reg (PG.net 0) R.NET_PPS_PERIOD) = true) :
    ∃ t, exec (.scheduledItemDue .pps) s = .next t ∧
      t.reg (PG.net 0) R.NET_PPS_NEXT = s.reg (PG.net 0) R.NET_PPS_NEXT + s.reg (PG.net 0) R.NET_PPS_PERIOD ∧ t.pps.out = true ∧
      t.pps.until_ = s.dtc + wOfNat (s.fld (PG.net 0) R.NET_PPS_CTL 8 24) ∧ t.bit (PG.net 0) R.PG_IRQ_RAW 7 = true ∧
      t = { s with regs := t.regs, sched := t.sched, pps := t.pps } ∧
      PageKept s t (PG.net 0) [R.NET_PPS_NEXT, R.NET_PPS_CNT, R.PG_IRQ_RAW] := by
  obtain ⟨base, target, x, hact⟩ := State.ppsDue_next hen hbefore
  have hkept : PageKept s s.ppsShown (PG.net 0) [R.NET_PPS_NEXT, R.NET_PPS_CNT, R.PG_IRQ_RAW] :=
    pageKept_setReg (pageKept_setReg (pageKept_setReg (pageKept_refl _ _ _) (by decide) (by decide) _) (by decide) (by decide) _)
      (by decide) (by decide) _
  have hraw : s.ppsShown.bit (PG.net 0) R.PG_IRQ_RAW 7 = true := State.irq_bit _ _ _ (by decide)
  rw [exec_scheduledItemDue, execScheduledItemDue, State.itemDue_pps h, State.ifOn_powered hoff, hact]
  exact ⟨_, State.ends_of rfl rfl, s.reg_ppsShown_next, rfl, rfl, hraw, rfl, pageKept_of_regs hkept rfl⟩

/-- Settles O8: the item that is due decides what takes effect, and none that is not due. -/
theorem scheduledItemFallsDue : Obligations.ScheduledItemFallsDue :=
  ⟨fun _ _ h => exec_scheduledItemDue_idle h, fun _ _ h hoff hwake => exec_scheduledItemDue_alarm h hoff hwake,
    fun _ h => exec_scheduledItemDue_recovery h, fun _ h hoff hen hbefore => exec_scheduledItemDue_pps h hoff hen hbefore⟩

end

end Sys2Proof.Machine
end

section
/-!
PROOFS. Encoder inputs (R51, R57 to R63): which change of a level has passed a base's filter, what an edge of A or B and what a rise
of Z do to the base, and the sample that brings them.
-/

namespace Sys2Proof.Machine

/-! ### Levels that have passed the filter (R57) -/

theorem levelDue_waits {level mine : Bool} {since : Option Word} {now : Word} {m n : Nat}
    (h : level = mine ∨ ∃ ts, since = some ts ∧ (now - ts).toNat < m + 1) (hmn : m ≤ n) :
    levelDue level since mine now (n + 1) = none := by
  unfold levelDue
  rcases h with rfl | ⟨ts, rfl, hlt⟩
  · simp
  · split
    · rfl
    · exact if_neg (by omega)

theorem levelDue_passed {level mine : Bool} {since : Option Word} {now ts : Word} {n : Nat} (hne : level ≠ mine)
    (h : since = some ts) (hn : n ≤ (now - ts).toNat) : levelDue level since mine now n = some ts := by
  subst h
  unfold levelDue
  rw [if_neg (by simpa using hne)]
  exact if_pos hn

theorem quadUp_of_a {a0 a1 : Bool} (h : a1 ≠ a0) (b1 : Bool) : quadUp a0 a1 b1 = decide (a1 ≠ b1) := by
  revert a0 a1 b1
  decide

theorem quadUp_of_b (a b1 : Bool) : quadUp a a b1 = decide (a = b1) := by
  revert a b1
  decide

section
variable {s : State} {p : Fin 8} {x : EncInput}

/-! ### Changes that are applied (R57, R58) -/

theorem encTake_none (ha : levelDue x.a x.aAt (s.ptb.get p).la s.dtc ((s.ptb.get p).encFilt + 1) = none)
    (hb : levelDue x.b x.bAt (s.ptb.get p).lb s.dtc ((s.ptb.get p).encFilt + 1) = none) (k : Nat) : s.encTake p x k = s := by
  cases k with
  | zero => rfl
  | succ k =>
    unfold State.encTake
    dsimp only
    rw [ha, hb]

theorem encTake_a {t : Word} (ha : levelDue x.a x.aAt (s.ptb.get p).la s.dtc ((s.ptb.get p).encFilt + 1) = some t)
    (hb : levelDue x.b x.bAt (s.ptb.get p).lb s.dtc ((s.ptb.get p).encFilt + 1) = none) (k : Nat) :
    s.encTake p x (k + 1) = (s.encApply p x.a (s.ptb.get p).lb t).encTake p x k := by
  rw [State.encTake]
  rw [ha, hb]

theorem encTake_b {t : Word} (ha : levelDue x.a x.aAt (s.ptb.get p).la s.dtc ((s.ptb.get p).encFilt + 1) = none)
    (hb : levelDue x.b x.bAt (s.ptb.get p).lb s.dtc ((s.ptb.get p).encFilt + 1) = some t) (k : Nat) :
    s.encTake p x (k + 1) = (s.encApply p (s.ptb.get p).la x.b t).encTake p x k := by
  rw [State.encTake]
  rw [ha, hb]

theorem encTake_both {t : Word} (ha : levelDue x.a x.aAt (s.ptb.get p).la s.dtc ((s.ptb.get p).encFilt + 1) = some t)
    (hb : levelDue x.b x.bAt (s.ptb.get p).lb s.dtc ((s.ptb.get p).encFilt + 1) = some t) (k : Nat) :
    s.encTake p x (k + 1) = (s.encApply p x.a x.b t).encTake p x k := by
  rw [State.encTake]
  rw [ha, hb]
  exact if_pos rfl

theorem zTake_none (h : levelDue x.z x.zAt (s.ptb.get p).lz s.dtc ((s.ptb.get p).encFilt + 1) = none) : s.zTake p x = s := by
  unfold State.zTake
  dsimp only
  rw [h]

theorem zTake_some {t : Word} (h : levelDue x.z x.zAt (s.ptb.get p).lz s.dtc ((s.ptb.get p).encFilt + 1) = some t) :
    s.zTake p x = if x.z then (s.ptbUpd p fun b => { b with lz := x.z }).zApply p t else s.ptbUpd p fun b => { b with lz := x.z } := by
  unfold State.zTake
  dsimp only
  rw [h]

/-! ### An edge of A or B (R57 to R59) -/

/-- R57, R59: the record of a base after an edge of sense `up` at `ts`, with the filter and the window that PTB_CTL asks for. -/
def PtbState.counted (b : PtbState) (la lb up : Bool) (ts ctl : Word) : PtbState := { b with
  la, lb, up
  cnt := if up then b.cnt + 1 else b.cnt - 1
  zCnt := b.zCnt.map fun c => if up then c + 1 else c - 1
  hasEdge := true
  edges := if b.hasEdge && (b.up == up) then ts :: b.edges.take (2 ^ (min 8 (bf ctl 12 4))) else [ts]
  extrapOn := bitAt ctl 9, velEdges := bf ctl 12 4, encFilt := bf ctl 16 3 }

theorem PtbState.counted_edges (b : PtbState) (la lb up : Bool) (ts ctl : Word) : (b.counted la lb up ts ctl).edges.head? = some ts := by
  unfold PtbState.counted
  dsimp only
  split <;> rfl

theorem State.ptbSetState_locked (s : State) (p : Fin 8) : s.ptbSetState p 2 = s.setFld (PG.ptb p) R.PTB_STS 0 2 2 := by
  simp [State.ptbSetState]

/-- R59: a base in ACQUIRE is LOCKED by an edge. -/
def State.ptbLocked (s : State) (p : Fin 8) : State := if s.ptbSt p = 1 then s.setFld (PG.ptb p) R.PTB_STS 0 2 2 else s

/-- R57, R59: PTB_STS and the record after an edge: STANDSTILL clear, REVERSE by the sense. -/
def State.edgeShown (s : State) (p : Fin 8) (up : Bool) (b : PtbState) : State :=
  State.ptbLocked (((s.ptbUpd p fun _ => b).setBit (PG.ptb p) R.PTB_STS 2 false).setBit (PG.ptb p) R.PTB_STS 3 (!up)) p

theorem onlyBase_edgeShown (s : State) (p : Fin 8) (up : Bool) (b : PtbState) :
    OnlyBase s (s.edgeShown p up b) p [R.PTB_STS, R.PG_IRQ_RAW] := by
  have hsts : ∀ {u : State}, OnlyBase s u p [R.PTB_STS, R.PG_IRQ_RAW] → ∀ lo n v,
      OnlyBase s (u.setFld (PG.ptb p) R.PTB_STS lo n v) p [R.PTB_STS, R.PG_IRQ_RAW] :=
    fun h _ _ _ => onlyBase_setReg h (by decide) (by decide) _
  have hmarked := hsts (hsts (onlyBase_ptbUpd (onlyBase_refl s p _) fun _ => b) 2 1 false.toNat) 3 1 (!up).toNat
  exact onlyBase_ite (hsts hmarked 0 2 2) hmarked _

theorem State.edgeShown_get (s : State) (p : Fin 8) (up : Bool) (b : PtbState) : (s.edgeShown p up b).ptb.get p = b := by
  unfold State.edgeShown State.ptbLocked
  split <;> simp

theorem State.bit_ptbLocked (s : State) (p : Fin 8) {i : Nat} (h : 2 ≤ i) :
    (s.ptbLocked p).bit (PG.ptb p) R.PTB_STS i = s.bit (PG.ptb p) R.PTB_STS i := by
  unfold State.ptbLocked
  split
  · exact State.bit_setFld_other _ (.inr (by omega))
  · rfl

theorem State.edgeShown_sts (s : State) (p : Fin 8) (up : Bool) (b : PtbState) :
    (s.edgeShown p up b).bit (PG.ptb p) R.PTB_STS 3 = !up ∧ (s.edgeShown p up b).bit (PG.ptb p) R.PTB_STS 2 = false :=
  ⟨(State.bit_ptbLocked _ _ (by decide)).trans (State.bit_setBit_self _ _ _ _ _ (by decide)),
    (State.bit_ptbLocked _ _ (by decide)).trans
      ((State.bit_setBit_ne _ (by decide)).trans (State.bit_setBit_self _ _ _ _ _ (by decide)))⟩

theorem State.ptbUpd_ptbUpd (s : State) (p : Fin 8) (f g : PtbState → PtbState) :
    (s.ptbUpd p f).ptbUpd p g = s.ptbUpd p fun _ => g (f (s.ptb.get p)) := by
  have h : vupd (vupd s.ptb p f) p g = vupd s.ptb p fun _ => g (f (s.ptb.get p)) := by
    rw [vupd, vupd_get_self, vupd, vupd, Vector.set_set]
  unfold State.ptbUpd
  rw [h]

/-- R57: of the levels of A and B one changes: the edge is counted. The items of the base are looked at before and after it. -/
theorem encApply_edge {a b : Bool} (hrun : s.ptbRunning p = true) (henc : s.ptbEnc p = true)
    (hone : ((s.ptb.get p).la ≠ a ∧ (s.ptb.get p).lb = b) ∨ ((s.ptb.get p).la = a ∧ (s.ptb.get p).lb ≠ b)) (ts : Word) {up : Bool}
    (hup : (quadUp (s.ptb.get p).la a b != bitAt (s.reg (PG.ptb p) R.PTB_CTL) 7) = up) :
    ∃ l, s.encApply p a b ts =
      { s.edgeShown p up ((s.ptb.get p).counted a b up ts (s.reg (PG.ptb p) R.PTB_CTL)) with sched := l } := by
  have hboth : ((s.ptb.get p).la != a && (s.ptb.get p).lb != b) = false := by
    rcases hone with ⟨-, h⟩ | ⟨h, -⟩ <;> simp [h]
  have hnone : ((s.ptb.get p).la == a && (s.ptb.get p).lb == b) = false := by
    rcases hone with ⟨h, -⟩ | ⟨-, h⟩ <;> simp [h]
  have hlocked : ∀ (u : State) (l : List Sched), ({ u with sched := l } : State).ptbLocked p = { u.ptbLocked p with sched := l } := by
    intro u l
    by_cases h : u.ptbSt p = 1
    · rw [State.ptbLocked, State.ptbLocked, if_pos h, if_pos (show ({ u with sched := l } : State).ptbSt p = 1 from h)]
      rfl
    · rw [State.ptbLocked, State.ptbLocked, if_neg h, if_neg (show ¬ ({ u with sched := l } : State).ptbSt p = 1 from h)]
  unfold State.encApply
  dsimp only
  rw [hrun, henc, hboth, hnone, hup]
  simp only [Bool.and_self, Bool.not_true, Bool.false_eq_true, if_false, State.ptbSetState_locked, State.ptbUpd_ptbUpd]
  exact ⟨_, hlocked (((s.ptbUpd p fun _ => (s.ptb.get p).counted a b up ts (s.reg (PG.ptb p) R.PTB_CTL)).setBit (PG.ptb p) R.PTB_STS 2
    false).setBit (PG.ptb p) R.PTB_STS 3 (!up)) _⟩

/-! ### Both levels of one sample (R58) -/

/-- R58: an illegal transition is flagged and counted, and the levels stand. -/
def State.encIllegal (s : State) (p : Fin 8) (a b : Bool) : State :=
  ((s.ptbUpd p fun x => { x with la := a, lb := b }).ptbFlag p 9).bump (PG.ptb p) R.PTB_CNT0 0 16

theorem onlyBase_bump {t : State} {l : List Nat} (h : OnlyBase s t p l) {o : Nat} (ho : o < 0x10000) (hl : o ∈ l) (lo n : Nat) :
    OnlyBase s (t.bump (PG.ptb p) o lo n) p l :=
  onlyBase_setReg h ho hl _

theorem onlyBase_encIllegal (s : State) (p : Fin 8) (a b : Bool) :
    OnlyBase s (s.encIllegal p a b) p [R.PTB_STS, R.PG_IRQ_RAW, R.PTB_CNT0] :=
  onlyBase_bump (onlyBase_ptbFlag (onlyBase_ptbUpd (onlyBase_refl s p _) _) (by decide) (by decide) 9) (by decide) (by decide) 0 16

theorem State.encIllegal_get (s : State) (p : Fin 8) (a b : Bool) :
    (s.encIllegal p a b).ptb.get p = { s.ptb.get p with la := a, lb := b } :=
  State.ptbUpd_get _ _ _

theorem encIllegal_shows (s : State) (p : Fin 8) (a b : Bool) : (s.encIllegal p a b).bit (PG.ptb p) R.PTB_STS 9 = true ∧
    (s.encIllegal p a b).bit (PG.ptb p) R.PG_IRQ_RAW 9 = true ∧ Counted s (s.encIllegal p a b) (PG.ptb p) R.PTB_CNT0 0 16 1 := by
  have hflag : OnlyBase s ((s.ptbUpd p fun x => { x with la := a, lb := b }).ptbFlag p 9) p [R.PTB_STS, R.PG_IRQ_RAW] :=
    onlyBase_ptbFlag (onlyBase_ptbUpd (onlyBase_refl s p _) _) (by decide) (by decide) 9
  exact ⟨(State.bit_bump_off _ (by decide)).trans (State.bit_ptbFlag_sts _ p (by decide)),
    (State.bit_bump_off _ (by decide)).trans (State.bit_ptbFlag_raw _ p (by decide)),
    counted_bump (hflag.reg (by decide) (by decide)) (by decide)⟩

theorem encApply_both {a b : Bool} (hrun : s.ptbRunning p = true) (henc : s.ptbEnc p = true) (ha : (s.ptb.get p).la ≠ a)
    (hb : (s.ptb.get p).lb ≠ b) (ts : Word) :
    s.encApply p a b ts = s.encIllegal p a b := by
  have hboth : ((s.ptb.get p).la != a && (s.ptb.get p).lb != b) = true := by simp [ha, hb]
  unfold State.encApply
  dsimp only
  rw [hrun, henc, hboth]
  rfl

/-! ### A rise of Z (R62, R63) -/

theorem ptbSt_ptbFlag {b : Nat} (h : 2 ≤ b) : (s.ptbFlag p b).ptbSt p = s.ptbSt p := by
  rw [State.ptbSt, State.fld, State.ptbFlag, State.irq, State.reg_setBit_off _ (by decide)]
  exact State.fld_setBit_other s (.inl h)

/-- The registers that a rise of Z writes. -/
def zRegs : List Nat := [R.PTB_ZPOS, R.PTB_STS, R.PG_IRQ_RAW, R.PTB_CNT0]

/-- R62, R63: the position of a rise of Z is latched and the count from Z starts again; a `bad` count is flagged and counted. -/
def State.zLatched (s : State) (p : Fin 8) (x : Word) (bad : Bool) : State :=
  (if bad then ((s.setReg (PG.ptb p) R.PTB_ZPOS x).ptbFlag p 10).bump (PG.ptb p) R.PTB_CNT0 16 16
    else s.setReg (PG.ptb p) R.PTB_ZPOS x).ptbUpd p fun b => { b with zCnt := some 0 }

/-- R62: the homing is disarmed. -/
def State.homeDisarmed (s : State) (p : Fin 8) : State := s.ptbUpd p fun b => { b with homeArmed := false }

/-- R62: an armed homing steps the base to PTB_HOME. -/
def State.homed (s : State) (p : Fin 8) : State :=
  (s.homeDisarmed p).ptbStep p (s.reg (PG.ptb p) R.PTB_HOME - ((s.homeDisarmed p).pos p - (s.homeDisarmed p).cycleMoved p)) .home

theorem onlyBase_zLatched (s : State) (p : Fin 8) (x : Word) (bad : Bool) : OnlyBase s (s.zLatched p x bad) p zRegs := by
  have hlatched : OnlyBase s (s.setReg (PG.ptb p) R.PTB_ZPOS x) p zRegs :=
    onlyBase_setReg (onlyBase_refl s p _) (by decide) (by decide) x
  have hflagged := onlyBase_ptbFlag hlatched (by decide) (by decide) 10
  exact onlyBase_ptbUpd (onlyBase_ite (onlyBase_bump hflagged (by decide) (by decide) 16 16) hlatched _) _

theorem State.zLatched_get (s : State) (p : Fin 8) (x : Word) (bad : Bool) :
    (s.zLatched p x bad).ptb.get p = { s.ptb.get p with zCnt := some 0 } := by
  cases bad <;> exact State.ptbUpd_get _ _ _

theorem State.ptbSt_zLatched (s : State) (p : Fin 8) (x : Word) (bad : Bool) : (s.zLatched p x bad).ptbSt p = s.ptbSt p := by
  have hlatched : (s.setReg (PG.ptb p) R.PTB_ZPOS x).ptbSt p = s.ptbSt p := by
    rw [State.ptbSt, State.fld, State.reg_setReg_off _ _ (by decide)]
    rfl
  cases bad with
  | false => exact hlatched
  | true =>
    calc (s.zLatched p x true).ptbSt p
      _ = ((s.setReg (PG.ptb p) R.PTB_ZPOS x).ptbFlag p 10).ptbSt p := congrArg (bf · 0 2) (State.reg_setReg_off _ _ (by decide))
      _ = (s.setReg (PG.ptb p) R.PTB_ZPOS x).ptbSt p := ptbSt_ptbFlag (by decide)
      _ = s.ptbSt p := hlatched

theorem State.reg_zLatched (s : State) (p : Fin 8) (x : Word) (bad : Bool) : (s.zLatched p x bad).reg (PG.ptb p) R.PTB_ZPOS = x := by
  have hlatched : (s.setReg (PG.ptb p) R.PTB_ZPOS x).reg (PG.ptb p) R.PTB_ZPOS = x := State.reg_setReg_self _ _ _ _
  cases bad with
  | false => exact hlatched
  | true =>
    have hflagged := onlyBase_bump (onlyBase_ptbFlag (l := [R.PTB_STS, R.PG_IRQ_RAW, R.PTB_CNT0])
      (onlyBase_refl (s.setReg (PG.ptb p) R.PTB_ZPOS x) p _) (by decide) (by decide) 10) (o := R.PTB_CNT0) (by decide) (by decide) 16 16
    exact (hflagged.reg (by decide) (by decide)).trans hlatched

theorem State.pos_zLatched (s : State) (p : Fin 8) (x : Word) (bad : Bool) : (s.zLatched p x bad).pos p = s.pos p :=
  pos_congr ((onlyBase_zLatched s p x bad).sameRates (s.ptbSt_zLatched p x bad) (by decide)) (by rw [State.zLatched_get]; rfl)

/-- R62, R63: a rise of Z of a running encoder base with Z_EN. -/
theorem zApply_latches (hen : s.bit (PG.ptb p) R.PTB_CTL 10 = true) (hrun : s.ptbRunning p = true) (henc : s.ptbEnc p = true) (ts : Word) :
    ∃ bad, s.zApply p ts =
      if (s.ptb.get p).homeArmed then (s.zLatched p (s.posAgo p (s.dtc - ts).toNat - s.cycleMoved p) bad).homed p
      else s.zLatched p (s.posAgo p (s.dtc - ts).toNat - s.cycleMoved p) bad := by
  have hgo : (!(s.bit (PG.ptb p) R.PTB_CTL 10 && s.ptbRunning p && s.ptbEnc p)) = false := by rw [hen, hrun, henc]; rfl
  unfold State.zApply
  dsimp only
  rw [hgo]
  exact ⟨_, if_neg Bool.false_ne_true⟩

theorem State.cycleMoved_none (h : s.cycleStep p = none) : s.cycleMoved p = 0 := by
  unfold State.cycleMoved
  rw [h]

theorem pos_homed (h : s.cycleStep p = none) : (s.homed p).pos p = s.reg (PG.ptb p) R.PTB_HOME := by
  have hstep : (s.homeDisarmed p).cycleMoved p = 0 := by
    refine State.cycleMoved_none ?_
    rw [State.cycleStep, State.homeDisarmed, State.ptbUpd_get]
    exact h
  rw [State.homed, State.pos_ptbStep, hstep]
  simp

theorem homed_homeArmed (s : State) (p : Fin 8) : ((s.homed p).ptb.get p).homeArmed = false := by
  rw [State.homed, State.ptbStep_get]
  exact (State.settled_homeArmed _ p).trans (by rw [State.homeDisarmed, State.ptbUpd_get])

theorem keepsSnap_homed (s : State) (p : Fin 8) : KeepsSnap s (s.homed p) p :=
  (keepsSnap_ptbUpd (f := fun b => { b with homeArmed := false }) ⟨rfl, rfl⟩ rfl).trans (keepsSnap_ptbStep _ p _ _)

/-- R62: a rise of Z that has passed the filter: what it latches, and whether an armed homing steps. -/
theorem zApply_rise (hrun : s.ptbRunning p = true) (henc : s.ptbEnc p = true) (hcycle : s.cycleStep p = none)
    (hen : s.bit (PG.ptb p) R.PTB_CTL 10 = true) (ts : Word) :
    ∃ u, OnlyBase s u p zRegs ∧ u.ptb.get p = { s.ptb.get p with lz := true, zCnt := some 0 } ∧ u.pos p = s.pos p ∧
      u.reg (PG.ptb p) R.PTB_ZPOS = s.posAgo p (s.dtc - ts).toNat ∧
      (s.ptbUpd p fun b => { b with lz := true }).zApply p ts = if (s.ptb.get p).homeArmed then u.homed p else u := by
  have hget : (s.ptbUpd p fun b => { b with lz := true }).ptb.get p = { s.ptb.get p with lz := true } := State.ptbUpd_get _ _ _
  have hago : (s.ptbUpd p fun b => { b with lz := true }).posAgo p (s.dtc - ts).toNat = s.posAgo p (s.dtc - ts).toNat :=
    posAgo_congr (sameRates_ptbUpd s p _) (by rw [hget]; rfl) _
  have hmoved : (s.ptbUpd p fun b => { b with lz := true }).cycleMoved p = 0 := by
    refine State.cycleMoved_none ?_
    rw [State.cycleStep, hget]
    exact hcycle
  obtain ⟨bad, hz⟩ := zApply_latches (s := s.ptbUpd p fun b => { b with lz := true }) hen hrun henc ts
  refine ⟨_, (onlyBase_ptbUpd (onlyBase_refl s p _) _).trans (onlyBase_zLatched _ p _ bad), ?_, ?_, ?_, hz.trans (by rw [hget])⟩
  · rw [State.zLatched_get, hget]
  · rw [State.pos_zLatched, pos_ptbUpd rfl]
  · rw [State.reg_zLatched, hmoved, ← hago]
    exact BitVec.sub_zero _

/-! ### The bases that decode an input (R51) -/

theorem encBase_congr {t : State} {q : Fin 8} (e : Fin 8) (hoff : t.off = s.off)
    (hreg : ∀ o, o < 0x10000 → t.reg (PG.ptb q) o = s.reg (PG.ptb q) o) : t.encBase e q = s.encBase e q := by
  have hrun : t.ptbRunning q = s.ptbRunning q := congrArg (bf · 0 2 != 0) (hreg R.PTB_STS (by decide))
  have hsrc : t.ptbSrc q = s.ptbSrc q := congrArg (bf · 0 3) (hreg R.PTB_CTL (by decide))
  have hinput : t.fld (PG.ptb q) R.PTB_CTL 4 3 = s.fld (PG.ptb q) R.PTB_CTL 4 3 := congrArg (bf · 4 3) (hreg R.PTB_CTL (by decide))
  rw [State.encBase, State.isOff, hoff, hrun, State.ptbEnc, hsrc, hinput, State.encBase, State.isOff, State.ptbEnc]

theorem ptbPage_ne {q : Fin 8} (h : q ≠ p) : PG.ptb q ≠ PG.ptb p := by
  intro e
  unfold PG.ptb at e
  exact h (Fin.ext (by omega))

theorem OnlyBase.encBase {t : State} {l : List Nat} (h : OnlyBase s t p l) (e : Fin 8) {q : Fin 8} (hq : q ≠ p) :
    t.encBase e q = s.encBase e q :=
  encBase_congr e (by rw [h.rest]) fun o ho => h.kept _ o ho (.inl (ptbPage_ne hq))

theorem encBase_homed (s : State) (e : Fin 8) {q : Fin 8} (hq : q ≠ p) : (s.homed p).encBase e q = s.encBase e q := by
  refine encBase_congr e ?_ fun o ho => State.reg_ptbStep _ p _ _ ho (.inl hq)
  rw [State.homed, (timeKept_ptbStep _ p _ _).off, (onlyBase_ptbMoved _ p _).rest]
  rfl

/-! ### A sample (R57, R62) -/

/-- What a sample of the input `x` does to a base that decodes it. -/
def State.encAct (s : State) (p : Fin 8) (x : EncInput) : State := (s.encTake p x 2).zTake p x

/-- A sample of an input that one base decodes is what it does to that base. -/
theorem encSample_single {e : Fin 8} (hp : s.encBase e p = true) (hothers : ∀ q, q ≠ p → s.encBase e q = false)
    (hs : (s.ptb.get p).snapAt ≠ some s.dtc) (hk : KeepsSnap s (s.encAct p (s.enc.get e)) p)
    (hafter : ∀ q, q ≠ p → (s.encAct p (s.enc.get e)).encBase e q = s.encBase e q) (a b z : Bool) :
    s.encSample e a b z = { s.encAct p (s.enc.get e) with
      enc := (s.encAct p (s.enc.get e)).enc.set e ((s.enc.get e).sample s.dtc a b z) } := by
  unfold State.encSample
  dsimp only
  rw [foldl_finRange_single (p := p) (b := s.encAct p (s.enc.get e)), hk.1]
  · rw [if_pos hp]
    exact State.ptbCycle_fresh hs hk
  · intro q hq
    rw [hothers q hq]
    rfl
  · intro q hq
    rw [hafter q hq, hothers q hq]
    rfl

/-- Where it leaves all but the base's record and registers and the items, the answer is that and the sampled levels. -/
theorem encSample_ends {e : Fin 8} {v : State} {l : List Sched} {r : List Nat} (hp : s.encBase e p = true)
    (hothers : ∀ q, q ≠ p → s.encBase e q = false) (hs : (s.ptb.get p).snapAt ≠ some s.dtc) (hv : OnlyBase s v p r)
    (hsnap : (v.ptb.get p).snapAt = (s.ptb.get p).snapAt) (hact : s.encAct p (s.enc.get e) = { v with sched := l }) (a b z : Bool) :
    s.ends (s.encSample e a b z) =
      .next { v with sched := l, enc := s.enc.set e ((s.enc.get e).sample s.dtc a b z) } := by
  have hk : KeepsSnap s (s.encAct p (s.enc.get e)) p := by
    rw [hact]
    exact ⟨hv.dtc, hsnap⟩
  rw [encSample_single hp hothers hs hk, hact, hv.rest]
  · exact State.ends_of rfl rfl
  · intro q hq
    rw [hact]
    exact hv.encBase e hq

/-! ### What a sample takes of the levels before it -/

/-- A first change of A or B; what is left of the levels waits under the filter that PTB_CTL now asks for. -/
theorem encAct_edge {x : EncInput} {a b up : Bool} {ts : Word} (hrun : s.ptbRunning p = true) (henc : s.ptbEnc p = true)
    (htake : s.encTake p x 2 = (s.encApply p a b ts).encTake p x 1)
    (hone : ((s.ptb.get p).la ≠ a ∧ (s.ptb.get p).lb = b) ∨ ((s.ptb.get p).la = a ∧ (s.ptb.get p).lb ≠ b))
    (hup : (quadUp (s.ptb.get p).la a b != bitAt (s.reg (PG.ptb p) R.PTB_CTL) 7) = up)
    (ha : levelDue x.a x.aAt a s.dtc (s.fld (PG.ptb p) R.PTB_CTL 16 3 + 1) = none)
    (hb : levelDue x.b x.bAt b s.dtc (s.fld (PG.ptb p) R.PTB_CTL 16 3 + 1) = none)
    (hz : levelDue x.z x.zAt (s.ptb.get p).lz s.dtc (s.fld (PG.ptb p) R.PTB_CTL 16 3 + 1) = none) :
    ∃ l, s.encAct p x = { s.edgeShown p up ((s.ptb.get p).counted a b up ts (s.reg (PG.ptb p) R.PTB_CTL)) with sched := l } := by
  obtain ⟨l, happly⟩ := encApply_edge hrun henc hone ts hup
  have hdtc := (onlyBase_edgeShown s p up ((s.ptb.get p).counted a b up ts (s.reg (PG.ptb p) R.PTB_CTL))).dtc
  have hget := s.edgeShown_get p up ((s.ptb.get p).counted a b up ts (s.reg (PG.ptb p) R.PTB_CTL))
  refine ⟨l, ?_⟩
  rw [State.encAct, htake, happly, encTake_none, zTake_none]
  all_goals dsimp only; rw [hdtc, hget]; assumption

/-- Of nothing that has passed, nothing is taken. -/
theorem encAct_none {x : EncInput} (ha : levelDue x.a x.aAt (s.ptb.get p).la s.dtc ((s.ptb.get p).encFilt + 1) = none)
    (hb : levelDue x.b x.bAt (s.ptb.get p).lb s.dtc ((s.ptb.get p).encFilt + 1) = none) :
    s.encAct p x = s.zTake p x := by
  rw [State.encAct, encTake_none ha hb]

theorem encAct_both {x : EncInput} {ts : Word} (hrun : s.ptbRunning p = true) (henc : s.ptbEnc p = true)
    (hane : x.a ≠ (s.ptb.get p).la) (hbne : x.b ≠ (s.ptb.get p).lb)
    (ha : levelDue x.a x.aAt (s.ptb.get p).la s.dtc ((s.ptb.get p).encFilt + 1) = some ts)
    (hb : levelDue x.b x.bAt (s.ptb.get p).lb s.dtc ((s.ptb.get p).encFilt + 1) = some ts)
    (hz : levelDue x.z x.zAt (s.ptb.get p).lz s.dtc ((s.ptb.get p).encFilt + 1) = none) :
    s.encAct p x = s.encIllegal p x.a x.b := by
  have hget := s.encIllegal_get p x.a x.b
  have hdtc := (onlyBase_encIllegal s p x.a x.b).dtc
  rw [State.encAct, encTake_both ha hb, encApply_both hrun henc hane.symm hbne.symm, encTake_none, zTake_none]
  · rw [hdtc, hget]
    exact hz
  · rw [hdtc, hget]
    exact levelDue_waits (m := 0) (.inl rfl) (Nat.zero_le _)
  · rw [hdtc, hget]
    exact levelDue_waits (m := 0) (.inl rfl) (Nat.zero_le _)

/-! ### ENCODER_EDGE and Z_EDGE -/

theorem encBase_runs {e : Fin 8} (h : s.encBase e p = true) : s.ptbRunning p = true ∧ s.ptbEnc p = true := by
  simp only [State.encBase, Bool.and_eq_true] at h
  exact ⟨h.1.1.2, h.1.2⟩

section
variable {e : Fin 8} (hp : s.encBase e p = true) (hothers : ∀ q, q ≠ p → s.encBase e q = false)
  (hs : (s.ptb.get p).snapAt ≠ some s.dtc)
include hp hothers hs

/-- R57, R59: the sample after which an edge of A or B has passed. -/
theorem exec_encoderEdge_counts {la lb up : Bool} {ts : Word}
    (hact : ∃ l, s.encAct p (s.enc.get e) =
      { s.edgeShown p up ((s.ptb.get p).counted la lb up ts (s.reg (PG.ptb p) R.PTB_CTL)) with sched := l }) (a b : Bool) :
    ∃ t, exec (.encoderEdge e a b) s = .next t ∧ (t.ptb.get p).cnt = (s.ptb.get p).cnt + (if up then 1 else -1) ∧
      (t.ptb.get p).la = la ∧ (t.ptb.get p).lb = lb ∧ (t.ptb.get p).pos = (s.ptb.get p).pos ∧ (t.ptb.get p).edges.head? = some ts ∧
      t.bit (PG.ptb p) R.PTB_STS 3 = !up ∧ t.bit (PG.ptb p) R.PTB_STS 2 = false ∧ (∀ q, q ≠ p → t.ptb.get q = s.ptb.get q) ∧
      t = { s with regs := t.regs, ptb := t.ptb, sched := t.sched, enc := t.enc } ∧
      PageKept s t (PG.ptb p) [R.PTB_STS, R.PG_IRQ_RAW] := by
  obtain ⟨l, hact⟩ := hact
  have hbase := onlyBase_edgeShown s p up ((s.ptb.get p).counted la lb up ts (s.reg (PG.ptb p) R.PTB_CTL))
  have hget := s.edgeShown_get p up ((s.ptb.get p).counted la lb up ts (s.reg (PG.ptb p) R.PTB_CTL))
  obtain ⟨hreverse, hstill⟩ := s.edgeShown_sts p up ((s.ptb.get p).counted la lb up ts (s.reg (PG.ptb p) R.PTB_CTL))
  have hends := encSample_ends hp hothers hs hbase (by rw [hget]; rfl) hact a b (s.enc.get e).z
  have hcnt : ((s.ptb.get p).counted la lb up ts (s.reg (PG.ptb p) R.PTB_CTL)).cnt = (s.ptb.get p).cnt + (if up then 1 else -1) := by
    cases up <;> rfl
  have hedges := (s.ptb.get p).counted_edges la lb up ts (s.reg (PG.ptb p) R.PTB_CTL)
  generalize s.edgeShown p up _ = v at hbase hget hreverse hstill hends
  exact ⟨_, hends, (congrArg PtbState.cnt hget).trans hcnt, congrArg PtbState.la hget, congrArg PtbState.lb hget,
    (congrArg PtbState.pos hget).trans rfl, (congrArg (·.edges.head?) hget).trans hedges, hreverse, hstill, hbase.others, by rw [hbase.rest],
    hbase.kept⟩

/-- R58: the sample after which changes of A and B of one sample have passed. -/
theorem exec_encoderEdge_both {la lb : Bool} (hact : s.encAct p (s.enc.get e) = s.encIllegal p la lb) (a b : Bool) :
    ∃ t, exec (.encoderEdge e a b) s = .next t ∧ t.ptb.get p = { s.ptb.get p with la := la, lb := lb } ∧
      t.bit (PG.ptb p) R.PTB_STS 9 = true ∧ t.bit (PG.ptb p) R.PG_IRQ_RAW 9 = true ∧ Counted s t (PG.ptb p) R.PTB_CNT0 0 16 1 ∧
      (∀ q, q ≠ p → t.ptb.get q = s.ptb.get q) ∧ t = { s with regs := t.regs, ptb := t.ptb, enc := t.enc } ∧
      PageKept s t (PG.ptb p) [R.PTB_STS, R.PG_IRQ_RAW, R.PTB_CNT0] := by
  have hbase := onlyBase_encIllegal s p la lb
  have hget := s.encIllegal_get p la lb
  obtain ⟨hsts, hraw, hcnt⟩ := encIllegal_shows s p la lb
  generalize s.encIllegal p la lb = v at hact hbase hget hsts hraw hcnt
  have hends := encSample_ends (l := s.sched) hp hothers hs hbase (by rw [hget]) (by rw [hact, hbase.rest]) a b (s.enc.get e).z
  exact ⟨_, hends, hget, hsts, hraw, hcnt, hbase.others, by rw [hbase.rest], hbase.kept⟩

/-- R57: a sample after which nothing has passed only stands in the input. -/
theorem exec_encoderEdge_waits (hact : s.encAct p (s.enc.get e) = s) (a b : Bool) :
    ∃ t, exec (.encoderEdge e a b) s = .next t ∧ t = { s with enc := t.enc } ∧ (∀ f, f ≠ e → t.enc.get f = s.enc.get f) ∧
      t.enc.get e = { s.enc.get e with
        a, b
        aAt := if a = (s.enc.get e).a then (s.enc.get e).aAt else some s.dtc
        bAt := if b = (s.enc.get e).b then (s.enc.get e).bAt else some s.dtc } := by
  refine ⟨_, encSample_ends (l := s.sched) hp hothers hs (onlyBase_refl s p []) rfl hact a b (s.enc.get e).z, rfl,
    fun f hf => vupd_get_ne s.enc (fun _ => _) hf, (vupd_get_self s.enc e fun _ => _).trans ?_⟩
  simp [EncInput.sample]

/-- R62: the sample after which a fall of Z has passed. -/
theorem exec_zEdge_falls (hact : s.encAct p (s.enc.get e) = s.ptbUpd p fun b => { b with lz := false }) (z : Bool) :
    ∃ t, exec (.zEdge ⟨e, z⟩) s = .next t ∧ t.ptb.get p = { s.ptb.get p with lz := false } ∧
      (∀ q, q ≠ p → t.ptb.get q = s.ptb.get q) ∧ t = { s with ptb := t.ptb, enc := t.enc } := by
  have hbase := onlyBase_ptbUpd (onlyBase_refl s p []) fun b => { b with lz := false }
  exact ⟨_, encSample_ends (l := s.sched) hp hothers hs hbase (by rw [State.ptbUpd_get]) hact (s.enc.get e).a (s.enc.get e).b z,
    State.ptbUpd_get _ _ _, hbase.others, rfl⟩

/-- R62: the sample after which a rise of Z has passed. -/
theorem exec_zEdge_rises (hcycle : s.cycleStep p = none) (hen : s.bit (PG.ptb p) R.PTB_CTL 10 = true) {ts : Word}
    (hact : s.encAct p (s.enc.get e) = (s.ptbUpd p fun b => { b with lz := true }).zApply p ts) (z : Bool) :
    ∃ t, exec (.zEdge ⟨e, z⟩) s = .next t ∧ t.reg (PG.ptb p) R.PTB_ZPOS = s.posAgo p (s.dtc - ts).toNat ∧ (t.enc.get e).z = z ∧
      ((s.ptb.get p).homeArmed = false → t.pos p = s.pos p ∧ (∀ q, q ≠ p → t.ptb.get q = s.ptb.get q) ∧
        t = { s with regs := t.regs, ptb := t.ptb, enc := t.enc }) ∧
      ((s.ptb.get p).homeArmed = true → t.pos p = s.reg (PG.ptb p) R.PTB_HOME ∧ (t.ptb.get p).homeArmed = false) := by
  obtain ⟨hrun, henc⟩ := encBase_runs hp
  obtain ⟨u, hbase, hget, hpos, hzpos, hz⟩ := zApply_rise hrun henc hcycle hen ts
  rw [hz] at hact
  cases harmed : (s.ptb.get p).homeArmed with
  | false =>
    rw [if_neg (by simp [harmed])] at hact
    have hends := encSample_ends (l := s.sched) hp hothers hs hbase (by rw [hget]) (by rw [hact, hbase.rest])
      (s.enc.get e).a (s.enc.get e).b z
    refine ⟨_, hends, hzpos, congrArg EncInput.z (vupd_get_self s.enc e fun _ => _),
      fun _ => ⟨hpos, hbase.others, by rw [hbase.rest]⟩, ?_⟩
    intro h
    cases h
  | true =>
    rw [if_pos harmed] at hact
    have hk : KeepsSnap s (s.encAct p (s.enc.get e)) p := by
      rw [hact]
      exact KeepsSnap.trans ⟨hbase.dtc, by rw [hget]⟩ (keepsSnap_homed u p)
    have hafter : ∀ q, q ≠ p → (s.encAct p (s.enc.get e)).encBase e q = s.encBase e q := by
      intro q hq
      rw [hact, encBase_homed u e hq, hbase.encBase e hq]
    have hstep : u.cycleStep p = none := by
      rw [State.cycleStep, hget, hbase.dtc]
      exact hcycle
    have hhome : u.reg (PG.ptb p) R.PTB_HOME = s.reg (PG.ptb p) R.PTB_HOME := hbase.reg (by decide) (by decide)
    rw [exec_zEdge, execZEdge, encSample_single hp hothers hs hk hafter, hact, State.ends_eq]
    refine ⟨_, rfl, ?_, congrArg EncInput.z (vupd_get_self _ e fun _ => _), ?_, fun _ => ⟨?_, homed_homeArmed u p⟩⟩
    · exact (State.reg_ptbStep _ p _ _ (by decide) (.inr (by decide))).trans hzpos
    · intro h
      cases h
    · exact (pos_homed hstep).trans hhome

end

/-- Settles O4: by what the sample finds to have passed: an edge of A or B, both at once, nothing, or a change of Z. -/
theorem encoderAndZEdges : Obligations.EncoderAndZEdges := by
  intro e p s hp hothers hfresh b x passed waitsBy waits waits'
  obtain ⟨hs, hcycle⟩ := hfresh
  obtain ⟨hrun, henc⟩ := encBase_runs hp
  have hpassed : ∀ {level mine : Bool} {since : Option Word} {ts : Word}, level ≠ mine → passed since ts →
      levelDue level since mine s.dtc (b.encFilt + 1) = some ts :=
    fun hne h => levelDue_passed hne h.1 h.2
  have hwaits : ∀ {level mine : Bool} {since : Option Word}, waits level since mine →
      levelDue level since mine s.dtc (b.encFilt + 1) = none :=
    fun h => levelDue_waits h le_rfl
  have hold : ∀ {level mine : Bool} {since : Option Word}, waits' level since mine →
      levelDue level since mine s.dtc (b.encFilt + 1) = none :=
    fun h => levelDue_waits h (Nat.min_le_left _ _)
  have hnew : ∀ {level mine : Bool} {since : Option Word}, waits' level since mine →
      levelDue level since mine s.dtc (s.fld (PG.ptb p) R.PTB_CTL 16 3 + 1) = none :=
    fun h => levelDue_waits h (Nat.min_le_right _ _)
  have hstands : ∀ (level : Bool) (since : Option Word), waits' level since level := fun _ _ => .inl rfl
  refine ⟨fun a' b' ts hz hone => ?_, fun a' b' ts hz ha hb hat hbt => ?_,
    fun ha hb => ⟨fun hz a' b' => ?_, fun z' ts hz hzt => ?_⟩⟩
  · rcases hone with hone | hone
    · rw [decide_eq_true hone]
      obtain ⟨hne, hpass, hwait⟩ := hone
      refine exec_encoderEdge_counts hp hothers hs (encAct_edge hrun henc (encTake_a (hpassed hne hpass) (hold hwait) 1)
        (.inl ⟨hne.symm, rfl⟩) ?_ (hnew (hstands _ _)) (hnew hwait) (hnew hz)) a' b'
      rw [quadUp_of_a hne, Bool.bne_eq_xor]
      rfl
    · have hother : ¬ (x.a ≠ b.la ∧ passed x.aAt ts ∧ waits' x.b x.bAt b.lb) := by
        rintro ⟨-, -, hwait⟩
        have hcontra := (hold hwait).symm.trans (hpassed hone.1 hone.2.1)
        cases hcontra
      rw [decide_eq_false hother]
      obtain ⟨hne, hpass, hwait⟩ := hone
      refine exec_encoderEdge_counts hp hothers hs (encAct_edge hrun henc (encTake_b (hold hwait) (hpassed hne hpass) 1)
        (.inr ⟨rfl, hne.symm⟩) ?_ (hnew hwait) (hnew (hstands _ _)) (hnew hz)) a' b'
      rw [quadUp_of_b, Bool.bne_eq_xor]
      rfl
  · exact exec_encoderEdge_both hp hothers hs (encAct_both hrun henc ha hb (hpassed ha hat) (hpassed hb hbt) (hwaits hz)) a' b'
  · exact exec_encoderEdge_waits hp hothers hs ((encAct_none (hwaits ha) (hwaits hb)).trans (zTake_none (hwaits hz))) a' b'
  · have hact : s.encAct p x = _ := (encAct_none (hwaits ha) (hwaits hb)).trans (zTake_some (hpassed hz hzt))
    refine ⟨fun hlow => ?_, fun hhigh hen => ?_⟩
    · rw [hlow] at hact
      exact exec_zEdge_falls hp hothers hs hact z'
    · rw [hhigh] at hact
      exact exec_zEdge_rises hp hothers hs hcycle hen hact z'

end

end Sys2Proof.Machine
end

section
/-!
PROOFS. What a block's read or write of memory leaves (R454 to R461): it changes the memory, the free values, the items that met
poison, and registers of the memories' own pages. Every other page and block stands as it was, the time bases among them.
-/

namespace Sys2Proof.Machine

/-- The pages whose registers count and log the errors of the memories (R459, R461). -/
def memoryPage (page : Nat) : Bool := [some PageKind.mem0, some .mem, some .mras, some .shf].contains (pageKind page)

/-- Nothing changes but the memory, the free values, the marks of poisoned items and the registers of the memories' pages. -/
structure OnlyMem (s t : State) : Prop where
  rest : t = { s with regs := t.regs, mem := t.mem, ldg := t.ldg, free := t.free }
  kept : ∀ page off, off < 0x10000 → memoryPage page = false → t.reg page off = s.reg page off

theorem onlyMem_refl (s : State) : OnlyMem s s := ⟨rfl, fun _ _ _ _ => rfl⟩

section
variable {s t u : State}

theorem OnlyMem.trans (h : OnlyMem s t) (k : OnlyMem t u) : OnlyMem s u where
  rest := by rw [k.rest, h.rest]
  kept page o ho hp := (k.kept page o ho hp).trans (h.kept page o ho hp)

theorem onlyMem_mem (h : OnlyMem s t) (m : MemState) : OnlyMem s { t with mem := m } := ⟨by rw [h.rest], h.kept⟩

theorem onlyMem_takeFree (h : OnlyMem s t) : OnlyMem s t.takeFree.2 := ⟨by rw [h.rest]; rfl, h.kept⟩

theorem onlyMem_poisonItems (h : OnlyMem s t) (l : List Nat) : OnlyMem s (t.poisonItems l) := ⟨by rw [h.rest]; rfl, h.kept⟩

theorem onlyMem_setReg (h : OnlyMem s t) {page o : Nat} (hp : memoryPage page = true) (ho : o < 0x10000) (v : Word) :
    OnlyMem s (t.setReg page o v) := by
  refine h.trans ⟨rfl, fun q r hr hq => State.reg_setReg_ne _ _ (rkey_ne ho hr (.inl ?_))⟩
  rintro rfl
  rw [hp] at hq
  cases hq

/-! ### Counts and logs of errors (R459, R461) -/

theorem memoryPage_mem (a : Nat) : memoryPage (memPage (pcOf a)) = true := by
  have hpages : ∀ c : Fin 16, memoryPage (PG.mem c) = true := by decide
  have hpc : pcOf a < 2 ^ 5 :=
    Nat.xor_lt_two_pow (Nat.mod_lt _ (Nat.two_pow_pos 5)) (Nat.mod_lt _ (Nat.two_pow_pos 5))
  exact hpages ⟨pcOf a / 2, by omega⟩

theorem memoryPage_shf {k : Nat} (h : k < 6) : memoryPage (PG.shf k) = true := by
  have hpages : ∀ k : Fin 6, memoryPage (PG.shf k) = true := by decide
  exact hpages ⟨k, h⟩

theorem onlyMem_bucketLeaks (h : OnlyMem s t) (b : Fin 39) (ms n : Nat) : OnlyMem s (t.bucketLeaks b ms n) :=
  onlyMem_setReg (onlyMem_mem h _) (by decide) (BKT_STS_lt b) _

theorem onlyMem_bucketAdd (h : OnlyMem s t) (b : Fin 39) : OnlyMem s (t.bucketAdd b) := by
  have hmras : ∀ {v : State}, OnlyMem s v → ∀ {o}, o < 0x10000 → ∀ x, OnlyMem s (v.setReg PG.mras o x) :=
    fun h _ ho x => onlyMem_setReg h (by decide) ho x
  have hsts := BKT_STS_lt b
  unfold State.bucketAdd
  dsimp only
  split
  · exact h
  · have hleak := onlyMem_bucketLeaks h b (t.fld PG.mras (R.BKT_CFG b) 16 16) (t.bucketDue b (t.fld PG.mras (R.BKT_CFG b) 16 16))
    split
    · exact hmras (hmras (hmras (hmras (hmras hleak hsts _) hsts _) hsts _) (by decide) _) (by decide) _
    · exact hmras hleak hsts _

/-- R459: the cause of an error, and that of a write that met it. -/
theorem onlyMem_errIrq (h : OnlyMem s t) {page : Nat} (hp : memoryPage page = true) (i : Nat) (wr : Bool) :
    OnlyMem s (if wr then (t.irq page i).irq page 2 else t.irq page i) := by
  have hi : OnlyMem s (t.irq page i) := onlyMem_setReg h hp (by decide) _
  split
  · exact onlyMem_setReg hi hp (by decide) _
  · exact hi

theorem onlyMem_hbmErr (h : OnlyMem s t) (a : Nat) (e : WordErr) (wr : Bool) : OnlyMem s (t.hbmErr a e wr) := by
  have hp := memoryPage_mem a
  have hcnt : (if pcOf a % 2 = 0 then R.MEM_PC0_CNT else R.MEM_PC1_CNT) < 0x10000 := by split <;> decide
  have hlog : (if pcOf a % 2 = 0 then R.MEM_PC0_ERR else R.MEM_PC1_ERR) < 0x10000 := by split <;> decide
  unfold State.hbmErr
  cases e with
  | correctable => exact onlyMem_bucketAdd (onlyMem_setReg h hp hcnt _) _
  | uncorrectable => exact onlyMem_errIrq (onlyMem_setReg (onlyMem_setReg h hp hcnt _) hp hlog _) hp 0 wr
  | poison => exact onlyMem_errIrq (onlyMem_setReg (onlyMem_setReg h hp hcnt _) hp hlog _) hp 1 wr

theorem onlyMem_shelfErr (h : OnlyMem s t) {k : Nat} (hk : k < 6) (a : Nat) (e : WordErr) (wr : Bool) :
    OnlyMem s (t.shelfErr k a e wr) := by
  have hp := memoryPage_shf hk
  have hlog : OnlyMem s (t.logInfo1 (PG.shf k) a) :=
    onlyMem_setReg (onlyMem_setReg (onlyMem_setReg h hp (by decide) _) hp (by decide) _) hp (by decide) _
  unfold State.shelfErr
  cases e with
  | correctable => exact onlyMem_bucketAdd h _
  | uncorrectable => exact onlyMem_errIrq hlog hp 0 wr
  | poison => exact onlyMem_errIrq hlog hp 1 wr

theorem onlyMem_wordErr (h : OnlyMem s t) {sh : Option Nat} (hsh : ∀ k, sh = some k → k < 6) (a : Nat) (e : WordErr) (wr : Bool) :
    OnlyMem s (t.wordErr sh a e wr) := by
  cases sh with
  | none => exact onlyMem_hbmErr h a e wr
  | some k => exact onlyMem_shelfErr h (hsh k rfl) a e wr

/-! ### Writes (R458, R459) -/

theorem onlyMem_storeWord (h : OnlyMem s t) (a : Nat) (l : List Byte) (e : Option WordErr) : OnlyMem s (t.storeWord a l e) :=
  onlyMem_mem h _

theorem onlyMem_partialWrite (h : OnlyMem s t) {sh : Option Nat} (hsh : ∀ k, sh = some k → k < 6) (a : Nat)
    (new : List (Nat × Byte)) (items : List Nat) : OnlyMem s (t.partialWrite sh a new items) := by
  have htake := onlyMem_takeFree h
  unfold State.partialWrite
  dsimp only
  split
  · exact onlyMem_storeWord htake _ _ _
  · exact onlyMem_storeWord (onlyMem_wordErr htake hsh _ _ _) _ _ _
  · exact onlyMem_poisonItems (onlyMem_storeWord (onlyMem_wordErr htake hsh _ _ _) _ _ _) _

theorem onlyMem_flushEntry (h : OnlyMem s t) (e : MergeEntry) : OnlyMem s (t.flushEntry e) := by
  have hp := memoryPage_mem e.word
  unfold State.flushEntry
  dsimp only
  split
  · exact h
  · split
    · exact onlyMem_setReg (onlyMem_storeWord h _ _ _) hp (by decide) _
    · exact onlyMem_setReg (onlyMem_partialWrite h (by simp) _ _ _) hp (by decide) _

theorem onlyMem_flushWord (h : OnlyMem s t) (a : Nat) : OnlyMem s (t.flushWord a) := by
  unfold State.flushWord
  dsimp only
  split
  · exact h
  · exact onlyMem_flushEntry (onlyMem_mem h _) _

theorem onlyMem_gather (h : OnlyMem s t) (a : Nat) (new : List (Nat × Byte)) (item : Option Nat) :
    OnlyMem s (t.gather a new item) := by
  have hmerge : ∀ l, OnlyMem s (t.setMerge (pcFin a) l) := fun l => onlyMem_mem h _
  unfold State.gather
  dsimp only
  split
  · split
    · exact onlyMem_flushEntry (hmerge _) _
    · exact hmerge _
  · split
    · split
      · exact onlyMem_flushEntry (hmerge _) _
      · exact hmerge _
    · exact hmerge _

theorem onlyMem_writeWordPart (h : OnlyMem s t) {sh : Option Nat} (hsh : ∀ k, sh = some k → k < 6) (item : Option Nat) (a : Nat)
    (part : List (Nat × Byte)) : OnlyMem s (t.writeWordPart sh item a part) := by
  unfold State.writeWordPart
  split
  · split
    · exact h
    · split
      · exact onlyMem_storeWord (onlyMem_flushWord h a) _ _ _
      · exact onlyMem_gather h _ _ _
  · split
    · exact onlyMem_storeWord h _ _ _
    · exact onlyMem_partialWrite h hsh _ _ _

theorem onlyMem_writeBytes (h : OnlyMem s t) (item : Option Nat) (a : Nat) (l : List Byte) : OnlyMem s (t.writeBytes item a l) := by
  unfold State.writeBytes
  dsimp only
  split
  · exact h
  · exact foldl_keeps (OnlyMem s) _ (fun u p hu => onlyMem_writeWordPart hu (fun k hk => shelfOf_lt hk) _ _ _) _ _ h

/-! ### Reads (R459) -/

theorem onlyMem_readWord (h : OnlyMem s t) {sh : Option Nat} (hsh : ∀ k, sh = some k → k < 6) (a : Nat) :
    OnlyMem s (t.readWord sh a).2 := by
  unfold State.readWord
  cases sh with
  | none =>
    dsimp only
    split
    · exact onlyMem_takeFree h
    · have hread := onlyMem_takeFree (onlyMem_flushWord h a)
      dsimp only
      split
      · exact hread
      · split
        · exact onlyMem_storeWord (onlyMem_hbmErr hread _ _ _) _ _ _
        · exact onlyMem_hbmErr hread _ _ _
      · exact onlyMem_hbmErr hread _ _ _
  | some k =>
    have hread := onlyMem_takeFree h
    have hk := hsh k rfl
    dsimp only
    split
    · exact hread
    · split
      · exact onlyMem_storeWord (onlyMem_shelfErr hread hk _ _ _) _ _ _
      · exact onlyMem_shelfErr hread hk _ _ _
    · exact onlyMem_shelfErr hread hk _ _ _

theorem onlyMem_readWords (h : OnlyMem s t) {sh : Option Nat} (hsh : ∀ k, sh = some k → k < 6) (a n : Nat) :
    OnlyMem s (t.readWords sh a n).2 := by
  induction n generalizing t a with
  | zero => exact h
  | succ n ih => exact ih (onlyMem_readWord h hsh a) _

theorem onlyMem_readBytes (h : OnlyMem s t) (a n : Nat) : OnlyMem s (t.readBytes a n).2 := by
  unfold State.readBytes
  dsimp only
  split
  · exact h
  · exact onlyMem_readWords h (fun k hk => shelfOf_lt hk) _ _

/-! ### What stands beside the memory -/

theorem OnlyMem.net (h : OnlyMem s t) : t.net = s.net := by rw [h.rest]

theorem OnlyMem.fld (h : OnlyMem s t) {page o : Nat} (hp : memoryPage page = false) (ho : o < 0x10000) (lo n : Nat) :
    t.fld page o lo n = s.fld page o lo n := by
  rw [State.fld, h.kept page o ho hp, State.fld]

theorem OnlyMem.bit (h : OnlyMem s t) {page o : Nat} (hp : memoryPage page = false) (ho : o < 0x10000) (i : Nat) :
    t.bit page o i = s.bit page o i := by
  rw [State.bit, h.kept page o ho hp, State.bit]

theorem OnlyMem.alive (h : OnlyMem s t) (page : Nat) : t.alive page = s.alive page := by rw [h.rest]; rfl

end

end Sys2Proof.Machine
end

section
/-!
PROOFS. Ethernet ports (R87 to R112): which register's rule a write of a NET page reaches, and what changes beside the registers when a
port changes.
-/

namespace Sys2Proof.Machine

/-! ### The record of a port -/

@[simp] theorem State.netUpd_get (s : State) (q : Fin 2) (f : NetState → NetState) : (s.netUpd q f).net.get q = f (s.net.get q) :=
  vupd_get_self _ _ _

theorem State.netUpd_get_ne (s : State) {q q' : Fin 2} (f : NetState → NetState) (h : q' ≠ q) :
    (s.netUpd q f).net.get q' = s.net.get q' :=
  vupd_get_ne _ _ h

/-- Of port `q` alone something changes: its record, and of the registers none but the listed ones of its page. -/
structure OnlyPort (s t : State) (q : Fin 2) (l : List Nat) : Prop where
  rest : t = { s with regs := t.regs, net := t.net }
  others : ∀ q', q' ≠ q → t.net.get q' = s.net.get q'
  kept : PageKept s t (PG.net q) l

section
variable {s t : State} {q : Fin 2} {l : List Nat}

theorem onlyPort_refl (s : State) (q : Fin 2) (l : List Nat) : OnlyPort s s q l := ⟨rfl, fun _ _ => rfl, pageKept_refl _ _ _⟩

theorem onlyPort_setReg (h : OnlyPort s t q l) {o : Nat} (ho : o < 0x10000) (hl : o ∈ l) (v : Word) :
    OnlyPort s (t.setReg (PG.net q) o v) q l where
  rest := by rw [h.rest]; rfl
  others := h.others
  kept := pageKept_setReg h.kept ho hl v

theorem onlyPort_netUpd (h : OnlyPort s t q l) (f : NetState → NetState) : OnlyPort s (t.netUpd q f) q l where
  rest := by rw [h.rest]; rfl
  others q' hq := (State.netUpd_get_ne t f hq).trans (h.others q' hq)
  kept := h.kept

/-- What it leaves of the state is the answer itself. -/
theorem OnlyPort.ends (h : OnlyPort s t q l) : s.ends t = .next t :=
  State.ends_of (by rw [h.rest]) (by rw [h.rest])

theorem OnlyPort.reg (h : OnlyPort s t q l) {o : Nat} (ho : o < 0x10000) (hl : o ∉ l) :
    t.reg (PG.net q) o = s.reg (PG.net q) o :=
  h.kept _ o ho (.inr hl)

/-! ### Fields of numbers -/

theorem bf_wOfNat_low {x n : Nat} (hn : n ≤ 64) (h : x < 2 ^ n) : bf (wOfNat x) 0 n = x := by
  have h64 : x < 2 ^ 64 := h.trans_le (Nat.pow_le_pow_right (by decide) hn)
  rw [bf_eq, wOfNat, BitVec.toNat_ofNat, Nat.mod_eq_of_lt h64, Nat.pow_zero, Nat.div_one, Nat.mod_eq_of_lt h]

/-- A field of RW bits holds what a 64-bit write gives. -/
theorem bf_applyWr_rw {d : RegDef} {lo n : Nat} (hw1s : d.w1s = 0) (hw1c : d.w1c = 0) (hn : lo + n ≤ 64)
    (hrw : ∀ i, i < n → d.rw.testBit (lo + i) = true) (old : Word) (ini : Initiator) (off : Nat) (v : Word) :
    bf (applyWr d old (.full ini off v)) lo n = bf v lo n := by
  apply Nat.eq_of_testBit_eq
  intro i
  rw [bf_testBit, bf_testBit]
  by_cases hi : i < n
  · have h64 : lo + i < 64 := by omega
    rw [applyWr_getLsbD _ _ _ h64, Wr.full_val, Wr.full_m, BitVec.getLsbD_allOnes, hw1s, hw1c]
    simp [hrw i hi, h64]
  · simp [hi]

theorem testBit_of_nfld_zero {x lo n : Nat} (h : nfld x lo n = 0) {i : Nat} (hi : i < n) : x.testBit (lo + i) = false := by
  have hbit : (nfld x lo n).testBit i = false := by rw [h, Nat.zero_testBit]
  rw [nfld, Nat.testBit_mod_two_pow, Nat.testBit_shiftRight] at hbit
  simpa [hi] using hbit

/-! ### Which rule a write reaches -/

theorem State.netWr_writable (hw : Writable s (PG.net q)) (ini : Initiator) (off : Nat) (v : Word) :
    s.netWr ini q off v = s.netWrite q (.full ini off v) :=
  State.gate_writable hw _ _

theorem State.netWrite_ctl {w : Wr} (h : w.reg = R.NET_CTL) : s.netWrite q w = s.netCtlWrite q w := if_pos h

theorem State.netWrite_pop {w : Wr} (h : w.reg = R.NET_TXTS_POP) : s.netWrite q w = s.txtsPop q :=
  (if_neg (by rw [h]; decide)).trans (if_pos h)

theorem State.netWrite_pps {w : Wr} (h : w.reg = R.NET_PPS_CTL) : s.netWrite 0 w = s.ppsCtlWrite w :=
  (if_neg (by rw [h]; decide)).trans ((if_neg (by rw [h]; decide)).trans (if_pos ⟨rfl, h⟩))

/-- From offset 0x1000 on stand the rings and the streams, none of them a register of the port. -/
theorem State.netWrite_beyond {w : Wr} (h : 0x1000 ≤ w.reg) : s.netWrite q w =
    if 0x1000 ≤ w.reg ∧ w.reg < 0x1080 ∧ w.reg % 0x20 = 0x18 then s.netTailWrite q ((w.reg - 0x1000) / 0x20) w
    else if hr : 0x2000 ≤ w.reg ∧ w.reg < 0x2800 then s.streamRegWrite q ⟨(w.reg - 0x2000) / 0x80, by omega⟩ w
    else s.plainWrite (PG.net q) w := by
  have hport : ∀ o, o < 0x1000 → w.reg ≠ o := by omega
  exact (if_neg (hport _ (by decide))).trans ((if_neg (hport _ (by decide))).trans
    ((if_neg fun hp => hport _ (by decide) hp.2).trans (if_neg fun hp => hport _ (by decide) hp.2)))

theorem State.netWrite_tail {w : Wr} {i : Fin 4} (h : w.reg = R.NET_RING_TAIL i) : s.netWrite q w = s.netTailWrite q i w := by
  have hi := i.isLt
  have hreg : w.reg = 0x1018 + 0x20 * i.val := h
  rw [State.netWrite_beyond (by omega), if_pos (by omega)]
  congr 1
  omega

theorem State.netWrite_stream {w : Wr} {st : Fin 16} (h : w.reg = R.STR_CTL st) : s.netWrite q w = s.streamCtlWrite q st w := by
  have hst := st.isLt
  have hreg : w.reg = 0x2000 + 0x80 * st.val := h
  have hin : 0x2000 ≤ w.reg ∧ w.reg < 0x2800 := by omega
  have hidx : (⟨(w.reg - 0x2000) / 0x80, by omega⟩ : Fin 16) = st := Fin.ext (by show (w.reg - 0x2000) / 0x80 = st.val; omega)
  rw [State.netWrite_beyond (by omega), if_neg (by omega), dif_pos hin, hidx]
  exact if_pos h

theorem NET_RING_TAIL_full_reg (i : Fin 4) (ini : Initiator) (v : Word) :
    (Wr.full ini (R.NET_RING_TAIL i) v).reg = R.NET_RING_TAIL i := by
  rw [Wr.full_reg]
  unfold R.NET_RING_TAIL
  omega

theorem STR_CTL_full_reg (st : Fin 16) (ini : Initiator) (v : Word) : (Wr.full ini (R.STR_CTL st) v).reg = R.STR_CTL st := by
  rw [Wr.full_reg]
  unfold R.STR_CTL
  omega

/-! ### Registers of the page -/

theorem NET_RING_TAIL_lt (i : Fin 4) : R.NET_RING_TAIL i < 0x10000 := by
  have := i.isLt
  unfold R.NET_RING_TAIL
  omega

theorem memoryPage_net : ∀ q : Fin 2, memoryPage (PG.net q) = false := by decide

theorem alive_of_writable {page : Nat} (hw : Writable s page) : s.alive page = true := by
  obtain ⟨hon, hreset, -⟩ := hw
  simp [State.alive, hon, hreset]

end

end Sys2Proof.Machine
end

section
/-!
PROOFS. Frames and host rings (R88, R91, R92, R97): which frames are only counted, what a delivery and a transmission leave in a ring,
writes of TAIL, and the pop of a timestamp.
-/

namespace Sys2Proof.Machine

section
variable {s t : State} {q : Fin 2}

/-! ### The HEAD of a ring (R91) -/

theorem State.fld_ringAdvance (s : State) (q : Fin 2) (i k : Nat) :
    (s.ringAdvance q i k).fld (PG.net q) (R.NET_RING_HEAD i) 0 32 = (s.fld (PG.net q) (R.NET_RING_HEAD i) 0 32 + k) % 2 ^ 32 := by
  rw [State.fld, State.ringAdvance, State.reg_setReg_self, bf_wOfNat_low (by decide) (Nat.mod_lt _ (Nat.two_pow_pos 32))]

/-! ### Frames that are received (R88, R92) -/

theorem exec_netFrameRx_linked (hw : Writable s (PG.net q)) (hlink : s.netLink q = true) (f : List Byte) (ok : Bool) :
    exec (.netFrameRx q f ok) s = s.ends (s.netRx q f ok) := by
  rw [exec_netFrameRx, execNetFrameRx, hlink, alive_of_writable hw]
  rfl

/-- R88: a frame that is only counted in a field of NET_CNT0. -/
theorem ends_bump_cnt0 (s : State) (q : Fin 2) {lo n : Nat} (hn : lo + n ≤ 64) :
    ∃ t, s.ends (s.bump (PG.net q) R.NET_CNT0 lo n) = .next t ∧ Counted s t (PG.net q) R.NET_CNT0 lo n 1 ∧ OnlyRegs s t ∧
      PageKept s t (PG.net q) [R.NET_CNT0] :=
  ⟨_, State.ends_of rfl rfl, counted_bump rfl hn, rfl, pageKept_setReg (pageKept_refl _ _ _) (by decide) List.mem_cons_self _⟩

theorem State.netRx_badFcs (s : State) (q : Fin 2) (f : List Byte) : s.netRx q f false = s.bump (PG.net q) R.NET_CNT0 0 16 := rfl

theorem State.netRx_wrongLength {f : List Byte} (h : f.length + 4 < 64 ∨ s.maxFrame q < f.length + 4) :
    s.netRx q f true = s.bump (PG.net q) R.NET_CNT0 16 16 := if_pos h

/-- R92: a frame that is neither a PTP message nor a PAUSE frame taken goes to RX1 when it is addressed to the port or a group. -/
theorem State.netRx_toRx1 {f : List Byte} (hmin : 64 ≤ f.length + 4) (hmax : f.length + 4 ≤ s.maxFrame q)
    (hether : (etherAt f).isSome = true) (hpause : s.bit (PG.net q) R.NET_CTL 8 = false ∨ pauseQuanta f = none)
    (hptp : ptpClass f = .other)
    (haddr : frameBe f 0 6 = s.fld (PG.net q) R.NET_MAC_ADDR 0 48 ∨ frameBe f 0 1 % 2 = 1) :
    s.netRx q f true = s.netDeliver q 3 f false 0 := by
  obtain ⟨o, hether⟩ := Option.isSome_iff_exists.mp hether
  have hlen : ¬ (f.length + 4 < 64 ∨ s.maxFrame q < f.length + 4) := by omega
  have hpause' : (if s.bit (PG.net q) R.NET_CTL 8 then pauseQuanta f else none) = none := by
    rcases hpause with h | h <;> simp [h]
  unfold State.netRx
  simp only [hlen, hether, hpause', hptp, if_pos haddr]
  rfl

/-- R92, R95: a frame without a timestamp is written to the slot at HEAD of a ring that has room: memory takes the completion,
which replaces the one of that slot. -/
theorem State.netDeliver_unstamped {ring : Nat} (hsize : s.fld (PG.net q) (R.NET_RING_SIZE ring) 0 13 ≠ 0)
    (hroom : s.ringPending q ring ≠ 0) (f : List Byte) (msg : Nat) :
    let slot := s.fld (PG.net q) (R.NET_RING_HEAD ring) 0 32 % s.fld (PG.net q) (R.NET_RING_SIZE ring) 0 13
    ∃ u, OnlyMem s u ∧ s.netDeliver q ring f false msg =
      ((u.netUpd q fun n => { n with
          rx := { ring, slot, frame := f, tsValid := false, msgType := msg, dtc := 0, pos := 0 } ::
            n.rx.filter fun o => o.ring != ring || o.slot != slot }).ringAdvance q ring 1).irq (PG.net q) (1 + ring) := by
  intro slot
  refine ⟨_, onlyMem_writeBytes (onlyMem_takeFree (onlyMem_refl s)) none (s.takeFree.2.ringEntry q ring 0 32)
    ((List.range 32).map (Config.freeByte s.takeFree.1)), ?_⟩
  have hslots : max 1 (s.fld (PG.net q) (R.NET_RING_SIZE ring) 0 13) = s.fld (PG.net q) (R.NET_RING_SIZE ring) 0 13 :=
    max_eq_right (Nat.one_le_iff_ne_zero.mpr hsize)
  unfold State.netDeliver
  simp only [Bool.false_and, Bool.false_eq_true, if_false, hslots]
  exact if_neg (not_or.mpr ⟨hsize, hroom⟩)

theorem exec_netFrameRx_delivers (hw : Writable s (PG.net q)) (hlink : s.netLink q = true) {f : List Byte}
    (hrx : s.netRx q f true = s.netDeliver q 3 f false 0) (hsize : s.fld (PG.net q) (R.NET_RING_SIZE 3) 0 13 ≠ 0)
    (hroom : s.ringPending q 3 ≠ 0) :
    ∃ t, exec (.netFrameRx q f true) s = .next t ∧
      (let slot := s.fld (PG.net q) (R.NET_RING_HEAD 3) 0 32 % s.fld (PG.net q) (R.NET_RING_SIZE 3) 0 13
       (t.net.get q).rx = { ring := 3, slot, frame := f, tsValid := false, msgType := 0, dtc := 0, pos := 0 } ::
         (s.net.get q).rx.filter fun o => o.ring != 3 || o.slot != slot) ∧
      t.fld (PG.net q) (R.NET_RING_HEAD 3) 0 32 = (s.fld (PG.net q) (R.NET_RING_HEAD 3) 0 32 + 1) % 2 ^ 32 ∧
      t.bit (PG.net q) R.PG_IRQ_RAW 4 = true ∧ (∀ q', q' ≠ q → t.net.get q' = s.net.get q') := by
  obtain ⟨u, hmem, hdeliver⟩ := State.netDeliver_unstamped hsize hroom f 0
  rw [exec_netFrameRx_linked hw hlink, hrx, hdeliver, State.ends_eq]
  refine ⟨_, rfl, ?_, ?_, State.irq_bit _ _ _ (by decide), fun q' hq => ?_⟩
  · refine (congrArg NetState.rx (State.netUpd_get u q _)).trans ?_
    rw [hmem.net]
  · rw [State.fld_withQueueOf, State.fld, State.irq, State.reg_setBit_off _ (by decide), ← State.fld, State.fld_ringAdvance,
      ← hmem.fld (memoryPage_net q) (by decide) 0 32]
    rfl
  · exact (State.netUpd_get_ne u _ hq).trans (by rw [hmem.net])

/-! ### Frames that are sent (R91) -/

/-- R91: with nothing to hold it back the transmitter takes the frame at the head of TX0 first of all. -/
theorem State.netTx_ring0 (hw : Writable s (PG.net q)) (hlink : s.netLink q = true) (hpause : before s.dtc (s.net.get q).pauseTo = false)
    (hbeat : s.bit PG.rfx R.RFX_STS 4 = false ∨ s.rfx.hbBack = true) (hsize : s.fld (PG.net q) (R.NET_RING_SIZE 0) 0 13 ≠ 0)
    (hroom : s.ringPending q 0 ≠ 0) : s.netTx q = s.netSendRing q 0 := by
  have hidle : (s.bit PG.rfx R.RFX_STS 4 && !s.rfx.hbBack) = false := by rcases hbeat with h | h <;> simp [h]
  have hgo : (!s.netLink q || !s.alive (PG.net q) || before s.dtc (s.net.get q).pauseTo ||
      (s.bit PG.rfx R.RFX_STS 4 && !s.rfx.hbBack)) = false := by rw [hlink, alive_of_writable hw, hpause, hidle]; rfl
  exact (if_neg (by rw [hgo]; decide)).trans (if_pos ⟨hsize, hroom⟩)

/-- R91: a frame that reads clean and asks for neither stamp nor insertion nor cause is sent as it stands. -/
theorem State.netSendRing_plain {i d : Nat} {s1 s2 : State} {r : ReadRes}
    (hd : s.readNat (s.ringEntry q i 0 16) 16 = (d, false, s1)) (hr : s1.readBytes (nfld d 0 64) (nfld d 64 14) = (r, s2))
    (hgood : r.bad = false) (hask : nfld d 78 3 = 0) :
    s.netSendRing q i = (s2.netUpd q fun n => { n with wire := withFcs r.bytes }).ringAdvance q i 1 := by
  have hstamp : d.testBit 78 = false := testBit_of_nfld_zero (i := 0) hask (by decide)
  have hone : d.testBit 79 = false := testBit_of_nfld_zero (i := 1) hask (by decide)
  have hcause : d.testBit 80 = false := testBit_of_nfld_zero (i := 2) hask (by decide)
  unfold State.netSendRing
  simp only [hd, hr, hgood, hstamp, hone, hcause, Bool.false_and, Bool.or_false, Bool.false_eq_true, if_false]
  cases ptpClass r.bytes <;> rfl

/-! ### The commands of the rings -/

theorem exec_netFrameTx_sends (hw : Writable s (PG.net q)) (hlink : s.netLink q = true)
    (hpause : before s.dtc (s.net.get q).pauseTo = false) (hbeat : s.bit PG.rfx R.RFX_STS 4 = false ∨ s.rfx.hbBack = true)
    (hsize : s.fld (PG.net q) (R.NET_RING_SIZE 0) 0 13 ≠ 0) (hroom : s.ringPending q 0 ≠ 0) {d : Nat} {s1 s2 : State} {r : ReadRes}
    (hd : s.readNat (s.ringEntry q 0 0 16) 16 = (d, false, s1)) (hr : s1.readBytes (nfld d 0 64) (nfld d 64 14) = (r, s2))
    (hgood : r.bad = false) (hask : nfld d 78 3 = 0) :
    ∃ t, exec (.netFrameTx q) s = .next t ∧ (t.net.get q).wire = withFcs r.bytes ∧
      t.fld (PG.net q) (R.NET_RING_HEAD 0) 0 32 = (s2.fld (PG.net q) (R.NET_RING_HEAD 0) 0 32 + 1) % 2 ^ 32 := by
  rw [exec_netFrameTx, execNetFrameTx, State.netTx_ring0 hw hlink hpause hbeat hsize hroom, State.netSendRing_plain hd hr hgood hask,
    State.ends_eq]
  exact ⟨_, rfl, congrArg NetState.wire (State.netUpd_get s2 q _), State.fld_ringAdvance _ q 0 1⟩

theorem exec_netTxTail_writable (hw : Writable s (PG.net q)) (ini : Initiator) (i : Fin 4) (v : Word) :
    exec (.netTxTail ini q i v) s = s.ends (s.netTailWrite q i (.full ini (R.NET_RING_TAIL i) v)) := by
  rw [exec_netTxTail, execNetTxTail, State.netWr_writable hw, State.netWrite_tail (NET_RING_TAIL_full_reg i ini v)]

/-- R91: TAIL is a register of 32 RW bits. -/
theorem lookupReg_tail : ∀ (q : Fin 2) (i : Fin 4), lookupReg (PG.net q) (R.NET_RING_TAIL i) =
    some ({ base := 0x1018, n1 := 4, s1 := 0x20, rw := 0xffffffff }, i.val, 0) := by decide

theorem exec_netTxTail_stores (hw : Writable s (PG.net q)) (ini : Initiator) (i : Fin 4) (v : Word)
    (hsize : s.fld (PG.net q) (R.NET_RING_SIZE i) 0 13 ≠ 0) :
    ∃ t, exec (.netTxTail ini q i v) s = .next t ∧ t.fld (PG.net q) (R.NET_RING_TAIL i) 0 32 = bf v 0 32 ∧ OnlyRegs s t ∧
      PageKept s t (PG.net q) [R.NET_RING_TAIL i] := by
  have hstore : s.netTailWrite q i (.full ini (R.NET_RING_TAIL i) v) = s.setReg (PG.net q) (R.NET_RING_TAIL i)
      (applyWr { base := 0x1018, n1 := 4, s1 := 0x20, rw := 0xffffffff } (s.reg (PG.net q) (R.NET_RING_TAIL i))
        (.full ini (R.NET_RING_TAIL i) v)) := by
    rw [State.netTailWrite]
    refine (if_neg hsize).trans ?_
    rw [State.plainWrite, NET_RING_TAIL_full_reg, lookupReg_tail]
  rw [exec_netTxTail_writable hw, hstore]
  refine ⟨_, State.ends_of rfl rfl, ?_, rfl, pageKept_setReg (pageKept_refl _ _ _) (NET_RING_TAIL_lt i) List.mem_cons_self _⟩
  rw [State.fld, State.reg_setReg_self]
  refine bf_applyWr_rw rfl rfl (by decide) (fun j hj => ?_) _ ini _ v
  show (2 ^ 32 - 1).testBit (0 + j) = true
  rw [Nat.zero_add, Nat.testBit_two_pow_sub_one, decide_eq_true hj]

theorem exec_netTxTail_noRing (hw : Writable s (PG.net q)) (ini : Initiator) (i : Fin 4) (v : Word)
    (hsize : s.fld (PG.net q) (R.NET_RING_SIZE i) 0 13 = 0) :
    ∃ t, exec (.netTxTail ini q i v) s = .next t ∧ t.bit (PG.net q) R.NET_STS 3 = true ∧ OnlyRegs s t ∧
      PageKept s t (PG.net q) [R.NET_STS] := by
  have hflag : s.netTailWrite q i (.full ini (R.NET_RING_TAIL i) v) = s.setBit (PG.net q) R.NET_STS 3 true := if_pos hsize
  rw [exec_netTxTail_writable hw, hflag]
  exact ⟨_, State.ends_of rfl rfl, State.bit_setBit_self _ _ _ _ _ (by decide), rfl,
    pageKept_setReg (pageKept_refl _ _ _) (by decide) List.mem_cons_self _⟩

theorem exec_netTxtsPop_pops (hw : Writable s (PG.net q)) (ini : Initiator) :
    ∃ t, exec (.netTxtsPop ini q) s = .next t ∧ (t.net.get q).txts = (s.net.get q).txts.tail ∧
      ((s.net.get q).txts.tail ≠ [] → t.bit (PG.net q) R.PG_IRQ_RAW 1 = true) ∧ t = { s with regs := t.regs, net := t.net } ∧
      PageKept s t (PG.net q) [R.PG_IRQ_RAW] := by
  generalize hu : s.netUpd q (fun n => { n with txts := n.txts.tail }) = u
  have hport : OnlyPort s u q [R.PG_IRQ_RAW] := by
    rw [← hu]
    exact onlyPort_netUpd (onlyPort_refl s q _) _
  have hirq : OnlyPort s (u.irq (PG.net q) 1) q [R.PG_IRQ_RAW] := onlyPort_setReg hport (by decide) (by decide) _
  have htxts : (u.net.get q).txts = (s.net.get q).txts.tail := by rw [← hu, State.netUpd_get]
  have hpop : s.txtsPop q = if (s.net.get q).txts.tail.isEmpty then u else u.irq (PG.net q) 1 := by
    rw [State.txtsPop, hu, ← htxts]
  rw [exec_netTxtsPop, execNetTxtsPop, State.netWr_writable hw, State.netWrite_pop (Wr.full_reg ini R.NET_TXTS_POP 0), hpop]
  cases hrest : (s.net.get q).txts.tail with
  | nil =>
    rw [hrest] at htxts
    exact ⟨u, hport.ends, htxts, fun hne => absurd rfl hne, hport.rest, hport.kept⟩
  | cons x l =>
    rw [hrest] at htxts
    exact ⟨_, hirq.ends, htxts, fun _ => State.irq_bit _ _ _ (by decide), hirq.rest, hirq.kept⟩

/-- Settles O10: reception by the order of the checks of R88, transmission by what holds the transmitter back, TAIL by the SIZE of
its ring. -/
theorem framesAndHostRings : Obligations.FramesAndHostRings := by
  intro q s hw
  refine ⟨fun f ok hlink => ⟨?_, ?_, ?_⟩, fun hlink hpause hbeat hsize hroom d s1 r s2 => ?_, fun ini i v => ?_,
    exec_netTxtsPop_pops hw⟩
  · rintro rfl
    rw [exec_netFrameRx_linked hw hlink, State.netRx_badFcs]
    exact ends_bump_cnt0 s q (by decide)
  · rintro rfl hlen
    rw [exec_netFrameRx_linked hw hlink, State.netRx_wrongLength hlen]
    exact ends_bump_cnt0 s q (by decide)
  · rintro rfl hmin hmax hether hpause hptp haddr
    exact exec_netFrameRx_delivers hw hlink (State.netRx_toRx1 hmin hmax hether hpause hptp haddr)
  · exact exec_netFrameTx_sends hw hlink hpause hbeat hsize hroom
  · exact ⟨exec_netTxTail_stores hw ini i v, exec_netTxTail_noRing hw ini i v⟩

end

end Sys2Proof.Machine
end

section
/-!
PROOFS. Stream contexts (R107, R109 to R111): an enable that is refused or taken, and the bytes of the ring that a datagram takes.
-/

namespace Sys2Proof.Machine

section
variable {s t : State} {q : Fin 2} {st : Fin 16}

/-! ### The enable of a context (R107) -/

/-- The registers of a context lie in the page, beyond those of the port, and apart from each other. -/
theorem strRegs_apart (st : Fin 16) : R.STR_CTL st < 0x10000 ∧ R.STR_SEQ st < 0x10000 ∧ R.STR_CTL st ≠ R.NET_STS ∧
    R.STR_CTL st ≠ R.STR_SEQ st ∧ R.NET_STS ≠ R.STR_SEQ st := by
  have := st.isLt
  unfold R.STR_CTL R.STR_SEQ R.NET_STS
  omega

theorem exec_streamEnable_writable (hw : Writable s (PG.net q)) (ini : Initiator) (v : Word) :
    exec (.streamEnable ini q st v) s = s.ends (s.streamCtlWrite q st (.full ini (R.STR_CTL st) v)) := by
  rw [exec_streamEnable, execStreamEnable, State.netWr_writable hw, State.netWrite_stream (STR_CTL_full_reg st ini v)]

theorem State.streamCtlWrite_refused {w : Wr} (hold : s.bit (PG.net q) (R.STR_CTL st) 0 = false)
    (hnew : bitAt (s.wouldBe (PG.net q) w) 0 = true) (hbad : s.streamBad q st (s.wouldBe (PG.net q) w) = true) :
    s.streamCtlWrite q st w = ((s.setReg (PG.net q) (R.STR_CTL st) (putBit (s.wouldBe (PG.net q) w) 0 false)).setBit (PG.net q)
      R.NET_STS 4 true).setFld (PG.net q) R.NET_STS 8 4 st :=
  (if_neg (Bool.eq_false_iff.mp hold)).trans ((if_pos hnew).trans (if_pos hbad))

theorem State.streamCtlWrite_enables {w : Wr} (hold : s.bit (PG.net q) (R.STR_CTL st) 0 = false)
    (hnew : bitAt (s.wouldBe (PG.net q) w) 0 = true) (hgood : s.streamBad q st (s.wouldBe (PG.net q) w) = false) :
    s.streamCtlWrite q st w = ((s.setReg (PG.net q) (R.STR_CTL st) (s.wouldBe (PG.net q) w)).setReg (PG.net q)
      (R.STR_SEQ st) 0).netUpd q fun n => { n with restart := n.restart.set st true } :=
  (if_neg (Bool.eq_false_iff.mp hold)).trans ((if_pos hnew).trans (if_neg (Bool.eq_false_iff.mp hgood)))

theorem exec_streamEnable_refused (hw : Writable s (PG.net q)) (ini : Initiator) (v : Word) {c : Word}
    (hc : s.wouldBe (PG.net q) (.full ini (R.STR_CTL st) v) = c) (hold : s.bit (PG.net q) (R.STR_CTL st) 0 = false)
    (hnew : bitAt c 0 = true) (hbad : s.streamBad q st c = true) :
    ∃ t, exec (.streamEnable ini q st v) s = .next t ∧ t.bit (PG.net q) (R.STR_CTL st) 0 = false ∧
      t.bit (PG.net q) R.NET_STS 4 = true ∧ t.fld (PG.net q) R.NET_STS 8 4 = st.val ∧ OnlyRegs s t ∧
      PageKept s t (PG.net q) [R.STR_CTL st, R.NET_STS] := by
  subst hc
  obtain ⟨hctl, -, hne, -⟩ := strRegs_apart st
  have hsts : R.NET_STS < 0x10000 := by decide
  rw [exec_streamEnable_writable hw, State.streamCtlWrite_refused hold hnew hbad]
  refine ⟨_, State.ends_of rfl rfl, ?_, ?_, ?_, rfl, ?_⟩
  · rw [State.bit, State.reg_setFld_off _ hne, State.reg_setBit_off _ hne, State.reg_setReg_self, bitAt_putBit_self _ _ _ (by decide)]
  · rw [State.bit_setFld_other _ (by decide), State.bit_setBit_self _ _ _ _ _ (by decide)]
  · exact (State.fld_setFld_self _ _ _ _ _ _ (by decide)).trans (Nat.mod_eq_of_lt st.isLt)
  · exact pageKept_setReg (pageKept_setReg (pageKept_setReg (pageKept_refl _ _ _) hctl (by simp) _) hsts (by simp) _) hsts
      (by simp) _

theorem exec_streamEnable_enables (hw : Writable s (PG.net q)) (ini : Initiator) (v : Word) {c : Word}
    (hc : s.wouldBe (PG.net q) (.full ini (R.STR_CTL st) v) = c) (hold : s.bit (PG.net q) (R.STR_CTL st) 0 = false)
    (hnew : bitAt c 0 = true) (hgood : s.streamBad q st c = false) :
    ∃ t, exec (.streamEnable ini q st v) s = .next t ∧ t.reg (PG.net q) (R.STR_CTL st) = c ∧ t.reg (PG.net q) (R.STR_SEQ st) = 0 ∧
      (t.net.get q).restart.get st = true ∧ t = { s with regs := t.regs, net := t.net } ∧
      PageKept s t (PG.net q) [R.STR_CTL st, R.STR_SEQ st] := by
  subst hc
  obtain ⟨hctl, hseq, -, hne, -⟩ := strRegs_apart st
  rw [exec_streamEnable_writable hw, State.streamCtlWrite_enables hold hnew hgood]
  have hport := onlyPort_netUpd (onlyPort_setReg (onlyPort_setReg (onlyPort_refl s q [R.STR_CTL st, R.STR_SEQ st]) hctl (by simp)
    (s.wouldBe (PG.net q) (.full ini (R.STR_CTL st) v))) hseq (by simp) 0) fun n => { n with restart := n.restart.set st true }
  refine ⟨_, hport.ends, ?_, State.reg_setReg_self _ _ _ _, ?_, hport.rest, hport.kept⟩
  · exact (State.reg_setReg_off _ _ hne).trans (State.reg_setReg_self _ _ _ _)
  · rw [State.netUpd_get]
    simp [Vector.get_eq_getElem]

/-! ### A datagram takes the ring's bytes (R109 to R111) -/

theorem State.streamSend_disabled (h : s.bit (PG.net q) (R.STR_CTL st) 0 = false) (flush : Bool) : s.streamSend q st flush = s :=
  if_pos (by rw [h]; rfl)

theorem State.streamSend_noRing (h : s.streamRing q st = none) (flush : Bool) : s.streamSend q st flush = s := by
  unfold State.streamSend
  rw [h]
  exact ite_self s

/-- R110: ring `k` after its network consumer has moved to `net` and left the marks `left`, and the stream's sequence set to `seq`. -/
def State.streamTaken (s : State) (q : Fin 2) (st : Fin 16) (k : Fin 32) (net : Word) (left : List RecMark) (seq : Nat) : State :=
  ({ s.setReg PG.res (R.RING_NET k) net with res := { s.res with marks := s.res.marks.set k left } } : State).setReg (PG.net q)
    (R.STR_SEQ st) (wOfNat seq)

theorem RING_NET_lt (k : Fin 32) : R.RING_NET k < 0x10000 := by
  have := k.isLt
  unfold R.RING_NET
  omega

/-- The two registers that a datagram moves are those of the ring and of the stream alone. -/
theorem State.reg_streamTaken (s : State) (q : Fin 2) (st : Fin 16) (k : Fin 32) (net : Word) (left : List RecMark) (seq : Nat)
    {page o : Nat} (ho : o < 0x10000) (hring : page ≠ PG.res ∨ o ≠ R.RING_NET k) (hseq : page ≠ PG.net q ∨ o ≠ R.STR_SEQ st) :
    (s.streamTaken q st k net left seq).reg page o = s.reg page o := by
  obtain ⟨-, hstr, -⟩ := strRegs_apart st
  exact (State.reg_setReg_ne _ _ (rkey_ne hstr ho hseq)).trans (State.reg_setReg_ne s _ (rkey_ne (RING_NET_lt k) ho hring))

theorem netPage_ne (q : Fin 2) : PG.net q ≠ PG.res ∧ PG.net q ≠ PG.wth := by
  have := q.isLt
  unfold PG.net PG.res PG.wth
  omega

@[simp] theorem State.net_streamTaken (s : State) (q : Fin 2) (st : Fin 16) (k : Fin 32) (net : Word) (left : List RecMark) (seq : Nat) :
    (s.streamTaken q st k net left seq).net = s.net := rfl

@[simp] theorem State.role_streamTaken (s : State) (q : Fin 2) (st : Fin 16) (k : Fin 32) (net : Word) (left : List RecMark) (seq : Nat) :
    (s.streamTaken q st k net left seq).role = s.role := by
  obtain ⟨-, hwth⟩ := netPage_ne q
  rw [State.role, State.fld, State.reg_streamTaken _ _ _ _ _ _ _ (by decide) (.inl (by decide)) (.inl hwth.symm)]
  rfl

@[simp] theorem State.netLink_streamTaken (s : State) (q : Fin 2) (st : Fin 16) (k : Fin 32) (net : Word) (left : List RecMark)
    (seq : Nat) : (s.streamTaken q st k net left seq).netLink q = s.netLink q := by
  obtain ⟨hres, -⟩ := netPage_ne q
  obtain ⟨-, -, -, -, hsts⟩ := strRegs_apart st
  rw [State.netLink, State.bit, State.reg_streamTaken _ _ _ _ _ _ _ (by decide) (.inl hres) (.inr hsts)]
  rfl

@[simp] theorem State.alive_streamTaken (s : State) (q : Fin 2) (st : Fin 16) (k : Fin 32) (net : Word) (left : List RecMark)
    (seq page : Nat) : (s.streamTaken q st k net left seq).alive page = s.alive page := rfl

theorem OnlyMem.role (h : OnlyMem s t) : t.role = s.role := h.fld (by decide) (by decide) 0 2

theorem OnlyMem.netLink (h : OnlyMem s t) (q : Fin 2) : t.netLink q = s.netLink q := h.bit (memoryPage_net q) (by decide) 0

/-- R110: the next bytes of a ring are read in one piece, or in two around its end. -/
theorem readBytes_aroundRing (s : State) (base size o n : Nat) : ∃ r1 s1 r2 u, s.readBytes (base + o) (min n (size - o)) = (r1, s1) ∧
    (if n ≤ size - o then (({ bytes := [], bad := false } : ReadRes), s1) else s1.readBytes base (n - (size - o))) = (r2, u) ∧
    OnlyMem s u := by
  have hfirst := onlyMem_readBytes (onlyMem_refl s) (base + o) (min n (size - o))
  obtain ⟨r1, s1, h1⟩ : ∃ r1 s1, s.readBytes (base + o) (min n (size - o)) = (r1, s1) := ⟨_, _, rfl⟩
  rw [h1] at hfirst
  by_cases hn : n ≤ size - o
  · exact ⟨r1, s1, _, s1, h1, if_pos hn, hfirst⟩
  · exact ⟨r1, s1, _, _, h1, if_neg hn, onlyMem_readBytes hfirst _ _⟩

/-- R109 to R111: on a single part with the link up and room in the buffer the datagram joins the transmit buffer. -/
theorem State.streamSend_joins {flush : Bool} {k : Fin 32} {n : Nat} (hen : s.bit (PG.net q) (R.STR_CTL st) 0 = true)
    (hring : s.streamRing q st = some k) (htake : s.streamTake k (s.streamSpace q st) flush = some n) (hrole : s.role = 0)
    (hlink : s.netLink q = true) (halive : s.alive (PG.net q) = true)
    (hroom : ((s.net.get q).sendq.map fun d => d.payload.length + 100).sum + n + 100 ≤ 65536) :
    ∃ u d left, OnlyMem s u ∧ d.st = st ∧ d.seq = s.fld (PG.net q) (R.STR_SEQ st) 0 32 ∧ s.streamSend q st flush =
      (u.streamTaken q st k (s.reg PG.res (R.RING_NET k) + wOfNat n) left
        ((s.fld (PG.net q) (R.STR_SEQ st) 0 32 + 1) % 2 ^ 32)).netUpd q
        fun x => { x with sendq := x.sendq ++ [d], restart := x.restart.set st false } := by
  obtain ⟨r1, s1, r2, u, h1, h2, hu⟩ := readBytes_aroundRing s (s.reg PG.res (R.RING_BASE k)).toNat
    (2 ^ s.fld PG.res (R.RING_SIZE k) 0 5)
    ((s.reg PG.res (R.RING_NET k)).toNat % 2 ^ s.fld PG.res (R.RING_SIZE k) 0 5) n
  have hseq : u.fld (PG.net q) (R.STR_SEQ st) 0 32 = s.fld (PG.net q) (R.STR_SEQ st) 0 32 :=
    hu.fld (memoryPage_net q) (strRegs_apart st).2.1 0 32
  have hsingle : ∀ net left seq, ¬ ((u.streamTaken q st k net left seq).role = 1 ∨ (u.streamTaken q st k net left seq).role = 2) := by
    intro net left seq
    rw [State.role_streamTaken, hu.role, hrole]
    decide
  have hjoin : ∀ net left seq, ¬ (!(u.streamTaken q st k net left seq).netLink q ||
      !(u.streamTaken q st k net left seq).alive (PG.net q) ||
      decide (65536 < (((u.streamTaken q st k net left seq).net.get q).sendq.map fun d => d.payload.length + 100).sum + n + 100)) =
      true := by
    intro net left seq
    rw [State.netLink_streamTaken, State.alive_streamTaken, State.net_streamTaken, hu.netLink, hu.alive, hlink, halive, hu.net]
    simpa using hroom
  refine ⟨u, ?joined, ?marks, hu, ?context, ?sequence, ?send⟩
  case send =>
    unfold State.streamSend
    simp only [hen, hring, htake, h1, h2, hseq, Bool.not_true, Bool.false_eq_true, if_false]
    refine (if_neg (hsingle _ _ _)).trans ((if_neg ?room).trans ?_)
    case room => exact hjoin _ _ _
    rfl
  case context => rfl
  case sequence => rfl

/-- What joining the transmit buffer leaves, whichever of the two events closed the datagram. -/
theorem exec_stream_takes {c : Instr} {flush : Bool} (hc : exec c s = s.ends (s.streamSend q st flush)) (hw : Writable s (PG.net q))
    {k : Fin 32} {n : Nat} (hen : s.bit (PG.net q) (R.STR_CTL st) 0 = true) (hring : s.streamRing q st = some k)
    (htake : s.streamTake k (s.streamSpace q st) flush = some n) (hrole : s.role = 0) (hlink : s.netLink q = true)
    (hroom : ((s.net.get q).sendq.map fun d => d.payload.length + 100).sum + n + 100 ≤ 65536) :
    ∃ t d, exec c s = .next t ∧ (t.net.get q).sendq = (s.net.get q).sendq ++ [d] ∧ d.st = st ∧
      d.seq = s.fld (PG.net q) (R.STR_SEQ st) 0 32 ∧ t.reg PG.res (R.RING_NET k) = s.reg PG.res (R.RING_NET k) + wOfNat n ∧
      t.fld (PG.net q) (R.STR_SEQ st) 0 32 = (s.fld (PG.net q) (R.STR_SEQ st) 0 32 + 1) % 2 ^ 32 := by
  obtain ⟨hres, -⟩ := netPage_ne q
  obtain ⟨-, hstr, -⟩ := strRegs_apart st
  obtain ⟨u, d, left, hu, hst, hseq, hsend⟩ := State.streamSend_joins hen hring htake hrole hlink (alive_of_writable hw) hroom
  rw [hc, hsend, State.ends_eq]
  refine ⟨_, d, rfl, ?_, hst, hseq, ?_, ?_⟩
  · exact (congrArg NetState.sendq (State.netUpd_get _ q _)).trans (by rw [← hu.net]; rfl)
  · exact (State.reg_setReg_ne _ _ (rkey_ne hstr (RING_NET_lt k) (.inl hres.symm))).trans (State.reg_setReg_self _ _ _ _)
  · exact (congrArg (bf · 0 32) (State.reg_setReg_self _ _ _ _)).trans
      (bf_wOfNat_low (by decide) (Nat.mod_lt _ (Nat.two_pow_pos 32)))

/-- Settles O11: the enable is judged by the context's parameters, a datagram by the ring that it comes from. -/
theorem streamContexts : Obligations.StreamContexts := by
  intro q st s hw
  refine ⟨fun ini v hold hnew => ⟨exec_streamEnable_refused hw ini v rfl hold hnew, exec_streamEnable_enables hw ini v rfl hold hnew⟩,
    fun hoff => ?_, fun _ hnone => ?_, fun flush k n hdue hen hring htake hrole hlink hroom => ?_⟩
  · rw [exec_streamDatagramSend, execStreamDatagramSend, State.streamSend_disabled hoff, State.ends_self]
  · rw [exec_streamDatagramSend, execStreamDatagramSend, State.streamSend_noRing hnone, State.ends_self]
  · refine exec_stream_takes ?_ hw hen hring htake hrole hlink hroom
    cases flush with
    | false => rfl
    | true => exact congrArg s.ends (if_pos (hdue rfl))

end

end Sys2Proof.Machine
end

section
/-!
PROOFS. The mode and the link of an Ethernet port, and the PPS pins (R89, R90, R93, R99, R103, R104).
-/

namespace Sys2Proof.Machine

section
variable {s t : State} {q : Fin 2} {l : List Nat}

/-! ### The link (R89) -/

theorem onlyPort_netSetLink (h : OnlyPort s t q l) (hsts : R.NET_STS ∈ l) (hraw : R.PG_IRQ_RAW ∈ l) (up : Bool) :
    OnlyPort s (t.netSetLink q up) q l := by
  have hshown : ∀ fec, OnlyPort s ((t.setBit (PG.net q) R.NET_STS 0 up).setBit (PG.net q) R.NET_STS 1 fec) q l := fun fec =>
    onlyPort_setReg (onlyPort_setReg h (by decide) hsts _) (by decide) hsts _
  unfold State.netSetLink
  dsimp only
  split
  · exact onlyPort_setReg (hshown _) (by decide) hraw _
  · exact hshown _

@[simp] theorem State.netLink_netSetLink (s : State) (q : Fin 2) (up : Bool) : (s.netSetLink q up).netLink q = up := by
  have hshown : ∀ fec, ((s.setBit (PG.net q) R.NET_STS 0 up).setBit (PG.net q) R.NET_STS 1 fec).bit (PG.net q) R.NET_STS 0 = up := by
    intro fec
    rw [State.bit_setBit_ne _ (by decide), State.bit_setBit_self _ _ _ _ _ (by decide)]
  unfold State.netSetLink State.netLink
  dsimp only
  split
  · rw [State.bit, State.irq, State.reg_setBit_off _ (by decide), ← State.bit, hshown]
  · exact hshown _

theorem State.netSetLink_raises {up : Bool} (h : s.netLink q ≠ up) : (s.netSetLink q up).bit (PG.net q) R.PG_IRQ_RAW 0 = true := by
  unfold State.netSetLink
  dsimp only
  rw [if_pos (bne_iff_ne.mpr h)]
  exact State.irq_bit _ _ _ (by decide)

theorem exec_netLinkChange_sets (hw : Writable s (PG.net q)) (hmode : s.fld (PG.net q) R.NET_CTL 0 2 ≠ 0) (up : Bool) :
    ∃ t, exec (.netLinkChange q up) s = .next t ∧ t.netLink q = up ∧
      (s.netLink q ≠ up → t.bit (PG.net q) R.PG_IRQ_RAW 0 = true) ∧ OnlyRegs s t ∧
      PageKept s t (PG.net q) [R.NET_STS, R.PG_IRQ_RAW] := by
  obtain ⟨hon, -, hgo⟩ := hw
  have hfree : ¬ (up && (s.stopped (PG.net q) || s.fld (PG.net q) R.NET_CTL 0 2 == 0)) = true := by simp [hgo, hmode]
  have hport : OnlyPort s (s.netSetLink q up) q [R.NET_STS, R.PG_IRQ_RAW] :=
    onlyPort_netSetLink (onlyPort_refl s q _) (by decide) (by decide) up
  have hnet : (s.netSetLink q up).net = s.net := by
    unfold State.netSetLink
    dsimp only
    split <;> simp
  rw [exec_netLinkChange, execNetLinkChange, State.ifOn_powered hon, if_neg hfree]
  refine ⟨_, hport.ends, s.netLink_netSetLink q up, State.netSetLink_raises, ?_, hport.kept⟩
  rw [OnlyRegs, ← hnet]
  exact hport.rest

/-! ### Writes of NET_CTL (R90, R93, R99) -/

theorem onlyPort_txtsEmpty (h : OnlyPort s t q l) : OnlyPort s (t.txtsEmpty q) q l := onlyPort_netUpd h _

@[simp] theorem State.netLink_txtsEmpty (s : State) (q : Fin 2) : (s.txtsEmpty q).netLink q = s.netLink q := rfl

@[simp] theorem State.reg_txtsEmpty (s : State) (q : Fin 2) (page o : Nat) : (s.txtsEmpty q).reg page o = s.reg page o := rfl

theorem State.txtsEmpty_txts (s : State) (q : Fin 2) : ((s.txtsEmpty q).net.get q).txts = [] :=
  congrArg NetState.txts (s.netUpd_get q _)

theorem State.txtsEmpty_mute (s : State) (q i : Fin 2) :
    ((s.txtsEmpty q).net.get q).mute.get i = some (s.fld (PG.net q) (R.NET_RING_TAIL i) 0 32) := by
  refine (congrArg (fun n => n.mute.get i) (s.netUpd_get q _)).trans ?_
  match i with
  | 0 => rfl
  | 1 => rfl

/-- R99: the frames that post no entry are those up to TAIL, which stands where none of the port's own registers does. -/
theorem OnlyPort.txtsEmpty_mute (h : OnlyPort s t q l) (hl : ∀ o ∈ l, o < 0x1000) (i : Fin 2) :
    ((t.txtsEmpty q).net.get q).mute.get i = some (s.fld (PG.net q) (R.NET_RING_TAIL i) 0 32) := by
  have hi := i.isLt
  have htail : t.reg (PG.net q) (R.NET_RING_TAIL i) = s.reg (PG.net q) (R.NET_RING_TAIL i) := by
    refine h.reg (by unfold R.NET_RING_TAIL; omega) fun hin => ?_
    have hlow := hl _ hin
    unfold R.NET_RING_TAIL at hlow
    omega
  rw [State.txtsEmpty_mute, State.fld, htail, State.fld]

/-- R93: NET_TS_LAT is loaded for a mode of the table, and else stands. -/
def State.tsLatLoad (s : State) (q : Fin 2) (mode fec : Nat) : State :=
  match tsLat mode fec with
  | some (tx, rx) => s.setReg (PG.net q) R.NET_TS_LAT (wOfNat (tx + rx <<< 16))
  | none => s

theorem State.reg_tsLatLoad_off (s : State) (q : Fin 2) (mode fec : Nat) {o : Nat} (ho : o ≠ R.NET_TS_LAT) :
    (s.tsLatLoad q mode fec).reg (PG.net q) o = s.reg (PG.net q) o := by
  unfold State.tsLatLoad
  split
  · exact State.reg_setReg_off _ _ ho
  · rfl

theorem State.reg_tsLatLoad (s : State) (q : Fin 2) {mode fec tx rx : Nat} (h : tsLat mode fec = some (tx, rx)) :
    (s.tsLatLoad q mode fec).reg (PG.net q) R.NET_TS_LAT = wOfNat (tx + rx <<< 16) := by
  rw [State.tsLatLoad, h]
  exact State.reg_setReg_self _ _ _ _

theorem onlyPort_tsLatLoad (h : OnlyPort s t q l) (hl : R.NET_TS_LAT ∈ l) (mode fec : Nat) :
    OnlyPort s (t.tsLatLoad q mode fec) q l := by
  unfold State.tsLatLoad
  split
  · exact onlyPort_setReg h (by decide) hl _
  · exact h

/-- R90: MODE and FEC of NET_CTL that are reserved, or that do not go together. -/
def modeRefused (c : Word) : Prop := bf c 0 2 = 3 ∨ bf c 2 2 = 3 ∨ (bf c 0 2 = 1 ∧ bf c 2 2 = 2)

section
variable {w : Wr} {c : Word} (hc : s.wouldBe (PG.net q) w = c)
include hc

theorem State.netCtlWrite_refused (h : modeRefused c) : s.netCtlWrite q w = s.setBit (PG.net q) R.NET_STS 2 true := by
  subst hc
  exact if_pos h

theorem State.netCtlWrite_mode (h : ¬ modeRefused c) (hchange : bf (s.reg (PG.net q) R.NET_CTL) 0 4 ≠ bf c 0 4) :
    s.netCtlWrite q w =
      (((s.setReg (PG.net q) R.NET_CTL c).netSetLink q false).tsLatLoad q (bf c 0 2) (bf c 2 2)).txtsEmpty q := by
  subst hc
  refine (if_neg h).trans ((if_pos (.inl hchange)).trans ?_)
  rw [if_pos hchange]
  rfl

theorem State.netCtlWrite_ptpOff (h : ¬ modeRefused c) (hsame : bf (s.reg (PG.net q) R.NET_CTL) 0 4 = bf c 0 4)
    (hon : bitAt (s.reg (PG.net q) R.NET_CTL) 4 = true) (hoff : bitAt c 4 = false) :
    s.netCtlWrite q w = (s.setReg (PG.net q) R.NET_CTL c).txtsEmpty q := by
  subst hc
  refine (if_neg h).trans ((if_pos (.inr ⟨hon, by rw [hoff]; rfl⟩)).trans ?_)
  rw [if_neg (not_not.mpr hsame)]

end

theorem exec_netModeChange_writable (hw : Writable s (PG.net q)) (ini : Initiator) (v : Word) :
    exec (.netModeChange ini q v) s = s.ends (s.netCtlWrite q (.full ini R.NET_CTL v)) := by
  rw [exec_netModeChange, execNetModeChange, State.netWr_writable hw, State.netWrite_ctl (Wr.full_reg ini R.NET_CTL v)]

theorem exec_netPtpDisable_writable (hw : Writable s (PG.net q)) (ini : Initiator) (v : Word) :
    exec (.netPtpDisable ini q v) s = s.ends (s.netCtlWrite q (.full ini R.NET_CTL v)) :=
  exec_netModeChange_writable hw ini v

section
variable {ini : Initiator} {v c : Word} (hw : Writable s (PG.net q)) (hc : s.wouldBe (PG.net q) (.full ini R.NET_CTL v) = c)
include hw hc

theorem exec_netModeChange_refused (h : modeRefused c) :
    ∃ t, exec (.netModeChange ini q v) s = .next t ∧ t.bit (PG.net q) R.NET_STS 2 = true ∧ OnlyRegs s t ∧
      PageKept s t (PG.net q) [R.NET_STS] := by
  rw [exec_netModeChange_writable hw, State.netCtlWrite_refused hc h]
  exact ⟨_, State.ends_of rfl rfl, State.bit_setBit_self _ _ _ _ _ (by decide), rfl,
    pageKept_setReg (pageKept_refl _ _ _) (by decide) List.mem_cons_self _⟩

theorem exec_netModeChange_changes (h : ¬ modeRefused c) (hchange : bf (s.reg (PG.net q) R.NET_CTL) 0 4 ≠ bf c 0 4) :
    ∃ t, exec (.netModeChange ini q v) s = .next t ∧ t.reg (PG.net q) R.NET_CTL = c ∧ t.netLink q = false ∧
      (t.net.get q).txts = [] ∧ (∀ i : Fin 2, (t.net.get q).mute.get i = some (s.fld (PG.net q) (R.NET_RING_TAIL i) 0 32)) ∧
      (∀ tx rx, tsLat (bf c 0 2) (bf c 2 2) = some (tx, rx) → t.reg (PG.net q) R.NET_TS_LAT = wOfNat (tx + rx <<< 16)) ∧
      t = { s with regs := t.regs, net := t.net } ∧
      PageKept s t (PG.net q) [R.NET_CTL, R.NET_STS, R.NET_TS_LAT, R.PG_IRQ_RAW] := by
  rw [exec_netModeChange_writable hw, State.netCtlWrite_mode hc h hchange]
  have hctl : OnlyPort s (s.setReg (PG.net q) R.NET_CTL c) q [R.NET_CTL, R.NET_STS, R.NET_TS_LAT, R.PG_IRQ_RAW] :=
    onlyPort_setReg (onlyPort_refl s q _) (by decide) (by decide) c
  have hport := onlyPort_tsLatLoad (onlyPort_netSetLink hctl (by decide) (by decide) false) (by decide) (bf c 0 2) (bf c 2 2)
  have hlink := onlyPort_netSetLink (onlyPort_refl (s.setReg (PG.net q) R.NET_CTL c) q [R.NET_STS, R.PG_IRQ_RAW]) (by decide)
    (by decide) false
  refine ⟨_, (onlyPort_txtsEmpty hport).ends, ?_, ?_, State.txtsEmpty_txts _ q, hport.txtsEmpty_mute (by decide),
    fun tx rx hlat => State.reg_tsLatLoad _ q hlat, (onlyPort_txtsEmpty hport).rest, (onlyPort_txtsEmpty hport).kept⟩
  · rw [State.reg_txtsEmpty, State.reg_tsLatLoad_off _ q _ _ (by decide), hlink.reg (by decide) (by decide), State.reg_setReg_self]
  · rw [State.netLink_txtsEmpty, State.netLink, State.bit, State.reg_tsLatLoad_off _ q _ _ (by decide), ← State.bit, ← State.netLink,
      State.netLink_netSetLink]

theorem exec_netPtpDisable_empties (h : ¬ modeRefused c) (hsame : bf (s.reg (PG.net q) R.NET_CTL) 0 4 = bf c 0 4)
    (hon : bitAt (s.reg (PG.net q) R.NET_CTL) 4 = true) (hoff : bitAt c 4 = false) :
    ∃ t, exec (.netPtpDisable ini q v) s = .next t ∧ t.reg (PG.net q) R.NET_CTL = c ∧ (t.net.get q).txts = [] ∧
      (∀ i : Fin 2, (t.net.get q).mute.get i = some (s.fld (PG.net q) (R.NET_RING_TAIL i) 0 32)) ∧
      t = { s with regs := t.regs, net := t.net } ∧ PageKept s t (PG.net q) [R.NET_CTL] := by
  rw [exec_netPtpDisable_writable hw, State.netCtlWrite_ptpOff hc h hsame hon hoff]
  have hport : OnlyPort s (s.setReg (PG.net q) R.NET_CTL c) q [R.NET_CTL] :=
    onlyPort_setReg (onlyPort_refl s q _) (by decide) (by decide) c
  exact ⟨_, (onlyPort_txtsEmpty hport).ends, State.reg_setReg_self _ _ _ _, State.txtsEmpty_txts _ q, hport.txtsEmpty_mute (by decide),
    (onlyPort_txtsEmpty hport).rest, (onlyPort_txtsEmpty hport).kept⟩

end

end

/-! ### The PPS pins (R103, R104) -/

section
variable {s : State}

/-- An item that is added is pending. -/
theorem State.schedGet_schedAdd (s : State) (id : ItemId) (base : Fin 8) (target pos : Word) :
    (s.schedAdd id base target pos).schedGet id = some { id, base, target, behind := before pos target, byStep := false } := by
  have hgone : (s.sched.filter fun i => i.id != id).find? (fun i => i.id == id) = none := by simp [List.find?_eq_none]
  rw [State.schedGet, State.schedAdd, List.find?_append, hgone]
  simp

theorem exec_ppsOutEnable_writable (hw : Writable s (PG.net 0)) (ini : Initiator) (v : Word) :
    exec (.ppsOutEnable ini v) s = s.ends (s.ppsCtlWrite (.full ini R.NET_PPS_CTL v)) := by
  rw [exec_ppsOutEnable, execPpsOutEnable, ← State.netWrite_pps (Wr.full_reg ini R.NET_PPS_CTL v)]
  exact congrArg s.ends (State.netWr_writable hw ini R.NET_PPS_CTL v)

section
variable {ini : Initiator} {v c : Word} (hw : Writable s (PG.net 0)) (hc : s.wouldBe (PG.net 0) (.full ini R.NET_PPS_CTL v) = c)
  (hnew : bitAt c 0 = true)
include hw hc hnew

theorem exec_ppsOutEnable_refused (hold : s.bit (PG.net 0) R.NET_PPS_CTL 0 = false)
    (h : bf c 8 24 = 0 ∨ s.reg (PG.net 0) R.NET_PPS_PERIOD = 0) :
    exec (.ppsOutEnable ini v) s = .next ((s.setReg (PG.net 0) R.NET_PPS_CTL (putBit c 0 false)).logWr (PG.net 0)
      (.full ini R.NET_PPS_CTL v) .refused) := by
  have hold' : bitAt (s.reg (PG.net 0) R.NET_PPS_CTL) 0 = false := hold
  subst hc
  rw [exec_ppsOutEnable_writable hw, State.ppsCtlWrite, if_pos (by simpa [hold', hnew] using h)]
  have honly := onlyRegs_logWr (s.setReg (PG.net 0) R.NET_PPS_CTL
    (putBit (s.wouldBe (PG.net 0) (.full ini R.NET_PPS_CTL v)) 0 false)) (PG.net 0) (.full ini R.NET_PPS_CTL v) .refused
  exact State.ends_of (onlyRegs_read honly State.part fun _ _ => rfl) (onlyRegs_read honly State.pending fun _ _ => rfl)

theorem exec_ppsOutEnable_arms (hwidth : bf c 8 24 ≠ 0) (hperiod : s.reg (PG.net 0) R.NET_PPS_PERIOD ≠ 0) :
    ∃ t, exec (.ppsOutEnable ini v) s = .next t ∧ t.reg (PG.net 0) R.NET_PPS_CTL = c ∧
      (∃ i, t.schedGet .pps = some i ∧ i.base = baseOf (bf c 2 3) ∧ i.target = s.reg (PG.net 0) R.NET_PPS_NEXT) ∧
      t = { s with regs := t.regs, sched := t.sched } ∧ PageKept s t (PG.net 0) [R.NET_PPS_CTL] := by
  generalize hu : s.setReg (PG.net 0) R.NET_PPS_CTL c = u
  have hctl : u.reg (PG.net 0) R.NET_PPS_CTL = c := by rw [← hu, State.reg_setReg_self]
  have hnext : u.reg (PG.net 0) R.NET_PPS_NEXT = s.reg (PG.net 0) R.NET_PPS_NEXT := by
    rw [← hu]
    exact State.reg_setReg_off _ _ (by decide)
  have hbase : u.ppsBase = baseOf (bf c 2 3) := by rw [State.ppsBase, State.fld, hctl]
  have hact : s.ppsCtlWrite (.full ini R.NET_PPS_CTL v) = u.schedAdd .pps u.ppsBase (u.reg (PG.net 0) R.NET_PPS_NEXT)
      (u.pos u.ppsBase) := by
    have hgood : ¬ (!bitAt (s.reg (PG.net 0) R.NET_PPS_CTL) 0 && bitAt c 0 &&
        (decide (bf c 8 24 = 0) || decide (s.reg (PG.net 0) R.NET_PPS_PERIOD = 0))) = true := by
      rw [decide_eq_false hwidth, decide_eq_false hperiod]
      simp
    have harmed : u.bit (PG.net 0) R.NET_PPS_CTL 0 = true := by rw [State.bit, hctl, hnew]
    rw [← hc] at hgood hu
    refine (if_neg hgood).trans ?_
    rw [hu]
    exact if_pos harmed
  rw [exec_ppsOutEnable_writable hw, hact]
  refine ⟨_, State.ends_of (by rw [← hu]; rfl) (by rw [← hu]; rfl), hctl,
    ⟨_, State.schedGet_schedAdd _ _ _ _ _, hbase, hnext⟩, ?_, ?_⟩
  · rw [← hu]
    rfl
  · rw [← hu]
    exact pageKept_of_regs (pageKept_setReg (pageKept_refl _ _ _) (by decide) List.mem_cons_self _) rfl

end

theorem exec_ppsOutPulseEnd_ends (hout : s.pps.out = true) (hdue : atOrAfter s.dtc s.pps.until_ = true) :
    exec .ppsOutPulseEnd s = .next { s with pps := { s.pps with out := false } } := by
  rw [exec_ppsOutPulseEnd, execPpsOutPulseEnd, hout, hdue]
  rfl

theorem exec_ppsOutPulseEnd_waits (h : s.pps.out = false ∨ atOrAfter s.dtc s.pps.until_ = false) :
    exec .ppsOutPulseEnd s = .next s := by
  rw [exec_ppsOutPulseEnd, execPpsOutPulseEnd, if_neg (by rcases h with h | h <;> simp [h]), State.ends_self]

theorem exec_ppsInEdge_disabled (hon : s.isOff (PG.net 0) = false) (hin : s.bit (PG.net 0) R.NET_PPS_CTL 1 = false) :
    exec .ppsInEdge s = .next s := by
  rw [exec_ppsInEdge, execPpsInEdge, State.ifOn_powered hon, State.ppsIn, if_pos (by rw [hin]; rfl), State.ends_self]

theorem counted_irq {t : State} {page off lo n k b : Nat} (h : Counted s t page off lo n k) (hoff : off ≠ R.PG_IRQ_RAW) :
    Counted s (t.irq page b) page off lo n k := by
  rw [Counted, State.fld, State.irq, State.reg_setBit_off _ hoff]
  exact h

/-- R104: what an edge that counts latches and counts. -/
theorem State.ppsIn_latches (hin : s.bit (PG.net 0) R.NET_PPS_CTL 1 = true)
    (hlast : ∀ d, s.pps.inLast = some d → 1000 ≤ (s.dtc - 4 - d).toNat) :
    s.ppsIn = ((((({ s with pps := { s.pps with inLast := some (s.dtc - 4) } } : State).setReg (PG.net 0) R.NET_PPS_IN_DTC
      (s.dtc - 4)).setReg (PG.net 0) R.NET_PPS_IN_POS (s.posAgo s.ppsBase 4)).bump (PG.net 0) R.NET_PPS_CNT 16 16).irq
      (PG.net 0) 6) := by
  have hsoon : (match s.pps.inLast with | none => false | some t => decide ((s.dtc - 4 - t).toNat < 1000)) = false := by
    split
    · rfl
    · next d hd => exact decide_eq_false (Nat.not_lt.mpr (hlast d hd))
  unfold State.ppsIn
  simp only [hin, Bool.not_true, Bool.false_eq_true, if_false]
  exact if_neg (Bool.eq_false_iff.mp hsoon)

theorem exec_ppsInEdge_latches (hon : s.isOff (PG.net 0) = false) (hin : s.bit (PG.net 0) R.NET_PPS_CTL 1 = true)
    (hlast : ∀ d, s.pps.inLast = some d → 1000 ≤ (s.dtc - 4 - d).toNat) :
    ∃ t, exec .ppsInEdge s = .next t ∧ t.reg (PG.net 0) R.NET_PPS_IN_DTC = s.dtc - 4 ∧
      t.reg (PG.net 0) R.NET_PPS_IN_POS = s.posAgo s.ppsBase 4 ∧ Counted s t (PG.net 0) R.NET_PPS_CNT 16 16 1 ∧
      t.bit (PG.net 0) R.PG_IRQ_RAW 6 = true ∧ t = { s with regs := t.regs, pps := t.pps } ∧
      PageKept s t (PG.net 0) [R.NET_PPS_IN_DTC, R.NET_PPS_IN_POS, R.NET_PPS_CNT, R.PG_IRQ_RAW] := by
  rw [exec_ppsInEdge, execPpsInEdge, State.ifOn_powered hon, State.ppsIn_latches hin hlast]
  generalize s.posAgo s.ppsBase 4 = x
  generalize s.dtc - 4 = d
  refine ⟨_, State.ends_of rfl rfl, ?_, ?_, counted_irq (counted_bump ?_ (by decide)) (by decide),
    State.irq_bit _ _ _ (by decide), rfl, ?_⟩
  · exact (State.reg_setBit_off _ (by decide)).trans ((State.reg_setFld_off _ (by decide)).trans
      ((State.reg_setReg_off _ _ (by decide)).trans (State.reg_setReg_self _ _ _ _)))
  · exact (State.reg_setBit_off _ (by decide)).trans ((State.reg_setFld_off _ (by decide)).trans (State.reg_setReg_self _ _ _ _))
  · exact (State.reg_setReg_off _ _ (by decide)).trans (State.reg_setReg_off _ _ (by decide))
  · exact pageKept_setReg (pageKept_setReg (pageKept_setReg (pageKept_setReg (pageKept_of_regs (pageKept_refl _ _ _) rfl) (by decide)
      (by decide) _) (by decide) (by decide) _) (by decide) (by decide) _) (by decide) (by decide) _

end

/-- Settles O9: a write of NET_CTL by what it makes of MODE, FEC and TS_EN, the PPS pins by their enables and their times. -/
theorem ethernetModeLinkAndPps : Obligations.EthernetModeLinkAndPps := by
  refine ⟨fun q s hw => ⟨fun ini v => ⟨exec_netModeChange_refused hw rfl, exec_netModeChange_changes hw rfl,
      exec_netPtpDisable_empties hw rfl⟩, fun up hmode => exec_netLinkChange_sets hw hmode up⟩,
    fun ini v s hw hold hnew => ⟨exec_ppsOutEnable_refused hw rfl hnew hold, exec_ppsOutEnable_arms hw rfl hnew⟩,
    fun s => ⟨exec_ppsOutPulseEnd_ends, exec_ppsOutPulseEnd_waits⟩,
    fun s hon => ⟨exec_ppsInEdge_disabled hon, exec_ppsInEdge_latches hon⟩⟩

end Sys2Proof.Machine
end

section
/-!
PROOFS. Sensor ports and ingress queues (R113 to R147): the record of a port and of its queue, and what a step of the queue leaves
beside it.
-/

namespace Sys2Proof.Machine

/-! ### The records -/

@[simp] theorem State.spUpd_get (s : State) (p : Fin 8) (f : SpState → SpState) : (s.spUpd p f).sp.get p = f (s.sp.get p) :=
  vupd_get_self _ _ _

theorem State.spUpd_get_ne (s : State) {p q : Fin 8} (f : SpState → SpState) (h : q ≠ p) : (s.spUpd p f).sp.get q = s.sp.get q :=
  vupd_get_ne _ _ h

@[simp] theorem State.ieqUpd_get (s : State) (p : Fin 8) (f : IeqState → IeqState) : (s.ieqUpd p f).ieq.get p = f (s.ieq.get p) :=
  vupd_get_self _ _ _

theorem State.ieqUpd_get_ne (s : State) {p q : Fin 8} (f : IeqState → IeqState) (h : q ≠ p) :
    (s.ieqUpd p f).ieq.get q = s.ieq.get q :=
  vupd_get_ne _ _ h

@[simp] theorem State.reg_spUpd (s : State) (p : Fin 8) (f : SpState → SpState) (q o : Nat) : (s.spUpd p f).reg q o = s.reg q o :=
  rfl

@[simp] theorem State.reg_ieqUpd (s : State) (p : Fin 8) (f : IeqState → IeqState) (q o : Nat) :
    (s.ieqUpd p f).reg q o = s.reg q o := rfl

/-- What changes registers only is the answer itself. -/
theorem ends_of_onlyRegs {s t : State} (h : OnlyRegs s t) : s.ends t = .next t :=
  State.ends_of (onlyRegs_read h State.part fun _ _ => rfl) (onlyRegs_read h State.pending fun _ _ => rfl)

theorem PG.ieq_ne_sp (p q : Fin 8) : PG.sp q ≠ PG.ieq p := by
  have := q.isLt
  unfold PG.sp PG.ieq
  omega

/-! ### What a change of one queue leaves -/

/-- Of ingress queue `p` alone something changes: its record, and of the registers none but the listed ones of its page. -/
structure OnlyQueue (s t : State) (p : Fin 8) (l : List Nat) : Prop where
  rest : t = { s with regs := t.regs, ieq := t.ieq }
  others : ∀ q, q ≠ p → t.ieq.get q = s.ieq.get q
  kept : PageKept s t (PG.ieq p) l

section
variable {s t u : State} {p : Fin 8} {l : List Nat}

theorem onlyQueue_refl (s : State) (p : Fin 8) (l : List Nat) : OnlyQueue s s p l := ⟨rfl, fun _ _ => rfl, pageKept_refl _ _ _⟩

theorem onlyQueue_setReg (h : OnlyQueue s t p l) {o : Nat} (ho : o < 0x10000) (hl : o ∈ l) (v : Word) :
    OnlyQueue s (t.setReg (PG.ieq p) o v) p l where
  rest := by rw [h.rest]; rfl
  others := h.others
  kept := pageKept_setReg h.kept ho hl v

theorem onlyQueue_ieqUpd (h : OnlyQueue s t p l) (f : IeqState → IeqState) : OnlyQueue s (t.ieqUpd p f) p l where
  rest := by rw [h.rest]; rfl
  others q hq := (State.ieqUpd_get_ne t f hq).trans (h.others q hq)
  kept := h.kept

theorem onlyQueue_ite (h : OnlyQueue s t p l) (k : OnlyQueue s u p l) (c : Prop) [Decidable c] :
    OnlyQueue s (if c then t else u) p l := by
  split <;> assumption

theorem OnlyQueue.sp (h : OnlyQueue s t p l) : t.sp = s.sp := by rw [h.rest]

/-- The registers of the sensor ports are not those of the queue. -/
theorem OnlyQueue.reg_port (h : OnlyQueue s t p l) (q : Fin 8) {o : Nat} (ho : o < 0x10000) :
    t.reg (PG.sp q) o = s.reg (PG.sp q) o :=
  h.kept _ o ho (.inl (PG.ieq_ne_sp p q))

theorem OnlyQueue.ends (h : OnlyQueue s t p l) : s.ends t = .next t :=
  State.ends_of (by rw [h.rest]) (by rw [h.rest])

/-- Registers of a queue's page that reception writes (R136, R139, R141). -/
def ieqRxRegs : List Nat := [R.IEQ_CNT0, R.IEQ_CNT1, R.IEQ_STS, R.PG_IRQ_RAW]

/-- R136: a commit writes LEVEL_MAX and a cause. -/
theorem onlyQueue_ieqCommit (h : OnlyQueue s t p l) (hcnt : R.IEQ_CNT1 ∈ l) (hraw : R.PG_IRQ_RAW ∈ l) (e : IeqEntry) :
    OnlyQueue s (t.ieqCommit p e) p l := by
  have hlevel := fun v => onlyQueue_setReg (onlyQueue_ieqUpd h fun q => { q with q := q.q ++ [e] }) (by decide) hcnt v
  exact onlyQueue_ite (onlyQueue_setReg (hlevel _) (by decide) hraw _) (hlevel _) _

theorem onlyQueue_ieqLose (h : OnlyQueue s t p ieqRxRegs) (bytes pkts : Nat) : OnlyQueue s (t.ieqLose p bytes pkts) p ieqRxRegs :=
  onlyQueue_ieqUpd (onlyQueue_setReg (onlyQueue_setReg (onlyQueue_setReg (onlyQueue_setReg h (by decide) (by decide) _) (by decide)
    (by decide) _) (by decide) (by decide) _) (by decide) (by decide) _) _

theorem onlyQueue_ieqCut (h : OnlyQueue s t p ieqRxRegs) (rx : RxPacket) (bytes : Nat) :
    OnlyQueue s (t.ieqCut p rx bytes).1 p ieqRxRegs :=
  onlyQueue_ieqLose (onlyQueue_ieqUpd h _) _ _

theorem onlyQueue_ieqResume (h : OnlyQueue s t p ieqRxRegs) : OnlyQueue s (t.ieqResume p).2 p ieqRxRegs := by
  unfold State.ieqResume
  split
  · exact h
  · split
    · exact h
    · split
      · exact h
      · exact onlyQueue_ieqCommit (onlyQueue_ieqUpd h _) (by decide) (by decide) _

theorem onlyQueue_ieqByte (h : OnlyQueue s t p ieqRxRegs) (rx : RxPacket) (pos : Nat) (b : Byte) (last : Bool) :
    OnlyQueue s (t.ieqByte p rx pos b last).1 p ieqRxRegs := by
  unfold State.ieqByte
  dsimp only
  split
  · exact h
  · split
    · exact onlyQueue_ieqCut h rx 1
    · split
      · exact onlyQueue_ieqCut h rx 1
      · split
        · exact onlyQueue_ieqCommit (onlyQueue_ieqUpd h _) (by decide) (by decide) _
        · exact onlyQueue_ieqUpd h _

theorem onlyQueue_ieqBytes (h : OnlyQueue s t p ieqRxRegs) (rx : RxPacket) (pos : Nat) (bs : List Byte) :
    OnlyQueue s (t.ieqBytes p rx pos bs).1 p ieqRxRegs := by
  induction bs generalizing t rx pos with
  | nil => exact h
  | cons b r ih => exact ih (onlyQueue_ieqByte h _ _ _ _) _ _

/-! ### What the queue does to the packet being received -/

/-- What the queue changes of a packet: the IET of its group, and whether its copy is being discarded and counted. -/
def RxPacket.SameHeader (a b : RxPacket) : Prop := b = { a with groupIet := b.groupIet, cut := b.cut, counted := b.counted }

theorem RxPacket.SameHeader.trans {a b c : RxPacket} (h : a.SameHeader b) (k : b.SameHeader c) : a.SameHeader c := by
  unfold RxPacket.SameHeader at *
  rw [k, h]

theorem sameHeader_ieqByte (s : State) (p : Fin 8) (rx : RxPacket) (pos : Nat) (b : Byte) (last : Bool) :
    rx.SameHeader (s.ieqByte p rx pos b last).2 := by
  unfold State.ieqByte
  dsimp only
  split
  · rfl
  · split
    · rfl
    · split
      · rfl
      · split <;> rfl

theorem sameHeader_ieqBytes (s : State) (p : Fin 8) (rx : RxPacket) (pos : Nat) (bs : List Byte) :
    rx.SameHeader (s.ieqBytes p rx pos bs).2 := by
  induction bs generalizing s rx pos with
  | nil => rfl
  | cons b r ih =>
    have hgroup : rx.SameHeader (if pos % 32 = 0 then { rx with groupIet := s.iet } else rx) := by split <;> rfl
    exact (hgroup.trans (sameHeader_ieqByte s p _ pos b _)).trans (ih _ _ _)

end

end Sys2Proof.Machine
end

section
/-!
PROOFS. Packets (R115 to R117, R134): a header that is counted or opens a packet, its payload, and the packet's end.
-/

namespace Sys2Proof.Machine

section
variable {s t : State} {p : Fin 8}

/-! ### A header (R115, R116, R121) -/

theorem State.packetCut_none (h : (s.sp.get p).rx = none) : s.packetCut p = s := by
  rw [State.packetCut, h]

theorem State.rxPayload_none (h : (s.sp.get p).rx = none) (bytes : List Byte) : s.rxPayload p bytes = s := by
  rw [State.rxPayload, h]

/-- R121: a burst of a receiver that is active already is timed, and no more. -/
theorem State.rxBurst_active (h : s.bit (PG.sp p) R.SP_STS 0 = true) : s.rxBurst p = s.spUpd p fun x => { x with burstAt := s.dtc } :=
  if_pos h

/-- A header that reaches an enabled port without relay, its receiver active and no packet open. -/
theorem exec_csi2PacketRx_header (hen : s.spEn p = true) (hrx : (s.sp.get p).rx = none) (hrelay : s.bit (PG.sp p) R.SP_RLY_CTL 0 = false)
    (hact : s.bit (PG.sp p) R.SP_STS 0 = true) (h : CsiHeader) (payload : List Byte) :
    exec (.csi2PacketRx p (some h) payload none) s =
      s.ends (((s.spUpd p fun x => { x with burstAt := s.dtc }).rxHeader p h).rxPayload p payload) := by
  have hnone : ((s.spUpd p fun x => { x with burstAt := s.dtc }).sp.get p).rx = none := by rw [State.spUpd_get]; exact hrx
  rw [exec_csi2PacketRx, execCsi2PacketRx, State.ucError, State.rxPacket, if_neg (Bool.eq_false_iff.mp hrelay)]
  simp only [hen, Bool.not_true, Bool.false_eq_true, if_false]
  rw [State.rxBurst_active hact, State.packetCut_none hnone]

theorem State.rxHeader_bad {h : CsiHeader} (hbad : h.check = .bad) (s : State) (p : Fin 8) :
    s.rxHeader p h = (s.bump (PG.sp p) R.SP_CNT0 16 16).irq (PG.sp p) 1 := by
  unfold State.rxHeader
  simp only [hbad, if_true]

theorem State.rxHeader_otherChannel {h : CsiHeader} (hgood : h.check = .good) (hvc : h.vc.toNat ≠ s.fld (PG.sp p) R.SP_CTL 8 4) :
    s.rxHeader p h = s.bump (PG.sp p) R.SP_CNT1 0 16 := by
  unfold State.rxHeader
  simp only [hgood, reduceCtorEq, if_false]
  exact if_pos hvc

/-- R115: a good long-packet header of the port's channel with an enabled data type. -/
structure OpensPacket (s : State) (p : Fin 8) (h : CsiHeader) : Prop where
  check : h.check ≠ .bad
  vc : h.vc.toNat = s.fld (PG.sp p) R.SP_CTL 8 4
  long : 0x30 ≤ h.dt.toNat
  user : h.dt.toNat < 0x38
  enabled : s.bit (PG.sp p) R.SP_CTL (12 + (h.dt.toNat - 0x30)) = true

/-- R115, R141: a packet is opened: the queue resumes after an overflow where it can, and the packet takes the next number. -/
def State.packetOpen (s : State) (p : Fin 8) (h : CsiHeader) : State :=
  let (ok, s) := s.ieqResume p
  let s := if ok then s else s.ieqLose p 0 1
  let seq := (s.sp.get p).seq
  let rx : RxPacket := { seq, dt := h.dt.toNat, wc := h.wc.toNat, rcvd := 0, map := s.mapNow p, dec := {}, groupIet := s.iet,
                         cut := !ok, counted := !ok, drop := false }
  s.spUpd p fun x => { x with rx := some rx, seq := (seq + 1) % 65536 }

theorem State.rxHeader_opens {h : CsiHeader} (ho : OpensPacket s p h) : ∃ c : State, c.sp = s.sp ∧ s.rxHeader p h = c.packetOpen p h := by
  obtain ⟨hcheck, hvc, hlong, huser, hen⟩ := ho
  have hvc' : ¬ h.vc.toNat ≠ bf (s.reg (PG.sp p) R.SP_CTL) 8 4 := not_not.mpr hvc
  have hshort : ¬ h.dt.toNat < 0x10 := by omega
  have hdt : 0x30 ≤ h.dt.toNat ∧ h.dt.toNat < 0x38 ∧ bitAt (s.reg (PG.sp p) R.SP_CTL) (12 + (h.dt.toNat - 0x30)) = true :=
    ⟨hlong, huser, hen⟩
  unfold State.rxHeader
  simp only [hcheck, hvc', hshort, if_false]
  rw [if_pos hdt]
  refine ⟨_, ?_, rfl⟩
  split
  · split <;> rfl
  · rfl

/-- What the packet that is opened holds. -/
theorem State.packetOpen_packet (s : State) (p : Fin 8) (h : CsiHeader) :
    ∃ rx, ((s.packetOpen p h).sp.get p).rx = some rx ∧ rx.dt = h.dt.toNat ∧ rx.wc = h.wc.toNat ∧ rx.seq = (s.sp.get p).seq ∧
      rx.rcvd = 0 ∧ ((s.packetOpen p h).sp.get p).seq = ((s.sp.get p).seq + 1) % 65536 := by
  have hqueue := onlyQueue_ieqResume (onlyQueue_refl s p ieqRxRegs)
  have hsp : (if (s.ieqResume p).1 then (s.ieqResume p).2 else (s.ieqResume p).2.ieqLose p 0 1).sp = s.sp :=
    (onlyQueue_ite hqueue (onlyQueue_ieqLose hqueue 0 1) _).sp
  unfold State.packetOpen
  dsimp only
  rw [State.spUpd_get, hsp]
  exact ⟨_, rfl, rfl, rfl, rfl, rfl, rfl⟩

/-! ### Payload (R134, R136, R138) -/

theorem State.sp_tmapClose (s : State) (n : Fin 8) : (s.tmapClose n).sp = s.sp := by
  unfold State.tmapClose
  split <;> rfl

theorem sp_ite {t u : State} {x : Vector SpState 8} (c : Prop) [Decidable c] (h : t.sp = x) (k : u.sp = x) :
    (if c then t else u).sp = x := by
  split <;> assumption

theorem State.sp_mapEvent (s : State) (p : Fin 8) (m : MapRec) (arr n : Nat) : (s.mapEvent p m arr n).sp = s.sp := by
  unfold State.mapEvent
  have hlater := fun (c : Prop) [Decidable c] => sp_ite c (s.sp_tmapClose p) rfl
  exact sp_ite _ rfl (sp_ite _ (sp_ite _ rfl rfl) (sp_ite _ (hlater _) (hlater _)))

theorem State.sp_suspectPort (s : State) (p : Fin 8) : (s.suspectPort p).sp = s.sp := by
  have hset := fun l : List Nat => foldl_keeps (fun u : State => u.sp = s.sp) (fun s r => s.setBit PG.rfx (R.RULE_STS r) 0 true)
    (fun u r hu => hu) l s rfl
  exact sp_ite _ (hset _) (hset _)

theorem State.seq_frontEvent (s : State) (p : Fin 8) (m : MapRec) (n : Nat) (e : DecEvent × Nat) :
    ((s.frontEvent p m n e).sp.get p).seq = (s.sp.get p).seq := by
  unfold State.frontEvent
  split
  · rfl
  · dsimp only
    unfold State.frontPush
    split
    · rw [State.sp_suspectPort]
      exact congrArg (fun v => (v.get p).seq) (s.sp_mapEvent p m _ _)
    · rw [State.spUpd_get]
      exact congrArg (fun v => (v.get p).seq) (s.sp_mapEvent p m _ _)

/-- Payload bytes belong to the packet up to its word count. -/
theorem State.rxPayload_receives {rx : RxPacket} (h : (s.sp.get p).rx = some rx) (bytes : List Byte) :
    ∃ rx', ((s.rxPayload p bytes).sp.get p).rx = some rx' ∧ rx'.dt = rx.dt ∧ rx'.wc = rx.wc ∧ rx'.seq = rx.seq ∧
      rx'.rcvd = rx.rcvd + min (rx.wc - rx.rcvd) bytes.length ∧ ((s.rxPayload p bytes).sp.get p).seq = (s.sp.get p).seq := by
  have hrx := sameHeader_ieqBytes s p rx rx.rcvd (bytes.take (rx.wc - rx.rcvd))
  have hqueue := onlyQueue_ieqBytes (onlyQueue_refl s p ieqRxRegs) rx rx.rcvd (bytes.take (rx.wc - rx.rcvd))
  have hevs : ∀ (u : State) (m : MapRec) (n : Nat) (l : List (DecEvent × Nat)),
      ((l.foldl (fun s e => s.frontEvent p m n e) u).sp.get p).seq = (u.sp.get p).seq := fun u m n l =>
    foldl_keeps (fun v : State => (v.sp.get p).seq = (u.sp.get p).seq) _ (fun v e hv => (v.seq_frontEvent p m n e).trans hv) l u rfl
  rw [RxPacket.SameHeader] at hrx
  unfold State.rxPayload
  simp only [h, State.spUpd_get]
  refine ⟨_, rfl, ?_, ?_, ?_, ?_, ?_⟩
  · rw [hrx]
  · rw [hrx]
  · rw [hrx]
  · rw [hrx, List.length_take]
  · rw [hevs]
    exact congrArg (fun v => (v.get p).seq) hqueue.sp

theorem exec_csi2PacketRx_opens (hen : s.spEn p = true) (hrx : (s.sp.get p).rx = none)
    (hrelay : s.bit (PG.sp p) R.SP_RLY_CTL 0 = false) (hact : s.bit (PG.sp p) R.SP_STS 0 = true) {h : CsiHeader}
    (ho : OpensPacket s p h) (payload : List Byte) :
    ∃ t rx, exec (.csi2PacketRx p (some h) payload none) s = .next t ∧ (t.sp.get p).rx = some rx ∧ rx.dt = h.dt.toNat ∧
      rx.wc = h.wc.toNat ∧ rx.seq = (s.sp.get p).seq ∧ rx.rcvd = min h.wc.toNat payload.length ∧
      (t.sp.get p).seq = ((s.sp.get p).seq + 1) % 65536 := by
  have ho' : OpensPacket (s.spUpd p fun x => { x with burstAt := s.dtc }) p h := ⟨ho.check, ho.vc, ho.long, ho.user, ho.enabled⟩
  obtain ⟨c, hc, hopen⟩ := State.rxHeader_opens ho'
  obtain ⟨rx, hsome, hdt, hwc, hseq, hrcvd, hnext⟩ := c.packetOpen_packet p h
  obtain ⟨rx', hsome', hdt', hwc', hseq', hrcvd', hnext'⟩ := State.rxPayload_receives hsome payload
  have hnum : (c.sp.get p).seq = (s.sp.get p).seq := by rw [hc, State.spUpd_get]
  rw [exec_csi2PacketRx_header hen hrx hrelay hact, hopen, State.ends_eq]
  refine ⟨_, rx', rfl, hsome', hdt'.trans hdt, hwc'.trans hwc, hseq'.trans (hseq.trans hnum), ?_, ?_⟩
  · rw [hrcvd', hrcvd, hwc, Nat.zero_add, Nat.sub_zero]
  · exact hnext'.trans (hnext.trans (by rw [hnum]))

/-! ### Headers that are only counted -/

theorem exec_csi2PacketRx_counted (hen : s.spEn p = true) (hrx : (s.sp.get p).rx = none)
    (hrelay : s.bit (PG.sp p) R.SP_RLY_CTL 0 = false) (hact : s.bit (PG.sp p) R.SP_STS 0 = true) {h : CsiHeader} {u : State}
    (hu : (s.spUpd p fun x => { x with burstAt := s.dtc }).rxHeader p h = u)
    (hsp : u.sp = (s.spUpd p fun x => { x with burstAt := s.dtc }).sp) (payload : List Byte) :
    exec (.csi2PacketRx p (some h) payload none) s = s.ends u ∧ (u.sp.get p).rx = none := by
  have hnone : (u.sp.get p).rx = none := by rw [hsp, State.spUpd_get]; exact hrx
  rw [exec_csi2PacketRx_header hen hrx hrelay hact, hu, State.rxPayload_none hnone]
  exact ⟨rfl, hnone⟩

theorem exec_csi2PacketRx_bad (hen : s.spEn p = true) (hrx : (s.sp.get p).rx = none)
    (hrelay : s.bit (PG.sp p) R.SP_RLY_CTL 0 = false) (hact : s.bit (PG.sp p) R.SP_STS 0 = true) {h : CsiHeader}
    (hbad : h.check = .bad) (payload : List Byte) :
    ∃ t, exec (.csi2PacketRx p (some h) payload none) s = .next t ∧ Counted s t (PG.sp p) R.SP_CNT0 16 16 1 ∧
      t.bit (PG.sp p) R.PG_IRQ_RAW 1 = true ∧ (t.sp.get p).rx = none ∧ t = { s with regs := t.regs, sp := t.sp } ∧
      PageKept s t (PG.sp p) [R.SP_CNT0, R.PG_IRQ_RAW] := by
  obtain ⟨hexec, hnone⟩ := exec_csi2PacketRx_counted hen hrx hrelay hact (State.rxHeader_bad hbad _ p) rfl payload
  rw [hexec]
  exact ⟨_, State.ends_of rfl rfl, counted_irq (counted_bump rfl (by decide)) (by decide), State.irq_bit _ _ _ (by decide), hnone, rfl,
    pageKept_setReg (pageKept_setReg (pageKept_of_regs (pageKept_refl _ _ _) rfl) (by decide) (by decide) _) (by decide) (by decide) _⟩

theorem exec_csi2PacketRx_otherChannel (hen : s.spEn p = true) (hrx : (s.sp.get p).rx = none)
    (hrelay : s.bit (PG.sp p) R.SP_RLY_CTL 0 = false) (hact : s.bit (PG.sp p) R.SP_STS 0 = true) {h : CsiHeader}
    (hgood : h.check = .good) (hvc : h.vc.toNat ≠ s.fld (PG.sp p) R.SP_CTL 8 4) (payload : List Byte) :
    ∃ t, exec (.csi2PacketRx p (some h) payload none) s = .next t ∧ Counted s t (PG.sp p) R.SP_CNT1 0 16 1 ∧
      (t.sp.get p).rx = none ∧ t = { s with regs := t.regs, sp := t.sp } ∧ PageKept s t (PG.sp p) [R.SP_CNT1] := by
  obtain ⟨hexec, hnone⟩ := exec_csi2PacketRx_counted hen hrx hrelay hact (State.rxHeader_otherChannel hgood hvc) rfl payload
  rw [hexec]
  exact ⟨_, State.ends_of rfl rfl, counted_bump rfl (by decide), hnone, rfl,
    pageKept_setReg (pageKept_of_regs (pageKept_refl _ _ _) rfl) (by decide) (by decide) _⟩

/-! ### The end of a packet (R117, R136, R187) -/

/-- R117: a failed end is counted, as truncated or by its CRC, with the cause. -/
def State.packetCounted (s : State) (p : Fin 8) (ok trunc : Bool) : State :=
  if trunc then (s.bump (PG.sp p) R.SP_CNT0 48 16).irq (PG.sp p) 2
  else if ok then s else (s.bump (PG.sp p) R.SP_CNT0 32 16).irq (PG.sp p) 2

/-- R136, R141: the packet's last entry is committed with the result, or discarded with the packet. -/
def State.packetQueued (s : State) (p : Fin 8) (rx : RxPacket) (ok trunc : Bool) : State :=
  match (s.ieq.get p).opened with
  | some o =>
    if !rx.drop ∧ (rx.cut ∨ !s.ieqRuns p) then (s.ieqCut p rx 0).1
    else
      let s := s.ieqUpd p fun q => { q with opened := none }
      if rx.drop then s else s.ieqCommit p (o.close rx.map rx.dt true (!ok) trunc false)
  | none =>
    if trunc ∧ !rx.cut ∧ !rx.drop ∧ s.ieqRuns p then
      s.ieqUpd p fun q => { q with q := match q.q.getLast? with
        | some e => if e.mark ∨ e.eop then q.q else q.q.dropLast ++ [{ e with eop := true, crcBad := true, trunc := true }]
        | none => q.q }
    else s

theorem onlyQueue_packetQueued (s : State) (p : Fin 8) (rx : RxPacket) (ok trunc : Bool) :
    OnlyQueue s (s.packetQueued p rx ok trunc) p ieqRxRegs := by
  have h := onlyQueue_refl s p ieqRxRegs
  unfold State.packetQueued
  split
  · split
    · exact onlyQueue_ieqCut h rx 0
    · dsimp only
      split
      · exact onlyQueue_ieqUpd h _
      · exact onlyQueue_ieqCommit (onlyQueue_ieqUpd h _) (by decide) (by decide) _
  · split
    · exact onlyQueue_ieqUpd h _
    · exact h

/-- R117: failed ends are counted in a field of SP_CNT0: of truncation, or of a bad CRC. -/
def endField (trunc : Bool) : Nat := if trunc then 48 else 32

theorem State.packetCounted_bad (s : State) (p : Fin 8) {ok trunc : Bool} (h : ok = false ∨ trunc = true) :
    s.packetCounted p ok trunc = (s.bump (PG.sp p) R.SP_CNT0 (endField trunc) 16).irq (PG.sp p) 2 := by
  unfold State.packetCounted endField
  cases trunc
  · rcases h with rfl | h
    · rfl
    · cases h
  · rfl

/-- What the counts of a packet's end leave: only registers of the port. -/
theorem onlyRegs_packetCounted (s : State) (p : Fin 8) (ok trunc : Bool) : OnlyRegs s (s.packetCounted p ok trunc) := by
  unfold State.packetCounted
  split
  · rfl
  · split <;> rfl

/-- An ended packet is open no more, its result follows its events, a failed end is counted with its cause, and no other port and no other queue changes. -/
theorem ends_packetEnd (s : State) (p : Fin 8) (rx : RxPacket) (ok trunc : Bool) :
    ∃ t, s.ends (s.packetEnd p rx ok trunc) = .next t ∧ (t.sp.get p).rx = none ∧
      (t.sp.get p).front = (s.sp.get p).front ++ [.crc rx.seq ok trunc] ∧
      ((ok = false ∨ trunc = true) → Counted s t (PG.sp p) R.SP_CNT0 (endField trunc) 16 1 ∧ t.bit (PG.sp p) R.PG_IRQ_RAW 2 = true) ∧
      (∀ q, q ≠ p → t.sp.get q = s.sp.get q ∧ t.ieq.get q = s.ieq.get q) := by
  generalize hc : s.packetCounted p ok trunc = c
  have hregs : OnlyRegs s c := by rw [← hc]; exact onlyRegs_packetCounted s p ok trunc
  have hqueue := onlyQueue_packetQueued c p rx ok trunc
  generalize hu : c.packetQueued p rx ok trunc = u at hqueue
  generalize hv : (if rx.dec.part.isEmpty then u else u.bump (PG.sp p) R.SP_CNT1 48 16) = v
  have hsp : v.sp = s.sp := by
    have : v.sp = u.sp := by rw [← hv]; split <;> rfl
    rw [this, hqueue.sp, hregs]
  have hieq : v.ieq = u.ieq := by rw [← hv]; split <;> rfl
  have hreg : ∀ {o}, o < 0x10000 → o ≠ R.SP_CNT1 → v.reg (PG.sp p) o = c.reg (PG.sp p) o := by
    intro o ho hne
    rw [← hqueue.reg_port p ho, ← hv]
    split
    · rfl
    · exact State.reg_setFld_off _ hne
  have hend : s.packetEnd p rx ok trunc = v.spUpd p fun x => { x with rx := none, front := x.front ++ [.crc rx.seq ok trunc] } := by
    rw [← hv, ← hu, ← hc]
    rfl
  rw [hend, State.ends_eq]
  refine ⟨_, rfl, ?_, ?_, fun hbad => ⟨?_, ?_⟩, fun q hq => ⟨?_, ?_⟩⟩
  · exact congrArg SpState.rx (v.spUpd_get p _)
  · exact (congrArg SpState.front (v.spUpd_get p _)).trans (by rw [hsp])
  · rw [Counted, State.fld_withQueueOf, State.fld, State.reg_spUpd, hreg (by decide) (by decide), ← hc, s.packetCounted_bad p hbad]
    refine counted_irq (counted_bump rfl ?_) (by decide)
    unfold endField
    split <;> decide
  · rw [State.bit_withQueueOf, State.bit, State.reg_spUpd, hreg (by decide) (by decide), ← hc, s.packetCounted_bad p hbad]
    exact State.irq_bit _ _ _ (by decide)
  · exact (v.spUpd_get_ne _ hq).trans (by rw [hsp])
  · show v.ieq.get q = s.ieq.get q
    rw [hieq, hqueue.others q hq, hregs]

/-- Settles O12: a header by the order of the checks of R115 and R116, the end of a packet by its count and its result. -/
theorem packetsOpenAndEnd : Obligations.PacketsOpenAndEnd := by
  intro p s
  refine ⟨fun hen hrx hrelay hact h payload => ⟨fun hbad => ?_, fun hgood hvc => ?_, fun hcheck hvc hlong huser hdt => ?_⟩,
    fun ok hrx => ?_, fun hrx => ?_, fun rx hrx => ⟨fun hall ok => ?_, fun hpart => ?_⟩⟩
  · exact exec_csi2PacketRx_bad hen hrx hrelay hact hbad payload
  · exact exec_csi2PacketRx_otherChannel hen hrx hrelay hact hgood hvc payload
  · exact exec_csi2PacketRx_opens hen hrx hrelay hact ⟨hcheck, hvc, hlong, huser, hdt⟩ payload
  · rw [exec_packetCrcResult, execPacketCrcResult, hrx, State.ends_self]
  · rw [exec_packetTruncated, execPacketTruncated, hrx, State.ends_self]
  · obtain ⟨t, ht, hopen, hfront, hbad, hothers⟩ := ends_packetEnd s p rx ok false
    refine ⟨t, ?_, hopen, hfront, fun hok => hbad (.inl hok), hothers⟩
    rw [exec_packetCrcResult, execPacketCrcResult, hrx]
    exact (congrArg s.ends (if_pos hall)).trans ht
  · obtain ⟨t, ht, hopen, hfront, hbad, hothers⟩ := ends_packetEnd s p rx false true
    obtain ⟨hcount, hcause⟩ := hbad (.inr rfl)
    refine ⟨t, ?_, hopen, hfront, hcount, hcause, hothers⟩
    rw [exec_packetTruncated, execPacketTruncated, hrx]
    exact (congrArg s.ends (if_pos hpart)).trans ht

end

end Sys2Proof.Machine
end

section
/-!
PROOFS. PHY lock, receiver activity and camera control of a sensor port (R121, R124, R125).
-/

namespace Sys2Proof.Machine

section
variable {s : State} {p : Fin 8}

/-! ### The receiver (R121) -/

theorem exec_phyLockChange_sets (s : State) (p : Fin 8) (locked : Bool) :
    exec (.phyLockChange p locked) s = .next (s.setBit (PG.sp p) R.SP_STS 1 locked) := by
  rw [exec_phyLockChange, execPhyLockChange]
  exact State.ends_of rfl rfl

theorem exec_rxActiveTimeout_due (hact : s.bit (PG.sp p) R.SP_STS 0 = true)
    (hdue : 1000000 ≤ (s.dtc - (s.sp.get p).burstAt).toNat) :
    exec (.rxActiveTimeout p) s = .next ((s.setBit (PG.sp p) R.SP_STS 0 false).irq (PG.sp p) 0) := by
  rw [exec_rxActiveTimeout, execRxActiveTimeout, if_pos ⟨hact, hdue⟩]
  exact State.ends_of rfl rfl

theorem exec_rxActiveTimeout_early
    (h : s.bit (PG.sp p) R.SP_STS 0 = false ∨ (s.dtc - (s.sp.get p).burstAt).toNat < 1000000) :
    exec (.rxActiveTimeout p) s = .next s := by
  have hnot : ¬ (s.bit (PG.sp p) R.SP_STS 0 = true ∧ 1000000 ≤ (s.dtc - (s.sp.get p).burstAt).toNat) := by
    rintro ⟨hact, hdue⟩
    rcases h with h | h
    · rw [h] at hact
      cases hact
    · omega
  rw [exec_rxActiveTimeout, execRxActiveTimeout, if_neg hnot, State.ends_self]

/-! ### A camera-control transfer ends (R125) -/

/-- What was read goes to SP_CCI_RBUF, the RESULT and its length to SP_CCI_STS, and the bus is free. -/
theorem State.cciFinish_shows (s : State) (p : Fin 8) (result : Nat) (bytes : List Byte) :
    ∃ u, OnlyRegs (s.spUpd p fun x => { x with cci := none }) u ∧ s.cciFinish p result bytes =
      (u.setReg (PG.sp p) R.SP_CCI_STS (wOfNat (result <<< 1 + bytes.length <<< 4))).irq (PG.sp p) 4 := by
  refine ⟨_, ?read, rfl⟩
  refine foldl_keeps (OnlyRegs _) _ (fun u i hu => ?_) _ _ (onlyRegs_refl _)
  split
  · exact onlyRegs_setReg hu _ _ _
  · exact hu

/-- A transfer that reads nothing leaves SP_CCI_RBUF. -/
theorem State.cciFinish_nothing (s : State) (p : Fin 8) : s.cciFinish p 1 [] =
    ((s.spUpd p fun x => { x with cci := none }).setReg (PG.sp p) R.SP_CCI_STS 2).irq (PG.sp p) 4 := rfl

theorem exec_cciDone_idle (h : (s.sp.get p).cci = none) (r : CciResult) (bytes : List Byte) :
    exec (.cciDone p r bytes) s = .next s := by
  rw [exec_cciDone, execCciDone, h, State.ends_self]

theorem exec_cciDone_ends {c : CciXfer} (h : (s.sp.get p).cci = some c) (r : CciResult) (bytes : List Byte) :
    ∃ t, exec (.cciDone p r bytes) s = .next t ∧ (t.sp.get p).cci = none ∧
      t.reg (PG.sp p) R.SP_CCI_STS = wOfNat (cciCode r <<< 1 + (min bytes.length c.rlen) <<< 4) ∧
      t.bit (PG.sp p) R.PG_IRQ_RAW 4 = true ∧ t = { s with regs := t.regs, sp := t.sp } := by
  obtain ⟨u, hu, hend⟩ := s.cciFinish_shows p (cciCode r) (bytes.take c.rlen)
  have hsp : u.sp = (s.spUpd p fun x => { x with cci := none }).sp := by rw [hu]
  have hrest : u = { s with regs := u.regs, sp := u.sp } := by rw [hu]; rfl
  rw [exec_cciDone, execCciDone, h]
  simp only [hend]
  refine ⟨_, State.ends_of (by rw [hrest]; rfl) (by rw [hrest]; rfl), ?_, ?_, State.irq_bit _ _ _ (by decide), by rw [hrest]; rfl⟩
  · show (u.sp.get p).cci = none
    rw [hsp, State.spUpd_get]
  · rw [State.irq, State.reg_setBit_off _ (by decide), State.reg_setReg_self, List.length_take, min_comm]

/-! ### A camera-control command (R125) -/

section
variable {ini : Initiator} {v : Word} (hw : Writable s (PG.sp p))
include hw

theorem exec_cciTransfer_writable :
    exec (.cciTransfer ini p v) s = s.ends (s.cciStart p (.full ini R.SP_CCI_CMD v)) := by
  rw [exec_cciTransfer, execCciTransfer, State.gate_writable hw]

theorem exec_cciTransfer_busy (hbusy : s.bit (PG.sp p) R.SP_CCI_STS 0 = true) :
    exec (.cciTransfer ini p v) s = .next (s.logWr (PG.sp p) (.full ini R.SP_CCI_CMD v) .busy) := by
  rw [exec_cciTransfer_writable hw, State.cciStart, if_pos hbusy]
  exact ends_of_onlyRegs (onlyRegs_logWr s _ _ _)

variable (hfree : s.bit (PG.sp p) R.SP_CCI_STS 0 = false)
include hfree

theorem exec_cciTransfer_off (hen : s.bit (PG.sp p) R.SP_CCI_CTL 0 = false) : exec (.cciTransfer ini p v) s = .next s := by
  rw [exec_cciTransfer_writable hw, State.cciStart, if_neg (Bool.eq_false_iff.mp hfree), if_pos (by rw [hen]; rfl), State.ends_self]

variable (hen : s.bit (PG.sp p) R.SP_CCI_CTL 0 = true)
include hen

theorem exec_cciTransfer_empty (hwlen : bf v 8 6 = 0) (hrlen : bf v 16 6 = 0) :
    ∃ t, exec (.cciTransfer ini p v) s = .next t ∧ t.reg (PG.sp p) R.SP_CCI_STS = 2 ∧ t.bit (PG.sp p) R.PG_IRQ_RAW 4 = true ∧
      t = { s with regs := t.regs, sp := t.sp } ∧ PageKept s t (PG.sp p) [R.SP_CCI_STS, R.PG_IRQ_RAW] := by
  rw [exec_cciTransfer_writable hw, State.cciStart, if_neg (Bool.eq_false_iff.mp hfree), if_neg (by rw [hen]; decide), Wr.full_val,
    if_pos ⟨hwlen, hrlen⟩, State.cciFinish_nothing]
  refine ⟨_, State.ends_of rfl rfl, ?_, State.irq_bit _ _ _ (by decide), rfl, ?_⟩
  · rw [State.irq, State.reg_setBit_off _ (by decide), State.reg_setReg_self]
  · exact pageKept_setReg (pageKept_setReg (pageKept_of_regs (pageKept_refl _ _ _) rfl) (by decide) (by decide) _) (by decide)
      (by decide) _

theorem exec_cciTransfer_starts (hlen : bf v 8 6 ≠ 0 ∨ bf v 16 6 ≠ 0) :
    ∃ t c, exec (.cciTransfer ini p v) s = .next t ∧ (t.sp.get p).cci = some c ∧ c.addr = bf v 0 7 ∧
      c.sent = (s.cciWbuf p).take (min 32 (bf v 8 6)) ∧ c.rlen = min 32 (bf v 16 6) ∧ t.reg (PG.sp p) R.SP_CCI_STS = 1 ∧
      t = { s with regs := t.regs, sp := t.sp } ∧ PageKept s t (PG.sp p) [R.SP_CCI_STS] := by
  have hsome : ¬ (bf v 8 6 = 0 ∧ bf v 16 6 = 0) := by omega
  rw [exec_cciTransfer_writable hw, State.cciStart, if_neg (Bool.eq_false_iff.mp hfree), if_neg (by rw [hen]; decide), Wr.full_val,
    if_neg hsome]
  exact ⟨_, s.cciXfer p v, State.ends_of rfl rfl, congrArg SpState.cci (s.spUpd_get p _), rfl, rfl, rfl, State.reg_setReg_self _ _ _ _,
    rfl, pageKept_setReg (pageKept_of_regs (pageKept_refl _ _ _) rfl) (by decide) (by decide) _⟩

end

/-- Settles O13: each command by the checks of its rule; that a controller that is off ignores a command is the model's choice
(log 59). -/
theorem phyAndCameraControl : Obligations.PhyAndCameraControl := by
  intro p s
  exact ⟨exec_phyLockChange_sets s p, exec_rxActiveTimeout_due, exec_rxActiveTimeout_early,
    fun ini v hw => ⟨exec_cciTransfer_busy hw, exec_cciTransfer_off hw, exec_cciTransfer_empty hw, exec_cciTransfer_starts hw⟩,
    fun r bytes => ⟨fun h => exec_cciDone_idle h r bytes, fun c h => exec_cciDone_ends h r bytes⟩⟩

end

end Sys2Proof.Machine
end

section
/-!
PROOFS. Entries of an ingress queue (R139 to R146): the tail timeout, the moves of a raw read, the queue decoder, DROP_PKT and POP.
-/

namespace Sys2Proof.Machine

section
variable {s t u : State} {p : Fin 8}

/-! ### The tail timeout (R139) -/

/-- R136: a committed entry joins the queue behind the others. -/
theorem State.ieqCommit_get (s : State) (p : Fin 8) (e : IeqEntry) :
    (s.ieqCommit p e).ieq.get p = { s.ieq.get p with q := (s.ieq.get p).q ++ [e] } := by
  unfold State.ieqCommit
  dsimp only
  split <;> exact s.ieqUpd_get p _

theorem exec_ieqTailTimeout_early (h : s.tailDue p = false) : exec (.ieqTailTimeout p) s = .next s := by
  rw [exec_ieqTailTimeout, execIeqTailTimeout, h]
  exact s.ends_self

theorem exec_ieqTailTimeout_due {o : OpenEntry} {rx : RxPacket} (ho : (s.ieq.get p).opened = some o)
    (hrx : (s.sp.get p).rx = some rx) (hdue : s.tailDue p = true) :
    ∃ t, exec (.ieqTailTimeout p) s = .next t ∧ (t.ieq.get p).opened = none ∧
      (t.ieq.get p).q = [o.close rx.map rx.dt false false false true] ∧ Counted s t (PG.ieq p) R.IEQ_CNT0 48 16 1 ∧
      t = { s with regs := t.regs, ieq := t.ieq } ∧ (∀ q, q ≠ p → t.ieq.get q = s.ieq.get q) ∧
      PageKept s t (PG.ieq p) [R.IEQ_CNT0, R.IEQ_CNT1, R.PG_IRQ_RAW] := by
  have hempty : (s.ieq.get p).q = [] := by
    rw [State.tailDue, ho, hrx] at hdue
    simp only [Bool.and_eq_true, List.isEmpty_iff] at hdue
    exact hdue.1.1
  generalize he : o.close rx.map rx.dt false false false true = e
  generalize hv : (s.ieqUpd p fun q => { q with opened := none }) = v
  have hone : OnlyQueue s v p [R.IEQ_CNT1, R.PG_IRQ_RAW] := by
    rw [← hv]
    exact onlyQueue_ieqUpd (onlyQueue_refl s p _) _
  have hcommit := onlyQueue_ieqCommit hone (by decide) (by decide) e
  have hall : OnlyQueue s (v.ieqCommit p e) p [R.IEQ_CNT0, R.IEQ_CNT1, R.PG_IRQ_RAW] :=
    ⟨hcommit.rest, hcommit.others, fun q off hoff hq => hcommit.kept q off hoff (hq.imp id fun hl hin => hl (List.mem_cons_of_mem _ hin))⟩
  have hcounted := onlyQueue_setReg hall (o := R.IEQ_CNT0) (by decide) (by decide)
    (putFld ((v.ieqCommit p e).reg (PG.ieq p) R.IEQ_CNT0) 48 16
      (min (2 ^ 16 - 1) ((v.ieqCommit p e).fld (PG.ieq p) R.IEQ_CNT0 48 16 + 1)))
  have hget : (v.ieqCommit p e).ieq.get p = { s.ieq.get p with q := (s.ieq.get p).q ++ [e], opened := none } := by
    rw [State.ieqCommit_get, ← hv, State.ieqUpd_get]
  have hact : (if s.tailDue p then s.tailCommit p else s) = (v.ieqCommit p e).bump (PG.ieq p) R.IEQ_CNT0 48 16 := by
    rw [if_pos hdue, State.tailCommit, ho, hrx, ← hv, ← he]
  rw [exec_ieqTailTimeout, execIeqTailTimeout, hact]
  refine ⟨_, hcounted.ends, congrArg IeqState.opened hget, (congrArg IeqState.q hget).trans (by rw [hempty, List.nil_append]), ?_,
    hcounted.rest, hcounted.others, hcounted.kept⟩
  exact counted_bump (hcommit.kept _ _ (by decide) (.inr (by decide))) (by decide)

/-! ### Parity at the head (R140) -/

/-- A change that leaves the record of a queue leaves the state. -/
theorem State.ieqUpd_same {f : IeqState → IeqState} (h : f (s.ieq.get p) = s.ieq.get p) : s.ieqUpd p f = s := by
  have hsame : vupd s.ieq p f = s.ieq := by
    rw [vupd, h]
    exact Vector.set_getElem_self _
  rw [State.ieqUpd, hsame]

theorem State.headParity_nil (h : (s.ieq.get p).q = []) (k : Fin 3) : s.headParity p k = s := by
  unfold State.headParity
  split
  · rfl
  · refine State.ieqUpd_same ?_
    generalize s.ieq.get p = x at h
    obtain ⟨q, opened, ovf, dma⟩ := x
    cases h
    rfl

theorem State.headParity_zero (s : State) (p : Fin 8) : s.headParity p 0 = s := if_pos rfl

/-- The read of the head finds its parity; nothing else of the queue changes. -/
theorem State.headParity_cons {e : IeqEntry} {r : List IeqEntry} (h : (s.ieq.get p).q = e :: r) (k : Fin 3) :
    ∃ n, (s.headParity p k).ieq.get p = { s.ieq.get p with q := { e with parity := n } :: r } := by
  unfold State.headParity
  split
  · exact ⟨e.parity, by rw [← h]⟩
  · refine ⟨k, ?_⟩
    rw [State.ieqUpd_get, h]

theorem onlyQueue_headParity (s : State) (p : Fin 8) (k : Fin 3) : OnlyQueue s (s.headParity p k) p [] := by
  unfold State.headParity
  split
  · exact onlyQueue_refl s p _
  · exact onlyQueue_ieqUpd (onlyQueue_refl s p _) _

theorem onlyRegs_ieqParity (s : State) (p : Fin 8) (e : IeqEntry) : OnlyRegs s (s.ieqParity p e) := by
  unfold State.ieqParity
  split <;> rfl

/-! ### A raw read takes the head (R147) -/

theorem State.rawMove_nil (h : (s.ieq.get p).q = []) : s.rawMove p = s := by
  unfold State.rawMove
  split
  · next e r _ hq =>
      rw [h] at hq
      cases hq
  · rfl

/-- The entry goes to memory, which changes no port and no queue. -/
theorem State.rawMove_takes {d : RawDma} {e : IeqEntry} {r : List IeqEntry} (hd : (s.ieq.get p).dma = some d)
    (hq : (s.ieq.get p).q = e :: r) (hmore : d.moved < d.len) :
    ∃ u : State, u.sp = s.sp ∧ u.ieq = s.ieq ∧ s.rawMove p = (u.qdUpd p fun q => { q with current := !e.eop }).ieqUpd p fun q =>
      { q with q := r, dma := some { d with moved := d.moved + 1, zeroAt := u.dtc } } := by
  have hregs := onlyRegs_ieqParity s p e
  have hmem := onlyMem_writeBytes (onlyMem_refl (s.ieqParity p e)) (some d.item) (d.addr + 64 * d.moved)
    (e.bytes ++ leBytes 8 e.tag ++ List.replicate 24 0)
  have hsp : (s.ieqParity p e).sp = s.sp := onlyRegs_read hregs State.sp fun _ _ => rfl
  have hieq : (s.ieqParity p e).ieq = s.ieq := onlyRegs_read hregs State.ieq fun _ _ => rfl
  refine ⟨_, (congrArg State.sp hmem.rest).trans hsp, (congrArg State.ieq hmem.rest).trans hieq, ?_⟩
  unfold State.rawMove
  simp only [hd, hq, Nat.not_le.mpr hmore, if_false]
  rfl

theorem State.rawWants_of {d : RawDma} (hd : (s.ieq.get p).dma = some d) (hmore : d.moved < d.len) : s.rawWants p = true := by
  rw [State.rawWants, hd]
  exact decide_eq_true hmore

theorem exec_ieqEntryRead_raw_empty {d : RawDma} (hd : (s.ieq.get p).dma = some d) (hmore : d.moved < d.len)
    (hq : (s.ieq.get p).q = []) (k : Fin 3) (uc : Option (Fin 255 × Bool)) : exec (.ieqEntryRead p k uc) s = .next s := by
  rw [exec_ieqEntryRead, execIeqEntryRead, if_pos (State.rawWants_of hd hmore), State.headParity_nil hq, State.rawMove_nil hq,
    State.ends_self]

theorem exec_ieqEntryRead_raw_moves {d : RawDma} (hd : (s.ieq.get p).dma = some d) (hmore : d.moved < d.len) {e : IeqEntry}
    {r : List IeqEntry} (hq : (s.ieq.get p).q = e :: r) (k : Fin 3) (uc : Option (Fin 255 × Bool)) :
    ∃ t, exec (.ieqEntryRead p k uc) s = .next t ∧ (t.ieq.get p).q = r ∧
      (∃ d', (t.ieq.get p).dma = some d' ∧ d'.moved = d.moved + 1 ∧ d'.item = d.item ∧ d'.len = d.len ∧ d'.addr = d.addr) ∧
      (t.sp.get p).qd.current = !e.eop ∧ (∀ q, q ≠ p → t.ieq.get q = s.ieq.get q ∧ t.sp.get q = s.sp.get q) := by
  have hhead := onlyQueue_headParity s p k
  obtain ⟨n, hget⟩ := State.headParity_cons hq k
  obtain ⟨u, hsp, hieq, hmove⟩ := State.rawMove_takes (s := s.headParity p k) (d := d) (e := { e with parity := n }) (r := r)
    (by rw [hget]; exact hd) (by rw [hget]) hmore
  rw [exec_ieqEntryRead, execIeqEntryRead, if_pos (State.rawWants_of hd hmore), hmove, State.ends_eq]
  refine ⟨_, rfl, ?_, ⟨{ d with moved := d.moved + 1, zeroAt := u.dtc }, ?_, rfl, rfl, rfl, rfl⟩, ?_, fun q hqp => ⟨?_, ?_⟩⟩
  · exact congrArg IeqState.q (State.ieqUpd_get _ p _)
  · exact congrArg IeqState.dma (State.ieqUpd_get _ p _)
  · exact congrArg (fun x => x.qd.current) (State.spUpd_get u p _)
  · exact (State.ieqUpd_get_ne _ _ hqp).trans ((congrArg (fun v => v.get q) hieq).trans (hhead.others q hqp))
  · exact (State.spUpd_get_ne u _ hqp).trans (by rw [hsp, hhead.sp])

/-! ### What the queue decoder changes (R143) -/

/-- Beside the registers only the record of sensor port `p` changes. -/
structure OnlySensor (s t : State) (p : Fin 8) : Prop where
  rest : t = { s with regs := t.regs, sp := t.sp }
  others : ∀ q, q ≠ p → t.sp.get q = s.sp.get q

theorem onlySensor_refl (s : State) (p : Fin 8) : OnlySensor s s p := ⟨rfl, fun _ _ => rfl⟩

theorem OnlySensor.ieq (h : OnlySensor s t p) : t.ieq = s.ieq := by rw [h.rest]

theorem onlySensor_setReg (h : OnlySensor s t p) (page o : Nat) (v : Word) : OnlySensor s (t.setReg page o v) p :=
  ⟨by rw [h.rest]; rfl, h.others⟩

theorem onlySensor_spUpd (h : OnlySensor s t p) (f : SpState → SpState) : OnlySensor s (t.spUpd p f) p :=
  ⟨by rw [h.rest]; rfl, fun q hq => (State.spUpd_get_ne t f hq).trans (h.others q hq)⟩

theorem onlySensor_qdUpd (h : OnlySensor s t p) (f : QueueDec → QueueDec) : OnlySensor s (t.qdUpd p f) p := onlySensor_spUpd h _

theorem onlySensor_ite (h : OnlySensor s t p) (k : OnlySensor s u p) (c : Prop) [Decidable c] :
    OnlySensor s (if c then t else u) p := by
  split <;> assumption

theorem onlySensor_ieqParity (h : OnlySensor s t p) (e : IeqEntry) : OnlySensor s (t.ieqParity p e) p := by
  have hp := onlyRegs_ieqParity t p e
  exact ⟨by rw [hp, h.rest], fun q hq => by rw [hp]; exact h.others q hq⟩

theorem onlySensor_lossOut (h : OnlySensor s t p) (bytes cause : Nat) : OnlySensor s (t.lossOut p bytes cause) p :=
  onlySensor_setReg (onlySensor_setReg (onlySensor_spUpd h _) _ _ _) _ _ _

theorem onlySensor_queueMarker (h : OnlySensor s t p) (e : IeqEntry) : OnlySensor s (t.queueMarker p e) p :=
  onlySensor_ite (onlySensor_lossOut (onlySensor_qdUpd h _) _ _)
    (onlySensor_ite (onlySensor_spUpd (onlySensor_qdUpd h _) _) (onlySensor_qdUpd h _) _) _

theorem onlySensor_queueDecode (h : OnlySensor s t p) (e : IeqEntry) (unchk : Bool) : OnlySensor s (t.queueDecode p e unchk) p :=
  foldl_keeps (OnlySensor s · p) _ (fun _ _ hu => onlySensor_ite (onlySensor_setReg hu _ _ _)
    (onlySensor_setReg (onlySensor_spUpd hu _) _ _ _) _) _ _ (onlySensor_qdUpd h _)

theorem onlySensor_queueEntry (h : OnlySensor s t p) (e : IeqEntry) (rest : List IeqEntry) :
    OnlySensor s (t.queueEntry p e rest) p := by
  have hp := onlySensor_ieqParity h e
  unfold State.queueEntry
  dsimp only
  refine onlySensor_ite (onlySensor_qdUpd hp _) ?_ _
  have hresync := onlySensor_ite (onlySensor_qdUpd (onlySensor_lossOut hp ((t.ieqParity p e).sp.get p).qd.lost 0) fun _ => {}) hp
    (((t.ieqParity p e).sp.get p).qd.resync = true)
  refine onlySensor_ite (onlySensor_queueMarker hresync e) ?_ _
  have hread := fun f g => onlySensor_qdUpd (onlySensor_ite (onlySensor_qdUpd hresync f) hresync (e.sop = true)) g
  split
  · exact onlySensor_ite (onlySensor_qdUpd (onlySensor_lossOut (onlySensor_qdUpd (hread _ _) _) _ _) _) (onlySensor_qdUpd (hread _ _) _) _
  · exact onlySensor_ite (onlySensor_qdUpd (onlySensor_lossOut (hread _ _) _ _) _)
      (onlySensor_ite (onlySensor_qdUpd (onlySensor_queueDecode (hread _ _) _ _) _) (onlySensor_queueDecode (hread _ _) _ _) _) _

/-! ### The queue decoder reads an entry (R143) -/

/-- R133: an error of the microcode is recorded in registers of the port and in the decoder's copy. -/
def ucErrorRegs : List Nat := [R.SP_CNT3, R.PG_ERR_LOG1, R.PG_ERR_LOG3]

theorem onlySensor_ucError (s : State) (p : Fin 8) (front : Bool) (uc : Option (Fin 255 × Bool)) :
    OnlySensor s (s.ucError p front uc) p := by
  have h := onlySensor_refl s p
  unfold State.ucError
  split
  · exact h
  · exact onlySensor_setReg h _ _ _
  · exact onlySensor_setReg (onlySensor_setReg (onlySensor_setReg (onlySensor_spUpd h _) _ _ _) _ _ _) _ _ _

theorem pageKept_ucError (s : State) (p : Fin 8) (front : Bool) (uc : Option (Fin 255 × Bool)) :
    PageKept s (s.ucError p front uc) (PG.sp p) ucErrorRegs := by
  have h := pageKept_refl s (PG.sp p) ucErrorRegs
  unfold State.ucError
  split
  · exact h
  · exact pageKept_setReg h (by decide) (by decide) _
  · exact pageKept_setReg (pageKept_setReg (pageKept_setReg (pageKept_of_regs h rfl) (by decide) (by decide) _) (by decide) (by decide) _)
      (by decide) (by decide) _

theorem State.toSieve_ucError (s : State) (p : Fin 8) (front : Bool) (uc : Option (Fin 255 × Bool)) :
    ((s.ucError p front uc).sp.get p).toSieve = (s.sp.get p).toSieve := by
  unfold State.ucError
  split
  · rfl
  · rfl
  · refine (congrArg SpState.toSieve (s.spUpd_get p _)).trans ?_
    split <;> rfl

/-- Whether the queue decoder may read hangs on the power, the enables and handshakes of the port's pages, the port's enable, the
queue's mode, the surface's fill, and on the words that wait at the Sieve. -/
theorem queueMayRead_congr (hoff : t.off = s.off) (hreset : t.inReset = s.inReset)
    (hsieve : (t.sp.get p).toSieve = (s.sp.get p).toSieve)
    (hreg : ∀ page o, o ∈ [R.PG_CTL, R.PG_PWR, R.SP_CTL, R.IEQ_CTL, R.SFS_STS] → t.reg page o = s.reg page o) :
    t.queueMayRead p = s.queueMayRead p := by
  have hbit : ∀ page o i, o ∈ [R.PG_CTL, R.PG_PWR, R.SP_CTL, R.IEQ_CTL, R.SFS_STS] → t.bit page o i = s.bit page o i :=
    fun page o i ho => congrArg (bitAt · i) (hreg page o ho)
  have hstop : ∀ page, t.stopped page = s.stopped page := fun page => by
    rw [State.stopped, State.fld, hreg page _ (by decide), State.stopped, State.fld]
  have henabled : ∀ page, t.enabled page = s.enabled page := fun page => hbit page _ 0 (by decide)
  have hquiesced : ∀ page, t.quiesced page = s.quiesced page := fun page => hbit page _ 1 (by decide)
  have hisOff : ∀ page, t.isOff page = s.isOff page := fun page => by rw [State.isOff, hoff, State.isOff]
  have hresetting : ∀ page, t.resetting page = s.resetting page := fun page => by rw [State.resetting, hreset, State.resetting]
  simp only [State.queueMayRead, State.ieqRuns, State.running, State.pageState, State.alive, State.spEn, State.ieqRaw, hstop, henabled,
    hquiesced, hisOff, hresetting, hsieve, hbit _ R.SP_CTL _ (by decide)]
  rfl

/-- Parity at the head cannot hold a packet back that was ready without it. -/
theorem queueHeadReady_parity {e : IeqEntry} {r : List IeqEntry} {n : Fin 3} (hs : (s.ieq.get p).q = e :: r)
    (ht : (t.ieq.get p).q = { e with parity := n } :: r) (hclean : e.parity = 0)
    (hctl : t.reg (PG.sp p) R.SP_CTL = s.reg (PG.sp p) R.SP_CTL) (h : s.queueHeadReady p = true) : t.queueHeadReady p = true := by
  have heop : (packetEop ({ e with parity := n } :: r)).isSome = (packetEop (e :: r)).isSome := by
    simp only [packetEop]
    split <;> rfl
  have hcut : packetCutShort ({ e with parity := n } :: r) = packetCutShort (e :: r) := by simp only [packetCutShort]
  unfold State.queueHeadReady at h ⊢
  rw [hs] at h
  rw [ht]
  have hnot : ¬ (0 : Fin 3) = 2 := by decide
  simp only [hclean, State.bit, hctl, heop, hcut, Bool.or_eq_true, decide_eq_true_eq] at h ⊢
  tauto

/-- R143: an entry that may be read leaves the queue. -/
theorem State.queueRead_takes {e : IeqEntry} {r : List IeqEntry} (hq : (s.ieq.get p).q = e :: r)
    (hmay : (s.queueMayRead p && s.queueHeadReady p) = true) :
    s.queueRead p = (s.ieqUpd p fun q => { q with q := r }).queueEntry p e r := by
  unfold State.queueRead
  simp only [hq]
  exact if_pos hmay

theorem State.queueHead_of_ready (h : s.queueHeadReady p = true) : ∃ e r, (s.ieq.get p).q = e :: r := by
  cases hq : (s.ieq.get p).q with
  | nil =>
    rw [State.queueHeadReady, hq] at h
    cases h
  | cons e r => exact ⟨e, r, rfl⟩

theorem exec_ieqEntryRead_waits (hraw : s.rawWants p = false) (hnot : (s.queueMayRead p && s.queueHeadReady p) = false) (k : Fin 3)
    (uc : Option (Fin 255 × Bool)) : exec (.ieqEntryRead p k uc) s = .next s := by
  rw [exec_ieqEntryRead, execIeqEntryRead, if_neg (Bool.eq_false_iff.mp hraw), if_neg (Bool.eq_false_iff.mp hnot), State.ends_self]

theorem exec_ieqEntryRead_takes (hraw : s.rawWants p = false) (hclean : ∀ e r, (s.ieq.get p).q = e :: r → e.parity = 0)
    (hmay : (s.queueMayRead p && s.queueHeadReady p) = true) (k : Fin 3) (uc : Option (Fin 255 × Bool)) :
    ∃ t, exec (.ieqEntryRead p k uc) s = .next t ∧ (t.ieq.get p).q = (s.ieq.get p).q.tail ∧
      (∀ q, q ≠ p → t.ieq.get q = s.ieq.get q ∧ t.sp.get q = s.sp.get q) := by
  obtain ⟨hcan, hready⟩ := (Bool.and_eq_true _ _).mp hmay
  obtain ⟨e, r, hq⟩ := State.queueHead_of_ready hready
  obtain ⟨n, hget⟩ := State.headParity_cons hq k
  have hhead := onlyQueue_headParity s p k
  generalize hv : s.headParity p k = v at hget hhead
  have huc := onlySensor_ucError v p false uc
  have hkept := pageKept_ucError v p false uc
  have hsieve := v.toSieve_ucError p false uc
  generalize hu : v.ucError p false uc = u at huc hkept hsieve
  have hieq : u.ieq = v.ieq := huc.ieq
  have huq : (u.ieq.get p).q = { e with parity := n } :: r := by rw [hieq, hget]
  have hreg : ∀ page o, o < 0x10000 → o ∉ ucErrorRegs → u.reg page o = s.reg page o := fun page o ho hl =>
    (hkept page o ho (.inr hl)).trans (hhead.kept page o ho (.inr List.not_mem_nil))
  have hcan' : u.queueMayRead p = true := by
    rw [← hcan]
    refine queueMayRead_congr ?_ ?_ (by rw [hsieve, hhead.sp]) fun page o ho => ?_
    · rw [huc.rest, hhead.rest]
    · rw [huc.rest, hhead.rest]
    · have hregs : ∀ o ∈ [R.PG_CTL, R.PG_PWR, R.SP_CTL, R.IEQ_CTL, R.SFS_STS], o < 0x10000 ∧ o ∉ ucErrorRegs := by decide
      exact hreg page o (hregs o ho).1 (hregs o ho).2
  have hready' := queueHeadReady_parity hq huq (hclean e r hq) (hreg _ R.SP_CTL (by decide) (by decide)) hready
  have hentry := onlySensor_queueEntry (onlySensor_refl (u.ieqUpd p fun q => { q with q := r }) p) { e with parity := n } r
  rw [exec_ieqEntryRead, execIeqEntryRead, if_neg (Bool.eq_false_iff.mp hraw), if_pos hmay, hv, hu,
    State.queueRead_takes huq (by rw [hcan', hready']; rfl), State.ends_eq]
  have hres : ((u.ieqUpd p fun q => { q with q := r }).queueEntry p { e with parity := n } r).ieq = (u.ieqUpd p fun q =>
      { q with q := r }).ieq := hentry.ieq
  refine ⟨_, rfl, ?_, fun q hqp => ⟨?_, ?_⟩⟩
  · refine (congrArg (fun x : Vector IeqState 8 => (x.get p).q) hres).trans ?_
    rw [State.ieqUpd_get, hq]
    rfl
  · refine (congrArg (fun x : Vector IeqState 8 => x.get q) hres).trans ?_
    rw [State.ieqUpd_get_ne _ _ hqp, hieq, hhead.others q hqp]
  · refine (hentry.others q hqp).trans ?_
    rw [State.ieqUpd_sp, huc.others q hqp, hhead.sp]

/-- R141, R143: a clean entry of a Frame Start or Frame End marker hands its marker word to the Sieve where MARK_EN is set. -/
theorem State.queueEntry_marker {e : IeqEntry} (hmark : e.mark = true) (hclean : e.parity = 0) (hsync : (s.sp.get p).qd.resync = false)
    (hframe : leNat (e.bytes.take 1) ≠ 0x80) (hen : s.bit (PG.sp p) R.SP_CTL 6 = true) (r : List IeqEntry) :
    s.queueEntry p e r = (s.qdUpd p fun _ => {}).toSieve p
      [markerWord p s.iet (leNat ((e.bytes.drop 2).take 2)) (decide (leNat (e.bytes.take 1) = 1))] := by
  have hparity : s.ieqParity p e = s := if_pos hclean
  have hmarker : s.queueEntry p e r = s.queueMarker p e := by
    unfold State.queueEntry
    simp [hparity, hclean, hsync, hmark]
  rw [hmarker, State.queueMarker]
  exact (if_neg hframe).trans (if_pos hen)

theorem exec_ieqEntryRead_marker {e : IeqEntry} {r : List IeqEntry} (hq : (s.ieq.get p).q = e :: r) (hraw : s.rawWants p = false)
    (hcan : s.queueMayRead p = true) (hmark : e.mark = true) (hclean : e.parity = 0) (hsync : (s.sp.get p).qd.resync = false)
    (hframe : leNat (e.bytes.take 1) ≠ 0x80) (hen : s.bit (PG.sp p) R.SP_CTL 6 = true) :
    ∃ t, exec (.ieqEntryRead p 0 none) s = .next t ∧ (t.ieq.get p).q = r ∧
      (t.sp.get p).toSieve = [markerWord p s.iet (leNat ((e.bytes.drop 2).take 2)) (decide (leNat (e.bytes.take 1) = 1))] ∧
      t = { s with ieq := t.ieq, sp := t.sp } := by
  have hready : s.queueHeadReady p = true := by simp [State.queueHeadReady, hq, hmark]
  have hmay : (s.queueMayRead p && s.queueHeadReady p) = true := by rw [hcan, hready]; rfl
  have hempty : (s.sp.get p).toSieve = [] := by
    simp only [State.queueMayRead, Bool.and_eq_true, List.isEmpty_iff] at hcan
    exact hcan.1.2
  rw [exec_ieqEntryRead, execIeqEntryRead, if_neg (Bool.eq_false_iff.mp hraw), if_pos hmay, State.headParity_zero, State.ucError,
    State.queueRead_takes hq hmay, State.queueEntry_marker (s := s.ieqUpd p fun q => { q with q := r }) hmark hclean hsync hframe hen]
  refine ⟨_, State.ends_of rfl rfl, congrArg IeqState.q (s.ieqUpd_get p _), ?_, rfl⟩
  refine (congrArg SpState.toSieve (State.spUpd_get _ p _)).trans ?_
  refine (congrArg (· ++ _) (congrArg SpState.toSieve (State.spUpd_get _ p _))).trans ?_
  exact congrArg (· ++ _) hempty

/-! ### IEQ_CMD (R142, R146) -/

theorem State.ieqWrite_cmd {w : Wr} (h : w.reg = R.IEQ_CMD) : s.ieqWrite p w = s.ieqCmd p w :=
  (if_neg (by rw [h]; decide)).trans (if_pos h)

theorem State.ieqWr_cmd (hw : Writable s (PG.ieq p)) (ini : Initiator) (v : Word) :
    s.ieqWr ini p R.IEQ_CMD v = s.ieqCmd p (.full ini R.IEQ_CMD v) :=
  (State.gate_writable hw _ _).trans (State.ieqWrite_cmd (Wr.full_reg ini R.IEQ_CMD v))

/-- Nothing changes but registers, ingress queues and sensor ports. -/
def OnlyCapture (s t : State) : Prop := t = { s with regs := t.regs, ieq := t.ieq, sp := t.sp }

theorem onlyCapture_refl (s : State) : OnlyCapture s s := rfl

theorem onlyCapture_of_onlyRegs (h : OnlyCapture s t) (k : OnlyRegs t u) : OnlyCapture s u := by
  unfold OnlyCapture at h ⊢
  rw [k, h]

theorem onlyCapture_ieqUpd (h : OnlyCapture s t) (p : Fin 8) (f : IeqState → IeqState) : OnlyCapture s (t.ieqUpd p f) := by
  unfold OnlyCapture at h ⊢
  rw [h]
  rfl

theorem onlyCapture_spUpd (h : OnlyCapture s t) (p : Fin 8) (f : SpState → SpState) : OnlyCapture s (t.spUpd p f) := by
  unfold OnlyCapture at h ⊢
  rw [h]
  rfl

theorem onlyCapture_setReg (h : OnlyCapture s t) (page o : Nat) (v : Word) : OnlyCapture s (t.setReg page o v) :=
  onlyCapture_of_onlyRegs h (onlyRegs_setReg (onlyRegs_refl t) page o v)

theorem onlyCapture_lossOut (h : OnlyCapture s t) (p : Fin 8) (bytes cause : Nat) : OnlyCapture s (t.lossOut p bytes cause) :=
  onlyCapture_setReg (onlyCapture_setReg (onlyCapture_spUpd h _ _) _ _ _) _ _ _

theorem ends_of_onlyCapture (h : OnlyCapture s t) : s.ends t = .next t := by
  unfold OnlyCapture at h
  exact State.ends_of (by rw [h]) (by rw [h])

theorem exec_dropPkt_writable (hw : Writable s (PG.ieq p)) (ini : Initiator) :
    exec (.dropPkt ini p) s = s.ends (s.dropPacket p) := by
  have hdrop : bitAt (1 : Word) 0 = true := by decide
  have hpop : bitAt (1 : Word) 1 = false := by decide
  rw [exec_dropPkt, execDropPkt, State.ieqWr_cmd hw]
  simp only [State.ieqCmd, Wr.full_val, hdrop, hpop, if_true, Bool.false_eq_true, if_false]

theorem exec_dropPkt_none (hw : Writable s (PG.ieq p)) (hcur : (s.sp.get p).qd.current = false) (ini : Initiator) :
    exec (.dropPkt ini p) s = .next (s.setBit (PG.ieq p) R.IEQ_STS 19 true) := by
  rw [exec_dropPkt_writable hw, State.dropPacket, if_pos (by rw [hcur]; rfl)]
  exact State.ends_of rfl rfl

/-- R142: what a drop discards changes queues and ports only, and no word at the Sieve. -/
theorem State.dropRest_rest (s : State) (p : Fin 8) :
    (s.dropRest p).2.regs = s.regs ∧ OnlyCapture s (s.dropRest p).2 ∧
      ((s.dropRest p).2.sp.get p).toSieve = (s.sp.get p).toSieve := by
  unfold State.dropRest
  dsimp only
  split
  · exact ⟨rfl, rfl, rfl⟩
  · split
    · exact ⟨rfl, rfl, rfl⟩
    · split
      · exact ⟨rfl, rfl, by rw [State.spUpd_get]; rfl⟩
      · exact ⟨rfl, rfl, rfl⟩

theorem exec_dropPkt_drops (hw : Writable s (PG.ieq p)) (hcur : (s.sp.get p).qd.current = true) (hraw : s.ieqRaw p = false)
    (ini : Initiator) :
    ∃ t, exec (.dropPkt ini p) s = .next t ∧ Counted s t (PG.ieq p) R.IEQ_CNT1 16 16 1 ∧
      (t.sp.get p).toSieve = (s.sp.get p).toSieve ++ [lossWord p s.iet (s.dropRest p).1 2] ∧ (t.sp.get p).qd = {} ∧
      t.bit (PG.sp p) R.PG_IRQ_RAW 5 = true ∧ t = { s with regs := t.regs, ieq := t.ieq, sp := t.sp } := by
  obtain ⟨hregs, hrest, hsieve⟩ := s.dropRest_rest p
  generalize hu : (s.dropRest p).2 = u at hregs hrest hsieve
  generalize hn : (s.dropRest p).1 = n
  generalize hv : (u.bump (PG.ieq p) R.IEQ_CNT1 16 16).qdUpd p (fun _ => {}) = v
  have hvrest : OnlyCapture s v := by
    rw [← hv]
    exact onlyCapture_spUpd (onlyCapture_setReg hrest _ _ _) _ _
  have hvget : v.sp.get p = { u.sp.get p with qd := {} } := by
    rw [← hv]
    exact State.spUpd_get _ p _
  have hviet : v.iet = s.iet := by rw [hvrest]; rfl
  have hraw' : v.ieqRaw p = false := by
    rw [← hv, ← hraw]
    exact congrArg (bitAt · 0) ((State.reg_setFld_off u (by decide)).trans (State.reg_congr hregs _ _))
  have hdrop : s.dropPacket p = v.lossOut p n 2 := by
    unfold State.dropPacket
    simp only [hcur, Bool.not_true, Bool.false_eq_true, if_false, hu, hn, hv]
    exact if_neg (Bool.eq_false_iff.mp hraw')
  have hcounted : Counted s (u.bump (PG.ieq p) R.IEQ_CNT1 16 16) (PG.ieq p) R.IEQ_CNT1 16 16 1 :=
    counted_bump (State.reg_congr hregs _ _) (by decide)
  have hlost := State.spUpd_get v p fun x => { x with toSieve := x.toSieve ++ [lossWord p v.iet n 2] }
  have hlrest := onlyCapture_lossOut hvrest p n 2
  rw [exec_dropPkt_writable hw, hdrop]
  refine ⟨_, ends_of_onlyCapture hlrest, ?_, ?_, ?_, State.irq_bit _ _ _ (by decide), hlrest⟩
  · rw [Counted] at hcounted ⊢
    rw [← hcounted, ← hv]
    refine congrArg (bf · 16 16) ((State.reg_setReg_ne _ _ ?_).trans (State.reg_setReg_ne _ _ ?_))
    all_goals exact rkey_ne (by decide) (by decide) (.inl (PG.ieq_ne_sp p p).symm)
  · exact (congrArg SpState.toSieve hlost).trans (by rw [hvget, hviet, ← hsieve])
  · exact (congrArg SpState.qd hlost).trans (by rw [hvget])

/-! ### A pop in raw mode (R140, R146) -/

theorem exec_ieqPop_writable (hw : Writable s (PG.ieq p)) (ini : Initiator) :
    exec (.ieqPop ini p 0) s = s.ends (s.rawPop p (.full ini R.IEQ_CMD 2)) := by
  have hdrop : bitAt (2 : Word) 0 = false := by decide
  have hpop : bitAt (2 : Word) 1 = true := by decide
  rw [exec_ieqPop, execIeqPop, State.headParity_zero, ite_self, State.ieqWr_cmd hw]
  simp only [State.ieqCmd, Wr.full_val, hdrop, hpop, if_true, Bool.false_eq_true, if_false]

theorem exec_ieqPop_refused (hw : Writable s (PG.ieq p)) (h : s.ieqRaw p = false ∨ (s.ieq.get p).dma.isSome = true) (ini : Initiator) :
    exec (.ieqPop ini p 0) s = .next (s.logWr (PG.ieq p) (.full ini R.IEQ_CMD 2) .state) := by
  have hstate : (s.ieq.get p).dma.isSome = true ∨ (!s.ieqRaw p) = true := by rcases h with h | h <;> simp [h]
  rw [exec_ieqPop_writable hw, State.rawPop, if_pos hstate]
  exact ends_of_onlyRegs (onlyRegs_logWr s _ _ _)

theorem exec_ieqPop_empty (hw : Writable s (PG.ieq p)) (hraw : s.ieqRaw p = true) (hdma : (s.ieq.get p).dma = none)
    (hq : (s.ieq.get p).q = []) (ini : Initiator) :
    exec (.ieqPop ini p 0) s = .next ((s.setBit (PG.ieq p) R.IEQ_STS 16 true).irq (PG.ieq p) 2) := by
  rw [exec_ieqPop_writable hw, State.rawPop, if_neg (by simp [hraw, hdma]), hq]
  exact State.ends_of rfl rfl

/-- Registers at places of their own, each written once, read what they were given. -/
theorem State.reg_foldl_setReg (s : State) (page : Nat) {off : Nat → Nat} (val : Nat → Word) (hinj : Function.Injective off) {n i : Nat}
    (hi : i < n) : ((List.range n).foldl (fun s i => s.setReg page (off i) (val i)) s).reg page (off i) = val i := by
  induction n with
  | zero => omega
  | succ n ih =>
    rw [List.range_succ, List.foldl_append]
    show (State.setReg _ page (off n) (val n)).reg page (off i) = val i
    by_cases hin : i = n
    · rw [hin, State.reg_setReg_self]
    · rw [State.reg_setReg_off _ _ (fun h => hin (hinj h)), ih (by omega)]

theorem IEQ_RAW_D_injective : Function.Injective R.IEQ_RAW_D := fun i j h => by
  unfold R.IEQ_RAW_D at h
  omega

/-- R146: the four words of the holding register take an entry's bytes. -/
def State.rawHeld (s : State) (p : Fin 8) (e : IeqEntry) : State :=
  (List.range 4).foldl (fun s i => s.setReg (PG.ieq p) (R.IEQ_RAW_D i) (wOfNat (leNat ((e.bytes.drop (8 * i)).take 8)))) s

theorem onlyRegs_rawHeld (s : State) (p : Fin 8) (e : IeqEntry) : OnlyRegs s (s.rawHeld p e) :=
  foldl_keeps (OnlyRegs s) _ (fun _ _ hu => onlyRegs_setReg hu _ _ _) _ _ (onlyRegs_refl s)

theorem exec_ieqPop_takes (hw : Writable s (PG.ieq p)) {e : IeqEntry} {r : List IeqEntry} (hraw : s.ieqRaw p = true)
    (hdma : (s.ieq.get p).dma = none) (hq : (s.ieq.get p).q = e :: r) (ini : Initiator) :
    ∃ t, exec (.ieqPop ini p 0) s = .next t ∧ (t.ieq.get p).q = r ∧ t.reg (PG.ieq p) R.IEQ_RAW_TAG = wOfNat e.tag ∧
      (∀ i, i < 4 → t.reg (PG.ieq p) (R.IEQ_RAW_D i) = wOfNat (leNat ((e.bytes.drop (8 * i)).take 8))) ∧
      t = { s with regs := t.regs, ieq := t.ieq, sp := t.sp } := by
  generalize hv : (s.ieqUpd p fun q => { q with q := r }) = v
  have hvrest : OnlyCapture s v ∧ (v.ieq.get p).q = r := by
    rw [← hv, State.ieqUpd_get]
    exact ⟨onlyCapture_ieqUpd (onlyCapture_refl s) p _, rfl⟩
  generalize hu : (v.ieqParity p e).rawHeld p e = u
  have hregs : OnlyRegs (v.ieqParity p e) u := by
    rw [← hu]
    exact onlyRegs_rawHeld _ p e
  have huq : (u.ieq.get p).q = r := by
    rw [onlyRegs_read hregs State.ieq fun _ _ => rfl, onlyRegs_read (onlyRegs_ieqParity v p e) State.ieq fun _ _ => rfl, hvrest.2]
  have hurest := onlyCapture_of_onlyRegs (onlyCapture_of_onlyRegs hvrest.1 (onlyRegs_ieqParity v p e)) hregs
  generalize hx : (u.setReg (PG.ieq p) R.IEQ_RAW_TAG (wOfNat e.tag)).qdUpd p (fun q => { q with current := !e.eop }) = x
  have hxrest : OnlyCapture s x ∧ (x.ieq.get p).q = r := by
    rw [← hx]
    refine ⟨onlyCapture_spUpd (onlyCapture_setReg hurest _ _ _) p _, ?_⟩
    rw [State.qdUpd, State.spUpd_ieq, State.setReg_ieq, huq]
  have hpop : s.rawPop p (.full ini R.IEQ_CMD 2) = if r.isEmpty then x else x.irq (PG.ieq p) 3 := by
    rw [← hx, ← hu, ← hv]
    unfold State.rawPop
    simp only [hq]
    exact if_neg (by simp [hraw, hdma])
  have htag : x.reg (PG.ieq p) R.IEQ_RAW_TAG = wOfNat e.tag := by rw [← hx, State.qdUpd, State.reg_spUpd, State.reg_setReg_self]
  have hheld : ∀ i, i < 4 → x.reg (PG.ieq p) (R.IEQ_RAW_D i) = wOfNat (leNat ((e.bytes.drop (8 * i)).take 8)) := by
    intro i hi
    rw [← hx, State.qdUpd, State.reg_spUpd, State.reg_setReg_off _ _ (by unfold R.IEQ_RAW_D R.IEQ_RAW_TAG; omega), ← hu]
    exact State.reg_foldl_setReg _ _ _ IEQ_RAW_D_injective hi
  rw [exec_ieqPop_writable hw, hpop]
  split
  · exact ⟨x, ends_of_onlyCapture hxrest.1, hxrest.2, htag, hheld, hxrest.1⟩
  · have hirq := onlyCapture_setReg hxrest.1 (PG.ieq p) R.PG_IRQ_RAW (putBit (x.reg (PG.ieq p) R.PG_IRQ_RAW) 3 true)
    exact ⟨_, ends_of_onlyCapture hirq, by rw [State.irq_ieq, hxrest.2], (State.reg_setBit_off _ (by decide)).trans htag,
      fun i hi => (State.reg_setBit_off _ (by unfold R.IEQ_RAW_D R.PG_IRQ_RAW; omega)).trans (hheld i hi), hirq⟩

/-- Settles O14: an entry leaves the queue to the raw read that runs, or to the queue decoder where it may read; IEQ_CMD by the mode
and the packet that is current. What a drop counts as lost is the model's choice (log 57). -/
theorem ingressQueueEntries : Obligations.IngressQueueEntries := by
  intro p s
  refine ⟨exec_ieqTailTimeout_early, fun o rx => exec_ieqTailTimeout_due, fun k uc d hd hmore => ⟨fun hq => ?_, fun e r hq => ?_⟩,
    fun k uc hraw hclean => ⟨fun hnot => ?_, fun hmay => ?_⟩, fun e r hq hraw hcan hmark hclean hsync hframe hen => ?_,
    fun ini hw => ⟨fun hcur => ?_, fun hcur hraw => ?_, fun h => ?_, fun hraw hdma hq => ?_, fun e r hraw hdma hq => ?_⟩⟩
  · exact exec_ieqEntryRead_raw_empty hd hmore hq k uc
  · exact exec_ieqEntryRead_raw_moves hd hmore hq k uc
  · exact exec_ieqEntryRead_waits hraw hnot k uc
  · exact exec_ieqEntryRead_takes hraw hclean hmay k uc
  · exact exec_ieqEntryRead_marker hq hraw hcan hmark hclean hsync hframe hen
  · exact exec_dropPkt_none hw hcur ini
  · exact exec_dropPkt_drops hw hcur hraw ini
  · exact exec_ieqPop_refused hw h ini
  · exact exec_ieqPop_empty hw hraw hdma hq ini
  · exact exec_ieqPop_takes hw hraw hdma hq ini

end

end Sys2Proof.Machine
end

section
/-!
PROOFS. A ledger item from its opening to the completion that waits (R431, R471, R473).
-/

namespace Sys2Proof.Machine

section
variable {s t u : State} {page cq idx detail : Nat} {st : Status} {it : Item}

/-! ### Opening (R431) -/

/-- With fewer items than indices, one index is left. -/
theorem exists_unused_slot {l : List Item} (h : l.length < ledgerItems) :
    ∃ j, j < ledgerItems ∧ (l.any fun it => it.idx % ledgerItems == j) = false := by
  by_contra hall
  simp only [not_exists, not_and, Bool.not_eq_false] at hall
  have hsub : List.range ledgerItems ⊆ l.map fun it => it.idx % ledgerItems := by
    intro j hj
    obtain ⟨it, hmem, hit⟩ := List.any_eq_true.mp (hall j (List.mem_range.mp hj))
    exact List.mem_map.mpr ⟨it, hmem, eq_of_beq hit⟩
  have hle := (List.subperm_of_subset List.nodup_range hsub).length_le
  rw [List.length_range, List.length_map] at hle
  omega

theorem State.itemFree_lt (h : s.itemFree .ordinary = true) : s.ldg.items.length < ledgerItems := by
  have hfree : s.reserve < ledgerItems - s.ldg.items.length := of_decide_eq_true h
  omega

/-- An item in flight has the index, modulo the number of indices. -/
def State.slotUsed (s : State) (j : Nat) : Bool := s.ldg.items.any fun it => it.idx % ledgerItems == j

theorem State.pickItem_eq (s : State) (i : Nat) : s.pickItem i =
    (if s.slotUsed (Config.itemPick i % ledgerItems) then ((List.range ledgerItems).find? fun j => !s.slotUsed j).getD 0
      else Config.itemPick i % ledgerItems) + ledgerItems * i := rfl

theorem State.pickItem_slot (h : s.itemFree .ordinary = true) (i : Nat) :
    ∃ c, c < ledgerItems ∧ s.pickItem i = c + ledgerItems * i ∧ s.slotUsed c = false := by
  rw [State.pickItem_eq]
  split
  · obtain ⟨j, hj, hunused⟩ := exists_unused_slot (State.itemFree_lt h)
    have hsome : ((List.range ledgerItems).find? fun j => !s.slotUsed j).isSome = true :=
      List.find?_isSome.mpr ⟨j, List.mem_range.mpr hj, by rw [State.slotUsed, hunused]; rfl⟩
    obtain ⟨c, hc⟩ := Option.isSome_iff_exists.mp hsome
    exact ⟨c, List.mem_range.mp (List.mem_of_find?_eq_some hc), by rw [hc]; rfl, by simpa using List.find?_some hc⟩
  · next hused => exact ⟨_, Nat.mod_lt _ (by decide), rfl, Bool.eq_false_iff.mpr hused⟩

/-- R431: where an item is free, no item in flight has the index picked. -/
theorem State.pickItem_unused (h : s.itemFree .ordinary = true) (i : Nat) : ∀ it ∈ s.ldg.items, it.idx ≠ s.pickItem i := by
  obtain ⟨c, hlt, hpick, hunused⟩ := State.pickItem_slot h i
  intro it hit heq
  have hmod : it.idx % ledgerItems = c := by rw [heq, hpick, Nat.add_mul_mod_self_left, Nat.mod_eq_of_lt hlt]
  simpa [hmod] using List.any_eq_false.mp hunused it hit

/-- R431: the item that a job start of page and queue opens. -/
def State.newItem (s : State) (page cq : Nat) : Item :=
  { idx := s.pickItem s.free, page, cq, load := false, tag := 0, opened := s.dtc, poisoned := false, closed := false,
    epoch := s.fld page R.PG_STS 16 16 }

/-- R431: the state with the item of a job start opened. -/
def State.withItem (s : State) (page cq : Nat) : State :=
  { s with free := s.free + 1, ldg := { s.ldg with items := s.ldg.items ++ [s.newItem page cq] } }

theorem State.openItem_eq (s : State) (page cq : Nat) : s.openItem page cq 0 false = (s.pickItem s.free, s.withItem page cq) := rfl

theorem opened_withItem (s : State) (page cq : Nat) : Opened s (s.withItem page cq) page cq (s.pickItem s.free) :=
  ⟨_, rfl, rfl, rfl, rfl, rfl⟩

theorem State.item?_withItem (h : s.itemFree .ordinary = true) (page cq : Nat) :
    (s.withItem page cq).item? (s.pickItem s.free) = some (s.newItem page cq) := by
  have hold : s.ldg.items.find? (fun i => i.idx == s.pickItem s.free && !i.closed) = none :=
    List.find?_eq_none.mpr fun it hit => by simp [State.pickItem_unused h s.free it hit]
  show (s.ldg.items ++ [s.newItem page cq]).find? _ = _
  rw [List.find?_append, hold, Option.none_or, List.find?_cons_of_pos (by simp [State.newItem])]

/-! ### Closing (R473) -/

/-- R473: the completion that an item's first terminal event records. -/
def State.completionOf (s : State) (it : Item) (idx : Nat) (st : Status) (detail : Nat) : Completion :=
  { item := idx, page := it.page, cq := it.cq, status := if it.poisoned then st.worse .failPoison else st, tag := it.tag,
    detail := min detail (2 ^ 32 - 1), stalled := false, zero := !s.bit PG.ldg (R.CQ_CTL it.cq) 0, decided := none }

theorem State.closeItem_ldg (h : s.item? idx = some it) (st : Status) (detail : Nat) : (s.closeItem idx st detail).ldg =
    { s.ldg with items := s.ldg.items.map fun i => if i.idx == idx then { i with closed := true } else i
                 waiting := s.ldg.waiting ++ [s.completionOf it idx st detail] } := by
  simp only [State.closeItem, h]
  rfl

theorem State.closeItem_rest (s : State) (idx : Nat) (st : Status) (detail : Nat) : s.closeItem idx st detail =
    { s with ldg := (s.closeItem idx st detail).ldg, res := (s.closeItem idx st detail).res } := by
  unfold State.closeItem
  split <;> rfl

theorem State.item?_closeItem (h : s.item? idx = some it) (st : Status) (detail : Nat) : (s.closeItem idx st detail).item? idx = none := by
  unfold State.item?
  rw [State.closeItem_ldg h]
  refine List.find?_eq_none.mpr fun i hi => ?_
  obtain ⟨j, -, rfl⟩ := List.mem_map.mp hi
  split
  · simp
  · next hne => simp [hne]

theorem completed_closeItem (h : s.item? idx = some it) (detail : Nat) (hst : (if it.poisoned then st.worse .failPoison else st) = st') :
    Completed s (s.closeItem idx st detail) idx st' detail :=
  ⟨State.item?_closeItem h _ _, s.completionOf it idx st detail, by rw [State.closeItem_ldg h], rfl, hst, rfl⟩

theorem Running.completed (h : Running s idx) (st : Status) (detail : Nat) : Completed s (s.closeItem idx st detail) idx st detail := by
  obtain ⟨it, hit, hgood⟩ := h
  exact completed_closeItem hit detail (by rw [hgood]; rfl)

/-- R474: dating the items that a reply has ended changes no status and no detail. -/
theorem completed_decided (h : Completed s t idx st detail) : Completed s (s.decided t) idx st detail := by
  obtain ⟨hnone, c, hwait, hitem, hstatus, hdetail⟩ := h
  generalize hmark : (fun d : Completion => if s.ldg.waiting.any fun e => e.item == d.item then d else { d with decided := some t.dtc }) = mark
  have hold : s.ldg.waiting.map mark = s.ldg.waiting := by
    refine (List.map_congr_left fun d hd => ?_).trans (List.map_id _)
    rw [← hmark]
    exact if_pos (List.any_eq_true.mpr ⟨d, hd, beq_self_eq_true d.item⟩)
  refine ⟨hnone, mark c, ?_, ?_, ?_, ?_⟩
  · show t.ldg.waiting.map _ = _
    rw [hmark, hwait, List.map_append, hold]
    rfl
  all_goals
    rw [← hmark]
    dsimp only
    split <;> assumption

theorem State.decided_rest (s t : State) : s.decided t = { t with ldg := (s.decided t).ldg } := rfl

/-! ### A job start with nothing to do (R15) -/

theorem State.emptyJob_eq (s : State) (page cq : Nat) (st : Status) (detail : Nat) :
    s.emptyJob page cq st detail = (s.withItem page cq).closeItem (s.pickItem s.free) st detail := rfl

theorem State.emptyJob_rest (s : State) (page cq : Nat) (st : Status) (detail : Nat) : s.emptyJob page cq st detail =
    { s with ldg := (s.emptyJob page cq st detail).ldg, res := (s.emptyJob page cq st detail).res
             free := (s.emptyJob page cq st detail).free } := by
  rw [State.emptyJob_eq, State.closeItem_rest]
  rfl

theorem startedAndEnded_emptyJob (h : s.itemFree .ordinary = true) (page cq : Nat) (st : Status) (detail : Nat) :
    StartedAndEnded s (s.emptyJob page cq st detail) page cq st := by
  have hitem := State.item?_withItem h page cq
  rw [State.emptyJob_eq]
  refine ⟨?_, (s.withItem page cq).completionOf (s.newItem page cq) (s.pickItem s.free) st detail, ?_, rfl, rfl, rfl⟩
  · rw [State.closeItem_ldg hitem]
    simp [State.withItem]
  · rw [State.closeItem_ldg hitem]
    rfl

/-- A job start that ends at once, as the command's answer. -/
theorem ends_emptyJob (h : s.itemFree .ordinary = true) (page cq : Nat) (st : Status) (detail : Nat) :
    ∃ t, s.ends (s.emptyJob page cq st detail) = .next t ∧ StartedAndEnded s t page cq st ∧
      t = { s with ldg := t.ldg, res := t.res, free := t.free } := by
  have hrest := State.emptyJob_rest s page cq st detail
  exact ⟨_, State.ends_of (by rw [hrest]) (by rw [hrest]), startedAndEnded_emptyJob h _ _ _ _, hrest⟩

theorem onlyRegs_ledgerFull (s : State) (page : Nat) (w : Wr) : OnlyRegs s (s.ledgerFull page w) :=
  onlyRegs_setReg (onlyRegs_setReg (onlyRegs_logWr s page w _) _ _ _) _ _ _

/-! ### Replies that nothing waits for (R471) -/

theorem ends_staleReply (s : State) (page : Nat) : s.ends (s.staleReply page) = .next (s.staleReply page) := by
  refine State.ends_of ?_ ?_ <;>
  · unfold State.staleReply
    split <;> rfl

theorem State.staleReply_noOrphan (h : s.ldg.orphans.any (fun o => o.1 == page) = false) : s.staleReply page = s :=
  State.staleReply_none (List.find?_eq_none.mpr fun o ho => by simpa using List.any_eq_false.mp h o ho)

end

end Sys2Proof.Machine
end

section
/-!
PROOFS. Obligation O16: raw reads of an ingress queue and hot-mask loads (R147, R153, R471).
-/

namespace Sys2Proof.Machine

section
variable {s t u : State} {p : Fin 8}

/-! ### Raw reads (R147) -/

theorem State.ieqWrite_rawGo {w : Wr} (h : w.reg = R.IEQ_RAW_DMA_GO) : s.ieqWrite p w = s.rawDmaGo p w :=
  (if_neg (by rw [h]; decide)).trans ((if_neg (by rw [h]; decide)).trans (if_pos h))

theorem exec_rawGo_writable (hw : Writable s (PG.ieq p)) (ini : Initiator) (v : Word) :
    exec (.ieqRawDmaGo ini p v) s = s.ends (s.rawDmaGo p (.full ini R.IEQ_RAW_DMA_GO v)) := by
  rw [exec_ieqRawDmaGo, execIeqRawDmaGo, State.ieqWr, State.gate_writable hw, State.ieqWrite_rawGo (Wr.full_reg ..)]

theorem exec_rawGo_busy (hw : Writable s (PG.ieq p)) (hrun : (s.ieq.get p).dma.isSome = true) (ini : Initiator) (v : Word) :
    exec (.ieqRawDmaGo ini p v) s = .next (s.logWr (PG.ieq p) (.full ini R.IEQ_RAW_DMA_GO v) .busy) := by
  rw [exec_rawGo_writable hw, State.rawDmaGo, if_pos hrun]
  exact ends_of_onlyRegs (onlyRegs_logWr s _ _ _)

theorem exec_rawGo_ledgerFull (hw : Writable s (PG.ieq p)) (hidle : (s.ieq.get p).dma = none) (hfull : s.itemFree .ordinary = false)
    (ini : Initiator) (v : Word) :
    exec (.ieqRawDmaGo ini p v) s = .next (s.ledgerFull (PG.ieq p) (.full ini R.IEQ_RAW_DMA_GO v)) := by
  rw [exec_rawGo_writable hw, State.rawDmaGo, if_neg (by simp [hidle]), if_pos (by simp [hfull])]
  exact ends_of_onlyRegs (onlyRegs_ledgerFull s _ _)

theorem exec_rawGo_empty (hw : Writable s (PG.ieq p)) (hidle : (s.ieq.get p).dma = none) (hfree : s.itemFree .ordinary = true)
    {v : Word} (hlen : bf v 0 16 = 0) (ini : Initiator) :
    exec (.ieqRawDmaGo ini p v) s = s.ends (s.emptyJob (PG.ieq p) (bf v 16 6) .okEmpty 0) := by
  rw [exec_rawGo_writable hw, State.rawDmaGo, if_neg (by simp [hidle]), if_neg (by simp [hfree]), Wr.full_val, if_pos hlen]

theorem exec_rawGo_invalid (hw : Writable s (PG.ieq p)) (hidle : (s.ieq.get p).dma = none) (hfree : s.itemFree .ordinary = true)
    {v : Word} (hlen : bf v 0 16 ≠ 0) (hbad : s.ieqRaw p = false ∨ (s.reg (PG.ieq p) R.IEQ_RAW_DMA_ADDR).toNat % 64 ≠ 0) (ini : Initiator) :
    exec (.ieqRawDmaGo ini p v) s = s.ends (s.emptyJob (PG.ieq p) (bf v 16 6) .failInvalid 0) := by
  rw [exec_rawGo_writable hw, State.rawDmaGo, if_neg (by simp [hidle]), if_neg (by simp [hfree]), Wr.full_val, if_neg hlen,
    if_pos (by simpa using hbad)]

theorem exec_rawGo_opens (hw : Writable s (PG.ieq p)) (hidle : (s.ieq.get p).dma = none) (hfree : s.itemFree .ordinary = true)
    {v : Word} (hlen : bf v 0 16 ≠ 0) (hraw : s.ieqRaw p = true) (haddr : (s.reg (PG.ieq p) R.IEQ_RAW_DMA_ADDR).toNat % 64 = 0)
    (ini : Initiator) :
    ∃ t d, exec (.ieqRawDmaGo ini p v) s = .next t ∧ (t.ieq.get p).dma = some d ∧
      d.addr = (s.reg (PG.ieq p) R.IEQ_RAW_DMA_ADDR).toNat ∧ d.len = bf v 0 16 ∧ d.moved = 0 ∧
      Opened s t (PG.ieq p) (bf v 16 6) d.item ∧ t = { s with ldg := t.ldg, ieq := t.ieq, free := t.free } := by
  rw [exec_rawGo_writable hw, State.rawDmaGo, if_neg (by simp [hidle]), if_neg (by simp [hfree]), Wr.full_val, if_neg hlen,
    if_neg (by simp [hraw, haddr]), State.openItem_eq]
  exact ⟨_, _, State.ends_of rfl rfl, congrArg IeqState.dma (State.ieqUpd_get _ p _), rfl, rfl, rfl, opened_withItem s _ _, rfl⟩

/-- R147: the state as a raw read leaves its queue, before its item ends. -/
def State.rawIdle (s : State) (p : Fin 8) : State := s.ieqUpd p fun q => { q with dma := none }

theorem State.rawDmaEnd_eq (s : State) (p : Fin 8) (d : RawDma) :
    s.rawDmaEnd p d = (s.rawIdle p).closeItem d.item (if d.moved = 0 then .okEmpty else .ok) d.moved := rfl

theorem State.rawDmaEnd_rest (s : State) (p : Fin 8) (d : RawDma) : s.rawDmaEnd p d =
    { s with ldg := (s.rawDmaEnd p d).ldg, ieq := (s.rawIdle p).ieq, res := (s.rawDmaEnd p d).res } := by
  rw [State.rawDmaEnd_eq, State.closeItem_rest]
  rfl

theorem State.rawIdle_dma (s : State) (p : Fin 8) : ((s.rawIdle p).ieq.get p).dma = none := by
  rw [State.rawIdle, State.ieqUpd_get]

theorem completed_rawDmaEnd {d : RawDma} (h : Running s d.item) :
    Completed s (s.rawDmaEnd p d) d.item (if d.moved = 0 then .okEmpty else .ok) d.moved :=
  Running.completed (s := s.rawIdle p) h _ _

theorem exec_rawDmaDone_end {d : RawDma} (hd : (s.ieq.get p).dma = some d) (hrun : Running s d.item) (hall : d.moved = d.len) :
    ∃ t, exec (.rawDmaDone p) s = .next t ∧ (t.ieq.get p).dma = none ∧
      Completed s t d.item (if d.moved = 0 then .okEmpty else .ok) d.moved ∧ t = { s with ldg := t.ldg, ieq := t.ieq, res := t.res } := by
  have hrest : s.decided (s.rawDmaEnd p d) =
      { s with ldg := (s.decided (s.rawDmaEnd p d)).ldg, ieq := (s.rawIdle p).ieq, res := (s.decided (s.rawDmaEnd p d)).res } := by
    rw [State.decided_rest, State.rawDmaEnd_rest]
  rw [exec_rawDmaDone, execRawDmaDone, hd]
  simp only [if_pos hall]
  exact ⟨_, State.ends_of (by rw [hrest]) (by rw [hrest]), by rw [hrest]; exact State.rawIdle_dma s p,
    completed_decided (completed_rawDmaEnd hrun), by rw [hrest]⟩

theorem exec_rawDmaIdleTimeout_end {d : RawDma} (hd : (s.ieq.get p).dma = some d) (hrun : Running s d.item) (hmore : d.moved < d.len)
    (hq : (s.ieq.get p).q = []) (hidle : 100000 ≤ (s.dtc - d.zeroAt).toNat) :
    ∃ t, exec (.rawDmaIdleTimeout p) s = .next t ∧ (t.ieq.get p).dma = none ∧
      Completed s t d.item (if d.moved = 0 then .okEmpty else .ok) d.moved ∧ t = { s with ldg := t.ldg, ieq := t.ieq, res := t.res } := by
  have hrest := State.rawDmaEnd_rest s p d
  rw [exec_rawDmaIdleTimeout, execRawDmaIdleTimeout, hd]
  simp only [if_pos (show d.moved < d.len ∧ (s.ieq.get p).q.isEmpty = true ∧ 100000 ≤ (s.dtc - d.zeroAt).toNat from
    ⟨hmore, by rw [hq]; rfl, hidle⟩)]
  exact ⟨_, State.ends_of (by rw [hrest]) (by rw [hrest]), by rw [hrest]; exact State.rawIdle_dma s p, completed_rawDmaEnd hrun,
    by rw [hrest]⟩

theorem exec_rawDmaDone_stale (hd : (s.ieq.get p).dma = none) : exec (.rawDmaDone p) s = .next (s.staleReply (PG.ieq p)) := by
  rw [exec_rawDmaDone, execRawDmaDone, hd]
  exact ends_staleReply s _

theorem exec_rawDmaIdleTimeout_none (hd : (s.ieq.get p).dma = none) : exec (.rawDmaIdleTimeout p) s = .next s := by
  rw [exec_rawDmaIdleTimeout, execRawDmaIdleTimeout, hd]
  exact State.ends_self s

/-! ### The start of a hot-mask load (R153) -/

/-- R153: SV_TBL_GO does not start a load of port `p`. -/
def State.hotLoadBad (s : State) (p : Fin 8) : Prop :=
  (s.reg (PG.sv p) R.SV_TBL_ADDR).toNat % 64 ≠ 0 ∨ s.inHbm (s.reg (PG.sv p) R.SV_TBL_ADDR).toNat (s.maskBytes p) = false ∨
    s.spEn p = false ∨ s.geomW p = 0 ∨ s.geomH p = 0

theorem State.svWrite_tblGo {w : Wr} (h : w.reg = R.SV_TBL_GO) : s.svWrite p w = s.hotLoad p w := if_pos h

theorem exec_hotLoad_writable (hw : Writable s (PG.sv p)) (ini : Initiator) (v : Word) :
    exec (.hotMaskLoad ini p v) s = s.ends (s.hotLoad p (.full ini R.SV_TBL_GO v)) := by
  rw [exec_hotMaskLoad, execHotMaskLoad, State.svWr, State.gate_writable hw, State.svWrite_tblGo (Wr.full_reg ..)]

theorem exec_hotLoad_busy (hw : Writable s (PG.sv p)) (hrun : (s.adm.load.get p).isSome = true) (ini : Initiator) (v : Word) :
    exec (.hotMaskLoad ini p v) s = .next (s.logWr (PG.sv p) (.full ini R.SV_TBL_GO v) .busy) := by
  rw [exec_hotLoad_writable hw, State.hotLoad, if_pos hrun]
  exact ends_of_onlyRegs (onlyRegs_logWr s _ _ _)

theorem exec_hotLoad_ledgerFull (hw : Writable s (PG.sv p)) (hidle : s.adm.load.get p = none) (hfull : s.itemFree .ordinary = false)
    (ini : Initiator) (v : Word) :
    exec (.hotMaskLoad ini p v) s = .next (s.ledgerFull (PG.sv p) (.full ini R.SV_TBL_GO v)) := by
  rw [exec_hotLoad_writable hw, State.hotLoad, if_neg (by simp [hidle]), if_pos (by simp [hfull])]
  exact ends_of_onlyRegs (onlyRegs_ledgerFull s _ _)

theorem exec_hotLoad_invalid (hw : Writable s (PG.sv p)) (hidle : s.adm.load.get p = none) (hfree : s.itemFree .ordinary = true)
    (hbad : s.hotLoadBad p) (ini : Initiator) (v : Word) :
    exec (.hotMaskLoad ini p v) s = s.ends (s.emptyJob (PG.sv p) (bf v 0 6) .failInvalid 0) := by
  rw [exec_hotLoad_writable hw, State.hotLoad, if_neg (by simp [hidle]), if_neg (by simp [hfree]), Wr.full_val,
    if_pos (by simpa [State.hotLoadBad] using hbad)]

theorem exec_hotLoad_opens (hw : Writable s (PG.sv p)) (hidle : s.adm.load.get p = none) (hfree : s.itemFree .ordinary = true)
    (hgood : ¬ s.hotLoadBad p) (ini : Initiator) (v : Word) :
    ∃ t i, exec (.hotMaskLoad ini p v) s = .next t ∧ t.adm.load.get p = some (i, (s.reg (PG.sv p) R.SV_TBL_ADDR).toNat) ∧
      Opened s t (PG.sv p) (bf v 0 6) i ∧ t = { s with ldg := t.ldg, adm := t.adm, free := t.free } := by
  rw [exec_hotLoad_writable hw, State.hotLoad, if_neg (by simp [hidle]), if_neg (by simp [hfree]), Wr.full_val,
    if_neg (by simpa [State.hotLoadBad] using hgood), State.openItem_eq]
  exact ⟨_, _, State.ends_of rfl rfl, Vector.getElem_set_self .., opened_withItem s _ _, rfl⟩

/-! ### Reads on behalf of a mask load (R459, R460) -/

/-- No completion comes or goes, and the items in flight differ in their marks of poison at most. -/
structure SameFlight (s t : State) : Prop where
  waiting : t.ldg.waiting = s.ldg.waiting
  item? : ∀ idx, (t.item? idx).isSome = (s.item? idx).isSome

theorem sameFlight_refl (s : State) : SameFlight s s := ⟨rfl, fun _ => rfl⟩

theorem sameFlight_ldg (h : SameFlight s t) (e : u.ldg = t.ldg) : SameFlight s u where
  waiting := by rw [e, h.waiting]
  item? idx := by rw [State.item?, e, ← h.item?, State.item?]

theorem sameFlight_poisonItems (h : SameFlight s t) (l : List Nat) : SameFlight s (t.poisonItems l) where
  waiting := h.waiting
  item? idx := by
    have hmark : ((fun i : Item => i.idx == idx && !i.closed) ∘ fun i => if l.contains i.idx then { i with poisoned := true } else i) =
        fun i => i.idx == idx && !i.closed := by
      funext i
      simp only [Function.comp]
      split <;> rfl
    rw [← h.item?]
    show ((t.ldg.items.map _).find? _).isSome = _
    rw [List.find?_map, hmark, Option.isSome_map, State.item?]

theorem State.ldg_bucketLeaks (s : State) (b : Fin 39) (ms n : Nat) : (s.bucketLeaks b ms n).ldg = s.ldg := rfl

theorem State.ldg_bucketAdd (s : State) (b : Fin 39) : (s.bucketAdd b).ldg = s.ldg := by
  unfold State.bucketAdd
  dsimp only
  split
  · rfl
  · split <;> simp only [State.irq_ldg, State.setBit_ldg, State.bump_ldg, State.setFld_ldg, State.ldg_bucketLeaks]

theorem ldg_ite {t u : State} (c : Prop) [Decidable c] {x : LedgerState} (h : t.ldg = x) (k : u.ldg = x) :
    (if c then t else u).ldg = x := by
  split
  · exact h
  · exact k

theorem State.ldg_hbmErr (s : State) (a : Nat) (e : WordErr) (wr : Bool) : (s.hbmErr a e wr).ldg = s.ldg := by
  unfold State.hbmErr
  cases e with
  | correctable => exact State.ldg_bucketAdd _ _
  | uncorrectable => dsimp only; split <;> simp only [State.irq_ldg, State.setReg_ldg, State.bump_ldg]
  | poison => dsimp only; split <;> simp only [State.irq_ldg, State.setReg_ldg, State.bump_ldg]

theorem State.ldg_shelfErr (s : State) (k a : Nat) (e : WordErr) (wr : Bool) : (s.shelfErr k a e wr).ldg = s.ldg := by
  unfold State.shelfErr
  cases e with
  | correctable => exact State.ldg_bucketAdd _ _
  | uncorrectable => dsimp only; split <;> simp only [State.irq_ldg, State.logInfo1, State.setFld_ldg, State.addCnt_ldg]
  | poison => dsimp only; split <;> simp only [State.irq_ldg, State.logInfo1, State.setFld_ldg, State.addCnt_ldg]

theorem State.ldg_wordErr (s : State) (sh : Option Nat) (a : Nat) (e : WordErr) (wr : Bool) : (s.wordErr sh a e wr).ldg = s.ldg := by
  cases sh with
  | none => exact State.ldg_hbmErr s a e wr
  | some k => exact State.ldg_shelfErr s k a e wr

theorem sameFlight_partialWrite (h : SameFlight s t) (sh : Option Nat) (a : Nat) (new : List (Nat × Byte)) (items : List Nat) :
    SameFlight s (t.partialWrite sh a new items) := by
  have htake : SameFlight s t.takeFree.2 := sameFlight_ldg h rfl
  have herr : ∀ e b, SameFlight s ((t.takeFree.2.wordErr sh a e true).storeWord a (overlay (t.takeFree.2.wordBytes a (wordSize sh) t.takeFree.1) new) b) :=
    fun e b => sameFlight_ldg htake (State.ldg_wordErr _ _ _ _ _)
  unfold State.partialWrite
  dsimp only
  split
  · exact sameFlight_ldg h rfl
  · exact herr _ _
  · exact sameFlight_poisonItems (herr _ _) _

theorem sameFlight_flushEntry (h : SameFlight s t) (e : MergeEntry) : SameFlight s (t.flushEntry e) := by
  unfold State.flushEntry
  dsimp only
  split
  · exact h
  · split
    · exact sameFlight_ldg h rfl
    · exact sameFlight_ldg (sameFlight_partialWrite h none e.word e.bytes e.items) rfl

theorem sameFlight_flushWord (h : SameFlight s t) (a : Nat) : SameFlight s (t.flushWord a) := by
  unfold State.flushWord
  dsimp only
  split
  · exact h
  · refine sameFlight_flushEntry ?_ _
    exact sameFlight_ldg h rfl

theorem sameFlight_readWord (h : SameFlight s t) (sh : Option Nat) (a : Nat) : SameFlight s (t.readWord sh a).2 := by
  unfold State.readWord
  cases sh with
  | none =>
    dsimp only
    split
    · exact sameFlight_ldg h rfl
    · have hflush := sameFlight_flushWord h a
      dsimp only
      split
      · exact sameFlight_ldg hflush rfl
      · exact sameFlight_ldg hflush (ldg_ite _ (State.ldg_hbmErr _ _ _ _) (State.ldg_hbmErr _ _ _ _))
      · exact sameFlight_ldg hflush (State.ldg_hbmErr _ _ _ _)
  | some k =>
    dsimp only
    split
    · exact sameFlight_ldg h rfl
    · exact sameFlight_ldg h (ldg_ite _ (State.ldg_shelfErr _ _ _ _ _) (State.ldg_shelfErr _ _ _ _ _))
    · exact sameFlight_ldg h (State.ldg_shelfErr _ _ _ _ _)

theorem sameFlight_readWords (h : SameFlight s t) (sh : Option Nat) (a n : Nat) : SameFlight s (t.readWords sh a n).2 := by
  induction n generalizing t a with
  | zero => exact h
  | succ n ih => exact ih (sameFlight_readWord h sh a) _

theorem sameFlight_readBytes (h : SameFlight s t) (a n : Nat) : SameFlight s (t.readBytes a n).2 := by
  unfold State.readBytes
  dsimp only
  split
  · exact h
  · exact sameFlight_readWords h _ _ _

/-! ### The end of a hot-mask load (R153) -/

/-- What reading a mask image leaves as it is: the part, the commands, the loads that run, and the ledger but for marks of poison. -/
structure MaskRead (s t : State) : Prop where
  part : t.part = s.part
  pending : t.pending = s.pending
  load : t.adm.load = s.adm.load
  flight : SameFlight s t

theorem maskRead_refl (s : State) : MaskRead s s := ⟨rfl, rfl, rfl, sameFlight_refl s⟩

theorem maskRead_hotBlock (h : MaskRead s t) (p : Fin 8) (a k : Nat) : MaskRead s (t.hotBlock p a k).2 := by
  have hrest := (onlyMem_readBytes (onlyMem_refl t) (a + 32 * k) (min 32 (t.maskBytes p - 32 * k))).rest
  have hflight := sameFlight_readBytes h.flight (a + 32 * k) (min 32 (t.maskBytes p - 32 * k))
  unfold State.hotBlock
  generalize t.readBytes (a + 32 * k) (min 32 (t.maskBytes p - 32 * k)) = r at hrest hflight ⊢
  have hpart : r.2.part = s.part := by rw [hrest, ← h.part]
  have hpending : r.2.pending = s.pending := by rw [hrest, ← h.pending]
  have hload : r.2.adm.load = s.adm.load := by rw [hrest, ← h.load]
  dsimp only
  split
  · exact ⟨hpart, hpending, hload, hflight⟩
  · exact ⟨hpart, hpending, hload, sameFlight_ldg hflight rfl⟩

/-- R153: the load of port `p` no longer runs; its item has not ended. -/
def State.loadIdle (s : State) (p : Fin 8) : State := s.admUpd fun x => { x with load := x.load.set p none }

theorem State.loadIdle_load (s : State) (p : Fin 8) : (s.loadIdle p).adm.load.get p = none := Vector.getElem_set_self ..

/-- R153: the blocks of the image of port `p` read; the first part tells that one of them was poisoned. -/
def State.maskImage (s : State) (p : Fin 8) (a : Nat) : Bool × State :=
  (List.range ((s.maskBytes p + 31) / 32)).foldl (fun acc k => (acc.1 || (acc.2.hotBlock p a k).1, (acc.2.hotBlock p a k).2)) (false, s)

theorem maskRead_maskImage (s : State) (p : Fin 8) (a : Nat) : MaskRead s (s.maskImage p a).2 :=
  foldl_keeps (fun acc : Bool × State => MaskRead s acc.2)
    (fun acc k => (acc.1 || (acc.2.hotBlock p a k).1, (acc.2.hotBlock p a k).2)) (fun _ k h => maskRead_hotBlock h p a k) _ (false, s)
    (maskRead_refl s)

theorem State.hotLoadDone_disabled {i a : Nat} (h : s.adm.load.get p = some (i, a)) (hen : s.spEn p = false) :
    s.hotLoadDone p = (s.loadIdle p).closeItem i .failInvalid 0 := by
  rw [State.hotLoadDone, h]
  exact if_pos (by rw [Bool.not_eq_true']; exact hen)

theorem State.hotLoadDone_enabled {i a : Nat} (h : s.adm.load.get p = some (i, a)) (hen : s.spEn p = true) :
    s.hotLoadDone p = ((s.loadIdle p).maskImage p a).2.closeItem i (if ((s.loadIdle p).maskImage p a).1 then .failPoison else .ok) 0 := by
  rw [State.hotLoadDone, h]
  exact if_neg (by rw [Bool.not_eq_true']; exact Bool.eq_false_iff.not.mpr (not_not.mpr hen))

theorem exec_hotMaskLoadDone_runs {x : Nat × Nat} (h : s.adm.load.get p = some x) :
    exec (.hotMaskLoadDone p) s = s.ends (s.decided (s.hotLoadDone p)) := by
  rw [exec_hotMaskLoadDone, execHotMaskLoadDone, h]
  rfl

theorem exec_hotMaskLoadDone_stale (h : s.adm.load.get p = none) :
    exec (.hotMaskLoadDone p) s = .next (s.staleReply (PG.sv p)) := by
  rw [exec_hotMaskLoadDone, execHotMaskLoadDone, h]
  exact ends_staleReply s _

theorem exec_hotMaskLoadDone_disabled {i a : Nat} (h : s.adm.load.get p = some (i, a)) (hrun : Running s i) (hen : s.spEn p = false) :
    ∃ t, exec (.hotMaskLoadDone p) s = .next t ∧ t.adm.load.get p = none ∧ Completed s t i .failInvalid 0 ∧
      t = { s with ldg := t.ldg, adm := t.adm, res := t.res } := by
  have hdone : Completed s (s.hotLoadDone p) i .failInvalid 0 := by
    rw [State.hotLoadDone_disabled h hen]
    exact Running.completed (s := s.loadIdle p) hrun _ _
  have hrest : s.decided (s.hotLoadDone p) =
      { s with ldg := (s.decided (s.hotLoadDone p)).ldg, adm := (s.loadIdle p).adm, res := (s.decided (s.hotLoadDone p)).res } := by
    rw [State.hotLoadDone_disabled h hen, State.decided_rest, State.closeItem_rest]
    rfl
  rw [exec_hotMaskLoadDone_runs h]
  exact ⟨_, State.ends_of (by rw [hrest]) (by rw [hrest]), by rw [hrest]; exact State.loadIdle_load s p, completed_decided hdone,
    by rw [hrest]⟩

/-- R433, R460: a load's item ends OK or FAIL_POISON, whatever mark of poison it bears. -/
theorem maskStatus (poisoned bad : Bool) :
    (if poisoned then Status.worse (if bad then .failPoison else .ok) .failPoison else if bad then .failPoison else .ok) =
      if poisoned || bad then .failPoison else .ok := by
  cases poisoned <;> cases bad <;> rfl

theorem exec_hotMaskLoadDone_enabled {i a : Nat} (h : s.adm.load.get p = some (i, a)) (hrun : Running s i) (hen : s.spEn p = true) :
    ∃ t st, exec (.hotMaskLoadDone p) s = .next t ∧ t.adm.load.get p = none ∧ (st = .ok ∨ st = .failPoison) ∧
      Completed s t i st 0 := by
  have hread := maskRead_maskImage (s.loadIdle p) p a
  have hdone := State.hotLoadDone_enabled h hen
  generalize (s.loadIdle p).maskImage p a = r at hread hdone
  obtain ⟨it, hit, -⟩ := hrun
  obtain ⟨it', hit'⟩ := Option.isSome_iff_exists.mp
    ((hread.flight.item? i).trans (show (s.item? i).isSome = true by rw [hit]; rfl))
  obtain ⟨hended, c, hwait, hc⟩ := completed_closeItem hit' 0 (maskStatus it'.poisoned r.1)
  have hcompleted : Completed s (s.hotLoadDone p) i (if it'.poisoned || r.1 then .failPoison else .ok) 0 := by
    rw [hdone]
    exact ⟨hended, c, hwait.trans (congrArg (· ++ [c]) hread.flight.waiting), hc⟩
  have hrest := State.closeItem_rest r.2 i (if r.1 then .failPoison else .ok) 0
  have hload : (s.hotLoadDone p).adm.load.get p = none := by
    rw [hdone, hrest, hread.load, State.loadIdle_load]
  rw [exec_hotMaskLoadDone_runs h]
  refine ⟨_, _, State.ends_of ?_ ?_, hload, ?_, completed_decided hcompleted⟩
  · rw [State.decided_rest, hdone, hrest]
    exact hread.part
  · rw [State.decided_rest, hdone, hrest]
    exact hread.pending
  · split <;> simp

/-- Settles O16: a raw read and a mask load open one ledger item each or end it at once, and end it with their status. What an end
at once and a stale reply leave is the model's choice (logs 66, 207, 225). -/
theorem rawQueueReadAndHotMaskLoad : Obligations.RawQueueReadAndHotMaskLoad := by
  refine ⟨fun p s => ⟨fun ini v hw => ⟨fun hrun => ?_, fun hidle hfull => ?_, fun hidle hfree => ⟨fun hlen => ?_, fun hlen hbad => ?_,
    fun hlen hraw haddr => ?_⟩⟩, fun hidle => ⟨?_, fun hno => ?_, ?_⟩, fun d hd hrun => ⟨fun hall => ?_, fun hmore hq hwait => ?_⟩⟩,
    fun p s => ⟨fun ini v hw => ⟨fun hrun => ?_, fun hidle hfull => ?_, fun hidle hfree hbad => ?_, fun hidle hfree hgood => ?_⟩,
    fun hidle => ⟨?_, fun hno => ?_⟩, fun i a' h hrun => ⟨fun hen => ?_, fun hen => ?_⟩⟩⟩
  · exact exec_rawGo_busy hw hrun ini v
  · exact exec_rawGo_ledgerFull hw hidle hfull ini v
  · rw [exec_rawGo_empty hw hidle hfree hlen]
    exact ends_emptyJob hfree _ _ _ _
  · rw [exec_rawGo_invalid hw hidle hfree hlen hbad]
    exact ends_emptyJob hfree _ _ _ _
  · exact exec_rawGo_opens hw hidle hfree hlen hraw haddr ini
  · exact exec_rawDmaDone_stale hidle
  · rw [exec_rawDmaDone_stale hidle, State.staleReply_noOrphan hno]
  · exact exec_rawDmaIdleTimeout_none hidle
  · exact exec_rawDmaDone_end hd hrun hall
  · exact exec_rawDmaIdleTimeout_end hd hrun hmore hq hwait
  · exact exec_hotLoad_busy hw hrun ini v
  · exact exec_hotLoad_ledgerFull hw hidle hfull ini v
  · rw [exec_hotLoad_invalid hw hidle hfree hbad]
    exact ends_emptyJob hfree _ _ _ _
  · exact exec_hotLoad_opens hw hidle hfree hgood ini v
  · exact exec_hotMaskLoadDone_stale hidle
  · rw [exec_hotMaskLoadDone_stale hidle, State.staleReply_noOrphan hno]
  · exact exec_hotMaskLoadDone_disabled h hrun hen
  · exact exec_hotMaskLoadDone_enabled h hrun hen

end

end Sys2Proof.Machine
end

section
/-!
PROOFS. What stays at a sensor port and in the hold queues while words leave the Sieve (R171, R215).
-/

namespace Sys2Proof.Machine

/-- The sensor ports and the hold queues are as they were. -/
structure SieveKept (s t : State) : Prop where
  sp : t.sp = s.sp
  hold : t.adm.hold = s.adm.hold

theorem sieveKept_refl (s : State) : SieveKept s s := ⟨rfl, rfl⟩

section
variable {s t u : State} {p : Fin 8}

theorem sieveKept_setReg (h : SieveKept s t) (page o : Nat) (v : Word) : SieveKept s (t.setReg page o v) := ⟨h.sp, h.hold⟩
theorem sieveKept_res (h : SieveKept s t) (x : ResState) : SieveKept s { t with res := x } := ⟨h.sp, h.hold⟩
theorem sieveKept_sfsUpd (h : SieveKept s t) (f : SfsState → SfsState) : SieveKept s (t.sfsUpd f) := ⟨h.sp, h.hold⟩
theorem sieveKept_rchUpd (h : SieveKept s t) (f : RchState → RchState) : SieveKept s (t.rchUpd f) := ⟨h.sp, h.hold⟩
theorem sieveKept_ingTouch (h : SieveKept s t) (p : Fin 8) : SieveKept s (t.ingTouch p) := ⟨h.sp, h.hold⟩

theorem sieveKept_ite (h : SieveKept s t) (k : SieveKept s u) (c : Prop) [Decidable c] : SieveKept s (if c then t else u) := by
  split
  · exact h
  · exact k

theorem sieveKept_snd_ite {α : Type} {x y : α × State} (c : Prop) [Decidable c] (h : SieveKept s x.2) (k : SieveKept s y.2) :
    SieveKept s (if c then x else y).2 := by
  split
  · exact h
  · exact k

theorem sieveKept_admUpd (h : SieveKept s t) {f : AdmState → AdmState} (hf : ∀ x, (f x).hold = x.hold) : SieveKept s (t.admUpd f) :=
  ⟨h.sp, (hf t.adm).trans h.hold⟩

theorem sieveKept_onlyMem (h : SieveKept s t) (k : OnlyMem t u) : SieveKept s u :=
  ⟨by rw [k.rest, ← h.sp], by rw [k.rest, ← h.hold]⟩

/-! ### Windows and batches of the results unit (R437, R444) -/

theorem sieveKept_lookPos (h : SieveKept s t) (p : Fin 8) (iet : Nat) : SieveKept s (t.lookPos p iet).2.2 :=
  sieveKept_ite (sieveKept_setReg (sieveKept_setReg (sieveKept_setReg h _ _ _) _ _ _) _ _ _) h _

theorem sieveKept_winFind (h : SieveKept s t) (p : Fin 8) (iet : Nat) : SieveKept s (t.winFind p iet).2 := by
  have hplace : SieveKept s (t.winPlace p iet).2 := by
    unfold State.winPlace
    split
    · exact sieveKept_lookPos h _ _
    · exact h
  unfold State.winFind
  split
  · exact h
  · dsimp only
    split <;> exact hplace

theorem sieveKept_winCount (h : SieveKept s t) (p : Fin 8) (iet : Nat) (f : Win → Win) : SieveKept s (t.winCount p iet f).2 := by
  have hfind := sieveKept_winFind h p iet
  unfold State.winCount
  generalize t.winFind p iet = r at hfind ⊢
  obtain ⟨_ | ⟨i, oop⟩, u⟩ := r
  · exact hfind
  · exact sieveKept_res hfind _

theorem sieveKept_ringPut (h : SieveKept s t) (base size pos : Nat) (bs : List Byte) : SieveKept s (t.ringPut base size pos bs) := by
  have hput := sieveKept_onlyMem h (onlyMem_writeBytes (onlyMem_refl t) none (base + pos % size) (bs.take (size - pos % size)))
  unfold State.ringPut
  exact sieveKept_ite hput (sieveKept_onlyMem hput (onlyMem_writeBytes (onlyMem_refl _) none base _)) _

theorem sieveKept_writeRecord (h : SieveKept s t) (ty : RecType) (port : Option (Fin 8)) (win : Nat) (body : List Byte) :
    SieveKept s (t.writeRecord ty port win body).2 := by
  unfold State.writeRecord
  dsimp only
  refine sieveKept_snd_ite _ h (sieveKept_snd_ite _ (sieveKept_setReg h _ _ _) (sieveKept_snd_ite _ ?_ ?_))
  · refine sieveKept_ite (sieveKept_res (sieveKept_ite (sieveKept_setReg ?_ _ _ _) ?_ _) _) (sieveKept_ite (sieveKept_setReg ?_ _ _ _) ?_ _) _
    all_goals
      exact sieveKept_setReg (sieveKept_setReg (sieveKept_setReg (sieveKept_ringPut (sieveKept_res h _) _ _ _ _) _ _ _) _ _ _) _ _ _
  · exact sieveKept_setReg (sieveKept_setReg (sieveKept_res h _) _ _ _) _ _ _

theorem sieveKept_flushBatch (h : SieveKept s t) (p : Fin 8) (k : BatchKind) : SieveKept s (t.flushBatch p k) := by
  unfold State.flushBatch
  exact sieveKept_ite h (sieveKept_writeRecord (sieveKept_res h _) _ _ _ _) _

theorem sieveKept_setBatch (h : SieveKept s t) (p : Fin 8) (k : BatchKind) (b : Batch) : SieveKept s (t.setBatch p k b) :=
  sieveKept_res h _

theorem sieveKept_batchAdd (h : SieveKept s t) (p : Fin 8) (k : BatchKind) (win : Nat) (entry : List Byte) :
    SieveKept s (t.batchAdd p k win entry) := by
  unfold State.batchAdd
  refine sieveKept_ite h (sieveKept_ite (sieveKept_flushBatch ?_ _ _) ?_ _) _
  all_goals exact sieveKept_setBatch h _ _ _

theorem sieveKept_auxPass (h : SieveKept s t) (p : Fin 8) (w : Word) : SieveKept s (t.auxPass p w) := by
  unfold State.auxPass
  dsimp only
  refine sieveKept_batchAdd ?_ _ _ _ _
  exact sieveKept_winCount h _ _ _

/-! ### Shedding (R171, R172) -/

theorem sieveKept_shed (h : SieveKept s t) (p : Fin 8) (w : Word) (c : ShedCause) : SieveKept s (t.shed p w c) := by
  have hclass : SieveKept s (t.bump (PG.sv p) R.SV_SHED (if evClass w = 2 then 32 else 0) 32) := sieveKept_setReg h _ _ _
  unfold State.shed
  dsimp only
  refine sieveKept_winCount ?_ _ _ _
  refine sieveKept_admUpd ?_ fun _ => rfl
  cases c with
  | holdFull => exact sieveKept_setReg (sieveKept_setReg hclass _ _ _) _ _ _
  | budget | age | disabled | reset => exact sieveKept_setReg hclass _ _ _

/-! ### Surface reads and writes (R213, R214, R218) -/

theorem sieveKept_pixUpset (h : SieveKept s t) (p : Fin 8) (up : Option PixelUpset) (o : Nat) : SieveKept s (t.pixUpset p up o) := by
  unfold State.pixUpset
  split
  · exact h
  · refine sieveKept_ite h (sieveKept_ite (sieveKept_sfsUpd h _) ?_ _) _
    exact foldl_keeps (SieveKept s) _ (fun _ _ hu => sieveKept_onlyMem (sieveKept_setReg hu _ _ _) (onlyMem_bucketAdd (onlyMem_refl _) _)) _ _ h

theorem sieveKept_surfRead (h : SieveKept s t) (p : Fin 8) (up : Option PixelUpset) (o : Nat) : SieveKept s (t.surfRead p up o).2 := by
  have hup := sieveKept_pixUpset h p up o
  unfold State.surfRead
  refine sieveKept_snd_ite _ hup ?_
  exact sieveKept_setReg (sieveKept_setReg (sieveKept_setReg hup _ _ _) _ _ _) _ _ _

theorem sieveKept_surfFreshAt (h : SieveKept s t) (p : Fin 8) (up : Option PixelUpset) (x y d : Int) :
    SieveKept s (t.surfFreshAt p up x y d).2 := by
  have hread := sieveKept_surfRead h p up (t.pixOff p x.toNat y.toNat)
  unfold State.surfFreshAt
  refine sieveKept_snd_ite _ h ?_
  dsimp only
  split <;> exact hread

theorem sieveKept_sieveReads (h : SieveKept s t) (p : Fin 8) (up : Option PixelUpset) (x y : Nat) (d : Int) :
    SieveKept s (t.sieveReads p up x y d).2 := by
  unfold State.sieveReads
  dsimp only
  refine foldl_keeps (fun a : List (BitVec 32 × Int) × State => SieveKept s a.2) _ (fun a o ha => ?_) _ _ ?_
  · exact sieveKept_surfFreshAt ha _ _ _ _ _
  · exact sieveKept_surfFreshAt h _ _ _ _ _

theorem sieveKept_surfEvent (h : SieveKept s t) (p : Fin 8) (x y : Nat) (pol : Bool) (d : Int) : SieveKept s (t.surfEvent p x y pol d) := by
  have hcnt : SieveKept s (t.bump PG.sfs (R.SFS_P_CNT p) 0 32) := sieveKept_setReg h _ _ _
  unfold State.surfEvent
  dsimp only
  split
  · exact sieveKept_sfsUpd hcnt _
  · split
    · exact sieveKept_sfsUpd hcnt _
    · exact sieveKept_setReg (sieveKept_sfsUpd hcnt _) _ _ _

theorem sieveKept_surfFree (h : SieveKept s t) (p : Fin 8) : SieveKept s (t.surfFree p) := by
  unfold State.surfFree
  refine sieveKept_ite h ?_ _
  exact sieveKept_setReg (sieveKept_sfsUpd h _) _ _ _

/-! ### Rate bins (R405, R407) -/

theorem sieveKept_rateCount (h : SieveKept s t) (p : Fin 8) (x y : Nat) (pol : Bool) (iet : Nat) : SieveKept s (t.rateCount p x y pol iet) := by
  unfold State.rateCount
  refine sieveKept_ite h ?_ _
  refine sieveKept_rchUpd ?_ _
  exact sieveKept_ite (sieveKept_setReg h _ _ _) h _

theorem sieveKept_rateLoss (h : SieveKept s t) (p : Fin 8) (iet : Nat) : SieveKept s (t.rateLoss p iet) := by
  unfold State.rateLoss
  refine sieveKept_ite h (sieveKept_ite h ?_ _) _
  have hbins := foldl_keeps (SieveKept s) (fun s e => s.binUpd (max (t.binOf iet) t.rch.next) (nfld e.2 0 11) fun k => { k with loss := true })
    (fun _ _ hu => sieveKept_rchUpd hu _) (t.rch.map.filter fun e => e.1 / 65536 == p.val && nfld e.2 12 2 != 0) t h
  refine sieveKept_ite hbins ?_ _
  exact sieveKept_setReg (sieveKept_setReg (sieveKept_rchUpd hbins _) _ _ _) _ _ _

/-! ### A word on its way through the Sieve (R148 to R162) -/

theorem sieveKept_arm (h : SieveKept s t) (p : Fin 8) (b : Bool) : SieveKept s (t.admUpd fun a => { a with armed := a.armed.set p b }) :=
  ⟨h.sp, h.hold⟩

theorem sieveKept_flkStage (h : SieveKept s t) (p : Fin 8) (tile iet : Nat) (pol : Bool) : SieveKept s (t.flkStage p tile iet pol).2 := by
  have hlook := sieveKept_lookPos h (baseOf (t.fld (PG.sv p) R.SV_CTL 8 3)) iet
  have hcnt : SieveKept s (t.bump (PG.sv p) R.SV_CNT2 32 32) := sieveKept_setReg h _ _ _
  unfold State.flkStage
  dsimp only
  split
  · generalize t.lookPos _ _ = r at hlook ⊢
    have hist := sieveKept_setReg hlook (PG.sv p)
    refine sieveKept_snd_ite _ (sieveKept_setReg ?_ _ _ _) ?_ <;> refine sieveKept_ite (sieveKept_arm ?_ _ _) ?_ _
    all_goals exact hist _ _
  · split
    · split
      · exact sieveKept_arm (sieveKept_setReg hcnt _ _ _) _ _
      · exact hcnt
    · exact h

theorem sieveKept_sievePixel (h : SieveKept s t) (p : Fin 8) (up : Option PixelUpset) (w : Word) : SieveKept s (t.sievePixel p up w).2 := by
  have hread := sieveKept_sieveReads h p up (evX w) (evY w) (t.surfTime p (evIet w))
  unfold State.sievePixel
  dsimp only
  generalize t.sieveReads p up (evX w) (evY w) (t.surfTime p (evIet w)) = r at hread ⊢
  have hflk := sieveKept_flkStage hread p (r.2.tileIx p (evX w) (evY w)) (evIet w) (evPol w)
  refine sieveKept_snd_ite _ (sieveKept_setReg h _ _ _) (sieveKept_snd_ite _ (sieveKept_setReg hread _ _ _) ?_)
  refine sieveKept_snd_ite _ ?_ (sieveKept_snd_ite _ ?_ ?_)
  · exact sieveKept_surfEvent hflk _ _ _ _ _
  · refine sieveKept_surfEvent ?_ _ _ _ _ _
    exact sieveKept_setReg hflk _ _ _
  · refine sieveKept_rateCount (sieveKept_surfEvent ?_ _ _ _ _ _) _ _ _ _ _
    exact sieveKept_setReg hflk _ _ _

theorem sieveKept_sieveEnd (h : SieveKept s t) (p : Fin 8) (c : ShedCause) (w : Word) : SieveKept s (t.sieveEnd p c w) := by
  have hpixel := sieveKept_sievePixel h p none w
  unfold State.sieveEnd
  split
  · generalize t.sievePixel p none w = r at hpixel ⊢
    obtain ⟨_ | w, u⟩ := r
    · exact hpixel
    · exact sieveKept_shed hpixel _ _ _
  · have hloss : SieveKept s (if evKind w = 3 then t.rateLoss p (evIet w) else t) := sieveKept_ite (sieveKept_rateLoss h _ _) h _
    exact sieveKept_ite hloss (sieveKept_auxPass hloss _ _) _

/-! ### What a disable does (R171, R215) -/

theorem sieveKept_chdSkip (h : SieveKept s t) (p : Fin 8) : SieveKept s (t.chdSkip p) := by
  have hcnt : SieveKept s (t.bump (PG.chd p) R.CHD_CNT0 32 32) := sieveKept_setReg h _ _ _
  unfold State.chdSkip State.bumpIrq0
  exact sieveKept_ite (sieveKept_setReg hcnt _ _ _) hcnt _

theorem sieveKept_chdSkipAll (h : SieveKept s t) (p : Fin 8) : SieveKept s (t.chdSkipAll p) := by
  unfold State.chdSkipAll
  exact foldl_keeps (SieveKept s) _ (fun _ _ hu => sieveKept_chdSkip hu p) _ _ ⟨h.sp, h.hold⟩

theorem foldl_sieve_kept {α : Type} {f : State → α → State} (hf : ∀ u a, SieveKept s u → SieveKept s (f u a)) (l : List α) :
    SieveKept s (l.foldl f s) :=
  foldl_keeps (SieveKept s) f hf l s (sieveKept_refl s)

/-- R171: the hold queue of port `p` taken away, before its words are shed. -/
def State.holdTaken (s : State) (p : Fin 8) : State :=
  (s.ingTouch p).admUpd fun x => { x with hold := x.hold.set p [], deferred := x.deferred.set p false }

theorem sieveKept_holdShed (s : State) (p : Fin 8) (c : ShedCause) : SieveKept (s.holdTaken p) (s.holdShed p c) :=
  foldl_sieve_kept (fun _ _ hu => sieveKept_ite (sieveKept_shed hu _ _ _) (sieveKept_auxPass hu _ _) _) _

/-- R215: the words at the Sieve of port `p` taken away, before they pass. -/
def State.sieveTaken (s : State) (p : Fin 8) : State := s.spUpd p fun x => { x with toSieve := [] }

theorem sieveKept_sieveFlush (s : State) (p : Fin 8) (c : ShedCause) :
    SieveKept ((s.holdShed p c).sieveTaken p) (s.sieveFlush p c) :=
  foldl_sieve_kept (fun _ _ hu => sieveKept_sieveEnd hu _ _ _) _

theorem State.sieveFlush_toSieve (s : State) (p : Fin 8) (c : ShedCause) : ((s.sieveFlush p c).sp.get p).toSieve = [] := by
  rw [(sieveKept_sieveFlush s p c).sp, State.sieveTaken, State.spUpd_get]

theorem State.sieveFlush_hold (s : State) (p : Fin 8) (c : ShedCause) : (s.sieveFlush p c).adm.hold.get p = [] := by
  have hheld : ((s.holdShed p c).sieveTaken p).adm.hold = (s.holdTaken p).adm.hold := (sieveKept_holdShed s p c).hold
  rw [(sieveKept_sieveFlush s p c).hold, hheld]
  exact Vector.getElem_set_self ..

end

end Sys2Proof.Machine
end

section
/-!
PROOFS. Obligation O18: the enable and the disable of a sensor port (R119, R120, R215).
-/

namespace Sys2Proof.Machine

section
variable {s t u : State} {p : Fin 8}

/-! ### A write of SP_CTL (R119) -/

theorem State.spWrite_ctl {w : Wr} (h : w.reg = R.SP_CTL) : s.spWrite p w = s.spCtl p w := if_pos h

theorem State.spWr_ctl (hw : Writable s (PG.sp p)) (ini : Initiator) (v : Word) :
    s.spWr ini p R.SP_CTL v = s.spCtl p (.full ini R.SP_CTL v) :=
  (State.gate_writable hw _ _).trans (State.spWrite_ctl (Wr.full_reg ini R.SP_CTL v))

/-- R119: the state in which the checks of an enable by the value `c` are made. -/
def State.enableAsked (s : State) (p : Fin 8) (c : Word) : State := s.setReg (PG.sp p) R.SP_CTL (putBit c 0 false)

theorem exec_spEnable_starts (hw : Writable s (PG.sp p)) (hoff : s.spEn p = false) {ini : Initiator} {v : Word}
    (hen : bitAt (s.wouldBe (PG.sp p) (.full ini R.SP_CTL v)) 0 = true) :
    exec (.spEnable ini p v) s = s.ends ((s.enableAsked p (s.wouldBe (PG.sp p) (.full ini R.SP_CTL v))).spStart p) := by
  rw [exec_spEnable, execSpEnable, State.spWr_ctl hw, State.spCtl, if_neg (by rw [hoff]; decide), if_pos hen]
  rfl

theorem exec_spEnable_refused (hw : Writable s (PG.sp p)) (hon : s.spEn p = true) {ini : Initiator} {v : Word}
    (hen : bitAt (s.wouldBe (PG.sp p) (.full ini R.SP_CTL v)) 0 = true)
    (hne : s.wouldBe (PG.sp p) (.full ini R.SP_CTL v) ≠ s.reg (PG.sp p) R.SP_CTL) :
    exec (.spEnable ini p v) s = .next (s.logWr (PG.sp p) (.full ini R.SP_CTL v) .state) := by
  rw [exec_spEnable, execSpEnable, State.spWr_ctl hw, State.spCtl, if_pos hon, if_neg (by rw [hen]; decide), if_neg hne]
  exact ends_of_onlyRegs (onlyRegs_logWr s _ _ _)

theorem exec_spDisable_stops (hw : Writable s (PG.sp p)) (hon : s.spEn p = true) {ini : Initiator} {v : Word}
    (hen : bitAt (s.wouldBe (PG.sp p) (.full ini R.SP_CTL v)) 0 = false) : exec (.spDisable ini p v) s =
      s.ends ((s.spStop p).setReg (PG.sp p) R.SP_CTL (s.wouldBe (PG.sp p) (.full ini R.SP_CTL v))) := by
  rw [exec_spDisable, execSpDisable, State.spWr_ctl hw, State.spCtl, if_pos hon, if_pos (by rw [hen]; rfl)]

/-! ### Checks that fail (R120) -/

/-- R120: every failing check's bit, and the microcode entry that fails. -/
def State.checksShown (s : State) (p : Fin 8) : State :=
  let bits := (s.spChecks p).1.foldl (fun s b => s.setBit (PG.sp p) R.SP_STS b true) s
  match (s.spChecks p).2 with
  | none => bits
  | some i => bits.setFld (PG.sp p) R.SP_STS 16 8 i

theorem State.spStart_fails (h : (s.spChecks p).1 ≠ []) : s.spStart p = s.checksShown p :=
  if_pos (by rwa [Bool.not_eq_true', List.isEmpty_eq_false_iff])

/-- The bits of a list, set one after the other, are set. -/
theorem State.bit_foldl_setBit (s : State) (page o : Nat) {l : List Nat} (hl : ∀ b ∈ l, b < 64) {b : Nat}
    (hb : b ∈ l ∨ s.bit page o b = true) : (l.foldl (fun s b => s.setBit page o b true) s).bit page o b = true := by
  induction l generalizing s with
  | nil => exact hb.resolve_left (List.not_mem_nil)
  | cons a l ih =>
    refine ih _ (fun b hb => hl b (List.mem_cons_of_mem a hb)) ?_
    by_cases hba : b = a
    · exact .inr (by rw [hba, State.bit_setBit_self _ _ _ _ _ (hl a List.mem_cons_self)])
    · rw [State.bit_setBit_ne _ hba]
      exact hb.imp_left fun h => (List.mem_cons.mp h).resolve_left hba

theorem State.spChecks_lt (s : State) (p : Fin 8) : ∀ b ∈ (s.spChecks p).1, b < 16 := by
  intro b hb
  obtain ⟨⟨i, c⟩, hmem, rfl⟩ := List.mem_map.mp hb
  have hlist := (List.mem_filter.mp hmem).1
  simp only [List.mem_cons, Prod.mk.injEq, List.not_mem_nil, or_false] at hlist
  omega

theorem State.checksShown_bit (s : State) (p : Fin 8) {b : Nat} (hb : b ∈ (s.spChecks p).1) :
    (s.checksShown p).bit (PG.sp p) R.SP_STS b = true := by
  have hlt := State.spChecks_lt s p
  have hset := State.bit_foldl_setBit s (PG.sp p) R.SP_STS (fun b hb => by have := hlt b hb; omega) (.inl hb)
  unfold State.checksShown
  split
  · exact hset
  · rw [State.bit_setFld_other _ (.inl (hlt b hb)), hset]

theorem onlyRegs_checksShown (h : OnlyRegs s t) (p : Fin 8) : OnlyRegs s (t.checksShown p) := by
  have hbits := foldl_keeps (OnlyRegs s) (fun s b => s.setBit (PG.sp p) R.SP_STS b true) (fun _ _ hu => onlyRegs_setReg hu _ _ _)
    (t.spChecks p).1 t h
  unfold State.checksShown
  split
  · exact hbits
  · exact onlyRegs_setReg hbits _ _ _

theorem pageKept_checksShown {l : List Nat} (h : PageKept s t (PG.sp p) l) (hl : R.SP_STS ∈ l) :
    PageKept s (t.checksShown p) (PG.sp p) l := by
  have hset : ∀ {u : State}, PageKept s u (PG.sp p) l → ∀ v, PageKept s (u.setReg (PG.sp p) R.SP_STS v) (PG.sp p) l :=
    fun hu v => pageKept_setReg hu (by decide) hl v
  have hbits := foldl_keeps (PageKept s · (PG.sp p) l) (fun s b => s.setBit (PG.sp p) R.SP_STS b true) (fun _ _ hu => hset hu _)
    (t.spChecks p).1 t h
  unfold State.checksShown
  split
  · exact hbits
  · exact hset hbits _

theorem State.spEn_enableAsked (s : State) (p : Fin 8) (c : Word) : (s.enableAsked p c).spEn p = false := by
  rw [State.spEn, State.bit, State.enableAsked, State.reg_setReg_self, bitAt_putBit_self _ _ _ (by decide)]

theorem State.checksShown_spEn (s : State) (p : Fin 8) : (s.checksShown p).spEn p = s.spEn p := by
  have hkept : PageKept s (s.checksShown p) (PG.sp p) [R.SP_STS] := pageKept_checksShown (pageKept_refl s _ _) List.mem_cons_self
  rw [State.spEn, State.bit, hkept _ _ (by decide) (.inr (by decide)), State.spEn, State.bit]

theorem exec_spEnable_fails (hw : Writable s (PG.sp p)) (hoff : s.spEn p = false) {ini : Initiator} {v c : Word}
    (hc : s.wouldBe (PG.sp p) (.full ini R.SP_CTL v) = c) (hen : bitAt c 0 = true) (hfail : ((s.enableAsked p c).spChecks p).1 ≠ []) :
    ∃ t, exec (.spEnable ini p v) s = .next t ∧ t.spEn p = false ∧
      (∀ b, b ∈ ((s.enableAsked p c).spChecks p).1 → t.bit (PG.sp p) R.SP_STS b = true) ∧ OnlyRegs s t ∧
      PageKept s t (PG.sp p) [R.SP_CTL, R.SP_STS] := by
  have hregs : OnlyRegs s ((s.enableAsked p c).checksShown p) := onlyRegs_checksShown (onlyRegs_setReg (onlyRegs_refl s) _ _ _) p
  rw [exec_spEnable_starts hw hoff (by rw [hc, hen]), hc, State.spStart_fails hfail]
  refine ⟨_, ends_of_onlyRegs hregs, ?_, fun b hb => State.checksShown_bit _ p hb, hregs, ?_⟩
  · rw [State.checksShown_spEn, State.spEn_enableAsked]
  · exact pageKept_checksShown (pageKept_setReg (pageKept_refl s _ _) (by decide) (by decide) _) (by decide)

/-! ### An enable that passes (R120, R152, R215, R403) -/

/-- R120: the port enabled, once its region is allocated. -/
def State.portOn (s : State) (p : Fin 8) : State :=
  ((((s.ingTouch p).setBit (PG.sp p) R.SP_CTL 0 true).hotClear p).rchMapClear p).rxForget p

theorem State.spStart_passes (h : (s.spChecks p).1 = []) (hfits : (s.surfAlloc p).1 = true) :
    s.spStart p = (s.surfAlloc p).2.portOn p := by
  rw [State.spStart]
  generalize s.spChecks p = c at h ⊢
  generalize s.surfAlloc p = r at hfits ⊢
  exact (if_neg (by rw [h]; decide)).trans (if_neg (by rw [hfits]; decide))

theorem State.surfAlloc_sp (s : State) (p : Fin 8) : (s.surfAlloc p).2.sp = s.sp := by
  unfold State.surfAlloc
  dsimp only
  split
  · rfl
  · split <;> simp only [State.surfRefuse, State.sfsUpd, State.irq_sp, State.setFld_sp, State.setBit_sp, State.setReg_sp]

theorem State.rxForget_sp (s : State) (p : Fin 8) :
    (s.rxForget p).sp.get p = { s.sp.get p with rx := none, qd := { current := (s.sp.get p).qd.current } } :=
  State.spUpd_get s p _

theorem State.rxForget_opened (s : State) (p : Fin 8) : ((s.rxForget p).ieq.get p).opened = none :=
  congrArg IeqState.opened (State.ieqUpd_get _ p _)

theorem State.hotClear_hot (s : State) (p : Fin 8) : ∀ k ∈ (s.hotClear p).adm.hot, k / 2 ^ 24 ≠ p.val := by
  intro k hk
  exact bne_iff_ne.mp (List.mem_filter.mp hk).2

theorem State.portOn_spEn (s : State) (p : Fin 8) : (s.portOn p).spEn p = true := by
  have hregs : (s.portOn p).regs = ((s.ingTouch p).setBit (PG.sp p) R.SP_CTL 0 true).regs := rfl
  rw [State.spEn, State.bit, State.reg_congr hregs]
  exact State.bit_setBit_self _ _ _ _ _ (by decide)

theorem exec_spEnable_passes (hw : Writable s (PG.sp p)) (hoff : s.spEn p = false) {ini : Initiator} {v c : Word}
    (hc : s.wouldBe (PG.sp p) (.full ini R.SP_CTL v) = c) (hen : bitAt c 0 = true) (hpass : ((s.enableAsked p c).spChecks p).1 = [])
    (hfits : ((s.enableAsked p c).surfAlloc p).1 = true) :
    ∃ t, exec (.spEnable ini p v) s = .next t ∧ t.spEn p = true ∧ (t.sp.get p).rx = none ∧
      (t.sp.get p).qd = { current := (s.sp.get p).qd.current } ∧ (t.ieq.get p).opened = none ∧
      (∀ k, k ∈ t.adm.hot → k / 2 ^ 24 ≠ p.val) := by
  have hsp : ((s.enableAsked p c).surfAlloc p).2.sp = s.sp := State.surfAlloc_sp _ p
  rw [exec_spEnable_starts hw hoff (by rw [hc, hen]), hc, State.spStart_passes hpass hfits, State.ends_eq]
  generalize ((s.enableAsked p c).surfAlloc p).2 = u at hsp
  have hport : (u.portOn p).sp.get p = { s.sp.get p with rx := none, qd := { current := (s.sp.get p).qd.current } } :=
    (State.rxForget_sp _ p).trans (by rw [← hsp]; rfl)
  refine ⟨_, rfl, ?_, ?_, ?_, ?_, ?_⟩
  · exact State.portOn_spEn u p
  · rw [State.withQueueOf_sp, hport]
  · rw [State.withQueueOf_sp, hport]
  · rw [State.withQueueOf_ieq]
    exact State.rxForget_opened _ p
  · rw [State.withQueueOf_adm]
    exact State.hotClear_hot ((u.ingTouch p).setBit (PG.sp p) R.SP_CTL 0 true) p

/-! ### A disable (R215) -/

theorem State.spStop_port (s : State) (p : Fin 8) : ((s.spStop p).sp.get p).rx = none ∧ ((s.spStop p).sp.get p).toSieve = [] ∧
    (s.spStop p).adm.hold.get p = [] := by
  have hkept : SieveKept (s.sieveFlush p .disabled) ((((s.sieveFlush p .disabled).chdSkipAll p).surfFree p).ingTouch p) :=
    sieveKept_ingTouch (sieveKept_surfFree (sieveKept_chdSkipAll (sieveKept_refl _) p) p) p
  unfold State.spStop
  dsimp only
  generalize ((((s.sieveFlush p .disabled).chdSkipAll p).surfFree p).ingTouch p) = u at hkept ⊢
  refine ⟨by rw [State.rxForget_sp], ?_, ?_⟩
  · rw [State.rxForget_sp, hkept.sp]
    exact State.sieveFlush_toSieve s p _
  · exact (congrArg (Vector.get · p) hkept.hold).trans (State.sieveFlush_hold s p _)

theorem exec_spDisable_port (hw : Writable s (PG.sp p)) (hon : s.spEn p = true) {ini : Initiator} {v c : Word}
    (hc : s.wouldBe (PG.sp p) (.full ini R.SP_CTL v) = c) (hen : bitAt c 0 = false) :
    ∃ t, exec (.spDisable ini p v) s = .next t ∧ t.reg (PG.sp p) R.SP_CTL = c ∧ t.spEn p = false ∧
      (t.sp.get p).rx = none ∧ (t.sp.get p).toSieve = [] ∧ t.adm.hold.get p = [] := by
  obtain ⟨hrx, hsieve, hhold⟩ := State.spStop_port s p
  rw [exec_spDisable_stops hw hon (by rw [hc, hen]), hc, State.ends_eq]
  generalize s.spStop p = u at hrx hsieve hhold
  refine ⟨_, rfl, ?_, ?_, ?_, ?_, ?_⟩
  · rw [State.reg_withQueueOf, State.reg_setReg_self]
  · rw [State.spEn, State.bit_withQueueOf, State.bit, State.reg_setReg_self, hen]
  · rw [State.withQueueOf_sp, State.setReg_sp, hrx]
  · rw [State.withQueueOf_sp, State.setReg_sp, hsieve]
  · rw [State.withQueueOf_adm, State.setReg_adm, hhold]

end

/-- Settles O18: a write of SP_CTL by the bit EN it would hold and by the checks. What an enable and a disable clear is in part the
model's choice (log 67). -/
theorem sensorPortEnable : Obligations.SensorPortEnable := fun _ _ _ _ hw =>
  ⟨fun hoff hen hfail => exec_spEnable_fails hw hoff rfl hen hfail,
    fun hoff hen hpass hfits => exec_spEnable_passes hw hoff rfl hen hpass hfits,
    fun hon hen => exec_spDisable_port hw hon rfl hen, fun hon hen hne => exec_spEnable_refused hw hon hen hne⟩

end Sys2Proof.Machine
end

section
/-!
PROOFS. What stands behind the Sieves and admission (R154 to R162, R169, R439): the surface store, the rate chain, the results unit, the
Chord units, the incremental layers and the ingress bridge. What they do with an event leaves the Sieves' and admission's state and
the registers of their pages.
-/

namespace Sys2Proof.Machine

/-- The sensor ports, admission, the power phase and the time are as they were, and so are the registers of admission's page and of every
page before it, but the listed ones of the Sieve of port `p`. -/
structure FrontKept (s t : State) (p : Fin 8) (l : List Nat) : Prop where
  sp : t.sp = s.sp
  adm : t.adm = s.adm
  pwr : t.pwr = s.pwr
  dtc : t.dtc = s.dtc
  regs : ∀ page o, page ≤ PG.adm → o < 0x10000 → page ≠ PG.sv p ∨ o ∉ l → t.reg page o = s.reg page o

theorem frontKept_refl (s : State) (p : Fin 8) (l : List Nat) : FrontKept s s p l := ⟨rfl, rfl, rfl, rfl, fun _ _ _ _ _ => rfl⟩

theorem PG.sv_le (p : Fin 8) : PG.sv p ≤ PG.adm := by
  have := p.isLt
  unfold PG.sv PG.adm
  omega

theorem PG.sp_le (p : Fin 8) : PG.sp p ≤ PG.adm := by
  have := p.isLt
  unfold PG.sp PG.adm
  omega

/-- R459, R461: the pages of the memories stand behind admission's. -/
theorem memoryPage_front {page : Nat} (h : page ≤ PG.adm) : memoryPage page = false := by
  have hpages : ∀ i : Fin 0x21, memoryPage i = false := by decide
  exact hpages ⟨page, Nat.lt_succ_of_le h⟩

section
variable {s t u : State} {p : Fin 8} {l : List Nat}

/-! ### What it keeps -/

theorem FrontKept.sieveReg (h : FrontKept s t p l) {o : Nat} (ho : o < 0x10000) (hl : o ∉ l) : t.reg (PG.sv p) o = s.reg (PG.sv p) o :=
  h.regs _ o (PG.sv_le p) ho (.inr hl)

theorem FrontKept.otherReg (h : FrontKept s t p l) {page o : Nat} (hp : page ≤ PG.adm) (hsv : page ≠ PG.sv p) (ho : o < 0x10000) :
    t.reg page o = s.reg page o :=
  h.regs page o hp ho (.inl hsv)

theorem FrontKept.counted (h : FrontKept u t p l) {o lo n k : Nat} (hc : Counted s u (PG.sv p) o lo n k) (ho : o < 0x10000)
    (hl : o ∉ l) : Counted s t (PG.sv p) o lo n k := by
  rw [Counted, State.fld, h.sieveReg ho hl]
  exact hc

theorem FrontKept.trans (h : FrontKept s t p l) (k : FrontKept t u p l) : FrontKept s u p l where
  sp := k.sp.trans h.sp
  adm := k.adm.trans h.adm
  pwr := k.pwr.trans h.pwr
  dtc := k.dtc.trans h.dtc
  regs q o hq ho hl := (k.regs q o hq ho hl).trans (h.regs q o hq ho hl)

theorem FrontKept.mono (h : FrontKept s t p l) {l' : List Nat} (hl : l ⊆ l') : FrontKept s t p l' where
  sp := h.sp
  adm := h.adm
  pwr := h.pwr
  dtc := h.dtc
  regs q o hq ho hne := h.regs q o hq ho (hne.imp_right fun hn hm => hn (hl hm))

/-! ### Changes behind admission -/

theorem frontKept_setReg (h : FrontKept s t p l) {page o : Nat} (hp : PG.adm < page) (ho : o < 0x10000) (v : Word) :
    FrontKept s (t.setReg page o v) p l :=
  h.trans ⟨rfl, rfl, rfl, rfl, fun q _ hq hr _ => State.reg_setReg_ne _ _ (rkey_ne ho hr (.inl (by omega)))⟩

theorem frontKept_setSieve (h : FrontKept s t p l) {o : Nat} (ho : o < 0x10000) (hl : o ∈ l) (v : Word) :
    FrontKept s (t.setReg (PG.sv p) o v) p l :=
  h.trans ⟨rfl, rfl, rfl, rfl, fun _ _ _ hr hq => State.reg_setReg_ne _ _
    (rkey_ne ho hr (hq.imp_right fun hne he => hne (he ▸ hl)))⟩

theorem frontKept_sfsUpd (h : FrontKept s t p l) (f : SfsState → SfsState) : FrontKept s (t.sfsUpd f) p l :=
  ⟨h.sp, h.adm, h.pwr, h.dtc, h.regs⟩
theorem frontKept_rchUpd (h : FrontKept s t p l) (f : RchState → RchState) : FrontKept s (t.rchUpd f) p l :=
  ⟨h.sp, h.adm, h.pwr, h.dtc, h.regs⟩
theorem frontKept_chdUpd (h : FrontKept s t p l) (q : Fin 8) (f : ChdState → ChdState) : FrontKept s (t.chdUpd q f) p l :=
  ⟨h.sp, h.adm, h.pwr, h.dtc, h.regs⟩
theorem frontKept_incUpd (h : FrontKept s t p l) (k : Fin 6) (c : Fin 2) (f : IncState → IncState) : FrontKept s (t.incUpd k c f) p l :=
  ⟨h.sp, h.adm, h.pwr, h.dtc, h.regs⟩
theorem frontKept_latUpd (h : FrontKept s t p l) (k : Fin 6) (f : LatState → LatState) : FrontKept s (t.latUpd k f) p l :=
  ⟨h.sp, h.adm, h.pwr, h.dtc, h.regs⟩
theorem frontKept_spkUpd (h : FrontKept s t p l) (f : SpkState → SpkState) : FrontKept s (t.spkUpd f) p l :=
  ⟨h.sp, h.adm, h.pwr, h.dtc, h.regs⟩
theorem frontKept_rtrPush (h : FrontKept s t p l) (r : Fin 8) (i : Fin 5) (x : Packet) : FrontKept s (t.rtrPush r i x) p l :=
  ⟨h.sp, h.adm, h.pwr, h.dtc, h.regs⟩
theorem frontKept_setWins (h : FrontKept s t p l) (q : Fin 8) (ws : List Win) : FrontKept s (t.setWins q ws) p l :=
  ⟨h.sp, h.adm, h.pwr, h.dtc, h.regs⟩
theorem frontKept_takeFree (h : FrontKept s t p l) : FrontKept s t.takeFree.2 p l := ⟨h.sp, h.adm, h.pwr, h.dtc, h.regs⟩

theorem frontKept_onlyMem (h : FrontKept s t p l) (k : OnlyMem t u) : FrontKept s u p l :=
  h.trans ⟨by rw [k.rest], by rw [k.rest], by rw [k.rest], by rw [k.rest],
    fun q o hq ho _ => k.kept q o ho (memoryPage_front hq)⟩

theorem frontKept_ite (h : FrontKept s t p l) (k : FrontKept s u p l) (c : Prop) [Decidable c] :
    FrontKept s (if c then t else u) p l := by
  split
  · exact h
  · exact k

theorem frontKept_snd_ite {α : Type} {x y : α × State} (c : Prop) [Decidable c] (h : FrontKept s x.2 p l) (k : FrontKept s y.2 p l) :
    FrontKept s (if c then x else y).2 p l := by
  split
  · exact h
  · exact k

/-! ### The results unit (R437, R445) -/

theorem frontKept_lookPos (h : FrontKept s t p l) (b : Fin 8) (iet : Nat) : FrontKept s (t.lookPos b iet).2.2 p l := by
  have hset : ∀ {u : State}, FrontKept s u p l → ∀ {o}, o < 0x10000 → ∀ v, FrontKept s (u.setReg (PG.ptb b) o v) p l :=
    fun hu _ ho v => frontKept_setReg hu (Nat.lt_add_right _ (by decide)) ho v
  exact frontKept_ite (hset (hset (hset h (by decide) _) (by decide) _) (by decide) _) h _

theorem frontKept_winFind (h : FrontKept s t p l) (q : Fin 8) (iet : Nat) : FrontKept s (t.winFind q iet).2 p l := by
  have hplace : FrontKept s (t.winPlace q iet).2 p l := by
    unfold State.winPlace
    split
    · exact frontKept_lookPos h _ _
    · exact h
  unfold State.winFind
  split
  · exact h
  · dsimp only
    split <;> exact hplace

theorem frontKept_winCount (h : FrontKept s t p l) (q : Fin 8) (iet : Nat) (f : Win → Win) : FrontKept s (t.winCount q iet f).2 p l := by
  have hfind := frontKept_winFind h q iet
  unfold State.winCount
  generalize t.winFind q iet = r at hfind ⊢
  obtain ⟨_ | ⟨i, oop⟩, u⟩ := r
  · exact hfind
  · exact frontKept_setWins hfind _ _

/-! ### Surface words (R213, R214) -/

theorem frontKept_setSfs (h : FrontKept s t p l) {o : Nat} (ho : o < 0x10000) (v : Word) : FrontKept s (t.setReg PG.sfs o v) p l :=
  frontKept_setReg h (by decide) ho v

theorem frontKept_surfRead (h : FrontKept s t p l) (q : Fin 8) (o : Nat) : FrontKept s (t.surfRead q none o).2 p l := by
  unfold State.surfRead
  refine frontKept_snd_ite _ h ?_
  exact frontKept_setSfs (frontKept_setSfs (frontKept_setSfs h (by decide) _) (by decide) _) (by decide) _

theorem frontKept_surfFreshAt (h : FrontKept s t p l) (q : Fin 8) (x y d : Int) : FrontKept s (t.surfFreshAt q none x y d).2 p l := by
  have hread := frontKept_surfRead h q (t.pixOff q x.toNat y.toNat)
  unfold State.surfFreshAt
  refine frontKept_snd_ite _ h ?_
  dsimp only
  split <;> exact hread

theorem frontKept_sieveReads (h : FrontKept s t p l) (q : Fin 8) (x y : Nat) (d : Int) : FrontKept s (t.sieveReads q none x y d).2 p l := by
  unfold State.sieveReads
  refine foldl_keeps (fun a : List (BitVec 32 × Int) × State => FrontKept s a.2 p l) _ (fun a o ha => ?_) _ _ ?_
  · exact frontKept_surfFreshAt ha _ _ _ _
  · exact frontKept_surfFreshAt h _ _ _ _

theorem SFS_P_CNT_lt (q : Fin 8) : R.SFS_P_CNT q < 0x10000 := by
  have := q.isLt
  unfold R.SFS_P_CNT
  omega

theorem frontKept_surfEvent (h : FrontKept s t p l) (q : Fin 8) (x y : Nat) (pol : Bool) (d : Int) :
    FrontKept s (t.surfEvent q x y pol d) p l := by
  have hcnt : FrontKept s (t.bump PG.sfs (R.SFS_P_CNT q) 0 32) p l := frontKept_setSfs h (SFS_P_CNT_lt q) _
  unfold State.surfEvent
  dsimp only
  split
  · exact frontKept_sfsUpd hcnt _
  · split
    · exact frontKept_sfsUpd hcnt _
    · exact frontKept_setSfs (frontKept_sfsUpd hcnt _) (by decide) _

/-! ### The rate chain (R405) -/

theorem frontKept_rateCount (h : FrontKept s t p l) (q : Fin 8) (x y : Nat) (pol : Bool) (iet : Nat) :
    FrontKept s (t.rateCount q x y pol iet) p l := by
  unfold State.rateCount
  refine frontKept_ite h (frontKept_rchUpd (frontKept_ite ?_ h _) _) _
  exact frontKept_setReg h (by decide) (by decide) _

/-! ### Where an admitted event goes (R169, R223, R303, R378) -/

theorem frontKept_chdPush (h : FrontKept s t p l) (q : Fin 8) (w : Word) (ext : Int) : FrontKept s (t.chdPush q w ext) p l := by
  have hset : ∀ {u : State}, FrontKept s u p l → ∀ {o}, o < 0x10000 → ∀ v, FrontKept s (u.setReg (PG.chd q) o v) p l :=
    fun hu _ ho v => frontKept_setReg hu (Nat.lt_add_right _ (by decide)) ho v
  have hcnt : FrontKept s (t.bump (PG.chd q) R.CHD_CNT0 32 32) p l := hset h (by decide) _
  unfold State.chdPush
  refine frontKept_ite ?_ (hset (frontKept_chdUpd h _ _) (by decide) _) _
  exact frontKept_ite (hset hcnt (by decide) _) hcnt _

theorem INC_CNT1_lt (c : Fin 2) : R.INC_CNT1 c < 0x10000 := by
  have := c.isLt
  unfold R.INC_CNT1
  omega

theorem frontKept_incLost (h : FrontKept s t p l) (k : Fin 6) (c : Fin 2) (w : Word) : FrontKept s (t.incLost k c w) p l := by
  have hset : ∀ {u : State}, FrontKept s u p l → ∀ {o}, o < 0x10000 → ∀ v, FrontKept s (u.setReg (PG.fct k) o v) p l :=
    fun hu _ ho v => frontKept_setReg hu (Nat.lt_add_right _ (by decide)) ho v
  exact frontKept_incUpd (hset (hset h (INC_CNT1_lt c) _) (by decide) _) _ _ _

theorem frontKept_incPush (h : FrontKept s t p l) (q : Fin 8) (w : Word) : FrontKept s (t.incPush q w) p l := by
  have hctx : ∀ (k : Fin 6) (u : State) (c : Fin 2), FrontKept s u p l → FrontKept s
      (if !u.alive (PG.fct k) || !u.incEn k c || u.incPort k c != q then u
      else if 4096 ≤ (u.ictx k c).q.length then u.incLost k c w else u.incUpd k c fun x => { x with q := x.q ++ [w] }) p l :=
    fun k u c hu => frontKept_ite hu (frontKept_ite (frontKept_incLost hu _ _ _) (frontKept_incUpd hu _ _ _) _) _
  unfold State.incPush
  exact foldl_keeps (FrontKept s · p l) _ (fun u k hu => foldl_keeps (FrontKept s · p l) _ (hctx k) _ u hu) _ t h

theorem ING_P_CNT_lt (q : Fin 8) : R.ING_P_CNT q < 0x10000 := by
  have := q.isLt
  unfold R.ING_P_CNT
  omega

theorem frontKept_cwMarkStep (h : FrontKept s t p l) (k : Fin 6) (c m : Nat) : FrontKept s (t.cwMarkStep k c m) p l := by
  unfold State.cwMarkStep
  split
  · exact h
  · exact frontKept_latUpd h _ _

theorem frontKept_setIngress (h : FrontKept s t p l) {o : Nat} (ho : o < 0x10000) (v : Word) :
    FrontKept s (t.setReg (PG.spk 6) o v) p l :=
  frontKept_setReg h (by decide) ho v

theorem frontKept_ingSend (h : FrontKept s t p l) (q : Fin 8) (x : Packet) (step : Nat) : FrontKept s (t.ingSend q x step) p l := by
  unfold State.ingSend
  refine frontKept_ite (frontKept_rtrPush h _ _ _) (frontKept_ite ?_ ?_ _) _
  · exact frontKept_spkUpd (frontKept_onlyMem (frontKept_takeFree h) (onlyMem_writeBytes (onlyMem_refl _) none _ _)) _
  · exact foldl_keeps (FrontKept s · p l) _ (fun u k hu => frontKept_cwMarkStep hu k _ _) _ _
      (frontKept_setIngress h (ING_P_CNT_lt q) _)

theorem frontKept_ingEvent (h : FrontKept s t p l) (q : Fin 8) (w : Word) : FrontKept s (t.ingEvent q w) p l := by
  have hcnt : ∀ {u : State}, FrontKept s u p l → ∀ lo n, FrontKept s (u.bump (PG.spk 6) (R.ING_P_CNT q) lo n) p l :=
    fun hu _ _ => frontKept_setIngress hu (ING_P_CNT_lt q) _
  have hone := hcnt (frontKept_takeFree h) 0 32
  unfold State.ingEvent
  refine frontKept_ite h (frontKept_ingSend ?_ _ _ _) _
  exact frontKept_ite (hcnt hone 32 16) hone _

end

end Sys2Proof.Machine
end

section
/-!
PROOFS. Obligation O15: a word at the Sieve is removed, joins the hold queue with its class, or passes as it is (R148, R152, R161, R167).
-/

namespace Sys2Proof.Machine

theorem PG.adm_ne_sv (p : Fin 8) : PG.adm ≠ PG.sv p := by
  have := p.isLt
  unfold PG.adm PG.sv
  omega

section
variable {s t u : State} {p : Fin 8} {w : Word} {r : List Word} {l : List Nat}

/-! ### Entry into the hold queue (R167, R168) -/

theorem State.holdPush_room (h : (s.adm.hold.get p).length < holdSize) : s.holdPush p w = (false, s.holdEnter p w) := by
  unfold State.holdPush
  split
  · rfl
  · next e q hq =>
    rw [hq, List.length_cons] at h
    exact if_pos h

theorem State.holdEnter_hold (s : State) (p : Fin 8) (w : Word) :
    ∃ e, (s.holdEnter p w).adm.hold.get p = s.adm.hold.get p ++ [e] ∧ e.word = w ∧ e.entered = s.dtc :=
  ⟨_, vupd_get_self _ _ _, rfl, rfl⟩

theorem State.holdEnter_sp (s : State) (p : Fin 8) (w : Word) : (s.holdEnter p w).sp = s.sp := rfl

theorem ADM_P_HOLD_lt (p : Fin 8) : R.ADM_P_HOLD p < 0x10000 := by
  have := p.isLt
  unfold R.ADM_P_HOLD
  omega

theorem State.holdEnter_reg (s : State) (p : Fin 8) (w : Word) {page o : Nat} (hp : page ≠ PG.adm) (ho : o < 0x10000) :
    (s.holdEnter p w).reg page o = s.reg page o :=
  State.reg_setReg_ne _ _ (rkey_ne (ADM_P_HOLD_lt p) ho (.inl hp))

/-! ### The next word (R148) -/

/-- The oldest word has left the Sieve's input, and `r` wait behind it. -/
def State.sievePopped (s : State) (p : Fin 8) (r : List Word) : State := s.spUpd p fun x => { x with toSieve := r }

@[simp] theorem State.sievePopped_toSieve (s : State) (p : Fin 8) (r : List Word) : ((s.sievePopped p r).sp.get p).toSieve = r := by
  rw [State.sievePopped, State.spUpd_get]

theorem State.sieveNext_empty (h : (s.sp.get p).toSieve = []) (up : Option PixelUpset) : s.sieveNext p up = s := by
  rw [State.sieveNext, h]

theorem State.sieveNext_removed (h : (s.sp.get p).toSieve = w :: r) (hk : evKind w = 0) {up : Option PixelUpset}
    (hu : (s.sievePopped p r).sievePixel p up w = (none, u)) : s.sieveNext p up = u := by
  rw [State.sievePopped] at hu
  rw [State.sieveNext, h]
  refine (if_pos hk).trans ?_
  dsimp only
  rw [hu]

theorem State.sieveNext_handedOn (h : (s.sp.get p).toSieve = w :: r) (hk : evKind w = 0) {up : Option PixelUpset} {w' : Word}
    (hu : (s.sievePopped p r).sievePixel p up w = (some w', u)) : s.sieveNext p up = (u.holdPush p w').2 := by
  rw [State.sievePopped] at hu
  rw [State.sieveNext, h]
  refine (if_pos hk).trans ?_
  dsimp only
  rw [hu]

theorem State.sieveNext_other (h : (s.sp.get p).toSieve = w :: r) (hk : evKind w ≠ 0) (up : Option PixelUpset)
    (hu : s.sieveOther p w = (false, u)) : s.sieveNext p up = u.sievePopped p r := by
  rw [State.sieveNext, h]
  refine (if_neg hk).trans ?_
  rw [hu]
  rfl

theorem exec_sieveEvent_works (hsv : s.alive (PG.sv p) = true) (hgo : s.stopped (PG.sv p) = false) (hsfs : s.alive PG.sfs = true)
    (hinit : s.surfInit p = false) : exec (.sieveEvent p none) s = s.ends (s.sieveNext p none) := by
  rw [exec_sieveEvent, execSieveEvent, State.sieveStep, if_pos (by rw [hsv, hgo, hsfs, hinit]; rfl)]

/-! ### The hot-pixel filter (R152) -/

theorem State.sievePixel_masked (hf : s.bit (PG.sv p) R.SV_CTL 0 = true) (hm : NSet.has s.adm.hot (hotKey p (evX w) (evY w)) = true)
    (up : Option PixelUpset) : s.sievePixel p up w = (none, s.bump (PG.sv p) R.SV_CNT0 0 32) := by
  rw [State.sievePixel]
  exact if_pos (by rw [hf, hm]; rfl)

theorem State.sieveNext_masked (hq : (s.sp.get p).toSieve = w :: r) (hk : evKind w = 0) (hf : s.bit (PG.sv p) R.SV_CTL 0 = true)
    (hm : NSet.has s.adm.hot (hotKey p (evX w) (evY w)) = true) (up : Option PixelUpset) :
    s.sieveNext p up = (s.sievePopped p r).bump (PG.sv p) R.SV_CNT0 0 32 :=
  State.sieveNext_removed hq hk (State.sievePixel_masked (s := s.sievePopped p r) hf hm up)

/-! ### No filter on (R155 to R162) -/

/-- R157: the registers of the flicker histogram. -/
def flkHistRegs : List Nat := (List.range 32).map R.SV_FLK_HIST

theorem flkHistRegs_range : ∀ o ∈ flkHistRegs, 0x200 ≤ o ∧ o < 0x300 := by decide

theorem flkPhase_lt (pos : Word) (harm : Bool) : flkPhase pos harm / 2048 < 32 := by
  have hlow : low 32 (pos.toInt / 65536 * (if harm then 2 else 1)) < 2 ^ 32 := by
    unfold low
    omega
  unfold flkPhase
  omega

theorem SV_FLK_HIST_mem (pos : Word) (harm : Bool) : R.SV_FLK_HIST (flkPhase pos harm / 2048) ∈ flkHistRegs :=
  List.mem_map_of_mem (List.mem_range.mpr (flkPhase_lt pos harm))

/-- R157, R159: with the notch off an event only counts in the histogram. -/
theorem State.flkStage_off (hen : s.bit (PG.sv p) R.SV_CTL 2 = false) (tile iet : Nat) (pol : Bool) :
    (s.flkStage p tile iet pol).1 = false ∧ FrontKept s (s.flkStage p tile iet pol).2 p flkHistRegs := by
  have hlook := frontKept_lookPos (frontKept_refl s p flkHistRegs) (baseOf (s.fld (PG.sv p) R.SV_CTL 8 3)) iet
  unfold State.flkStage
  dsimp only
  simp only [hen, Bool.false_and, Bool.false_eq_true, if_false]
  split
  · have hmem := SV_FLK_HIST_mem (s.lookPos (baseOf (s.fld (PG.sv p) R.SV_CTL 8 3)) iet).1
    exact ⟨rfl, frontKept_setSieve hlook ((flkHistRegs_range _ (hmem _)).2.trans (by decide)) (hmem _) _⟩
  · exact ⟨rfl, frontKept_refl _ _ _⟩

theorem State.bit_of_fld_zero {page o lo n : Nat} (h : s.fld page o lo n = 0) {i : Nat} (hi : i < n) : s.bit page o (lo + i) = false :=
  testBit_of_nfld_zero h hi

theorem State.refrHit_off (h : s.bit (PG.sv p) R.SV_CTL 1 = false) (own : Option (BitVec 32 × Int)) (pol : Bool) :
    s.refrHit p own pol = false := by
  have hctl : bitAt (s.reg (PG.sv p) R.SV_CTL) 1 = false := h
  cases own with
  | none => rfl
  | some o => rw [State.refrHit, hctl, Bool.false_and, Bool.false_and]

/-! ### The class of a tile (R161) -/

theorem State.tileIx_lt (s : State) (p : Fin 8) (w : Word) : s.tileIx p (evX w) (evY w) < 32768 := by
  have hx : evX w < 2 ^ 11 := bf_lt w 32 11
  have hy : evY w < 2 ^ 11 := bf_lt w 43 11
  have hw : s.geomW p < 2 ^ 12 := bf_lt _ 0 12
  have hrow : s.tilesW p ≤ 256 := by
    unfold State.tilesW
    omega
  have hmul : evY w / 16 * s.tilesW p ≤ 127 * 256 := Nat.mul_le_mul (by omega) hrow
  unfold State.tileIx
  omega

theorem FrontKept.sieveCtl (h : FrontKept s t p flkHistRegs) : t.reg (PG.sv p) R.SV_CTL = s.reg (PG.sv p) R.SV_CTL :=
  h.sieveReg (by decide) (by decide)

theorem FrontKept.tileIx (h : FrontKept s t p l) (x y : Nat) : t.tileIx p x y = s.tileIx p x y := by
  have hgeom : t.reg (PG.sp p) R.SP_GEOM = s.reg (PG.sp p) R.SP_GEOM :=
    h.otherReg (PG.sp_le p) (by unfold PG.sp PG.sv; omega) (by decide)
  rw [State.tileIx, State.tilesW, State.geomW, State.fld, hgeom, State.tileIx, State.tilesW, State.geomW, State.fld]

theorem FrontKept.classOf (h : FrontKept s t p flkHistRegs) {tile : Nat} (ht : tile < 32768) : t.classOf p tile = s.classOf p tile := by
  have hbeyond : R.SV_CLASS (tile / 32) ∉ flkHistRegs := fun hm => by
    have := (flkHistRegs_range _ hm).2
    unfold R.SV_CLASS at this
    omega
  rw [State.classOf, State.fld, h.sieveReg (by unfold R.SV_CLASS; omega) hbeyond, State.classOf, State.fld]

theorem FrontKept.admBypass (h : FrontKept s t p l) : t.admBypass p = s.admBypass p := by
  have hports := h.otherReg (page := PG.pwc) (o := R.PWC_WATCH_PORTS) (by decide) (by unfold PG.pwc PG.sv; omega) (by decide)
  have hhand := h.otherReg (page := PG.adm) (o := R.PG_PWR) (Nat.le_refl _) (PG.adm_ne_sv p) (by decide)
  simp only [State.admBypass, State.bit, State.fld, hports, hhand, h.pwr]

/-! ### A pixel event that is handed on -/

/-- R148, R161: with no filter on, an event of a class that is not discarded is handed on with its class, and counted. -/
theorem State.sievePixel_passes (hoff : s.fld (PG.sv p) R.SV_CTL 0 4 = 0) (hclass : s.classOf p (s.tileIx p (evX w) (evY w)) ≠ 3)
    (hby : s.admBypass p = false) : ∃ u, s.sievePixel p none w = (some (putFld w 60 2 (s.classOf p (s.tileIx p (evX w) (evY w)))), u) ∧
      u.sp = s.sp ∧ u.adm = s.adm ∧ u.dtc = s.dtc ∧ Counted s u (PG.sv p) R.SV_CNT2 0 32 1 := by
  have hbit : ∀ {t}, FrontKept s t p flkHistRegs → ∀ i, i < 4 → t.bit (PG.sv p) R.SV_CTL (0 + i) = false := fun h i hi => by
    rw [State.bit, h.sieveCtl]
    exact State.bit_of_fld_zero hoff hi
  have hread := frontKept_sieveReads (frontKept_refl s p flkHistRegs) p (evX w) (evY w) (s.surfTime p (evIet w))
  have hhot := hbit (frontKept_refl s p _) 0 (by decide)
  unfold State.sievePixel
  dsimp only
  rw [hhot]
  generalize s.sieveReads p none (evX w) (evY w) (s.surfTime p (evIet w)) = reads at hread ⊢
  obtain ⟨hstay, hflk⟩ := State.flkStage_off (hbit hread 2 (by decide)) (reads.2.tileIx p (evX w) (evY w)) (evIet w) (evPol w)
  replace hflk := hread.trans hflk
  rw [hread.tileIx] at hstay hflk ⊢
  rw [State.refrHit_off (hbit hread 1 (by decide))]
  generalize reads.2.flkStage p (s.tileIx p (evX w) (evY w)) (evIet w) (evPol w) = notch at hstay hflk ⊢
  rw [hstay, hbit hflk 3 (by decide), hflk.classOf (s.tileIx_lt p w)]
  have hcnt : Counted s (notch.2.bump (PG.sv p) R.SV_CNT2 0 32) (PG.sv p) R.SV_CNT2 0 32 1 :=
    counted_bump (hflk.sieveReg (by decide) (by decide)) (by decide)
  have hend := fun l => frontKept_rateCount (frontKept_surfEvent (frontKept_refl (notch.2.bump (PG.sv p) R.SV_CNT2 0 32) p l) p (evX w)
    (evY w) (evPol w) (s.surfTime p (evIet w))) p (evX w) (evY w) (evPol w) (evIet w)
  generalize ((notch.2.bump (PG.sv p) R.SV_CNT2 0 32).surfEvent p (evX w) (evY w) (evPol w) (s.surfTime p (evIet w))).rateCount p (evX w)
    (evY w) (evPol w) (evIet w) = u at hend ⊢
  have hkept : FrontKept s u p (R.SV_CNT2 :: flkHistRegs) :=
    (frontKept_setSieve (hflk.mono (List.subset_cons_self _ _)) (by decide) List.mem_cons_self _).trans (hend _)
  simp only [Bool.false_and, Bool.false_eq_true, if_false]
  rw [if_neg (by rw [hkept.admBypass, hby]; simp [hclass])]
  exact ⟨u, rfl, hkept.sp, hkept.adm, hkept.dtc, (hend []).counted hcnt (by decide) List.not_mem_nil⟩

/-! ### What the word's way through the Sieve answers -/

theorem ends_sieveNext_masked (hq : (s.sp.get p).toSieve = w :: r) (hk : evKind w = 0) (hf : s.bit (PG.sv p) R.SV_CTL 0 = true)
    (hm : NSet.has s.adm.hot (hotKey p (evX w) (evY w)) = true) :
    ∃ t, s.ends (s.sieveNext p none) = .next t ∧ (t.sp.get p).toSieve = r ∧ Counted s t (PG.sv p) R.SV_CNT0 0 32 1 ∧
      t.adm = s.adm ∧ t = { s with regs := t.regs, sp := t.sp } ∧ PageKept s t (PG.sv p) [R.SV_CNT0] := by
  rw [State.sieveNext_masked hq hk hf hm]
  refine ⟨_, State.ends_of rfl rfl, ?_, counted_bump rfl (by decide), rfl, rfl, ?_⟩
  · rw [State.bump_sp, State.sievePopped_toSieve]
  · exact pageKept_setReg (pageKept_of_regs (pageKept_refl s _ _) rfl) (by decide) List.mem_cons_self _

theorem ends_sieveNext_passes (hq : (s.sp.get p).toSieve = w :: r) (hk : evKind w = 0) (hoff : s.fld (PG.sv p) R.SV_CTL 0 4 = 0)
    (hclass : s.classOf p (s.tileIx p (evX w) (evY w)) ≠ 3) (hby : s.admBypass p = false)
    (hroom : (s.adm.hold.get p).length < holdSize) :
    ∃ t e, s.ends (s.sieveNext p none) = .next t ∧ (t.sp.get p).toSieve = r ∧ t.adm.hold.get p = s.adm.hold.get p ++ [e] ∧
      e.word = putFld w 60 2 (s.classOf p (s.tileIx p (evX w) (evY w))) ∧ e.entered = s.dtc ∧
      Counted s t (PG.sv p) R.SV_CNT2 0 32 1 := by
  obtain ⟨u, hu, hsp, hadm, hdtc, hcnt⟩ := State.sievePixel_passes (s := s.sievePopped p r) hoff hclass hby
  have hroom' : (u.adm.hold.get p).length < holdSize := by rwa [hadm]
  have hclass' : (s.sievePopped p r).classOf p ((s.sievePopped p r).tileIx p (evX w) (evY w)) =
    s.classOf p (s.tileIx p (evX w) (evY w)) := rfl
  rw [hclass'] at hu
  rw [State.sieveNext_handedOn hq hk hu, State.holdPush_room hroom', State.ends_eq]
  obtain ⟨e, hhold, hword, hin⟩ := u.holdEnter_hold p (putFld w 60 2 (s.classOf p (s.tileIx p (evX w) (evY w))))
  refine ⟨_, e, rfl, ?_, ?_, hword, hin.trans hdtc, ?_⟩
  · rw [State.withQueueOf_sp, State.holdEnter_sp, hsp, State.sievePopped_toSieve]
  · rw [State.withQueueOf_adm, hhold, hadm]
    rfl
  · rw [Counted, State.fld_withQueueOf, State.fld, State.holdEnter_reg u p _ (PG.adm_ne_sv p).symm (by decide)]
    exact hcnt

theorem ends_sieveNext_other (hq : (s.sp.get p).toSieve = w :: r) (hk : evKind w = 1 ∨ evKind w = 2) (hby : s.admBypass p = false)
    (hroom : (s.adm.hold.get p).length < holdSize) :
    ∃ t e, s.ends (s.sieveNext p none) = .next t ∧ (t.sp.get p).toSieve = r ∧ t.adm.hold.get p = s.adm.hold.get p ++ [e] ∧
      e.word = w ∧ e.entered = s.dtc ∧ t = { s with regs := t.regs, sp := t.sp, adm := t.adm, spk := t.spk } := by
  have hother : s.sieveOther p w = (false, s.holdEnter p w) := by
    rw [State.sieveOther, if_neg (by rw [hby]; decide), State.holdPush_room hroom]
    exact congrArg (Prod.mk false) (if_neg (by omega))
  rw [State.sieveNext_other hq (by omega) none hother]
  obtain ⟨e, hhold, hword, hin⟩ := s.holdEnter_hold p w
  exact ⟨_, e, State.ends_of rfl rfl, State.sievePopped_toSieve _ p r, hhold, hword, hin, rfl⟩

end

/-- Settles O15: by the kind of the oldest word, and for a pixel event by the mask of its pixel and the class of its tile. -/
theorem sieveTakesOneWord : Obligations.SieveTakesOneWord := by
  intro p s hsv hgo hsfs hinit
  rw [exec_sieveEvent_works hsv hgo hsfs hinit]
  exact ⟨fun hq => by rw [State.sieveNext_empty hq, State.ends_self],
    fun _ _ hq => ⟨ends_sieveNext_masked hq, ends_sieveNext_passes hq, ends_sieveNext_other hq⟩⟩

end Sys2Proof.Machine
end

section
/-!
PROOFS. Obligation O17: the budgets of admission, the enable of a port, and the decision at the head of a hold queue (R165, R166, R171,
R174).
-/

namespace Sys2Proof.Machine

/-! ### Budgets (R165) -/

/-- The registers from which a port's budgets and checks are formed stand as they were: every one of admission's page but the control
words, at the multiples of 0x80; and so does the clock. -/
structure ParamsKept (s t : State) : Prop where
  regs : ∀ o, o < 0x10000 → o % 0x80 ≠ 0 → t.reg PG.adm o = s.reg PG.adm o
  clk : t.coreClk = s.coreClk

/-- R165: the budgets of port `p` are those that the registers of `s` give in full. -/
def FullBudget (s t : State) (p : Fin 8) : Prop :=
  t.adm.rem0.get p = s.admBud p 32 ∧ t.adm.rem.get p = (s.admScaled p).map2 (· - ·) (s.admBud p 32)

theorem fullBudget_of_adm {s t u : State} {p : Fin 8} (h : FullBudget s t p) (he : u.adm = t.adm) : FullBudget s u p := by
  unfold FullBudget
  rw [he]
  exact h

section
variable {s t u : State} {p q : Fin 8}

theorem ParamsKept.reg (h : ParamsKept s t) (q : Fin 8) (i : Nat) {o : Nat} (ho : o = 0x1000 + i + 0x80 * q) (hi : 0 < i ∧ i < 0x80) :
    t.reg PG.adm o = s.reg PG.adm o :=
  h.regs o (by have := q.isLt; omega) (by omega)

theorem ParamsKept.fld (h : ParamsKept s t) (q : Fin 8) (i : Nat) {o : Nat} (ho : o = 0x1000 + i + 0x80 * q) (hi : 0 < i ∧ i < 0x80)
    (lo n : Nat) : t.fld PG.adm o lo n = s.fld PG.adm o lo n := by
  rw [State.fld, h.reg q i ho hi, State.fld]

theorem ParamsKept.admBud (h : ParamsKept s t) (q : Fin 8) (lo : Nat) : t.admBud q lo = s.admBud q lo := by
  rw [State.admBud, h.fld q 0x28 rfl (by decide), h.fld q 0x30 rfl (by decide), h.fld q 0x38 rfl (by decide), State.admBud]

theorem ParamsKept.admScaled (h : ParamsKept s t) (q : Fin 8) : t.admScaled q = s.admScaled q := by
  rw [State.admScaled, h.admBud, h.clk, State.admScaled]

theorem ParamsKept.admCost0 (h : ParamsKept s t) (q : Fin 8) : t.admCost q 0 = s.admCost q 0 := by
  have hcost : t.reg PG.adm (R.ADM_P_COST0 q + 8 * 0) = s.reg PG.adm (R.ADM_P_COST0 q + 8 * 0) := h.reg q 0x40 rfl (by decide)
  rw [State.admCost, hcost, State.admCost]

theorem ParamsKept.admChecks (h : ParamsKept s t) (q : Fin 8) : t.admChecks q = s.admChecks q := by
  have htd := h.fld (o := R.ADM_P_TDELIVER q) q 0x10 rfl (by decide)
  have hdm := h.fld (o := R.ADM_P_DEFER_MAX q) q 0x18 rfl (by decide)
  have hsvc := h.fld (o := R.ADM_P_SVC q) q 0x20 rfl (by decide)
  have hdecl := h.fld (o := R.ADM_P_DECL0 q) q 0x60 rfl (by decide)
  unfold State.admChecks
  dsimp only
  rw [htd, hdm, hsvc, hdecl, h.admBud, h.admBud, h.admCost0]

theorem fullBudget_admLoad (h : ParamsKept s t) (p : Fin 8) : FullBudget s (t.admLoad p) p := by
  refine ⟨(Vector.getElem_set_self ..).trans (h.admBud p 32), (Vector.getElem_set_self ..).trans ?_⟩
  rw [h.admBud, h.admScaled]

theorem fullBudget_admLoad_ne (h : FullBudget s t q) (hne : q ≠ p) : FullBudget s (t.admLoad p) q := by
  have hget : ∀ (v : Vector Budget 8) b, (v.set p b).get q = v.get q := fun v b =>
    Vector.getElem_set_ne p.isLt q.isLt fun e => hne (Fin.ext e.symm)
  exact ⟨(hget _ _).trans h.1, (hget _ _).trans h.2⟩

/-! ### An admission window begins (R165, R172) -/

theorem State.admReload_current (h : s.admNow ≤ s.adm.win) : s.admReload = s := if_pos h

/-- R172: the events shed in the window before are shown, `n` of them, with its index. -/
def State.shedShown (s : State) (p : Fin 8) (n : Nat × Nat) (k : Nat) : State :=
  if s.isOff (PG.sv p) then s
  else (s.setReg (PG.sv p) R.SV_SHED_LAST (wOfNat (n.1 + n.2 <<< 32))).setReg (PG.sv p) R.SV_SHED_LAST_WIN (wOfNat (k - 1))

theorem State.shedShown_adm (s : State) (p : Fin 8) (n : Nat × Nat) (k : Nat) : (s.shedShown p n k).adm = s.adm := by
  unfold State.shedShown
  split
  · rfl
  · rw [State.setReg_adm, State.setReg_adm]

/-- R165, R172: window `k` begins for a port. -/
def State.windowPort (old : AdmState) (k : Nat) (s : State) (p : Fin 8) : State :=
  let s := s.shedShown p (if old.win + 1 = k then old.shed.get p else (0, 0)) k
  if s.admEn p then s.admLoad p else s

/-- R165, R170: the window's index and its empty counts, before the ports. -/
def State.windowOpened (s : State) : State :=
  (s.admUpd fun x => { x with win := s.admNow, ovc := Vector.replicate 8 false, written := Vector.replicate 8 [],
                              shed := Vector.replicate 8 (0, 0) }).locUpd fun x => { x with charge := Vector.replicate 8 0 }

theorem State.adm_ite (c : Prop) [Decidable c] (h : t.adm = u.adm) : (if c then t else u).adm = u.adm := by
  split
  · exact h
  · rfl

theorem State.admReload_adm (h : s.adm.win < s.admNow) :
    s.admReload.adm = ((List.finRange 8).foldl (State.windowPort s.adm s.admNow) s.windowOpened).adm := by
  rw [State.admReload]
  refine (congrArg State.adm (if_neg (by omega))).trans ?_
  exact State.adm_ite _ rfl

/-- The window of the present time has begun, and its ports are being loaded. -/
structure WindowBegun (s t : State) : Prop where
  regs : ∀ o, o < 0x10000 → t.reg PG.adm o = s.reg PG.adm o
  clk : t.coreClk = s.coreClk
  win : t.adm.win = s.admNow
  hold : t.adm.hold = s.adm.hold

theorem WindowBegun.params (h : WindowBegun s t) : ParamsKept s t := ⟨fun o ho _ => h.regs o ho, h.clk⟩

theorem ADM_P_CTL_lt (p : Fin 8) : R.ADM_P_CTL p < 0x10000 := by
  have := p.isLt
  unfold R.ADM_P_CTL
  omega

theorem WindowBegun.admEn (h : WindowBegun s t) (p : Fin 8) : t.admEn p = s.admEn p := by
  rw [State.admEn, State.bit, h.regs _ (ADM_P_CTL_lt p), State.admEn, State.bit]

theorem windowBegun_shedShown (h : WindowBegun s t) (p : Fin 8) (n : Nat × Nat) (k : Nat) : WindowBegun s (t.shedShown p n k) := by
  have hset : ∀ {u}, WindowBegun s u → ∀ {o}, o < 0x10000 → ∀ v, WindowBegun s (u.setReg (PG.sv p) o v) := fun hu _ ho v =>
    ⟨fun r hr => (State.reg_setReg_ne _ _ (rkey_ne ho hr (.inl (PG.adm_ne_sv p)))).trans (hu.regs r hr), hu.clk, hu.win, hu.hold⟩
  unfold State.shedShown
  split
  · exact h
  · exact hset (hset h (by decide) _) (by decide) _

theorem windowBegun_admLoad (h : WindowBegun s t) (p : Fin 8) : WindowBegun s (t.admLoad p) := ⟨h.regs, h.clk, h.win, h.hold⟩

/-- R165: what a port's part in a new window does, by its enable. -/
theorem windowPort_of_enable (h : WindowBegun s t) (old : AdmState) (k : Nat) (p : Fin 8) : ∃ u, WindowBegun s u ∧ u.adm = t.adm ∧
    t.windowPort old k p = if s.admEn p then u.admLoad p else u := by
  have hshown := windowBegun_shedShown h p (if old.win + 1 = k then old.shed.get p else (0, 0)) k
  exact ⟨_, hshown, t.shedShown_adm p _ k, by rw [← hshown.admEn]; rfl⟩

theorem windowBegun_windowPort (h : WindowBegun s t) (old : AdmState) (k : Nat) (p : Fin 8) : WindowBegun s (t.windowPort old k p) := by
  obtain ⟨u, hu, -, he⟩ := windowPort_of_enable h old k p
  rw [he]
  split
  · exact windowBegun_admLoad hu p
  · exact hu

theorem fullBudget_windowPort (h : WindowBegun s t) (old : AdmState) (k : Nat) (p : Fin 8) (hen : s.admEn q = true)
    (hq : q = p ∨ FullBudget s t q) : FullBudget s (t.windowPort old k p) q := by
  obtain ⟨u, hu, hadm, he⟩ := windowPort_of_enable h old k p
  rw [he]
  by_cases hqp : q = p
  · rw [hqp] at hen ⊢
    rw [if_pos hen]
    exact fullBudget_admLoad hu.params p
  · have hfull := fullBudget_of_adm (hq.resolve_left hqp) hadm
    split
    · exact fullBudget_admLoad_ne hfull hqp
    · exact hfull

theorem windowPorts_begun (old : AdmState) (k : Nat) (ps : List (Fin 8)) (h : WindowBegun s t) :
    WindowBegun s (ps.foldl (State.windowPort old k) t) :=
  foldl_keeps (WindowBegun s) _ (fun _ p hu => windowBegun_windowPort hu old k p) ps t h

theorem windowPorts_fullBudget (old : AdmState) (k : Nat) (ps : List (Fin 8)) (hen : s.admEn q = true) (h : WindowBegun s t)
    (hq : q ∈ ps ∨ FullBudget s t q) : FullBudget s (ps.foldl (State.windowPort old k) t) q := by
  induction ps generalizing t with
  | nil => exact hq.resolve_left List.not_mem_nil
  | cons p ps ih =>
    refine ih (windowBegun_windowPort h old k p) ?_
    rcases hq with hq | hq
    · exact (List.mem_cons.mp hq).symm.imp_right fun he => fullBudget_windowPort h old k p hen (.inl he)
    · exact .inr (fullBudget_windowPort h old k p hen (.inr hq))

theorem windowBegun_opened (s : State) : WindowBegun s s.windowOpened := ⟨fun _ _ => rfl, rfl, rfl, rfl⟩

theorem exec_admWindowReload_current (h : s.admNow ≤ s.adm.win) : exec .admWindowReload s = .next s := by
  rw [exec_admWindowReload, execAdmWindowReload, State.admReload_current h, State.ends_self]

theorem exec_admWindowReload_new (h : s.adm.win < s.admNow) : ∃ t, exec .admWindowReload s = .next t ∧ t.adm.win = s.admNow ∧
    (∀ p, s.admEn p = true → FullBudget s t p) ∧ ∀ p, t.adm.hold.get p = s.adm.hold.get p := by
  have hbegun := windowPorts_begun s.adm s.admNow (List.finRange 8) (windowBegun_opened s)
  rw [exec_admWindowReload, execAdmWindowReload, State.ends_eq]
  have hadm : (s.admReload.withQueueOf s).adm = _ := State.admReload_adm h
  refine ⟨_, rfl, ?_, fun p hen => ?_, fun p => ?_⟩
  · rw [hadm, hbegun.win]
  · exact fullBudget_of_adm (windowPorts_fullBudget _ _ _ hen (windowBegun_opened s) (.inl (List.mem_finRange p))) hadm
  · rw [hadm, hbegun.hold]

/-! ### The enable of a port (R173, R174) -/

/-- R173: ADM_P_CTL. -/
def admCtlReg : RegDef := { base := 0x1000, n1 := 8, s1 := 0x80, rw := 0x1 }

theorem lookupReg_admCtl : ∀ p : Fin 8, lookupReg PG.adm (R.ADM_P_CTL p) = some (admCtlReg, p.val, 0) := by decide

theorem ADM_P_CTL_full_reg (p : Fin 8) (ini : Initiator) (v : Word) : (Wr.full ini (R.ADM_P_CTL p) v).reg = R.ADM_P_CTL p := by
  rw [Wr.full_reg]
  unfold R.ADM_P_CTL
  omega

/-- R173: the port's control word as a 64-bit write leaves it. -/
def State.admCtlStored (s : State) (ini : Initiator) (p : Fin 8) (v : Word) : State :=
  s.setReg PG.adm (R.ADM_P_CTL p) (applyWr admCtlReg (s.reg PG.adm (R.ADM_P_CTL p)) (.full ini (R.ADM_P_CTL p) v))

theorem State.plainWrite_admCtl (s : State) (ini : Initiator) (p : Fin 8) (v : Word) :
    s.plainWrite PG.adm (.full ini (R.ADM_P_CTL p) v) = s.admCtlStored ini p v := by
  rw [State.plainWrite, ADM_P_CTL_full_reg, lookupReg_admCtl]
  rfl

theorem State.admWrite_ctl {w : Wr} (h : w.reg = R.ADM_P_CTL p) : s.admWrite w = s.admCtl p w := by
  have hp := p.isLt
  have hreg : w.reg = 0x1000 + 0x80 * p.val := h
  have hport : baseOf ((w.reg - 0x1000) / 0x80) = p := Fin.ext (by show (w.reg - 0x1000) / 0x80 % 8 = p.val; omega)
  rw [State.admWrite, if_neg (by omega)]
  dsimp only
  rw [if_pos (by omega), hport]

theorem exec_admPortEnable_stores (hw : Writable s PG.adm) (ini : Initiator) (p : Fin 8) (v : Word) :
    exec (.admPortEnable ini p v) s = s.ends (s.admCtl p (.full ini (R.ADM_P_CTL p) v)) := by
  rw [exec_admPortEnable, execAdmPortEnable, State.admWr, State.gate_writable hw, State.admWrite_ctl (ADM_P_CTL_full_reg p ini v)]

section
variable {ini : Initiator} {v : Word}

theorem State.admEn_stored (h : bitAt v 0 = true) : (s.admCtlStored ini p v).admEn p = true := by
  rw [State.admEn, State.bit, State.admCtlStored, State.reg_setReg_self, bitAt, applyWr_getLsbD _ _ _ (by decide), Wr.full_val, Wr.full_m]
  simpa [admCtlReg, bitAt] using h

theorem paramsKept_stored (s : State) (ini : Initiator) (p : Fin 8) (v : Word) : ParamsKept s (s.admCtlStored ini p v) where
  regs o ho hne := State.reg_setReg_ne _ _ (rkey_ne (ADM_P_CTL_lt p) ho (.inr (by unfold R.ADM_P_CTL; omega)))
  clk := rfl

theorem State.admCtl_passes (hoff : s.admEn p = false) (hon : bitAt v 0 = true) (hpass : s.admChecks p = []) :
    s.admCtl p (.full ini (R.ADM_P_CTL p) v) = (s.admCtlStored ini p v).admReload.admLoad p := by
  unfold State.admCtl
  dsimp only
  rw [State.plainWrite_admCtl, State.admEn_stored hon, hoff, (paramsKept_stored s ini p v).admChecks, hpass]
  rfl

/-- R174: every failing check's bit. -/
def State.admFailed (s : State) (p : Fin 8) (l : List Nat) : State :=
  l.foldl (fun s b => s.setBit PG.adm (R.ADM_P_STS p) b true) s

theorem State.admCtl_fails (hoff : s.admEn p = false) (hon : bitAt v 0 = true) (hfail : s.admChecks p ≠ []) :
    s.admCtl p (.full ini (R.ADM_P_CTL p) v) =
      ((s.admCtlStored ini p v).admFailed p (s.admChecks p)).setBit PG.adm (R.ADM_P_CTL p) 0 false := by
  unfold State.admCtl
  dsimp only
  rw [State.plainWrite_admCtl, State.admEn_stored hon, hoff, (paramsKept_stored s ini p v).admChecks]
  exact (if_neg (by decide)).trans (if_neg (by rwa [List.isEmpty_iff]))

theorem State.admChecks_lt (s : State) (p : Fin 8) : ∀ b ∈ s.admChecks p, b < 64 := by
  intro b hb
  obtain ⟨⟨i, c⟩, hmem, rfl⟩ := List.mem_map.mp hb
  have hlist := (List.mem_filter.mp hmem).1
  simp only [List.mem_cons, Prod.mk.injEq, List.not_mem_nil, or_false] at hlist
  omega

theorem ADM_P_STS_lt (p : Fin 8) : R.ADM_P_STS p < 0x10000 := by
  have := p.isLt
  unfold R.ADM_P_STS
  omega

theorem ADM_P_STS_ne_ctl (p : Fin 8) : R.ADM_P_STS p ≠ R.ADM_P_CTL p := by
  unfold R.ADM_P_STS R.ADM_P_CTL
  omega

theorem exec_admPortEnable_fails (hw : Writable s PG.adm) (hoff : s.admEn p = false) (hon : bitAt v 0 = true)
    (hfail : s.admChecks p ≠ []) : ∃ t, exec (.admPortEnable ini p v) s = .next t ∧ t.admEn p = false ∧
      (∀ b, b ∈ s.admChecks p → t.bit PG.adm (R.ADM_P_STS p) b = true) ∧ OnlyRegs s t ∧
      PageKept s t PG.adm [R.ADM_P_CTL p, R.ADM_P_STS p] := by
  rw [exec_admPortEnable_stores hw, State.admCtl_fails hoff hon hfail]
  have hregs : OnlyRegs s ((s.admCtlStored ini p v).admFailed p (s.admChecks p)) :=
    foldl_keeps (OnlyRegs s) _ (fun _ _ hu => onlyRegs_setReg hu _ _ _) _ _ (onlyRegs_setReg (onlyRegs_refl s) _ _ _)
  have hkept : PageKept s ((s.admCtlStored ini p v).admFailed p (s.admChecks p)) PG.adm [R.ADM_P_CTL p, R.ADM_P_STS p] :=
    foldl_keeps (PageKept s · PG.adm _) _ (fun _ _ hu => pageKept_setReg hu (ADM_P_STS_lt p) (by simp) _) _ _
      (pageKept_setReg (pageKept_refl s _ _) (ADM_P_CTL_lt p) List.mem_cons_self _)
  refine ⟨_, ends_of_onlyRegs (onlyRegs_setReg hregs _ _ _), State.bit_setBit_self _ _ _ _ _ (by decide), fun b hb => ?_,
    onlyRegs_setReg hregs _ _ _, pageKept_setReg hkept (ADM_P_CTL_lt p) List.mem_cons_self _⟩
  rw [State.bit, State.reg_setBit_off _ (ADM_P_STS_ne_ctl p)]
  exact State.bit_foldl_setBit _ _ _ (s.admChecks_lt p) (.inl hb)

theorem exec_admPortEnable_passes (hw : Writable s PG.adm) (hoff : s.admEn p = false) (hon : bitAt v 0 = true)
    (hpass : s.admChecks p = []) (hwin : s.admNow ≤ s.adm.win) : ∃ t, exec (.admPortEnable ini p v) s = .next t ∧ t.admEn p = true ∧
      t.adm.rem0.get p = s.admBud p 32 ∧ t.adm.rem.get p = (s.admScaled p).map2 (· - ·) (s.admBud p 32) ∧
      t = { s with regs := t.regs, adm := t.adm, loc := t.loc } ∧ PageKept s t PG.adm [R.ADM_P_CTL p] := by
  have hreload : (s.admCtlStored ini p v).admReload = s.admCtlStored ini p v := State.admReload_current hwin
  obtain ⟨hrem0, hrem⟩ := fullBudget_admLoad (paramsKept_stored s ini p v) p
  have hloaded : ((s.admCtlStored ini p v).admLoad p).regs = (s.admCtlStored ini p v).regs := rfl
  rw [exec_admPortEnable_stores hw, State.admCtl_passes hoff hon hpass, hreload]
  refine ⟨_, State.ends_of rfl rfl, ?_, hrem0, hrem, rfl, ?_⟩
  · rw [State.admEn, State.bit, State.reg_congr hloaded]
    exact State.admEn_stored hon
  · exact pageKept_of_regs (pageKept_setReg (pageKept_refl s _ _) (ADM_P_CTL_lt p) List.mem_cons_self _) hloaded

end

/-! ### Shedding (R171) -/

theorem counted_setReg_off {page off lo n k o : Nat} (h : Counted s t page off lo n k) (hoff : off ≠ o) (v : Word) :
    Counted s (t.setReg page o v) page off lo n k := by
  rw [Counted, State.fld, State.reg_setReg_off _ _ hoff]
  exact h

section
variable {w : Word}

theorem State.shed_rem (s : State) (p : Fin 8) (w : Word) (c : ShedCause) : (s.shed p w c).adm.rem = s.adm.rem := by
  unfold State.shed
  dsimp only
  rw [(frontKept_winCount (frontKept_refl _ p []) _ _ _).adm]
  cases c <;> rfl

theorem State.shed_budget_counts (h : evClass w = 2) : Counted s (s.shed p w .budget) (PG.sv p) R.SV_SHED 32 32 1 ∧
    Counted s (s.shed p w .budget) (PG.sv p) R.SV_SHED_CAUSE0 0 32 1 := by
  have hclass : Counted s (s.bump (PG.sv p) R.SV_SHED 32 32) (PG.sv p) R.SV_SHED 32 32 1 := counted_bump rfl (by decide)
  have hcause : Counted s ((s.bump (PG.sv p) R.SV_SHED 32 32).bump (PG.sv p) R.SV_SHED_CAUSE0 0 32) (PG.sv p) R.SV_SHED_CAUSE0 0 32 1 :=
    counted_bump (State.reg_setReg_off _ _ (by decide)) (by decide)
  unfold State.shed
  dsimp only
  simp only [h, if_true]
  have hwin := fun u f => frontKept_winCount (frontKept_refl u p []) p (evIet w) f
  exact ⟨(hwin _ _).counted (counted_setReg_off hclass (by decide) _) (by decide) List.not_mem_nil,
    (hwin _ _).counted hcause (by decide) List.not_mem_nil⟩

theorem State.shed_disabled_counts (s : State) (p : Fin 8) (w : Word) :
    Counted s (s.shed p w .disabled) (PG.sv p) R.SV_SHED_CAUSE1 32 16 1 := by
  have hcause : ∀ lo, Counted s ((s.bump (PG.sv p) R.SV_SHED lo 32).bump (PG.sv p) R.SV_SHED_CAUSE1 32 16) (PG.sv p)
      R.SV_SHED_CAUSE1 32 16 1 := fun _ => counted_bump (State.reg_setReg_off _ _ (by decide)) (by decide)
  have hwin := fun u f => frontKept_winCount (frontKept_refl u p []) p (evIet w) f
  unfold State.shed
  dsimp only
  exact (hwin _ _).counted (hcause _) (by decide) List.not_mem_nil

end

/-! ### Admission (R26, R169) -/

/-- R169: the count of an admitted class-0 event. -/
theorem State.admitEv_class0 {e : HoldEv} (hc : evClass e.word = 0) :
    FrontKept (s.bump (PG.sv p) R.SV_ADM0 0 32) (s.admitEv p e) p [R.SV_ADM1] := by
  have hclass : evClass (putBit e.word 63 e.late) = 0 := (bf_putBit_other _ _ _ _ _ (.inl (by decide))).trans hc
  unfold State.admitEv
  dsimp only
  rw [hclass]
  refine frontKept_ingEvent (frontKept_incPush (frontKept_chdPush (frontKept_winCount ?_ _ _ _) _ _ _) _ _) _ _
  exact frontKept_ite (frontKept_setSieve (frontKept_refl _ _ _) (by decide) List.mem_cons_self _) (frontKept_refl _ _ _) _

/-! ### The head of a hold queue (R166, R171) -/

theorem State.holdPop_hold {e : HoldEv} {r : List HoldEv} (h : s.adm.hold.get p = e :: r) : (s.holdPop p).adm.hold.get p = r :=
  (vupd_get_self _ _ _).trans (congrArg List.tail h)

section
variable {e : HoldEv} {r : List HoldEv} (hruns : s.admRuns = true) (hsv : s.alive (PG.sv p) = true) (hwin : s.admNow ≤ s.adm.win)
include hruns hsv hwin

theorem State.admHead_empty (hq : s.adm.hold.get p = []) : s.admHead p = s := by
  rw [State.admHead, if_neg (by rw [hruns, hsv]; decide), State.admReload_current hwin]
  dsimp only
  rw [hq]

theorem State.admHead_disabled (hq : s.adm.hold.get p = e :: r) (hk : evKind e.word = 0) (hen : s.admEn p = false) :
    s.admHead p = (s.holdPop p).shed p e.word .disabled := by
  rw [State.admHead, if_neg (by rw [hruns, hsv]; decide), State.admReload_current hwin]
  dsimp only
  rw [hq]
  exact (if_neg (not_not_intro hk)).trans (if_pos (by rw [hen]; rfl))

theorem State.admHead_enabled (hq : s.adm.hold.get p = e :: r) (hk : evKind e.word = 0) (hen : s.admEn p = true) :
    s.admHead p = s.admDecide p e := by
  rw [State.admHead, if_neg (by rw [hruns, hsv]; decide), State.admReload_current hwin]
  dsimp only
  rw [hq]
  exact (if_neg (not_not_intro hk)).trans (if_neg (by rw [hen]; decide))

end

/-- R166: the cost taken from the reservation of class 0. -/
def State.reserveSpent (s : State) (p : Fin 8) (k : Budget) : State :=
  s.admUpd fun x => { x with rem0 := x.rem0.set p ((s.adm.rem0.get p).map2 (· - ·) k) }

section
variable {e : HoldEv} {r : List HoldEv}

theorem State.admDecide_reserved (hc : evClass e.word = 0) (hfits : (s.admCost p (evClass e.word)).le (s.adm.rem0.get p) = true) :
    s.admDecide p e = ((s.reserveSpent p (s.admCost p (evClass e.word))).holdPop p).admitEv p e := by
  rw [hc] at hfits ⊢
  unfold State.admDecide
  dsimp only
  rw [hc, if_pos hfits]
  rfl

theorem State.admDecide_shed (hc : evClass e.word = 2)
    (hover : ((s.admCost p (evClass e.word)).map2 (· + ·) (s.admGuard p)).le (s.adm.rem.get p) = false) :
    s.admDecide p e = (s.holdPop p).shed p e.word .budget := by
  rw [hc] at hover
  unfold State.admDecide
  dsimp only
  rw [hc, hover]
  rfl

theorem ends_admDecide_reserved (hq : s.adm.hold.get p = e :: r) (hc : evClass e.word = 0)
    (hfits : (s.admCost p (evClass e.word)).le (s.adm.rem0.get p) = true) :
    ∃ t, s.ends (s.admDecide p e) = .next t ∧ t.adm.hold.get p = r ∧
      t.adm.rem0.get p = (s.adm.rem0.get p).map2 (· - ·) (s.admCost p (evClass e.word)) ∧ t.adm.rem.get p = s.adm.rem.get p ∧
      Counted s t (PG.sv p) R.SV_ADM0 0 32 1 := by
  rw [State.admDecide_reserved hc hfits, State.ends_eq]
  generalize s.admCost p (evClass e.word) = k
  have hcnt : Counted s (((s.reserveSpent p k).holdPop p).bump (PG.sv p) R.SV_ADM0 0 32) (PG.sv p) R.SV_ADM0 0 32 1 :=
    counted_bump rfl (by decide)
  have hkept := State.admitEv_class0 (s := (s.reserveSpent p k).holdPop p) (p := p) hc
  refine ⟨_, rfl, ?_, ?_, ?_, ?_⟩
  · rw [State.withQueueOf_adm, hkept.adm, State.bump_adm, State.holdPop_hold (s := s.reserveSpent p k) hq]
  · rw [State.withQueueOf_adm, hkept.adm]
    exact Vector.getElem_set_self ..
  · rw [State.withQueueOf_adm, hkept.adm]
    rfl
  · rw [Counted, State.fld_withQueueOf]
    exact hkept.counted hcnt (by decide) (by decide)

theorem ends_shed_budget (hq : s.adm.hold.get p = e :: r) (hc : evClass e.word = 2) :
    ∃ t, s.ends ((s.holdPop p).shed p e.word .budget) = .next t ∧ t.adm.hold.get p = r ∧ t.adm.rem.get p = s.adm.rem.get p ∧
      Counted s t (PG.sv p) R.SV_SHED 32 32 1 ∧ Counted s t (PG.sv p) R.SV_SHED_CAUSE0 0 32 1 := by
  obtain ⟨hclass, hcause⟩ := State.shed_budget_counts (s := s.holdPop p) (p := p) hc
  refine ⟨_, State.ends_eq _ _, ?_, ?_, hclass, hcause⟩
  · rw [State.withQueueOf_adm, (sieveKept_shed (sieveKept_refl _) p e.word .budget).hold, State.holdPop_hold hq]
  · rw [State.withQueueOf_adm, State.shed_rem]
    rfl

theorem ends_shed_disabled (hq : s.adm.hold.get p = e :: r) :
    ∃ t, s.ends ((s.holdPop p).shed p e.word .disabled) = .next t ∧ t.adm.hold.get p = r ∧
      Counted s t (PG.sv p) R.SV_SHED_CAUSE1 32 16 1 := by
  refine ⟨_, State.ends_eq _ _, ?_, State.shed_disabled_counts (s.holdPop p) p e.word⟩
  rw [State.withQueueOf_adm, (sieveKept_shed (sieveKept_refl _) p e.word .disabled).hold, State.holdPop_hold hq]

end

end

/-- Settles O17: the window by its index, the enable by the checks, the decision by the head's class and the budgets left. -/
theorem admissionBudgetsAndDecisions : Obligations.AdmissionBudgetsAndDecisions := by
  refine ⟨fun s => ⟨exec_admWindowReload_current, exec_admWindowReload_new⟩, fun ini p v s hw hoff hon hfail =>
    exec_admPortEnable_fails hw hoff hon hfail, fun ini p v s hw hoff hon hpass hwin =>
    exec_admPortEnable_passes hw hoff hon hpass hwin, fun p s hruns hsv hwin => ?_⟩
  rw [exec_admHeadDecision, execAdmHeadDecision]
  refine ⟨fun hq => by rw [State.admHead_empty hruns hsv hwin hq, State.ends_self], fun e r hq hk =>
    ⟨fun hen hc hfits => ?_, fun hen hc hover => ?_, fun hen => ?_⟩⟩
  · rw [State.admHead_enabled hruns hsv hwin hq hk hen]
    exact ends_admDecide_reserved hq hc hfits
  · rw [State.admHead_enabled hruns hsv hwin hq hk hen, State.admDecide_shed hc hover]
    exact ends_shed_budget hq hc
  · rw [State.admHead_disabled hruns hsv hwin hq hk hen]
    exact ends_shed_disabled hq

end Sys2Proof.Machine
end

section
/-!
PROOFS. The reflex path (R176 to R210): what a change of the path leaves of the state beside it, its records, and what its outputs do
in a pulse.
-/

namespace Sys2Proof.Machine

/-! ### What a change of the path leaves -/

@[simp] theorem State.reg_rfxUpd (s : State) (f : RfxState → RfxState) (q o : Nat) : (s.rfxUpd f).reg q o = s.reg q o := rfl

@[simp] theorem State.fld_rfxUpd (s : State) (f : RfxState → RfxState) (q o lo n : Nat) : (s.rfxUpd f).fld q o lo n = s.fld q o lo n := rfl

@[simp] theorem State.bit_rfxUpd (s : State) (f : RfxState → RfxState) (q o i : Nat) : (s.rfxUpd f).bit q o i = s.bit q o i := rfl

/-- Of the reflex path alone something changes: what it holds, and of the registers none but the listed ones of its page. -/
structure OnlyReflex (s t : State) (l : List Nat) : Prop where
  rest : t = { s with regs := t.regs, rfx := t.rfx }
  kept : PageKept s t PG.rfx l

section
variable {s t u : State} {l l' : List Nat}

theorem onlyReflex_refl (s : State) (l : List Nat) : OnlyReflex s s l := ⟨rfl, pageKept_refl _ _ _⟩

theorem onlyReflex_setReg (h : OnlyReflex s t l) {o : Nat} (ho : o < 0x10000) (hl : o ∈ l) (v : Word) :
    OnlyReflex s (t.setReg PG.rfx o v) l where
  rest := by rw [h.rest]; rfl
  kept := pageKept_setReg h.kept ho hl v

theorem onlyReflex_rfxUpd (h : OnlyReflex s t l) (f : RfxState → RfxState) : OnlyReflex s (t.rfxUpd f) l where
  rest := by rw [h.rest]; rfl
  kept := h.kept

theorem onlyReflex_ite (h : OnlyReflex s t l) (k : OnlyReflex s u l) (c : Prop) [Decidable c] :
    OnlyReflex s (if c then t else u) l := by
  split <;> assumption

theorem OnlyReflex.trans (h : OnlyReflex s t l) (k : OnlyReflex t u l) : OnlyReflex s u l where
  rest := by rw [k.rest, h.rest]
  kept q o ho hq := (k.kept q o ho hq).trans (h.kept q o ho hq)

theorem OnlyReflex.mono (h : OnlyReflex s t l) (hl : l ⊆ l') : OnlyReflex s t l' where
  rest := h.rest
  kept q o ho hq := h.kept q o ho (hq.imp_right fun hn hm => hn (hl hm))

theorem OnlyReflex.reg (h : OnlyReflex s t l) {o : Nat} (ho : o < 0x10000) (hl : o ∉ l) : t.reg PG.rfx o = s.reg PG.rfx o :=
  h.kept _ o ho (.inr hl)

theorem OnlyReflex.reg_beside (h : OnlyReflex s t l) {page o : Nat} (hp : page ≠ PG.rfx) (ho : o < 0x10000) : t.reg page o = s.reg page o :=
  h.kept _ o ho (.inl hp)

theorem OnlyReflex.dtc (h : OnlyReflex s t l) : t.dtc = s.dtc := by rw [h.rest]

theorem OnlyReflex.sp (h : OnlyReflex s t l) : t.sp = s.sp := by rw [h.rest]

/-- What it leaves of the state is the answer itself. -/
theorem OnlyReflex.ends (h : OnlyReflex s t l) : s.ends t = .next t := State.ends_of (by rw [h.rest]) (by rw [h.rest])

/-! ### Counters and bits beside a later change -/

theorem counted_of_reg {page off lo n k : Nat} (h : Counted s t page off lo n k) (hreg : u.reg page off = t.reg page off) :
    Counted s u page off lo n k := by
  rw [Counted, State.fld, hreg]
  exact h

theorem State.bit_congr {page off : Nat} (h : t.reg page off = s.reg page off) (i : Nat) : t.bit page off i = s.bit page off i := by
  rw [State.bit, h, State.bit]

end

/-! ### Records (R200) -/

/-- The registers in which a lost record shows. -/
def recRegs : List Nat := [R.RFX_CNT0, R.RFX_STS, R.PG_IRQ_RAW]

theorem State.reflexRec_joins {s : State} (h : s.rfx.recs.length < 256) (r : ReflexRec) :
    s.reflexRec r = s.rfxUpd fun x => { x with recs := x.recs ++ [{ r with dtc := s.dtc }] } :=
  if_neg (Nat.not_le.mpr h)

theorem State.reflexRec_lost {s : State} (h : 256 ≤ s.rfx.recs.length) (r : ReflexRec) :
    s.reflexRec r = ((s.bump PG.rfx R.RFX_CNT0 48 16).setBit PG.rfx R.RFX_STS 10 true).irq PG.rfx 5 :=
  if_pos h

theorem onlyReflex_reflexRec (s : State) (r : ReflexRec) : OnlyReflex s (s.reflexRec r) recRegs := by
  have hin : R.RFX_CNT0 ∈ recRegs ∧ R.RFX_STS ∈ recRegs ∧ R.PG_IRQ_RAW ∈ recRegs := by decide
  obtain ⟨hcnt, hsts, hraw⟩ := hin
  by_cases hroom : s.rfx.recs.length < 256
  · rw [State.reflexRec_joins hroom]
    exact onlyReflex_rfxUpd (onlyReflex_refl _ _) _
  · rw [State.reflexRec_lost (Nat.not_lt.mp hroom)]
    exact onlyReflex_setReg (onlyReflex_setReg (onlyReflex_setReg (onlyReflex_refl _ _) (by decide) hcnt _) (by decide) hsts _)
      (by decide) hraw _

/-- Of what the path holds a record changes the queue of records only. -/
theorem State.reflexRec_rfx (s : State) (r : ReflexRec) : ∃ q, (s.reflexRec r).rfx = { s.rfx with recs := q } := by
  by_cases hroom : s.rfx.recs.length < 256
  · exact ⟨_, by rw [State.reflexRec_joins hroom]; rfl⟩
  · exact ⟨s.rfx.recs, by rw [State.reflexRec_lost (Nat.not_lt.mp hroom)]; rfl⟩

/-- What the path holds beside its records. -/
theorem State.reflexRec_field {α : Type} (g : RfxState → α) (hg : ∀ x q, g { x with recs := q } = g x) (s : State) (r : ReflexRec) :
    g (s.reflexRec r).rfx = g s.rfx := by
  obtain ⟨q, h⟩ := s.reflexRec_rfx r
  rw [h, hg]

@[simp] theorem State.reflexRec_cal (s : State) (r : ReflexRec) : (s.reflexRec r).rfx.cal = s.rfx.cal :=
  State.reflexRec_field RfxState.cal (fun _ _ => rfl) s r
@[simp] theorem State.reflexRec_eccBad (s : State) (r : ReflexRec) : (s.reflexRec r).rfx.eccBad = s.rfx.eccBad :=
  State.reflexRec_field RfxState.eccBad (fun _ _ => rfl) s r
@[simp] theorem State.reflexRec_rules (s : State) (r : ReflexRec) : (s.reflexRec r).rfx.rules = s.rfx.rules :=
  State.reflexRec_field RfxState.rules (fun _ _ => rfl) s r
@[simp] theorem State.reflexRec_sched (s : State) (r : ReflexRec) : (s.reflexRec r).sched = s.sched := by
  rw [(onlyReflex_reflexRec s r).rest]
@[simp] theorem State.reflexRec_dtc (s : State) (r : ReflexRec) : (s.reflexRec r).dtc = s.dtc := (onlyReflex_reflexRec s r).dtc

/-- Of RFX_STS a record changes REC_OVF only. -/
theorem State.bit_reflexRec (s : State) (r : ReflexRec) {i : Nat} (hi : i ≠ 10) :
    (s.reflexRec r).bit PG.rfx R.RFX_STS i = s.bit PG.rfx R.RFX_STS i := by
  by_cases hroom : s.rfx.recs.length < 256
  · rw [State.reflexRec_joins hroom, State.bit_rfxUpd]
  · rw [State.reflexRec_lost (Nat.not_lt.mp hroom), State.irq, State.bit_congr (State.reg_setBit_off _ (by decide)), State.bit_setBit_ne _ hi,
      State.bit_bump_off _ (by decide)]

/-! ### Outputs (R183, R201, R203) -/

theorem RFX_OUT_CFG_lt {o : Nat} (h : o < 32) : R.RFX_OUT_CFG o < 0x300 := by
  unfold R.RFX_OUT_CFG
  omega

@[simp] theorem outOf_val {n : Nat} (h : n < 32) : (outOf n).val = n := Nat.mod_eq_of_lt h

theorem State.outDark_congr {s t : State} {o : Nat} (hsts : t.reg PG.rfx R.RFX_STS = s.reg PG.rfx R.RFX_STS)
    (hcfg : t.reg PG.rfx (R.RFX_OUT_CFG o) = s.reg PG.rfx (R.RFX_OUT_CFG o)) (hrole : t.reg PG.wth R.WTH_STS = s.reg PG.wth R.WTH_STS) :
    t.outDark o = s.outDark o := by
  unfold State.outDark State.deadman State.role State.fld State.bit
  rw [hsts, hcfg, hrole]

theorem OnlyReflex.outDark {s t : State} {l : List Nat} (h : OnlyReflex s t l) {o : Nat} (ho : o < 32) (hsts : R.RFX_STS ∉ l)
    (hcfg : R.RFX_OUT_CFG o ∉ l) : t.outDark o = s.outDark o :=
  State.outDark_congr (h.reg (by decide) hsts) (h.reg (Nat.lt_trans (RFX_OUT_CFG_lt ho) (by decide)) hcfg)
    (h.reg_beside (by decide) (by decide))

theorem State.inPulse_congr {s t : State} (hpulse : t.rfx.pulse = s.rfx.pulse) (hdtc : t.dtc = s.dtc) (o : Fin 32) :
    t.inPulse o = s.inPulse o := by
  simp only [State.inPulse, hpulse, hdtc]

theorem State.inPulse_some {s : State} {o : Fin 32} {e : Word} (h : s.rfx.pulse.get o = some e) : s.inPulse o = before s.dtc e := by
  rw [State.inPulse, h]

/-- The timer of an output. -/
def RfxState.withTimer (x : RfxState) (o : Fin 32) (e : Option Word) : RfxState := { x with pulse := x.pulse.set o e }

theorem RfxState.withTimer_self (x : RfxState) (o : Fin 32) (e : Option Word) : (x.withTimer o e).pulse.get o = e :=
  Vector.getElem_set_self ..

theorem RfxState.withTimer_ne (x : RfxState) {o k : Fin 32} (h : k ≠ o) (e : Option Word) : (x.withTimer o e).pulse.get k = x.pulse.get k :=
  Vector.getElem_set_ne o.isLt k.isLt fun hv => h (Fin.ext hv.symm)

/-- R183: a pulse has started on the output, which ends at `fin`, and is counted. -/
structure Pulsed (s t : State) (o : Fin 32) (fin : Word) : Prop where
  only : OnlyReflex s t [R.RFX_CNT0]
  timer : t.rfx.pulse.get o = some fin
  others : ∀ k, k ≠ o → t.rfx.pulse.get k = s.rfx.pulse.get k
  counted : Counted s t PG.rfx R.RFX_CNT0 0 32 1
  held : t.rfx = { s.rfx with pulse := t.rfx.pulse, marks := t.rfx.marks }

theorem Pulsed.rules {s t : State} {o : Fin 32} {fin : Word} (h : Pulsed s t o fin) : t.rfx.rules = s.rfx.rules := by rw [h.held]

theorem Pulsed.cal {s t : State} {o : Fin 32} {fin : Word} (h : Pulsed s t o fin) : t.rfx.cal = s.rfx.cal := by rw [h.held]

theorem Pulsed.trips {s t : State} {o : Fin 32} {fin : Word} (h : Pulsed s t o fin) : t.rfx.trips = s.rfx.trips := by rw [h.held]

/-- R190: the mark of a pulse, if it has one. -/
def State.marked (s : State) : Option PulseMark → State
  | none => s
  | some m => s.rfxUpd fun x => { x with marks := x.marks ++ [m] }

/-- R183: a pulse of a driven, idle output starts, and counts as one. -/
theorem State.startPulse_idle {s : State} {o : Fin 32} (hdriven : s.outDark o = false) (hidle : s.inPulse o = false) (width : Nat)
    (rule : Option Nat) (mark : Option PulseMark) : s.startPulse o width rule mark =
      ((s.rfxUpd fun x => x.withTimer o (some (s.dtc + wOfNat (width * 10)))).bump PG.rfx R.RFX_CNT0 0 32).marked mark := by
  have hdark : ∀ f, (s.rfxUpd f).outDark o = false := fun _ => hdriven
  unfold State.startPulse
  simp only [hidle, hdark, Bool.false_and, Bool.not_false, Bool.true_or, Bool.false_eq_true, if_false, if_true]
  cases s.rfx.pulse.get o <;> cases mark <;> rfl

theorem pulsed_startPulse {s : State} {o : Fin 32} (hdriven : s.outDark o = false) (hidle : s.inPulse o = false) (width : Nat)
    (rule : Option Nat) (mark : Option PulseMark) :
    Pulsed s (s.startPulse o width rule mark) o (s.dtc + wOfNat (width * 10)) := by
  rw [State.startPulse_idle hdriven hidle]
  have hset : OnlyReflex s ((s.rfxUpd fun x => x.withTimer o (some (s.dtc + wOfNat (width * 10)))).bump PG.rfx R.RFX_CNT0 0 32) [R.RFX_CNT0] :=
    onlyReflex_setReg (onlyReflex_rfxUpd (onlyReflex_refl s _) _) (by decide) List.mem_cons_self _
  have hcnt := counted_bump (s := s) (t := s.rfxUpd fun x => x.withTimer o (some (s.dtc + wOfNat (width * 10)))) (page := PG.rfx)
    (off := R.RFX_CNT0) (lo := 0) (n := 32) rfl (by decide)
  cases mark with
  | none => exact ⟨hset, RfxState.withTimer_self _ _ _, fun k hk => RfxState.withTimer_ne _ hk _, hcnt, rfl⟩
  | some m => exact ⟨onlyReflex_rfxUpd hset fun x => { x with marks := x.marks ++ [m] }, RfxState.withTimer_self _ _ _, fun k hk => RfxState.withTimer_ne _ hk _, hcnt, rfl⟩

end Sys2Proof.Machine
end

section
/-!
PROOFS. Rules of the reflex path (R177 to R188): how a rule counts an input, what its firing leaves, and the inputs of one cycle when
one rule alone is enabled.
-/

namespace Sys2Proof.Machine

/-! ### The words of a rule -/

theorem RULE_CTL_lt {r : Nat} (h : r < 256) : R.RULE_CTL r < 0x10000 := by
  unfold R.RULE_CTL
  omega

theorem RULE_ACT_lt {r : Nat} (h : r < 256) : R.RULE_ACT r < 0x10000 := by
  unfold R.RULE_ACT
  omega

theorem RULE_STS_lt {r : Nat} (h : r < 256) : R.RULE_STS r < 0x10000 := by
  unfold R.RULE_STS
  omega

theorem RULE_CNT_lt {r : Nat} (h : r < 256) : R.RULE_CNT r < 0x10000 := by
  unfold R.RULE_CNT
  omega

/-- The registers that a rule's inputs and firings write. -/
def ruleRegs (r : Nat) : List Nat := [R.RULE_STS r, R.RULE_CNT r, R.RFX_CNT0]

theorem RULE_CTL_notMem_ruleRegs (q r : Nat) : R.RULE_CTL q ∉ ruleRegs r := by
  simp only [ruleRegs, R.RULE_CTL, R.RULE_STS, R.RULE_CNT, R.RFX_CNT0, List.mem_cons, List.not_mem_nil, or_false]
  omega

theorem RULE_CNT_ne_STS (q r : Nat) : R.RULE_CNT q ∉ [R.RULE_STS r] := by
  simp only [R.RULE_CNT, R.RULE_STS, List.mem_cons, List.not_mem_nil, or_false]
  omega

/-! ### What a rule keeps (R180) -/

theorem State.ruleRt_congr {s t : State} (h : t.rfx.rules = s.rfx.rules) (r : Nat) : t.ruleRt r = s.ruleRt r := by
  rw [State.ruleRt, h, State.ruleRt]

@[simp] theorem State.ruleRt_ruleUpd (s : State) (r : Nat) (f : RuleRt → RuleRt) : (s.ruleUpd r f).ruleRt r = f (s.ruleRt r) :=
  Sp.get_set_self _ _ _ _

theorem State.ruleRt_ruleUpd_ne (s : State) {r q : Nat} (h : q ≠ r) (f : RuleRt → RuleRt) : (s.ruleUpd r f).ruleRt q = s.ruleRt q :=
  Sp.get_set_ne _ _ _ _ h

@[simp] theorem State.ruleRt_setReg (s : State) (p o : Nat) (v : Word) (r : Nat) : (s.setReg p o v).ruleRt r = s.ruleRt r := rfl

@[simp] theorem State.ruleRt_setBit (s : State) (p o i : Nat) (b : Bool) (r : Nat) : (s.setBit p o i b).ruleRt r = s.ruleRt r := rfl

@[simp] theorem State.reg_ruleUpd (s : State) (r : Nat) (f : RuleRt → RuleRt) (q o : Nat) : (s.ruleUpd r f).reg q o = s.reg q o := rfl

/-- Of the path only rules change, and the status word of rule `r`. -/
structure OnlyRules (s t : State) (r : Nat) : Prop where
  only : OnlyReflex s t [R.RULE_STS r]
  held : t.rfx = { s.rfx with rules := t.rfx.rules }

section
variable {s t : State} {r : Nat}

theorem onlyRules_refl (s : State) (r : Nat) : OnlyRules s s r := ⟨onlyReflex_refl _ _, rfl⟩

theorem onlyRules_ruleUpd (h : OnlyRules s t r) (q : Nat) (f : RuleRt → RuleRt) : OnlyRules s (t.ruleUpd q f) r where
  only := onlyReflex_rfxUpd h.only _
  held := congrArg (fun x : RfxState => { x with rules := (t.ruleUpd q f).rfx.rules }) h.held

theorem onlyRules_setSts (h : OnlyRules s t r) (hr : r < 256) (i : Nat) (b : Bool) : OnlyRules s (t.setBit PG.rfx (R.RULE_STS r) i b) r where
  only := onlyReflex_setReg h.only (RULE_STS_lt hr) List.mem_cons_self _
  held := h.held

theorem onlyRules_setRing (h : OnlyRules s t r) (hr : r < 256) (g : RingState) : OnlyRules s (t.setRing r g) r :=
  onlyRules_setSts (onlyRules_ruleUpd h r _) hr _ _

theorem OnlyRules.pulse (h : OnlyRules s t r) : t.rfx.pulse = s.rfx.pulse := by rw [h.held]

theorem OnlyRules.cal (h : OnlyRules s t r) : t.rfx.cal = s.rfx.cal := by rw [h.held]

theorem OnlyRules.trips (h : OnlyRules s t r) : t.rfx.trips = s.rfx.trips := by rw [h.held]

end

theorem State.setRing_ruleRt (s : State) (r : Nat) (g : RingState) :
    (s.setRing r g).ruleRt r = { s.ruleRt r with ring := g.ring, tFire := g.tFire } :=
  State.ruleRt_ruleUpd s r fun x => { x with ring := g.ring, tFire := g.tFire }

/-! ### An input of a rule without holdoff (R180) -/

/-- R180: with one more input the threshold is reached, and the oldest of the ring lies inside the window. -/
def ringFires (thresh window : Nat) (ring : List Word) (t : Word) : Prop :=
  thresh ≤ ring.length + 1 ∧ ∀ e, ring.head? = some e → (t - e).toNat < window

/-- R180: the ring after an input below the threshold. -/
def RingState.joined (g : RingState) (t : Word) : RingState := { g with ring := g.ring ++ [t], holding := false }

/-- R180: the ring after a firing without holdoff. -/
def RingState.emptied (g : RingState) : RingState := { g with ring := [], holding := false }

theorem ringCount_below {thresh : Nat} {g : RingState} (hold : g.holding = false) (h : g.ring.length + 1 < thresh) (window : Nat) (t : Word) :
    ringCount thresh window 0 g t = (g.joined t, true, false) := by
  have hall : (g.ring ++ [t]).drop ((g.ring ++ [t]).length - (thresh - 1)) = g.ring ++ [t] := by
    rw [List.length_append, List.length_singleton, Nat.sub_eq_zero_of_le (by omega), List.drop_zero]
  unfold ringCount
  rw [if_neg (by simp [hold])]
  dsimp only
  rw [hall, decide_eq_false (Nat.not_le.mpr h)]
  rfl

theorem ringCount_fires {thresh window : Nat} {g : RingState} {t : Word} (hold : g.holding = false) (h : ringFires thresh window g.ring t) :
    ringCount thresh window 0 g t = (g.emptied, true, true) := by
  obtain ⟨ring, holding, tFire⟩ := g
  obtain ⟨hfull, hnear⟩ := h
  simp only at hold hfull hnear
  subst hold
  unfold ringCount
  rw [if_neg (by simp)]
  dsimp only
  rw [decide_eq_true hfull]
  cases ring with
  | nil => rfl
  | cons e l => exact if_pos (decide_eq_true (hnear e rfl))

/-! ### A firing of an immediate rule (R183) -/

theorem State.ruleAct_immediate {s : State} {r : Nat} (h : bitAt (s.reg PG.rfx (R.RULE_ACT r)) 0 = false) (iet : Option Nat)
    (pkt : Option (Fin 8 × Nat)) (unchk : Bool) : ∃ mark, s.ruleAct r iet pkt unchk =
      s.startPulse (outOf (bf (s.reg PG.rfx (R.RULE_ACT r)) 1 5)) (bf (s.reg PG.rfx (R.RULE_ACT r)) 16 24) (some r) mark :=
  ⟨_, if_pos (by rw [h]; rfl)⟩

/-- R180, R183: the rule has fired: the firing and its pulse are counted, its ring is empty, and the pulse ends at `fin`. -/
structure RuleFired (s t : State) (r : Nat) (o : Fin 32) (fin : Word) : Prop where
  only : OnlyReflex s t (ruleRegs r)
  fires : Counted s t PG.rfx (R.RULE_CNT r) 0 32 1
  ring : (t.ruleRt r).ring = []
  timer : t.rfx.pulse.get o = some fin
  pulses : Counted s t PG.rfx R.RFX_CNT0 0 32 1
  others : ∀ k, k ≠ o → t.rfx.pulse.get k = s.rfx.pulse.get k
  cal : t.rfx.cal = s.rfx.cal
  trips : t.rfx.trips = s.rfx.trips

/-- R182, R183: what a rule leaves that fires once it has counted, its action being immediate. -/
theorem ruleFired_of_counted {s v : State} {r : Nat} (hr : r < 256) (h : OnlyRules s v r) (hring : (v.ruleRt r).ring = [])
    (hact : bitAt (s.reg PG.rfx (R.RULE_ACT r)) 0 = false)
    (hdriven : s.outDark (outOf (bf (s.reg PG.rfx (R.RULE_ACT r)) 1 5)) = false)
    (hidle : s.inPulse (outOf (bf (s.reg PG.rfx (R.RULE_ACT r)) 1 5)) = false) (iet : Option Nat) (pkt : Option (Fin 8 × Nat)) (unchk : Bool) :
    RuleFired s ((v.bump PG.rfx (R.RULE_CNT r) 0 32).ruleAct r iet pkt unchk) r (outOf (bf (s.reg PG.rfx (R.RULE_ACT r)) 1 5))
      (s.dtc + wOfNat (bf (s.reg PG.rfx (R.RULE_ACT r)) 16 24 * 10)) := by
  have hcnt : Counted s (v.bump PG.rfx (R.RULE_CNT r) 0 32) PG.rfx (R.RULE_CNT r) 0 32 1 :=
    counted_bump (h.only.reg (RULE_CNT_lt hr) (RULE_CNT_ne_STS r r)) (by decide)
  have hbump : OnlyReflex s (v.bump PG.rfx (R.RULE_CNT r) 0 32) [R.RULE_STS r, R.RULE_CNT r] :=
    onlyReflex_setReg (h.only.mono (by simp)) (RULE_CNT_lt hr) (by simp) _
  have hlow : ∀ {o}, o < 0x1000 → o ∉ [R.RULE_STS r, R.RULE_CNT r] := fun ho => by
    simp only [R.RULE_STS, R.RULE_CNT, List.mem_cons, List.not_mem_nil, or_false]
    omega
  have hactReg : (v.bump PG.rfx (R.RULE_CNT r) 0 32).reg PG.rfx (R.RULE_ACT r) = s.reg PG.rfx (R.RULE_ACT r) :=
    hbump.reg (RULE_ACT_lt hr) (by simp only [R.RULE_ACT, R.RULE_STS, R.RULE_CNT, List.mem_cons, List.not_mem_nil, or_false]; omega)
  have hcfg := RFX_OUT_CFG_lt (outOf (bf (s.reg PG.rfx (R.RULE_ACT r)) 1 5)).isLt
  obtain ⟨mark, hpulse⟩ := State.ruleAct_immediate (hactReg ▸ hact) iet pkt unchk
  rw [hpulse, hactReg]
  generalize hv : v.bump PG.rfx (R.RULE_CNT r) 0 32 = w at *
  have hheld : w.rfx = v.rfx := by rw [← hv]; rfl
  have hdark := (hbump.outDark (Fin.isLt _) (hlow (by decide)) (hlow (by omega))).trans hdriven
  have hp := pulsed_startPulse hdark ((State.inPulse_congr ((congrArg RfxState.pulse hheld).trans h.pulse) hbump.dtc _).trans hidle)
    (bf (s.reg PG.rfx (R.RULE_ACT r)) 16 24) (some r) mark
  refine ⟨(hbump.mono (by simp [ruleRegs])).trans (hp.only.mono (by simp [ruleRegs])), ?_, ?_, hbump.dtc ▸ hp.timer, ?_, fun k hk => ?_, ?_, ?_⟩
  · exact counted_of_reg hcnt (hp.only.reg (RULE_CNT_lt hr) (by simp only [R.RULE_CNT, R.RFX_CNT0, List.mem_singleton]; omega))
  · rw [State.ruleRt_congr hp.rules, State.ruleRt_congr (congrArg RfxState.rules hheld), hring]
  · rw [Counted, hp.counted, State.fld, hbump.reg (by decide) (hlow (by decide)), State.fld]
  · rw [hp.others k hk, hheld, h.pulse]
  · rw [hp.cal, hheld, h.cal]
  · rw [hp.trips, hheld, h.trips]

/-! ### A rule at the front words of one cycle (R182, R188) -/

section
variable {s : State} {r : Nat} {p : Fin 8} {w : Word}

theorem State.ruleFront_skips {words : List Word} (h : s.ruleTakes p words r = false) (act : Bool) (seq : Nat) :
    s.ruleFront act p words seq r = s :=
  if_pos (by rw [h]; rfl)

theorem State.ruleTakes_disabled (h : s.bit PG.rfx (R.RULE_CTL r) 0 = false) (p : Fin 8) (words : List Word) :
    s.ruleTakes p words r = false := by
  have hen : bitAt (s.reg PG.rfx (R.RULE_CTL r)) 0 = false := h
  simp [State.ruleTakes, hen]

theorem State.ruleTakes_unqualified (h : s.qualifies r w = false) (p : Fin 8) : s.ruleTakes p [w] r = false := by
  simp [State.ruleTakes, h]

theorem State.ruleTakes_qualified (hen : bitAt (s.reg PG.rfx (R.RULE_CTL r)) 0 = true) (hport : bf (s.reg PG.rfx (R.RULE_CTL r)) 4 3 = p.val)
    (hsrc : bf (s.reg PG.rfx (R.RULE_CTL r)) 2 2 < 2) (hq : s.qualifies r w = true) : s.ruleTakes p [w] r = true := by
  simp [State.ruleTakes, hen, hport, hsrc, hq]

theorem State.ringStep_noHoldoff (h : bf (s.reg PG.rfx (R.RULE_CTL r)) 48 16 = 0) (g : RingState) (t : Word) : s.ringStep r g t =
    ringCount (bf (s.reg PG.rfx (R.RULE_CTL r)) 16 7) (bf (s.reg PG.rfx (R.RULE_CTL r)) 24 16) 0 g t := by
  simp only [State.ringStep, h]

theorem State.ringCycle_below {g g' : RingState} {t : Word} (hq : s.qualifies r w = true) (h : s.ringStep r g t = (g', true, false)) :
    s.ringCycle r t g [w] = (g', true, none) := by
  simp [State.ringCycle, hq, h]

theorem State.ringCycle_fires {g g' : RingState} {t : Word} (hq : s.qualifies r w = true) (h : s.ringStep r g t = (g', true, true)) :
    s.ringCycle r t g [w] = (g', true, some w) := by
  simp [State.ringCycle, hq, h]

/-- R180: the rule has counted the inputs of a cycle and keeps the ring `g`. -/
def State.ruleCounted (s : State) (r : Nat) (g : RingState) : State := (s.setRing r g).ruleUpd r fun x => { x with counted := true }

theorem onlyRules_ruleCounted (s : State) (hr : r < 256) (g : RingState) : OnlyRules s (s.ruleCounted r g) r :=
  onlyRules_ruleUpd (onlyRules_setRing (onlyRules_refl s r) hr g) r _

theorem State.ruleCounted_ring (s : State) (r : Nat) (g : RingState) : ((s.ruleCounted r g).ruleRt r).ring = g.ring := by
  rw [State.ruleCounted, State.ruleRt_ruleUpd, State.setRing_ruleRt]

theorem State.ruleFront_below {g : RingState} (htakes : s.ruleTakes p [w] r = true) (hunchk : bitAt (s.reg PG.rfx (R.RULE_CTL r)) 1 = false)
    (hcycle : s.ringCycle r s.dtc (s.ringOf r) [w] = (g, true, none)) (act : Bool) (seq : Nat) :
    s.ruleFront act p [w] seq r = s.ruleCounted r g := by
  unfold State.ruleFront
  simp only [htakes, hunchk, hcycle, Bool.not_true, Bool.not_false, Bool.false_eq_true, if_true, if_false]
  rfl

theorem State.ruleFront_fires {g : RingState} (htakes : s.ruleTakes p [w] r = true) (hunchk : bitAt (s.reg PG.rfx (R.RULE_CTL r)) 1 = false)
    (hcycle : s.ringCycle r s.dtc (s.ringOf r) [w] = (g, true, some w)) (seq : Nat) : s.ruleFront true p [w] seq r =
      ((s.ruleCounted r g).bump PG.rfx (R.RULE_CNT r) 0 32).ruleAct r (some (bf w 0 32)) (some (p, seq)) true := by
  unfold State.ruleFront
  simp only [htakes, hunchk, hcycle, Bool.not_true, Bool.not_false, Bool.false_eq_true, if_true, if_false]
  rfl

/-- R188: a checked rule counts in its shadow, and waits. -/
theorem State.ruleFront_checked (htakes : s.ruleTakes p [w] r = true) (hchk : bitAt (s.reg PG.rfx (R.RULE_CTL r)) 1 = true) (act : Bool)
    (seq : Nat) : ∃ sh, s.ruleFront act p [w] seq r =
      (s.ruleUpd r fun x => { x with shadow := some sh }).setBit PG.rfx (R.RULE_STS r) 2 true := by
  unfold State.ruleFront
  simp only [htakes, hchk, Bool.not_true, Bool.false_eq_true, if_false]
  exact ⟨_, rfl⟩

end

/-! ### The inputs of one cycle, one rule alone being enabled (R181, R193) -/

/-- A fold over the numbers below `n` in which one of them acts, and the others neither before nor after it. -/
theorem foldl_range_single {σ : Type} {n p : Nat} {f : σ → Nat → σ} {a b : σ} (hp : p < n) (hact : f a p = b)
    (hbefore : ∀ q, q < n → q ≠ p → f a q = a) (hafter : ∀ q, q < n → q ≠ p → f b q = b) : (List.range n).foldl f a = b := by
  rw [← List.map_coe_finRange_eq_range, List.foldl_map]
  exact foldl_finRange_single (p := ⟨p, hp⟩) hact (fun q hq => hbefore q q.isLt fun e => hq (Fin.ext e))
    fun q hq => hafter q q.isLt fun e => hq (Fin.ext e)

/-- No rule but `r` is enabled. -/
def State.ruleAlone (s : State) (r : Nat) : Prop := ∀ q : Nat, q < 256 → q ≠ r → s.bit PG.rfx (R.RULE_CTL q) 0 = false

theorem ruleAlone_of_only {s t : State} {r : Nat} (h : s.ruleAlone r) (k : OnlyReflex s t (ruleRegs r)) : t.ruleAlone r :=
  fun q hq hne => (State.bit_congr (k.reg (RULE_CTL_lt hq) (RULE_CTL_notMem_ruleRegs q r)) 0).trans (h q hq hne)

/-- The one word at the front of the port's queue has been taken. -/
def State.frontTaken (s : State) (p : Fin 8) : State := s.spUpd p fun y => { y with front := [] }

theorem State.frontTaken_front (s : State) (p : Fin 8) : ((s.frontTaken p).sp.get p).front = [] := by
  rw [State.frontTaken, State.spUpd_get]

theorem frontTake_single {n : Nat} (h : 0 < n) (w : Word) (seq : Nat) : frontTake (min 8 n) [.ev w seq] = ([w], seq, []) := by
  obtain ⟨m, hm⟩ := Nat.exists_eq_succ_of_ne_zero (n := min 8 n) (by omega)
  rw [hm, frontTake]
  cases m <;> rfl

section
variable {s : State} {r : Nat} {p : Fin 8} {w : Word} {n seq : Nat}

theorem State.frontCycle_single (hfront : (s.sp.get p).front = [.ev w seq]) (hn : 0 < n) (hrun : s.running PG.rfx = true) :
    s.frontCycle [(p, n)] none = (List.range 256).foldl (fun u q => u.ruleFront true p [w] seq q) (s.frontTaken p) := by
  have hcounts : (s.frontTaken p).rfxCounts = true := hrun
  unfold State.frontCycle
  simp only [List.map_cons, List.map_nil, hfront, frontTake_single hn, List.foldl_cons, List.foldl_nil]
  rw [if_neg (by rw [show (s.spUpd p fun y => { y with front := [] }) = s.frontTaken p from rfl, hcounts]; simp)]
  rfl

theorem State.on_of_running {page : Nat} (h : s.running page = true) : s.isOff page = false := by
  cases hoff : s.isOff page with
  | false => rfl
  | true => simp [State.running, State.pageState, hoff] at h

/-- The rule alone takes the word, and what it leaves is the answer. -/
theorem exec_ruleInput_front (hfront : (s.sp.get p).front = [.ev w seq]) (hn : 0 < n) (hrun : s.running PG.rfx = true) (hr : r < 256)
    (halone : s.ruleAlone r) {t : State} (hact : (s.frontTaken p).ruleFront true p [w] seq r = t)
    (honly : OnlyReflex (s.frontTaken p) t (ruleRegs r)) : exec (.ruleInput ⟨.front [(p, n)], none⟩) s = .next t := by
  have hbefore : (s.frontTaken p).ruleAlone r := halone
  have hafter := ruleAlone_of_only hbefore honly
  rw [exec_ruleInput, execRuleInput, State.ifOn_powered (State.on_of_running hrun)]
  dsimp only
  rw [State.frontCycle_single hfront hn hrun,
    foldl_range_single hr hact (fun q hq hne => State.ruleFront_skips (State.ruleTakes_disabled (hbefore q hq hne) _ _) _ _)
      fun q hq hne => State.ruleFront_skips (State.ruleTakes_disabled (hafter q hq hne) _ _) _ _]
  exact State.ends_of (by rw [honly.rest]; rfl) (by rw [honly.rest]; rfl)

end

/-! ### A trip (R177, R182) -/

/-- The oldest trip of the channel has been taken. -/
def State.tripTaken (s : State) (m : Fin 16) : State := s.rfxUpd fun x => { x with trips := x.trips.erase m }

/-- R177: what one rule does at a trip that the lanes agree on. -/
def State.ruleTrip (s : State) (m : Fin 16) (r : Nat) : State :=
  if s.ruleTrips m r then
    let (g, _, fired) := s.ringStep r (s.ringOf r) s.dtc
    let s := s.setRing r g
    if fired then (s.bump PG.rfx (R.RULE_CNT r) 0 32).ruleAct r none none false else s
  else s

section
variable {s : State} {r : Nat} {m : Fin 16}

theorem State.tripInput_shut (hm : m ∈ s.rfx.trips) (hshut : s.tripOpen m = false) (fault : Option (Fin 3 × LaneFault)) :
    s.tripInput m fault = s.tripTaken m := by
  have hshut' : (s.tripTaken m).tripOpen m = false := hshut
  unfold State.tripInput
  rw [if_neg (by simpa using hm)]
  exact if_pos (by rw [← State.tripTaken, hshut']; simp)

theorem State.tripInput_open (hm : m ∈ s.rfx.trips) (hopen : s.tripOpen m = true) (hrun : s.running PG.rfx = true) :
    s.tripInput m none = (List.range 256).foldl (fun u q => u.ruleTrip m q) (s.tripTaken m) := by
  have hopen' : (s.tripTaken m).tripOpen m = true := hopen
  have hcounts : (s.tripTaken m).rfxCounts = true := hrun
  unfold State.tripInput
  rw [if_neg (by simpa using hm)]
  dsimp only
  rw [← State.tripTaken, if_neg (by rw [hopen', hcounts]; decide)]
  simp only [State.vote, State.voteExtra, Bool.and_true, State.ruleTrip]

theorem State.ruleTrip_disabled (h : s.bit PG.rfx (R.RULE_CTL r) 0 = false) (m : Fin 16) : s.ruleTrip m r = s := by
  have hen : bitAt (s.reg PG.rfx (R.RULE_CTL r)) 0 = false := h
  exact if_neg (by simp [State.ruleTrips, hen])

theorem State.ruleTrips_of (hen : bitAt (s.reg PG.rfx (R.RULE_CTL r)) 0 = true) (hsrc : bf (s.reg PG.rfx (R.RULE_CTL r)) 2 2 = 2)
    (hchan : bf (s.reg PG.rfx (R.RULE_ACT r)) 40 8 = m.val) (hgate : s.gateOpen r = true) : s.ruleTrips m r = true := by
  simp [State.ruleTrips, State.fld, hen, hsrc, hchan, hgate]

theorem State.ruleTrip_fires {g : RingState} (htrips : s.ruleTrips m r = true) (hstep : s.ringStep r (s.ringOf r) s.dtc = (g, true, true)) :
    s.ruleTrip m r = ((s.setRing r g).bump PG.rfx (R.RULE_CNT r) 0 32).ruleAct r none none false := by
  unfold State.ruleTrip
  rw [if_pos htrips, hstep]
  rfl

theorem exec_ruleInput_trip_shut (hrun : s.running PG.rfx = true) (hm : m ∈ s.rfx.trips) (hshut : s.tripOpen m = false)
    (fault : Option (Fin 3 × LaneFault)) : exec (.ruleInput ⟨.trip m, fault⟩) s = .next (s.tripTaken m) := by
  rw [exec_ruleInput, execRuleInput, State.ifOn_powered (State.on_of_running hrun)]
  dsimp only
  rw [State.tripInput_shut hm hshut]
  exact State.ends_of rfl rfl

/-- The rule alone takes the trip, and what it leaves is the answer. -/
theorem exec_ruleInput_trip_open (hrun : s.running PG.rfx = true) (hm : m ∈ s.rfx.trips) (hopen : s.tripOpen m = true) (hr : r < 256)
    (halone : s.ruleAlone r) {t : State} (hact : (s.tripTaken m).ruleTrip m r = t) (honly : OnlyReflex (s.tripTaken m) t (ruleRegs r)) :
    exec (.ruleInput ⟨.trip m, none⟩) s = .next t := by
  have hbefore : (s.tripTaken m).ruleAlone r := halone
  have hafter := ruleAlone_of_only hbefore honly
  rw [exec_ruleInput, execRuleInput, State.ifOn_powered (State.on_of_running hrun)]
  dsimp only
  rw [State.tripInput_open hm hopen hrun, foldl_range_single hr hact (fun q hq hne => State.ruleTrip_disabled (hbefore q hq hne) m)
    fun q hq hne => State.ruleTrip_disabled (hafter q hq hne) m]
  exact State.ends_of (by rw [honly.rest]; rfl) (by rw [honly.rest]; rfl)

end

/-! ### RULE_INPUT of the one enabled rule -/

section
variable {s : State} {r : Nat} (hrun : s.running PG.rfx = true) (hr : r < 256) (halone : s.ruleAlone r)
  (hhold : s.bit PG.rfx (R.RULE_STS r) 1 = false) (hoff : bf (s.reg PG.rfx (R.RULE_CTL r)) 48 16 = 0)
include hrun hr halone

section
variable {p : Fin 8} {n seq : Nat} {w : Word} (hfront : (s.sp.get p).front = [.ev w seq]) (hn : 0 < n)
include hfront hn

theorem exec_ruleInput_unqualified (hq : s.qualifies r w = false) :
    exec (.ruleInput ⟨.front [(p, n)], none⟩) s = .next (s.frontTaken p) := by
  have hq' : (s.frontTaken p).qualifies r w = false := hq
  exact exec_ruleInput_front hfront hn hrun hr halone (State.ruleFront_skips (State.ruleTakes_unqualified hq' p) true seq)
    (onlyReflex_refl _ _)

variable (htakes : (s.frontTaken p).ruleTakes p [w] r = true) (hq : s.qualifies r w = true)
include htakes

theorem exec_ruleInput_checked (hchk : bitAt (s.reg PG.rfx (R.RULE_CTL r)) 1 = true) :
    ∃ t, exec (.ruleInput ⟨.front [(p, n)], none⟩) s = .next t ∧ OnlyRules (s.frontTaken p) t r ∧ (t.ruleRt r).ring = (s.ruleRt r).ring ∧
      t.bit PG.rfx (R.RULE_STS r) 2 = true := by
  obtain ⟨sh, hact⟩ := State.ruleFront_checked htakes hchk true seq
  have hrules : OnlyRules (s.frontTaken p)
      (((s.frontTaken p).ruleUpd r fun x => { x with shadow := some sh }).setBit PG.rfx (R.RULE_STS r) 2 true) r :=
    onlyRules_setSts (onlyRules_ruleUpd (onlyRules_refl _ _) _ _) hr _ _
  refine ⟨_, exec_ruleInput_front hfront hn hrun hr halone hact (hrules.only.mono (by simp [ruleRegs])), hrules, ?_, ?_⟩
  · rw [State.ruleRt_setBit, State.ruleRt_ruleUpd]
    rfl
  · exact State.bit_setBit_self _ _ _ _ _ (by decide)

include hhold hoff hq

theorem exec_ruleInput_counts (hunchk : bitAt (s.reg PG.rfx (R.RULE_CTL r)) 1 = false)
    (hbelow : (s.ruleRt r).ring.length + 1 < bf (s.reg PG.rfx (R.RULE_CTL r)) 16 7) :
    ∃ t, exec (.ruleInput ⟨.front [(p, n)], none⟩) s = .next t ∧ OnlyRules (s.frontTaken p) t r ∧
      (t.ruleRt r).ring = (s.ruleRt r).ring ++ [s.dtc] := by
  have hstep := (State.ringStep_noHoldoff (s := s.frontTaken p) hoff _ _).trans
    (ringCount_below (g := (s.frontTaken p).ringOf r) hhold hbelow _ s.dtc)
  have hact := State.ruleFront_below htakes hunchk (State.ringCycle_below (s := s.frontTaken p) hq hstep) true seq
  have hrules := onlyRules_ruleCounted (s.frontTaken p) hr (((s.frontTaken p).ringOf r).joined s.dtc)
  exact ⟨_, exec_ruleInput_front hfront hn hrun hr halone hact (hrules.only.mono (by simp [ruleRegs])), hrules, State.ruleCounted_ring _ _ _⟩

end

variable (hfires : ringFires (bf (s.reg PG.rfx (R.RULE_CTL r)) 16 7) (bf (s.reg PG.rfx (R.RULE_CTL r)) 24 16) (s.ruleRt r).ring s.dtc)
  (himm : bitAt (s.reg PG.rfx (R.RULE_ACT r)) 0 = false)
  (hdriven : s.outDark (outOf (bf (s.reg PG.rfx (R.RULE_ACT r)) 1 5)) = false)
  (hidle : s.inPulse (outOf (bf (s.reg PG.rfx (R.RULE_ACT r)) 1 5)) = false)
include hhold hoff hfires himm hdriven hidle

theorem exec_ruleInput_fires {p : Fin 8} {n seq : Nat} {w : Word} (hfront : (s.sp.get p).front = [.ev w seq]) (hn : 0 < n)
    (htakes : (s.frontTaken p).ruleTakes p [w] r = true) (hq : s.qualifies r w = true)
    (hunchk : bitAt (s.reg PG.rfx (R.RULE_CTL r)) 1 = false) :
    ∃ t, exec (.ruleInput ⟨.front [(p, n)], none⟩) s = .next t ∧ RuleFired (s.frontTaken p) t r
      (outOf (bf (s.reg PG.rfx (R.RULE_ACT r)) 1 5)) (s.dtc + wOfNat (bf (s.reg PG.rfx (R.RULE_ACT r)) 16 24 * 10)) := by
  have hstep := (State.ringStep_noHoldoff (s := s.frontTaken p) hoff _ _).trans
    (ringCount_fires (g := (s.frontTaken p).ringOf r) hhold hfires)
  have hact := State.ruleFront_fires htakes hunchk (State.ringCycle_fires (s := s.frontTaken p) hq hstep) seq
  have hfired := ruleFired_of_counted hr (onlyRules_ruleCounted (s.frontTaken p) hr _)
    (State.ruleCounted_ring _ r ((s.frontTaken p).ringOf r).emptied) himm hdriven hidle (some (bf w 0 32)) (some (p, seq)) true
  exact ⟨_, exec_ruleInput_front hfront hn hrun hr halone hact hfired.only, hfired⟩

theorem exec_ruleInput_trip_fires {m : Fin 16} (hm : m ∈ s.rfx.trips) (hopen : s.tripOpen m = true)
    (htrips : (s.tripTaken m).ruleTrips m r = true) :
    ∃ t, exec (.ruleInput ⟨.trip m, none⟩) s = .next t ∧ RuleFired (s.tripTaken m) t r
      (outOf (bf (s.reg PG.rfx (R.RULE_ACT r)) 1 5)) (s.dtc + wOfNat (bf (s.reg PG.rfx (R.RULE_ACT r)) 16 24 * 10)) := by
  have hstep := (State.ringStep_noHoldoff (s := s.tripTaken m) hoff _ _).trans
    (ringCount_fires (g := (s.tripTaken m).ringOf r) hhold hfires)
  have hact := State.ruleTrip_fires htrips hstep
  have hring := State.setRing_ruleRt (s.tripTaken m) r ((s.tripTaken m).ringOf r).emptied
  have hfired := ruleFired_of_counted hr (onlyRules_setRing (onlyRules_refl (s.tripTaken m) r) hr _) (congrArg RuleRt.ring hring) himm hdriven
    hidle none none false
  exact ⟨_, exec_ruleInput_trip_open hrun hm hopen hr halone hact hfired.only, hfired⟩

end

/-- Settles O20: a front word by whether it qualifies, by the rule's mode and by its ring; a trip by whether trips are open. -/
theorem ruleInputCountsAndFires : Obligations.RuleInputCountsAndFires := by
  intro r s hrun halone c a ring o fires fired hen hhold hoff himm
  have hr := r.isLt
  refine ⟨fun p n seq w hfront hn hport hsrc => ⟨fun hq => ?_, fun hq hunchk hbelow => ?_, fun hq hunchk hfires hdriven hidle => ?_,
    fun hq hchk => ?_⟩, fun m fault hm hshut => exec_ruleInput_trip_shut hrun hm hshut fault,
    fun m hm hopen hsrc hchan hgate hfires hdriven hidle => ?_⟩
  · exact ⟨_, exec_ruleInput_unqualified hrun hr halone hfront hn hq, s.frontTaken_front p, rfl, fun q hne => State.spUpd_get_ne s _ hne⟩
  · have htakes := State.ruleTakes_qualified (s := s.frontTaken p) hen hport hsrc hq
    obtain ⟨t, hnext, hrules, hring⟩ := exec_ruleInput_counts hrun hr halone hhold hoff hfront hn htakes hq hunchk hbelow
    exact ⟨t, hnext, hrules.only.sp ▸ s.frontTaken_front p, hring, hrules.pulse, hrules.cal, hrules.only.kept⟩
  · have htakes := State.ruleTakes_qualified (s := s.frontTaken p) hen hport hsrc hq
    obtain ⟨t, hnext, hfired⟩ := exec_ruleInput_fires hrun hr halone hhold hoff hfires himm hdriven hidle hfront hn htakes hq hunchk
    exact ⟨t, hnext, hfired.only.sp ▸ s.frontTaken_front p, hfired.fires, hfired.ring, hfired.timer, hfired.pulses, hfired.others, hfired.cal⟩
  · have htakes := State.ruleTakes_qualified (s := s.frontTaken p) hen hport hsrc hq
    obtain ⟨t, hnext, hrules, hring, hpending⟩ := exec_ruleInput_checked hrun hr halone hfront hn htakes hchk
    exact ⟨t, hnext, hring, hrules.pulse, hrules.cal, hpending, hrules.only.kept⟩
  · have htrips := State.ruleTrips_of (s := s.tripTaken m) hen hsrc hchan hgate
    obtain ⟨t, hnext, hfired⟩ := exec_ruleInput_trip_fires hrun hr halone hhold hoff hfires himm hdriven hidle hm hopen htrips
    exact ⟨t, hnext, ⟨hfired.fires, hfired.ring, hfired.timer, hfired.pulses, hfired.others, hfired.cal⟩, hfired.trips⟩

end Sys2Proof.Machine
end

section
/-!
PROOFS. The trigger calendar (R185, R192, R193): entries that are not due, and entries that leave.
-/

namespace Sys2Proof.Machine

/-! ### Entries that are not due (R82, R193) -/

theorem OnlyReflex.dueItem {s t : State} {l : List Nat} (h : OnlyReflex s t l) (id : ItemId) : t.dueItem id = s.dueItem id := by
  have hbase : ∀ p : Fin 8, PG.ptb p ≠ PG.rfx := by decide
  have hreg : ∀ p : Fin 8, ∀ o, o < 0x10000 → t.reg (PG.ptb p) o = s.reg (PG.ptb p) o := fun p o ho => h.reg_beside (hbase p) ho
  have hptb : t.ptb = s.ptb := by rw [h.rest]
  have hsched : t.sched = s.sched := by rw [h.rest]
  have hst : ∀ p, t.ptbSt p = s.ptbSt p := fun p => by rw [State.ptbSt, State.fld, hreg p _ (by decide)]; rfl
  have hrates : ∀ p, SameRates s t p := fun p =>
    sameRates_of_regs h.dtc (hst p) fun o ho => hreg p o (by revert o; decide)
  have hnow : ∀ i, t.dueNow i = s.dueNow i := fun i => by
    rw [State.dueNow, (hrates i.base).running, pos_congr (hrates i.base) (by rw [hptb]), State.dueNow]
  simp only [State.dueItem, State.schedGet, hsched, hnow]

/-- None of the calendar's entries is due. -/
def State.noneDue (s : State) : Prop := ∀ e, e ∈ s.rfx.cal → s.dueItem (.calendar e.slot) = none

theorem State.calDue_early {s : State} {slot : Nat} (h : s.dueItem (.calendar slot) = none) : s.calDue slot = s := by
  unfold State.calDue
  rw [h]
  cases s.rfx.cal.find? fun e => e.slot == slot <;> rfl

theorem State.calSettle_noneDue {s : State} (h : s.noneDue) : s.calSettle = s :=
  foldl_of_fixed fun e he => State.calDue_early (h e he)

/-! ### Entries that leave (R185, R198) -/

/-- A fold that takes the entry of one slot at each step takes the entries of all those slots. -/
theorem foldl_drops_slots {f : State → CalEntry → State}
    (hf : ∀ u e, (f u e).rfx.cal = u.rfx.cal.filter fun x => x.slot != e.slot) (l : List CalEntry) (s : State) :
    (l.foldl f s).rfx.cal = s.rfx.cal.filter fun x => l.all fun e => x.slot != e.slot := by
  induction l generalizing s with
  | nil => exact (List.filter_true _).symm
  | cons e l ih =>
    rw [List.foldl_cons, ih, hf, List.filter_filter]
    exact List.filter_congr fun x _ => by rw [List.all_cons, Bool.and_comm]

/-- Of entries in distinct slots, those in the slots of the hit ones are the hit ones. -/
theorem filter_otherSlots {l : List CalEntry} (hslots : l.Pairwise fun a b => a.slot ≠ b.slot) (hit : CalEntry → Bool) :
    (l.filter fun x => (l.filter hit).all fun e => x.slot != e.slot) = l.filter fun x => !hit x := by
  have hsame : ∀ x ∈ l, ∀ e ∈ l, x.slot = e.slot → x = e :=
    List.inj_on_of_nodup_map (List.pairwise_map.mpr hslots)
  refine List.filter_congr fun x hx => ?_
  cases hhit : hit x with
  | true =>
    refine List.all_eq_false.mpr ⟨x, List.mem_filter.mpr ⟨hx, hhit⟩, ?_⟩
    simp
  | false =>
    refine List.all_eq_true.mpr fun e he => ?_
    obtain ⟨hmem, he⟩ := List.mem_filter.mp he
    refine bne_iff_ne.mpr fun hslot => ?_
    rw [hsame x hx e hmem hslot, he] at hhit
    cases hhit

end Sys2Proof.Machine
end

section
/-!
PROOFS. The end of a pulse and the result of a packet (R183, R187 to R190): what a checked rule learns, which calendar entries and rules a
failed packet sets back.
-/

namespace Sys2Proof.Machine

/-! ### The result of a packet, by its steps -/

/-- The front of the port's queue has been taken up to `rest`. -/
def State.frontRest (s : State) (p : Fin 8) (rest : List FrontItem) : State := s.spUpd p fun x => { x with front := rest }

/-- R190: the marks of the packet's pulses are dropped. -/
def State.marksDropped (s : State) (p : Fin 8) (seq : Nat) : State :=
  s.rfxUpd fun x => { x with marks := x.marks.filter fun m => !(m.port == p && m.seq == seq) }

/-- R190: a rule of the port has no packet left that it has counted inputs of. -/
def State.resultTaken (s : State) (p : Fin 8) (r : Nat) : State :=
  if (s.ruleRt r).counted ∧ s.fld PG.rfx (R.RULE_CTL r) 4 3 = p.val then s.ruleUpd r fun x => { x with counted := false } else s

/-- R190: no rule of the port has a packet left that it has counted inputs of. -/
def State.resultsTaken (s : State) (p : Fin 8) : State := (List.range 256).foldl (fun u r => u.resultTaken p r) s

/-- R187: the packet's calendar entries are no longer retractable. -/
def State.calKept (s : State) (p : Fin 8) (seq : Nat) : State :=
  s.rfxUpd fun x => { x with cal := x.cal.map fun e => if e.unchk && isPkt e.pkt p seq then { e with unchk := false } else e }

/-- R188: a failed result has reached the checked rules. -/
def State.shadowsEnded (s : State) (p : Fin 8) (seq : Nat) : State := (List.range 256).foldl (fun u r => u.shadowEnd p seq false r) s

section
variable {s t : State} {p : Fin 8} {seq : Nat} {trunc : Bool} {rest : List FrontItem}

theorem State.rfxCrc_empty (h : (s.sp.get p).front = []) : s.rfxCrc p = s := by
  unfold State.rfxCrc
  rw [h]

theorem State.rfxCrc_good (h : (s.sp.get p).front = .crc seq true trunc :: rest) : s.rfxCrc p =
    ((((List.range 256).foldl (fun u r => u.shadowEnd p seq true r) (s.frontRest p rest)).calKept p seq).marksDropped p seq).resultsTaken p := by
  unfold State.rfxCrc State.resultsTaken State.resultTaken
  simp only [h, if_true]
  rfl

theorem State.rfxCrc_failed (h : (s.sp.get p).front = .crc seq false trunc :: rest) : s.rfxCrc p =
    ((((s.frontRest p rest).shadowsEnded p seq).packetFailed p seq (b2n trunc)).marksDropped p seq).resultsTaken p := by
  unfold State.rfxCrc State.resultsTaken State.resultTaken State.shadowsEnded
  simp only [h, Bool.false_eq_true, if_false]
  rfl

/-! ### A good result (R187) -/

theorem State.shadowEnd_none {r : Nat} (h : (s.ruleRt r).shadow = none) (p : Fin 8) (seq : Nat) (ok : Bool) : s.shadowEnd p seq ok r = s := by
  unfold State.shadowEnd
  rw [h]

/-- Only what the rules keep changes. -/
def RulesOnly (s t : State) : Prop := t = { s with rfx := { s.rfx with rules := t.rfx.rules } }

theorem rulesOnly_refl (s : State) : RulesOnly s s := rfl

theorem rulesOnly_resultTaken (h : RulesOnly s t) (p : Fin 8) (r : Nat) : RulesOnly s (t.resultTaken p r) := by
  unfold State.resultTaken
  split
  · rw [RulesOnly, State.ruleUpd, State.rfxUpd, show t = _ from h]
  · exact h

theorem rulesOnly_resultsTaken (s : State) (p : Fin 8) : RulesOnly s (s.resultsTaken p) :=
  foldl_keeps (RulesOnly s) (fun u r => u.resultTaken p r) (fun _ r hu => rulesOnly_resultTaken hu p r) (List.range 256) s (rulesOnly_refl s)

theorem exec_rfxCrcResult_good (hon : s.isOff PG.rfx = false) (h : (s.sp.get p).front = .crc seq true trunc :: rest)
    (hnone : ∀ k, k < 256 → (s.ruleRt k).shadow = none) :
    ∃ t, exec (.rfxCrcResult p) s = .next t ∧ RulesOnly (((s.frontRest p rest).calKept p seq).marksDropped p seq) t := by
  have hshadow : (List.range 256).foldl (fun u r => u.shadowEnd p seq true r) (s.frontRest p rest) = s.frontRest p rest :=
    foldl_of_fixed fun r hr => State.shadowEnd_none (s := s.frontRest p rest) (hnone r (List.mem_range.mp hr)) _ _ _
  rw [exec_rfxCrcResult, execRfxCrcResult, State.ifOn_powered hon, State.rfxCrc_good h, hshadow]
  have hrules := rulesOnly_resultsTaken (((s.frontRest p rest).calKept p seq).marksDropped p seq) p
  exact ⟨_, State.ends_of (by rw [hrules]; rfl) (by rw [hrules]; rfl), hrules⟩

end

/-! ### A failed result, by its steps (R190) -/

/-- R188: a checked rule gives up its shadow. -/
def State.shadowDropped (s : State) (r : Nat) : State :=
  (s.ruleUpd r fun x => { x with shadow := none }).setBit PG.rfx (R.RULE_STS r) 2 false

theorem State.shadowEnd_failed (s : State) (p : Fin 8) (seq r : Nat) :
    s.shadowEnd p seq false r = s ∨ s.shadowEnd p seq false r = s.shadowDropped r := by
  unfold State.shadowEnd
  split
  · exact .inl rfl
  · split
    · exact .inl rfl
    · exact .inr rfl

/-- R190: a pending entry of the packet is cancelled and reported. -/
def State.entryCancelled (s : State) (cause : Nat) (e : CalEntry) : State :=
  let v := (s.calDrop e.slot).calRec 2 cause e (s.calAt e).1 (s.calAt e).2
  ((v.bump PG.tcal R.TCAL_CNT1 0 16).bump PG.rfx (R.RULE_CNT e.rule) 32 16).irq PG.tcal 1

/-- R190: a pulse of the packet is reported. -/
def State.pulseReported (s : State) (p : Fin 8) (seq cause : Nat) (m : PulseMark) : State :=
  (s.reflexRec { kind := 1, cause, out := m.out, rule := m.rule, pkt := some (p, seq), target := m.target }).bump
    PG.rfx (R.RULE_CNT m.rule) 32 16

/-- R190, R599: while rules count, a suspect rule starts over. -/
def State.ruleRestarted (s : State) (r : Nat) : State :=
  if s.rfxCounts then (s.ruleUpd r fun x => { x with ring := [] }).setBit PG.rfx (R.RULE_STS r) 1 false else s

/-- R190: a suspect rule shows it. -/
def State.ruleSetBack (s : State) (p : Fin 8) (r : Nat) : State :=
  if (s.ruleRt r).counted ∧ !bitAt (s.reg PG.rfx (R.RULE_CTL r)) 1 ∧ bf (s.reg PG.rfx (R.RULE_CTL r)) 4 3 = p.val then
    ((s.ruleRestarted r).setBit PG.rfx (R.RULE_STS r) 0 true).irq PG.rfx 3
  else s

/-- R190: the packet's pending entries are cancelled. -/
def State.entriesCancelled (s : State) (p : Fin 8) (seq cause : Nat) : State :=
  (s.rfx.cal.filter fun e => e.unchk && isPkt e.pkt p seq).foldl (fun u e => u.entryCancelled cause e) s

/-- R190: the packet's pulses are reported. -/
def State.pulsesReported (s : State) (p : Fin 8) (seq cause : Nat) : State :=
  (s.rfx.marks.filter fun m => m.port == p && m.seq == seq).foldl (fun u m => u.pulseReported p seq cause m) s

/-- R190: the port's rules are set back. -/
def State.rulesSetBack (s : State) (p : Fin 8) : State := (List.range 256).foldl (fun u r => u.ruleSetBack p r) s

theorem State.packetFailed_noneDue {s : State} (h : s.noneDue) (p : Fin 8) (seq cause : Nat) : s.packetFailed p seq cause =
    ((s.entriesCancelled p seq cause).pulsesReported p seq cause).rulesSetBack p := by
  unfold State.packetFailed State.rulesSetBack State.ruleSetBack State.ruleRestarted
  rw [State.calSettle_noneDue h]
  rfl

/-! ### What the steps leave of a rule -/

theorem State.running_congr {s t : State} {page : Nat} (hoff : t.off = s.off) (hreset : t.inReset = s.inReset)
    (hctl : t.reg page R.PG_CTL = s.reg page R.PG_CTL) (hpwr : t.reg page R.PG_PWR = s.reg page R.PG_PWR) :
    t.running page = s.running page := by
  unfold State.running State.pageState State.isOff State.resetting State.enabled State.quiesced State.stopped State.bit State.fld
  rw [hoff, hreset, hctl, hpwr]

/-- The registers of the reflex page on which rule `k` depends, and what shows of it. -/
def ruleView (k : Nat) : List Nat := [R.PG_CTL, R.PG_PWR, R.RULE_CTL k, R.RULE_STS k]

theorem ruleView_lt {k : Nat} (hk : k < 256) : ∀ o ∈ ruleView k, o < 0x10000 := by
  intro o ho
  simp only [ruleView, R.PG_CTL, R.PG_PWR, R.RULE_CTL, R.RULE_STS, List.mem_cons, List.not_mem_nil, or_false] at ho
  omega

theorem RULE_CNT_notMem_ruleView (q k : Nat) : R.RULE_CNT q ∉ ruleView k := by
  simp only [ruleView, R.PG_CTL, R.PG_PWR, R.RULE_CTL, R.RULE_STS, R.RULE_CNT, List.mem_cons, List.not_mem_nil, or_false]
  omega

theorem RULE_STS_notMem_ruleView {q k : Nat} (h : q ≠ k) : R.RULE_STS q ∉ ruleView k := by
  simp only [ruleView, R.PG_CTL, R.PG_PWR, R.RULE_CTL, R.RULE_STS, List.mem_cons, List.not_mem_nil, or_false]
  omega

theorem notMem_ruleView_of_low {o : Nat} (h : o < 0x1000) (hctl : o ≠ R.PG_CTL) (hpwr : o ≠ R.PG_PWR) (k : Nat) : o ∉ ruleView k := by
  simp only [ruleView, R.RULE_CTL, R.RULE_STS, List.mem_cons, List.not_mem_nil, or_false]
  omega

/-- Of rule `k` the word that enables it, its ring, its counted inputs, HOLDING and SUSPECT stand as they were, and whether rules count. -/
structure RuleKept (s t : State) (k : Nat) : Prop where
  off : t.off = s.off
  inReset : t.inReset = s.inReset
  words : ∀ o ∈ ruleView k, o ≠ R.RULE_STS k → t.reg PG.rfx o = s.reg PG.rfx o
  sts : ∀ i, i < 2 → t.bit PG.rfx (R.RULE_STS k) i = s.bit PG.rfx (R.RULE_STS k) i
  ring : (t.ruleRt k).ring = (s.ruleRt k).ring
  counted : (t.ruleRt k).counted = (s.ruleRt k).counted

section
variable {s t u : State} {k : Nat}

theorem ruleKept_refl (s : State) (k : Nat) : RuleKept s s k := ⟨rfl, rfl, fun _ _ _ => rfl, fun _ _ => rfl, rfl, rfl⟩

theorem RuleKept.trans (h : RuleKept s t k) (g : RuleKept t u k) : RuleKept s u k where
  off := g.off.trans h.off
  inReset := g.inReset.trans h.inReset
  words o ho hne := (g.words o ho hne).trans (h.words o ho hne)
  sts i hi := (g.sts i hi).trans (h.sts i hi)
  ring := g.ring.trans h.ring
  counted := g.counted.trans h.counted

theorem RuleKept.ctl (h : RuleKept s t k) : t.reg PG.rfx (R.RULE_CTL k) = s.reg PG.rfx (R.RULE_CTL k) :=
  h.words _ (by simp [ruleView]) (by unfold R.RULE_CTL R.RULE_STS; omega)

theorem RuleKept.counts (h : RuleKept s t k) : t.rfxCounts = s.rfxCounts :=
  State.running_congr h.off h.inReset (h.words _ (by simp [ruleView]) (by unfold R.PG_CTL R.RULE_STS; omega))
    (h.words _ (by simp [ruleView]) (by unfold R.PG_PWR R.RULE_STS; omega))

/-- Nothing of the rule's own words changes, and nothing of what it keeps. -/
theorem ruleKept_of_words (hoff : t.off = s.off) (hreset : t.inReset = s.inReset)
    (hwords : ∀ o ∈ ruleView k, t.reg PG.rfx o = s.reg PG.rfx o) (hrt : t.ruleRt k = s.ruleRt k) : RuleKept s t k where
  off := hoff
  inReset := hreset
  words o ho _ := hwords o ho
  sts i _ := State.bit_congr (hwords _ (by simp [ruleView])) i
  ring := by rw [hrt]
  counted := by rw [hrt]

theorem ruleKept_setReg {o : Nat} (ho : o ∉ ruleView k) (v : Word) : RuleKept s (s.setReg PG.rfx o v) k :=
  ruleKept_of_words rfl rfl (fun _ hr => State.reg_setReg_off s v fun e => ho (e ▸ hr)) rfl

theorem ruleKept_setReg_beside (hk : k < 256) {page o : Nat} (hp : page ≠ PG.rfx) (ho : o < 0x10000) (v : Word) :
    RuleKept s (s.setReg page o v) k :=
  ruleKept_of_words rfl rfl (fun r hr => State.reg_setReg_ne s v (rkey_ne ho (ruleView_lt hk r hr) (.inl hp.symm))) rfl

theorem ruleKept_reflexRec (hk : k < 256) (r : ReflexRec) : RuleKept s (s.reflexRec r) k := by
  have honly := onlyReflex_reflexRec s r
  have hapart : ∀ o ∈ recRegs, o ∉ ruleView k := by
    intro o ho
    have hlow : o < 0x1000 ∧ o ≠ R.PG_CTL ∧ o ≠ R.PG_PWR := by
      revert o
      decide
    exact notMem_ruleView_of_low hlow.1 hlow.2.1 hlow.2.2 k
  exact ruleKept_of_words (by rw [honly.rest]) (by rw [honly.rest])
    (fun o ho => honly.reg (ruleView_lt hk o ho) fun hm => hapart o hm ho) (State.ruleRt_congr (s.reflexRec_rules r) k)

/-- The status word of another rule, or a bit of its own beside HOLDING and SUSPECT. -/
theorem ruleKept_setSts {q i : Nat} (h : q ≠ k ∨ 2 ≤ i) (b : Bool) : RuleKept s (s.setBit PG.rfx (R.RULE_STS q) i b) k := by
  by_cases hq : q = k
  · subst hq
    have hi : 2 ≤ i := h.resolve_left fun hne => hne rfl
    exact ⟨rfl, rfl, fun o _ hne => State.reg_setBit_off s hne, fun j hj => State.bit_setBit_ne s (by omega), rfl, rfl⟩
  · exact ruleKept_setReg (RULE_STS_notMem_ruleView hq) _

theorem ruleKept_ruleUpd {q : Nat} {f : RuleRt → RuleRt}
    (h : q ≠ k ∨ ∀ x, (f x).ring = x.ring ∧ (f x).counted = x.counted) : RuleKept s (s.ruleUpd q f) k := by
  by_cases hq : q = k
  · subst hq
    obtain hf := h.resolve_left fun hne => hne rfl
    exact ⟨rfl, rfl, fun _ _ _ => rfl, fun _ _ => rfl, by rw [State.ruleRt_ruleUpd, (hf _).1], by rw [State.ruleRt_ruleUpd, (hf _).2]⟩
  · exact ruleKept_of_words rfl rfl (fun _ _ => rfl) (State.ruleRt_ruleUpd_ne s (Ne.symm hq) f)

/-! ### The steps of a failed result -/

theorem ruleKept_shadowEnd (p : Fin 8) (seq r : Nat) : RuleKept s (s.shadowEnd p seq false r) k := by
  rcases s.shadowEnd_failed p seq r with h | h <;> rw [h]
  · exact ruleKept_refl s k
  · exact (ruleKept_ruleUpd (q := r) (f := fun x => { x with shadow := none }) (.inr fun _ => ⟨rfl, rfl⟩)).trans
      (ruleKept_setSts (.inr (Nat.le_refl 2)) _)

theorem ruleKept_entryCancelled (hk : k < 256) (cause : Nat) (e : CalEntry) : RuleKept s (s.entryCancelled cause e) k :=
  have hdrop : RuleKept s (s.calDrop e.slot) k := ruleKept_of_words rfl rfl (fun _ _ => rfl) rfl
  (((hdrop.trans (ruleKept_reflexRec hk _)).trans (ruleKept_setReg_beside hk (by decide) (by decide) _)).trans
    (ruleKept_setReg (RULE_CNT_notMem_ruleView _ k) _)).trans (ruleKept_setReg_beside hk (by decide) (by decide) _)

theorem ruleKept_pulseReported (hk : k < 256) (p : Fin 8) (seq cause : Nat) (m : PulseMark) :
    RuleKept s (s.pulseReported p seq cause m) k :=
  (ruleKept_reflexRec hk _).trans (ruleKept_setReg (RULE_CNT_notMem_ruleView _ k) _)

theorem ruleKept_irq (b : Nat) : RuleKept s (s.irq PG.rfx b) k :=
  ruleKept_setReg (notMem_ruleView_of_low (by decide) (by decide) (by decide) k) _

theorem ruleKept_setBack {q : Nat} (hq : q ≠ k) (p : Fin 8) : RuleKept s (s.ruleSetBack p q) k := by
  have hrestart : RuleKept s (s.ruleRestarted q) k := by
    unfold State.ruleRestarted
    split
    · exact (ruleKept_ruleUpd (.inl hq)).trans (ruleKept_setSts (.inl hq) _)
    · exact ruleKept_refl s k
  unfold State.ruleSetBack
  split
  · exact (hrestart.trans (ruleKept_setSts (.inl hq) _)).trans (ruleKept_irq 3)
  · exact ruleKept_refl s k

/-- A fold whose steps each keep the rule keeps it. -/
theorem ruleKept_foldl {α : Type} {f : State → α → State} (hf : ∀ u a, RuleKept u (f u a) k) (l : List α) (s : State) :
    RuleKept s (l.foldl f s) k :=
  foldl_keeps (RuleKept s · k) f (fun u a hu => hu.trans (hf u a)) l s (ruleKept_refl s k)

theorem ruleKept_cancelled (hk : k < 256) (s : State) (p : Fin 8) (seq cause : Nat) :
    RuleKept s ((s.entriesCancelled p seq cause).pulsesReported p seq cause) k :=
  (ruleKept_foldl (fun _ e => ruleKept_entryCancelled hk cause e) _ s).trans
    (ruleKept_foldl (fun _ m => ruleKept_pulseReported hk p seq cause m) _ _)

/-! ### A rule that has counted inputs of a failed packet (R190, R599) -/

/-- Rule `k` is SUSPECT, and has the ring and HOLDING. -/
structure RuleSuspect (t : State) (k : Nat) (ring : List Word) (holding : Bool) : Prop where
  ring : (t.ruleRt k).ring = ring
  holding : t.bit PG.rfx (R.RULE_STS k) 1 = holding
  suspect : t.bit PG.rfx (R.RULE_STS k) 0 = true

theorem RuleSuspect.of_kept {ring : List Word} {holding : Bool} (h : RuleSuspect s k ring holding) (g : RuleKept s t k) :
    RuleSuspect t k ring holding :=
  ⟨g.ring.trans h.ring, (g.sts 1 (by decide)).trans h.holding, (g.sts 0 (by decide)).trans h.suspect⟩

theorem ruleSuspect_setBack {p : Fin 8} (hcounted : (s.ruleRt k).counted = true) (hunchk : bitAt (s.reg PG.rfx (R.RULE_CTL k)) 1 = false)
    (hport : bf (s.reg PG.rfx (R.RULE_CTL k)) 4 3 = p.val) :
    RuleSuspect (s.ruleSetBack p k) k (if s.rfxCounts then [] else (s.ruleRt k).ring)
      (if s.rfxCounts then false else s.bit PG.rfx (R.RULE_STS k) 1) := by
  have hshown : RuleSuspect ((s.ruleRestarted k).setBit PG.rfx (R.RULE_STS k) 0 true) k (if s.rfxCounts then [] else (s.ruleRt k).ring)
      (if s.rfxCounts then false else s.bit PG.rfx (R.RULE_STS k) 1) := by
    refine ⟨?_, (State.bit_setBit_ne _ (by decide)).trans ?_, State.bit_setBit_self _ _ _ _ _ (by decide)⟩
    · rw [State.ruleRt_setBit]
      unfold State.ruleRestarted
      split
      · rw [State.ruleRt_setBit, State.ruleRt_ruleUpd]
      · rfl
    · unfold State.ruleRestarted
      split
      · exact State.bit_setBit_self _ _ _ _ _ (by decide)
      · rfl
  unfold State.ruleSetBack
  rw [if_pos ⟨hcounted, by rw [hunchk]; rfl, hport⟩]
  exact hshown.of_kept (ruleKept_irq 3)

theorem RuleSuspect.withQueueOf {ring : List Word} {holding : Bool} (h : RuleSuspect s k ring holding) (t : State) :
    RuleSuspect (s.withQueueOf t) k ring holding :=
  ⟨h.ring, h.holding, h.suspect⟩

theorem RuleSuspect.marksDropped {ring : List Word} {holding : Bool} (h : RuleSuspect s k ring holding) (p : Fin 8) (seq : Nat) :
    RuleSuspect (s.marksDropped p seq) k ring holding :=
  ⟨h.ring, h.holding, h.suspect⟩

theorem RuleSuspect.resultTaken {ring : List Word} {holding : Bool} (h : RuleSuspect s k ring holding) (p : Fin 8) (r : Nat) :
    RuleSuspect (s.resultTaken p r) k ring holding := by
  unfold State.resultTaken
  split
  · refine ⟨?_, h.holding, h.suspect⟩
    by_cases hr : k = r
    · subst hr
      rw [State.ruleRt_ruleUpd]
      exact h.ring
    · rw [State.ruleRt_ruleUpd_ne s hr]
      exact h.ring
  · exact h

theorem RuleSuspect.resultsTaken {ring : List Word} {holding : Bool} (h : RuleSuspect s k ring holding) (p : Fin 8) :
    RuleSuspect (s.resultsTaken p) k ring holding :=
  foldl_keeps (RuleSuspect · k ring holding) (fun u r => u.resultTaken p r) (fun _ r hu => hu.resultTaken p r) (List.range 256) s h

/-- A fold over the numbers below `n` of which the steps beside `k` keep the rule. -/
theorem ruleSuspect_foldl_range {f : State → Nat → State} {n : Nat} {ring : List Word} {holding : Bool} (hk : k < n)
    (hact : ∀ u, RuleKept s u k → RuleSuspect (f u k) k ring holding) (hbeside : ∀ u q, q ≠ k → RuleKept u (f u q) k) :
    RuleSuspect ((List.range n).foldl f s) k ring holding := by
  obtain ⟨l, r, hlr⟩ := List.append_of_mem (List.mem_range.mpr hk)
  have hnodup : k ∉ l ++ r := (List.nodup_middle.mp (hlr ▸ List.nodup_range)).notMem
  have hne : ∀ q, q ∈ l ∨ q ∈ r → q ≠ k := fun q hq e => hnodup (List.mem_append.mpr (e ▸ hq))
  have hl : RuleKept s (l.foldl f s) k := 
    List.foldlRecOn (motive := (RuleKept s · k)) l f (ruleKept_refl s k) fun u hu q hq => hu.trans (hbeside u q (hne q (.inl hq)))
  rw [hlr, List.foldl_append, List.foldl_cons]
  exact List.foldlRecOn (motive := (RuleSuspect · k ring holding)) r f (hact _ hl) fun u hu q hq => hu.of_kept (hbeside u q (hne q (.inr hq)))

end

/-! ### What a failed result leaves beside the rules -/

section
variable {s t : State}

/-- The calendar and the ports stand as they were. -/
structure CalendarKept (s t : State) : Prop where
  sp : t.sp = s.sp
  cal : t.rfx.cal = s.rfx.cal

theorem calendarKept_pulseReported (h : CalendarKept s t) (p : Fin 8) (seq cause : Nat) (m : PulseMark) :
    CalendarKept s (t.pulseReported p seq cause m) :=
  ⟨(onlyReflex_reflexRec t _).sp.trans h.sp, (State.reflexRec_cal t _).trans h.cal⟩

theorem calendarKept_setBack (h : CalendarKept s t) (p : Fin 8) (r : Nat) : CalendarKept s (t.ruleSetBack p r) := by
  have hrestart : CalendarKept s (t.ruleRestarted r) := by
    unfold State.ruleRestarted
    split
    · exact ⟨h.sp, h.cal⟩
    · exact h
  unfold State.ruleSetBack
  split
  · exact ⟨hrestart.sp, hrestart.cal⟩
  · exact h

theorem calendarKept_marksDropped (h : CalendarKept s t) (p : Fin 8) (seq : Nat) : CalendarKept s (t.marksDropped p seq) := ⟨h.sp, h.cal⟩

theorem calendarKept_resultTaken (h : CalendarKept s t) (p : Fin 8) (r : Nat) : CalendarKept s (t.resultTaken p r) := by
  unfold State.resultTaken
  split
  · exact ⟨h.sp, h.cal⟩
  · exact h

theorem calendarKept_pulsesReported (s : State) (p : Fin 8) (seq cause : Nat) : CalendarKept s (s.pulsesReported p seq cause) :=
  foldl_keeps (CalendarKept s) _ (fun _ m hu => calendarKept_pulseReported hu p seq cause m) _ s ⟨rfl, rfl⟩

theorem calendarKept_rulesSetBack (h : CalendarKept s t) (p : Fin 8) : CalendarKept s (t.rulesSetBack p) :=
  foldl_keeps (CalendarKept s) _ (fun _ r hu => calendarKept_setBack hu p r) _ t h

theorem calendarKept_resultsTaken (h : CalendarKept s t) (p : Fin 8) : CalendarKept s (t.resultsTaken p) :=
  foldl_keeps (CalendarKept s) _ (fun _ r hu => calendarKept_resultTaken hu p r) _ t h

theorem State.entryCancelled_cal (s : State) (cause : Nat) (e : CalEntry) :
    (s.entryCancelled cause e).rfx.cal = s.rfx.cal.filter fun x => x.slot != e.slot :=
  State.reflexRec_cal (s.calDrop e.slot) _

theorem State.entriesCancelled_cal (hslots : s.rfx.cal.Pairwise fun a b => a.slot ≠ b.slot) (p : Fin 8) (seq cause : Nat) :
    (s.entriesCancelled p seq cause).rfx.cal = s.rfx.cal.filter fun e => !(e.unchk && isPkt e.pkt p seq) := by
  rw [State.entriesCancelled, foldl_drops_slots fun u e => u.entryCancelled_cal cause e, filter_otherSlots hslots]

theorem State.entriesCancelled_sp (s : State) (p : Fin 8) (seq cause : Nat) : (s.entriesCancelled p seq cause).sp = s.sp :=
  foldl_keeps (fun u => u.sp = s.sp) (fun u e => u.entryCancelled cause e)
    (fun u e hu => (onlyReflex_reflexRec (u.calDrop e.slot) _).sp.trans hu) _ s rfl

/-- The status words of the rules. -/
def ruleStsWords : List Nat := (List.range 256).map R.RULE_STS

theorem onlyReflex_shadowEnd (h : OnlyReflex s t ruleStsWords) (p : Fin 8) (seq : Nat) {r : Nat} (hr : r < 256) :
    OnlyReflex s (t.shadowEnd p seq false r) ruleStsWords := by
  rcases t.shadowEnd_failed p seq r with hend | hend <;> rw [hend]
  · exact h
  · exact onlyReflex_setReg (onlyReflex_rfxUpd h _) (RULE_STS_lt hr) (List.mem_map_of_mem (List.mem_range.mpr hr)) _

theorem State.shadowEnd_failed_cal (s : State) (p : Fin 8) (seq r : Nat) : (s.shadowEnd p seq false r).rfx.cal = s.rfx.cal := by
  rcases s.shadowEnd_failed p seq r with h | h <;> rw [h]
  rfl

theorem onlyReflex_shadowsEnded (s : State) (p : Fin 8) (seq : Nat) : OnlyReflex s (s.shadowsEnded p seq) ruleStsWords :=
  List.foldlRecOn (motive := (OnlyReflex s · ruleStsWords)) _ _ (onlyReflex_refl s _) fun _ hu _ hr =>
    onlyReflex_shadowEnd hu p seq (List.mem_range.mp hr)

theorem State.shadowsEnded_cal (s : State) (p : Fin 8) (seq : Nat) : (s.shadowsEnded p seq).rfx.cal = s.rfx.cal :=
  foldl_keeps (fun u => u.rfx.cal = s.rfx.cal) (fun u r => u.shadowEnd p seq false r)
    (fun u r hu => (u.shadowEnd_failed_cal p seq r).trans hu) _ s rfl

theorem State.shadowsEnded_noneDue (h : s.noneDue) (p : Fin 8) (seq : Nat) : (s.shadowsEnded p seq).noneDue := fun e he => by
  rw [(onlyReflex_shadowsEnded s p seq).dueItem]
  exact h e (s.shadowsEnded_cal p seq ▸ he)

end

/-! ### RFX_CRC_RESULT and PULSE_END -/

section
variable {s : State} {p : Fin 8} {seq : Nat} {trunc : Bool} {rest : List FrontItem}

/-- What a failed result leaves: the rules set back, and the packet's marks and counted inputs gone. -/
def State.resultFailed (s : State) (p : Fin 8) (seq : Nat) (trunc : Bool) : State :=
  (((s.shadowsEnded p seq).packetFailed p seq (b2n trunc)).marksDropped p seq).resultsTaken p

theorem exec_rfxCrcResult_failed (hon : s.isOff PG.rfx = false) (h : (s.sp.get p).front = .crc seq false trunc :: rest) :
    exec (.rfxCrcResult p) s = .next (((s.frontRest p rest).resultFailed p seq trunc).withQueueOf s) := by
  rw [exec_rfxCrcResult, execRfxCrcResult, State.ifOn_powered hon, State.rfxCrc_failed h, State.ends_eq, State.resultFailed]

theorem State.resultFailed_calendar (hslots : s.rfx.cal.Pairwise fun a b => a.slot ≠ b.slot) (hdue : s.noneDue) (p : Fin 8) (seq : Nat)
    (trunc : Bool) : (s.resultFailed p seq trunc).sp = s.sp ∧
      (s.resultFailed p seq trunc).rfx.cal = s.rfx.cal.filter fun e => !(e.unchk && isPkt e.pkt p seq) := by
  have hcal := s.shadowsEnded_cal p seq
  have hcancelled := State.entriesCancelled_cal (s := s.shadowsEnded p seq) (by rw [hcal]; exact hslots) p seq (b2n trunc)
  have hsp := ((s.shadowsEnded p seq).entriesCancelled_sp p seq (b2n trunc)).trans (onlyReflex_shadowsEnded s p seq).sp
  unfold State.resultFailed
  rw [State.packetFailed_noneDue (State.shadowsEnded_noneDue hdue p seq)]
  generalize (s.shadowsEnded p seq).entriesCancelled p seq (b2n trunc) = v at hcancelled hsp
  have hback := calendarKept_rulesSetBack (calendarKept_pulsesReported v p seq (b2n trunc)) p
  have htaken := calendarKept_resultsTaken (calendarKept_marksDropped hback p seq) p
  exact ⟨htaken.sp.trans hsp, htaken.cal.trans (hcancelled.trans (by rw [hcal]))⟩

theorem State.resultFailed_suspect (hdue : s.noneDue) {k : Nat} (hk : k < 256) (hcounted : (s.ruleRt k).counted = true)
    (hunchk : bitAt (s.reg PG.rfx (R.RULE_CTL k)) 1 = false) (hport : bf (s.reg PG.rfx (R.RULE_CTL k)) 4 3 = p.val) (seq : Nat)
    (trunc : Bool) : RuleSuspect (s.resultFailed p seq trunc) k (if s.rfxCounts then [] else (s.ruleRt k).ring)
      (if s.rfxCounts then false else s.bit PG.rfx (R.RULE_STS k) 1) := by
  have hkept : RuleKept s (((s.shadowsEnded p seq).entriesCancelled p seq (b2n trunc)).pulsesReported p seq (b2n trunc)) k :=
    (ruleKept_foldl (fun u r => ruleKept_shadowEnd p seq r) (List.range 256) s).trans
    (ruleKept_cancelled hk (s.shadowsEnded p seq) p seq (b2n trunc))
  unfold State.resultFailed
  rw [State.packetFailed_noneDue (State.shadowsEnded_noneDue hdue p seq)]
  refine RuleSuspect.resultsTaken (RuleSuspect.marksDropped ?_ p seq) p
  refine ruleSuspect_foldl_range hk (fun u hu => ?_) fun u q hq => ruleKept_setBack hq p
  have hall := hkept.trans hu
  have hback := ruleSuspect_setBack (s := u) (p := p) (by rw [hall.counted, hcounted]) (by rw [hall.ctl, hunchk]) (by rw [hall.ctl, hport])
  rwa [hall.counts, hall.ring, hall.sts 1 (by decide)] at hback

theorem exec_pulseEnd_runs (hon : s.isOff PG.rfx = false) {o : Fin 32} (h : s.inPulse o = true) : exec (.pulseEnd o) s = .next s := by
  rw [exec_pulseEnd, execPulseEnd, State.ifOn_powered hon]
  cases htimer : s.rfx.pulse.get o with
  | none => simp [State.inPulse, htimer] at h
  | some e =>
    rw [State.inPulse_some htimer] at h
    simp [h]

theorem exec_pulseEnd_ends (hon : s.isOff PG.rfx = false) {o : Fin 32} {e : Word} (htimer : s.rfx.pulse.get o = some e)
    (h : s.inPulse o = false) : exec (.pulseEnd o) s = .next (s.rfxUpd fun x => x.withTimer o none) := by
  rw [State.inPulse_some htimer] at h
  rw [exec_pulseEnd, execPulseEnd, State.ifOn_powered hon]
  simp only [htimer, h, Bool.false_eq_true, if_false]
  exact State.ends_of rfl rfl

end

/-- Settles O21: a pulse by its timer; a result by whether it is good, and a failed one by what its packet's entries and rules hold. -/
theorem pulseEndAndPacketResult : Obligations.PulseEndAndPacketResult := by
  intro s hon
  refine ⟨fun o h => exec_pulseEnd_runs hon h, fun o e htimer h => ⟨_, exec_pulseEnd_ends hon htimer h, RfxState.withTimer_self _ _ _,
    fun k hk => RfxState.withTimer_ne _ hk _, rfl⟩, fun p h => ?_, fun p seq trunc rest h hnone => ?_, fun p seq trunc rest h hslots hdue => ?_⟩
  · rw [exec_rfxCrcResult, execRfxCrcResult, State.ifOn_powered hon, State.rfxCrc_empty h, State.ends_self]
  · obtain ⟨t, hnext, hrules⟩ := exec_rfxCrcResult_good hon h hnone
    refine ⟨t, hnext, ?_, ?_, ?_, ?_, ?_⟩ <;> rw [hrules]
    · exact congrArg SpState.front (State.spUpd_get s p _)
    all_goals rfl
  · have hdue' : (s.frontRest p rest).noneDue := hdue
    obtain ⟨hsp, hcal⟩ := State.resultFailed_calendar (s := s.frontRest p rest) hslots hdue' p seq trunc
    refine ⟨_, exec_rfxCrcResult_failed hon h, ?_, ?_, fun k hk hcounted hunchk hport => ?_⟩
    · rw [State.withQueueOf_sp, hsp, State.frontRest, State.spUpd_get]
    · rw [State.withQueueOf_rfx]
      exact hcal
    · obtain ⟨hring, hholding, hsuspect⟩ := (State.resultFailed_suspect (s := s.frontRest p rest) hdue' hk hcounted hunchk hport seq
        trunc).withQueueOf s
      refine ⟨fun hrun => ?_, fun hstop => ?_, hsuspect⟩
      · have hcounts : (s.frontRest p rest).rfxCounts = true := hrun
        rw [hcounts] at hring hholding
        exact ⟨hring, hholding⟩
      · have hcounts : (s.frontRest p rest).rfxCounts = false := hstop
        rw [hcounts] at hring hholding
        exact ⟨hring, hholding⟩

end Sys2Proof.Machine
end

section
/-!
PROOFS. Software inserts and flushes of the trigger calendar (R185, R192, R197, R198): the lowest free slot (the model's choice, log 70),
what an insert leaves, and what a flush removes.
-/

namespace Sys2Proof.Machine

/-! ### The lowest free slot (R192) -/

theorem freeSlot_lowest (l : List Nat) (n i : Nat) :
    i ≤ freeSlot l n i ∧ freeSlot l n i ≤ i + n ∧ (∀ j, i ≤ j → j < freeSlot l n i → j ∈ l) ∧
      (freeSlot l n i < i + n → freeSlot l n i ∉ l) := by
  induction n generalizing i with
  | zero => exact ⟨Nat.le_refl i, Nat.le_refl i, fun j hj hlt => absurd hlt (Nat.not_lt.mpr hj), fun h => absurd h (Nat.lt_irrefl i)⟩
  | succ n ih =>
    rw [freeSlot]
    cases hmem : l.contains i with
    | false =>
      have hnot : i ∉ l := by simpa using hmem
      exact ⟨Nat.le_refl i, by simp, fun j hj hlt => absurd hlt (Nat.not_lt.mpr hj), fun _ => hnot⟩
    | true =>
      obtain ⟨hge, hle, hused, hfree⟩ := ih (i + 1)
      refine ⟨by rw [if_pos rfl]; omega, by rw [if_pos rfl]; omega, fun j hj hlt => ?_, fun h => hfree (by rw [if_pos rfl] at h; omega)⟩
      by_cases hji : j = i
      · rw [hji]
        simpa using hmem
      · exact hused j (by omega) (by rwa [if_pos rfl] at hlt)

/-- With fewer numbers in use than there are slots, one of the slots is free. -/
theorem freeSlot_lt {l : List Nat} {n : Nat} (h : l.length < n) : freeSlot l n 0 < n := by
  obtain ⟨-, hle, hused, -⟩ := freeSlot_lowest l n 0
  refine Nat.lt_of_not_le fun hfull => ?_
  have hall : List.range n ⊆ l := fun j hj => hused j (Nat.zero_le j) (Nat.lt_of_lt_of_le (List.mem_range.mp hj) hfull)
  have hlen := (List.nodup_range.subperm hall).length_le
  rw [List.length_range] at hlen
  omega

/-- The lowest free slot of the calendar. -/
def State.freeCalSlot (s : State) : Nat := freeSlot (s.rfx.cal.map CalEntry.slot) 4096 0

theorem State.freeCalSlot_spec {s : State} (h : s.rfx.cal.length < 4096) :
    s.freeCalSlot < 4096 ∧ (∀ f, f ∈ s.rfx.cal → f.slot ≠ s.freeCalSlot) ∧
      ∀ j, j < s.freeCalSlot → ∃ f, f ∈ s.rfx.cal ∧ f.slot = j := by
  have hlt : s.freeCalSlot < 4096 := freeSlot_lt (by rwa [List.length_map])
  obtain ⟨-, -, hused, hfree⟩ := freeSlot_lowest (s.rfx.cal.map CalEntry.slot) 4096 0
  refine ⟨hlt, fun f hf hslot => hfree (by rwa [Nat.zero_add]) ?_, fun j hj => List.mem_map.mp (hused j (Nat.zero_le j) hj)⟩
  exact List.mem_map.mpr ⟨f, hf, hslot⟩

/-! ### An insert (R185, R192, R193, R196) -/

/-- R193: the base runs and has reached the target. -/
def State.targetReached (s : State) (base : Fin 8) (target : Word) : Prop :=
  s.ptbRunning base = true ∧ atOrAfter (s.pos base) target = true

section
variable {s : State} {e : CalEntry} {base : Fin 8} {target : Word} (hdue : s.noneDue)
include hdue

theorem State.calInsert_joins (h : ¬ s.targetReached base target) (hroom : s.rfx.cal.length < 4096) : s.calInsert e base target =
    (s.rfxUpd fun x => { x with cal := x.cal ++ [{ e with slot := s.freeCalSlot }] }).schedAdd (.calendar s.freeCalSlot) base target
      (s.pos base) := by
  unfold State.calInsert
  rw [State.calSettle_noneDue hdue]
  exact (if_neg (by simpa [State.targetReached] using h)).trans (if_neg (Nat.not_le.mpr hroom))

theorem State.calInsert_refused (h : ¬ s.targetReached base target) (hfull : 4096 ≤ s.rfx.cal.length) : s.calInsert e base target =
    ((((s.setBit PG.tcal R.TCAL_STS 16 true).irq PG.tcal 0).bump PG.tcal R.TCAL_CNT0 32 32).calRec 5 6 e base target) := by
  unfold State.calInsert
  rw [State.calSettle_noneDue hdue]
  exact (if_neg (by simpa [State.targetReached] using h)).trans (if_pos hfull)

theorem State.calInsert_late (h : s.targetReached base target) :
    s.calInsert e base target = (s.bump PG.tcal R.TCAL_CNT1 48 16).calFire e base target := by
  unfold State.calInsert
  rw [State.calSettle_noneDue hdue]
  exact if_pos (by simpa [State.targetReached] using h)

end

/-- A write of the calendar's page darkens no output. -/
theorem State.outDark_setCalReg (s : State) {r o : Nat} (hr : r < 0x10000) (ho : o < 32) (v : Word) :
    (s.setReg PG.tcal r v).outDark o = s.outDark o :=
  State.outDark_congr (State.reg_setReg_ne _ _ (rkey_ne hr (by decide) (.inl (by decide))))
    (State.reg_setReg_ne _ _ (rkey_ne hr (Nat.lt_trans (RFX_OUT_CFG_lt ho) (by decide)) (.inl (by decide))))
    (State.reg_setReg_ne _ _ (rkey_ne hr (by decide) (.inl (by decide))))

/-- R192: the firing of an entry on a driven output. -/
theorem State.calFire_driven {s : State} {e : CalEntry} (ho : e.out < 32) (h : s.outDark e.out = false) (base : Fin 8) (target : Word) :
    ∃ rule mark, s.calFire e base target = (s.bump PG.tcal R.TCAL_CNT0 0 32).startPulse (outOf e.out) e.width rule mark := by
  have hdriven : (s.bump PG.tcal R.TCAL_CNT0 0 32).outDark e.out = false := (State.outDark_setCalReg s (by decide) ho _).trans h
  unfold State.calFire
  simp only [hdriven, Bool.false_eq_true, if_false]
  exact ⟨_, _, rfl⟩

/-- R193, R196: what an insert leaves whose target is reached: a firing that counts as late, and a pulse. -/
theorem calInsert_late_fires {s : State} {e : CalEntry} {base : Fin 8} {target : Word} (hdue : s.noneDue) (h : s.targetReached base target)
    (ho : e.out < 32) (hdriven : s.outDark e.out = false) (hidle : s.inPulse (outOf e.out) = false) :
    ∃ v, Pulsed v (s.calInsert e base target) (outOf e.out) (s.dtc + wOfNat (e.width * 10)) ∧ v.rfx = s.rfx ∧ v.sched = s.sched ∧
      v.part = s.part ∧ v.pending = s.pending ∧ Counted s v PG.tcal R.TCAL_CNT1 48 16 1 ∧ Counted s v PG.tcal R.TCAL_CNT0 0 32 1 := by
  have hdriven' : (s.bump PG.tcal R.TCAL_CNT1 48 16).outDark e.out = false := (State.outDark_setCalReg s (by decide) ho _).trans hdriven
  obtain ⟨rule, mark, hfire⟩ := State.calFire_driven (s := s.bump PG.tcal R.TCAL_CNT1 48 16) ho hdriven' base target
  have hdark : ((s.bump PG.tcal R.TCAL_CNT1 48 16).bump PG.tcal R.TCAL_CNT0 0 32).outDark (outOf e.out) = false := by
    rw [outOf_val ho]
    exact (State.outDark_setCalReg _ (by decide) ho _).trans hdriven'
  rw [State.calInsert_late hdue h, hfire]
  refine ⟨_, pulsed_startPulse hdark hidle e.width rule mark, rfl, rfl, rfl, rfl, ?_, ?_⟩
  · exact counted_setReg_off (counted_bump rfl (by decide)) (by decide) _
  · exact counted_bump (State.reg_setReg_off s _ (by decide)) (by decide)

/-! ### TCAL_SW_GO (R197) -/

/-- R197: the entry of a software insert, by TCAL_SW_CTL. -/
def swEntry (c : Word) : CalEntry :=
  { slot := 0, sw := true, rule := bf c 48 16, pkt := none, unchk := false, out := bf c 0 5, width := bf c 16 24, skip := bitAt c 8 }

section
variable {s : State} (hw : Writable s PG.tcal) (ini : Initiator)
include hw

theorem exec_tcalSwGo_writable : exec (.tcalSwGo ini) s = s.ends (if s.calTakes then s.calSwGo else s) := by
  have hreg : (Wr.full ini R.TCAL_SW_GO 1).reg = R.TCAL_SW_GO := Wr.full_reg ini _ _
  rw [exec_tcalSwGo, execTcalSwGo, State.tcalWr, State.gate_writable hw, State.tcalWrite, if_neg (by rw [hreg]; decide),
    if_pos hreg]

theorem exec_tcalSwGo_shut (h : s.calTakes = false) : exec (.tcalSwGo ini) s = .next s := by
  rw [exec_tcalSwGo_writable hw, h]
  rfl

theorem exec_tcalSwGo_noWidth (h : s.calTakes = true) (hwidth : bf (s.reg PG.tcal R.TCAL_SW_CTL) 16 24 = 0) :
    exec (.tcalSwGo ini) s = .next (s.setBit PG.tcal R.TCAL_STS 17 true) := by
  rw [exec_tcalSwGo_writable hw, if_pos h, State.calSwGo, if_pos hwidth]
  exact State.ends_of rfl rfl

theorem exec_tcalSwGo_inserts (h : s.calTakes = true) (hwidth : bf (s.reg PG.tcal R.TCAL_SW_CTL) 16 24 ≠ 0) :
    exec (.tcalSwGo ini) s = s.ends (s.calInsert (swEntry (s.reg PG.tcal R.TCAL_SW_CTL)) (baseOf (bf (s.reg PG.tcal R.TCAL_SW_CTL) 5 3))
      (s.reg PG.tcal R.TCAL_SW_POS)) := by
  rw [exec_tcalSwGo_writable hw, if_pos h, State.calSwGo, if_neg hwidth]
  rfl

end

/-- R196: what a refused insert leaves. -/
theorem calInsert_refused_counts {s : State} {e : CalEntry} {base : Fin 8} {target : Word} (hdue : s.noneDue)
    (h : ¬ s.targetReached base target) (hfull : 4096 ≤ s.rfx.cal.length) :
    ∃ v, OnlyReflex v (s.calInsert e base target) recRegs ∧ OnlyRegs s v ∧ (s.calInsert e base target).rfx.cal = s.rfx.cal ∧
      v.bit PG.tcal R.TCAL_STS 16 = true ∧ v.bit PG.tcal R.PG_IRQ_RAW 0 = true ∧ Counted s v PG.tcal R.TCAL_CNT0 32 32 1 := by
  rw [State.calInsert_refused hdue h hfull]
  refine ⟨_, onlyReflex_reflexRec _ _, rfl, State.reflexRec_cal _ _, ?_, ?_, ?_⟩
  · rw [State.bit_bump_off _ (by decide), State.irq, State.bit_congr (State.reg_setBit_off _ (by decide))]
    exact State.bit_setBit_self _ _ _ _ _ (by decide)
  · rw [State.bit_bump_off _ (by decide)]
    exact State.irq_bit _ _ _ (by decide)
  · refine counted_bump ?_ (by decide)
    exact (State.reg_setBit_off _ (by decide)).trans (State.reg_setBit_off _ (by decide))

/-! ### TCAL_FLUSH (R198) -/

/-- R198: the entry lies in the scope of a flush. -/
def State.flushHits (s : State) (scope rule out ptb : Nat) (e : CalEntry) : Bool :=
  match scope with
  | 0 => !e.sw && e.rule == rule
  | 1 => e.out == out
  | 2 => (s.calAt e).1.val == ptb
  | _ => true

/-- Entries that leave the calendar. -/
def State.calDropped (s : State) (l : List CalEntry) : State := l.foldl (fun u e => u.calDrop e.slot) s

/-- R198: the record of a flush that has removed `n` entries. -/
def flushRec (scope rule out ptb cause n : Nat) : ReflexRec :=
  { kind := 6, cause, out := if scope = 1 then out else 255, rule := if scope = 0 then rule else 0,
    base := if scope = 2 then ptb else 0, count := n }

theorem State.calFlush_noneDue {s : State} (hdue : s.noneDue) (scope rule out ptb cause : Nat) : s.calFlush scope rule out ptb cause =
    (s.calDropped (s.rfx.cal.filter (s.flushHits scope rule out ptb))).reflexRec
      (flushRec scope rule out ptb cause (s.rfx.cal.filter (s.flushHits scope rule out ptb)).length) := by
  unfold State.calFlush
  rw [State.calSettle_noneDue hdue]
  rcases scope with _ | _ | _ | _ <;> rfl

theorem State.calDropped_cal {s : State} (hslots : s.rfx.cal.Pairwise fun a b => a.slot ≠ b.slot) (hit : CalEntry → Bool) :
    (s.calDropped (s.rfx.cal.filter hit)).rfx.cal = s.rfx.cal.filter fun e => !hit e := by
  rw [State.calDropped, foldl_drops_slots fun _ _ => rfl, filter_otherSlots hslots]

theorem State.calDropped_schedGet (s : State) {l : List CalEntry} {e : CalEntry} (he : e ∈ l) :
    (s.calDropped l).schedGet (.calendar e.slot) = none := by
  obtain ⟨before, after, hl⟩ := List.append_of_mem he
  rw [State.calDropped, hl, List.foldl_append, List.foldl_cons]
  refine foldl_keeps (fun u : State => u.schedGet (.calendar e.slot) = none) (fun u x => u.calDrop x.slot) (fun u x hu => ?_) after _
    (State.schedGet_schedDel _ _)
  exact List.find?_eq_none.mpr fun i hi => List.find?_eq_none.mp hu i (List.mem_filter.mp hi).1

theorem State.calDropped_rest (s : State) (l : List CalEntry) : s.calDropped l =
    { s with rfx := { s.rfx with cal := (s.calDropped l).rfx.cal }, sched := (s.calDropped l).sched } :=
  foldl_keeps (fun u : State => u = { s with rfx := { s.rfx with cal := u.rfx.cal }, sched := u.sched })
    (fun u (e : CalEntry) => u.calDrop e.slot)
    (fun u e hu => by rw [hu]; rfl) l s rfl

theorem exec_tcalFlush_writable {s : State} (hw : Writable s PG.tcal) (ini : Initiator) (v : Word) :
    exec (.tcalFlush ini v) s = s.ends (s.calFlush (bf v 0 2) (bf v 8 8) (bf v 16 5) (bf v 24 3) 7) := by
  have hreg : (Wr.full ini R.TCAL_FLUSH v).reg = R.TCAL_FLUSH := Wr.full_reg ini _ _
  rw [exec_tcalFlush, execTcalFlush, State.tcalWr, State.gate_writable hw, State.tcalWrite, if_pos hreg, Wr.full_val]

theorem exec_tcalFlush_removes {s : State} (hw : Writable s PG.tcal) (hdue : s.noneDue) (ini : Initiator) (v : Word)
    (hslots : s.rfx.cal.Pairwise fun a b => a.slot ≠ b.slot) {hit : CalEntry → Bool}
    (hhit : s.flushHits (bf v 0 2) (bf v 8 8) (bf v 16 5) (bf v 24 3) = hit) :
    ∃ t, exec (.tcalFlush ini v) s = .next t ∧ t.rfx.cal = s.rfx.cal.filter (fun e => !hit e) ∧
      (∀ e, e ∈ s.rfx.cal → hit e = true → t.schedGet (.calendar e.slot) = none) ∧
      (s.rfx.recs.length < 256 → ∃ rec, t.rfx.recs = s.rfx.recs ++ [rec] ∧ rec.kind = 6 ∧ rec.cause = 7 ∧
        rec.count = (s.rfx.cal.filter hit).length ∧ rec.dtc = s.dtc) := by
  have hflush := State.calFlush_noneDue hdue (bf v 0 2) (bf v 8 8) (bf v 16 5) (bf v 24 3) 7
  rw [hhit] at hflush
  have hrest := s.calDropped_rest (s.rfx.cal.filter hit)
  have hcal := State.calDropped_cal hslots hit
  have hsched : ∀ e ∈ s.rfx.cal, hit e = true → (s.calDropped (s.rfx.cal.filter hit)).schedGet (.calendar e.slot) = none :=
    fun e he h => s.calDropped_schedGet (List.mem_filter.mpr ⟨he, h⟩)
  rw [exec_tcalFlush_writable hw, hflush]
  generalize s.calDropped (s.rfx.cal.filter hit) = d at hrest hcal hsched
  have honly := onlyReflex_reflexRec d (flushRec (bf v 0 2) (bf v 8 8) (bf v 16 5) (bf v 24 3) 7 (s.rfx.cal.filter hit).length)
  refine ⟨_, State.ends_of (by rw [honly.rest, hrest]) (by rw [honly.rest, hrest]), (State.reflexRec_cal d _).trans hcal, fun e he h => ?_,
    fun hroom => ?_⟩
  · rw [State.schedGet, State.reflexRec_sched]
    exact hsched e he h
  · have hrecs : d.rfx.recs = s.rfx.recs := by rw [hrest]
    have hdtc : d.dtc = s.dtc := by rw [hrest]
    rw [State.reflexRec_joins (by rwa [hrecs])]
    exact ⟨_, congrArg (· ++ _) hrecs, rfl, rfl, rfl, hdtc⟩

/-- Settles O22: an insert by its width, by its target and by the room; a flush by the entries that its scope hits. The lowest free slot is
the model's choice (log 70). -/
theorem calendarInsertAndFlush : Obligations.CalendarInsertAndFlush := by
  intro ini s hw hdue c b x o reached
  have hout : bf c 0 5 < 32 := bf_lt c 0 5
  refine ⟨fun h => exec_tcalSwGo_shut hw ini h, fun h hwidth => exec_tcalSwGo_noWidth hw ini h hwidth,
    fun h hwidth => ⟨fun hahead hroom => ?_, fun hahead hfull => ?_, fun hreached hdriven hidle => ?_⟩, fun v hslots => ?_⟩
  · obtain ⟨hlt, hfree, hused⟩ := State.freeCalSlot_spec hroom
    rw [exec_tcalSwGo_inserts hw ini h hwidth, State.calInsert_joins hdue hahead hroom]
    exact ⟨_, { swEntry c with slot := s.freeCalSlot }, State.ends_of rfl rfl, rfl, hlt, hfree, hused, rfl, rfl, rfl, rfl, rfl, rfl,
      State.schedGet_schedAdd _ _ _ _ _, rfl⟩
  · obtain ⟨u, honly, hregs, hcal, hsts, hraw, hcnt⟩ := calInsert_refused_counts (e := swEntry c) hdue hahead hfull
    rw [exec_tcalSwGo_inserts hw ini h hwidth]
    refine ⟨_, State.ends_of (by rw [honly.rest, hregs]) (by rw [honly.rest, hregs]), hcal, by rw [honly.rest, hregs], ?_, ?_, ?_⟩
    · exact (State.bit_congr (honly.reg_beside (by decide) (by decide)) _).trans hsts
    · exact (State.bit_congr (honly.reg_beside (by decide) (by decide)) _).trans hraw
    · exact counted_of_reg hcnt (honly.reg_beside (by decide) (by decide))
  · obtain ⟨u, hp, hrfx, hsched, hpart, hpending, hlate, hfired⟩ := calInsert_late_fires (e := swEntry c) hdue hreached hout hdriven hidle
    rw [exec_tcalSwGo_inserts hw ini h hwidth]
    refine ⟨_, State.ends_of (by rw [hp.only.rest, hpart]) (by rw [hp.only.rest, hpending]), by rw [hp.cal, hrfx],
      by rw [hp.only.rest, hsched], hp.timer, ?_, ?_⟩
    · exact counted_of_reg hlate (hp.only.reg_beside (by decide) (by decide))
    · exact counted_of_reg hfired (hp.only.reg_beside (by decide) (by decide))
  · intro hit
    exact exec_tcalFlush_removes hw hdue ini v hslots (hit := hit) rfl

end Sys2Proof.Machine
end

section
/-!
PROOFS. The core heartbeat and its dead-man (R31, R203, R486, R489), and commands of the reflex page (R203, R207).
-/

namespace Sys2Proof.Machine

/-! ### The core heartbeat (R31, R493) -/

@[simp] theorem State.bit_twinUpd (s : State) (f : TwinState → TwinState) (q o i : Nat) : (s.twinUpd f).bit q o i = s.bit q o i := rfl

/-- R31: a pulse has come. -/
def State.beatSeen (s : State) : State := { s with rfx := { s.rfx with hbAt := s.dtc, hbBack := true } }

/-- R489: the demotion shows. -/
def State.demotionShown (s : State) : State :=
  ((s.setBit PG.wth R.WTH_STS 9 true).irq PG.wth 1).twinUpd fun t => { t with demote := false }

section
variable {s : State}

theorem State.twinDrop_net (s : State) : ∃ u : State, u = { s with ldg := u.ldg, res := u.res } ∧
    s.twinDrop = (u.netUpd 0 fun n => { n with sendq := [] }).netUpd 1 fun n => { n with sendq := [] } := by
  unfold State.twinDrop
  dsimp only
  generalize hu : List.foldl _ s _ = u
  refine ⟨u, hu ▸ ?_, rfl⟩
  refine foldl_keeps (fun u : State => u = { s with ldg := u.ldg, res := u.res }) _ (fun u c hu => ?_) _ s rfl
  split
  · next i _ => rw [State.closeItem_rest u i, hu]
  · exact hu

/-- What stands beside the ledger, the results unit and the ports. -/
theorem State.twinDrop_field {α : Type} (g : State → α) (hg : ∀ u l r n, g { u with ldg := l, res := r, net := n } = g u) (s : State) :
    g s.twinDrop = g s := by
  obtain ⟨u, hu, hdrop⟩ := s.twinDrop_net
  rw [hdrop, hu]
  exact hg s _ _ _

theorem State.twinDrop_sendq (s : State) (q : Fin 2) : (s.twinDrop.net.get q).sendq = [] := by
  obtain ⟨u, -, hdrop⟩ := s.twinDrop_net
  rw [hdrop]
  by_cases hq : q = 1
  · rw [hq, State.netUpd_get]
  · have hzero : q = 0 := by omega
    rw [State.netUpd_get_ne _ _ hq, hzero, State.netUpd_get]

theorem exec_coreHeartbeat_plain (hon : s.isOff PG.res = false) (h : s.twin.demote = false) :
    exec .coreHeartbeat s = .next s.beatSeen := by
  have h' : s.beatSeen.twin.demote = false := h
  rw [exec_coreHeartbeat, execCoreHeartbeat, State.coreBeat, if_neg (by rw [hon]; decide)]
  exact (congrArg s.ends (if_neg (by rw [← State.beatSeen, h']; decide))).trans (State.ends_of rfl rfl)

theorem exec_coreHeartbeat_demoted (hon : s.isOff PG.res = false) (h : s.twin.demote = true) :
    exec .coreHeartbeat s = .next s.beatSeen.demotionShown.twinDrop := by
  rw [exec_coreHeartbeat, execCoreHeartbeat, State.coreBeat, if_neg (by rw [hon]; decide)]
  refine (congrArg s.ends (if_pos h)).trans ?_
  exact State.ends_of (State.twinDrop_field State.part (fun _ _ _ _ => rfl) _) (State.twinDrop_field State.pending (fun _ _ _ _ => rfl) _)

theorem State.demotionShown_bits (s : State) :
    s.demotionShown.bit PG.wth R.WTH_STS 9 = true ∧ s.demotionShown.bit PG.wth R.PG_IRQ_RAW 1 = true := by
  constructor
  · rw [State.demotionShown, State.bit_twinUpd, State.irq, State.bit_congr (State.reg_setBit_off _ (by decide)),
      State.bit_setBit_self _ _ _ _ _ (by decide)]
  · rw [State.demotionShown, State.bit_twinUpd, State.irq_bit _ _ _ (by decide)]

/-! ### The dead-man (R203, R486) -/

theorem State.outDark_deadman (h : s.deadman = true) (o : Nat) : s.outDark o = true := by
  simp [State.outDark, h]

/-- R203: DEADMAN sets with its cause, and pulses have to come back. -/
def State.deadmanSet (s : State) : State :=
  ((s.setBit PG.rfx R.RFX_STS 4 true).irq PG.rfx 1).rfxUpd fun x => { x with hbBack := false }

/-- R489: an active device has become standby. -/
def State.standby (s : State) : State :=
  (((s.setFld PG.wth R.WTH_STS 0 2 1).setBit PG.loc R.LOC_ID 31 true).setBit PG.loc R.LOC_ID 63 true).twinUpd
    fun t => { t with demote := true }

theorem State.deadmanSet_role (s : State) : s.deadmanSet.role = s.role := by
  rw [State.role, State.deadmanSet, State.fld_rfxUpd, State.irq, State.setBit, State.setBit,
    State.fld_setReg_ne _ _ _ _ (rkey_ne (by decide) (by decide) (.inl (by decide))),
    State.fld_setReg_ne _ _ _ _ (rkey_ne (by decide) (by decide) (.inl (by decide))), State.role]

theorem State.deadmanSet_deadman (s : State) : s.deadmanSet.deadman = true := by
  rw [State.deadman, State.deadmanSet, State.bit_rfxUpd, State.irq, State.bit_congr (State.reg_setBit_off _ (by decide)),
    State.bit_setBit_self _ _ _ _ _ (by decide)]

theorem State.deadmanSet_raw (s : State) : s.deadmanSet.bit PG.rfx R.PG_IRQ_RAW 1 = true := by
  rw [State.deadmanSet, State.bit_rfxUpd, State.irq_bit _ _ _ (by decide)]

theorem State.deadmanSet_rest (s : State) : s.deadmanSet = { s with regs := s.deadmanSet.regs, rfx := { s.rfx with hbBack := false } } := rfl

theorem State.standby_rest (s : State) : s.standby = { s with regs := s.standby.regs, twin := { s.twin with demote := true } } := rfl

theorem State.deadmanStandby_rest (s : State) : s.deadmanSet.standby =
    { s with regs := s.deadmanSet.standby.regs, rfx := { s.rfx with hbBack := false }, twin := { s.twin with demote := true } } := by
  have hrest := s.deadmanSet_rest
  generalize s.deadmanSet = u at hrest ⊢
  have hstand := u.standby_rest
  generalize u.standby = v at hstand ⊢
  rw [hstand, hrest]

/-- The registers that a firing of the dead-man writes. -/
def deadmanRegs : List (Nat × Nat) := [(PG.rfx, R.RFX_STS), (PG.rfx, R.PG_IRQ_RAW), (PG.wth, R.WTH_STS), (PG.loc, R.LOC_ID)]

theorem regsKept_deadmanSet (s : State) : RegsKept s s.deadmanSet deadmanRegs :=
  regsKept_of_regs (regsKept_setReg (regsKept_setReg (regsKept_refl s deadmanRegs) (by decide) (by decide) _) (by decide) (by decide) _) rfl

theorem regsKept_standby {t : State} (h : RegsKept s t deadmanRegs) : RegsKept s t.standby deadmanRegs :=
  regsKept_of_regs (regsKept_setReg (regsKept_setReg (regsKept_setReg h (by decide) (by decide) _) (by decide) (by decide) _)
    (by decide) (by decide) _) rfl

theorem State.standby_role (s : State) : s.standby.role = 1 := by
  have hloc : ∀ (u : State) i, (u.setBit PG.loc R.LOC_ID i true).role = u.role := fun u i =>
    State.fld_setReg_ne u _ _ _ (rkey_ne (by decide) (by decide) (.inl (by decide)))
  have hset : (s.setFld PG.wth R.WTH_STS 0 2 1).role = 1 := State.fld_setFld_self s _ _ _ _ _ (by decide)
  exact (hloc _ 63).trans ((hloc _ 31).trans hset)

/-- A change of role keeps the reflex page. -/
theorem State.standby_reflexReg (s : State) {o : Nat} (ho : o < 0x10000) : s.standby.reg PG.rfx o = s.reg PG.rfx o :=
  (State.reg_setReg_ne _ _ (rkey_ne (by decide) ho (.inl (by decide)))).trans
    ((State.reg_setReg_ne _ _ (rkey_ne (by decide) ho (.inl (by decide)))).trans
      (State.reg_setReg_ne s _ (rkey_ne (by decide) ho (.inl (by decide)))))

theorem State.deadmanStandby_deadman (s : State) : s.deadmanSet.standby.deadman = true :=
  (State.bit_congr (State.standby_reflexReg _ (by decide)) 4).trans s.deadmanSet_deadman

theorem exec_deadmanFire_early (h : (s.dtc - s.rfx.hbAt).toNat < 1500) : exec .deadmanFire s = .next s := by
  rw [exec_deadmanFire, execDeadmanFire, State.deadmanFire, if_pos (by rw [decide_eq_true h]; simp), State.ends_self]

section
variable (hphase : s.pwr.phase = .active) (h : 1500 ≤ (s.dtc - s.rfx.hbAt).toNat) (hback : s.deadman = false ∨ s.rfx.hbBack = true)
include hphase h hback

theorem State.deadmanFire_fires : s.deadmanFire = if s.deadmanSet.role = 3 then s.deadmanSet.standby else s.deadmanSet := by
  have hmask : s.deadmanMasked = false := by simp [State.deadmanMasked, hphase]
  have hlate : decide ((s.dtc - s.rfx.hbAt).toNat < 1500) = false := decide_eq_false (Nat.not_lt.mpr h)
  have hset : (s.deadman && !s.rfx.hbBack) = false := by rcases hback with hb | hb <;> simp [hb]
  exact if_neg (by rw [hmask, hlate, hset]; decide)

theorem exec_deadmanFire_demotes (hrole : s.role = 3) : exec .deadmanFire s = .next s.deadmanSet.standby := by
  rw [exec_deadmanFire, execDeadmanFire, State.deadmanFire_fires hphase h hback, if_pos (s.deadmanSet_role.trans hrole)]
  exact State.ends_of (by rw [State.deadmanStandby_rest]) (by rw [State.deadmanStandby_rest])

theorem exec_deadmanFire_darkens (hrole : s.role ≠ 3) : exec .deadmanFire s = .next s.deadmanSet := by
  rw [exec_deadmanFire, execDeadmanFire, State.deadmanFire_fires hphase h hback, if_neg (s.deadmanSet_role ▸ hrole)]
  exact State.ends_of rfl rfl

end

end

/-! ### RFX_CMD (R203, R207) -/

section
variable {s : State} (hw : Writable s PG.rfx) (ini : Initiator)
include hw

theorem State.rfxWr_writable (off : Nat) (v : Word) : s.rfxWr ini off v = s.rfxWrite (.full ini off v) := State.gate_writable hw _ _

theorem State.rfxWr_cmd (v : Word) : s.rfxWr ini R.RFX_CMD v =
    let u := if bitAt v 0 then s.selftestStart else s
    if bitAt v 1 then u.rearm (.full ini R.RFX_CMD v) else u := by
  have hreg : (Wr.full ini R.RFX_CMD v).reg = R.RFX_CMD := Wr.full_reg ini _ _
  rw [State.rfxWr_writable hw, State.rfxWrite, hreg, Wr.full_val]
  exact (if_neg (by decide)).trans (if_pos rfl)

theorem exec_rearm_writable : exec (.rearm ini) s = s.ends (s.rearm (.full ini R.RFX_CMD 2)) := by
  rw [exec_rearm, execRearm, State.rfxWr_cmd hw]
  rfl

theorem exec_selftest_writable : exec (.selftest ini) s = s.ends s.selftestStart := by
  rw [exec_selftest, execSelftest, State.rfxWr_cmd hw]
  rfl

theorem exec_rearm_idle (h : s.deadman = false) : exec (.rearm ini) s = .next s := by
  rw [exec_rearm_writable hw, State.rearm, h]
  rfl

theorem exec_rearm_clears (h : s.deadman = true) (hback : s.rfx.hbBack = true) :
    exec (.rearm ini) s = .next (s.setBit PG.rfx R.RFX_STS 4 false) := by
  rw [exec_rearm_writable hw, State.rearm, h, hback]
  exact State.ends_of rfl rfl

theorem exec_rearm_early (h : s.deadman = true) (hback : s.rfx.hbBack = false) :
    exec (.rearm ini) s = .next (s.logWr PG.rfx (.full ini R.RFX_CMD 2) .state) := by
  rw [exec_rearm_writable hw, State.rearm, h, hback]
  exact ends_of_onlyRegs (onlyRegs_logWr s _ _ _)

end

/-- Settles O23: a pulse by whether the device is demoted, the dead-man by its time and the role, REARM by what DEADMAN and the pulses show. -/
theorem heartbeatDeadmanAndRearm : Obligations.HeartbeatDeadmanAndRearm := by
  refine ⟨fun s hon h => exec_coreHeartbeat_plain hon h, fun s hon h => ?_, fun s _ h => exec_deadmanFire_early h,
    fun s hphase h hback => ?_, fun ini s hw => ⟨fun h => exec_rearm_idle hw ini h, fun h hback => ?_,
    fun h hback => exec_rearm_early hw ini h hback⟩⟩
  · obtain ⟨hsts, hraw⟩ := s.beatSeen.demotionShown_bits
    refine ⟨_, exec_coreHeartbeat_demoted hon h, State.twinDrop_field State.rfx (fun _ _ _ _ => rfl) _,
      (State.twinDrop_field (fun u => u.twin.demote) (fun _ _ _ _ => rfl) _), ?_, ?_, State.twinDrop_sendq _⟩
    · exact (State.twinDrop_field (fun u => u.bit PG.wth R.WTH_STS 9) (fun _ _ _ _ => rfl) _).trans hsts
    · exact (State.twinDrop_field (fun u => u.bit PG.wth R.PG_IRQ_RAW 1) (fun _ _ _ _ => rfl) _).trans hraw
  · by_cases hrole : s.role = 3
    · exact ⟨_, exec_deadmanFire_demotes hphase h hback hrole, s.deadmanStandby_deadman,
        (State.bit_congr (State.standby_reflexReg _ (by decide)) 1).trans s.deadmanSet_raw, by rw [State.deadmanStandby_rest],
        State.outDark_deadman s.deadmanStandby_deadman, fun _ => ⟨State.standby_role _, by rw [State.deadmanStandby_rest]⟩,
        fun hne => absurd hrole hne, by rw [State.deadmanStandby_rest], regsKept_standby (regsKept_deadmanSet s)⟩
    · exact ⟨_, exec_deadmanFire_darkens hphase h hback hrole, s.deadmanSet_deadman, s.deadmanSet_raw, rfl,
        State.outDark_deadman s.deadmanSet_deadman, fun h3 => absurd h3 hrole, fun _ => ⟨s.deadmanSet_role, rfl⟩, rfl, regsKept_deadmanSet s⟩
  · exact ⟨_, exec_rearm_clears hw ini h hback, State.bit_setBit_self _ _ _ _ _ (by decide), rfl,
      pageKept_setReg (pageKept_refl s _ _) (by decide) List.mem_cons_self _⟩

end Sys2Proof.Machine
end

section
/-!
PROOFS. Writes of a rule's control word (R176, R182, R184).
-/

namespace Sys2Proof.Machine

/-! ### The control word of a rule -/

theorem Wr.full_RULE_CTL (ini : Initiator) (r : Nat) (v : Word) : (Wr.full ini (R.RULE_CTL r) v).reg = R.RULE_CTL r := by
  rw [Wr.full_reg, R.RULE_CTL]
  omega

theorem RULE_STS_ne_CTL (q r : Nat) : R.RULE_STS q ≠ R.RULE_CTL r := by
  unfold R.RULE_STS R.RULE_CTL
  omega

theorem RULE_CTL_ne_low {o : Nat} (h : o < 0x1000) (r : Nat) : R.RULE_CTL r ≠ o := by
  unfold R.RULE_CTL
  omega

theorem RULE_STS_ne_low {o : Nat} (h : o < 0x1000) (r : Nat) : R.RULE_STS r ≠ o := by
  unfold R.RULE_STS
  omega

/-- A check that asks for its bit asks for none else. -/
theorem eq_of_mem_ite {c : Prop} [Decidable c] {b n : Nat} (h : b ∈ if c then [n] else []) : b = n := by
  split at h
  · exact List.mem_singleton.mp h
  · exact absurd h List.not_mem_nil

theorem State.ruleChecks_lt (s : State) (r : Nat) (c : Word) : ∀ b ∈ s.ruleChecks r c, b < 64 := by
  intro b hb
  unfold State.ruleChecks at hb
  simp only [List.mem_append] at hb
  rcases hb with ((((((h | h) | h) | h) | h) | h) | h) | h <;> (rw [eq_of_mem_ite h]; decide)

section
variable {s : State} {r : Nat} {w : Wr}

theorem State.rfxWrite_ruleCtl (hr : r < 256) (hreg : w.reg = R.RULE_CTL r) : s.rfxWrite w = s.ruleWrite r 0 w := by
  have hrule : (R.RULE_CTL r - 0x1000) / 0x80 = r := by unfold R.RULE_CTL; omega
  have hword : (R.RULE_CTL r - 0x1000) % 0x80 = 0 := by unfold R.RULE_CTL; omega
  unfold State.rfxWrite
  dsimp only
  rw [hreg, if_pos (Nat.le_add_right _ _), hrule, hword, if_neg (Nat.not_le.mpr hr)]

/-- R176: an enabled rule that the write leaves enabled keeps its words. -/
theorem State.ruleWrite_keeps (hold : bitAt (s.reg PG.rfx (R.RULE_CTL r)) 0 = true) (hnew : bitAt (s.wouldBe PG.rfx w) 0 = true) :
    s.ruleWrite r 0 w = s.logWr PG.rfx w .state :=
  if_pos ⟨by decide, hold, .inr hnew⟩

theorem State.ruleWrite_stores (h : bitAt (s.reg PG.rfx (R.RULE_CTL r)) 0 = false ∨ bitAt (s.wouldBe PG.rfx w) 0 = false) :
    s.ruleWrite r 0 w = (s.eccWritten (16 * r)).ruleCtlWrite r w := by
  refine if_neg fun ⟨_, hold, hnew⟩ => ?_
  have hkept := hnew.resolve_left (not_not_intro rfl)
  rcases h with h | h
  · exact absurd (h.symm.trans hold) (by decide)
  · exact absurd (h.symm.trans hkept) (by decide)

/-- R184: the rule stored with its inputs and its packet dropped. -/
def State.ruleStopped (s : State) (r : Nat) (c : Word) : State :=
  ((s.setReg PG.rfx (R.RULE_CTL r) c).ruleUpd r fun x => { x with ring := [], shadow := none }).setBit PG.rfx (R.RULE_STS r) 2 false

theorem State.ruleCtlWrite_disables (hold : bitAt (s.reg PG.rfx (R.RULE_CTL r)) 0 = true) :
    s.ruleCtlWrite r w = s.ruleStopped r (s.wouldBe PG.rfx w) :=
  if_pos hold

/-- R176: the bits of failing checks set, and the write shows in RAW. -/
def State.ruleFailed (s : State) (r : Nat) (l : List Nat) : State :=
  (l.foldl (fun s b => s.setBit PG.rfx (R.RULE_STS r) b true) s).irq PG.rfx 6

section
variable (hold : bitAt (s.reg PG.rfx (R.RULE_CTL r)) 0 = false) (hnew : bitAt (s.wouldBe PG.rfx w) 0 = true)
include hold hnew

theorem State.ruleCtlWrite_enables (hpass : s.ruleChecks r (s.wouldBe PG.rfx w) = []) :
    s.ruleCtlWrite r w = s.setReg PG.rfx (R.RULE_CTL r) (s.wouldBe PG.rfx w) := by
  unfold State.ruleCtlWrite
  dsimp only
  rw [hold, hnew, if_neg (by decide), if_pos rfl, hpass]

theorem State.ruleCtlWrite_fails (hfail : s.ruleChecks r (s.wouldBe PG.rfx w) ≠ []) : s.ruleCtlWrite r w =
    (s.setReg PG.rfx (R.RULE_CTL r) (putBit (s.wouldBe PG.rfx w) 0 false)).ruleFailed r (s.ruleChecks r (s.wouldBe PG.rfx w)) := by
  unfold State.ruleCtlWrite
  dsimp only
  rw [hold, hnew, if_neg (by decide), if_pos rfl]
  split
  · next hnone => exact absurd hnone hfail
  · rfl

end

/-! ### What is stored -/

/-- The registers that a refused enable writes. -/
def ruleFailRegs (r : Nat) : List Nat := [R.RULE_CTL r, R.RULE_STS r, R.PG_IRQ_RAW]

theorem onlyRegs_ruleFailed {t : State} (h : OnlyRegs s t) (r : Nat) (l : List Nat) : OnlyRegs s (t.ruleFailed r l) :=
  onlyRegs_setReg (foldl_keeps (OnlyRegs s) _ (fun _ _ hu => onlyRegs_setReg hu _ _ _) l t h) _ _ _

theorem pageKept_ruleFailed {t : State} (hr : r < 256) (h : PageKept s t PG.rfx (ruleFailRegs r)) (l : List Nat) :
    PageKept s (t.ruleFailed r l) PG.rfx (ruleFailRegs r) :=
  pageKept_setReg (foldl_keeps (PageKept s · PG.rfx (ruleFailRegs r)) _
    (fun _ _ hu => pageKept_setReg hu (RULE_STS_lt hr) (by simp [ruleFailRegs]) _) l t h) (by decide) (by simp [ruleFailRegs]) _

/-- The bits of failing checks leave the control word. -/
theorem State.ruleFailed_ctl (s : State) (r : Nat) (l : List Nat) :
    (s.ruleFailed r l).reg PG.rfx (R.RULE_CTL r) = s.reg PG.rfx (R.RULE_CTL r) := by
  rw [State.ruleFailed, State.irq, State.reg_setBit_off _ (RULE_CTL_ne_low (by decide) r)]
  exact foldl_keeps (fun u : State => u.reg PG.rfx (R.RULE_CTL r) = s.reg PG.rfx (R.RULE_CTL r)) _
    (fun _ _ hu => (State.reg_setBit_off _ (RULE_STS_ne_CTL r r).symm).trans hu) l s rfl

theorem State.ruleFailed_sts (s : State) {r : Nat} {l : List Nat} (hl : ∀ b ∈ l, b < 64) {b : Nat} (hb : b ∈ l) :
    (s.ruleFailed r l).bit PG.rfx (R.RULE_STS r) b = true := by
  rw [State.ruleFailed, State.irq, State.bit_congr (State.reg_setBit_off _ (RULE_STS_ne_low (by decide) r))]
  exact State.bit_foldl_setBit s _ _ hl (.inl hb)

theorem State.ruleStopped_ctl (s : State) (r : Nat) (c : Word) : (s.ruleStopped r c).reg PG.rfx (R.RULE_CTL r) = c := by
  rw [State.ruleStopped, State.reg_setBit_off _ (RULE_STS_ne_CTL r r).symm, State.reg_ruleUpd, State.reg_setReg_self]

theorem State.ruleStopped_rule (s : State) (r : Nat) (c : Word) :
    (s.ruleStopped r c).ruleRt r = { s.ruleRt r with ring := [], shadow := none } := by
  rw [State.ruleStopped, State.ruleRt_setBit, State.ruleRt_ruleUpd, State.ruleRt_setReg]

theorem State.ruleStopped_others (s : State) {r q : Nat} (h : q ≠ r) (c : Word) : (s.ruleStopped r c).ruleRt q = s.ruleRt q := by
  rw [State.ruleStopped, State.ruleRt_setBit, State.ruleRt_ruleUpd_ne _ h, State.ruleRt_setReg]

theorem onlyReflex_ruleStopped (hr : r < 256) (c : Word) : OnlyReflex s (s.ruleStopped r c) [R.RULE_CTL r, R.RULE_STS r] :=
  onlyReflex_setReg (onlyReflex_rfxUpd (onlyReflex_setReg (onlyReflex_refl s _) (RULE_CTL_lt hr) (by simp) c) _) (RULE_STS_lt hr) (by simp) _

end

/-! ### The commands -/

section
variable {s : State} {ini : Initiator} {r : Fin 256} {v : Word} (hw : Writable s PG.rfx)
include hw

theorem State.rfxWr_ruleCtl (ini : Initiator) (r : Fin 256) (v : Word) :
    s.rfxWr ini (R.RULE_CTL r) v = s.ruleWrite r 0 (.full ini (R.RULE_CTL r) v) :=
  (State.rfxWr_writable hw ini _ v).trans (State.rfxWrite_ruleCtl r.isLt (Wr.full_RULE_CTL ini r v))

theorem exec_ruleEnable_keeps (hold : bitAt (s.reg PG.rfx (R.RULE_CTL r)) 0 = true)
    (hnew : bitAt (s.wouldBe PG.rfx (.full ini (R.RULE_CTL r) v)) 0 = true) :
    exec (.ruleEnable ini r v) s = .next (s.logWr PG.rfx (.full ini (R.RULE_CTL r) v) .state) := by
  rw [exec_ruleEnable, execRuleEnable, State.rfxWr_ruleCtl hw, State.ruleWrite_keeps hold hnew]
  exact ends_of_onlyRegs (onlyRegs_logWr s _ _ _)

theorem exec_ruleDisable_stops (hold : bitAt (s.reg PG.rfx (R.RULE_CTL r)) 0 = true)
    (hnew : bitAt (s.wouldBe PG.rfx (.full ini (R.RULE_CTL r) v)) 0 = false) : exec (.ruleDisable ini r v) s =
      .next ((s.eccWritten (16 * r)).ruleStopped r (s.wouldBe PG.rfx (.full ini (R.RULE_CTL r) v))) := by
  rw [exec_ruleDisable, execRuleDisable, State.rfxWr_ruleCtl hw, State.ruleWrite_stores (.inr hnew)]
  exact (congrArg s.ends (State.ruleCtlWrite_disables (s := s.eccWritten (16 * r)) hold)).trans (State.ends_of rfl rfl)

section
variable (hold : bitAt (s.reg PG.rfx (R.RULE_CTL r)) 0 = false)
  (hnew : bitAt (s.wouldBe PG.rfx (.full ini (R.RULE_CTL r) v)) 0 = true)
include hold hnew

theorem exec_ruleEnable_passes (hpass : s.ruleChecks r (s.wouldBe PG.rfx (.full ini (R.RULE_CTL r) v)) = []) :
    exec (.ruleEnable ini r v) s =
      .next ((s.eccWritten (16 * r)).setReg PG.rfx (R.RULE_CTL r) (s.wouldBe PG.rfx (.full ini (R.RULE_CTL r) v))) := by
  rw [exec_ruleEnable, execRuleEnable, State.rfxWr_ruleCtl hw, State.ruleWrite_stores (.inl hold)]
  exact (congrArg s.ends (State.ruleCtlWrite_enables (s := s.eccWritten (16 * r)) hold hnew hpass)).trans (State.ends_of rfl rfl)

theorem exec_ruleEnable_fails (hfail : s.ruleChecks r (s.wouldBe PG.rfx (.full ini (R.RULE_CTL r) v)) ≠ []) :
    exec (.ruleEnable ini r v) s = .next (((s.eccWritten (16 * r)).setReg PG.rfx (R.RULE_CTL r)
      (putBit (s.wouldBe PG.rfx (.full ini (R.RULE_CTL r) v)) 0 false)).ruleFailed r
      (s.ruleChecks r (s.wouldBe PG.rfx (.full ini (R.RULE_CTL r) v)))) := by
  have honly := onlyRegs_ruleFailed (onlyRegs_setReg (onlyRegs_refl (s.eccWritten (16 * r))) PG.rfx (R.RULE_CTL r)
    (putBit (s.wouldBe PG.rfx (.full ini (R.RULE_CTL r) v)) 0 false)) r (s.ruleChecks r (s.wouldBe PG.rfx (.full ini (R.RULE_CTL r) v)))
  rw [exec_ruleEnable, execRuleEnable, State.rfxWr_ruleCtl hw, State.ruleWrite_stores (.inl hold)]
  exact (congrArg s.ends (State.ruleCtlWrite_fails (s := s.eccWritten (16 * r)) hold hnew hfail)).trans
    (State.ends_of (onlyRegs_read honly State.part fun _ _ => rfl) (onlyRegs_read honly State.pending fun _ _ => rfl))

end

end

/-- Settles O19: the write by whether the rule is enabled before and after it, and an enable by its checks. -/
theorem reflexRuleEnableAndDisable : Obligations.ReflexRuleEnableAndDisable := by
  intro ini r v s hw g w old c copies
  refine ⟨fun hold hnew hpass => exec_ruleEnable_passes hw hold hnew hpass, fun hold hnew hfail => ?_,
    fun hold hnew => exec_ruleEnable_keeps hw hold hnew, fun hold hnew => ?_⟩
  · have honly := onlyRegs_ruleFailed (onlyRegs_setReg (onlyRegs_refl (s.eccWritten (16 * r))) PG.rfx g (putBit c 0 false)) r (s.ruleChecks r c)
    refine ⟨_, exec_ruleEnable_fails hw hold hnew hfail, ?_, fun b hb => State.ruleFailed_sts _ (s.ruleChecks_lt r c) hb,
      State.irq_bit _ _ _ (by decide), honly, ?_⟩
    · rw [State.bit_congr (State.ruleFailed_ctl _ _ _), State.bit, State.reg_setReg_self, bitAt_putBit_self _ _ _ (by decide)]
    · exact pageKept_ruleFailed r.isLt (pageKept_setReg (pageKept_refl _ _ _) (RULE_CTL_lt r.isLt) List.mem_cons_self _) _
  · obtain ⟨hrest, hkept⟩ := onlyReflex_ruleStopped (s := s.eccWritten (16 * r)) r.isLt c
    refine ⟨_, exec_ruleDisable_stops hw hold hnew, State.ruleStopped_ctl _ _ _, ?_, ?_, State.bit_setBit_self _ _ _ _ _ (by decide),
      fun q hq => State.ruleStopped_others _ hq c, hrest, hkept⟩
    · rw [State.ruleStopped_rule]
    · rw [State.ruleStopped_rule]

end Sys2Proof.Machine
end

section
/-!
PROOFS. The integrity of the reflex path (R202, R205 to R207): self-test, voter, lane copy, walker and output faults.
-/

namespace Sys2Proof.Machine

/-! ### Self-test (R207) -/

section
variable {s : State}

theorem State.selftestStart_idle (h : s.bit PG.rfx R.RFX_STS 8 = false) : s.selftestStart = s.setBit PG.rfx R.RFX_STS 8 true :=
  if_neg (by rw [h]; decide)

theorem State.selftestStart_runs (h : s.bit PG.rfx R.RFX_STS 8 = true) : s.selftestStart = s := if_pos h

theorem exec_selftest_idle (hw : Writable s PG.rfx) (ini : Initiator) (h : s.bit PG.rfx R.RFX_STS 8 = false) :
    exec (.selftest ini) s = .next (s.setBit PG.rfx R.RFX_STS 8 true) := by
  rw [exec_selftest_writable hw, State.selftestStart_idle h]
  exact ends_of_onlyRegs (onlyRegs_setReg (onlyRegs_refl s) _ _ _)

theorem exec_selftest_runs (hw : Writable s PG.rfx) (ini : Initiator) (h : s.bit PG.rfx R.RFX_STS 8 = true) :
    exec (.selftest ini) s = .next s := by
  rw [exec_selftest_writable hw, State.selftestStart_runs h, State.ends_self]

/-- R207: the self-test has ended, and a failure shows. -/
def State.selftestEnded (s : State) (fail : Bool) : State :=
  if fail then ((s.setBit PG.rfx R.RFX_STS 8 false).setBit PG.rfx R.RFX_STS 9 true).irq PG.rfx 4 else s.setBit PG.rfx R.RFX_STS 8 false

theorem State.selftestEnded_running (s : State) (fail : Bool) : (s.selftestEnded fail).bit PG.rfx R.RFX_STS 8 = false := by
  cases fail with
  | false => exact State.bit_setBit_self s _ _ _ _ (by decide)
  | true =>
    rw [State.selftestEnded, if_pos rfl, State.irq, State.bit_congr (State.reg_setBit_off _ (by decide)), State.bit_setBit_ne _ (by decide),
      State.bit_setBit_self _ _ _ _ _ (by decide)]

theorem State.selftestEnded_fail (s : State) (fail : Bool) :
    (s.selftestEnded fail).bit PG.rfx R.RFX_STS 9 = (fail || s.bit PG.rfx R.RFX_STS 9) := by
  cases fail with
  | false => exact State.bit_setBit_ne s (by decide)
  | true =>
    rw [State.selftestEnded, if_pos rfl, State.irq, State.bit_congr (State.reg_setBit_off _ (by decide)),
      State.bit_setBit_self _ _ _ _ _ (by decide), Bool.true_or]

theorem State.selftestEnded_raw (s : State) (fail : Bool) :
    (s.selftestEnded fail).bit PG.rfx R.PG_IRQ_RAW 4 = (fail || s.bit PG.rfx R.PG_IRQ_RAW 4) := by
  cases fail with
  | false => exact State.bit_congr (State.reg_setBit_off _ (by decide)) 4
  | true => rw [State.selftestEnded, if_pos rfl, State.irq_bit _ _ _ (by decide), Bool.true_or]

theorem onlyReflex_selftestEnded (s : State) (fail : Bool) : OnlyReflex s (s.selftestEnded fail) [R.RFX_STS, R.PG_IRQ_RAW] := by
  have hset := onlyReflex_setReg (onlyReflex_refl s [R.RFX_STS, R.PG_IRQ_RAW]) (o := R.RFX_STS) (by decide) (by decide)
  exact onlyReflex_ite (onlyReflex_setReg (onlyReflex_setReg (hset _) (by decide) (by decide) _) (by decide) (by decide) _) (hset _) _

theorem onlyRegs_selftestEnded (s : State) (fail : Bool) : OnlyRegs s (s.selftestEnded fail) := by
  cases fail <;> rfl

theorem exec_selftestDone_ends (hon : s.isOff PG.rfx = false) (fail : Bool) (h : s.bit PG.rfx R.RFX_STS 8 = true) :
    exec (.selftestDone fail) s = .next (s.selftestEnded fail) := by
  rw [exec_selftestDone, execSelftestDone, State.ifOn_powered hon, if_neg (by rw [h]; decide)]
  exact (onlyReflex_selftestEnded s fail).ends

/-! ### The voter (R205) -/

/-- The registers that the voter and the walker write. -/
def laneRegs : List Nat := R.RFX_TMR_CNT :: recRegs

theorem onlyReflex_laneRec {t : State} (h : OnlyReflex s t laneRegs) (r : ReflexRec) : OnlyReflex s (t.reflexRec r) laneRegs :=
  h.trans ((onlyReflex_reflexRec t r).mono (List.subset_cons_self _ _))

theorem onlyReflex_laneSet {t : State} (h : OnlyReflex s t laneRegs) {o : Nat} (hl : o ∈ laneRegs) (v : Word) :
    OnlyReflex s (t.setReg PG.rfx o v) laneRegs :=
  onlyReflex_setReg h ((by decide : ∀ o ∈ laneRegs, o < 0x10000) o hl) hl v

/-- R205: when the lane was masked in the last second. -/
def State.recentMasks (s : State) (l : Fin 3) : List Word := (s.rfx.maskedAt.get l).filter fun t => decide ((s.dtc - t).toNat < 1000000000)

/-- R205: the lane masked, counted and reported. -/
def State.laneShown (s : State) (l : Fin 3) : State :=
  ((s.bump PG.rfx R.RFX_TMR_CNT 0 16).setBit PG.rfx R.RFX_STS l.val true).reflexRec { kind := 7, cause := 10, lane := l.val }

/-- R205: and its time noted. -/
def State.laneMasked (s : State) (l : Fin 3) : State :=
  (s.laneShown l).rfxUpd fun x => { x with maskedAt := x.maskedAt.set l (s.dtc :: s.recentMasks l) }

/-- R205: the third time within 1 s the lane stays masked. -/
def State.laneStuck (s : State) (l : Fin 3) : State :=
  ((s.rfxUpd fun x => { x with stuck := x.stuck ++ [l] }).setBit PG.rfx R.RFX_STS 3 true).irq PG.rfx 0

theorem State.laneShown_recent (s : State) (l : Fin 3) : (s.laneShown l).recentMasks l = s.recentMasks l := by
  rw [State.recentMasks, State.laneShown, State.reflexRec_field RfxState.maskedAt (fun _ _ => rfl), State.reflexRec_dtc]
  rfl

theorem State.laneMask_in {l : Fin 3} (h : s.laneOut l = false) : s.laneMask l =
    if 2 ≤ (s.recentMasks l).length then (s.laneMasked l).laneStuck l else (s.laneMasked l).rfxUpd fun x => { x with resync := some l } := by
  have hdtc : (s.laneShown l).dtc = s.dtc := State.reflexRec_dtc _ _
  rw [State.laneMasked, ← hdtc, ← State.laneShown_recent]
  exact if_neg (by rw [h]; decide)

theorem onlyReflex_laneMasked (s : State) (l : Fin 3) : OnlyReflex s (s.laneMasked l) laneRegs :=
  onlyReflex_rfxUpd (onlyReflex_laneRec (onlyReflex_laneSet (onlyReflex_laneSet (onlyReflex_refl s _) (by decide) _) (by decide) _) _) _

theorem onlyReflex_laneStuck {t : State} (h : OnlyReflex s t laneRegs) (l : Fin 3) : OnlyReflex s (t.laneStuck l) laneRegs :=
  onlyReflex_laneSet (onlyReflex_laneSet (onlyReflex_rfxUpd h _) (by decide) _) (by decide) _

/-- A record leaves the counters of the lanes. -/
theorem State.reflexRec_tmrCnt (s : State) (r : ReflexRec) : (s.reflexRec r).reg PG.rfx R.RFX_TMR_CNT = s.reg PG.rfx R.RFX_TMR_CNT :=
  (onlyReflex_reflexRec s r).reg (by decide) (by decide)

theorem State.laneMasked_out (s : State) (l : Fin 3) : (s.laneMasked l).laneOut l = true := by
  have hl : l.val < 64 := Nat.lt_trans l.isLt (by decide)
  rw [State.laneOut, State.laneMasked, State.bit_rfxUpd, State.laneShown, State.bit_reflexRec _ _ (by omega), State.bit_setBit_self _ _ _ _ _ hl]

theorem State.laneMasked_counted (s : State) (l : Fin 3) : Counted s (s.laneMasked l) PG.rfx R.RFX_TMR_CNT 0 16 1 :=
  counted_of_reg (counted_bump rfl (by decide)) ((State.reflexRec_tmrCnt _ _).trans (State.reg_setBit_off _ (by decide)))

theorem State.laneMasked_at (s : State) (l : Fin 3) : (s.laneMasked l).rfx.maskedAt.get l = s.dtc :: s.recentMasks l :=
  Vector.getElem_set_self ..

theorem State.laneMasked_resync (s : State) (l : Fin 3) : (s.laneMasked l).rfx.resync = s.rfx.resync :=
  State.reflexRec_field RfxState.resync (fun _ _ => rfl) _ _

theorem State.laneStuck_sts (s : State) (l : Fin 3) : (s.laneStuck l).bit PG.rfx R.RFX_STS 3 = true := by
  rw [State.laneStuck, State.irq, State.bit_congr (State.reg_setBit_off _ (by decide)), State.bit_setBit_self _ _ _ _ _ (by decide)]

theorem State.laneStuck_laneOut (s : State) (l : Fin 3) : (s.laneStuck l).laneOut l = s.laneOut l := by
  rw [State.laneOut, State.laneStuck, State.irq, State.bit_congr (State.reg_setBit_off _ (by decide)), State.bit_setBit_ne _ (by omega),
    State.bit_rfxUpd, State.laneOut]

theorem State.laneStuck_tmrCnt (s : State) (l : Fin 3) : (s.laneStuck l).reg PG.rfx R.RFX_TMR_CNT = s.reg PG.rfx R.RFX_TMR_CNT := by
  rw [State.laneStuck, State.irq, State.reg_setBit_off _ (by decide), State.reg_setBit_off _ (by decide), State.reg_rfxUpd]

theorem exec_voterSignatureCheck_agrees (hon : s.isOff PG.rfx = false) : exec (.voterSignatureCheck none) s = .next s := by
  rw [exec_voterSignatureCheck, execVoterSignatureCheck, State.ifOn_powered hon]
  exact State.ends_self s

theorem exec_voterSignatureCheck_masks (hon : s.isOff PG.rfx = false) (l : Fin 3) (h : s.lanesOut = 0) :
    exec (.voterSignatureCheck (some l)) s = .next (if 2 ≤ (s.recentMasks l).length then (s.laneMasked l).laneStuck l
      else (s.laneMasked l).rfxUpd fun x => { x with resync := some l }) := by
  have hin : s.laneOut l = false := by
    rw [State.laneOut, ← Nat.zero_add l.val]
    exact State.bit_of_fld_zero h l.isLt
  have hnone : popCount 3 s.lanesOut = 0 := by rw [h]; decide
  rw [exec_voterSignatureCheck, execVoterSignatureCheck, State.ifOn_powered hon, State.voterCheck, hnone]
  refine (congrArg s.ends (State.laneMask_in hin)).trans ?_
  exact (onlyReflex_ite (onlyReflex_laneStuck (onlyReflex_laneMasked s l) l) (onlyReflex_rfxUpd (onlyReflex_laneMasked s l) _) _).ends

/-- R205: what masking a lane leaves, by how often it was masked in the last second. -/
theorem exec_voterSignatureCheck_masked (hon : s.isOff PG.rfx = false) (l : Fin 3) (h : s.lanesOut = 0) :
    ∃ t, exec (.voterSignatureCheck (some l)) s = .next t ∧ t.laneOut l = true ∧ Counted s t PG.rfx R.RFX_TMR_CNT 0 16 1 ∧
      t.rfx.maskedAt.get l = s.dtc :: s.recentMasks l ∧ ((s.recentMasks l).length < 2 → t.rfx.resync = some l) ∧
      (2 ≤ (s.recentMasks l).length → t.bit PG.rfx R.RFX_STS 3 = true ∧ l ∈ t.rfx.stuck ∧ t.rfx.resync = s.rfx.resync) ∧
      t = { s with regs := t.regs, rfx := t.rfx } := by
  have hmasked := onlyReflex_laneMasked s l
  refine ⟨_, exec_voterSignatureCheck_masks hon l h, ?_⟩
  by_cases hthird : 2 ≤ (s.recentMasks l).length
  · rw [if_pos hthird]
    exact ⟨(State.laneStuck_laneOut _ l).trans (s.laneMasked_out l), counted_of_reg (s.laneMasked_counted l) (State.laneStuck_tmrCnt _ l),
      s.laneMasked_at l, fun hfew => absurd hthird (Nat.not_le.mpr hfew),
      fun _ => ⟨State.laneStuck_sts _ l, List.mem_append_right _ List.mem_cons_self, s.laneMasked_resync l⟩, (onlyReflex_laneStuck hmasked l).rest⟩
  · rw [if_neg hthird]
    exact ⟨s.laneMasked_out l, s.laneMasked_counted l, s.laneMasked_at l, fun _ => rfl, fun hmany => absurd hmany hthird,
      (onlyReflex_rfxUpd hmasked _).rest⟩

theorem exec_voterSignatureCheck_counts (hon : s.isOff PG.rfx = false) (l : Fin 3) (h : popCount 3 s.lanesOut = 1) :
    exec (.voterSignatureCheck (some l)) s = .next (s.bump PG.rfx R.RFX_TMR_CNT 0 16) := by
  rw [exec_voterSignatureCheck, execVoterSignatureCheck, State.ifOn_powered hon, State.voterCheck, h]
  exact ends_of_onlyRegs (onlyRegs_setReg (onlyRegs_refl s) _ _ _)

/-! ### The copy of a lane (R205) -/

/-- R205: the lane counted and in again. -/
def State.laneRejoined (s : State) (l : Fin 3) : State :=
  (((s.rfxUpd fun x => { x with resync := none, eccBad := x.eccBad.filter fun b => b.1 != l }).bump PG.rfx R.RFX_TMR_CNT 16 16).setBit
    PG.rfx R.RFX_STS l.val false).reflexRec { kind := 7, cause := 10, lane := l.val }

theorem onlyReflex_laneRejoined (s : State) (l : Fin 3) : OnlyReflex s (s.laneRejoined l) laneRegs :=
  onlyReflex_laneRec (onlyReflex_laneSet (onlyReflex_laneSet (onlyReflex_rfxUpd (onlyReflex_refl s _) _) (by decide) _) (by decide) _) _

theorem State.laneRejoined_in (s : State) (l : Fin 3) : (s.laneRejoined l).laneOut l = false := by
  have hl : l.val < 64 := Nat.lt_trans l.isLt (by decide)
  rw [State.laneOut, State.laneRejoined, State.bit_reflexRec _ _ (by omega), State.bit_setBit_self _ _ _ _ _ hl]

theorem State.laneRejoined_resync (s : State) (l : Fin 3) : (s.laneRejoined l).rfx.resync = none :=
  State.reflexRec_field RfxState.resync (fun _ _ => rfl) _ _

theorem State.laneRejoined_counted (s : State) (l : Fin 3) : Counted s (s.laneRejoined l) PG.rfx R.RFX_TMR_CNT 16 16 1 :=
  counted_of_reg (counted_bump (State.reg_rfxUpd s _ _ _) (by decide)) ((State.reflexRec_tmrCnt _ _).trans (State.reg_setBit_off _ (by decide)))

theorem exec_laneResyncDone_rejoins (hon : s.isOff PG.rfx = false) {l : Fin 3} (h : s.rfx.resync = some l) :
    exec .laneResyncDone s = .next (s.laneRejoined l) := by
  rw [exec_laneResyncDone, execLaneResyncDone, State.ifOn_powered hon, State.laneResync, h]
  exact (onlyReflex_laneRejoined s l).ends

/-! ### The walker (R206) -/

/-- R206: an uncorrectable word is met. -/
def State.eccMet (s : State) (b : Fin 3 × Nat) : State := s.rfxUpd fun x => { x with eccBad := [b] }

/-- R206: a word rewritten, counted and reported. -/
def State.eccMended (s : State) (b : Fin 3 × Nat) : State :=
  ((s.rfxUpd fun x => { x with eccBad := x.eccBad.erase b }).bump PG.rfx R.RFX_TMR_CNT 48 16).reflexRec { kind := 7, cause := 11, lane := b.1.val }

theorem State.eccMet_agree (b : Fin 3 × Nat) : (s.eccMet b).eccAgree b = true ↔ ∀ q, q ≠ b.1 → s.laneOut q = false := by
  have hbad : ∀ q, q ≠ b.1 → (q, b.2) ∉ (s.eccMet b).rfx.eccBad := fun q hq hm => hq (congrArg Prod.fst (List.mem_singleton.mp hm))
  have hlane : ∀ q, (s.eccMet b).laneOut q = s.laneOut q := fun _ => rfl
  rw [State.eccAgree, List.all_eq_true]
  refine forall_congr' fun q => ?_
  by_cases hq : q = b.1
  · simp [hq]
  · simp [hq, hbad q hq, hlane]

theorem State.eccMet_contains (s : State) (b : Fin 3 × Nat) : (s.eccMet b).rfx.eccBad.contains b = true :=
  List.contains_iff_mem.mpr List.mem_cons_self

theorem State.eccRewrite_met_mends {b : Fin 3 × Nat} (h : ∀ q, q ≠ b.1 → s.laneOut q = false) :
    (s.eccMet b).eccRewrite b = (s.eccMet b).eccMended b :=
  if_pos (by rw [State.eccMet_contains, (State.eccMet_agree b).mpr h]; rfl)

theorem State.eccRewrite_met_stands {b : Fin 3 × Nat} {q : Fin 3} (hq : q ≠ b.1) (h : s.laneOut q = true) :
    (s.eccMet b).eccRewrite b = s.eccMet b := by
  refine if_neg fun hand => ?_
  have hagree := (State.eccMet_agree b).mp (Bool.and_eq_true_iff.mp hand).2 q hq
  exact absurd (h.symm.trans hagree) (by decide)

theorem onlyReflex_eccMended (s : State) (b : Fin 3 × Nat) : OnlyReflex s ((s.eccMet b).eccMended b) laneRegs :=
  onlyReflex_laneRec (onlyReflex_laneSet (onlyReflex_rfxUpd (onlyReflex_rfxUpd (onlyReflex_refl s _) _) _) (by decide) _) _

theorem State.eccMended_bad (s : State) (b : Fin 3 × Nat) : ((s.eccMet b).eccMended b).rfx.eccBad = [] :=
  (State.reflexRec_eccBad _ _).trans (List.erase_cons_head ..)

theorem State.eccMended_counted (s : State) (b : Fin 3 × Nat) : Counted s ((s.eccMet b).eccMended b) PG.rfx R.RFX_TMR_CNT 48 16 1 :=
  counted_of_reg (counted_bump ((State.reg_rfxUpd _ _ _ _).trans (State.reg_rfxUpd s _ _ _)) (by decide)) (State.reflexRec_tmrCnt _ _)

section
variable (hon : s.isOff PG.rfx = false) (hbad : s.rfx.eccBad = [])
include hbad

/-- With no word standing the walker rewrites what it meets, or nothing. -/
theorem State.eccWalk_meets (l : Fin 3) (k : Fin 20480) :
    s.eccWalk (some (l, k)) true = (s.eccMet (l, k.val)).eccRewrite (l, k.val) := by
  unfold State.eccWalk
  dsimp only
  rw [if_neg (by decide)]
  have hmet : (s.rfxUpd fun x => { x with eccBad := if x.eccBad.contains (l, k.val) then x.eccBad else x.eccBad ++ [(l, k.val)] }) =
      s.eccMet (l, k.val) := by
    rw [State.eccMet, State.rfxUpd, State.rfxUpd, hbad]
    rfl
  rw [hmet]
  rfl

include hon

theorem exec_eccWalk_clean (u : Bool) : exec (.eccWalk none u) s = .next s := by
  rw [exec_eccWalk, execEccWalk, State.ifOn_powered hon, State.eccWalk]
  rw [hbad]
  exact State.ends_self s

theorem exec_eccWalk_corrects (l : Fin 3) (k : Fin 20480) :
    exec (.eccWalk (some (l, k)) false) s = .next (s.bump PG.rfx R.RFX_TMR_CNT 32 16) := by
  have hnone : (s.bump PG.rfx R.RFX_TMR_CNT 32 16).rfx.eccBad = [] := hbad
  rw [exec_eccWalk, execEccWalk, State.ifOn_powered hon, State.eccWalk, Bool.not_false, if_pos rfl, hnone]
  exact ends_of_onlyRegs (onlyRegs_setReg (onlyRegs_refl s) _ _ _)

theorem exec_eccWalk_mends (l : Fin 3) (k : Fin 20480) (h : ∀ q, q ≠ l → s.laneOut q = false) :
    exec (.eccWalk (some (l, k)) true) s = .next ((s.eccMet (l, k.val)).eccMended (l, k.val)) := by
  rw [exec_eccWalk, execEccWalk, State.ifOn_powered hon, State.eccWalk_meets hbad, State.eccRewrite_met_mends h]
  exact (onlyReflex_eccMended s _).ends

theorem exec_eccWalk_stands {l q : Fin 3} (k : Fin 20480) (hq : q ≠ l) (h : s.laneOut q = true) :
    exec (.eccWalk (some (l, k)) true) s = .next (s.eccMet (l, k.val)) := by
  rw [exec_eccWalk, execEccWalk, State.ifOn_powered hon, State.eccWalk_meets hbad, State.eccRewrite_met_stands hq h]
  exact State.ends_of rfl rfl

end

/-! ### Output faults (R202) -/

/-- The registers that an output fault writes. -/
def faultRegs : List Nat := [R.RFX_OUT_FAULT, R.PG_IRQ_RAW]

theorem RFX_OUT_CFG_notMem_fault (o : Nat) : R.RFX_OUT_CFG o ∉ faultRegs := by
  simp only [faultRegs, R.RFX_OUT_CFG, R.RFX_OUT_FAULT, R.PG_IRQ_RAW, List.mem_cons, List.not_mem_nil, or_false]
  omega

theorem onlyReflex_outFault (s : State) (o : Fin 32) : OnlyReflex s (s.outFault o) faultRegs :=
  onlyReflex_setReg (onlyReflex_setReg (onlyReflex_rfxUpd (onlyReflex_refl s _) _) (by decide) (by decide) _) (by decide) (by decide) _

theorem State.outFault_shown (s : State) (o : Fin 32) : (s.outFault o).bit PG.rfx R.RFX_OUT_FAULT o = true := by
  have ho : o.val < 64 := Nat.lt_trans o.isLt (by decide)
  rw [State.outFault, State.irq, State.bit_congr (State.reg_setBit_off _ (by decide)), State.bit_setBit_self _ _ _ _ _ ho]

/-- R202: the ball of a driven output reads the other level. -/
theorem State.outFault_level {o : Fin 32} (h : s.outDark o = false) (i : Nat) : (s.outFault o).outLevel i o = !s.outDrive o := by
  have hdark : (s.outFault o).outDark o = false :=
    ((onlyReflex_outFault s o).outDark o.isLt (by decide) (RFX_OUT_CFG_notMem_fault o)).trans h
  have hheld : (s.outFault o).rfx.held.get o = some (!s.outDrive o) := Vector.getElem_set_self ..
  rw [State.outLevel, hdark, if_neg (by decide), hheld, Option.getD_some]

theorem exec_outputFault_dark (hon : s.isOff PG.rfx = false) (o : Fin 32) (h : s.outDark o = true) : exec (.outputFault o) s = .next s := by
  rw [exec_outputFault, execOutputFault, State.ifOn_powered hon, if_pos h, State.ends_self]

theorem exec_outputFault_driven (hon : s.isOff PG.rfx = false) (o : Fin 32) (h : s.outDark o = false) :
    exec (.outputFault o) s = .next (s.outFault o) := by
  rw [exec_outputFault, execOutputFault, State.ifOn_powered hon, if_neg (by rw [h]; decide)]
  exact (onlyReflex_outFault s o).ends

/-! ### A PLL that loses lock (R205) -/

theorem exec_pllLockLoss_records (s : State) (pll : Fin 4) : ∃ t, exec (.pllLockLoss pll) s = .next t ∧ pll ∈ t.unlocked ∧
    (∀ q, q ∈ s.unlocked → q ∈ t.unlocked) ∧ t = { s with unlocked := t.unlocked } := by
  refine ⟨_, (exec_pllLockLoss pll).trans (State.ends_of rfl rfl), ?_, fun q hq => ?_, rfl⟩
  · dsimp only
    split
    · next h => exact List.contains_iff_mem.mp h
    · exact List.mem_append_right _ List.mem_cons_self
  · dsimp only
    split
    · exact hq
    · exact List.mem_append_left _ hq

end

end Sys2Proof.Machine
end

section
/-!
PROOFS. Reflex records in the rings of the results unit (R200, R443, R448).
-/

namespace Sys2Proof.Machine

theorem leBytes_length (n v : Nat) : (leBytes n v).length = n := by
  induction n generalizing v with
  | zero => rfl
  | succ n ih => rw [leBytes, List.length_cons, ih]

theorem recHeader_length (t : RecType) (len8 : Nat) (port : Option Nat) (rseq win : Nat) : (recHeader t len8 port rseq win).length = 16 :=
  leBytes_length _ _

theorem reflexBody_length (r : ReflexRec) : (reflexBody r).length = 32 := by
  simp only [reflexBody, List.length_append, leBytes_length]

theorem onlyMem_ringPut {s t : State} (h : OnlyMem s t) (base size pos : Nat) (bs : List Byte) : OnlyMem s (t.ringPut base size pos bs) := by
  have hfirst := onlyMem_writeBytes h none (base + pos % size) (bs.take (size - pos % size))
  unfold State.ringPut
  dsimp only
  split
  · exact hfirst
  · exact onlyMem_writeBytes hfirst _ _ _

theorem RING_HEAD_ne_CNT (k j : Fin 32) : R.RING_HEAD k ≠ R.RING_CNT j := by
  unfold R.RING_HEAD R.RING_CNT
  omega

theorem RING_HEAD_ne_CNT0 (k : Fin 32) : R.RING_HEAD k ≠ R.RES_CNT0 := by
  unfold R.RING_HEAD R.RES_CNT0
  omega

/-- R448: the device's ring of a record type. -/
abbrev State.devRing (s : State) (t : RecType) : Fin 32 := routeOf (s.reg PG.res R.RES_ROUTE_DEV) t

/-- R443: the record of the reflex path as it stands in the ring. -/
def State.reflexBytes (s : State) (r : ReflexRec) : List Byte :=
  recHeader .reflex ((16 + (reflexBody r).length) / 8) none (s.res.rseq.get (s.devRing .reflex)).toNat 0 ++ reflexBody r

theorem State.reflexBytes_length (s : State) (r : ReflexRec) : (s.reflexBytes r).length = 48 := by
  rw [State.reflexBytes, List.length_append, recHeader_length, reflexBody_length]

/-- R443: the next record of the ring is numbered. -/
def State.ringNumbered (s : State) (k : Fin 32) : State := { s with res := { s.res with rseq := s.res.rseq.set k (s.res.rseq.get k + 1) } }

/-- R448: bytes stand in the ring from its head on. -/
def State.ringFilled (s : State) (k : Fin 32) (bs : List Byte) : State :=
  (s.ringNumbered k).ringPut (s.reg PG.res (R.RING_BASE k)).toNat (2 ^ s.fld PG.res (R.RING_SIZE k) 0 5)
    (s.reg PG.res (R.RING_HEAD k)).toNat bs

/-- R448: the head moves, and a record is counted. -/
def State.ringMoved (s : State) (k : Fin 32) (head : Word) : State :=
  ((s.setReg PG.res (R.RING_HEAD k) head).bump PG.res (R.RING_CNT k) 0 32).bump PG.res R.RES_CNT0 0 32

/-- R448: a record of a ring that a stream takes is marked. -/
def State.ringMarked (s : State) (k : Fin 32) (m : RecMark) : State :=
  if s.bit PG.res (R.RING_CTL k) 2 then { s with res := { s.res with marks := s.res.marks.set k (s.res.marks.get k ++ [m]) } } else s

/-- R448: a record of the ring. -/
def State.ringStored (s : State) (k : Fin 32) (bs : List Byte) : State :=
  (s.ringFilled k bs).ringMoved k (s.reg PG.res (R.RING_HEAD k) + wOfNat bs.length)

section
variable {s : State}

theorem OnlyMem.rfx {t : State} (h : OnlyMem s t) : t.rfx = s.rfx := by rw [h.rest]

theorem OnlyMem.res {t : State} (h : OnlyMem s t) : t.res = s.res := by rw [h.rest]

theorem onlyMem_ringFilled (s : State) (k : Fin 32) (bs : List Byte) : OnlyMem (s.ringNumbered k) (s.ringFilled k bs) :=
  onlyMem_ringPut (onlyMem_refl _) _ _ _ _

theorem State.ringMoved_head (s : State) (k : Fin 32) (head : Word) : (s.ringMoved k head).reg PG.res (R.RING_HEAD k) = head := by
  rw [State.ringMoved, State.bump, State.addCnt, State.reg_setFld_off _ (RING_HEAD_ne_CNT0 k), State.bump, State.addCnt,
    State.reg_setFld_off _ (RING_HEAD_ne_CNT k k), State.reg_setReg_self]

theorem State.ringMarked_reg (s : State) (k : Fin 32) (m : RecMark) (page o : Nat) : (s.ringMarked k m).reg page o = s.reg page o := by
  unfold State.ringMarked
  split <;> rfl

theorem State.ringMarked_rfx (s : State) (k : Fin 32) (m : RecMark) : (s.ringMarked k m).rfx = s.rfx := by
  unfold State.ringMarked
  split <;> rfl

theorem State.ringMarked_rseq (s : State) (k : Fin 32) (m : RecMark) : (s.ringMarked k m).res.rseq = s.res.rseq := by
  unfold State.ringMarked
  split <;> rfl

theorem State.ringStored_rfx (s : State) (k : Fin 32) (bs : List Byte) : (s.ringStored k bs).rfx = s.rfx :=
  (onlyMem_ringFilled s k bs).rfx

theorem State.ringStored_rseq (s : State) (k : Fin 32) (bs : List Byte) : (s.ringStored k bs).res.rseq.get k = s.res.rseq.get k + 1 :=
  (congrArg (fun r : ResState => r.rseq.get k) (onlyMem_ringFilled s k bs).res).trans (Vector.getElem_set_self ..)

section
variable (hon : s.alive PG.res = true)
include hon

/-- R448: a record of a ring that is not enabled is counted. -/
theorem State.writeRecord_noRing (h : s.bit PG.res (R.RING_CTL (s.devRing .reflex)) 0 = false) (win : Nat) (body : List Byte) :
    (s.writeRecord .reflex none win body).2 = s.bump PG.res R.RES_CNT0 32 16 :=
  congrArg Prod.snd ((if_neg (by rw [hon]; decide)).trans (if_pos (by rw [Bool.not_eq_true']; exact h)))

/-- R448: the mark of a reflex record. -/
def State.reflexMark (s t : State) (r : ReflexRec) : RecMark where
  pos := (s.reg PG.res (R.RING_HEAD (s.devRing .reflex))).toNat
  len := (s.reflexBytes r).length
  lastOfWindow := false
  dtc := t.dtc
  port := none
  win := 0

theorem State.writeRecord_stored (hring : s.bit PG.res (R.RING_CTL (s.devRing .reflex)) 0 = true) (r : ReflexRec)
    (hroom : s.ringUsed (s.devRing .reflex) + 48 ≤ 2 ^ s.fld PG.res (R.RING_SIZE (s.devRing .reflex)) 0 5) :
    (s.writeRecord .reflex none 0 (reflexBody r)).2 = (s.ringStored (s.devRing .reflex) (s.reflexBytes r)).ringMarked (s.devRing .reflex)
      (s.reflexMark (s.ringStored (s.devRing .reflex) (s.reflexBytes r)) r) := by
  have hfits : s.ringUsed (s.devRing .reflex) + (s.reflexBytes r).length ≤ 2 ^ s.fld PG.res (R.RING_SIZE (s.devRing .reflex)) 0 5 := by
    rwa [State.reflexBytes_length]
  exact congrArg Prod.snd ((if_neg (by rw [hon]; decide)).trans ((if_neg (by rw [hring]; decide)).trans (if_pos hfits)))

end

end

/-! ### The drain (R200) -/

/-- R200: the oldest record has left the queue. -/
def State.recsLeft (s : State) (rest : List ReflexRec) : State := s.rfxUpd fun x => { x with recs := rest }

section
variable {s : State}

theorem exec_reflexRecordDrain_empty (h : s.rfx.recs = []) : exec .reflexRecordDrain s = .next s := by
  have hstay : s.reflexDrain = s := by
    unfold State.reflexDrain
    rw [h]
    exact ite_self s
  rw [exec_reflexRecordDrain, execReflexRecordDrain, hstay, State.ends_self]

section
variable {r : ReflexRec} {rest : List ReflexRec} (hon : s.alive PG.res = true) (hstop : s.stopped PG.res = false)
  (hback : s.deadman = false ∨ s.rfx.hbBack = true) (hrecs : s.rfx.recs = r :: rest)
include hon hstop hback hrecs

theorem State.reflexDrain_takes : s.reflexDrain = ((s.recsLeft rest).writeRecord .reflex none 0 (reflexBody r)).2 := by
  have hbeats : (s.deadman && !s.rfx.hbBack) = false := by rcases hback with h | h <;> simp [h]
  unfold State.reflexDrain
  rw [if_neg (by rw [hon, hstop, hbeats]; decide), hrecs]
  rfl

theorem exec_reflexRecordDrain_noRing (hring : s.bit PG.res (R.RING_CTL (s.devRing .reflex)) 0 = false) :
    exec .reflexRecordDrain s = .next ((s.recsLeft rest).bump PG.res R.RES_CNT0 32 16) := by
  rw [exec_reflexRecordDrain, execReflexRecordDrain, State.reflexDrain_takes hon hstop hback hrecs,
    State.writeRecord_noRing (s := s.recsLeft rest) hon hring]
  exact State.ends_of rfl rfl

theorem exec_reflexRecordDrain_stores (hring : s.bit PG.res (R.RING_CTL (s.devRing .reflex)) 0 = true)
    (hroom : s.ringUsed (s.devRing .reflex) + 48 ≤ 2 ^ s.fld PG.res (R.RING_SIZE (s.devRing .reflex)) 0 5) :
    ∃ t, exec .reflexRecordDrain s = .next t ∧ t.rfx.recs = rest ∧
      t.reg PG.res (R.RING_HEAD (s.devRing .reflex)) = s.reg PG.res (R.RING_HEAD (s.devRing .reflex)) + 48 ∧
      t.res.rseq.get (s.devRing .reflex) = s.res.rseq.get (s.devRing .reflex) + 1 := by
  have hstored := State.writeRecord_stored (s := s.recsLeft rest) hon hring r hroom
  rw [exec_reflexRecordDrain, execReflexRecordDrain, State.reflexDrain_takes hon hstop hback hrecs, hstored, State.ends_eq]
  refine ⟨_, rfl, ?_, ?_, ?_⟩
  · rw [State.withQueueOf_rfx, State.ringMarked_rfx, State.ringStored_rfx]
    rfl
  · rw [State.reg_congr (State.withQueueOf_regs _ _), State.ringMarked_reg]
    refine (State.ringMoved_head _ _ _).trans ?_
    rw [State.reflexBytes_length]
    rfl
  · rw [State.withQueueOf_res, State.ringMarked_rseq]
    exact State.ringStored_rseq _ _ _

end

end

/-- Settles O24: each command by what it meets: a test that runs, the lanes that are in, the words in error, an output that is driven, a ring. -/
theorem reflexIntegrityCommands : Obligations.ReflexIntegrityCommands := by
  refine ⟨fun ini s hw => ⟨exec_selftest_idle hw ini, exec_selftest_runs hw ini⟩, fun s hon => ?_, fun s r rest hon hstop hback hrecs => ?_,
    fun s h => exec_reflexRecordDrain_empty h, fun pll s => exec_pllLockLoss_records s pll⟩
  · refine ⟨fun fail h => ?_, exec_voterSignatureCheck_agrees hon, exec_voterSignatureCheck_masked hon, exec_voterSignatureCheck_counts hon, fun l h => ?_,
      fun hbad => ⟨exec_eccWalk_clean hon hbad, exec_eccWalk_corrects hon hbad, fun l k h => ?_, fun l k q hq h => ?_⟩,
      exec_outputFault_dark hon, fun o h => ?_⟩
    · exact ⟨_, exec_selftestDone_ends hon fail h, State.selftestEnded_running s fail, State.selftestEnded_fail s fail,
        State.selftestEnded_raw s fail, onlyRegs_selftestEnded s fail, (onlyReflex_selftestEnded s fail).kept⟩
    · exact ⟨_, exec_laneResyncDone_rejoins hon h, State.laneRejoined_in s l, State.laneRejoined_resync s l, State.laneRejoined_counted s l,
        (onlyReflex_laneRejoined s l).rest⟩
    · exact ⟨_, exec_eccWalk_mends hon hbad l k h, State.eccMended_bad s _, State.eccMended_counted s _, (onlyReflex_eccMended s _).rest⟩
    · exact ⟨_, exec_eccWalk_stands hon hbad k hq h, rfl, rfl⟩
    · exact ⟨_, exec_outputFault_driven hon o h, State.outFault_shown s o, State.irq_bit _ _ _ (by decide), State.outFault_level h,
        (onlyReflex_outFault s o).rest, (onlyReflex_outFault s o).kept⟩
  · exact ⟨fun hring => ⟨_, exec_reflexRecordDrain_noRing hon hstop hback hrecs hring, rfl, counted_bump rfl (by decide), rfl⟩,
      exec_reflexRecordDrain_stores hon hstop hback hrecs⟩

end Sys2Proof.Machine
end

section
/-!
PROOFS. The surface store (R211 to R222): what a change of the store leaves of the state beside it, its registers, and the words that a
fill leaves.
-/

namespace Sys2Proof.Machine

/-! ### Registers of the page -/

theorem SFS_P_ALLOC_lt (p : Fin 8) : R.SFS_P_ALLOC p < 0x10000 := by
  unfold R.SFS_P_ALLOC
  omega

theorem SFS_P_PASS_lt (p : Fin 8) : R.SFS_P_PASS p < 0x10000 := by
  unfold R.SFS_P_PASS
  omega

theorem SFS_P_ALLOC_ne_STS (p : Fin 8) : R.SFS_P_ALLOC p ≠ R.SFS_STS := by
  unfold R.SFS_P_ALLOC R.SFS_STS
  omega

theorem State.fld_setReg_self (s : State) (page o lo n : Nat) (v : Word) : (s.setReg page o v).fld page o lo n = bf v lo n := by
  rw [State.fld, State.reg_setReg_self]

/-! ### What a change of the store leaves -/

@[simp] theorem State.fld_sfsUpd (s : State) (f : SfsState → SfsState) (q o lo n : Nat) : (s.sfsUpd f).fld q o lo n = s.fld q o lo n := rfl

/-- Of the surface store alone something changes: what it holds, and of the registers none but the listed ones of its page. -/
structure OnlyStore (s t : State) (l : List Nat) : Prop where
  rest : t = { s with regs := t.regs, sfs := t.sfs }
  kept : PageKept s t PG.sfs l

section
variable {s t u : State} {l l' : List Nat}

theorem onlyStore_refl (s : State) (l : List Nat) : OnlyStore s s l := ⟨rfl, pageKept_refl _ _ _⟩

theorem onlyStore_setReg (h : OnlyStore s t l) {o : Nat} (ho : o < 0x10000) (hl : o ∈ l) (v : Word) :
    OnlyStore s (t.setReg PG.sfs o v) l where
  rest := by rw [h.rest]; rfl
  kept := pageKept_setReg h.kept ho hl v

theorem onlyStore_sfsUpd (h : OnlyStore s t l) (f : SfsState → SfsState) : OnlyStore s (t.sfsUpd f) l where
  rest := by rw [h.rest]; rfl
  kept := h.kept

theorem onlyStore_ite (h : OnlyStore s t l) (k : OnlyStore s u l) (c : Prop) [Decidable c] : OnlyStore s (if c then t else u) l := by
  split <;> assumption

theorem OnlyStore.trans (h : OnlyStore s t l) (k : OnlyStore t u l) : OnlyStore s u l where
  rest := by rw [k.rest, h.rest]
  kept q o ho hq := (k.kept q o ho hq).trans (h.kept q o ho hq)

theorem OnlyStore.mono (h : OnlyStore s t l) (hl : l ⊆ l') : OnlyStore s t l' where
  rest := h.rest
  kept q o ho hq := h.kept q o ho (hq.imp_right fun hn hm => hn (hl hm))

/-- What it leaves of the state is the answer itself. -/
theorem OnlyStore.ends (h : OnlyStore s t l) : s.ends t = .next t := State.ends_of (by rw [h.rest]) (by rw [h.rest])

end

/-! ### Words -/

/-- A list of entries kept by their keys reads as before under those keys, and as unlisted under the others. -/
theorem Sp.get_filter_key {α : Type} (d : α) (m : List (Nat × α)) (f : Nat → Bool) (k : Nat) :
    Sp.get d (m.filter fun c => f c.1) k = if f k then Sp.get d m k else d := by
  have hfind : Sp.find (m.filter fun c => f c.1) k = if f k then Sp.find m k else none := by
    induction m with
    | nil => exact (ite_self _).symm
    | cons c m ih =>
      obtain ⟨j, v⟩ := c
      by_cases hjk : j = k
      · subst hjk
        cases hf : f j <;> simp [Sp.find, hf, ih]
      · cases hf : f j <;> simp [Sp.find, hf, ih, hjk]
  unfold Sp.get
  rw [hfind]
  cases f k <;> rfl

section
variable (s : State) {base size o : Nat}

theorem State.surfWord_surfFill : (s.surfFill base size).surfWord o =
    if decide (o < base) || decide (base + size ≤ o) then s.surfWord o else 0 :=
  Sp.get_filter_key 0 s.sfs.words (fun o => decide (o < base) || decide (base + size ≤ o)) o

theorem State.surfFill_inside (hlo : base ≤ o) (hhi : o < base + size) : (s.surfFill base size).surfWord o = 0 := by
  rw [State.surfWord_surfFill, if_neg]
  simp only [Bool.or_eq_true, decide_eq_true_eq]
  omega

theorem State.surfFill_outside (h : o < base ∨ base + size ≤ o) : (s.surfFill base size).surfWord o = s.surfWord o := by
  rw [State.surfWord_surfFill, if_pos (by simpa using h)]

theorem State.setSurf_self (w : BitVec 32) : (s.setSurf o w).surfWord o = w := Sp.get_set_self _ _ _ _

theorem State.setSurf_other {o' : Nat} (w : BitVec 32) (h : o' ≠ o) : (s.setSurf o w).surfWord o' = s.surfWord o' :=
  Sp.get_set_ne _ _ _ _ h

/-- R218: a word without an uncorrectable byte reads as it is stored. -/
theorem State.surfRead_clean (p : Fin 8) (h : Sp.get 0 s.sfs.bad o = 0) : s.surfRead p none o = (some (s.surfWord o), s) := if_pos h

end

end Sys2Proof.Machine
end

section
/-!
PROOFS. Obligation O25: the fill and the free of a region and the epoch pass (R213, R215, R219, R220).
-/

namespace Sys2Proof.Machine

section
variable {s : State} {p : Fin 8}

/-! ### The fill of a region (R215) -/

/-- R42: the first word of a port's region. -/
def State.regionBase (s : State) (p : Fin 8) : Nat := bf (s.reg PG.sfs (R.SFS_P_ALLOC p)) 0 23

/-- R42: the size of a port's region. -/
def State.regionSize (s : State) (p : Fin 8) : Nat := bf (s.reg PG.sfs (R.SFS_P_ALLOC p)) 32 24

/-- R215: the region of port `p` is filled, and INIT tells so. -/
def State.fillEnded (s : State) (p : Fin 8) : State :=
  (s.surfFill (s.regionBase p) (s.regionSize p)).setBit PG.sfs R.SFS_STS (8 + p.val) false

theorem onlyStore_fillEnded (s : State) (p : Fin 8) : OnlyStore s (s.fillEnded p) [R.SFS_STS] :=
  onlyStore_setReg (onlyStore_sfsUpd (onlyStore_refl s _) _) (by decide) List.mem_cons_self _

theorem State.fillEnded_init (s : State) (p : Fin 8) : (s.fillEnded p).surfInit p = false :=
  State.bit_setBit_self _ _ _ _ _ (by omega)

theorem exec_sfsFillDone_idle (h : s.surfInit p = false) : exec (.sfsFillDone p) s = .next s := by
  rw [exec_sfsFillDone, execSfsFillDone, State.surfFillDone, if_pos (by rw [h]; rfl), State.ends_self]

theorem exec_sfsFillDone_fills (h : s.surfInit p = true) : exec (.sfsFillDone p) s = .next (s.fillEnded p) := by
  rw [exec_sfsFillDone, execSfsFillDone, State.surfFillDone, if_neg (by rw [h]; decide)]
  exact (onlyStore_fillEnded s p).ends

/-! ### The free of a region (R215) -/

/-- R215: VALID of port `p` clears with its region, unless the port has been enabled again. -/
def State.validCleared (s : State) (p : Fin 8) (f : Freeing) : State :=
  if s.regionBase p = f.base ∧ !s.spEn p then s.setBit PG.sfs (R.SFS_P_ALLOC p) 63 false else s

/-- R215: FREEING of port `p` clears with the last of its regions that is being freed. -/
def State.freeingShown (s : State) (p : Fin 8) : State :=
  if s.sfs.freeing.any (fun f => f.port == p) then s else s.setBit PG.sfs R.SFS_STS (16 + p.val) false

/-- R215: the region `f` of port `p` is free. -/
def State.regionFreed (s : State) (p : Fin 8) (f : Freeing) : State :=
  ((s.sfsUpd fun x => { x with freeing := x.freeing.erase f }).validCleared p f).freeingShown p

theorem State.surfFreed_of_find {f : Freeing} (h : s.sfs.freeing.find? (fun f => f.port == p) = some f) :
    s.surfFreed p = s.regionFreed p f := by
  rw [State.surfFreed, h]
  rfl

theorem onlyStore_regionFreed (s : State) (p : Fin 8) (f : Freeing) :
    OnlyStore s (s.regionFreed p f) [R.SFS_STS, R.SFS_P_ALLOC p] := by
  have hleft := onlyStore_sfsUpd (onlyStore_refl s [R.SFS_STS, R.SFS_P_ALLOC p]) fun x => { x with freeing := x.freeing.erase f }
  have hvalid := onlyStore_ite (onlyStore_setReg hleft (SFS_P_ALLOC_lt p) (by simp) (putBit (s.reg PG.sfs (R.SFS_P_ALLOC p)) 63 false)) hleft
  exact onlyStore_ite (hvalid _) (onlyStore_setReg (hvalid _) (by decide) List.mem_cons_self _) _

theorem State.validCleared_sfs (s : State) (p : Fin 8) (f : Freeing) : (s.validCleared p f).sfs = s.sfs := by
  unfold State.validCleared
  split <;> rfl

theorem State.freeingShown_sfs (s : State) (p : Fin 8) : (s.freeingShown p).sfs = s.sfs := by
  unfold State.freeingShown
  split <;> rfl

theorem State.regionFreed_sfs (s : State) (p : Fin 8) (f : Freeing) :
    (s.regionFreed p f).sfs = { s.sfs with freeing := s.sfs.freeing.erase f } := by
  rw [State.regionFreed, State.freeingShown_sfs, State.validCleared_sfs]
  rfl

theorem State.freeingShown_alloc (s : State) (p : Fin 8) :
    (s.freeingShown p).reg PG.sfs (R.SFS_P_ALLOC p) = s.reg PG.sfs (R.SFS_P_ALLOC p) := by
  unfold State.freeingShown
  split
  · rfl
  · exact State.reg_setBit_off _ (SFS_P_ALLOC_ne_STS p)

theorem State.regionFreed_invalid {f : Freeing} (hbase : s.regionBase p = f.base) (hoff : s.spEn p = false) :
    (s.regionFreed p f).bit PG.sfs (R.SFS_P_ALLOC p) 63 = false := by
  have hleft : (s.sfsUpd fun x => { x with freeing := x.freeing.erase f }).regionBase p = f.base ∧
      (!(s.sfsUpd fun x => { x with freeing := x.freeing.erase f }).spEn p) = true := ⟨hbase, congrArg not hoff⟩
  rw [State.regionFreed, State.bit_congr (State.freeingShown_alloc _ p), State.validCleared, if_pos hleft,
    State.bit_setBit_self _ _ _ _ _ (by decide)]

/-- With no region of the port left in the list, FREEING is clear. -/
theorem State.freeingShown_clear (h : ∀ g ∈ s.sfs.freeing, g.port ≠ p) :
    (s.freeingShown p).bit PG.sfs R.SFS_STS (16 + p.val) = false := by
  have hnone : s.sfs.freeing.any (fun f => f.port == p) = false := by simpa using h
  rw [State.freeingShown, if_neg (by rw [hnone]; decide), State.bit_setBit_self _ _ _ _ _ (by omega)]

theorem State.regionFreed_clear {f : Freeing} (h : ∀ g ∈ (s.regionFreed p f).sfs.freeing, g.port ≠ p) :
    (s.regionFreed p f).bit PG.sfs R.SFS_STS (16 + p.val) = false := by
  refine State.freeingShown_clear ?_
  rwa [State.regionFreed, State.freeingShown_sfs] at h

theorem exec_sfsFreeDone_none (h : s.sfs.freeing.find? (fun f => f.port == p) = none) : exec (.sfsFreeDone p) s = .next s := by
  have hstay : s.surfFreed p = s := by rw [State.surfFreed, h]
  rw [exec_sfsFreeDone, execSfsFreeDone, hstay, State.ends_self]

theorem exec_sfsFreeDone_frees {f : Freeing} (h : s.sfs.freeing.find? (fun f => f.port == p) = some f) :
    exec (.sfsFreeDone p) s = .next (s.regionFreed p f) := by
  rw [exec_sfsFreeDone, execSfsFreeDone, State.surfFreed_of_find h]
  exact (onlyStore_regionFreed s p f).ends

/-! ### A sweep begins (R219) -/

/-- R219: a sweep of port `p` begins at word 0. -/
def State.sweepBegun (s : State) (p : Fin 8) : State :=
  (s.sfsUpd fun x => { x with sweep := x.sweep.set p true, sweptAt := x.sweptAt.set p (s.surfNow p / 65536) }).setFld
    PG.sfs (R.SFS_P_PASS p) 0 23 0

theorem onlyStore_sweepBegun (s : State) (p : Fin 8) : OnlyStore s (s.sweepBegun p) [R.SFS_P_PASS p] :=
  onlyStore_setReg (onlyStore_sfsUpd (onlyStore_refl s _) _) (SFS_P_PASS_lt p) List.mem_cons_self _

theorem exec_epochSweepStart_current (h : s.surfNow p / 65536 ≤ s.sfs.sweptAt.get p) : exec (.epochSweepStart p) s = .next s := by
  rw [exec_epochSweepStart, execEpochSweepStart, State.sweepStart, if_neg fun hc => Nat.not_lt.mpr h hc.2, State.ends_self]

theorem exec_epochSweepStart_begins (hruns : s.passRuns p = true) (h : s.sfs.sweptAt.get p < s.surfNow p / 65536) :
    exec (.epochSweepStart p) s = .next (s.sweepBegun p) := by
  rw [exec_epochSweepStart, execEpochSweepStart, State.sweepStart, if_pos ⟨hruns, h⟩]
  exact (onlyStore_sweepBegun s p).ends

/-! ### The pass visits a word (R213, R219, R220) -/

/-- R219: the word that the pass of port `p` visits next. -/
def State.passWord (s : State) (p : Fin 8) : Nat := s.regionBase p + s.fld PG.sfs (R.SFS_P_PASS p) 0 23

/-- R213: the word at `o` is live and not fresh at the port's surface time. -/
def State.staleAt (s : State) (p : Fin 8) (o : Nat) : Prop :=
  surfLive (s.surfWord o) = true ∧ surfFresh (s.surfWord o) (s.surfNow p) = false

/-- R219: the stale word at `o` loses LIVE and is counted. -/
def State.wordRetired (s : State) (p : Fin 8) (o : Nat) : State :=
  (s.setSurf o (s.surfWord o &&& 0xFFFF_FFDF)).bump PG.sfs (R.SFS_P_CNT p) 32 32

/-- R219: what the pass does with the word at `o`. -/
def State.wordVisited (s : State) (p : Fin 8) (o : Nat) : State :=
  if surfLive (s.surfWord o) && !surfFresh (s.surfWord o) (s.surfNow p) then s.wordRetired p o else s

/-- R219: the pass of port `p` moves past the word at `pos` of a region of `size` words. -/
def State.passMoved (s : State) (p : Fin 8) (pos size : Nat) : State :=
  if size ≤ pos + 1 then
    (s.setReg PG.sfs (R.SFS_P_PASS p) (wOfNat (((s.fld PG.sfs (R.SFS_P_PASS p) 32 32 + 1) % 2 ^ 32) <<< 32))).sfsUpd
      fun x => { x with sweep := x.sweep.set p false }
  else s.setFld PG.sfs (R.SFS_P_PASS p) 0 23 (pos + 1)

/-- R219, R220: one visit of the pass of port `p`. -/
def State.passVisited (s : State) (p : Fin 8) : State :=
  (s.wordVisited p (s.passWord p)).passMoved p (s.fld PG.sfs (R.SFS_P_PASS p) 0 23) (s.regionSize p)

theorem State.sweepVisit_clean (hruns : s.passRuns p = true) (hsweep : s.sfs.sweep.get p = true)
    (hclean : Sp.get 0 s.sfs.bad (s.passWord p) = 0) : s.sweepVisit p none = s.passVisited p := by
  have hread := State.surfRead_clean s p hclean
  rw [State.passWord] at hread
  unfold State.sweepVisit
  rw [if_neg (by rw [hruns, hsweep]; decide)]
  dsimp only
  rw [State.regionBase] at hread
  rw [hread]
  rfl

theorem State.wordVisited_stale {o : Nat} (h : s.staleAt p o) : s.wordVisited p o = s.wordRetired p o := by
  obtain ⟨hlive, hold⟩ := h
  exact if_pos (by rw [hlive, hold]; rfl)

theorem State.wordVisited_kept {o : Nat} (h : ¬ s.staleAt p o) : s.wordVisited p o = s :=
  if_neg fun hc => h (by simpa [State.staleAt] using hc)

theorem onlyStore_wordVisited (s : State) (p : Fin 8) (o : Nat) : OnlyStore s (s.wordVisited p o) [R.SFS_P_CNT p] :=
  onlyStore_ite (onlyStore_setReg (onlyStore_sfsUpd (onlyStore_refl s _) _) (SFS_P_CNT_lt p) List.mem_cons_self _) (onlyStore_refl s _) _

theorem State.wordVisited_other (s : State) (p : Fin 8) {o o' : Nat} (h : o' ≠ o) : (s.wordVisited p o).surfWord o' = s.surfWord o' := by
  unfold State.wordVisited
  split
  · exact State.setSurf_other s _ h
  · rfl

theorem State.wordVisited_sweep (s : State) (p : Fin 8) (o : Nat) : (s.wordVisited p o).sfs.sweep = s.sfs.sweep := by
  unfold State.wordVisited
  split <;> rfl

theorem State.wordVisited_pass (s : State) (p : Fin 8) (o lo n : Nat) :
    (s.wordVisited p o).fld PG.sfs (R.SFS_P_PASS p) lo n = s.fld PG.sfs (R.SFS_P_PASS p) lo n :=
  congrArg (bf · lo n) <| (onlyStore_wordVisited s p o).kept _ _ (SFS_P_PASS_lt p) (.inr (by simp))

theorem onlyStore_passMoved (s : State) (p : Fin 8) (pos size : Nat) : OnlyStore s (s.passMoved p pos size) [R.SFS_P_PASS p] := by
  have hset := onlyStore_setReg (onlyStore_refl s [R.SFS_P_PASS p]) (SFS_P_PASS_lt p) List.mem_cons_self
  exact onlyStore_ite (onlyStore_sfsUpd (hset _) _) (hset _) _

theorem State.passMoved_words (s : State) (p : Fin 8) (pos size : Nat) : (s.passMoved p pos size).sfs.words = s.sfs.words := by
  unfold State.passMoved
  split <;> rfl

theorem State.passMoved_next {pos size : Nat} (h : pos + 1 < size) :
    (s.passMoved p pos size).fld PG.sfs (R.SFS_P_PASS p) 0 23 = (pos + 1) % 2 ^ 23 ∧
      (s.passMoved p pos size).sfs.sweep.get p = s.sfs.sweep.get p := by
  rw [State.passMoved, if_neg (Nat.not_le.mpr h)]
  exact ⟨State.fld_setFld_self _ _ _ _ _ _ (by decide), rfl⟩

theorem bf_wOfNat_upper (n : Nat) : bf (wOfNat ((n % 2 ^ 32) <<< 32)) 32 32 = n % 2 ^ 32 := by
  rw [bf_eq, wOfNat, BitVec.toNat_ofNat, Nat.shiftLeft_eq]
  omega

theorem State.passMoved_end {pos size : Nat} (h : size ≤ pos + 1) : (s.passMoved p pos size).sfs.sweep.get p = false ∧
    (s.passMoved p pos size).fld PG.sfs (R.SFS_P_PASS p) 32 32 = (s.fld PG.sfs (R.SFS_P_PASS p) 32 32 + 1) % 2 ^ 32 := by
  rw [State.passMoved, if_pos h]
  refine ⟨Vector.getElem_set_self .., ?_⟩
  rw [State.fld_sfsUpd, State.fld_setReg_self, bf_wOfNat_upper]

theorem onlyStore_passVisited (s : State) (p : Fin 8) : OnlyStore s (s.passVisited p) [R.SFS_P_PASS p, R.SFS_P_CNT p] :=
  ((onlyStore_wordVisited s p _).mono (by simp)).trans ((onlyStore_passMoved _ p _ _).mono (by simp))

theorem State.passVisited_word (s : State) (p : Fin 8) (o : Nat) :
    (s.passVisited p).surfWord o = (s.wordVisited p (s.passWord p)).surfWord o :=
  congrArg (Sp.get 0 · o) (State.passMoved_words _ p _ _)

theorem State.passVisited_stale (h : s.staleAt p (s.passWord p)) :
    (s.passVisited p).surfWord (s.passWord p) = s.surfWord (s.passWord p) &&& 0xFFFF_FFDF ∧
      Counted s (s.passVisited p) PG.sfs (R.SFS_P_CNT p) 32 32 1 := by
  have hretired := State.wordVisited_stale h
  refine ⟨?_, counted_of_reg ?_ ((onlyStore_passMoved _ p _ _).kept _ _ (SFS_P_CNT_lt p) (.inr (by simp)))⟩
  · rw [State.passVisited_word, hretired]
    exact State.setSurf_self s _
  · rw [hretired]
    exact counted_bump rfl (by decide)

theorem State.passVisited_kept (h : ¬ s.staleAt p (s.passWord p)) : (s.passVisited p).sfs.words = s.sfs.words := by
  rw [State.passVisited, State.passMoved_words, State.wordVisited_kept h]

theorem exec_epochVisit_idle (h : s.sfs.sweep.get p = false) : exec (.epochVisit p none) s = .next s := by
  rw [exec_epochVisit, execEpochVisit, State.sweepVisit, if_pos (by rw [h, Bool.and_false]; rfl), State.ends_self]

theorem exec_epochVisit_visits (hruns : s.passRuns p = true) (hsweep : s.sfs.sweep.get p = true)
    (hclean : Sp.get 0 s.sfs.bad (s.passWord p) = 0) : exec (.epochVisit p none) s = .next (s.passVisited p) := by
  rw [exec_epochVisit, execEpochVisit, State.sweepVisit_clean hruns hsweep hclean]
  exact (onlyStore_passVisited s p).ends

/-- R219: the pass moves to the next word, or the sweep ends and is counted. -/
theorem State.passVisited_moves (hsweep : s.sfs.sweep.get p = true) :
    (s.fld PG.sfs (R.SFS_P_PASS p) 0 23 + 1 < s.regionSize p →
      (s.passVisited p).fld PG.sfs (R.SFS_P_PASS p) 0 23 = (s.fld PG.sfs (R.SFS_P_PASS p) 0 23 + 1) % 2 ^ 23 ∧
        (s.passVisited p).sfs.sweep.get p = true) ∧
    (s.regionSize p ≤ s.fld PG.sfs (R.SFS_P_PASS p) 0 23 + 1 → (s.passVisited p).sfs.sweep.get p = false ∧
      (s.passVisited p).fld PG.sfs (R.SFS_P_PASS p) 32 32 = (s.fld PG.sfs (R.SFS_P_PASS p) 32 32 + 1) % 2 ^ 32) := by
  constructor
  · intro hnext
    obtain ⟨hpos, hgoes⟩ := State.passMoved_next (s := s.wordVisited p (s.passWord p)) (p := p) hnext
    exact ⟨hpos, by rw [State.passVisited, hgoes, State.wordVisited_sweep, hsweep]⟩
  · intro hlast
    obtain ⟨hends, hcount⟩ := State.passMoved_end (s := s.wordVisited p (s.passWord p)) (p := p) hlast
    rw [State.wordVisited_pass] at hcount
    exact ⟨hends, hcount⟩

end

/-- Settles O25: each command by whether it finds a fill, a region being freed, a new epoch or a sweep, and a visit by whether the word is
stale and whether it is the region's last. -/
theorem surfaceRegionsAndEpochPass : Obligations.SurfaceRegionsAndEpochPass := by
  intro p s
  refine ⟨exec_sfsFillDone_idle, fun h => ?_, exec_sfsFreeDone_none, fun f h => ?_, exec_epochSweepStart_current, fun hruns h => ?_,
    exec_epochVisit_idle, fun hruns hsweep hclean => ?_⟩
  · exact ⟨_, exec_sfsFillDone_fills h, State.fillEnded_init s p, fun o => State.surfFill_inside s, fun o => State.surfFill_outside s,
      (onlyStore_fillEnded s p).rest, (onlyStore_fillEnded s p).kept⟩
  · exact ⟨_, exec_sfsFreeDone_frees h, by rw [State.regionFreed_sfs], by rw [State.regionFreed_sfs], State.regionFreed_invalid,
      State.regionFreed_clear, (onlyStore_regionFreed s p f).rest, (onlyStore_regionFreed s p f).kept⟩
  · exact ⟨_, exec_epochSweepStart_begins hruns h, Vector.getElem_set_self .., Vector.getElem_set_self ..,
      State.fld_setFld_self _ _ _ _ _ _ (by decide), rfl, (onlyStore_sweepBegun s p).kept⟩
  · obtain ⟨hnext, hlast⟩ := State.passVisited_moves hsweep
    exact ⟨_, exec_epochVisit_visits hruns hsweep hclean, State.passVisited_stale, State.passVisited_kept,
      fun o ho => (State.passVisited_word s p o).trans (State.wordVisited_other s p ho), hnext, hlast, (onlyStore_passVisited s p).rest,
      (onlyStore_passVisited s p).kept⟩

end Sys2Proof.Machine
end

section
/-!
PROOFS. The window of a Chord test (R213, R224): it depends on the stored words and on the registers of the port, and reading it writes
none but the registers in which an uncorrectable word is recorded (R218).
-/

namespace Sys2Proof.Machine

/-- R218: the registers in which an uncorrectable word is recorded. -/
def storeLogRegs : List Nat := [R.SFS_ERR_ADDR, R.SFS_CNT0, R.PG_IRQ_RAW]

/-- The surface store holds the same words, and the registers read the same but those in which an uncorrectable word is recorded. -/
structure SameStore (s t : State) : Prop where
  sfs : t.sfs = s.sfs
  kept : PageKept s t PG.sfs storeLogRegs

/-- Nothing but the record of uncorrectable words changes. -/
structure StoreLogged (s t : State) : Prop where
  rest : OnlyRegs s t
  kept : PageKept s t PG.sfs storeLogRegs

section
variable {s t : State}

theorem StoreLogged.same (h : StoreLogged s t) : SameStore s t := ⟨by rw [h.rest], h.kept⟩

theorem sameStore_chdUpd (s : State) (p : Fin 8) (f : ChdState → ChdState) : SameStore s (s.chdUpd p f) := ⟨rfl, pageKept_refl s _ _⟩

theorem storeLogged_refl (s : State) : StoreLogged s s := ⟨onlyRegs_refl s, pageKept_refl s _ _⟩

theorem storeLogged_setReg (h : StoreLogged s t) {o : Nat} (hl : o ∈ storeLogRegs) (v : Word) : StoreLogged s (t.setReg PG.sfs o v) where
  rest := onlyRegs_setReg h.rest _ _ _
  kept := pageKept_setReg h.kept ((by decide : ∀ o ∈ storeLogRegs, o < 0x10000) o hl) hl v

theorem SameStore.portReg (h : SameStore s t) {o : Nat} (ho : o < 0x10000) (hport : 0x1000 ≤ o) : t.reg PG.sfs o = s.reg PG.sfs o :=
  h.kept _ o ho (.inr fun hl => by have := (by decide : ∀ o ∈ storeLogRegs, o < 0x1000) o hl; omega)

theorem SameStore.besideReg (h : SameStore s t) {page o : Nat} (hp : page ≠ PG.sfs) (ho : o < 0x10000) : t.reg page o = s.reg page o :=
  h.kept _ o ho (.inl hp)

theorem SameStore.tick (h : SameStore s t) (p : Fin 8) : t.tick p = s.tick p :=
  congrArg (bf · 0 9) (h.portReg (by unfold R.SFS_P_CFG; omega) (by unfold R.SFS_P_CFG; omega))

theorem SameStore.toTicks (h : SameStore s t) (p : Fin 8) (us : Nat) : t.toTicks p us = s.toTicks p us := by
  rw [State.toTicks, h.tick, State.toTicks]

theorem SameStore.geom (h : SameStore s t) (p : Fin 8) : t.geomW p = s.geomW p ∧ t.geomH p = s.geomH p := by
  have hreg : t.reg (PG.sp p) R.SP_GEOM = s.reg (PG.sp p) R.SP_GEOM := h.besideReg (by unfold PG.sp PG.sfs; omega) (by decide)
  exact ⟨congrArg (bf · 0 12) hreg, congrArg (bf · 16 12) hreg⟩

theorem SameStore.pixOff (h : SameStore s t) (p : Fin 8) (x y : Nat) : t.pixOff p x y = s.pixOff p x y := by
  have hbase : t.fld PG.sfs (R.SFS_P_ALLOC p) 0 23 = s.fld PG.sfs (R.SFS_P_ALLOC p) 0 23 :=
    congrArg (bf · 0 23) (h.portReg (SFS_P_ALLOC_lt p) (by unfold R.SFS_P_ALLOC; omega))
  simp only [State.pixOff, State.tileIx, State.tilesW, hbase, h.geom]

/-! ### A fresh word (R213, R224) -/

/-- R213, R224: the fresh word of a pixel of the port with its `d`. -/
def State.freshPix (s : State) (p : Fin 8) (x y d : Int) : Option (BitVec 32 × Int) :=
  if x < 0 ∨ y < 0 ∨ (s.geomW p : Int) ≤ x ∨ (s.geomH p : Int) ≤ y then none
  else
    let o := s.pixOff p x.toNat y.toNat
    if Sp.get 0 s.sfs.bad o = 0 ∧ surfFresh (s.surfWord o) d then some (s.surfWord o, surfD (s.surfWord o) d) else none

theorem SameStore.freshPix (h : SameStore s t) (p : Fin 8) (x y d : Int) : t.freshPix p x y d = s.freshPix p x y d := by
  obtain ⟨hw, hh⟩ := h.geom p
  have hword : t.surfWord = s.surfWord := funext fun o => congrArg (fun q : SfsState => Sp.get 0 q.words o) h.sfs
  rw [State.freshPix, hw, hh, h.pixOff, h.sfs, hword, State.freshPix]

theorem State.surfRead_bad {o : Nat} (p : Fin 8) (h : Sp.get 0 s.sfs.bad o ≠ 0) :
    s.surfRead p none o = (none, s.surfBad o (Sp.get 0 s.sfs.bad o)) := if_neg h

theorem storeLogged_surfBad (h : StoreLogged s t) (o mask : Nat) : StoreLogged s (t.surfBad o mask) :=
  storeLogged_setReg (storeLogged_setReg (storeLogged_setReg h (by decide) _) (by decide) _) (by decide) _

theorem State.surfFreshAt_reads (s : State) (p : Fin 8) (x y d : Int) :
    (s.surfFreshAt p none x y d).1 = s.freshPix p x y d ∧ StoreLogged s (s.surfFreshAt p none x y d).2 := by
  unfold State.surfFreshAt State.freshPix
  split
  · exact ⟨rfl, storeLogged_refl s⟩
  · by_cases hbad : Sp.get 0 s.sfs.bad (s.pixOff p x.toNat y.toNat) = 0
    · rw [State.surfRead_clean s p hbad]
      exact ⟨by simp only [hbad, true_and], storeLogged_refl s⟩
    · rw [State.surfRead_bad p hbad]
      exact ⟨by simp only [hbad, false_and, if_false], storeLogged_surfBad (storeLogged_refl s) _ _⟩

theorem StoreLogged.trans {u : State} (h : StoreLogged s t) (k : StoreLogged t u) : StoreLogged s u where
  rest := by
    have hu : u = { t with regs := u.regs } := k.rest
    rw [OnlyRegs, hu, h.rest]
  kept q o ho hq := (k.kept q o ho hq).trans (h.kept q o ho hq)

/-! ### The window (R224) -/

/-- R224: position `i` of the window around (x, y), in row-major order. -/
def State.winPix (s : State) (p : Fin 8) (x y : Nat) (d : Int) (i : Nat) : WinPix where
  dx := (i % 9 : Nat) - 4
  dy := (i / 9 : Nat) - 4
  w := s.freshPix p (x + ((i % 9 : Nat) - 4)) (y + ((i / 9 : Nat) - 4)) d

/-- R224: position `i` is read after those of `acc`. -/
def winRead (p : Fin 8) (x y : Nat) (d : Int) (acc : List WinPix × State) (i : Nat) : List WinPix × State :=
  let r := acc.2.surfFreshAt p none (x + ((i % 9 : Nat) - 4)) (y + ((i / 9 : Nat) - 4)) d
  (acc.1 ++ [{ dx := (i % 9 : Nat) - 4, dy := (i / 9 : Nat) - 4, w := r.1 }], r.2)

theorem State.chdWindow_eq (s : State) (p : Fin 8) (x y : Nat) (d : Int) :
    s.chdWindow p none x y d = (List.range 81).foldl (winRead p x y d) ([], s) := rfl

theorem foldl_winRead (p : Fin 8) (x y : Nat) (d : Int) (l : List Nat) (acc : List WinPix × State) (h : StoreLogged s acc.2) :
    (l.foldl (winRead p x y d) acc).1 = acc.1 ++ l.map (s.winPix p x y d) ∧ StoreLogged s (l.foldl (winRead p x y d) acc).2 := by
  induction l generalizing acc with
  | nil => exact ⟨(List.append_nil _).symm, h⟩
  | cons i l ih =>
    obtain ⟨hpix, hlog⟩ := State.surfFreshAt_reads acc.2 p (x + ((i % 9 : Nat) - 4)) (y + ((i / 9 : Nat) - 4)) d
    have hread : (winRead p x y d acc i).1 = acc.1 ++ [s.winPix p x y d i] := by
      rw [winRead, hpix, h.same.freshPix, State.winPix]
    obtain ⟨hwin, hlogs⟩ := ih (winRead p x y d acc i) (h.trans hlog)
    exact ⟨by rw [List.foldl_cons, hwin, hread, List.map_cons, List.append_assoc, List.singleton_append], hlogs⟩

theorem State.chdWindow_pixels (s : State) (p : Fin 8) (x y : Nat) (d : Int) :
    (s.chdWindow p none x y d).1 = (List.range 81).map (s.winPix p x y d) := by
  rw [State.chdWindow_eq, (foldl_winRead p x y d _ ([], s) (storeLogged_refl s)).1, List.nil_append]

theorem storeLogged_chdWindow (s : State) (p : Fin 8) (x y : Nat) (d : Int) : StoreLogged s (s.chdWindow p none x y d).2 := by
  rw [State.chdWindow_eq]
  exact (foldl_winRead p x y d _ ([], s) (storeLogged_refl s)).2

theorem SameStore.chdWindow (h : SameStore s t) (p : Fin 8) (x y : Nat) (d : Int) :
    (t.chdWindow p none x y d).1 = (s.chdWindow p none x y d).1 := by
  have hpix : t.winPix p x y d = s.winPix p x y d := funext fun i => by rw [State.winPix, h.freshPix, State.winPix]
  rw [State.chdWindow_pixels, State.chdWindow_pixels, hpix]

end

end Sys2Proof.Machine
end

section
/-!
PROOFS. Obligation O26: a Chord test counts what it finds and hands its record on (R223, R226, R229, R231, R232).
-/

namespace Sys2Proof.Machine

section
variable {s t u : State} {p : Fin 8}

/-! ### Counts (R232, R445) -/

/-- Of the registers none but the listed ones of Chord unit `p` changes, and of the rest of the state only what the results unit holds. -/
structure OnlyCounts (s t : State) (p : Fin 8) (l : List Nat) : Prop where
  rest : t = { s with regs := t.regs, res := t.res }
  kept : PageKept s t (PG.chd p) l

section
variable {l l' : List Nat}

theorem onlyCounts_refl (s : State) (p : Fin 8) (l : List Nat) : OnlyCounts s s p l := ⟨rfl, pageKept_refl s _ _⟩

theorem onlyCounts_bump (h : OnlyCounts s t p l) {o : Nat} (ho : o < 0x10000) (hl : o ∈ l) (lo n : Nat) :
    OnlyCounts s (t.bump (PG.chd p) o lo n) p l where
  rest := by rw [h.rest]; rfl
  kept := pageKept_setReg h.kept ho hl _

theorem onlyCounts_ite (h : OnlyCounts s t p l) (k : OnlyCounts s u p l) (c : Prop) [Decidable c] :
    OnlyCounts s (if c then t else u) p l := by
  split <;> assumption

theorem onlyCounts_winCorner (h : OnlyCounts s t p l) (iet : Nat) : OnlyCounts s (t.winCorner p iet) p l := by
  unfold State.winCorner
  split
  · exact h
  · exact ⟨by rw [h.rest]; rfl, h.kept⟩

theorem OnlyCounts.trans (h : OnlyCounts s t p l) (k : OnlyCounts t u p l) : OnlyCounts s u p l where
  rest := by rw [k.rest, h.rest]
  kept q o ho hq := (k.kept q o ho hq).trans (h.kept q o ho hq)

theorem OnlyCounts.mono (h : OnlyCounts s t p l) (hl : l ⊆ l') : OnlyCounts s t p l' where
  rest := h.rest
  kept q o ho hq := h.kept q o ho (hq.imp_right fun hn hm => hn (hl hm))

end

theorem State.fld_bump_off (s : State) {page off lo n r lo' n' : Nat} (h : r ≠ off) :
    (s.bump page off lo n).fld page r lo' n' = s.fld page r lo' n' :=
  congrArg (bf · lo' n') (State.reg_setFld_off s h)

theorem State.winCorner_reg (s : State) (p : Fin 8) (iet page o : Nat) : (s.winCorner p iet).reg page o = s.reg page o := by
  unfold State.winCorner
  split <;> rfl

/-- R13: a counter that counts where `c` holds. -/
theorem counted_ite_bump (s : State) (c : Bool) {page off lo n : Nat} (h : lo + n ≤ 64) :
    Counted s (if c then s.bump page off lo n else s) page off lo n (b2n c) := by
  cases c with
  | true => exact counted_bump rfl h
  | false =>
    have hlt : s.fld page off lo n < 2 ^ n := bf_lt _ _ _
    show s.fld page off lo n = min (2 ^ n - 1) (s.fld page off lo n + 0)
    omega

/-- R232, R445: one test counted, and a corner in its window too. -/
def State.cornerCounted (s : State) (p : Fin 8) (corner : Bool) (iet : Nat) : State :=
  let s := s.bump (PG.chd p) R.CHD_CNT0 0 32
  if corner then (s.bump (PG.chd p) R.CHD_CNT1 0 32).winCorner p iet else s

/-- R229: a flow counted. -/
def State.flowCounted (s : State) (p : Fin 8) (flow : Bool) : State := if flow then s.bump (PG.chd p) R.CHD_CNT1 32 32 else s

/-- R228, R229: why a fit gives no flow, counted. -/
def State.fitCauses (s : State) (p : Fin 8) (f : FitRes) : State :=
  let s := if f.few then s.bump (PG.chd p) R.CHD_CNT2 48 16 else s
  let s := if f.degenerate then s.bump (PG.chd p) R.CHD_CNT2 0 16 else s
  if f.resFail then s.bump (PG.chd p) R.CHD_CNT2 16 16 else s

theorem onlyCounts_cornerCounted (s : State) (p : Fin 8) (corner : Bool) (iet : Nat) :
    OnlyCounts s (s.cornerCounted p corner iet) p [R.CHD_CNT0, R.CHD_CNT1] := by
  have htest := onlyCounts_bump (onlyCounts_refl s p [R.CHD_CNT0, R.CHD_CNT1]) (o := R.CHD_CNT0) (by decide) (by decide) 0 32
  exact onlyCounts_ite (onlyCounts_winCorner (onlyCounts_bump htest (by decide) (by decide) _ _) _) htest _

theorem onlyCounts_flowCounted (s : State) (p : Fin 8) (flow : Bool) : OnlyCounts s (s.flowCounted p flow) p [R.CHD_CNT1] :=
  onlyCounts_ite (onlyCounts_bump (onlyCounts_refl s p _) (by decide) (by decide) _ _) (onlyCounts_refl s p _) _

theorem onlyCounts_fitCauses (s : State) (p : Fin 8) (f : FitRes) : OnlyCounts s (s.fitCauses p f) p [R.CHD_CNT2] := by
  have hcause : ∀ {t : State}, OnlyCounts s t p [R.CHD_CNT2] → ∀ (c : Bool) (lo : Nat),
      OnlyCounts s (if c then t.bump (PG.chd p) R.CHD_CNT2 lo 16 else t) p [R.CHD_CNT2] :=
    fun h c lo => onlyCounts_ite (onlyCounts_bump h (by decide) (by decide) lo 16) h _
  exact hcause (hcause (hcause (onlyCounts_refl s p _) _ _) _ _) _ _

theorem State.cornerCounted_tests (s : State) (p : Fin 8) (corner : Bool) (iet : Nat) :
    Counted s (s.cornerCounted p corner iet) (PG.chd p) R.CHD_CNT0 0 32 1 := by
  refine counted_of_reg (counted_bump rfl (by decide)) ?_
  cases corner with
  | true => exact (State.winCorner_reg _ _ _ _ _).trans (State.reg_setReg_off _ _ (by decide))
  | false => rfl

theorem State.cornerCounted_corners (s : State) (p : Fin 8) (corner : Bool) (iet : Nat) :
    Counted s (s.cornerCounted p corner iet) (PG.chd p) R.CHD_CNT1 0 32 (b2n corner) := by
  have hcount : Counted s _ (PG.chd p) R.CHD_CNT1 0 32 (b2n corner) :=
    (counted_ite_bump (s.bump (PG.chd p) R.CHD_CNT0 0 32) corner (by decide)).trans (by rw [State.fld_bump_off _ (by decide)])
  refine counted_of_reg hcount ?_
  cases corner with
  | true => exact State.winCorner_reg _ _ _ _ _
  | false => rfl

/-- A count of corners leaves the flows as they are. -/
theorem State.cornerCounted_flows (s : State) (p : Fin 8) (corner : Bool) (iet : Nat) :
    (s.cornerCounted p corner iet).fld (PG.chd p) R.CHD_CNT1 32 32 = s.fld (PG.chd p) R.CHD_CNT1 32 32 := by
  have hkept := State.fld_bump_off s (page := PG.chd p) (off := R.CHD_CNT0) (lo := 0) (n := 32) (r := R.CHD_CNT1) (lo' := 32) (n' := 32)
    (by decide)
  cases corner with
  | true =>
    have hwin := State.winCorner_reg ((s.bump (PG.chd p) R.CHD_CNT0 0 32).bump (PG.chd p) R.CHD_CNT1 0 32) p iet (PG.chd p) R.CHD_CNT1
    exact (congrArg (bf · 32 32) hwin).trans ((State.fld_setFld_other _ (.inr (by decide))).trans hkept)
  | false => exact hkept

theorem State.flowCounted_corners (s : State) (p : Fin 8) (flow : Bool) :
    (s.flowCounted p flow).fld (PG.chd p) R.CHD_CNT1 0 32 = s.fld (PG.chd p) R.CHD_CNT1 0 32 := by
  cases flow with
  | true => exact State.fld_setFld_other _ (.inl (by decide))
  | false => rfl

/-- R223, R226, R229: a test with its corner and its flow counted. -/
def State.testCounted (s : State) (p : Fin 8) (a : ArcRes) (f : FitRes) (iet : Nat) : State :=
  ((s.cornerCounted p a.corner iet).flowCounted p f.flow).fitCauses p f

theorem onlyCounts_testCounted (s : State) (p : Fin 8) (a : ArcRes) (f : FitRes) (iet : Nat) :
    OnlyCounts s (s.testCounted p a f iet) p [R.CHD_CNT0, R.CHD_CNT1, R.CHD_CNT2] :=
  ((onlyCounts_cornerCounted s p _ iet).mono (by decide)).trans
    (((onlyCounts_flowCounted _ p _).mono (by decide)).trans ((onlyCounts_fitCauses _ p f).mono (by decide)))

/-- R223, R226, R229: the counts of one test. -/
def TestCounts (s t : State) (p : Fin 8) (a : ArcRes) (f : FitRes) : Prop :=
  Counted s t (PG.chd p) R.CHD_CNT0 0 32 1 ∧ Counted s t (PG.chd p) R.CHD_CNT1 0 32 (b2n a.corner) ∧
    Counted s t (PG.chd p) R.CHD_CNT1 32 32 (b2n f.flow)

theorem State.testCounted_counts (s : State) (p : Fin 8) (a : ArcRes) (f : FitRes) (iet : Nat) :
    TestCounts s (s.testCounted p a f iet) p a f := by
  have hcauses : ∀ o, o < 0x10000 → o ∉ [R.CHD_CNT2] → (s.testCounted p a f iet).reg (PG.chd p) o =
      ((s.cornerCounted p a.corner iet).flowCounted p f.flow).reg (PG.chd p) o :=
    fun o ho hl => (onlyCounts_fitCauses _ p f).kept _ o ho (.inr hl)
  have hcnt1 := hcauses R.CHD_CNT1 (by decide) (by decide)
  refine ⟨?_, ?_, ?_⟩
  · refine counted_of_reg (State.cornerCounted_tests s p a.corner iet) ((hcauses _ (by decide) (by decide)).trans ?_)
    exact (onlyCounts_flowCounted _ p _).kept _ _ (by decide) (.inr (by decide))
  · refine counted_of_reg ?_ hcnt1
    rw [Counted, State.flowCounted_corners]
    exact State.cornerCounted_corners s p a.corner iet
  · refine counted_of_reg ?_ hcnt1
    rw [Counted, ← State.cornerCounted_flows s p a.corner iet]
    exact counted_ite_bump _ f.flow (by decide)

theorem TestCounts.congr {a : ArcRes} {f : FitRes} (h : TestCounts s t p a f) {s' t' : State}
    (hs : ∀ o, o < 0x10000 → s.reg (PG.chd p) o = s'.reg (PG.chd p) o)
    (h0 : t'.reg (PG.chd p) R.CHD_CNT0 = t.reg (PG.chd p) R.CHD_CNT0) (h1 : t'.reg (PG.chd p) R.CHD_CNT1 = t.reg (PG.chd p) R.CHD_CNT1) :
    TestCounts s' t' p a f := by
  simpa only [TestCounts, Counted, State.fld, h0, h1, hs _ (by decide : R.CHD_CNT0 < 0x10000), hs _ (by decide : R.CHD_CNT1 < 0x10000)] using h

/-! ### The label (R231) -/

theorem State.labelWrite_rest (s : State) (p : Fin 8) (o : Nat) (w : BitVec 32) (d : Int) (pol : Bool) (a : ArcRes) (f : FitRes) :
    s.labelWrite p o w d pol a f = { s with regs := (s.labelWrite p o w d pol a f).regs, sfs := (s.labelWrite p o w d pol a f).sfs } := by
  unfold State.labelWrite
  split <;> rfl

theorem pageKept_labelWrite (s : State) (p : Fin 8) (o : Nat) (w : BitVec 32) (d : Int) (pol : Bool) (a : ArcRes) (f : FitRes) :
    PageKept s (s.labelWrite p o w d pol a f) (PG.chd p) [R.CHD_CNT2] := by
  unfold State.labelWrite
  split
  · exact pageKept_refl s _ _
  · exact pageKept_setReg (pageKept_refl s _ _) (by decide) (by decide) _

/-! ### What a test finds (R224 to R232) -/

section
variable (s : State) (p : Fin 8) (e : ChdEvent)

/-- R224: the window of the event's test, and the state once it has been read. -/
def State.testWindow : List WinPix × State := s.chdWindow p none (bf e.word 32 11) (bf e.word 43 11) (s.extTime p e.ext)

/-- R226: what the arc test finds. -/
def State.testArc : ArcRes :=
  arcTest (s.reg (PG.chd p) R.CHD_CTL) (s.reg (PG.chd p) R.CHD_ARC) (s.toTicks p (bf (s.reg (PG.chd p) R.CHD_ARC) 32 16))
    (s.testWindow p e).1 (bitAt e.word 54)

/-- R228, R229: what the plane fit gives. -/
def State.testFit : FitRes :=
  let fit := s.reg (PG.chd p) R.CHD_FIT
  if s.bit (PG.chd p) R.CHD_CTL 1 then
    planeFit (fitSupport (s.toTicks p (bf fit 0 16)) (s.bit (PG.chd p) R.CHD_CTL 3) (bitAt e.word 54) (s.testWindow p e).1) (bf fit 16 5)
      (bf fit 32 8) (s.tick p)
  else { n := 0 }

/-- R224: the geometry clips the window. -/
def State.testEdge : Bool :=
  decide (bf e.word 32 11 < 4) || decide (bf e.word 43 11 < 4) || decide (s.geomW p < bf e.word 32 11 + 5) ||
    decide (s.geomH p < bf e.word 43 11 + 5)

/-- R232: the event's record. -/
def State.testRec : ChdRec where
  body := cornerRecord e.word (s.testArc p e) (s.testFit p e) (s.testEdge p e)
  admitted := e.admitted
  toLoc := (s.testArc p e).corner || s.bit (PG.chd p) R.CHD_CTL 5
  toRes := s.bit (PG.chd p) R.CHD_CTL 6

/-- R223: the test has been counted. -/
def State.testSeen : State := (s.testWindow p e).2.testCounted p (s.testArc p e) (s.testFit p e) (bf e.word 0 32)

/-- R231: and its label written, with LABEL_EN. -/
def State.testShown : State :=
  let x := bf e.word 32 11
  let y := bf e.word 43 11
  if s.bit (PG.chd p) R.CHD_CTL 7 then
    (s.testSeen p e).labelWrite p (s.pixOff p x y) (s.surfWord (s.pixOff p x y)) (s.extTime p e.ext) (bitAt e.word 54) (s.testArc p e)
      (s.testFit p e)
  else s.testSeen p e

/-- R223 to R232: a test by what it finds. The ticks are converted once the window has been read, which leaves TICK as it is. -/
theorem State.chdTest_shows : s.chdTest p none e =
    ((s.testShown p e).chdUpd p fun x => { x with out := x.out ++ [s.testRec p e] }).chdDrain p 65 := by
  have hsame : SameStore s (s.testWindow p e).2 := (storeLogged_chdWindow s p _ _ _).same
  have htick := hsame.tick p
  have hticks := hsame.toTicks p
  unfold State.testShown State.testSeen State.testRec State.testArc State.testFit State.testEdge
  simp only [← htick, ← hticks]
  generalize hread : s.testWindow p e = r
  rw [State.testWindow] at hread
  obtain ⟨win, u⟩ := r
  unfold State.chdTest
  dsimp only
  rw [hread]
  rfl

theorem State.testShown_rest : s.testShown p e = { s with
    regs := (s.testShown p e).regs, res := (s.testShown p e).res, sfs := (s.testShown p e).sfs } := by
  have hread : OnlyRegs s (s.testWindow p e).2 := (storeLogged_chdWindow s p _ _ _).rest
  have hseen : s.testSeen p e = { s with regs := (s.testSeen p e).regs, res := (s.testSeen p e).res } := by
    rw [State.testSeen, (onlyCounts_testCounted _ p _ _ _).rest, hread]
  unfold State.testShown
  dsimp only
  split
  · rw [State.labelWrite_rest, hseen]
  · rw [hseen]

/-- Reading the window writes no register of a Chord unit. -/
theorem State.testWindow_reg {o : Nat} (ho : o < 0x10000) : (s.testWindow p e).2.reg (PG.chd p) o = s.reg (PG.chd p) o :=
  (storeLogged_chdWindow s p _ _ _).same.besideReg (by unfold PG.chd PG.sfs; omega) ho

theorem State.testShown_counts : TestCounts s (s.testShown p e) p (s.testArc p e) (s.testFit p e) := by
  have hlabel : ∀ o, o < 0x10000 → o ∉ [R.CHD_CNT2] → (s.testShown p e).reg (PG.chd p) o = (s.testSeen p e).reg (PG.chd p) o := by
    intro o ho hl
    unfold State.testShown
    dsimp only
    split
    · exact pageKept_labelWrite _ p _ _ _ _ _ _ _ o ho (.inr hl)
    · rfl
  exact (State.testCounted_counts _ p _ _ _).congr (fun o => State.testWindow_reg s p e) (hlabel _ (by decide) (by decide))
    (hlabel _ (by decide) (by decide))

/-- R231: without LABEL_EN a test writes no word. -/
theorem State.testShown_unlabelled (h : s.bit (PG.chd p) R.CHD_CTL 7 = false) : (s.testShown p e).sfs.words = s.sfs.words := by
  have hread : OnlyRegs s (s.testWindow p e).2 := (storeLogged_chdWindow s p _ _ _).rest
  unfold State.testShown
  dsimp only
  rw [if_neg (by rw [h]; decide), State.testSeen, (onlyCounts_testCounted _ p _ _ _).rest, hread]

end

/-! ### The output queue (R232, R241) -/

@[simp] theorem State.chdUpd_get (s : State) (p : Fin 8) (f : ChdState → ChdState) : (s.chdUpd p f).chd.get p = f (s.chd.get p) :=
  vupd_get_self _ _ _

theorem State.chdUpd_get_ne (s : State) {p q : Fin 8} (f : ChdState → ChdState) (h : q ≠ p) : (s.chdUpd p f).chd.get q = s.chd.get q :=
  vupd_get_ne _ _ h

theorem State.chdDrain_empty (h : (s.chd.get p).out = []) (n : Nat) : s.chdDrain p n = s := by
  cases n with
  | zero => rfl
  | succ n => rw [State.chdDrain, h]

/-- R232: the output queue of unit `p` is empty again. -/
def State.outEmptied (s : State) (p : Fin 8) : State := s.chdUpd p fun x => { x with out := [] }

/-- R241: only the tracker and its counters of port `p` change when a record enters the port's input. -/
theorem State.locPush_rest (s : State) (p : Fin 8) (r : ChdRec) :
    s.locPush p r = { s with regs := (s.locPush p r).regs, loc := (s.locPush p r).loc } := by
  unfold State.locPush
  dsimp only
  split <;> rfl

/-- R232, R241: the only record of the output queue goes where it has to, the tracker having room. -/
theorem State.chdDrain_one {r : ChdRec} (hout : (s.chd.get p).out = [r]) (hres : r.toRes = false)
    (hroom : s.alive PG.loc = true ∧ (s.loc.inputs.get p).length < 128) (n : Nat) :
    s.chdDrain p (n + 1) = if r.toLoc then (s.outEmptied p).locPush p r else s.outEmptied p := by
  obtain ⟨halive, hlen⟩ := hroom
  have hgoes : ¬ (r.toLoc && (!s.alive PG.loc || decide (128 ≤ (s.loc.inputs.get p).length))) = true := by simp [halive, hlen]
  have hempty : ((s.outEmptied p).chd.get p).out = [] := by rw [State.outEmptied, State.chdUpd_get]
  rw [State.chdDrain, hout]
  dsimp only
  rw [if_neg hgoes]
  simp only [hres, Bool.false_eq_true, if_false]
  cases r.toLoc with
  | true =>
    refine State.chdDrain_empty ?_ n
    rw [if_pos rfl, State.locPush_rest]
    exact hempty
  | false => exact State.chdDrain_empty hempty n

theorem State.locPush_inputs (s : State) (p : Fin 8) (r : ChdRec) : ∃ l : LocRec,
    (s.locPush p r).loc.inputs.get p = s.loc.inputs.get p ++ [l] ∧ l.body = r.body ∧ l.admitted = r.admitted := by
  unfold State.locPush
  dsimp only
  split <;> exact ⟨_, vupd_get_self _ _ _, rfl, rfl⟩

theorem PG.chd_ne_loc (p : Fin 8) : PG.chd p ≠ PG.loc := by
  unfold PG.chd PG.loc
  omega

theorem State.locPush_reg (s : State) (p : Fin 8) (r : ChdRec) {o : Nat} (ho : o < 0x10000) :
    (s.locPush p r).reg (PG.chd p) o = s.reg (PG.chd p) o := by
  have hset : ∀ (u : State) {o'} (v : Word), o' < 0x10000 → (u.setReg PG.loc o' v).reg (PG.chd p) o = u.reg (PG.chd p) o :=
    fun u _ v ho' => State.reg_setReg_ne u v (rkey_ne ho' ho (.inl (PG.chd_ne_loc p)))
  have hcnt0 := hset s (putFld (s.reg PG.loc (R.LOC_P_CNT0 p)) 0 32 (min (2 ^ 32 - 1) (s.fld PG.loc (R.LOC_P_CNT0 p) 0 32 + 1)))
    (by unfold R.LOC_P_CNT0; omega : R.LOC_P_CNT0 p < 0x10000)
  unfold State.locPush
  dsimp only
  split
  · exact (hset _ _ (by unfold R.LOC_P_CNT1; omega)).trans hcnt0
  · exact hcnt0

/-! ### The test as a whole (R223) -/

/-- R223: the oldest event has left the input queue. -/
def State.eventTaken (s : State) (p : Fin 8) (r : List ChdEvent) : State := s.chdUpd p fun x => { x with q := r }

/-- R232: the record goes to the tracker, or nowhere. -/
def State.recordHanded (s : State) (p : Fin 8) (r : ChdRec) : State := if r.toLoc then s.locPush p r else s

theorem State.recordHanded_rest (s : State) (p : Fin 8) (r : ChdRec) :
    s.recordHanded p r = { s with regs := (s.recordHanded p r).regs, loc := (s.recordHanded p r).loc } := by
  unfold State.recordHanded
  split
  · exact State.locPush_rest s p r
  · rfl

theorem State.recordHanded_reg (s : State) (p : Fin 8) (r : ChdRec) {o : Nat} (ho : o < 0x10000) :
    (s.recordHanded p r).reg (PG.chd p) o = s.reg (PG.chd p) o := by
  unfold State.recordHanded
  split
  · exact State.locPush_reg s p r ho
  · rfl

section
variable {e : ChdEvent} {r : List ChdEvent}

/-- The state behind the test of `e`, which has left the queue `r` behind it. -/
def State.chordTested (s : State) (p : Fin 8) (e : ChdEvent) (r : List ChdEvent) : State :=
  ((((s.eventTaken p r).testShown p e).chdUpd p fun x => { x with out := x.out ++ [s.testRec p e] }).outEmptied p).recordHanded p
    (s.testRec p e)

theorem State.testWindow_eventTaken : ((s.eventTaken p r).testWindow p e).1 = (s.testWindow p e).1 :=
  (sameStore_chdUpd s p _).chdWindow p _ _ _

/-- The test does not depend on the events that wait behind. -/
theorem State.testFinds_eventTaken : (s.eventTaken p r).testArc p e = s.testArc p e ∧ (s.eventTaken p r).testFit p e = s.testFit p e ∧
    (s.eventTaken p r).testRec p e = s.testRec p e := by
  have harc : (s.eventTaken p r).testArc p e = s.testArc p e := by
    rw [State.testArc, State.testWindow_eventTaken]
    rfl
  have hfit : (s.eventTaken p r).testFit p e = s.testFit p e := by
    rw [State.testFit, State.testWindow_eventTaken]
    rfl
  refine ⟨harc, hfit, ?_⟩
  rw [State.testRec, harc, hfit]
  rfl

theorem exec_chordTest_waits (hout : (s.chd.get p).out = []) (h : (s.chd.get p).q = [] ∨ s.alive PG.sfs = false) :
    exec (.chordTest p none) s = .next s := by
  have hstay : s.chdStart p none = s := by
    rw [State.chdStart, State.chdDrain_empty hout]
    rcases h with hq | hoff
    · rw [hq]
    · split
      · rfl
      · rw [if_neg (by rw [hoff, Bool.and_false, Bool.false_and]; decide)]
  rw [exec_chordTest, execChordTest, hstay, State.ends_self]

section
variable (hout : (s.chd.get p).out = [])
include hout

theorem State.chdStart_takes (hq : (s.chd.get p).q = e :: r) (hruns : s.running (PG.chd p) = true) (hsfs : s.alive PG.sfs = true) :
    s.chdStart p none = (s.eventTaken p r).chdTest p none e := by
  rw [State.chdStart, State.chdDrain_empty hout, hq]
  exact if_pos (by rw [hruns, hsfs, hout]; rfl)

/-- R223, R232: with the output queue empty and room in the tracker's input, the record is handed on at once. -/
theorem State.chdTest_hands (hres : s.bit (PG.chd p) R.CHD_CTL 6 = false)
    (hroom : s.alive PG.loc = true ∧ (s.loc.inputs.get p).length < 128) :
    (s.eventTaken p r).chdTest p none e = s.chordTested p e r := by
  have hrest := State.testShown_rest (s.eventTaken p r) p e
  obtain ⟨-, -, hrec⟩ := State.testFinds_eventTaken (s := s) (p := p) (e := e) (r := r)
  have hwaits : ((s.eventTaken p r).testShown p e).chd.get p = { q := r, out := [] } := by
    rw [hrest, State.eventTaken, State.chdUpd_get, hout]
  rw [State.chdTest_shows, hrec]
  refine State.chdDrain_one ?_ hres ?_ 64
  · rw [State.chdUpd_get, hwaits, List.nil_append]
  · rw [hrest]
    exact hroom

end

theorem State.chordTested_rest : s.chordTested p e r = { s with
    regs := (s.chordTested p e r).regs, res := (s.chordTested p e r).res, sfs := (s.chordTested p e r).sfs,
    loc := (s.chordTested p e r).loc, chd := (s.chordTested p e r).chd } := by
  rw [State.chordTested, State.recordHanded_rest, State.testShown_rest]
  rfl

theorem State.chordTested_chd : (s.chordTested p e r).chd = (((s.eventTaken p r).chdUpd p
    fun x => { x with out := x.out ++ [s.testRec p e] }).outEmptied p).chd := by
  rw [State.chordTested, State.recordHanded_rest, State.testShown_rest]
  rfl

theorem State.chordTested_unit : (s.chordTested p e r).chd.get p = { q := r, out := [] } := by
  rw [State.chordTested_chd, State.outEmptied, State.chdUpd_get, State.chdUpd_get, State.eventTaken, State.chdUpd_get]

theorem State.chordTested_others {q : Fin 8} (h : q ≠ p) : (s.chordTested p e r).chd.get q = s.chd.get q := by
  rw [State.chordTested_chd, State.outEmptied, State.chdUpd_get_ne _ _ h, State.chdUpd_get_ne _ _ h, State.eventTaken,
    State.chdUpd_get_ne _ _ h]

theorem State.chordTested_counts : TestCounts s (s.chordTested p e r) p (s.testArc p e) (s.testFit p e) := by
  obtain ⟨harc, hfit, -⟩ := State.testFinds_eventTaken (s := s) (p := p) (e := e) (r := r)
  have hcounts := State.testShown_counts (s.eventTaken p r) p e
  rw [harc, hfit] at hcounts
  exact hcounts.congr (fun _ _ => rfl) (State.recordHanded_reg _ p _ (by decide)) (State.recordHanded_reg _ p _ (by decide))

theorem State.chordTested_words (h : s.bit (PG.chd p) R.CHD_CTL 7 = false) : (s.chordTested p e r).sfs.words = s.sfs.words := by
  rw [State.chordTested, State.recordHanded_rest]
  exact State.testShown_unlabelled (s.eventTaken p r) p e h

/-- R241: a record for the tracker stands at the end of the port's input. -/
theorem State.chordTested_forwards (h : (s.testRec p e).toLoc = true) : ∃ l : LocRec,
    (s.chordTested p e r).loc.inputs.get p = s.loc.inputs.get p ++ [l] ∧ l.body = (s.testRec p e).body ∧ l.admitted = e.admitted := by
  rw [State.chordTested, State.recordHanded, if_pos h, State.testShown_rest]
  exact State.locPush_inputs _ p _

theorem State.chordTested_keeps (h : (s.testRec p e).toLoc = false) : (s.chordTested p e r).loc = s.loc := by
  rw [State.chordTested, State.recordHanded, if_neg (by rw [h]; decide), State.testShown_rest]
  rfl

theorem exec_chordTest_takes (hout : (s.chd.get p).out = []) (hres : s.bit (PG.chd p) R.CHD_CTL 6 = false)
    (hq : (s.chd.get p).q = e :: r) (hruns : s.running (PG.chd p) = true) (hsfs : s.alive PG.sfs = true)
    (hroom : s.alive PG.loc = true ∧ (s.loc.inputs.get p).length < 128) :
    exec (.chordTest p none) s = .next (s.chordTested p e r) := by
  rw [exec_chordTest, execChordTest, State.chdStart_takes hout hq hruns hsfs, State.chdTest_hands hout hres hroom]
  exact State.ends_of (by rw [State.chordTested_rest]) (by rw [State.chordTested_rest])

end

end

/-- Settles O26: with no event or no store the unit waits; else the window's words decide the corner and the flow, and the record goes by
the corner and FWD_ALL. -/
theorem chordTestTakesOldestEvent : Obligations.ChordTestTakesOldestEvent := by
  intro p s hout hres
  refine ⟨exec_chordTest_waits hout, fun e r hq hruns hsfs hloc hlen => ?_⟩
  obtain ⟨htests, hcorners, hflows⟩ := State.chordTested_counts (s := s) (p := p) (e := e) (r := r)
  exact ⟨_, exec_chordTest_takes hout hres hq hruns hsfs ⟨hloc, hlen⟩, by rw [State.chordTested_unit], by rw [State.chordTested_unit],
    htests, hcorners, hflows, State.chordTested_forwards, State.chordTested_keeps, State.chordTested_words,
    by rw [State.chordTested_rest], by rw [State.chordTested_rest], fun _ => State.chordTested_others⟩

end Sys2Proof.Machine
end

section
/-!
PROOFS. Ranges stored as zeros (R261, R462): what a byte reads inside and outside of one.
-/

namespace Sys2Proof.Machine

/-- A list of entries kept by their keys lists what it did under those keys, and nothing under the others. -/
theorem Sp.find_filter_key {α : Type} (m : List (Nat × α)) (f : Nat → Bool) (k : Nat) :
    Sp.find (m.filter fun c => f c.1) k = if f k then Sp.find m k else none := by
  induction m with
  | nil => exact (ite_self _).symm
  | cons c m ih =>
    obtain ⟨j, v⟩ := c
    by_cases hjk : j = k
    · subst hjk
      cases hf : f j <;> simp [Sp.find, hf, ih]
    · cases hf : f j <;> simp [Sp.find, hf, ih, hjk]

section
variable {m : MemState} {a e x : Nat}

theorem MemState.zero_merge (m : MemState) (a e : Nat) : (m.zero a e).merge = m.merge := by
  unfold MemState.zero
  split <;> rfl

/-- A byte of a range stored as zeros reads 0, and every other byte as before. -/
theorem MemState.byte?_zero (h : m.wf = true) : (m.zero a e).byte? x = if a ≤ x ∧ x < e then some 0 else m.byte? x := by
  obtain ⟨-, -, hok, -⟩ := (MemState.wf_iff m).mp h
  have hcell := Sp.find_filter_key m.cells (fun k => decide (k < a) || decide (e ≤ k)) x
  unfold MemState.zero
  split
  · next hae =>
    by_cases hin : a ≤ x ∧ x < e
    · have hleft : (decide (x < a) || decide (e ≤ x)) = false := by simp [hin]
      simp [MemState.byte?, hcell, hleft, (Iv.has_add hok hae x).mpr (.inl hin), hin]
    · have hleft : (decide (x < a) || decide (e ≤ x)) = true := by
        simp only [Bool.or_eq_true, decide_eq_true_eq]
        omega
      simp [MemState.byte?, hcell, hleft, Iv.has_eq ((Iv.has_add hok hae x).trans (or_iff_right hin)), hin]
  · rw [if_neg (by omega)]

end

section
variable {s : State}

/-- R261, R454: with no gathered write to flush and the stack online, zeros are stored in the range at once. -/
theorem State.zeroRange_ungathered (honline : s.hbmOffline = false) (hmerge : ∀ pc : Fin 32, s.mem.merge.get pc = []) (a e : Nat) :
    s.zeroRange a e = { s with mem := s.mem.zero a e } := by
  have hflush : (List.finRange 32).foldl (fun s (pc : Fin 32) =>
      ((s.mem.merge.get pc).filter fun m => decide (a ≤ m.word) && decide (m.word < e)).foldl (fun s m => s.flushWord m.word) s) s = s :=
    foldl_of_fixed fun pc _ => by rw [hmerge pc]; rfl
  rw [State.zeroRange, honline, Bool.and_false, if_neg (by decide)]
  dsimp only
  rw [hflush]

end

end Sys2Proof.Machine
end

section
/-!
PROOFS. Obligation O28: CLEAR and FLUSH of the tracker's tables (R254, R261, R431).
-/

namespace Sys2Proof.Machine

section
variable {s : State}

/-! ### LOC_CMD (R261) -/

theorem State.locWrite_cmd {w : Wr} (h : w.reg = R.LOC_CMD) : s.locWrite w =
    if bitAt w.val 0 then s.locClear w (bf w.val 2 6) else if bitAt w.val 1 then s.locFlush else s := if_pos h

theorem exec_locClear_writable (hw : Writable s PG.loc) (ini : Initiator) :
    exec (.locClear ini) s = s.ends (s.locClear (.full ini R.LOC_CMD 1) 0) := by
  rw [exec_locClear, execLocClear, State.locWr, State.gate_writable hw, State.locWrite_cmd (Wr.full_reg ..), Wr.full_val, if_pos (by decide)]
  rfl

theorem exec_locFlush_writable (hw : Writable s PG.loc) (ini : Initiator) : exec (.locFlush ini) s = s.ends s.locFlush := by
  rw [exec_locFlush, execLocFlush, State.locWr, State.gate_writable hw, State.locWrite_cmd (Wr.full_reg ..), Wr.full_val, if_neg (by decide),
    if_pos (by decide)]

/-! ### The start of CLEAR (R261, R431) -/

theorem exec_locClear_busy (hw : Writable s PG.loc) (hrun : s.loc.clearing.isSome = true) (ini : Initiator) :
    exec (.locClear ini) s = .next (s.logWr PG.loc (.full ini R.LOC_CMD 1) .busy) := by
  rw [exec_locClear_writable hw, State.locClear, if_pos hrun]
  exact ends_of_onlyRegs (onlyRegs_logWr s _ _ _)

theorem exec_locClear_ledgerFull (hw : Writable s PG.loc) (hidle : s.loc.clearing = none) (hfull : s.itemFree .ordinary = false)
    (ini : Initiator) : exec (.locClear ini) s = .next (s.ledgerFull PG.loc (.full ini R.LOC_CMD 1)) := by
  rw [exec_locClear_writable hw, State.locClear, if_neg (by simp [hidle]), if_pos (by simp [hfull])]
  exact ends_of_onlyRegs (onlyRegs_ledgerFull s _ _)

theorem exec_locClear_invalid (hw : Writable s PG.loc) (hidle : s.loc.clearing = none) (hfree : s.itemFree .ordinary = true)
    (hbad : s.enabled PG.loc = true ∨ s.locBasesBad = true) (ini : Initiator) :
    exec (.locClear ini) s = s.ends (s.emptyJob PG.loc 0 .failInvalid 0) := by
  rw [exec_locClear_writable hw, State.locClear, if_neg (by simp [hidle]), if_neg (by simp [hfree]), if_pos hbad]

theorem exec_locClear_opens (hw : Writable s PG.loc) (hidle : s.loc.clearing = none) (hfree : s.itemFree .ordinary = true)
    (hoff : s.enabled PG.loc = false) (hbases : s.locBasesBad = false) (ini : Initiator) :
    ∃ t i, exec (.locClear ini) s = .next t ∧ t.loc.clearing = some { item := i, tbl := s.locTbl, obj := s.locObj } ∧
      Opened s t PG.loc 0 i ∧ t.bit PG.loc R.LOC_STS 1 = true ∧
      t = { s with ldg := t.ldg, loc := t.loc, regs := t.regs, free := t.free } ∧ PageKept s t PG.loc [R.LOC_STS] := by
  rw [exec_locClear_writable hw, State.locClear, if_neg (by simp [hidle]), if_neg (by simp [hfree]), if_neg (by simp [hoff, hbases])]
  simp only [State.openItem_eq]
  exact ⟨_, _, State.ends_of rfl rfl, rfl, opened_withItem s PG.loc 0, State.bit_setBit_self _ _ _ _ _ (by decide), rfl,
    pageKept_setReg (pageKept_of_regs (pageKept_refl s _ _) rfl) (by decide) List.mem_cons_self _⟩

/-! ### FLUSH (R261) -/

theorem State.locFlush_empty (htbl : s.usedSlots s.locTbl locusSlots = []) (hobj : s.usedSlots s.locObj locusObjects = [])
    (hcounted : s.loc.counted = []) : s.locFlush = s := by
  have hself : (s.locUpd fun x => { x with counted := [] }) = s := by rw [State.locUpd, ← hcounted]
  rw [State.locFlush]
  dsimp only
  rw [hself, htbl, List.foldl_nil, hobj, List.foldl_nil]

/-- R254, R261: the one live track that is stored or cached is retired. -/
theorem State.locFlush_single {i : Nat} {q : Nat × Bool × State} (htbl : s.usedSlots s.locTbl locusSlots = [i])
    (hq : State.ctxLook { s with loc := { s.loc with counted := [] } } i (s.slotAddr i) = q) (hgood : q.2.1 = false)
    (hlive : (Track.ofSlot q.1).st ≠ 0)
    (hobj : (q.2.2.retire true i (Track.ofSlot q.1) 4 0 false).usedSlots (q.2.2.retire true i (Track.ofSlot q.1) 4 0 false).locObj
      locusObjects = []) : s.locFlush = q.2.2.retire true i (Track.ofSlot q.1) 4 0 false := by
  have hused : (s.locUpd fun x => { x with counted := [] }).usedSlots (s.locUpd fun x => { x with counted := [] }).locTbl locusSlots = [i] :=
    htbl
  have hlook : (s.locUpd fun x => { x with counted := [] }).ctxLook i ((s.locUpd fun x => { x with counted := [] }).slotAddr i) = q := hq
  rw [State.locFlush]
  dsimp only
  rw [hused]
  simp only [List.foldl_cons, List.foldl_nil, hlook, hgood, Bool.false_eq_true, if_false, if_neg hlive, hobj]

/-! ### CLEAR completes (R261) -/

section
variable {c : LocClear}

/-- R261: both tables hold zeros, and of the tracker's own state nothing is left but what waits. -/
def State.tablesCleared (s : State) (c : LocClear) : State :=
  { s with
    mem := (s.mem.zero c.tbl (c.tbl + 64 * locusSlots)).zero c.obj (c.obj + 64 * locusObjects)
    loc := { s.loc with clearing := none, cache := [], victims := [], gather := [], retired := [], poisoned := [] } }

/-- R261: the registers show cleared tables. -/
def State.clearShown (s : State) (c : LocClear) : State :=
  ((((s.tablesCleared c).setReg PG.loc R.LOC_ID 0x0000_0001_0000_0001).setReg PG.loc R.LOC_LIVE 0).setBit PG.loc R.LOC_STS 1 false).setBit
    PG.loc R.LOC_STS 0 c.fresh

theorem State.locClearDone_eq (hc : s.loc.clearing = some c) (honline : s.hbmOffline = false)
    (hmerge : ∀ pc : Fin 32, s.mem.merge.get pc = []) : s.locClearDone = (s.clearShown c).closeItem c.item .ok 0 := by
  have hmem : ∀ m : MemState, ({ s with mem := m } : State).hbmOffline = false := fun _ => honline
  have htbl := State.zeroRange_ungathered honline hmerge c.tbl (c.tbl + 64 * locusSlots)
  have hobj := State.zeroRange_ungathered (hmem (s.mem.zero c.tbl (c.tbl + 64 * locusSlots)))
    (fun pc => by rw [MemState.zero_merge]; exact hmerge pc) c.obj (c.obj + 64 * locusObjects)
  simp only [State.locClearDone, hc, htbl, hobj, State.clearShown, State.tablesCleared, State.locUpd]

theorem State.clearShown_shows (s : State) (c : LocClear) :
    (s.clearShown c).reg PG.loc R.LOC_ID = 0x0000_0001_0000_0001 ∧ (s.clearShown c).reg PG.loc R.LOC_LIVE = 0 ∧
      (s.clearShown c).bit PG.loc R.LOC_STS 0 = c.fresh ∧ (s.clearShown c).bit PG.loc R.LOC_STS 1 = false := by
  refine ⟨?_, ?_, State.bit_setBit_self _ _ _ _ _ (by decide), ?_⟩
  · rw [State.clearShown, State.reg_setBit_off _ (by decide), State.reg_setBit_off _ (by decide), State.reg_setReg_off _ _ (by decide),
      State.reg_setReg_self]
  · rw [State.clearShown, State.reg_setBit_off _ (by decide), State.reg_setBit_off _ (by decide), State.reg_setReg_self]
  · rw [State.clearShown, State.bit_setBit_ne _ (by decide), State.bit_setBit_self _ _ _ _ _ (by decide)]

/-- R237: an address of one of the two tables that CLEAR zeroes. -/
def LocClear.holds (c : LocClear) (a : Nat) : Prop :=
  (c.tbl ≤ a ∧ a < c.tbl + 64 * locusSlots) ∨ (c.obj ≤ a ∧ a < c.obj + 64 * locusObjects)

theorem State.tablesCleared_byte (hwf : s.mem.wf = true) (a : Nat) :
    (c.holds a → (s.tablesCleared c).mem.byte? a = some 0) ∧ (¬ c.holds a → (s.tablesCleared c).mem.byte? a = s.mem.byte? a) := by
  have hobj := MemState.byte?_zero (x := a) (a := c.obj) (e := c.obj + 64 * locusObjects) (MemState.wf_zero hwf c.tbl (c.tbl + 64 * locusSlots))
  have htbl := MemState.byte?_zero (x := a) (a := c.tbl) (e := c.tbl + 64 * locusSlots) hwf
  rw [htbl] at hobj
  refine ⟨fun ha => hobj.trans ?_, fun ha => hobj.trans ?_⟩
  · rcases ha with ha | ha
    · rw [if_pos ha, ite_self]
    · rw [if_pos ha]
  · obtain ⟨hnotTbl, hnotObj⟩ := not_or.mp ha
    rw [if_neg hnotObj, if_neg hnotTbl]

theorem exec_locClearDone_stale (h : s.loc.clearing = none) : exec .locClearDone s = .next (s.staleReply PG.loc) := by
  rw [exec_locClearDone, execLocClearDone, h]
  exact ends_staleReply s _

theorem exec_locClearDone_clears (hc : s.loc.clearing = some c) (hrun : Running s c.item) (hwf : s.mem.wf = true)
    (hmerge : ∀ pc : Fin 32, s.mem.merge.get pc = []) (honline : s.hbmOffline = false) :
    ∃ t, exec .locClearDone s = .next t ∧ t.loc.clearing = none ∧ t.loc.cache = [] ∧ (∀ a, c.holds a → t.mem.byte? a = some 0) ∧
      (∀ a, ¬ c.holds a → t.mem.byte? a = s.mem.byte? a) ∧
      t.reg PG.loc R.LOC_ID = 0x0000_0001_0000_0001 ∧ t.reg PG.loc R.LOC_LIVE = 0 ∧ t.bit PG.loc R.LOC_STS 0 = c.fresh ∧
      t.bit PG.loc R.LOC_STS 1 = false ∧ Completed s t c.item .ok 0 := by
  obtain ⟨hid, hlive, hready, hbusy⟩ := State.clearShown_shows s c
  have hrest : s.decided s.locClearDone =
      { s.clearShown c with ldg := (s.decided s.locClearDone).ldg, res := (s.decided s.locClearDone).res } := by
    rw [State.decided_rest, State.locClearDone_eq hc honline hmerge, State.closeItem_rest]
  have hdone : Completed s (s.decided s.locClearDone) c.item .ok 0 := by
    rw [State.locClearDone_eq hc honline hmerge]
    exact completed_decided (Running.completed (s := s.clearShown c) hrun .ok 0)
  have hexec : exec .locClearDone s = .next (s.decided s.locClearDone) := by
    rw [exec_locClearDone, execLocClearDone, hc, Option.isSome_some, State.replied_true]
    exact State.ends_of (by rw [hrest]; rfl) (by rw [hrest]; rfl)
  exact ⟨_, hexec, by rw [hrest]; rfl, by rw [hrest]; rfl, fun a => by rw [hrest]; exact (State.tablesCleared_byte hwf a).1,
    fun a => by rw [hrest]; exact (State.tablesCleared_byte hwf a).2, by rw [hrest]; exact hid, by rw [hrest]; exact hlive,
    by rw [hrest]; exact hready, by rw [hrest]; exact hbusy, hdone⟩
end

end

/-- Settles O28: the start of a CLEAR by its checks, its end by what the tables and the registers then hold, a FLUSH by the tracks that
are stored or cached. That READY needs bases not written since the start is the model's choice (log 218). -/
theorem trackerClearAndFlush : Obligations.TrackerClearAndFlush := by
  refine ⟨fun ini s hw => ⟨fun h => exec_locClear_busy hw h ini, fun h hfull => exec_locClear_ledgerFull hw h hfull ini,
    fun h hfree hbad => ?_, fun h hfree hoff hbases => exec_locClear_opens hw h hfree hoff hbases ini, fun htbl hobj hcounted => ?_,
    fun i htbl => ?_⟩, fun s h => exec_locClearDone_stale h,
    fun s c hc hrun hwf hmerge honline => exec_locClearDone_clears hc hrun hwf hmerge honline⟩
  · rw [exec_locClear_invalid hw h hfree hbad]
    exact ends_emptyJob hfree _ _ _ _
  · rw [exec_locFlush_writable hw, State.locFlush_empty htbl hobj hcounted]
    exact State.ends_self s
  · intro q u e hgood hlive hobj
    rw [exec_locFlush_writable hw, State.locFlush_single htbl rfl hgood hlive hobj]
    exact ⟨_, rfl, rfl, rfl, rfl⟩

end Sys2Proof.Machine
end

section
/-!
PROOFS. What the results unit writes for a port (R443, R444, R448): records leave the chains of the ports and the handshake of the unit.
-/

namespace Sys2Proof.Machine

/-- Nothing changes but the memory, the free values, the marks of poisoned items, registers, and of the results unit its rings and
batches: the chains stand, and so does the unit's handshake. -/
structure OnlyRecords (s t : State) : Prop where
  rest : t = { s with regs := t.regs, mem := t.mem, ldg := t.ldg, free := t.free, res := t.res }
  chains : t.res.chains = s.res.chains
  handshake : t.reg PG.res R.PG_PWR = s.reg PG.res R.PG_PWR

theorem onlyRecords_refl (s : State) : OnlyRecords s s := ⟨rfl, rfl, rfl⟩

section
variable {s t u : State}

theorem onlyRecords_onlyMem (h : OnlyRecords s t) (k : OnlyMem t u) : OnlyRecords s u where
  rest := by rw [k.rest, h.rest]
  chains := by rw [k.rest, ← h.chains]
  handshake := (k.kept PG.res R.PG_PWR (by decide) (by decide)).trans h.handshake

theorem onlyRecords_setReg (h : OnlyRecords s t) {o : Nat} (ho : o ≠ R.PG_PWR) (v : Word) : OnlyRecords s (t.setReg PG.res o v) where
  rest := by rw [h.rest]; rfl
  chains := h.chains
  handshake := (State.reg_setReg_off t v ho.symm).trans h.handshake

theorem onlyRecords_res (h : OnlyRecords s t) {x : ResState} (hx : x.chains = t.res.chains) : OnlyRecords s { t with res := x } where
  rest := by rw [h.rest]
  chains := hx.trans h.chains
  handshake := h.handshake

theorem onlyRecords_ite (h : OnlyRecords s t) (k : OnlyRecords s u) (c : Prop) [Decidable c] : OnlyRecords s (if c then t else u) := by
  split
  · exact h
  · exact k

theorem onlyRecords_snd_ite {α : Type} {x y : α × State} (c : Prop) [Decidable c] (h : OnlyRecords s x.2) (k : OnlyRecords s y.2) :
    OnlyRecords s (if c then x else y).2 := by
  split
  · exact h
  · exact k

theorem onlyRecords_ringPut (h : OnlyRecords s t) (base size pos : Nat) (bs : List Byte) : OnlyRecords s (t.ringPut base size pos bs) := by
  have hput := onlyRecords_onlyMem h (onlyMem_writeBytes (onlyMem_refl t) none (base + pos % size) (bs.take (size - pos % size)))
  unfold State.ringPut
  exact onlyRecords_ite hput (onlyRecords_onlyMem hput (onlyMem_writeBytes (onlyMem_refl _) none base _)) _

theorem RING_HEAD_ne (k : Fin 32) : R.RING_HEAD k ≠ R.PG_PWR := by
  unfold R.RING_HEAD R.PG_PWR
  omega

theorem RING_CNT_ne (k : Fin 32) : R.RING_CNT k ≠ R.PG_PWR := by
  unfold R.RING_CNT R.PG_PWR
  omega

theorem onlyRecords_writeRecord (h : OnlyRecords s t) (ty : RecType) (port : Option (Fin 8)) (win : Nat) (body : List Byte) :
    OnlyRecords s (t.writeRecord ty port win body).2 := by
  have hraw : R.PG_IRQ_RAW ≠ R.PG_PWR := by decide
  have hcnt0 : R.RES_CNT0 ≠ R.PG_PWR := by decide
  unfold State.writeRecord
  dsimp only
  refine onlyRecords_snd_ite _ h (onlyRecords_snd_ite _ (onlyRecords_setReg h hcnt0 _) (onlyRecords_snd_ite _ ?_ ?_))
  · refine onlyRecords_ite (onlyRecords_res (onlyRecords_ite (onlyRecords_setReg ?_ hraw _) ?_ _) (by rfl))
      (onlyRecords_ite (onlyRecords_setReg ?_ hraw _) ?_ _) _
    all_goals
      exact onlyRecords_setReg (onlyRecords_setReg (onlyRecords_setReg (onlyRecords_ringPut (onlyRecords_res h (by rfl)) _ _ _ _)
        (RING_HEAD_ne _) _) (RING_CNT_ne _) _) hcnt0 _
  · exact onlyRecords_setReg (onlyRecords_setReg (onlyRecords_res h (by rfl)) (RING_CNT_ne _) _) hraw _

theorem onlyRecords_flushBatch (h : OnlyRecords s t) (p : Fin 8) (k : BatchKind) : OnlyRecords s (t.flushBatch p k) := by
  unfold State.flushBatch
  exact onlyRecords_ite h (onlyRecords_writeRecord (onlyRecords_res h (by rfl)) _ _ _ _) _

theorem onlyRecords_batchAdd (h : OnlyRecords s t) (p : Fin 8) (k : BatchKind) (win : Nat) (entry : List Byte) :
    OnlyRecords s (t.batchAdd p k win entry) := by
  unfold State.batchAdd
  refine onlyRecords_ite h (onlyRecords_ite (onlyRecords_flushBatch ?_ _ _) ?_ _) _
  all_goals exact onlyRecords_res h (by rfl)

end
end Sys2Proof.Machine
end

section
/-!
PROOFS. What the tracker's accesses and the binding of a window's boxes leave (R239, R242, R256, R258): they change the memory, the
tracker, the link to a twin, and the records of the results unit. The other blocks stand as they were, and the chains of the ports too.
-/

namespace Sys2Proof.Machine

/-! ### Memory, beside the tracker (R458, R460) -/

section
variable {s t : State}

theorem onlyMem_poisonWord (h : OnlyMem s t) (w ws : Nat) :
    OnlyMem s (if t.wordWritten w then { t with mem := { t.mem with errs := Sp.insert t.mem.errs w .poison } }
      else t.takeFree.2.storeWord w (t.takeFree.2.wordBytes w ws t.takeFree.1) (some .poison)) := by
  split
  · exact onlyMem_mem h _
  · exact onlyMem_storeWord (onlyMem_takeFree h) _ _ _

theorem onlyMem_poisonRange (h : OnlyMem s t) (a n : Nat) : OnlyMem s (t.poisonRange a n) := by
  unfold State.poisonRange
  dsimp only
  split
  · exact h
  · refine foldl_keeps (OnlyMem s) _ (fun u j hu => onlyMem_poisonWord ?_ _ _) _ _ h
    split
    · exact onlyMem_flushWord hu _
    · exact hu

theorem onlyMem_writePoisoned (h : OnlyMem s t) (item : Option Nat) (a : Nat) (l : List Byte) (bad : Bool) :
    OnlyMem s (t.writePoisoned item a l bad) := by
  unfold State.writePoisoned
  dsimp only
  split
  · exact onlyMem_poisonRange (onlyMem_writeBytes h _ _ _) _ _
  · exact onlyMem_writeBytes h _ _ _

theorem onlyMem_readNat (h : OnlyMem s t) (a n : Nat) : OnlyMem s (t.readNat a n).2.2 := onlyMem_readBytes h a n

/-! ### The cache (R239) -/

theorem onlyMem_linesBack (h : OnlyMem s t) (l : List CacheLine) : OnlyMem s (l.foldl State.lineBack t) := by
  refine foldl_keeps (OnlyMem s) _ (fun u x hu => ?_) _ _ h
  unfold State.lineBack
  split
  · exact onlyMem_writePoisoned hu _ _ _ _
  · exact hu

theorem onlyMem_ctxLook (h : OnlyMem s t) (i a : Nat) : OnlyMem s (t.ctxLook i a).2.2 := by
  unfold State.ctxLook
  split
  · exact h
  · exact onlyMem_readNat h a 64

/-- R239: beside the cache a line that becomes the last used of its set changes the memory, where a dirty line makes room. -/
theorem State.linePut_back (s : State) (i : Nat) (x : CacheLine) :
    ∃ (u : State) (c : List (Nat × List CacheLine)), OnlyMem s u ∧ s.linePut i x = { u with loc := { u.loc with cache := c } } :=
  ⟨_, _, onlyMem_linesBack (onlyMem_refl s) _, rfl⟩

/-- R239: a line that has become the last used of its set is cached. -/
theorem State.line?_linePut (s : State) (i : Nat) (x : CacheLine) : (s.linePut i x).line? i x.addr = some x := by
  rw [State.line?, State.linePut]
  dsimp only [State.locUpd]
  rw [Sp.get_set_self]
  exact List.find?_cons_of_pos (beq_self_eq_true x.addr)

theorem State.bit_linePut (s : State) (i : Nat) (x : CacheLine) {page o : Nat} (hp : memoryPage page = false) (ho : o < 0x10000)
    (b : Nat) : (s.linePut i x).bit page o b = s.bit page o b := by
  obtain ⟨u, c, hu, heq⟩ := State.linePut_back s i x
  rw [heq]
  exact hu.bit hp ho b

end

/-- Nothing changes but the memory, the free values, the marks of poisoned items, registers, the tracker, the link to a twin, and of the
results unit its rings and batches. -/
structure OnlyTracker (s t : State) : Prop where
  rest : t = { s with regs := t.regs, mem := t.mem, ldg := t.ldg, free := t.free, res := t.res, loc := t.loc, twin := t.twin }
  chains : t.res.chains = s.res.chains
  handshake : t.reg PG.res R.PG_PWR = s.reg PG.res R.PG_PWR

theorem onlyTracker_refl (s : State) : OnlyTracker s s := ⟨rfl, rfl, rfl⟩

section
variable {s t u : State}

theorem onlyTracker_records (h : OnlyTracker s t) (k : OnlyRecords t u) : OnlyTracker s u where
  rest := by rw [k.rest, h.rest]
  chains := k.chains.trans h.chains
  handshake := k.handshake.trans h.handshake

theorem onlyTracker_onlyMem (h : OnlyTracker s t) (k : OnlyMem t u) : OnlyTracker s u :=
  onlyTracker_records h (onlyRecords_onlyMem (onlyRecords_refl t) k)

theorem onlyTracker_setReg (h : OnlyTracker s t) {page o : Nat} (hp : page ≠ PG.res) (ho : o < 0x10000) (v : Word) :
    OnlyTracker s (t.setReg page o v) where
  rest := by rw [h.rest]; rfl
  chains := h.chains
  handshake := (State.reg_setReg_ne t v (rkey_ne ho (by decide) (.inl hp.symm))).trans h.handshake

theorem onlyTracker_loc (h : OnlyTracker s t) (x : LocState) : OnlyTracker s { t with loc := x } where
  rest := by rw [h.rest]
  chains := h.chains
  handshake := h.handshake

theorem onlyTracker_twin (h : OnlyTracker s t) (x : TwinState) : OnlyTracker s { t with twin := x } where
  rest := by rw [h.rest]
  chains := h.chains
  handshake := h.handshake

theorem onlyTracker_takeFree (h : OnlyTracker s t) : OnlyTracker s t.takeFree.2 :=
  onlyTracker_onlyMem h (onlyMem_takeFree (onlyMem_refl t))

theorem onlyTracker_ite (h : OnlyTracker s t) (k : OnlyTracker s u) (c : Prop) [Decidable c] : OnlyTracker s (if c then t else u) := by
  split
  · exact h
  · exact k

theorem onlyTracker_locReg (h : OnlyTracker s t) {o : Nat} (ho : o < 0x10000) (v : Word) : OnlyTracker s (t.setReg PG.loc o v) :=
  onlyTracker_setReg h (by decide) ho v

theorem onlyTracker_lookPos (h : OnlyTracker s t) (p : Fin 8) (iet : Nat) : OnlyTracker s (t.lookPos p iet).2.2 := by
  have hset : ∀ {u : State}, OnlyTracker s u → ∀ {o}, o < 0x10000 → ∀ v, OnlyTracker s (u.setReg (PG.ptb p) o v) :=
    fun hu _ ho v => onlyTracker_setReg hu (by unfold PG.ptb PG.res; omega) ho v
  exact onlyTracker_ite (hset (hset (hset h (by decide) _) (by decide) _) (by decide) _) h _

/-! ### Contexts (R239, R240) -/

theorem onlyTracker_linePut (h : OnlyTracker s t) (i : Nat) (x : CacheLine) : OnlyTracker s (t.linePut i x) := by
  obtain ⟨u, c, hu, heq⟩ := State.linePut_back t i x
  rw [heq]
  exact onlyTracker_loc (onlyTracker_onlyMem h hu) _

theorem onlyTracker_ctxRead (h : OnlyTracker s t) (i a : Nat) : OnlyTracker s (t.ctxRead i a).2.2 := by
  unfold State.ctxRead
  split
  · exact onlyTracker_linePut h _ _
  · have hread : OnlyTracker s (t.readNat a 64).2.2 := onlyTracker_onlyMem h (onlyMem_readNat (onlyMem_refl t) a 64)
    exact onlyTracker_ite hread (onlyTracker_linePut hread _ _) _

theorem onlyTracker_slotBad (h : OnlyTracker s t) (i : Nat) : OnlyTracker s (t.slotBad i) := by
  unfold State.slotBad
  refine onlyTracker_loc (onlyTracker_ite h ?_ _) _
  have hcount : OnlyTracker s (t.bump PG.loc R.LOC_CNT2 32 16) := onlyTracker_locReg h (by decide) _
  have hlog : OnlyTracker s ((t.bump PG.loc R.LOC_CNT2 32 16).logInfo1 PG.loc i) :=
    onlyTracker_locReg (onlyTracker_locReg (onlyTracker_locReg hcount (by decide) _) (by decide) _) (by decide) _
  exact onlyTracker_locReg hlog (by decide) _

theorem onlyTracker_lineErr (h : OnlyTracker s t) (i : Nat) : OnlyTracker s (t.lineErr i) := by
  have hcount : ∀ lo n, OnlyTracker s ((t.locUpd fun x => { x with cacheErr := none }).bump PG.mras R.MRAS_LOCC lo n) :=
    fun _ _ => onlyTracker_setReg (onlyTracker_loc h _) (by decide) (by decide) _
  unfold State.lineErr
  split
  · split
    · exact h
    · dsimp only
      split
      · exact onlyTracker_linePut (hcount 32 16) _ _
      · exact hcount 0 32
  · exact h

theorem onlyTracker_slotRead (h : OnlyTracker s t) (i : Nat) : OnlyTracker s (t.slotRead i).2 := by
  have hread := onlyTracker_ctxRead (onlyTracker_lineErr h i) i (t.slotAddr i)
  unfold State.slotRead
  dsimp only
  split
  · exact onlyTracker_slotBad hread _
  · exact hread

/-! ### A record and the tracks near it (R242) -/

/-- A fold that carries a state beside what it gathers keeps what each of its steps keeps of the state. -/
theorem foldl_keeps_snd {α β : Type} {f : β × State → α → β × State} (hf : ∀ x a, OnlyTracker s x.2 → OnlyTracker s (f x a).2)
    (l : List α) {x : β × State} (h : OnlyTracker s x.2) : OnlyTracker s (l.foldl f x).2 :=
  foldl_keeps (fun x : β × State => OnlyTracker s x.2) f hf l x h

theorem onlyTracker_recMatches (h : OnlyTracker s t) (r : CRec) : OnlyTracker s (t.recMatches r).2 := by
  unfold State.recMatches
  refine foldl_keeps_snd (fun x c hx => foldl_keeps_snd (fun y i hy => ?_) _ hx) _ h
  have hread := onlyTracker_slotRead hy i
  dsimp only
  split
  · exact hread
  · split <;> exact hread

/-! ### Deltas (R258, R482) -/

theorem State.twinFlush_rest (s : State) (n : Nat) : s.twinFlush n = { s with twin := (s.twinFlush n).twin } := by
  induction n generalizing s with
  | zero => rfl
  | succ n ih =>
    unfold State.twinFlush
    split
    · rfl
    · split
      · rfl
      · dsimp only
        rw [ih]
        rfl

theorem State.twinSend_rest (s : State) (type : Nat) (words : List Nat) :
    s.twinSend type words = { s with twin := (s.twinSend type words).twin } := by
  rw [State.twinSend, State.twinFlush_rest]
  rfl

theorem onlyTracker_deltaDrain (h : OnlyTracker s t) : OnlyTracker s t.deltaDrain := by
  unfold State.deltaDrain
  refine onlyTracker_ite h (foldl_keeps (OnlyTracker s) _ (fun u d hu => ?_) _ _ (onlyTracker_loc h _)) _
  exact onlyTracker_records hu (onlyRecords_batchAdd (onlyRecords_refl u) _ _ _ _)

theorem onlyTracker_deltaPush (h : OnlyTracker s t) (p : Fin 8) (kind body : Nat) : OnlyTracker s (t.deltaPush p kind body) := by
  have hsend : OnlyTracker s (if t.role = 3 ∧ kind ≠ 1 then t.twinSend 3 ((List.range 4).map fun i => nfld body (64 * i) 64) else t) := by
    split
    · rw [State.twinSend_rest]
      exact onlyTracker_twin h _
    · exact h
  unfold State.deltaPush
  refine onlyTracker_deltaDrain (onlyTracker_ite ?_ (onlyTracker_loc hsend _) _)
  exact onlyTracker_locReg (onlyTracker_locReg (onlyTracker_locReg hsend (by decide) _) (by decide) _) (by decide) _

theorem onlyTracker_objDelta (h : OnlyTracker s t) (kind : Nat) (o : Obj) : OnlyTracker s (t.objDelta kind o) :=
  onlyTracker_deltaPush h _ _ _

/-! ### The binding of a window's boxes (R256) -/

theorem onlyTracker_slotWrite (h : OnlyTracker s t) (i : Nat) (x : Track) : OnlyTracker s (t.slotWrite i x) := onlyTracker_linePut h _ _

theorem onlyTracker_objWrite (h : OnlyTracker s t) (i : Nat) (o : Obj) : OnlyTracker s (t.objWrite i o) := onlyTracker_linePut h _ _

theorem onlyTracker_liveAdd (h : OnlyTracker s t) (lo n : Nat) (d : Int) : OnlyTracker s (t.liveAdd lo n d) :=
  onlyTracker_locReg h (by decide) _

theorem onlyTracker_nextId (h : OnlyTracker s t) (lo : Nat) : OnlyTracker s (t.nextId lo).2 := onlyTracker_locReg h (by decide) _

theorem onlyTracker_portObjects (h : OnlyTracker s t) (p : Fin 8) : OnlyTracker s (t.portObjects p).2 := by
  unfold State.portObjects
  refine foldl_keeps_snd (fun x i hx => ?_) _ h
  have hlook := onlyTracker_onlyMem hx (onlyMem_ctxLook (onlyMem_refl x.2) i (x.2.objAddr i))
  dsimp only
  split <;> exact hlook

theorem onlyTracker_bindTracks (h : OnlyTracker s t) (p : Fin 8) (obj left : Nat) (b : Box) :
    OnlyTracker s (t.bindTracks p obj left b).2 := by
  unfold State.bindTracks
  refine foldl_keeps_snd (fun x c hx => foldl_keeps_snd (fun y i hy => ?_) _ hx) _ h
  have hread := onlyTracker_slotRead hy i
  dsimp only
  split
  · exact hread
  · split
    · exact onlyTracker_slotWrite hread _ _
    · exact hread

theorem onlyTracker_bindBox (h : OnlyTracker s t) (p : Fin 8) (iet pos : Nat) (k : BindState) (b : Box) :
    OnlyTracker s (t.bindBox p iet pos k b).2 := by
  unfold State.bindBox
  lift_lets
  extract_lets ctl th live free found
  have hfound : found.2 = t := by
    dsimp only [found]
    split
    · rfl
    · split <;> rfl
  generalize found = x at hfound
  obtain ⟨_ | ⟨i, isNew⟩, u⟩ := x
  · subst hfound
    exact onlyTracker_locReg h (by decide) _
  · subst hfound
    have hid : ∀ old : Nat, OnlyTracker s (if isNew = true then u.nextId 32 else (old, u)).2 := fun old => by
      split
      · exact onlyTracker_nextId h 32
      · exact h
    have hwrite := fun old obj left x => onlyTracker_objWrite (onlyTracker_takeFree (onlyTracker_bindTracks (hid old) p obj left b)) i x
    exact onlyTracker_ite (onlyTracker_objDelta (onlyTracker_liveAdd (hwrite _ _ _ _) _ _ _) _ _) (hwrite _ _ _ _) _

theorem onlyTracker_bindPort (h : OnlyTracker s t) (p : Fin 8) (iet : Nat) : OnlyTracker s (t.bindPort p iet) := by
  unfold State.bindPort
  refine onlyTracker_loc (foldl_keeps (OnlyTracker s) _ (fun u q hu => ?_) _ _ ?_) _
  · have hmissed : ∀ o, OnlyTracker s ((u.objWrite q.1 o).liveAdd 32 17 (-1)) := fun o =>
      onlyTracker_liveAdd (onlyTracker_objWrite hu q.1 o) _ _ _
    exact onlyTracker_ite (onlyTracker_objDelta (onlyTracker_loc (hmissed _) _) _ _) (onlyTracker_objWrite hu _ _) _
  · exact foldl_keeps_snd (fun x b hx => onlyTracker_bindBox hx p _ _ _ b) _
      (onlyTracker_portObjects (onlyTracker_lookPos (onlyTracker_loc h _) _ _) p)
end
end Sys2Proof.Machine
end

section
/-!
PROOFS. A record served by the tracker (R241 to R245): what the lookup and the search for matches find, and what the best match then
becomes.
-/

namespace Sys2Proof.Machine

section
variable {s : State} {p : Fin 8} {l : LocRec} {rest : List LocRec} {r : CRec} {m : Match} {tail : List Match} {u : State} {t : Track}

/-! ### The record is looked up (R241, R242) -/

/-- R80, R243: the position at the record's time, and the state behind that lookup. -/
def State.recPlace (s : State) (r : CRec) : Word × Bool × State := s.lookPos (baseOf (s.fld PG.loc R.LOC_CTL 8 3)) r.iet

/-- R242: the record's matches, and the state behind the reads. -/
def State.recRead (s : State) (r : CRec) : List Match × State := (s.recPlace r).2.2.recMatches r

theorem onlyTracker_recRead (s : State) (r : CRec) : OnlyTracker s (s.recRead r).2 :=
  onlyTracker_recMatches (onlyTracker_lookPos (onlyTracker_refl s) _ _) r

/-- R243: the best match, updated by the record. -/
def State.recUpdated (s : State) (r : CRec) (m : Match) (pos : Word) : Track :=
  trackUpdate m.t r m.err pos.toNat (s.fld PG.loc R.LOC_AGE 48 16) (s.fld PG.loc R.LOC_MATCH 48 8) (s.fld PG.loc R.LOC_CTL 12 3)

/-- R243: an update is counted, and the track written into its slot's line. -/
def State.trackCounted (s : State) (i : Nat) (t : Track) : State := (s.bump PG.loc R.LOC_CNT0 0 32).ctxWrite i (s.slotAddr i) t.toSlot

theorem onlyTracker_trackCounted (h : OnlyTracker s u) (i : Nat) (t : Track) : OnlyTracker s (u.trackCounted i t) :=
  onlyTracker_linePut (onlyTracker_locReg h (by decide) _) _ _

theorem State.rehome_home {i : Nat} {t : Track} (hx : s.cellOf (t.x / 16).toNat = t.cx) (hy : s.cellOf (t.y / 16).toNat = t.cy) :
    s.rehome i t = s.slotWrite i t := by
  rw [State.rehome]
  dsimp only
  rw [if_pos ⟨hx, hy⟩]

/-- R242, R245: a record without a match that is no corner only reads. -/
theorem State.locServe_unmatched (hprompt : (s.dtc - l.admitted).toNat ≤ 3000) (hread : s.recRead (CRec.ofBody l.body) = ([], u))
    (hcorner : (CRec.ofBody l.body).corner = false) : s.locServe l = u := by
  generalize hr : CRec.ofBody l.body = r at hread hcorner
  have hslow : decide (3000 < (s.dtc - l.admitted).toNat) = false := decide_eq_false (Nat.not_lt.mpr hprompt)
  rw [State.recRead, State.recPlace] at hread
  unfold State.locServe
  dsimp only
  rw [hslow, if_neg Bool.false_ne_true, hr, hread]
  dsimp only
  rw [hcorner, if_neg Bool.false_ne_true]

/-- R243: with no merging, no confirmation, no delta and the home cell kept, a record updates its best match and nothing else. -/
theorem State.locServe_matched (hprompt : (s.dtc - l.admitted).toNat ≤ 3000) (hread : s.recRead (CRec.ofBody l.body) = (m :: tail, u))
    (ht : u.recUpdated (CRec.ofBody l.body) m (s.recPlace (CRec.ofBody l.body)).1 = t) (hmerge : u.bit PG.loc R.LOC_CTL 0 = false)
    (hdelta : u.bit PG.loc R.LOC_CTL 2 = false) (hdt : 0 ≤ sdiff 32 (CRec.ofBody l.body).iet m.t.tLast)
    (hconfirm : ¬ (m.t.st = 1 ∧ t.st = 2)) (hx : u.cellOf (t.x / 16).toNat = t.cx) (hy : u.cellOf (t.y / 16).toNat = t.cy) :
    s.locServe l = u.trackCounted m.slot t := by
  generalize hr : CRec.ofBody l.body = r at hread ht hdt
  have hslow : decide (3000 < (s.dtc - l.admitted).toNat) = false := decide_eq_false (Nat.not_lt.mpr hprompt)
  have hnomerge : ¬ (u.bump PG.loc R.LOC_CNT0 0 32).bit PG.loc R.LOC_CTL 0 = true := by
    rw [State.bit_bump_off _ (by decide), hmerge]
    exact Bool.false_ne_true
  unfold State.locServe
  dsimp only
  rw [hslow, if_neg Bool.false_ne_true, hr]
  rw [State.recRead, State.recPlace] at hread
  rw [State.recUpdated, State.recPlace] at ht
  rw [hread]
  dsimp only
  rw [ht, if_neg (Int.not_lt.mpr hdt), if_neg hconfirm]
  have hhome : (u.bump PG.loc R.LOC_CNT0 0 32).rehome m.slot t = u.trackCounted m.slot t := by
    have hctl : ∀ v, (u.bump PG.loc R.LOC_CNT0 0 32).cellOf v = u.cellOf v := fun v => by
      rw [State.cellOf, State.fld_bump_off _ (by decide), State.cellOf]
    have hbase : (u.bump PG.loc R.LOC_CNT0 0 32).slotAddr m.slot = u.slotAddr m.slot := by
      rw [State.slotAddr, State.bump, State.addCnt, State.reg_setFld_off _ (by decide), State.slotAddr]
    rw [State.rehome_home ((hctl _).trans hx) ((hctl _).trans hy), State.slotWrite, State.slotPut, hbase]
    exact if_neg Bool.false_ne_true
  have hquiet : ¬ (u.trackCounted m.slot t).bit PG.loc R.LOC_CTL 2 = true := by
    have hback : (u.trackCounted m.slot t).bit PG.loc R.LOC_CTL 2 = (u.bump PG.loc R.LOC_CNT0 0 32).bit PG.loc R.LOC_CTL 2 :=
      State.bit_linePut _ _ _ (by decide) (by decide) 2
    rw [hback, State.bit_bump_off _ (by decide), hdelta]
    exact Bool.false_ne_true
  cases tail with
  | nil =>
    dsimp only
    rw [hhome, if_neg hquiet]
  | cons m2 tail =>
    simp only [if_neg hnomerge]
    rw [hhome, if_neg hquiet]

end

end Sys2Proof.Machine
end

section
/-!
PROOFS. LOCUS_RECORD and the ageing sweep (R240, R241, R248, R253, R256): where they wait, and what they leave.
-/

namespace Sys2Proof.Machine

section
variable {s : State} {p : Fin 8} {l : LocRec} {rest : List LocRec}

/-! ### LOCUS_RECORD (R241) -/

/-- R240: no record is being served: the error of a cache line and the slots counted for a record are forgotten. -/
def State.recordOver (s : State) : State := s.locUpd fun x => { x with cacheErr := none, counted := [] }

theorem State.recordOver_self (herr : s.loc.cacheErr = none) (hcounted : s.loc.counted = []) : s.recordOver = s := by
  have hloc : { s.loc with cacheErr := none, counted := [] } = s.loc := by rw [← herr, ← hcounted]
  rw [State.recordOver, State.locUpd, hloc]

/-- R241: the head of port `p`, which leaves `rest` behind it, is taken, and the turn passes on. -/
def State.recordTaken (s : State) (p : Fin 8) (rest : List LocRec) : State :=
  { s with loc := { s.loc with cacheErr := none, counted := [], inputs := s.loc.inputs.set p rest, turn := baseOf (p.val + 1) } }

theorem exec_locusRecord_none (s : State) : exec (.locusRecord none) s = s.ends s.recordOver.locRecord.recordOver :=
  exec_locusRecord none

theorem State.locRecord_idle (h : s.running PG.loc = false ∨ s.locNext = none) : s.locRecord = s := by
  unfold State.locRecord
  rcases h with h | h
  · rw [h]
    rfl
  · rw [h]
    exact ite_self _

theorem exec_locusRecord_waits (h : s.running PG.loc = false ∨ s.locNext = none) (herr : s.loc.cacheErr = none)
    (hcounted : s.loc.counted = []) : exec (.locusRecord none) s = .next s := by
  have hself := State.recordOver_self herr hcounted
  rw [exec_locusRecord_none, hself, State.locRecord_idle h, hself]
  exact State.ends_self s

theorem State.locRecord_serves (hruns : s.running PG.loc = true) (hnext : s.locNext = some p) (hin : s.loc.inputs.get p = l :: rest)
    (hout : (((s.recordTaken p rest).locServe l).chd.get p).out = []) :
    s.recordOver.locRecord = (s.recordTaken p rest).locServe l := by
  have hruns' : s.recordOver.running PG.loc = true := hruns
  have hnext' : s.recordOver.locNext = some p := hnext
  have hin' : s.recordOver.loc.inputs.get p = l :: rest := hin
  unfold State.locRecord
  simp only [hruns', hnext', hin', Bool.not_true, Bool.false_eq_true, if_false]
  exact State.chdDrain_empty hout 65

/-- R241: the record served, as the command's answer. -/
theorem exec_locusRecord_serves (hruns : s.running PG.loc = true) (hnext : s.locNext = some p) (hin : s.loc.inputs.get p = l :: rest)
    (hout : (s.chd.get p).out = []) {u : State} (hserve : (s.recordTaken p rest).locServe l = u) (hu : OnlyTracker (s.recordTaken p rest) u) :
    exec (.locusRecord none) s = .next u.recordOver := by
  have hdrained : (((s.recordTaken p rest).locServe l).chd.get p).out = [] := by
    rw [hserve, hu.rest]
    exact hout
  rw [exec_locusRecord_none, State.locRecord_serves hruns hnext hin hdrained, hserve]
  exact State.ends_of (by rw [hu.rest]; rfl) (by rw [hu.rest]; rfl)

/-! ### The ageing sweep (R248, R253, R256) -/

/-- R253: the sweep moves past the slot that it visits. -/
def State.sweepMoved (s : State) : State := { s with loc := { s.loc with sweepPos := s.loc.sweepPos + 1, counted := [] } }

/-- R253: the slot that the sweep visits, read past the cache. -/
def State.sweepLook (s : State) : Nat × Bool × State := s.sweepMoved.ctxLook s.loc.sweepPos (s.slotAddr s.loc.sweepPos)

theorem onlyMem_sweepLook (s : State) : OnlyMem s.sweepMoved s.sweepLook.2.2 := onlyMem_ctxLook (onlyMem_refl _) _ _

/-- R253: the age in ms at which a track of this state is retired. -/
def State.ageLimit (s : State) (t : Track) : Nat := if t.st = 1 then s.fld PG.loc R.LOC_AGE 16 16 else s.fld PG.loc R.LOC_AGE 0 16

theorem exec_ageingSweepVisit_idle (h : s.sweepRuns = false) : exec .ageingSweepVisit s = .next s := by
  have hidle : (!s.sweepRuns || decide (locusSlots ≤ s.loc.sweepPos)) = true := by simp [h]
  rw [exec_ageingSweepVisit, execAgeingSweepVisit, State.locVisit, if_pos hidle]
  exact State.ends_self s

section
variable (hruns : s.sweepRuns = true) (hpos : s.loc.sweepPos < locusSlots) (hheld : s.loc.sweepPos ∉ s.loc.poisoned)
  (hflush : s.loc.flushLeft = 0) (hgood : s.sweepLook.2.1 = false)
include hruns hpos hheld hflush hgood

/-- R253: a free slot is left; a track past its age limit is retired and counted. -/
theorem State.locVisit_looks :
    ((Track.ofSlot s.sweepLook.1).st = 0 → s.locVisit = s.sweepLook.2.2) ∧
    ((Track.ofSlot s.sweepLook.1).st ≠ 0 →
      (s.sweepLook.2.2.ageLimit (Track.ofSlot s.sweepLook.1) * 16000 : Nat) < sdiff 32 s.sweepLook.2.2.iet (Track.ofSlot s.sweepLook.1).tLast →
      s.locVisit = (s.sweepLook.2.2.retire true s.loc.sweepPos (Track.ofSlot s.sweepLook.1) 0 0 false).bump PG.loc R.LOC_CNT3 0 32) := by
  have hbusy : (!s.sweepRuns || decide (locusSlots ≤ s.loc.sweepPos)) = false := by simp [hruns, hpos]
  have hleft : s.loc.flushLeft - 1 = s.loc.flushLeft := by rw [hflush]
  have hmoved : (s.locUpd fun x => { x with sweepPos := s.loc.sweepPos + 1, flushLeft := x.flushLeft - 1, counted := [] }) = s.sweepMoved := by
    rw [State.locUpd, State.sweepMoved]
    simp only [hleft]
  have hlook : s.sweepMoved.ctxLook s.loc.sweepPos (s.sweepMoved.slotAddr s.loc.sweepPos) = s.sweepLook := rfl
  have hclean : s.sweepLook.2.2.loc.poisoned.contains s.loc.sweepPos = false := by
    rw [(onlyMem_sweepLook s).rest]
    exact (List.contains_eq_mem ..).trans (decide_eq_false hheld)
  unfold State.locVisit
  rw [if_neg (by rw [hbusy]; exact Bool.false_ne_true)]
  dsimp only
  simp only [hmoved, hlook]
  generalize hq : s.sweepLook = q at *
  obtain ⟨v, bad, u⟩ := q
  dsimp only at *
  subst hgood
  simp only [hclean, hflush, Bool.false_eq_true, if_false, lt_irrefl, decide_false]
  refine ⟨fun hfree => if_pos hfree, fun hlive hage => ?_⟩
  rw [if_neg hlive]
  exact if_pos hage

end

theorem exec_ageingSweepEnd_early (h : s.loc.sweepPos < locusSlots) : exec .ageingSweepEnd s = .next s := by
  rw [exec_ageingSweepEnd, execAgeingSweepEnd, State.locSweepEnd, if_pos h]
  exact State.ends_self s

theorem exec_ageingSweepEnd_ends (h : locusSlots ≤ s.loc.sweepPos) (hgone : s.goneObjects = []) : exec .ageingSweepEnd s =
    .next { s with loc := { s.loc with sweepPos := 0, victims := s.loc.gather, gather := [], retired := [] } } := by
  rw [exec_ageingSweepEnd, execAgeingSweepEnd, State.locSweepEnd, if_neg (Nat.not_lt.mpr h), hgone]
  exact State.ends_of rfl rfl

end
end Sys2Proof.Machine
end

section
/-!
PROOFS. The binding of a port's boxes for its chain (R256, R440): the chain's last two steps, and its end.
-/

namespace Sys2Proof.Machine

/-! ### What a window's account changes (R482, R497) -/

theorem State.cmpEntry_rest (s : State) (e : WinSum) : (s.cmpEntry e).getD s = { s with regs := ((s.cmpEntry e).getD s).regs } := by
  unfold State.cmpEntry
  cases s.twin.own.find? fun o => o.port == e.port && o.win == e.win with
  | none => rfl
  | some o => 
    simp only [Option.map_some, Option.getD_some]
    split
    · rfl
    · rfl

theorem State.twinOwn_rest (s : State) (o : WinSum) : s.twinOwn o = { s with regs := (s.twinOwn o).regs, twin := (s.twinOwn o).twin } := by
  unfold State.twinOwn
  refine List.foldlRecOn (motive := fun t : State => t = { s with regs := t.regs, twin := t.twin }) _ _ rfl fun t ht e _ => ?_
  rw [State.cmpEntry_rest, ht]

theorem State.twinWindow_rest (s : State) (port win : Nat) : s.twinWindow port win false = { s with twin := (s.twinWindow port win false).twin } := by
  unfold State.twinWindow
  split
  · rfl
  · exact State.twinSend_rest s _ _

/-! ### A port whose boxes are bound (R256, R440) -/

/-- The part, the commands that wait, no box of port `p` and its chains. -/
structure PortBound (s t : State) (p : Fin 8) (l : List Chain) : Prop where
  part : t.part = s.part
  pending : t.pending = s.pending
  boxes : t.loc.boxes.get p = []
  chains : t.res.chains.get p = l

section
variable {s t u : State} {p : Fin 8} {l : List Chain}

theorem portBound_records (h : PortBound s t p l) (k : OnlyRecords t u) : PortBound s u p l where
  part := by rw [k.rest, ← h.part]
  pending := by rw [k.rest, ← h.pending]
  boxes := by rw [k.rest, ← h.boxes]
  chains := by rw [k.chains, ← h.chains]

theorem portBound_chainsUpd (h : PortBound s t p l) (f : List Chain → List Chain) : PortBound s (t.chainsUpd p f) p (f l) where
  part := h.part
  pending := h.pending
  boxes := h.boxes
  chains := (vupd_get_self _ _ _).trans (congrArg f h.chains)

theorem portBound_setChain {c d : Chain} (h : PortBound s t p [d]) (hid : d.id = c.id) : PortBound s (t.setChain p c) p [c] := by
  have hone : ([d].map fun x => if x.id == c.id then c else x) = [c] := by simp [hid]
  exact hone ▸ portBound_chainsUpd h _

theorem portBound_bump (h : PortBound s t p l) (page o lo n : Nat) : PortBound s (t.bump page o lo n) p l :=
  ⟨h.part, h.pending, h.boxes, h.chains⟩

theorem portBound_irq (h : PortBound s t p l) (page b : Nat) : PortBound s (t.irq page b) p l := ⟨h.part, h.pending, h.boxes, h.chains⟩

theorem portBound_adm (h : PortBound s t p l) (x : AdmState) : PortBound s { t with adm := x } p l := ⟨h.part, h.pending, h.boxes, h.chains⟩

theorem portBound_ite (h : PortBound s t p l) (k : PortBound s u p l) {c : Prop} {_ : Decidable c} : PortBound s (if c then t else u) p l := by
  split
  · exact h
  · exact k

theorem portBound_chainForget (h : PortBound s t p l) (c : Chain) : PortBound s (t.chainForget c) p l := ⟨h.part, h.pending, h.boxes, h.chains⟩

theorem portBound_twinOwn (h : PortBound s t p l) (o : WinSum) : PortBound s (t.twinOwn o) p l := by
  rw [State.twinOwn_rest]
  exact ⟨h.part, h.pending, h.boxes, h.chains⟩

theorem portBound_twinWindow (h : PortBound s t p l) (port win : Nat) : PortBound s (t.twinWindow port win false) p l := by
  rw [State.twinWindow_rest]
  exact ⟨h.part, h.pending, h.boxes, h.chains⟩

theorem portBound_closeItem (h : PortBound s t p l) (i : Nat) (st : Status) (detail : Nat) : PortBound s (t.closeItem i st detail) p l where
  part := by rw [State.closeItem_rest]; exact h.part
  pending := by rw [State.closeItem_rest]; exact h.pending
  boxes := by rw [State.closeItem_rest]; exact h.boxes
  chains := by
    unfold State.closeItem
    cases t.item? i with
    | none => exact h.chains
    | some it => exact h.chains

theorem State.item?_closed (s : State) (i : Nat) (st : Status) (detail : Nat) : (s.closeItem i st detail).item? i = none := by
  cases h : s.item? i with
  | some it => exact State.item?_closeItem h st detail
  | none =>
    have hself : s.closeItem i st detail = s := by
      unfold State.closeItem
      rw [h]
    rw [hself, h]

theorem portBound_chainRecord (h : PortBound s t p l) (ty : RecType) (win : Nat) (body : List Byte) :
    PortBound s (t.chainRecord ty p win body).2 p l := by
  unfold State.chainRecord
  exact portBound_records h (onlyRecords_writeRecord (onlyRecords_refl t) _ _ _ _)

/-! ### Steps 5 and 6 of a chain, and its binding -/

theorem portBound_chainList {c d : Chain} (h : PortBound s t p [d]) (hid : d.id = c.id) :
    ∃ c', PortBound s (t.chainList p c) p [c'] ∧ c'.id = c.id ∧ c'.item = c.item ∧ c'.step = 6 := by
  unfold State.chainList
  exact ⟨_, portBound_setChain (portBound_chainRecord h _ _ _) hid, rfl, rfl, rfl⟩

theorem portBound_chainFinish {c : Chain} {i : Nat} (h : PortBound s t p [c]) (hitem : c.item = some i) :
    PortBound s (t.chainFinish p c) p [] ∧ (t.chainFinish p c).item? i = none := by
  have hgone : ([c].filter fun x => x.id != c.id) = [] := by simp
  unfold State.chainFinish
  simp only [hitem]
  refine ⟨portBound_closeItem (portBound_twinWindow (portBound_ite (portBound_twinOwn ?_ _) ?_) _ _) _ _ _, State.item?_closed _ _ _ _⟩
  all_goals
    refine hgone ▸ portBound_chainsUpd (portBound_chainForget ?_ _) _
    refine portBound_ite (portBound_irq (portBound_bump (portBound_ite (portBound_adm ?_ _) ?_) _ _ _ _) _ _) (portBound_ite (portBound_adm ?_ _) ?_)
    all_goals exact portBound_chainRecord h _ _ _

/-- Step 5 and step 6: the chain lists its objects and ends, whatever moves are left after them (R440). -/
theorem portBound_chainRun {c : Chain} {i n : Nat} (h : PortBound s t p [c]) (hstep : c.step = 5) (hitem : c.item = some i) :
    PortBound s (t.chainRun p c.id (n + 3)) p [] ∧ (t.chainRun p c.id (n + 3)).item? i = none := by
  have hlist : t.chainMove p c = some (t.chainList p c) := by simp [State.chainMove, hitem, hstep]
  obtain ⟨c', hlisted, hid, hitem', hstep'⟩ := portBound_chainList h rfl
  rw [hitem] at hitem'
  have hfinish : (t.chainList p c).chainMove p c' = some ((t.chainList p c).chainFinish p c') := by simp [State.chainMove, hitem', hstep']
  obtain ⟨hended, hclosed⟩ := portBound_chainFinish hlisted hitem'
  have hrun : t.chainRun p c.id (n + 3) = (t.chainList p c).chainFinish p c' := by
    simp [State.chainRun, h.chains, hlist, hlisted.chains, hid, hfinish, hended.chains]
  rw [hrun]
  exact ⟨hended, hclosed⟩

theorem portBound_bindPort {c : Chain} (h : s.res.chains.get p = [c]) (iet : Nat) : PortBound s (s.bindPort p iet) p [c] where
  part := by rw [(onlyTracker_bindPort (onlyTracker_refl s) p iet).rest]
  pending := by rw [(onlyTracker_bindPort (onlyTracker_refl s) p iet).rest]
  boxes := by
    unfold State.bindPort State.locUpd
    exact Vector.getElem_set_self _
  chains := by rw [(onlyTracker_bindPort (onlyTracker_refl s) p iet).chains, h]

end

/-- R256: the boxes of port `p` bound for a window's close, or, of a tracker that is off, taken over as they are. -/
def State.boxesBound (s : State) (p : Fin 8) (w : Win) : State :=
  if s.alive PG.loc then s.bindPort p (ietOf w.closeDtc)
  else s.locUpd fun x => { x with boxes := x.boxes.set p [], bound := x.bound.set p (x.boxes.get p) }

section
variable {s : State} {p : Fin 8} {c : Chain}

theorem onlyTracker_boxesBound (s : State) (p : Fin 8) (w : Win) : OnlyTracker s (s.boxesBound p w) :=
  onlyTracker_ite (onlyTracker_bindPort (onlyTracker_refl s) p _) (onlyTracker_loc (onlyTracker_refl s) _) _

theorem portBound_boxesBound (h : s.res.chains.get p = [c]) (w : Win) : PortBound s (s.boxesBound p w) p [c] := by
  unfold State.boxesBound State.locUpd
  split
  · exact portBound_bindPort h _
  · exact { part := rfl, pending := rfl, boxes := Vector.getElem_set_self _, chains := h }

/-- R440: the chain that waited for the binding goes on with step 5. -/
def Chain.bound (c : Chain) : Chain := { c with step := 5, entry := 0 }

theorem State.chainBind_none (h : s.res.chains.get p = []) : s.chainBind p = s := by
  unfold State.chainBind
  rw [h]
  rfl

theorem State.chainBind_one (h : s.res.chains.get p = [c]) (hstep : c.step = 4) (hentry : c.entry = 2)
    (hloc : s.running PG.loc = true ∨ s.alive PG.loc = false) :
    s.chainBind p = ((s.boxesBound p c.win).setChain p c.bound).chainsStep p := by
  have hready : (s.alive PG.loc && !s.running PG.loc) = false := by rcases hloc with hl | hl <;> simp [hl]
  have hfind : ([c].find? fun c => c.step == 4 && c.entry == 2) = some c := by simp [hstep, hentry]
  unfold State.chainBind
  rw [h, hfind]
  dsimp only
  rw [hready]
  rfl

/-- The results unit, alive and not stopped, is so after the binding (R440). -/
theorem State.chainsStep_boxesBound (halive : s.alive PG.res = true) (hgo : s.stopped PG.res = false)
    (h : ((s.boxesBound p c.win).setChain p c.bound).res.chains.get p = [c.bound]) :
    ((s.boxesBound p c.win).setChain p c.bound).chainsStep p = ((s.boxesBound p c.win).setChain p c.bound).chainRun p c.id 64 := by
  have hkept := onlyTracker_boxesBound s p c.win
  have halive' : ((s.boxesBound p c.win).setChain p c.bound).alive PG.res = true := by
    rw [← halive]
    unfold State.alive State.isOff State.resetting State.setChain State.chainsUpd
    rw [hkept.rest]
  have hgo' : ((s.boxesBound p c.win).setChain p c.bound).stopped PG.res = false := by
    rw [← hgo]
    exact congrArg (fun v : Word => decide (bf v 0 2 = 2)) hkept.handshake
  unfold State.chainsStep
  rw [halive', hgo', h]
  rfl

/-- R256, R440: no chain waits: the command changes nothing. -/
theorem exec_objectBinding_none (h : s.res.chains.get p = []) : exec (.objectBinding p) s = .next s := by
  rw [exec_objectBinding, execObjectBinding, State.chainBind_none h]
  exact State.ends_self s

/-- R256, R440: the port's boxes are bound and the chain that waited ends. -/
theorem exec_objectBinding_one (h : s.res.chains.get p = [c]) (hstep : c.step = 4) (hentry : c.entry = 2) {i : Nat} (hitem : c.item = some i)
    (hloc : s.running PG.loc = true ∨ s.alive PG.loc = false) (halive : s.alive PG.res = true) (hgo : s.stopped PG.res = false) :
    ∃ t, exec (.objectBinding p) s = .next t ∧ PortBound s t p [] ∧ t.item? i = none := by
  have hbound : PortBound s ((s.boxesBound p c.win).setChain p c.bound) p [c.bound] := portBound_setChain (portBound_boxesBound h _) rfl
  obtain ⟨hended, hclosed⟩ := portBound_chainRun (n := 61) hbound rfl (show c.bound.item = some i from hitem)
  refine ⟨_, ?_, hended, hclosed⟩
  rw [exec_objectBinding, execObjectBinding, State.chainBind_one h hstep hentry hloc, State.chainsStep_boxesBound halive hgo hbound.chains]
  exact State.ends_of hended.part hended.pending

end
end Sys2Proof.Machine
end

section
/-!
PROOFS. The tracker's record, its ageing sweep and the binding of boxes: O27 (R241 to R243, R248, R253, R256).
-/

namespace Sys2Proof.Machine

section
variable {s : State} {p : Fin 8} {l : LocRec} {rest : List LocRec} {u : State} (hruns : s.running PG.loc = true)
  (hnext : s.locNext = some p) (hin : s.loc.inputs.get p = l :: rest) (hout : (s.chd.get p).out = [])
  (hprompt : (s.dtc - l.admitted).toNat ≤ 3000)
include hruns hnext hin hout hprompt

/-- R242, R245: a record that no track matches and that is no corner only reads. -/
theorem exec_locusRecord_unmatched (hread : (s.recordTaken p rest).recRead (CRec.ofBody l.body) = ([], u))
    (hcorner : (CRec.ofBody l.body).corner = false) : exec (.locusRecord none) s = .next u.recordOver := by
  have honly := onlyTracker_recRead (s.recordTaken p rest) (CRec.ofBody l.body)
  rw [hread] at honly
  exact exec_locusRecord_serves hruns hnext hin hout (State.locServe_unmatched hprompt hread hcorner) honly

/-- R243: a record that a track matches leaves the updated track in its slot's line. -/
theorem exec_locusRecord_matched {m : Match} {tail : List Match} {t : Track}
    (hread : (s.recordTaken p rest).recRead (CRec.ofBody l.body) = (m :: tail, u))
    (ht : u.recUpdated (CRec.ofBody l.body) m ((s.recordTaken p rest).recPlace (CRec.ofBody l.body)).1 = t)
    (hmerge : u.bit PG.loc R.LOC_CTL 0 = false) (hdelta : u.bit PG.loc R.LOC_CTL 2 = false)
    (hdt : 0 ≤ sdiff 32 (CRec.ofBody l.body).iet m.t.tLast) (hconfirm : ¬ (m.t.st = 1 ∧ t.st = 2))
    (hx : u.cellOf (t.x / 16).toNat = t.cx) (hy : u.cellOf (t.y / 16).toNat = t.cy) :
    exec (.locusRecord none) s = .next (u.trackCounted m.slot t).recordOver := by
  have honly := onlyTracker_recRead (s.recordTaken p rest) (CRec.ofBody l.body)
  rw [hread] at honly
  exact exec_locusRecord_serves hruns hnext hin hout (State.locServe_matched hprompt hread ht hmerge hdelta hdt hconfirm hx hy)
    (onlyTracker_trackCounted honly _ _)

end

/-- The record served, its track stands in the dirty line of its slot (R239). -/
theorem State.line?_trackCounted (s : State) (i : Nat) (t : Track) :
    (s.trackCounted i t).recordOver.line? i (s.slotAddr i) = some { addr := s.slotAddr i, data := t.toSlot, dirty := true } :=
  State.line?_linePut (s.bump PG.loc R.LOC_CNT0 0 32) i { addr := s.slotAddr i, data := t.toSlot, dirty := true }

theorem State.chd_trackCounted (s : State) (i : Nat) (t : Track) : (s.trackCounted i t).recordOver.chd = s.chd := by
  rw [State.recordOver, State.locUpd, (onlyTracker_trackCounted (onlyTracker_refl s) i t).rest]

theorem exec_ageingSweepVisit_of {s t : State} (h : s.locVisit = t) :
    ∃ v, exec .ageingSweepVisit s = .next v ∧ v.mem = t.mem ∧ v.regs = t.regs ∧ v.loc = t.loc := by
  rw [exec_ageingSweepVisit, execAgeingSweepVisit, h]
  exact ⟨_, rfl, rfl, rfl, rfl⟩

/-- Settles O27: a record served by its matches, a slot visited by what it holds, a binding by the chain that waits for it. Whose turn it is
and where a track's line stands in the cache are the model's choices (log 79), and so are the boxes taken and steps 5 and 6 of the chain
(log 135). -/
theorem trackerRecordsAndSweep : Obligations.TrackerRecordsAndSweep := by
  refine ⟨fun s h herr hcounted => exec_locusRecord_waits h herr hcounted, fun s p l rest hruns hnext hin hout hprompt => ⟨fun hmatch hcorner => ?_,
      fun m tail hmatch hmerge hdelta hdt hconfirm hx hy => ?_⟩,
    fun s h => exec_ageingSweepVisit_idle h, fun s hruns hpos hheld hflush hgood => ?_, fun s h => exec_ageingSweepEnd_early h,
    fun s h hgone => exec_ageingSweepEnd_ends h hgone, fun s p h => exec_objectBinding_none h,
    fun s p c i h hstep hentry hitem hloc halive hgo => ?_⟩
  · exact ⟨_, exec_locusRecord_unmatched hruns hnext hin hout hprompt (Prod.ext hmatch rfl) hcorner, rfl, rfl, rfl⟩
  · exact ⟨_, exec_locusRecord_matched hruns hnext hin hout hprompt (Prod.ext hmatch rfl) rfl hmerge hdelta hdt hconfirm hx hy,
      rfl, rfl, rfl, State.line?_trackCounted _ _ _, rfl, State.chd_trackCounted _ _ _⟩
  · obtain ⟨hfree, haged⟩ := State.locVisit_looks hruns hpos hheld hflush hgood
    exact ⟨fun h => exec_ageingSweepVisit_of (hfree h), fun hlive hage => exec_ageingSweepVisit_of (haged hlive hage)⟩
  · obtain ⟨t, hexec, hbound, hclosed⟩ := exec_objectBinding_one h hstep hentry hitem hloc halive hgo
    exact ⟨t, hexec, hbound.boxes, hbound.chains, hclosed⟩

end Sys2Proof.Machine
end

section
/-!
PROOFS. Fields of numbers wider than a word (R4, R266): what a field put into a number leaves, and which values a signed field holds.
-/

namespace Sys2Proof.Machine

/-! ### Fields of a number -/

theorem testBit_nfld (x lo n i : Nat) : (nfld x lo n).testBit i = (decide (i < n) && x.testBit (lo + i)) := by
  rw [nfld, Nat.testBit_mod_two_pow, Nat.testBit_shiftRight]

/-- A number is what lies below a field, the field, and what lies above it. -/
theorem nput_split (x lo n v : Nat) : nput x lo n v = 2 ^ lo * (2 ^ n * (x / 2 ^ lo / 2 ^ n) + v % 2 ^ n) + x % 2 ^ lo := by
  have hlow : 2 ^ lo * (x / 2 ^ lo) + x % 2 ^ lo = x := Nat.div_add_mod _ _
  have hhigh : 2 ^ n * (x / 2 ^ lo / 2 ^ n) + x / 2 ^ lo % 2 ^ n = x / 2 ^ lo := Nat.div_add_mod _ _
  rw [nput, nfld, Nat.shiftLeft_eq, Nat.shiftLeft_eq, Nat.shiftRight_eq_div_pow]
  generalize x / 2 ^ lo = y at *
  rw [← hhigh] at hlow
  rw [Nat.mul_comm (y % 2 ^ n), Nat.mul_comm (v % 2 ^ n)]
  rw [Nat.mul_add] at hlow ⊢
  omega

theorem testBit_nput (x lo n v i : Nat) :
    (nput x lo n v).testBit i = if lo ≤ i ∧ i < lo + n then v.testBit (i - lo) else x.testBit i := by
  rw [nput_split, Nat.testBit_two_pow_mul_add _ (Nat.mod_lt _ (Nat.two_pow_pos lo)),
    Nat.testBit_two_pow_mul_add _ (Nat.mod_lt _ (Nat.two_pow_pos n)), Nat.testBit_mod_two_pow, Nat.testBit_mod_two_pow,
    Nat.testBit_div_two_pow, Nat.testBit_div_two_pow]
  by_cases hlo : i < lo
  · simp [hlo, Nat.not_le.mpr hlo]
  · by_cases hn : i < lo + n
    · have hsub : i - lo < n := by omega
      simp [hlo, hn, hsub, Nat.not_lt.mp hlo]
    · have hsub : ¬ i - lo < n := by omega
      have hadd : i - lo - n + n + lo = i := by omega
      simp [hlo, hn, hsub, hadd]

/-- A field reads as it was put. -/
@[simp] theorem nfld_nput_self (x lo n v : Nat) : nfld (nput x lo n v) lo n = v % 2 ^ n := by
  apply Nat.eq_of_testBit_eq
  intro i
  rw [testBit_nfld, testBit_nput, Nat.testBit_mod_two_pow]
  by_cases hi : i < n <;> simp [hi]

/-- A field put leaves every field apart from it as it was. -/
theorem nfld_nput_apart (x v : Nat) {lo n lo' n' : Nat} (h : lo' + n' ≤ lo ∨ lo + n ≤ lo') :
    nfld (nput x lo n v) lo' n' = nfld x lo' n' := by
  apply Nat.eq_of_testBit_eq
  intro i
  rw [testBit_nfld, testBit_nfld, testBit_nput]
  by_cases hi : i < n'
  · have hout : ¬ (lo ≤ lo' + i ∧ lo' + i < lo + n) := by omega
    rw [if_neg hout]
  · simp [hi]

/-! ### Signed fields -/

/-- A value of the signed range of `n + 1` bits is read back from its low bits. -/
theorem sgn_low {n : Nat} {x : Int} (hlo : -(2 ^ n) ≤ x) (hhi : x < 2 ^ n) : sgn (n + 1) (low (n + 1) x) = x := by
  have hpow : (2 : Int) ^ (n + 1) = 2 * 2 ^ n := by ring
  have hnat : (2 : Nat) ^ (n + 1) = 2 * 2 ^ n := by ring
  have hcast : ((2 ^ n : Nat) : Int) = 2 ^ n := by push_cast; rfl
  unfold sgn low
  dsimp only
  rw [hpow, hnat, Nat.add_sub_cancel]
  generalize (2 : Int) ^ n = q at *
  generalize 2 ^ n = p at *
  subst hcast
  rcases lt_or_ge x 0 with hneg | hpos
  · have hmod : x % (2 * p) = x + 2 * p := by
      rw [← Int.add_emod_right, Int.emod_eq_of_lt] <;> omega
    rw [hmod, Nat.mod_eq_of_lt (by omega)]
    split <;> omega
  · have hmod : x % (2 * p) = x := Int.emod_eq_of_lt hpos (by omega)
    rw [hmod, Nat.mod_eq_of_lt (by omega)]
    split <;> omega

theorem satS_mem (n : Nat) (x : Int) : -(2 ^ n) ≤ satS (n + 1) x ∧ satS (n + 1) x < 2 ^ n := by
  have hpow : (0 : Int) < 2 ^ n := by positivity
  unfold satS
  rw [Nat.add_sub_cancel]
  split
  · omega
  · split <;> omega

theorem low_lt (n : Nat) (x : Int) : low n x < 2 ^ n := by
  have hpos : (0 : Int) < 2 ^ n := by positivity
  have hlt := Int.emod_lt_of_pos x hpos
  have hcast : ((2 ^ n : Nat) : Int) = 2 ^ n := by push_cast; rfl
  unfold low
  omega

end Sys2Proof.Machine
end

section
/-!
PROOFS. A neuron's visit (R263, R272 to R276): which fields of its record it writes, and when it fires: O29.
-/

namespace Sys2Proof.Machine

/-! ### What a visit writes (R263, R272) -/

/-- R263, R272: the record in which a visit at step `c` has put V, A, R, LU, the flags and VD, the sum of its slot cleared. -/
def visitRecord (rd c v a r f d : Nat) : Nat :=
  nput (nput (nput (nput (nput (nput (nput rd (128 + 16 * (c % 16)) 16 0) 0 24 v) 24 16 a) 40 8 r) 56 24 c) 80 2 f) 96 24 d

section
variable (rd c v a r f d : Nat)

theorem visitRecord_v : nfld (visitRecord rd c v a r f d) 0 24 = v % 2 ^ 24 := by
  simp [visitRecord, nfld_nput_apart]

theorem visitRecord_r : nfld (visitRecord rd c v a r f d) 40 8 = r % 2 ^ 8 := by
  simp [visitRecord, nfld_nput_apart]

theorem visitRecord_lu : nfld (visitRecord rd c v a r f d) 56 24 = c % 2 ^ 24 := by
  simp [visitRecord, nfld_nput_apart]

theorem visitRecord_pset : nfld (visitRecord rd c v a r f d) 48 8 = nfld rd 48 8 := by
  have hslot : 48 + 8 ≤ 128 + 16 * (c % 16) := by omega
  simp [visitRecord, nfld_nput_apart, hslot]

/-- A slot lies above all that a visit puts beside the sums. -/
theorem visitRecord_slot (j : Nat) : nfld (visitRecord rd c v a r f d) (128 + 16 * j) 16 =
    nfld (nput rd (128 + 16 * (c % 16)) 16 0) (128 + 16 * j) 16 := by
  unfold visitRecord
  rw [nfld_nput_apart, nfld_nput_apart, nfld_nput_apart, nfld_nput_apart, nfld_nput_apart, nfld_nput_apart] <;> omega

theorem slotSum_visitRecord (ext j : Nat) : slotSum (visitRecord rd c v a r f d) (nput ext (4 * (c % 16)) 4 0) j =
    if j = c % 16 then 0 else slotSum rd ext j := by
  unfold slotSum
  rw [visitRecord_slot]
  split
  case isTrue h => simp [h]
  case isFalse h => rw [nfld_nput_apart _ _ (by omega), nfld_nput_apart _ _ (by omega)]

end

/-! ### Firing (R272 to R276) -/

/-- R272: the potential that a visit of a model-0 neuron forms, not refractory. -/
def visitPot (p : PSet) (rd ext c : Nat) : Int :=
  satS 24 (p.vRest + decay (sgn 24 (nfld rd 0 24) - p.vRest) p.av ((nfld rd 56 24 + nfld rd 40 8) % 2 ^ 24) c
    + roundEven (sgn 20 (slotSum rd ext (c % 16))) (2 ^ p.inShift))

/-- R274: the threshold of a model-0 neuron. -/
def visitTheta (p : PSet) (rd : Nat) : Int := satS 24 (p.theta + nfld rd 24 16)

/-- R272: every visit writes its record, and clears its slot in the extension word. -/
theorem visit_writes (p : PSet) (rd ext c : Nat) :
    ∃ v a r f d, (visit p rd ext c).rd = visitRecord rd c v a r f d ∧ (visit p rd ext c).ext = nput ext (4 * (c % 16)) 4 0 :=
  ⟨_, _, _, _, _, rfl, rfl⟩

/-- R274: V and R that the visit of a model-0 neuron writes, not refractory and without a carry, by whether it fires. -/
theorem visit_writes_free {p : PSet} {rd ext c : Nat} (hmodel : p.model = 0) (hcarry : p.carry = false)
    (hfree : nfld rd 40 8 < low 24 ((c : Int) - nfld rd 56 24)) : ∃ a f d, (visit p rd ext c).rd =
      visitRecord rd c (low 24 (if !(visit p rd ext c).fired then visitPot p rd ext c else p.vReset)) a
        (if (visit p rd ext c).fired then p.refract else nfld rd 40 8 - low 24 ((c : Int) - nfld rd 56 24)) f d := by
  have hopen : decide (low 24 ((c : Int) - nfld rd 56 24) ≤ nfld rd 40 8) = false := decide_eq_false (Nat.not_le.mpr hfree)
  have hinput : ¬ p.model = 2 := by omega
  unfold visit
  simp only [hopen, hinput, hcarry, Bool.false_eq_true, if_false]
  exact ⟨_, _, _, rfl⟩

/-- R276: a neuron within R steps of LU does not fire. -/
theorem visit_refractory {p : PSet} {rd ext c : Nat} (h : low 24 ((c : Int) - nfld rd 56 24) ≤ nfld rd 40 8) :
    (visit p rd ext c).fired = false := by
  simp [visit, h]

/-- R274: a model-0 neuron fires where its potential has reached its threshold. -/
theorem visit_fires_iff {p : PSet} {rd ext c : Nat} (hmodel : p.model = 0) (hpend : rd.testBit 80 = false)
    (hfree : nfld rd 40 8 < low 24 ((c : Int) - nfld rd 56 24)) :
    (visit p rd ext c).fired = true ↔ visitTheta p rd ≤ visitPot p rd ext c := by
  simp [visit, sat24, hmodel, hpend, Nat.not_le.mpr hfree, visitPot, visitTheta]

/-- Settles O29: the record that a visit writes, read field by field. -/
theorem neuronVisitLaw : Obligations.NeuronVisitLaw := by
  refine ⟨fun p rd ext c j _ => ?_, fun p rd ext c h => visit_refractory h,
    fun p rd ext c hmodel hpend hcarry hfree hrefract hreset => ⟨visit_fires_iff hmodel hpend hfree, fun hfired => ?_, fun hfired => ?_⟩⟩
  · obtain ⟨v, a, r, f, d, hrd, hext⟩ := visit_writes p rd ext c
    exact ⟨by rw [hrd, hext, slotSum_visitRecord], by rw [hrd, visitRecord_lu], by rw [hrd, visitRecord_pset]⟩
  · obtain ⟨hlo, hhi⟩ : -(2 ^ 23) ≤ visitPot p rd ext c ∧ visitPot p rd ext c < 2 ^ 23 := satS_mem 23 _
    obtain ⟨a, f, d, hrd⟩ := visit_writes_free (ext := ext) hmodel hcarry hfree
    rw [hrd, hfired, visitRecord_v, Nat.mod_eq_of_lt (low_lt 24 _)]
    exact sgn_low hlo hhi
  · obtain ⟨a, f, d, hrd⟩ := visit_writes_free (ext := ext) hmodel hcarry hfree
    rw [hrd, hfired, visitRecord_v, visitRecord_r, Nat.mod_eq_of_lt (low_lt 24 _)]
    exact ⟨sgn_low hreset.1 hreset.2, Nat.mod_eq_of_lt hrefract⟩

end Sys2Proof.Machine
end

section
/-!
PROOFS. Kilns (R271, R279, R310 to R315): what an access to a neuron, an entry of a journal or of an inbox, and a visit leave, and the
phases of a step that find nothing to do.
-/

namespace Sys2Proof.Machine

/-! ### A kiln's lattice (R263) -/

@[simp] theorem State.lat_latUpd_self (s : State) (k : Fin 6) (f : LatState → LatState) : (s.latUpd k f).lat.get k = f (s.lat.get k) :=
  vupd_get_self s.lat k f

theorem State.lat_latUpd_ne (s : State) {k j : Fin 6} (h : j ≠ k) (f : LatState → LatState) : (s.latUpd k f).lat.get j = s.lat.get j :=
  vupd_get_ne s.lat f h

/-- A change that leaves the lattice as it is changes nothing. -/
theorem State.latUpd_of_same {s : State} {k : Fin 6} {f : LatState → LatState} (h : f (s.lat.get k) = s.lat.get k) : s.latUpd k f = s := by
  have hlat : vupd s.lat k f = s.lat := by
    unfold vupd
    rw [h]
    exact Vector.set_getElem_self k.isLt
  rw [State.latUpd, hlat]

/-! ### What the accesses and the visits of a kiln leave -/

/-- Nothing changes but the memory, the free values, the marks of poisoned items, the lattices, and registers of the memories' pages and of
the pages of kiln `k`'s lattice and router. -/
structure OnlyKiln (s t : State) (k : Fin 6) : Prop where
  rest : t = { s with regs := t.regs, mem := t.mem, ldg := t.ldg, free := t.free, lat := t.lat }
  kept : ∀ page off, off < 0x10000 → memoryPage page = false → page ≠ PG.lat k → page ≠ PG.spk k → t.reg page off = s.reg page off

/-- Of the kiln's lattice, moreover, nothing but the skipped slots, the journal's level, the count windows and the packets that leave. -/
structure OnlyVisit (s t : State) (k : Fin 6) : Prop where
  kiln : OnlyKiln s t k
  lattice : t.lat.get k = { s.lat.get k with
    skip := (t.lat.get k).skip, jnext := (t.lat.get k).jnext, banks := (t.lat.get k).banks, marks := (t.lat.get k).marks,
    out := (t.lat.get k).out }

section
variable {s t u : State} {k : Fin 6}

theorem onlyKiln_refl (s : State) (k : Fin 6) : OnlyKiln s s k := ⟨rfl, fun _ _ _ _ _ _ => rfl⟩

theorem onlyKiln_onlyMem (h : OnlyKiln s t k) (hm : OnlyMem t u) : OnlyKiln s u k where
  rest := by rw [hm.rest, h.rest]
  kept page o ho hp hlat hspk := (hm.kept page o ho hp).trans (h.kept page o ho hp hlat hspk)

theorem onlyKiln_latUpd (h : OnlyKiln s t k) (f : LatState → LatState) : OnlyKiln s (t.latUpd k f) k where
  rest := by rw [h.rest]; rfl
  kept := h.kept

theorem onlyKiln_setReg (h : OnlyKiln s t k) {page o : Nat} (hp : page = PG.lat k ∨ page = PG.spk k) (ho : o < 0x10000) (v : Word) :
    OnlyKiln s (t.setReg page o v) k where
  rest := by rw [h.rest]; rfl
  kept q r hr hq hlat hspk := by
    have hne : q ≠ page := by rintro rfl; exact hp.elim hlat hspk
    rw [State.reg_setReg_ne _ _ (rkey_ne ho hr (.inl hne)), h.kept q r hr hq hlat hspk]

theorem OnlyKiln.reg_kln (h : OnlyKiln s t k) {o : Nat} (ho : o < 0x10000) : t.reg (PG.kln k) o = s.reg (PG.kln k) o := by
  have hmem : ∀ k : Fin 6, memoryPage (PG.kln k) = false := by decide
  exact h.kept _ o ho (hmem k) (by unfold PG.kln PG.lat; omega) (by unfold PG.kln PG.spk; omega)

theorem OnlyKiln.dtc (h : OnlyKiln s t k) : t.dtc = s.dtc := by rw [h.rest]

theorem OnlyKiln.courses (h : OnlyKiln s t k) : t.courses k = s.courses k := congrArg (bf · 0 5) (h.reg_kln (by decide))

/-- R324: the mode stands on the floor unit's page. -/
theorem OnlyKiln.mode (h : OnlyKiln s t k) : t.mode = s.mode :=
  congrArg (bf · 0 3) (h.kept (PG.spk 7) R.MODE_STS (by decide) (by decide) (by unfold PG.lat PG.spk; omega) (by unfold PG.spk; omega))

theorem OnlyKiln.ends (h : OnlyKiln s t k) : s.ends t = .next t := State.ends_of (by rw [h.rest]) (by rw [h.rest])

theorem onlyVisit_refl (s : State) (k : Fin 6) : OnlyVisit s s k := ⟨onlyKiln_refl s k, rfl⟩

theorem onlyVisit_onlyMem (h : OnlyVisit s t k) (hm : OnlyMem t u) : OnlyVisit s u k where
  kiln := onlyKiln_onlyMem h.kiln hm
  lattice := by rw [hm.rest]; exact h.lattice

theorem onlyVisit_setReg (h : OnlyVisit s t k) {page o : Nat} (hp : page = PG.lat k ∨ page = PG.spk k) (ho : o < 0x10000) (v : Word) :
    OnlyVisit s (t.setReg page o v) k :=
  ⟨onlyKiln_setReg h.kiln hp ho v, h.lattice⟩

theorem onlyVisit_latReg (h : OnlyVisit s t k) {o : Nat} (ho : o < 0x10000) (v : Word) : OnlyVisit s (t.setReg (PG.lat k) o v) k :=
  onlyVisit_setReg h (.inl rfl) ho v

theorem onlyVisit_latUpd (h : OnlyVisit s t k) {f : LatState → LatState}
    (hf : ∀ l, f l = { l with skip := (f l).skip, jnext := (f l).jnext, banks := (f l).banks, marks := (f l).marks, out := (f l).out }) :
    OnlyVisit s (t.latUpd k f) k where
  kiln := onlyKiln_latUpd h.kiln f
  lattice := by
    rw [State.lat_latUpd_self, hf, h.lattice]

theorem onlyVisit_ite (h : OnlyVisit s t k) (g : OnlyVisit s u k) (c : Prop) [Decidable c] : OnlyVisit s (if c then t else u) k := by
  split <;> assumption

/-! ### A visit (R272, R279, R314, R328) -/

theorem onlyVisit_neuronBad (h : OnlyVisit s t k) (n : Nat) : OnlyVisit s (t.neuronBad k n) k := by
  have hcount : OnlyVisit s (t.bump (PG.lat k) R.LAT_CNT3 16 16) k := onlyVisit_latReg h (by decide) _
  have hlog : OnlyVisit s ((t.bump (PG.lat k) R.LAT_CNT3 16 16).logInfo2 (PG.lat k) n) k :=
    onlyVisit_latReg (onlyVisit_latReg (onlyVisit_latReg hcount (by decide) _) (by decide) _) (by decide) _
  exact onlyVisit_latReg hlog (by decide) _

/-- The read is replaced by any that changes the memory only: where the unfolded function is compared with the folded one, the kernel
evaluates the addresses of a read that it can unfold. -/
theorem onlyVisit_neuronRead (h : OnlyVisit s t k) (n : Nat) : OnlyVisit s (t.neuronRead k n).2 k := by
  obtain ⟨read, hread, hmem⟩ : ∃ r, State.readBytes = r ∧ ∀ (u : State) (a m : Nat), OnlyMem u (r u a m).2 :=
    ⟨_, rfl, fun u a m => onlyMem_readBytes (onlyMem_refl u) a m⟩
  obtain ⟨f, hf⟩ : ∃ f, f = State.neuronRead := ⟨_, rfl⟩
  rw [← hf]
  delta State.neuronRead at hf
  rw [hread] at hf
  subst hf
  have hboth : ∀ a m b m', OnlyVisit s (read (read t a m).2 b m').2 k := fun a m b m' =>
    onlyVisit_onlyMem (onlyVisit_onlyMem h (hmem t a m)) (hmem _ b m')
  dsimp only
  split
  · exact onlyVisit_neuronBad (onlyVisit_latUpd (hboth _ _ _ _) fun _ => rfl) n
  · split
    · exact onlyVisit_neuronBad (hboth _ _ _ _) n
    · exact hboth _ _ _ _

theorem onlyVisit_writeNat (h : OnlyVisit s t k) (a n v : Nat) : OnlyVisit s (t.writeNat none a n v) k :=
  onlyVisit_onlyMem h (onlyMem_writeBytes (onlyMem_refl t) none a _)

theorem onlyVisit_neuronWrite (h : OnlyVisit s t k) (n : Nat) (x : Nat × Nat) : OnlyVisit s (t.neuronWrite k n x) k :=
  onlyVisit_writeNat (onlyVisit_writeNat h _ _ _) _ _ _

theorem onlyVisit_journalPut (h : OnlyVisit s t k) (e : Nat) : OnlyVisit s (t.journalPut k e) k :=
  onlyVisit_latUpd (onlyVisit_writeNat h _ _ _) fun _ => rfl

theorem onlyVisit_cwMark (h : OnlyVisit s t k) (w m : Nat) : OnlyVisit s (t.cwMark k w m) k := onlyVisit_latUpd h fun _ => rfl

theorem onlyVisit_cwMarkOpen (h : OnlyVisit s t k) (m : Nat) : OnlyVisit s (t.cwMarkOpen k m) k :=
  onlyVisit_ite (onlyVisit_cwMark (onlyVisit_cwMark h _ _) _ _) h _

theorem onlyVisit_cwCount (h : OnlyVisit s t k) (n c : Nat) (back : Bool) : OnlyVisit s (t.cwCount k n c back) k := by
  unfold State.cwCount
  split
  · exact h
  · exact onlyVisit_ite h (onlyVisit_ite (onlyVisit_latUpd h fun _ => rfl)
      (onlyVisit_ite (onlyVisit_cwMark h _ _) (onlyVisit_latUpd h fun _ => rfl) _) _) _

theorem onlyVisit_kilnSend (h : OnlyVisit s t k) (x : Packet) : OnlyVisit s (t.kilnSend k x) k := by
  have hcount : OnlyVisit s (if x.cancel then t.bump (PG.lat k) R.LAT_CANCEL_CNT 0 32 else t) k :=
    onlyVisit_ite (onlyVisit_latReg h (by decide) _) h _
  exact onlyVisit_ite (onlyVisit_latUpd hcount fun _ => rfl)
    (onlyVisit_cwMarkOpen (onlyVisit_setReg hcount (.inr rfl) (by decide) _) _) _

theorem onlyVisit_bumpIrq0 (h : OnlyVisit s t k) {o : Nat} (ho : o < 0x10000) (lo n b : Nat) :
    OnlyVisit s (t.bumpIrq0 (PG.lat k) o lo n b) k := by
  have hcount : OnlyVisit s (t.bump (PG.lat k) o lo n) k := onlyVisit_latReg h ho _
  have hirq : OnlyVisit s ((t.bump (PG.lat k) o lo n).irq (PG.lat k) b) k := onlyVisit_latReg hcount (by decide) _
  exact onlyVisit_ite hirq hcount _

theorem onlyVisit_neuronVisit (s : State) (k : Fin 6) (n c : Nat) (spec : Bool) : OnlyVisit s (s.neuronVisit k n c spec) k := by
  obtain ⟨read, hread, hvisit⟩ : ∃ r, State.neuronRead = r ∧ OnlyVisit s (r s k n).2 k :=
    ⟨_, rfl, onlyVisit_neuronRead (onlyVisit_refl s k) n⟩
  obtain ⟨f, hf⟩ : ∃ f, f = State.neuronVisit := ⟨_, rfl⟩
  rw [← hf]
  delta State.neuronVisit at hf
  rw [hread] at hf
  subst hf
  dsimp only
  split
  next heq => rw [heq] at hvisit; exact hvisit
  next rd ext u heq =>
    rw [heq] at hvisit
    have hcount : OnlyVisit s (u.bump (PG.lat k) R.LAT_CNT0 32 32) k := onlyVisit_latReg hvisit (by decide) _
    -- From the last that a visit does, the packet, back to the first, the journal.
    refine onlyVisit_ite (onlyVisit_latReg (onlyVisit_neuronWrite (onlyVisit_ite (onlyVisit_journalPut hcount _) hcount _) _ _)
      (by decide) _) (onlyVisit_ite (onlyVisit_ite (onlyVisit_kilnSend ?hfired _) ?hfired _) ?hstored _) _
    case hfired => exact onlyVisit_cwCount (onlyVisit_latReg ?hstored (by decide) _) _ _ _
    refine onlyVisit_ite (onlyVisit_bumpIrq0 ?hdrop (by decide) _ _ _) ?hdrop _
    refine onlyVisit_ite (onlyVisit_latReg ?hsat (by decide) _) ?hsat _
    have hupdate := onlyVisit_journalPut hcount (updateEntry rd ext n c (visit (u.pset k (nfld rd 48 8)) rd ext c).fired
      ((u.pset k (nfld rd 48 8)).model == 2))
    exact onlyVisit_latReg (onlyVisit_neuronWrite (onlyVisit_ite (onlyVisit_ite (onlyVisit_journalPut hupdate _) hupdate _) hcount _) _ _)
      (by decide) _

/-! ### An access to an inbox, and a copy of regions (R287, R288) -/

theorem onlyMem_inboxShift (h : OnlyMem s t) (c : Fin 16) (i m : Nat) : OnlyMem s (t.inboxShift k c i m) := by
  induction m generalizing t i with
  | zero => exact h
  | succ m ih => exact ih (onlyMem_writePoisoned (onlyMem_readBytes h _ _) _ _ _ _) _

theorem onlyKiln_inboxPut (h : OnlyKiln s t k) (c : Fin 16) (b : BufPkt) : OnlyKiln s (t.inboxPut k c b) k := by
  have hshift := onlyKiln_onlyMem h (onlyMem_inboxShift (k := k) (onlyMem_refl t) c ((t.lat.get k).inTail.get c) (t.inboxBehind k c b))
  exact onlyKiln_latUpd (onlyKiln_onlyMem hshift (onlyMem_writeBytes (onlyMem_refl _) none _ _)) _

theorem onlyMem_copyWords (h : OnlyMem s t) (src dst n : Nat) : OnlyMem s (t.copyWords src dst n) := by
  induction n generalizing t src dst with
  | zero => exact h
  | succ n ih => exact ih (onlyMem_writePoisoned (onlyMem_readBytes h _ _) _ _ _ _) _ _

theorem OnlyMem.lat (h : OnlyMem s t) : t.lat = s.lat := by rw [h.rest]

end

end Sys2Proof.Machine
end

section
/-!
PROOFS. Steps and courses of a kiln (R271, R281, R287, R311, R313, R315): O30.
-/

namespace Sys2Proof.Machine

/-! ### Nothing waits for a step (R271, R307, R319) -/

/-- No inbox entry of the resident course, no cancel, no contribution and no spike waits for step `c`. -/
structure LatQuiet (l : LatState) (c : Nat) : Prop where
  inbox : l.inTail.get l.resident - l.inHead.get l.resident = 0
  cancels : l.cancels = []
  ahead : l.ahead = []
  buf : ∀ b, b ∈ l.buf → b.step ≠ c

section
variable {s t u : State} {k : Fin 6} {c : Nat}

theorem OnlyVisit.quiet (h : OnlyVisit s t k) (hq : LatQuiet (s.lat.get k) c) : LatQuiet (t.lat.get k) c := by
  rw [h.lattice]
  exact ⟨hq.inbox, hq.cancels, hq.ahead, hq.buf⟩

theorem State.updatePhase_idle {m a n : Nat} (h : ∀ i, i < n → s.scheduled k i c = false) (hn : a + m = n) :
    s.updatePhase k c m a = (none, s) := by
  induction m generalizing a with
  | zero => rfl
  | succ m ih =>
    rw [State.updatePhase, h a (by omega)]
    exact ih (by omega)

/-- R271, R312: of a lattice of one neuron, scheduled, the update phase of a step not above the floor is its visit. -/
theorem State.updatePhase_one (hvisit : s.scheduled k 0 c = true) (hfloor : sdiff 24 c ((s.lat.get k).floor.get (s.lat.get k).resident) ≤ 0) :
    s.updatePhase k c 1 0 = (none, s.neuronVisit k 0 c false) := by
  rw [State.updatePhase, hvisit]
  simp [Int.not_lt.mpr hfloor, State.updatePhase]

theorem State.unpark_quiet (h : LatQuiet (s.lat.get k) c) (d : Nat) : s.unpark k d = s := by
  unfold State.unpark
  dsimp only
  rw [h.ahead, List.filter_nil, List.foldl_nil]
  exact State.latUpd_of_same (by rw [h.ahead, List.filter_nil, ← h.ahead])

theorem State.applyPhase_quiet (h : LatQuiet (s.lat.get k) c) : s.applyPhase k c = s := by
  have hmine : ((s.lat.get k).buf.filter fun b => b.step == c) = [] := by simpa using h.buf
  have hrest : ((s.lat.get k).buf.filter fun b => b.step != c) = (s.lat.get k).buf := by simpa using h.buf
  have horder : s.coneOrder [] = [] := ite_self _
  unfold State.applyPhase
  dsimp only
  rw [hmine, horder, List.foldl_nil]
  exact State.latUpd_of_same (by rw [hrest])

theorem State.inboxSettle_empty (hlevel : s.inboxLevel k (s.lat.get k).resident = 0) (hcancels : (s.lat.get k).cancels = []) :
    s.inboxSettle k = s := by
  unfold State.inboxSettle
  dsimp only
  rw [hlevel, State.inboxMove, if_neg (not_not.mpr hlevel), hcancels, List.filter_nil, List.foldl_nil]
  exact State.latUpd_of_same (by rw [hcancels, List.filter_nil, ← hcancels])

/-! ### LATTICE_STEP (R271, R311) -/

/-- R271: a step behind the course: `c` is done. -/
def LatState.stepped (l : LatState) (c : Nat) : LatState := { l with run := none, ran := l.ran + 1, next := l.next.set l.resident (step24 c 1) }

theorem LatState.stepped_next (l : LatState) (c : Nat) : (l.stepped c).next.get l.resident = step24 c 1 := Vector.getElem_set_self ..

theorem LatQuiet.stepped {l : LatState} (h : LatQuiet l c) : LatQuiet (l.stepped c) c := ⟨h.inbox, h.cancels, h.ahead, h.buf⟩

section
variable {n : Nat} (hc : (s.lat.get k).next.get (s.lat.get k).resident = c) (hn : s.fld (PG.lat k) R.LAT_CTL 0 19 = n)
include hc hn

/-- R271: outside Cone mode a step with nothing to apply ends with its update phase. -/
theorem State.stepGo_passes (hphase : s.updatePhase k c n 0 = (none, u)) (hmode : u.mode ≠ 1) (hq : LatQuiet (u.lat.get k) c) :
    s.stepGo k 0 = u.latUpd k (LatState.stepped · c) := by
  have hstepped : LatQuiet ((u.latUpd k (LatState.stepped · c)).lat.get k) c := by
    rw [State.lat_latUpd_self]
    exact hq.stepped
  have hend : (u.latUpd k (LatState.stepped · c)).mode ≠ 1 := hmode
  unfold State.stepGo
  simp only [hc, hn, Nat.sub_zero, hphase, hmode, false_and, if_false]
  show (if (((u.latUpd k (LatState.stepped · c)).unpark k c).applyPhase k c).mode = 1 then _ else
    ((u.latUpd k (LatState.stepped · c)).unpark k c).applyPhase k c) = _
  rw [State.unpark_quiet hstepped, State.applyPhase_quiet hstepped, if_neg hend]

/-- R323: in Cone mode a step whose spikes have not all come waits behind its update phase. -/
theorem State.stepGo_waits (hphase : s.updatePhase k c n 0 = (none, s)) (hmode : s.mode = 1) (hready : s.coneReady k c = false)
    (hroom : (s.lat.get k).buf.length < 4096) :
    s.stepGo k 0 = s.latUpd k fun l => { l with run := some { slot := n, counted := false } } := by
  unfold State.stepGo
  simp [hc, hn, hphase, hmode, hready, hroom]

end

/-- R271, R307: where nothing waits for the step, what LATTICE_STEP leaves is what the step leaves. -/
theorem exec_latticeStep_of (h : s.latticeStep k = t) (hq : LatQuiet (t.lat.get k) c) (hkiln : OnlyKiln s t k) :
    exec (.latticeStep k) s = .next t := by
  rw [exec_latticeStep, execLatticeStep, h, State.inboxSettle_empty hq.inbox hq.cancels, ite_self, hkiln.ends]

theorem exec_latticeStep_halted (h : s.running (PG.lat k) = false) : exec (.latticeStep k) s = .next s := by
  have hstart : s.mayStart k = false := by simp [State.mayStart, h]
  have hstay : s.latticeStep k = s := by
    unfold State.latticeStep
    dsimp only
    split <;> simp [h, hstart]
  rw [exec_latticeStep, execLatticeStep, hstay]
  simp [h]

section
variable {n : Nat} (hc : (s.lat.get k).next.get (s.lat.get k).resident = c) (hn : s.fld (PG.lat k) R.LAT_CTL 0 19 = n)
  (hstart : s.mayStart k = true) (hrun : (s.lat.get k).run = none) (hfloor : sdiff 24 c ((s.lat.get k).floor.get (s.lat.get k).resident) ≤ 0)
include hc hstart hrun hfloor

/-- R312: a step not above the floor is not speculative. -/
theorem State.latticeStep_starts : s.latticeStep k = s.stepGo k 0 := by
  unfold State.latticeStep
  simp [hc, hrun, hstart, Int.not_lt.mpr hfloor]

include hn

/-- R271: the update phase over, the step's visits done, LATTICE_STEP leaves them and the course behind the step. -/
theorem exec_latticeStep_passes (hphase : s.updatePhase k c n 0 = (none, u)) (hkiln : OnlyKiln s u k) (hmode : s.mode ≠ 1)
    (hq : LatQuiet (u.lat.get k) c) : exec (.latticeStep k) s = .next (u.latUpd k (LatState.stepped · c)) := by
  have hmode' : u.mode ≠ 1 := hkiln.mode.symm ▸ hmode
  refine exec_latticeStep_of (c := c) ((State.latticeStep_starts hc hstart hrun hfloor).trans (State.stepGo_passes hc hn hphase hmode' hq))
    ?_ (onlyKiln_latUpd hkiln _)
  rw [State.lat_latUpd_self]
  exact hq.stepped

/-- R271, R272: where the update phase has made a visit, LATTICE_STEP leaves the memory and the registers that the visit leaves. -/
theorem exec_latticeStep_visits (hphase : s.updatePhase k c n 0 = (none, u)) (hvisit : OnlyVisit s u k) (hmode : s.mode ≠ 1)
    (hq : LatQuiet (s.lat.get k) c) : ∃ t, exec (.latticeStep k) s = .next t ∧
      (t.lat.get k).next.get (s.lat.get k).resident = step24 c 1 ∧ t.mem = u.mem ∧ t.regs = u.regs := by
  refine ⟨_, exec_latticeStep_passes hc hn hstart hrun hfloor hphase hvisit.kiln hmode (hvisit.quiet hq), ?_, rfl, rfl⟩
  rw [State.lat_latUpd_self, hvisit.lattice]
  exact LatState.stepped_next _ c

theorem exec_latticeStep_waits (hphase : s.updatePhase k c n 0 = (none, s)) (hmode : s.mode = 1) (hready : s.coneReady k c = false)
    (hroom : (s.lat.get k).buf.length < 4096) (hq : LatQuiet (s.lat.get k) c) : exec (.latticeStep k) s =
      .next (s.latUpd k fun l => { l with run := some { slot := n, counted := false } }) := by
  refine exec_latticeStep_of (c := c) ((State.latticeStep_starts hc hstart hrun hfloor).trans
    (State.stepGo_waits hc hn hphase hmode hready hroom)) ?_ (onlyKiln_latUpd (onlyKiln_refl s k) _)
  rw [State.lat_latUpd_self]
  exact ⟨hq.inbox, hq.cancels, hq.ahead, hq.buf⟩

end

/-! ### JOURNAL_FULL_WAIT (R315) -/

theorem exec_journalFullWait_counted (h : ∀ r, (s.lat.get k).run = some r → r.counted = true ∨ s.fld (PG.lat k) R.LAT_CTL 0 19 ≤ r.slot) :
    exec (.journalFullWait k) s = .next s := by
  have hstay : s.journalWait k = s := by
    unfold State.journalWait
    split
    · rfl
    next r hr =>
      have hor := h r hr
      exact if_pos (by simpa using hor)
  rw [exec_journalFullWait, execJournalFullWait, hstay, State.ends_self]

theorem exec_journalFullWait_counts {r : StepRun} (h : (s.lat.get k).run = some r) (hnew : r.counted = false)
    (hslot : r.slot < s.fld (PG.lat k) R.LAT_CTL 0 19) : exec (.journalFullWait k) s =
      .next ((s.bump (PG.lat k) R.LAT_SLIP_CNT1 32 16).latUpd k fun l => { l with run := some { r with counted := true } }) := by
  have hwait : ¬ (r.counted || decide (s.fld (PG.lat k) R.LAT_CTL 0 19 ≤ r.slot)) = true := by simp [hnew, hslot]
  rw [exec_journalFullWait, execJournalFullWait, State.journalWait, h]
  dsimp only
  rw [if_neg hwait]
  exact State.ends_of rfl rfl

/-! ### LEAK_SWEEP_VISIT (R281) -/

theorem exec_leakSweepVisit_empty (h : s.fld (PG.lat k) R.LAT_CTL 0 19 = 0) : exec (.leakSweepVisit k) s = .next s := by
  have hstay : s.leakVisit k = s := by simp [State.leakVisit, h]
  rw [exec_leakSweepVisit, execLeakSweepVisit, hstay, State.ends_self]

section
variable {n rd ext : Nat} (hn : s.fld (PG.lat k) R.LAT_CTL 0 19 = n) (hsome : n ≠ 0) (halive : s.alive (PG.lat k) = true)
  (hen : s.enabled (PG.lat k) = true) (hswap : (s.lat.get k).swap = none)
  (hread : (s.latUpd k fun x => { x with sweep := ((s.lat.get k).sweep % n + 1) % n }).neuronRead k ((s.lat.get k).sweep % n) = (some (rd, ext), u))
include hn hsome halive hen hswap hread

/-- R281: a visit rewrites a neuron with a valid set, 2^20 steps behind `f` and nothing in its slots. -/
theorem State.leakVisit_reads {f : Nat} (hf : step24 ((s.lat.get k).floor.get (s.lat.get k).resident) (-1) = f) : s.leakVisit k =
    if (u.pset k (nfld rd 48 8)).valid ∧ 2 ^ 20 ≤ sdiff 24 f (nfld rd 56 24) ∧ rd >>> 128 = 0 ∧ ext = 0 then
      u.neuronWrite k ((s.lat.get k).sweep % n) (leakRecord (u.pset k (nfld rd 48 8)) rd (f / 2 ^ 20 * 2 ^ 20), ext)
    else u := by
  unfold State.leakVisit
  have hgo : ¬ (false || decide False || false) = true := by decide
  simp only [hn, hsome, halive, hen, hswap, hread, hf, Option.isSome_none, Bool.and_self, Bool.not_true, if_neg hgo]

theorem exec_leakSweepVisit_young (hyoung : sdiff 24 (step24 ((s.lat.get k).floor.get (s.lat.get k).resident) (-1)) (nfld rd 56 24) < 2 ^ 20) :
    ∃ t, exec (.leakSweepVisit k) s = .next t ∧ t.mem = u.mem ∧ t.regs = u.regs := by
  have hstay := State.leakVisit_reads hn hsome halive hen hswap hread rfl
  rw [if_neg fun h => absurd h.2.1 (Int.not_le.mpr hyoung)] at hstay
  rw [exec_leakSweepVisit, execLeakSweepVisit, hstay]
  exact ⟨_, rfl, rfl, rfl⟩

theorem exec_leakSweepVisit_leaks {f : Nat} (hf : step24 ((s.lat.get k).floor.get (s.lat.get k).resident) (-1) = f)
    (hvalid : (u.pset k (nfld rd 48 8)).valid = true) (hold : 2 ^ 20 ≤ sdiff 24 f (nfld rd 56 24)) (hslots : rd >>> 128 = 0)
    (hext : ext = 0) (e : State)
    (he : u.neuronWrite k ((s.lat.get k).sweep % n) (leakRecord (u.pset k (nfld rd 48 8)) rd (f / 2 ^ 20 * 2 ^ 20), ext) = e) :
    ∃ t, exec (.leakSweepVisit k) s = .next t ∧ t.mem = e.mem ∧ t.regs = e.regs := by
  have hleak := State.leakVisit_reads hn hsome halive hen hswap hread hf
  rw [if_pos ⟨hvalid, hold, hslots, hext⟩, he] at hleak
  rw [exec_leakSweepVisit, execLeakSweepVisit, hleak]
  exact ⟨_, rfl, rfl, rfl⟩

end

/-! ### COURSE_SWAP and COURSE_SWAP_DONE (R287, R288, R307) -/

theorem exec_courseSwap_stays (h : s.maySwap k = false) : exec (.courseSwap k) s = .next s := by
  have hstay : s.courseSwap k = s := by simp [State.courseSwap, h]
  rw [exec_courseSwap, execCourseSwap, hstay, State.ends_self]

/-- R287: a swap starts behind the spikes put into the inbox and the regions saved. -/
theorem State.courseSwap_starts (h : s.maySwap k = true) : ∃ u, OnlyKiln s u k ∧ (u.lat.get k).buf = [] ∧
    s.courseSwap k = u.latUpd k fun x =>
      { x with swap := some (⟨((s.lat.get k).resident.val + 1) % max 1 (u.courses k) % 16, Nat.mod_lt _ (by decide)⟩, u.dtc) } := by
  have hgo : ¬ (!s.maySwap k) = true := by simp [h]
  have hput : OnlyKiln s ((s.coneOrder (s.lat.get k).buf).foldl (fun u b => u.inboxPut k (s.lat.get k).resident b) s) k :=
    foldl_keeps (OnlyKiln s · k) _ (fun _ b hu => onlyKiln_inboxPut hu _ b) _ _ (onlyKiln_refl s k)
  unfold State.courseSwap
  rw [if_neg hgo]
  have hsave : ∀ (v : State) (f : Nat × Nat × Nat → Nat) (l : List (Nat × Nat × Nat)),
      OnlyMem v (l.foldl (fun u r => u.copyWords r.1 (f r) (r.2.1 / 32)) v) := fun v f l =>
    foldl_keeps (OnlyMem v) _ (fun _ r hu => onlyMem_copyWords hu _ _ _) l v (onlyMem_refl v)
  refine ⟨_, onlyKiln_onlyMem (onlyKiln_latUpd hput _) (hsave _ _ _), ?_, rfl⟩
  rw [(hsave _ _ _).lat, State.lat_latUpd_self]

theorem exec_courseSwap_starts (h : s.maySwap k = true) : ∃ t e, exec (.courseSwap k) s = .next t ∧ (t.lat.get k).buf = [] ∧
    (t.lat.get k).swap = some (e, s.dtc) ∧ e.val = ((s.lat.get k).resident.val + 1) % max 1 (s.courses k) % 16 := by
  obtain ⟨u, hkiln, hbuf, hswap⟩ := State.courseSwap_starts h
  rw [exec_courseSwap, execCourseSwap, hswap, (onlyKiln_latUpd hkiln _).ends, ← hkiln.dtc, ← hkiln.courses]
  refine ⟨_, _, rfl, ?_, by rw [State.lat_latUpd_self], rfl⟩
  rw [State.lat_latUpd_self]
  exact hbuf

theorem exec_courseSwapDone_none (h : (s.lat.get k).swap = none) : exec (.courseSwapDone k) s = .next s := by
  rw [exec_courseSwapDone, execCourseSwapDone, State.courseSwapDone, h, State.ends_self]

/-- R287: the swap counted, and how long it took. -/
def State.swapCounted (s : State) (k : Fin 6) (t : Word) : State :=
  (s.bump (PG.kln k) R.KLN_SWAP_CNT 0 32).setFld (PG.kln k) R.KLN_SWAP_LAST 0 32 (min (2 ^ 32 - 1) (s.dtc - t).toNat)

theorem counted_swapCounted (h : t.reg (PG.kln k) R.KLN_SWAP_CNT = s.reg (PG.kln k) R.KLN_SWAP_CNT) (b : Word) :
    Counted s (t.swapCounted k b) (PG.kln k) R.KLN_SWAP_CNT 0 32 1 :=
  counted_of_reg (counted_bump h (by decide)) (State.reg_setFld_off _ (by decide))

/-- R287, R307: a swap ends behind the regions loaded, with the inbox of the incoming course. -/
theorem State.courseSwapDone_loads {e : Fin 16} {b : Word} (h : (s.lat.get k).swap = some (e, b)) : ∃ u, OnlyMem s u ∧
    s.courseSwapDone k =
      ((u.latUpd k fun l => { l with swap := none, resident := e, ran := 0, sweep := 0, skip := [] }).swapCounted k b).inboxSettle k := by
  have hload : ∀ (f : Nat × Nat × Nat → Nat) (l : List (Nat × Nat × Nat)),
      OnlyMem s (l.foldl (fun u r => u.copyWords (f r) r.1 (r.2.1 / 32)) s) := fun f l =>
    foldl_keeps (OnlyMem s) _ (fun _ r hu => onlyMem_copyWords hu _ _ _) l s (onlyMem_refl s)
  refine ⟨_, hload (fun r => (s.reg (PG.kln k) (R.CRS_SAVE e)).toNat + r.2.2) (s.crsRegions k e), ?_⟩
  rw [State.courseSwapDone, h]
  rfl

theorem exec_courseSwapDone_ends {e : Fin 16} {b : Word} (h : (s.lat.get k).swap = some (e, b)) (hinbox : s.inboxLevel k e = 0)
    (hcancels : (s.lat.get k).cancels = []) : ∃ t, exec (.courseSwapDone k) s = .next t ∧ (t.lat.get k).resident = e ∧
      (t.lat.get k).swap = none ∧ (t.lat.get k).ran = 0 ∧ Counted s t (PG.kln k) R.KLN_SWAP_CNT 0 32 1 := by
  obtain ⟨u, hmem, hdone⟩ := State.courseSwapDone_loads h
  have hcount : u.reg (PG.kln k) R.KLN_SWAP_CNT = s.reg (PG.kln k) R.KLN_SWAP_CNT :=
    (onlyKiln_onlyMem (onlyKiln_refl s k) hmem).reg_kln (by decide)
  have hlat : (((u.latUpd k fun l => { l with swap := none, resident := e, ran := 0, sweep := 0, skip := [] }).swapCounted k b).lat.get k) =
      { s.lat.get k with swap := none, resident := e, ran := 0, sweep := 0, skip := [] } := by
    rw [← hmem.lat]
    exact State.lat_latUpd_self u k _
  rw [State.inboxSettle_empty (by rw [State.inboxLevel, hlat]; exact hinbox) (by rw [hlat]; exact hcancels)] at hdone
  rw [exec_courseSwapDone, execCourseSwapDone, hdone]
  refine ⟨_, State.ends_of (by rw [hmem.rest]; rfl) (by rw [hmem.rest]; rfl), ?_, ?_, ?_, counted_swapCounted hcount b⟩ <;> rw [hlat]

end

/-- Settles O30: a step by the neurons scheduled, a visit of the leak sweep by the neuron's age, a swap by what it leaves waiting. When a Cone
step's spikes have all come (log 220), which step the leak sweep takes as committed (log 91) and when a kiln swaps (log 98) are the model's
choices. -/
theorem kilnStepsAndCourses : Obligations.KilnStepsAndCourses := by
  intro k s
  refine ⟨exec_latticeStep_halted, fun hstart hrun hquiet hfloor => ?_, exec_journalFullWait_counted, fun r hr hnew hslot => ?_,
    ⟨exec_leakSweepVisit_empty, fun hsome halive hen hswap rd ext hread => ?_⟩, exec_courseSwap_stays, exec_courseSwap_starts,
    exec_courseSwapDone_none, fun e b => exec_courseSwapDone_ends⟩
  · obtain ⟨hinbox, hcancels, hahead, hbuf⟩ := hquiet
    have hq : LatQuiet (s.lat.get k) _ := ⟨hinbox, hcancels, hahead, hbuf⟩
    refine ⟨fun hidle hmode => ?_, fun hidle hmode hready hroom => ?_, fun hone hsched hmode => ?_⟩
    · have hphase := State.updatePhase_idle hidle (Nat.zero_add _)
      refine ⟨_, exec_latticeStep_passes rfl rfl hstart hrun hfloor hphase (onlyKiln_refl s k) hmode hq, ?next, ?ran, ?run,
        fun j hj => State.lat_latUpd_ne s hj _, rfl⟩ <;> rw [State.lat_latUpd_self]
      case next => exact LatState.stepped_next _ _
      all_goals rfl
    · have hphase := State.updatePhase_idle hidle (Nat.zero_add _)
      refine ⟨_, exec_latticeStep_waits rfl rfl hstart hrun hfloor hphase hmode hready hroom hq, ?_, ?_, rfl⟩ <;>
        rw [State.lat_latUpd_self]
    · exact exec_latticeStep_visits rfl hone hstart hrun hfloor (State.updatePhase_one hsched hfloor) (onlyVisit_neuronVisit s k 0 _ false)
        hmode hq
  · have hcount : Counted s (s.bump (PG.lat k) R.LAT_SLIP_CNT1 32 16) (PG.lat k) R.LAT_SLIP_CNT1 32 16 1 := counted_bump rfl (by decide)
    have hkept : PageKept s (s.bump (PG.lat k) R.LAT_SLIP_CNT1 32 16) (PG.lat k) [R.LAT_SLIP_CNT1] :=
      pageKept_setReg (pageKept_refl s _ _) (by decide) (by decide) _
    exact ⟨_, exec_journalFullWait_counts hr hnew hslot, by rw [State.lat_latUpd_self], counted_of_reg hcount rfl, rfl,
      pageKept_of_regs hkept rfl⟩
  · have hvisit := Prod.fst_eq_iff.mp hread
    exact ⟨exec_leakSweepVisit_young rfl hsome halive hen hswap hvisit, fun hvalid hold hslots hext =>
      exec_leakSweepVisit_leaks rfl hsome halive hen hswap hvisit rfl hvalid hold hslots hext _ rfl⟩

end Sys2Proof.Machine
end
